-- ==== Sys2Proof/Word.lean ====
section
/-! DEFINITION. Words and bytes: the 32-bit register word of R4 and the byte, with the plainest arithmetic. -/

namespace Sys2Proof

/-- A register word (00_scope R4: every register is 32 bits wide). -/
abbrev Word := BitVec 32

/-- A byte. -/
abbrev Byte := BitVec 8

end Sys2Proof
end

