-- ==== Sys2Proof/Syntax.lean ====
section
/-! DEFINITION. The commands of the device: one constructor per row of spec/opcode_table.json, with its operands. -/

namespace Sys2Proof

/-- The three radios; their register indices are 0, 1, 2 (00_scope R15). -/
inductive Radio | h | m | l
deriving DecidableEq, Repr

/-- An initiator of register accesses, by the code of BUSERR_INFO.INIT (R45): 0..7 CC0..CC7, 8 the in-band host
agent, 9 the segmentation DMA, 10 JTAG debug. -/
abbrev Init := Fin 11

/-- The META sideband of a pound word (R24), field by field. -/
structure Meta where
  len : Nat := 0
  tag : Nat := 0
  inPort : Nat := 0
  fq : Nat := 0
  inDt : Nat := 0
  staIdx : Nat := 0
  tid : Nat := 0
  cause : Nat := 0
  dev : Bool := false
  tsReq : Bool := false
  cookie : Nat := 0
  egSub : Nat := 0
deriving DecidableEq, Repr

/-- A pound word (R23): its valid bytes (BYTES is their number), END, ABORT, FIRST and META. -/
structure PWord where
  data : List Byte
  last : Bool
  abort : Bool
  first : Bool
  info : Meta
deriving DecidableEq, Repr

/-- The five collectors (the collector table after R36). -/
inductive Collector | reorder | ingress | command | completion | tap
deriving DecidableEq, Repr

/-- What R111 finds only at the end word of a long frame. -/
inductive LateCause | ipLen | badFcs | oversize
deriving DecidableEq, Repr

/-- The registers of the spill region (R164). -/
inductive SpillReg | baseLo | baseHi | size
deriving DecidableEq, Repr

/-- MLD_ADDR and BSSID (R262). -/
inductive MldReg | mldLo | mldHi | bssidLo (x : Radio) | bssidHi (x : Radio)
deriving DecidableEq, Repr

/-- The registers of the reorder region (R245). -/
inductive RoReg | baseLo | baseHi | size
deriving DecidableEq, Repr

/-- The coefficients that a single-pair PHY adapts (R330): its echo canceller, its feed-forward and decision-feedback equalisers, and the
frequency of its timing loop. -/
structure EqCoefs where
  echo : List Int := []
  ffe : List Int := []
  dfe : List Int := []
  freq : Int := 0
deriving DecidableEq, Repr, Inhabited

/-- What an uplink's receiver lost (R355). -/
inductive UlLoss | blockLock | hiBer | sync | negotiation | linkWord
deriving DecidableEq, Repr

/-- What IEEE 802.11 and the air give an exchange that the device would begin, which the spec does not define
(notes/assumptions/77.md): for each user served, in order, the length in ns of a PPDU that carries 1, 2, … of its MPDUs; the
length in ns of the response the PPDU solicits, 0 for none; the gap after it and the length of a PPDU the exchange commits
the device to send later (R220); the DT since when energy detection finds every non-punctured subchannel idle (R302); the
format, width code, MCS and streams minus 1 of a PPDU whose entry does not name them; and, of a beacon, the ns from the PPDU's
start to its TIMESTAMP field (R192). -/
structure Airtime where
  lens : List (List Nat)
  resp : Nat
  later : Option (Nat × Nat)
  edFrom : Nat
  format : Nat
  bw : Nat
  mcs : Nat
  nss : Nat
  tsOff : Nat
deriving DecidableEq, Repr

/-- Who asks the transmit path (R270): the player, an EDCA function, or the MAC for an immediate response. -/
inductive TxSource | player | edca (ac : Fin 4) | mac
deriving DecidableEq, Repr

/-- The moves of the FEM lead-in (R282), in order. -/
inductive FemLine | blankOut | rxOff | txEn | paEn
deriving DecidableEq, Repr

/-- A coding that a SIG announces (R299). -/
inductive Coding | bcc | ldpc | other
deriving DecidableEq, Repr

/-- What a valid SIG announces (R299, R303): the format by the codes of LAST_Q0.FORMAT, larger numbers for any other; the width
code; MCS; streams minus 1; the coding; whether the PPDU is beamformed (R308); whether it announces a feature of the table's
last column; and its length in ns. -/
structure SigInfo where
  format : Nat
  bw : Nat
  mcs : Nat
  nss : Nat
  coding : Coding
  beamformed : Bool
  excluded : Bool
  lenNs : Nat
deriving DecidableEq, Repr

/-- The outcome of a SIG check (R303). -/
inductive SigOutcome
  | valid (sig : SigInfo)
  | fail
deriving DecidableEq, Repr

/-- A complex number with exact parts, in units of the receiver's samples (R308 to R310). -/
structure Cplx where
  re : Rat
  im : Rat
deriving DecidableEq, Repr, Inhabited

/-- The long training fields of a PPDU at one sub-carrier of a resource unit (R308): for each receive chain its received
symbols, divided by the value that IEEE 802.11 gives the sub-carrier; and for each chain the two repeated symbols of the legacy LTF,
or of LTF1 on Radio L. -/
structure LtfTone where
  ltf : List (List Cplx)
  pair : List (Cplx × Cplx)
deriving DecidableEq, Repr

/-- The long training fields of a PPDU (R308): its resource units, each as the number of its first sub-carrier and its sub-carriers in
ascending order without a gap, a unit that a punctured subchannel divides as its parts; and the carrier offset found in them, in
0.01 ppm. -/
structure LtfObs where
  units : List (Nat × List LtfTone)
  cfo : Int
deriving DecidableEq, Repr

/-- A data symbol of a PPDU (R309, R310): for each resource unit the received vectors of its data sub-carriers and of its pilots, each with
the sub-carrier's number; and the midamble that precedes it, if any (R308). -/
structure SymObs where
  data : List (List (Nat × List Cplx))
  pilots : List (List (Nat × List Cplx))
  midamble : Option LtfObs
deriving DecidableEq, Repr

/-- The figures of one user of a PPDU (R313), which for other than a TB PPDU are the PPDU's own. -/
structure RxUser where
  rssi : BitVec 12
  evm : BitVec 8
  mcs : BitVec 4
  nss : BitVec 2
deriving DecidableEq, Repr

/-- The measures of R312 for a PPDU: its RSSI and EVM, its users in order, delimiters with a CRC error; its data symbols; and for
each LDPC codeword the iterations after which every parity check is met (R311). -/
structure RxReport where
  rssi : BitVec 12
  evm : BitVec 8
  users : List RxUser
  delimErr : Nat
  aggregated : Bool
  syms : List SymObs
  words : List Nat
deriving DecidableEq, Repr

/-- A block acknowledgement of one space (0 to 7 a TID, 8 NONQOS, 9 MGMT): its starting sequence number and bitmap. -/
structure BaRec where
  space : Fin 10
  ssn : BitVec 12
  bits : List Bool
deriving DecidableEq, Repr

/-- The control frames of R237. -/
inductive CtrlKind
  | ack
  | blockAck (recs : List BaRec)
  | bar (tid : Fin 8) (ssn : BitVec 12)
  | rts
  | psPoll
  | cfEnd
  | trigger
  | other
deriving DecidableEq, Repr

/-- The kind of an MPDU: data, management, a beacon with its Timestamp and interval (R254), or control. -/
inductive MpduKind
  | data
  | mgmt
  | beacon (timestampUs : Nat) (intervalUs : Nat)
  | ctrl (k : CtrlKind)
deriving DecidableEq, Repr

/-- A queue size that a frame reports, in units of 256 bytes (R196): of the frame's own TID in the QoS Control field, or of all TIDs in
a BSR field. -/
inductive QueueReport
  | qos (units : Nat)
  | bsr (units : Nat)
deriving DecidableEq, Repr

/-- A received MPDU, as deaggregation and the 802.11 header give it: its user in the PPDU, its addresses with their first byte in
bits [7:0], its header's fields, and the payload: the body of a data frame, decrypted, or the MPDU without FCS of a management
frame, decrypted. Decryption itself is not defined by the spec: `micOk` is its outcome. -/
structure Mpdu where
  fcsOk : Bool
  user : Nat
  kind : MpduKind
  ra : BitVec 48
  ta : BitVec 48
  a3 : BitVec 48
  a4 : BitVec 48
  toDs : Bool
  fromDs : Bool
  qos : Bool
  tid : Fin 8
  sn : BitVec 12
  fragment : Bool
  retry : Bool
  pm : Bool
  prot : Bool
  keyId : Fin 6
  pn : Nat
  micOk : Bool
  amsdu : Bool
  noAck : Bool
  durationNs : Nat
  queueSize : Option QueueReport
  payload : List Byte
deriving DecidableEq, Repr

/-- A reflection of a cable measurement (R339). -/
structure Reflection where
  dist : BitVec 16
  amp : BitVec 8
  typ : Fin 4
deriving DecidableEq, Repr

/-- What the SEC-DED code finds in a line (R386). -/
inductive Ecc
  | ok
  | ce (bit : Fin 40)
  | ue
deriving DecidableEq, Repr

/-- The measured drift of a lane's read DQS phase (R398). -/
inductive LaneMove | stay | up | down
deriving DecidableEq, Repr

/-- The fate of a timed CPU-port frame (R411). -/
inductive TxFate | sent | tsLost | invFcs | linkDown | noTs | dropped | secDrop
deriving DecidableEq, Repr

/-- What the gauge house's boot ROM finds in its flash (R434). -/
structure GhImage where
  image : List Byte
  sig : List Byte
  otpCrcOk : Bool
  layoutOk : Bool
  logCap : Nat
  keys : Option (List Byte × List Byte)
  page : Option (List Byte)
deriving DecidableEq, Repr

/-- The two pins of a differential input of a load-cell channel over a decimation window, in nV against VSS (R449, R450): GH_LCc_P and
GH_LCc_N with the converter's noise, or GH_SENSc_P and GH_SENSc_N. -/
structure LcPair where
  p : Int
  n : Int
deriving DecidableEq, Repr

/-- The errors that put the gauge house in FAULT (R433). -/
inductive GhCause | sramUe | flash | engine
deriving DecidableEq, Repr

/-- A bit of SUPPLY_STAT: LOW of a monitored rail, in the bit order of the field table, or THERM_WARN (R513, R514). -/
inductive SupplyBit
  | low (rail : Fin 11)
  | thermWarn
deriving DecidableEq, Repr

/-- What the boot ROM reads of one flash copy (R455): whether DQS answers, the 256-byte header, and the firmware. -/
structure FlashCopy where
  readable : Bool
  header : List Byte
  fw : List Byte
deriving DecidableEq, Repr

/-- A wake event (R476, R477). -/
inductive WakeCause | rtcAlarm | wakeN | task | irq | debug
deriving DecidableEq, Repr

/-- What the replay engine drains from an egress pound (R505), or a firmware write it compares (R506). -/
inductive Drain
  | frame (port : Fin 72) (bytes : List Byte)
  | write (addr : Nat) (data : Word)
deriving DecidableEq, Repr

/-- A BLANK_IN pin that fell, and the DT at which it fell (R292). -/
structure PinFall where
  pin : Fin 4
  fell : Nat
deriving DecidableEq, Repr

/-- A short training field found (R301, R320): since when its autocorrelation has been at PD_THR, and its power in 1/4 dBm. -/
structure Preamble where
  since : Nat
  power : BitVec 12
deriving DecidableEq, Repr

/-- The timing of the long training fields (R306), as their arrival at the ADC, and what was received of them (R308). -/
structure LtfFound where
  arrival : Nat
  ltf : LtfObs
deriving DecidableEq, Repr

/-- A stall port whose receiver has been out of lock for `lost` ns, frozen time not counted, or whose link monitor fails (R328). -/
structure StallDown where
  n : Fin 64
  lost : Option Nat
deriving DecidableEq, Repr

/-- An impulse at a stall port (R332): the least slicer error of three consecutive symbols, as a fraction of the spacing of the PAM3
levels. -/
structure Impulse where
  n : Fin 64
  err : Rat
deriving DecidableEq, Repr

/-- A stall port whose fence sources have been inactive since the DT `quiet` (R332, R333). -/
structure FenceRest where
  n : Fin 64
  quiet : Nat
deriving DecidableEq, Repr

/-- An uplink, what its receiver lost, and for how long in ns (R355). -/
structure UlDown where
  u : Fin 2
  cause : UlLoss
  lost : Nat
deriving DecidableEq, Repr

/-- A loss of the gauge house's power (R17, R433): its DT, and whether VDD_GH is absent or present below its reset threshold. -/
structure GhLoss where
  time : Nat
  absent : Bool
deriving DecidableEq, Repr

/-- A write that programs OTP words (R458, R460, R462): who writes, and whether the words pass their verify. -/
structure FuseWrite where
  init : Init
  verifyOk : Bool
deriving DecidableEq, Repr

/-- The commands. `time` is the DT, in ns, at which the command takes place (notes/assumptions/2.md): a command whose `time`
lies behind DT acts at DT. Each constructor's text gives its row of the table and the rule that governs it. -/
inductive Instr
  /-- REGISTER_WRITE (R6): A 32-bit write to a register field that has no row of its own sets RW fields,
  triggers WO actions, or is refused with an error response. -/
  | registerWrite (time : Nat) (init : Init) (size : Nat) (addr : Nat) (data : Word)
  /-- W1C_CLEAR (R31): Writing 1 to a W1C flag clears it, unless hardware sets it again in the same cycle. -/
  | w1cClear (time : Nat) (init : Init) (addr : Nat) (data hw : Word)
  /-- COUNTER_LO_READ (R9): A read of the LO half of a 48-bit counter returns bits [31:0] and latches bits
  [47:32] into the snapshot. -/
  | counterLoRead (time : Nat) (init : Init) (addr : Nat) (inc : Nat)
  /-- COUNTER_HI_WRITE (R11): A write to the HI half of a 48-bit counter loads the holding register. -/
  | counterHiWrite (time : Nat) (init : Init) (addr : Nat) (data : Word)
  /-- COUNTER_LO_WRITE (R11): A write to LO loads all 48 bits from the LO data and the holding register, then
  resets the holding register to 0. -/
  | counterLoWrite (time : Nat) (init : Init) (addr : Nat) (data : Word) (inc : Nat)
  /-- RC_READ (R12): A read of a clear-on-read field returns its value and clears it, and an event counted in
  the same cycle goes to the next interval. -/
  | rcRead (time : Nat) (init : Init) (addr : Nat) (inc : Nat)
  /-- ISLAND_RESET_HOLD (R37): Writing RST_HOLD = 1 closes the island's pounds within 200 ns, then asserts its
  reset and stops its clock. -/
  | islandResetHold (time : Nat) (init : Init) (i : Fin 22)
  /-- ISLAND_RESET_RELEASE (R37): Writing RST_HOLD = 0 releases the island's reset and restarts its clock, and
  the island begins initialising. -/
  | islandResetRelease (time : Nat) (init : Init) (i : Fin 22)
  /-- ISLAND_READY (R37): An island reports ready: its pounds reopen (unless GRAFT holds them), ISL_RSTCNT
  increments and ISL_EVENT is set. -/
  | islandReady (time : Nat) (i : Fin 22)
  /-- ISLAND_FORCE_OFF (R531): Writing FORCE_OFF = 1 closes the island's pounds and opens its power switch. -/
  | islandForceOff (time : Nat) (init : Init) (i : Fin 22)
  /-- ISLAND_POWER_UP (R531): Clearing FORCE_OFF powers the island up, so that it initialises, or stays in reset
  while RST_HOLD is 1. -/
  | islandPowerUp (time : Nat) (init : Init) (i : Fin 22)
  /-- GRAFT_CLEAR (R41): Clearing GRAFT after ready reopens the island's pounds, and its players rejoin. -/
  | graftClear (time : Nat) (init : Init) (i : Fin 22)
  /-- POUND_WORD_WRITE (R21): A writer puts one word into a pound with room, and the write-side level rises by
  one. -/
  | poundWordWrite (time : Nat) (p : Fin 54) (w : PWord)
  /-- POUND_WORD_READABLE (R22): A written word becomes readable on the read side, and an end word raises the
  packet count and the per-packet notice. -/
  | poundWordReadable (time : Nat) (p : Fin 54)
  /-- POUND_WORD_READ (R21): A reader takes a word from a pound; the write-side level falls as the synchronised
  read pointer shows it, and an ABORT end word discards the packet. -/
  | poundWordRead (time : Nat) (p : Fin 54)
  /-- PND_MARK_WRITE (R30): A write to PND_CFG.MARK updates WM_LIVE at once and never counts as a crossing. -/
  | pndMarkWrite (time : Nat) (init : Init) (p : Fin 54) (data : Word)
  /-- COLLECTOR_ACCEPT (R34): A collector accepts a waiting result from a source in its fixed rotation. -/
  | collectorAccept (time : Nat) (c : Collector)
  /-- LOAD_CMD_START (R95): LOAD_CMD start makes the address, length, slot and page checks, retires draining
  slots if needed, and begins fetching into a LOADING slot. -/
  | loadCmdStart (time : Nat) (init : Init)
  /-- LOAD_DONE (R78): The image fetch finishes its ordered checks, and the slot becomes READY with LOAD_DONE,
  or FREE with LOAD_ERR. -/
  | loadDone (time : Nat)
  /-- LOAD_DRAM_ERROR (R95): An error response on DRAM port 7 during a load ends it with error DRAM and frees
  the slot. -/
  | loadDramError (time : Nat)
  /-- LOAD_ABORT (R95): LOAD_CMD abort ends the load in progress with ABORTED. -/
  | loadAbort (time : Nat) (init : Init)
  /-- ARM (R78): ARM_CMD ARM arms a READY slot for a target boundary, or for a later one with GEN_LATE, or for
  the next with NEXT. -/
  | arm (time : Nat) (init : Init) (slot : Fin 4) (next : Bool)
  /-- DISARM (R78): ARM_CMD DISARM returns an ARMED slot to READY before its arming time, and is refused with
  LOCKED after it. -/
  | disarm (time : Nat) (init : Init) (slot : Fin 4)
  /-- DISCARD (R78): ARM_CMD DISCARD frees a READY slot, or an ARMED one before its arming time, and is refused
  with LOCKED after it. -/
  | discard (time : Nat) (init : Init) (slot : Fin 4)
  /-- ARMING_TIME (R80): At the arming time the armed slot is checked and locked and players load their first
  entries, or the swap is cancelled on a table-store error. -/
  | armingTime (time : Nat) (tableError : Bool)
  /-- BOUNDARY_ANNOUNCE (R60): The timebase sends players an announce 1 µs before each round boundary. -/
  | boundaryAnnounce (time : Nat)
  /-- ROUND_BOUNDARY (R58): At each round boundary ROUND_IDX increments, the names bitmap clears, and an armed
  generation swaps in. -/
  | roundBoundary (time : Nat)
  /-- LOCK_HANDOVER (R91): At a port's hand-over instant its new lock schedule starts, and the old slot's HELD
  is released. -/
  | lockHandover (time : Nat) (p : Fin 66)
  /-- FREED (R78): Within 1 µs of SLOT_REF and HELD both reaching 0, a draining slot becomes FREE. -/
  | freed (time : Nat) (slot : Fin 4)
  /-- GATE_INTERVAL_START (R49): A wired player starts the next gate entry of its lock schedule and opens or
  closes its gates. -/
  | gateIntervalStart (time : Nat) (p : Fin 66)
  /-- PAGE_QRY (R535): A write to PAGE_QRY names a slot page, and PAGE_LOC returns where it lies in the table
  store. -/
  | pageQry (time : Nat) (init : Init) (data : Word)
  /-- TABLE_SCRUB_PASS (R486): With SCRUB_EN set, GEN re-reads resident tables and checks their CRCs, raising
  GEN_CORRUPT on an error. -/
  | tableScrubPass (time : Nat) (err : Option (Fin 4 × Fin 768))
  /-- INGRESS_ACCEPT (R98): The ingress collector accepts a frame once its end word or MAX_BYTES is in the
  pound, stamping tag, reference and sequence number, or drops it with no generation. -/
  | ingressAccept (time : Nat)
  /-- ENGINE_DISPATCH (R100): The dispatcher hands the next frame to the next parser engine in strict rotation,
  waiting for it if it is busy. -/
  | engineDispatch (time : Nat)
  /-- PARSE_DONE (R107): A parser engine finishes walking the parse graph with verdict OK, DEEP or MALFORMED,
  and builds the key. -/
  | parseDone (time : Nat) (e : Fin 8)
  /-- CLASSIFY_DONE (R115): The decision-table walk over PD29 and PD30 returns an action for the frame. -/
  | classifyDone (time : Nat) (e : Fin 8)
  /-- REORDER_RELEASE (R101): The reorder collector releases a result in per-port sequence order, and the
  action, stream filter, rewrite, route and NAT are applied. -/
  | reorderRelease (time : Nat)
  /-- PIPELINE_HANDOFF (R102): The frame's first word is written to PD28, copies are made, and the GAUGE copy
  goes to PD32 or recirculation is admitted; the pipeline stalls while PD28 is full. -/
  | pipelineHandoff (time : Nat)
  /-- LATE_CONTRADICTION (R111): A contradiction found at the end word of a long frame ends it and all its
  copies on PD28 with ABORT = 1. -/
  | lateContradiction (time : Nat) (fid : Nat) (c : LateCause)
  /-- NAT_INSERT (R133): NAT_CMD INSERT enters both keys of a session or neither. -/
  | natInsert (time : Nat) (init : Init)
  /-- NAT_REMOVE (R133): NAT_CMD REMOVE removes the session SESSION. -/
  | natRemove (time : Nat) (init : Init)
  /-- NAT_READ (R133): NAT_CMD READ copies session SESSION into the key and translation registers. -/
  | natRead (time : Nat) (init : Init)
  /-- NAT_DONE (R133): A session command completes within 1 µs, setting its RESULT and NAT_DONE. -/
  | natDone (time : Nat)
  /-- NAT_AGE_VISIT (R134): Ageing visits a session, and removes it into the expiry ring once its idle time has
  reached IDLE_S. -/
  | natAgeVisit (time : Nat) (ses : Fin 65536)
  /-- NAT_EXP_TAIL_WRITE (R135): Advancing NAT_EXP_TAIL frees ring entries and resumes stalled ageing. -/
  | natExpTailWrite (time : Nat) (init : Init) (data : Word)
  /-- NAT_SEED_WRITE (R141): A write to NAT_SEED takes effect only while NAT_COUNT is 0. -/
  | natSeedWrite (time : Nat) (init : Init) (data : Word)
  /-- TM_ADMIT (R154): When a frame's FIRST word is readable on PD28, the traffic manager tests the admission
  conditions and places the frame on chip, spills it, or drops it. -/
  | tmAdmit (time : Nat)
  /-- TM_END_WORD (R157): A frame's end word arrives on PD28: unused cells are returned, or an ABORT discards
  the frame or passes the abort to its egress pound. -/
  | tmEndWord (time : Nat) (fid : Nat)
  /-- GH_RECORD_TAKE (R158): The traffic manager takes a gauge-house record from PD31 once it could admit it on
  GH_FQ, and stamps its tag. -/
  | ghRecordTake (time : Nat)
  /-- SPILL_WRITE_DONE (R160): A spilled frame's end word is written to DRAM, and the frame becomes eligible. -/
  | spillWriteDone (time : Nat) (fid : Nat)
  /-- SPILL_FETCH (R162): A spilled frame among the first four of its queue is fetched into the fetch pool once
  there is room. -/
  | spillFetch (time : Nat) (fq : Fin 32768)
  /-- SPILL_FETCH_DONE (R162): A spilled frame becomes complete in the fetch pool, or a read error drops it with
  DROP_DRAM. -/
  | spillFetchDone (time : Nat) (fid : Nat) (ok : Bool)
  /-- PORT_SELECT (R167): A port selects its next frame through its five-level subtree once its previous frame's
  last word has entered the egress pound. -/
  | portSelect (time : Nat) (p : Fin 72)
  /-- FRAME_EGRESS_COMPLETE (R150): A frame's last word enters its egress pound: every bucket on its path is
  charged, it is counted, and its reference is released. -/
  | frameEgressComplete (time : Nat) (p : Fin 72)
  /-- TM_REQUEST (R173): A radio player asks for a station's traffic, and the traffic manager answers with
  reserved bytes or EMPTY within 400 ns. -/
  | tmRequest (time : Nat) (x : Radio) (sta : Fin 4096) (limit : Nat)
  /-- BKT_LEVEL_READ (R148): A read of BKT_LEVEL refills the selected bucket to the read's DT and returns its
  level. -/
  | bktLevelRead (time : Nat) (init : Init)
  /-- SPILL_CONFIG_WRITE (R164): Writes to SPILL_BASE and SPILL_SIZE take effect only while SPILL_USED is 0. -/
  | spillConfigWrite (time : Nat) (init : Init) (r : SpillReg) (data : Word)
  /-- AIR_ENTRY_FIRE (R181): An air entry fires in a selected round; checks 1 to 4 are made and its stations
  named, or the entry is forfeited. -/
  | airEntryFire (time : Nat) (x : Radio) (entry : Fin 4096)
  /-- AIR_ENTRY_END (R175): At the end of an entry, reserved frames that have not entered the egress pound
  return to the heads of their queues. -/
  | airEntryEnd (time : Nat) (x : Radio)
  /-- EXCHANGE_START (R182): Before each exchange the device begins, checks 5 to 8 are made, and the exchange
  starts or is refused. -/
  | exchangeStart (time : Nat) (x : Radio) (air : Airtime)
  /-- RAW_SLOT_START (R201): A restricted access window slot begins; the device sends its station's frames and
  then receives. -/
  | rawSlotStart (time : Nat) (slot : Nat) (air : Airtime)
  /-- EDCA_ACCESS (R203): An EDCA function's backoff expires in a CONTEND entry, and it takes access or is
  refused. -/
  | edcaAccess (time : Nat) (x : Radio) (ac : Fin 4) (air : Airtime)
  /-- CAL_STEP_END (R277): A calibration step ends; the next fitting step starts, and a completed mandatory set
  clears MAND. -/
  | calStepEnd (time : Nat) (x : Radio)
  /-- LISTEN_WINDOW_OPEN (R210): A LISTEN window opens at the position computed from the station's record. -/
  | listenWindowOpen (time : Nat) (x : Radio)
  /-- LISTEN_MISS (R214): A window closes without a hit: SPAN grows, and misses lead to REACQ and to LOST. -/
  | listenMiss (time : Nat) (x : Radio)
  /-- ASR_WRITE (R217): ASR_CMD WRITE installs the staged words into a station record, deferred while its window
  is open. -/
  | asrWrite (time : Nat) (init : Init) (x : Radio) (a : Fin 4096)
  /-- ASR_RESET (R217): ASR_CMD RESET puts a station record into its reset state, deferred while its window is
  open. -/
  | asrReset (time : Nat) (init : Init) (x : Radio) (a : Fin 4096)
  /-- ASR_READ (R217): ASR_CMD READ copies a station record into ASR_STAGE, deferred while its window is open. -/
  | asrRead (time : Nat) (init : Init) (x : Radio) (a : Fin 4096)
  /-- ASR_CMD_DEFERRED_APPLY (R217): A deferred record command acts once the window has closed and its response
  is settled. -/
  | asrCmdDeferredApply (time : Nat) (x : Radio)
  /-- DUTY_BIN_ROLL (R219): At each whole second every band record drops its oldest bin and starts an empty one. -/
  | dutyBinRoll (time : Nat)
  /-- BAND_LIMIT_WRITE (R226): A write to BAND_LIMIT stores at most BAND_CAP and applies to the next test. -/
  | bandLimitWrite (time : Nat) (init : Init) (b : Fin 16) (data : Word)
  /-- STA_WRITE (R230): STA_CMD WRITE installs, updates, reinstalls or removes an association entry, after field
  and address checks. -/
  | staWrite (time : Nat) (init : Init) (a : Fin 4096)
  /-- STA_REMOVE (R231): STA_CMD REMOVE discards held frames, empties key slots, and removes the entry's
  addresses. -/
  | staRemove (time : Nat) (init : Init) (a : Fin 4096)
  /-- STA_READ (R227): STA_CMD READ copies an entry into the staging registers. -/
  | staRead (time : Nat) (init : Init) (a : Fin 4096)
  /-- STA_READ_TID (R227): STA_CMD READ_TID copies one sequence space's state into TID_STAGE. -/
  | staReadTid (time : Nat) (init : Init) (a : Fin 4096) (space : Fin 16) (kid : Bool)
  /-- ADDR_SEED_WRITE (R229): A write to ADDR_SEED takes effect only while VALID_COUNT is 0. -/
  | addrSeedWrite (time : Nat) (init : Init) (data : Word)
  /-- MLD_BSSID_WRITE (R262): Writes to MLD_ADDR and BSSID take effect only while VALID_COUNT is 0. -/
  | mldBssidWrite (time : Nat) (init : Init) (r : MldReg) (data : Word)
  /-- REORDER_TIMEOUT (R243): A held frame that has waited RO_TO is released with its following run, and holes
  are counted under FLUSH. -/
  | reorderTimeout (time : Nat) (a : Fin 4096) (tid : Fin 8)
  /-- RO_REGION_WRITE (R245): Writes to RO_BASE and RO_SIZE take effect only while RO_USED is 0. -/
  | roRegionWrite (time : Nat) (init : Init) (r : RoReg) (data : Word)
  /-- IMMEDIATE_RESPONSE (R238): SIFS after a soliciting PPDU, the device sends an Ack, BlockAck, multi-STA
  BlockAck or CTS, subject to R273. -/
  | immediateResponse (time : Nat) (x : Radio) (air : Airtime)
  /-- RESPONSE_TIMEOUT (R241): No response arrives within the timeout: the PPDU is unanswered, FAIL increments,
  and MPDUs await retransmission or are discarded. -/
  | responseTimeout (time : Nat) (x : Radio) (a : Fin 4096)
  /-- KEY_CMD (R247): KEY_CMD installs or empties the key slot that KEY_CTRL names, setting its counters. -/
  | keyCmd (time : Nat) (init : Init) (data : Word)
  /-- PARENT_TBTT_DEADLINE (R254): DT passes TBTT + PBCN_LATE with the TBTT unmet: a miss or a skip, and three
  misses declare the parent link lost. -/
  | parentTbttDeadline (time : Nat) (x : Radio)
  /-- PARENT_LOSS_CLEAR (R256): Firmware writing 1 to PARENT_x clears the loss as a restoration would. -/
  | parentLossClear (time : Nat) (init : Init) (data : Word)
  /-- LOSS_SW_WRITE (R257): A write to LOSS_SW changes the software loss bits and triggers re-evaluation. -/
  | lossSwWrite (time : Nat) (init : Init) (data : Word)
  /-- UPLINK_RESTORE_TIMER (R257): An uplink that has been up for RESTORE.UL_MS clears its LOSS_STATE bit. -/
  | uplinkRestoreTimer (time : Nat) (u : Fin 2)
  /-- FALLBACK_EVAL (R259): Within 50 µs of a change, the fallback table is re-evaluated to give effective
  parents, and a FALLBACK event is written. -/
  | fallbackEval (time : Nat)
  /-- SYNTH_TUNE_REQUEST (R266): The player asks the synthesiser to retune before an entry on a different
  channel, or wakes it from OFF. -/
  | synthTuneRequest (time : Nat) (x : Radio) (chan : Fin 16)
  /-- SYNTH_WARM_DONE (R269): After 8 µs in WARM, the synthesiser closes its loop and enters SETTLE. -/
  | synthWarmDone (time : Nat) (x : Radio)
  /-- SYNTH_LOCK (R269): Lock is declared and the synthesiser enters LOCKED. -/
  | synthLock (time : Nat) (x : Radio)
  /-- SYNTH_SETTLE_TIMEOUT (R269): 100 µs in SETTLE without lock enters FAULT and raises SYNTH_UNLOCK. -/
  | synthSettleTimeout (time : Nat) (x : Radio)
  /-- SYNTH_UNLOCK (R269): Unlock in LOCKED returns the synthesiser to SETTLE and ends a PPDU in progress. -/
  | synthUnlock (time : Nat) (x : Radio)
  /-- SYNTH_FAULT_RESTART (R269): After 10 µs in FAULT, the synthesiser restarts in WARM. -/
  | synthFaultRestart (time : Nat) (x : Radio)
  /-- BG_CAL_STEP_START (R278): In a CONTEND entry with the medium idle for BG_IDLE and nothing ready, a
  background RXDC step starts on one chain. -/
  | bgCalStepStart (time : Nat) (x : Radio) (chain : Fin 4)
  /-- TX_REQUEST (R270): A transmit request is refused, held, waits for a step, or enters LEAD with checks 5 to
  8. -/
  | txRequest (time : Nat) (x : Radio) (src : TxSource) (air : Airtime)
  /-- TX_HOLD_EXPIRE (R270): HOLD_NS passes, or the entry ends, without lock: the request is refused with
  SYNTH_NOT_READY and the entry forfeited. -/
  | txHoldExpire (time : Nat) (x : Radio)
  /-- FEM_LEAD_IN (R282): At T0 − BO_LEAD the FEM lead-in begins: BLANK_OUT, RXEN, TXEN and PAEN move in order. -/
  | femLeadIn (time : Nat) (x : Radio) (line : FemLine)
  /-- TX_START (R270): At T0 the first sample leaves the DAC and the transmit path enters ON. -/
  | txStart (time : Nat) (x : Radio)
  /-- TX_LAST_SAMPLE (R270): The last sample is sent: TAIL begins, the FEM tail-out runs, and the ledger is
  charged for the actual PA time. -/
  | txLastSample (time : Nat) (x : Radio) (codes : List (Nat × Nat))
  /-- TX_TIMEOUT (R296): PA enable time reaches MAX_TX_US: PA enable is dropped at once and TX_TIMEOUT is
  counted. -/
  | txTimeout (time : Nat) (x : Radio)
  /-- TX_TAIL_END (R270): 1.6 µs after the last sample, the receive path is restored and a tuner trial may be
  applied. -/
  | txTailEnd (time : Nat) (x : Radio)
  /-- TUNER_WRITE (R286): At the next write opportunity, the device shifts a 16-bit word to a chain's tuner over
  the three-wire bus. -/
  | tunerWrite (time : Nat) (c : Fin 2)
  /-- TUNER_REG_WRITE (R287): A write to TUNER[c] is applied at the next opportunity, or becomes the search's
  starting point. -/
  | tunerRegWrite (time : Nat) (init : Init) (x : Radio) (c : Fin 2) (data : Word)
  /-- TEMP_SAMPLE (R279): Every 1 ms the die temperature is read into TEMP, and a mandatory calibration is
  raised on a threshold crossing. -/
  | tempSample (time : Nat) (x : Radio) (temp : BitVec 12)
  /-- FEM_TIMING_WRITE (R283): A write to FEM_TIMING that breaks the lead ordering is ignored. -/
  | femTimingWrite (time : Nat) (init : Init) (x : Radio) (data : Word)
  /-- BLANK_IN_ASSERT (R292): A BLANK_IN pin asserts: starts are prevented, and in ABORT mode a PPDU in ON is
  ended within 500 ns. -/
  | blankInAssert (time : Nat) (pin : Fin 4)
  /-- BLANK_IN_RELEASE (R292): 100 ns + HOLD after a BLANK_IN deassertion, starts are allowed again. -/
  | blankInRelease (time : Nat) (fall : PinFall)
  /-- BLANK_WINDOW_FIRE (R290): A blanking-plan window fires in its round and prevents starts on the radios it
  names. -/
  | blankWindowFire (time : Nat) (w : Fin 64)
  /-- MODEM_ARM (R303): 1 µs after the receive path enters LISTEN, the modem is armed in IDLE. -/
  | modemArm (time : Nat) (x : Radio)
  /-- PREAMBLE_DETECT (R301): Short-training autocorrelation at or above PD_THR over the detection window:
  DETECT, REF measured. -/
  | preambleDetect (time : Nat) (x : Radio) (found : Preamble)
  /-- LTF_TIMING (R306): LTF timing is found, the timestamp fixed, the channel estimated, and the modem enters
  SIG. -/
  | ltfTiming (time : Nat) (x : Radio) (found : LtfFound)
  /-- DETECT_TIMEOUT (R303): No LTF timing within 16 µs or 360 µs of detection: back to IDLE with PD_FALSE. -/
  | detectTimeout (time : Nat) (x : Radio)
  /-- SIG_CHECK (R303): The SIG check ends: the reception goes to UNCONF, or is UNSUPPORTED and marks the medium
  busy, or fails. -/
  | sigCheck (time : Nat) (x : Radio) (out : SigOutcome)
  /-- RX_CONFIRM (R304): The first delimiter CRC or the first LDPC codeword passes, and the reception enters
  DATA. -/
  | rxConfirm (time : Nat) (x : Radio)
  /-- FRESH_PREAMBLE (R303): A fresh preamble above threshold drops the reception as a restart, false SIG or
  capture, and detects anew. -/
  | freshPreamble (time : Nat) (x : Radio) (since : Nat) (power : BitVec 12)
  /-- PPDU_RX_END (R312): A PPDU ends as its SIG announced; its MPDUs are handed to the MAC and the quality
  report and PEER_Q are written. -/
  | ppduRxEnd (time : Nat) (x : Radio) (rep : RxReport) (mpdus : List Mpdu)
  /-- LAST_Q0_READ (R312): A read of LAST_Q0 latches the whole last report for the later reads. -/
  | lastQ0Read (time : Nat) (init : Init) (x : Radio)
  /-- NF_PERIOD_END (R315): At the end of each NF_PERIOD the modem writes each chain's noise floor, or sets
  STALE. -/
  | nfPeriodEnd (time : Nat) (x : Radio) (idleUs : Nat) (levels : List (BitVec 12))
  /-- AN_RESTART (R327): A write that sets AN_EN restarts Clause 98 negotiation. -/
  | anRestart (time : Nat) (init : Init) (n : Fin 64) (data : Word)
  /-- AN_RESOLVED (R327): Negotiation resolves the stall port's mode, amplitude and role. -/
  | anResolved (time : Nat) (n : Fin 64) (mode : Fin 3) (amp24 leader : Bool) (partner : BitVec 5)
  /-- STALL_LINK_UP (R328): Training completes, and the stall port declares link up. -/
  | stallLinkUp (time : Nat) (n : Fin 64)
  /-- STALL_LINK_DOWN (R328): The receiver is out of lock for LINK_DOWN_US, or the link monitor fails: link
  down. -/
  | stallLinkDown (time : Nat) (down : StallDown)
  /-- FENCE_SENSE_ASSERT (R332): A selected FENCE_SENSE pin rises and starts a fence trigger. -/
  | fenceSenseAssert (time : Nat) (pin : Fin 4)
  /-- IMPULSE_DETECT (R332): The slicer error exceeds IMP_THR on 3 symbols and starts a fence trigger. -/
  | impulseDetect (time : Nat) (imp : Impulse)
  /-- FENCE_TRIGGER_END (R332): POST_US after its last source ends, a fence trigger ends and the period learning
  is updated. -/
  | fenceTriggerEnd (time : Nat) (rest : FenceRest)
  /-- FENCE_STUCK (R333): A trigger lasting FREEZE_MAX has its sources ignored, and STUCK is set. -/
  | fenceStuck (time : Nat) (n : Fin 64)
  /-- FENCE_STUCK_CLEAR (R333): STUCK clears when every ignored source has been inactive for 1 ms. -/
  | fenceStuckClear (time : Nat) (rest : FenceRest)
  /-- FENCE_PRED_WINDOW_OPEN (R334): While locked, a freeze opens PRE_US before the predicted trigger start. -/
  | fencePredWindowOpen (time : Nat) (n : Fin 64)
  /-- FENCE_PRED_WINDOW_END (R334): A predicted window passes without a trigger: a miss, and two misses unlock. -/
  | fencePredWindowEnd (time : Nat) (n : Fin 64)
  /-- PORT_NF_PERIOD_END (R336): At the end of NF_PERIOD a port writes its noise floor, or sets STALE. -/
  | portNfPeriodEnd (time : Nat) (n : Fin 64) (quietUs : Nat) (level peak : BitVec 12)
  /-- TDR_START (R338): TDR_CMD START begins a reflectometry measurement, or is refused with LINK_UP or POWERED. -/
  | tdrStart (time : Nat) (init : Init) (n : Fin 64)
  /-- TDR_DONE (R339): The measurement ends and reports up to four reflections, or NOISY. -/
  | tdrDone (time : Nat) (n : Fin 64) (fenceHit : Bool) (refl : List Reflection)
  /-- PODL_ENABLE (R341): Setting PODL_CTRL.EN starts detection on SPn_CLS. -/
  | podlEnable (time : Nat) (init : Init) (n : Fin 64)
  /-- PODL_DISABLE (R341): Clearing EN switches power off and discharges, and the PSE goes OFF. -/
  | podlDisable (time : Nat) (init : Init) (n : Fin 64)
  /-- PODL_DETECT_DONE (R341): Detection finds a valid signature and classifies, or repeats after 1 s with
  NO_PD. -/
  | podlDetectDone (time : Nat) (n : Fin 64) (valid : Bool)
  /-- PODL_CLASS_READ (R341): The SCCP class read powers up an allowed class, or rejects it or fails. -/
  | podlClassRead (time : Nat) (n : Fin 64) (cls : Option (Fin 16))
  /-- PODL_PG_TIMEOUT (R341): 100 ms in POWER_UP without PG enters FAULT with NO_PG. -/
  | podlPgTimeout (time : Nat) (n : Fin 64)
  /-- PODL_RETRY (R341): 1 s after FAULT or a failed detection or class, the PSE returns to DETECT. -/
  | podlRetry (time : Nat) (n : Fin 64)
  /-- PODL_BUS_FRAME (R342): An expander-bus frame ends in a PODL_LD edge that latches EN and DIS and captures
  FLT and PG of every port. -/
  | podlBusFrame (time : Nat) (flt pg : BitVec 64)
  /-- PODL_FLT_N_FALL (R343): PODL_FLT_N falls, and bus frames run back to back so that EN is latched off within
  40 µs. -/
  | podlFltNFall (time : Nat)
  /-- MAC_RX_FRAME (R345): The receive MAC takes a frame from the line, writes it to its pound or ring, and ends
  it good, aborted or dropped. -/
  | macRxFrame (time : Nat) (p : Fin 66) (bytes : List Byte) (phyErr : Bool) (err : Int)
  /-- MAC_TX_START (R347): The transmit MAC starts the next frame from its pound or direct ring, or discards it
  while the link is down. -/
  | macTxStart (time : Nat) (p : Fin 66)
  /-- TX_UNDERRUN (R347): The pound runs empty partway through a frame, which is ended with an inverted FCS. -/
  | txUnderrun (time : Nat) (p : Fin 66)
  /-- MAC_TX_END (R350): A frame's last bit leaves: the FCS or its inverse is sent, and a timed frame pushes its
  timestamp and posts its completion. -/
  | macTxEnd (time : Nat) (p : Fin 66) (err : Int)
  /-- TSQ_POP (R351): A read of TSQ_POP returns the oldest cookie, latches its timestamp, and removes the entry. -/
  | tsqPop (time : Nat) (init : Init) (p : Fin 66)
  /-- UPLINK_LINK_DOWN (R355): Loss persists for LINK_DOWN_US: LINK clears, LOSS_STATE.ULu sets, and UPLINK_LOSS
  is raised. -/
  | uplinkLinkDown (time : Nat) (down : UlDown)
  /-- UPLINK_LINK_UP (R355): The uplink's link comes up and LINK is set. -/
  | uplinkLinkUp (time : Nat) (u : Fin 2)
  /-- SGMII_LINK_WORD (R354): A received SGMII link word sets the speed in use. -/
  | sgmiiLinkWord (time : Nat) (u : Fin 2) (linkUp : Bool) (speed : Fin 3)
  /-- SERDES_TX_WRITE (R356): A write to SERDES_TX with PRE + POST above MAIN is ignored. -/
  | serdesTxWrite (time : Nat) (init : Init) (u : Fin 2) (data : Word)
  /-- SEC_SA_INSTALL (R362): SEC_SA_CMD installs the addressed SA with its key and PN. -/
  | secSaInstall (time : Nat) (init : Init) (u : Fin 2)
  /-- SEC_SA_REMOVE (R362): SEC_SA_CMD with REMOVE empties the SA, and fails with IN_USE for the current
  transmit SA. -/
  | secSaRemove (time : Nat) (init : Init) (u : Fin 2)
  /-- DIR_TX_TAIL_WRITE (R364): Firmware advances an uplink's TX_TAIL and gives descriptors to the device. -/
  | dirTxTailWrite (time : Nat) (init : Init) (u : Fin 2) (data : Word)
  /-- DIR_TX_FETCH (R365): The DMA reads and checks every descriptor of a transmit frame, then sends it
  (segmenting if SEG) or drops it with a STATUS. -/
  | dirTxFetch (time : Nat) (u : Fin 2) (dmaError : Bool)
  /-- RING_CONFIG_WRITE (R364): Writes to a ring's base, SIZE and BUF_LEN take effect only while its enable is
  0. -/
  | ringConfigWrite (time : Nat) (init : Init) (addr : Nat) (data : Word)
  /-- DRAM_REQUEST_ACCEPT (R378): The command collector accepts a request into the device-wide order, splits it
  into lines, posts writes, or forwards reads. -/
  | dramRequestAccept (time : Nat)
  /-- WRITE_QUEUE_DRAIN (R381): A write-queue entry drains to DRAM when no read is pending, or above WQ_HI. -/
  | writeQueueDrain (time : Nat) (c : Fin 2)
  /-- DRAM_ISSUE (R383): At an issue slot, the controller chooses a pending request by age, panic, priority and
  rotation, and issues it. -/
  | dramIssue (time : Nat) (c : Fin 2)
  /-- DRAM_READ_RETURN (R386): Read data returns checked: corrected with a CE, or an error response with UE. -/
  | dramReadReturn (time : Nat) (c : Fin 2) (ecc : Ecc)
  /-- REFRESH_DUE (R385): A rank's refresh falls due and is issued, or postponed in panic. -/
  | refreshDue (time : Nat) (c : Fin 2) (rank : Fin 2)
  /-- ZQCS_DUE (R385): Every ZQ_MS a ZQCS is scheduled on each rank, as a refresh is. -/
  | zqcsDue (time : Nat) (c : Fin 2)
  /-- SCRUB_READ (R389): A scrub read checks a line, writing back a CE or logging SCRUB_UE. -/
  | scrubRead (time : Nat) (c : Fin 2) (line : Nat) (ecc : Ecc)
  /-- ALERT_N_FALL (R391): DDRx_ALERT_N falls: issue stops, DRAM_CA_PARITY is raised, and repeated alerts put
  the channel in FAIL. -/
  | alertNFall (time : Nat) (c : Fin 2)
  /-- ALERT_N_RISE (R391): DDRx_ALERT_N rises: rows are re-opened and buffered commands reissued, and report-
  class ones are refused. -/
  | alertNRise (time : Nat) (c : Fin 2)
  /-- REPORT_WRITE_RESPONSE (R392): ALERT_WIN after a report-class write's last command without an alert, its
  response is returned. -/
  | reportWriteResponse (time : Nat) (c : Fin 2)
  /-- MC_INIT (R395): MC_CTRL.INIT with a valid GEOM starts initialisation from RESET or FAIL. -/
  | mcInit (time : Nat) (init : Init) (c : Fin 2)
  /-- MC_INIT_DONE (R395): The initialisation sequence completes, and the channel enters TRAIN with TRAIN_DONE. -/
  | mcInitDone (time : Nat) (c : Fin 2)
  /-- MC_ENABLE (R395): Writing EN = 1 in TRAIN enters RUN and starts refresh, ZQCS and drift tracking. -/
  | mcEnable (time : Nat) (init : Init) (c : Fin 2)
  /-- MC_DISABLE (R395): Writing EN = 0 in RUN completes accepted requests, drains the queue and returns to
  TRAIN. -/
  | mcDisable (time : Nat) (init : Init) (c : Fin 2)
  /-- ADDR_MAP_WRITE (R377): A write to ADDR_MAP takes effect only while neither channel is in RUN. -/
  | addrMapWrite (time : Nat) (init : Init) (c : Fin 2) (data : Word)
  /-- TRAIN_MRS (R396): Training op MRS writes MRS_DATA to a mode register. -/
  | trainMrs (time : Nat) (init : Init) (c : Fin 2) (rank : Bool) (mr : Fin 8)
  /-- TRAIN_WLEVEL (R396): Training op WLEVEL takes one write-levelling sample per lane. -/
  | trainWlevel (time : Nat) (init : Init) (c : Fin 2) (rank : Bool)
  /-- TRAIN_GATE (R396): Training op GATE takes one read-gate sample per lane. -/
  | trainGate (time : Nat) (init : Init) (c : Fin 2) (rank : Bool)
  /-- TRAIN_MPR_READ (R396): Training op MPR_READ reads the MPR pattern and compares it. -/
  | trainMprRead (time : Nat) (init : Init) (c : Fin 2) (rank : Bool)
  /-- TRAIN_PAT_WRITE (R396): Training op PAT_WRITE writes pattern bursts from TRAIN_ADDR. -/
  | trainPatWrite (time : Nat) (init : Init) (c : Fin 2) (rank : Bool)
  /-- TRAIN_PAT_READ (R396): Training op PAT_READ reads the pattern back and compares it bit by bit. -/
  | trainPatRead (time : Nat) (init : Init) (c : Fin 2) (rank : Bool)
  /-- TRAIN_ZQCL (R396): Training op ZQCL runs long ZQ calibration of a rank. -/
  | trainZqcl (time : Nat) (init : Init) (c : Fin 2) (rank : Bool)
  /-- TRAIN_DONE (R396): A training operation ends with its result and CMP_RES. -/
  | trainDone (time : Nat) (c : Fin 2) (timeout : Bool) (cmp0 : Word) (cmp1 : BitVec 8)
  /-- DRIFT_TRACK (R398): Every 1 ms each lane's RD_DLY moves one step towards the centre until DRIFT_MAX. -/
  | driftTrack (time : Nat) (c : Fin 2) (moves : List LaneMove)
  /-- LANE_DLY_WRITE (R398): A LANE_DLY write in RUN is applied between bursts and resets the lane's drift
  count. -/
  | laneDlyWrite (time : Nat) (init : Init) (c : Fin 2) (lane : Fin 5) (data : Word)
  /-- SELF_REFRESH_ENTER (R399): A self-refresh request stops intake, completes requests, drains, refreshes, and
  stops clocks within 10 µs. -/
  | selfRefreshEnter (time : Nat) (c : Fin 2)
  /-- SELF_REFRESH_EXIT (R400): On withdrawal or a new request, clocks restart, the DLL relocks, SRX and ZQCL
  issue, and requests are served. -/
  | selfRefreshExit (time : Nat) (c : Fin 2)
  /-- MC_IDLE_SELF_REFRESH (R476): In P3, MC returns to self-refresh after 100 µs without a request. -/
  | mcIdleSelfRefresh (time : Nat)
  /-- L2_CFG_WRITE (R406): A write to SRAM_WAYS writes back and takes ways for SRAM, or returns ways to the
  cache. -/
  | l2CfgWrite (time : Nat) (init : Init) (data : Word)
  /-- CORE_RELEASE (R407): RST_HOLD = 0 releases a core at its CORE_BOOT address within 1 µs and clears LOST. -/
  | coreRelease (time : Nat) (init : Init) (c : Fin 8)
  /-- CORE_RESET (R407): RST_HOLD = 1 writes back a core's dirty L1 lines, resets it, and returns its task. -/
  | coreReset (time : Nat) (init : Init) (c : Fin 8)
  /-- MTIMER_EXPIRE (R408): MTIME reaches MTIMECMP[c], and core c's machine timer interrupt asserts. -/
  | mtimerExpire (time : Nat) (c : Fin 8)
  /-- CORE_WDOG_WRITE (R409): A write to CORE_WDOG restarts the core watchdog. -/
  | coreWdogWrite (time : Nat) (init : Init) (c : Fin 8) (data : Word)
  /-- CORE_WDOG_EXPIRE (R409): A core watchdog expires: WDOG is set, and with WDOG_LOSS the core is declared
  lost and its task returned. -/
  | coreWdogExpire (time : Nat) (c : Fin 8) (l1Lost : Bool)
  /-- CPU_TX_TAIL_WRITE (R410): Firmware advances the CPU port's TX_TAIL and gives descriptors. -/
  | cpuTxTailWrite (time : Nat) (init : Init) (data : Word)
  /-- CPU_TX_FETCH (R410): The segmentation DMA checks a CPU transmit frame and writes it into PD26 with TS_REQ
  and COOKIE. -/
  | cpuTxFetch (time : Nat) (dmaError : Bool)
  /-- CPU_TX_COMPLETE (R411): A CPU transmit frame's fate is known, and its descriptors are written back with
  STATUS. -/
  | cpuTxComplete (time : Nat) (cookie : BitVec 16) (fate : TxFate)
  /-- CPU_RX_FRAME (R413): A frame from PD27 is written to the receive ring when enough descriptors are owned,
  or waits or is dropped. -/
  | cpuRxFrame (time : Nat) (dmaError : Bool)
  /-- TASK_WRITE (R414): Staged WRITE applies a task's configuration, or is held until DONE while the task runs. -/
  | taskWrite (time : Nat) (w : Fin 9)
  /-- TASK_READ (R414): Staged READ copies a task's configuration into the staging registers. -/
  | taskRead (time : Nat) (w : Fin 9)
  /-- TASK_CLEAR (R415): Staged CLEAR clears the STG_ARG flags of a task. -/
  | taskClear (time : Nat) (w : Fin 9)
  /-- FLAG_SET (R415): A FLAG_SET write sets one flag of a task, which may make it ready. -/
  | flagSet (time : Nat) (w : Fin 9) (data : Word)
  /-- TASK_TIMER_EXPIRE (R415): DT reaches TMR, which sets flag 31 and clears TMR_EN. -/
  | taskTimerExpire (time : Nat) (t : Fin 4096)
  /-- TASK_DISPATCH (R417): Within 50 ns, the lock-keeper places the earliest-deadline candidate in a free
  core's DISP slot. -/
  | taskDispatch (time : Nat) (c : Fin 8)
  /-- DISP_READ (R421): A core reads DISP, which takes its dispatch and empties the slot. -/
  | dispRead (time : Nat) (init : Init) (c : Fin 8)
  /-- TASK_DONE (R414): DONE with DISABLE = 0 releases the flow and returns the task to WAIT or READY. -/
  | taskDone (time : Nat) (c : Fin 8)
  /-- TASK_DONE_DISABLE (R414): DONE with DISABLE = 1 releases the flow and turns the task OFF. -/
  | taskDoneDisable (time : Nat) (c : Fin 8)
  /-- DEADLINE_MISS (R420): DT passes a READY or RUNNING task's deadline: LATE, DL_MISS and MISS_TASK are set. -/
  | deadlineMiss (time : Nat) (t : Fin 4096)
  /-- RECOVERY_END (R418): RECOV_US after the last core loss, affinity ends unless MODE = 1. -/
  | recoveryEnd (time : Nat)
  /-- PMU_COUNTER_WRAP (R424): A PMU counter wraps, setting its OVF bit and, with SAMPLE_EN, taking a sample
  into the ring. -/
  | pmuCounterWrap (time : Nat) (k : Fin 16) (n : Nat) (init : Init) (priv : Fin 4) (pc : Option (BitVec 64))
  /-- BW_WINDOW_END (R427): At a window's end, each port's BW_RD, BW_WR and BW_PEAK take the window's totals. -/
  | bwWindowEnd (time : Nat)
  /-- BW_RD_READ (R427): A read of BW_RD latches BW_WR from the same window. -/
  | bwRdRead (time : Nat) (init : Init) (q : Fin 8)
  /-- BW_WIN_WRITE (R427): A write to WIN_US discards the window in progress. -/
  | bwWinWrite (time : Nat) (init : Init) (data : Word)
  /-- GH_POWER_GOOD (R433): VDD_GH good and GH_RST_N high: the gauge house leaves OFF and its boot ROM runs. -/
  | ghPowerGood (time : Nat)
  /-- GH_START_DONE (R434): The start sequence verifies the image, rebuilds sequence numbers, and commits START,
  or enters FAULT. -/
  | ghStartDone (time : Nat) (img : GhImage)
  /-- GH_FAULT (R433): An uncorrectable SRAM, flash or engine error puts the gauge house in FAULT. -/
  | ghFault (time : Nat) (cause : GhCause)
  /-- GH_SUPPLY_WARNING (R432): VDD_GH below warning: the entry in progress is completed and HOLD is entered. -/
  | ghSupplyWarning (time : Nat)
  /-- GH_RESET (R433): GH_RST_N or the GH watchdog restarts the gauge house from FAULT or HOLD. -/
  | ghReset (time : Nat) (watchdog : Bool)
  /-- GH_POWER_LOSS (R433): VDD_GH falls below its reset threshold, and the gauge house goes OFF. -/
  | ghPowerLoss (loss : GhLoss)
  /-- ADJ_MODE_CHANGE (R436): GH_ADJ_N stable for 10 ms changes adjustment mode. -/
  | adjModeChange (time : Nat) (low : Bool)
  /-- GH_INBOX_TAKE (R439): The record engine moves a whole frame from PD32 into the inbox once there is room. -/
  | ghInboxTake (time : Nat)
  /-- GH_RECORD_CHECK (R439): The engine checks the next inbox frame in order, accepting it or rejecting it with
  REJ_CNT and a 738 pulse. -/
  | ghRecordCheck (time : Nat)
  /-- LOG_READ (R444): A LOG_READ control record asks for entries FROM..FROM + COUNT − 1 to be sent again. -/
  | logRead (time : Nat)
  /-- KEY_INSTALL (R442): A KEY_INSTALL control record unwraps and installs a meter key, with an AUDIT entry. -/
  | keyInstall (time : Nat)
  /-- KEY_REMOVE (R442): A KEY_REMOVE control record removes a meter key, with an AUDIT entry. -/
  | keyRemove (time : Nat)
  /-- PARAM (R443): A PARAM control record writes bytes into the parameter block, effective from its AUDIT
  commit. -/
  | paramCmd (time : Nat)
  /-- FW_CHUNK (R441): A FW_CHUNK control record writes bytes into the staging image. -/
  | fwChunk (time : Nat)
  /-- FW_COMMIT (R442): A FW_COMMIT control record verifies the staging image and marks it active from the next
  GH reset. -/
  | fwCommit (time : Nat)
  /-- SEAL (R442): A SEAL control record sets SEAL in GH OTP, erases the log, and commits entry 0 of TYPE SEAL. -/
  | sealCmd (time : Nat)
  /-- LOG_COMMIT (R447): The engine signs and programs the next log entry, pulses 737, and advances LOG_HEAD. -/
  | logCommit (time : Nat)
  /-- LOG_EXPORT (R448): The engine writes the next entry, or a LOG_READ repeat, into PD31 as an export frame. -/
  | logExport (time : Nat)
  /-- APP_CMD_GO (R447): GO copies APP_BODY and queues a WEIGH entry for commit. -/
  | appCmdGo (time : Nat) (body : List Word) (data : Word)
  /-- LC_RESULT (R449): A load-cell decimation window ends and a timestamped result is written with its status. -/
  | lcResult (time : Nat) (c : Fin 4) (input sense : LcPair) (rail : Int)
  /-- LC_CFG_WRITE (R450): A write to LC_CFG marks the next three results SETTLING, and is ignored after the
  seal. -/
  | lcCfgWrite (time : Nat) (c : Fin 4) (data : Word)
  /-- GH_WDOG_WRITE (R430): A write to GH_WDOG restarts the gauge-house watchdog. -/
  | ghWdogWrite (time : Nat) (data : Word)
  /-- POR (R452): Power-on, or VDD_AO below its reset threshold, makes a chip reset that clears AO-held state. -/
  | por (time : Nat)
  /-- SYS_RST_N (R452): SYS_RST_N held low for 1 µs makes a chip reset with cause PIN. -/
  | sysRstN (time : Nat)
  /-- AO_WDOG_EXPIRE (R452): AO_WDOG expires and makes a chip reset with cause WDOG. -/
  | aoWdogExpire (time : Nat)
  /-- AO_WDOG_WRITE (R452): A write to AO_WDOG restarts the watchdog. -/
  | aoWdogWrite (time : Nat) (init : Init) (data : Word)
  /-- CHIP_RST (R452): Writing 0x0000_D0C5 to CHIP_RST makes a chip reset with cause SOFT. -/
  | chipRst (time : Nat) (init : Init) (data : Word)
  /-- SUPPLY_RESET (R513): A monitored rail below its reset threshold for 5 µs makes a chip reset. -/
  | supplyReset (time : Nat) (rail : Fin 11)
  /-- THERM_RESET (R514): A die sensor at 120 °C or above for 1 ms makes a chip reset with cause THERM. -/
  | thermReset (time : Nat)
  /-- REF_LOSS (R516): The 40 MHz reference stops, and a chip reset with cause REF_LOSS follows within 10 µs. -/
  | refLoss (time : Nat)
  /-- RESET_RELEASE (R516): 1 ms after every rail is good and a reference is detected, the chip reset releases
  at DT 0. -/
  | resetRelease (time : Nat)
  /-- SUPPLY_LOW (R514): A rail below warning for 2 µs, or a sensor at 110 °C, sets its SUPPLY_STAT bit and
  SUPPLY_WARN. -/
  | supplyLow (time : Nat) (bit : SupplyBit)
  /-- BOOT_COPY (R455): The boot ROM reads, checks and copies copy A then B, and jumps to the firmware or waits
  in WFI. -/
  | bootCopy (time : Nat) (a b : FlashCopy)
  /-- PROVISION (R458): LC_CMD PROVISION locks OTP keys and moves OPEN to PROVISIONED at the next reset. -/
  | provision (time : Nat) (write : FuseWrite)
  /-- LC_SEAL (R458): LC_CMD SEAL moves PROVISIONED to SEALED at the next reset, if the sluice is sealed. -/
  | lcSeal (time : Nat) (write : FuseWrite)
  /-- RETURN (R458): LC_CMD RETURN moves the device to RETURNED at once, after the RETURN_SIG check when needed. -/
  | returnCmd (time : Nat) (write : FuseWrite)
  /-- OTP_PROGRAM (R460): OTP_CMD PROGRAM writes OTP_DATA into an OTP word, or is refused with LOCKED or FAIL. -/
  | otpProgram (time : Nat) (init : Init) (verifyOk : Bool)
  /-- OTP_READ (R460): OTP_CMD READ reads an OTP word into OTP_DATA, except DEV_SECRET. -/
  | otpRead (time : Nat) (init : Init)
  /-- SVN_CMD (R462): SVN_CMD raises MIN_SVN up to BOOT_SVN, or is refused. -/
  | svnCmd (time : Nat) (write : FuseWrite) (data : Word)
  /-- SECURE_LOCK (R463): Setting SECURE_LOCK freezes SECURE_BASE and SECURE_LIMIT until the next chip reset. -/
  | secureLock (time : Nat) (init : Init) (data : Word)
  /-- HMAC_START (R465): HMAC_CMD starts HMAC-SHA-256 under the generation key over HMAC_LEN bytes, or ends with
  BAD_LEN or NO_KEY. -/
  | hmacStart (time : Nat) (init : Init)
  /-- HMAC_DONE (R465): The HMAC engine writes its 32-byte result, or ends with DRAM on an error response. -/
  | hmacDone (time : Nat) (dramError : Bool)
  /-- DBG_CHAL (R467): A capture of DBG_CHAL draws a fresh NONCE. -/
  | dbgChal (time : Nat)
  /-- DBG_RESP (R467): A DBG_RESP grants a debug level or fails, and uses up the NONCE. -/
  | dbgResp (time : Nat) (level : BitVec 8) (sig : List Byte)
  /-- DBG_BACKOFF_END (R467): 1 s after a failed response, a new NONCE may be drawn. -/
  | dbgBackoffEnd (time : Nat)
  /-- DBG_REVOKE (R467): Writing 1 to DBG_REVOKE returns the debug level to NONE. -/
  | dbgRevoke (time : Nat) (init : Init) (data : Word)
  /-- PM_STATE_CHANGE (R472): The power manager moves the device to the deepest permitted state, at most once
  per 10 µs. -/
  | pmStateChange (time : Nat)
  /-- PM_WAKE (R476): A wake event leaves P3 or P4 for P0, records WAKE_CAUSE, and restarts the cores. -/
  | pmWake (time : Nat) (cause : WakeCause)
  /-- STANDBY (R477): PM_CMD STANDBY enters P4 within 20 ms, or is refused with a BLOCK cause. -/
  | standby (time : Nat) (init : Init)
  /-- RTC_ALARM (R476): RTC reaches RTC_ALARM, setting RTC_ALARM and waking the device if enabled. -/
  | rtcAlarm (time : Nat)
  /-- WAKE_N (R477): The WAKE_N pin asserts and, if enabled, wakes the device. -/
  | wakeN (time : Nat)
  /-- RADIO_SLEEP (R473): In P2 or P3, a radio sleeps through an interval of 100 µs or more with no firing
  entry. -/
  | radioSleep (time : Nat) (x : Radio)
  /-- RADIO_WAKE (R473): A sleeping radio wakes 60 µs before its next firing entry. -/
  | radioWake (time : Nat) (x : Radio)
  /-- OCTET_SLEEP (R474): A stall octet sleeps through 20 µs or more with all gates closed and empty egress
  pounds. -/
  | octetSleep (time : Nat) (k : Fin 8)
  /-- OCTET_WAKE (R474): A stall octet wakes 2 µs before a gate opening, or on a frame from the line. -/
  | octetWake (time : Nat) (k : Fin 8)
  /-- HANG_DETECT (R487): HANG_US passes without progress: HANG is set, and the island is reset, restarted,
  escalated or left alone. -/
  | hangDetect (time : Nat) (i : Fin 22)
  /-- HANG_RESET_RELEASE (R488): 1 µs after a hang reset, the device releases the island's reset, unless it
  escalated. -/
  | hangResetRelease (time : Nat) (i : Fin 22)
  /-- MC_SCHED_RESTART_DONE (R491): An MC scheduler restart leaves self-refresh and reissues queued requests,
  and clears HANG. -/
  | mcSchedRestartDone (time : Nat)
  /-- PAGE_REFETCH (R494): An uncorrectable table-store error starts a refetch of the damaged page from the
  image. -/
  | pageRefetch (time : Nat) (slot : Fin 4) (page : Fin 768)
  /-- PAGE_REFETCH_DONE (R495): The refetch ends and its table CRC is checked, or the page stays damaged with
  ESCALATED. -/
  | pageRefetchDone (time : Nat) (slot : Fin 4) (page : Fin 768) (dramError : Bool)
  /-- GAP_RECORD (R498): When a tap pound has room after discards, a GAP record is written and GAP is set. -/
  | gapRecord (time : Nat) (tap : Fin 3)
  /-- MARK_SET (R500): MARK_CMD SET writes a MARK record and begins a checkpoint. -/
  | markSet (time : Nat) (init : Init) (m : Fin 16)
  /-- MARK_RELEASE (R501): MARK_CMD RELEASE returns a VALID or LOST mark to FREE. -/
  | markRelease (time : Nat) (init : Init) (m : Fin 16)
  /-- CKPT_END (R500): The checkpoint completes, and the mark becomes VALID with MARK_DONE. -/
  | ckptEnd (time : Nat)
  /-- TP_MODE_WRITE (R498): A write to TP_CTRL.MODE changes the mode, except direct changes between RECORD and
  REPLAY. -/
  | tpModeWrite (time : Nat) (init : Init) (data : Word)
  /-- REPLAY_START (R504): RP_CMD START checks the ring, restores the checkpoint, sets DT, and begins replay, or
  refuses with a RESULT. -/
  | replayStart (time : Nat) (init : Init)
  /-- REPLAY_STOP (R508): RP_CMD STOP ends the replay. -/
  | replayStop (time : Nat) (init : Init)
  /-- REPLAY_RECORD (R505): The engine plays the next record at its recorded DT and compares drains with EGRESS
  records. -/
  | replayRecord (time : Nat) (drain : Option Drain)
  /-- PPS_PULSE (R522): PPS_OUT rises at each whole second of DT and stays high for 100 ms. -/
  | ppsPulse (time : Nat)
  /-- PODL_FREEZE_END (R344): FRZ_MS after the PODL_LD edge that latched a change of EN, the power-switch freeze
  source of the stall port ends, and the port is released if no other freeze source is active. -/
  | podlFreezeEnd (time : Nat) (n : Fin 64)
  /-- PODL_DISCHARGE_END (R341): 100 ms after EN is cleared, the PSE in OFF drops DIS to 0 on the expander bus. -/
  | podlDischargeEnd (time : Nat) (n : Fin 64)
  /-- EXPORT_WAIT (R451): When a committed log entry has waited more than 1 s for export, gauge-house interrupt
  identity 739 asserts. -/
  | exportWait (time : Nat)
  /-- SUPPLY_RETURN (R513): A monitored rail rises back above its warning threshold, or the die sensors fall
  below 110 °C, and the matching SUPPLY_STAT bit clears. -/
  | supplyReturn (time : Nat) (bit : SupplyBit)
deriving DecidableEq, Repr

/-- The DT of a command. -/
def Instr.time : Instr → Nat
  | .registerWrite time _ _ _ _ => time
  | .w1cClear time _ _ _ _ => time
  | .counterLoRead time _ _ _ => time
  | .counterHiWrite time _ _ _ => time
  | .counterLoWrite time _ _ _ _ => time
  | .rcRead time _ _ _ => time
  | .islandResetHold time _ _ => time
  | .islandResetRelease time _ _ => time
  | .islandReady time _ => time
  | .islandForceOff time _ _ => time
  | .islandPowerUp time _ _ => time
  | .graftClear time _ _ => time
  | .poundWordWrite time _ _ => time
  | .poundWordReadable time _ => time
  | .poundWordRead time _ => time
  | .pndMarkWrite time _ _ _ => time
  | .collectorAccept time _ => time
  | .loadCmdStart time _ => time
  | .loadDone time => time
  | .loadDramError time => time
  | .loadAbort time _ => time
  | .arm time _ _ _ => time
  | .disarm time _ _ => time
  | .discard time _ _ => time
  | .armingTime time _ => time
  | .boundaryAnnounce time => time
  | .roundBoundary time => time
  | .lockHandover time _ => time
  | .freed time _ => time
  | .gateIntervalStart time _ => time
  | .pageQry time _ _ => time
  | .tableScrubPass time _ => time
  | .ingressAccept time => time
  | .engineDispatch time => time
  | .parseDone time _ => time
  | .classifyDone time _ => time
  | .reorderRelease time => time
  | .pipelineHandoff time => time
  | .lateContradiction time _ _ => time
  | .natInsert time _ => time
  | .natRemove time _ => time
  | .natRead time _ => time
  | .natDone time => time
  | .natAgeVisit time _ => time
  | .natExpTailWrite time _ _ => time
  | .natSeedWrite time _ _ => time
  | .tmAdmit time => time
  | .tmEndWord time _ => time
  | .ghRecordTake time => time
  | .spillWriteDone time _ => time
  | .spillFetch time _ => time
  | .spillFetchDone time _ _ => time
  | .portSelect time _ => time
  | .frameEgressComplete time _ => time
  | .tmRequest time _ _ _ => time
  | .bktLevelRead time _ => time
  | .spillConfigWrite time _ _ _ => time
  | .airEntryFire time _ _ => time
  | .airEntryEnd time _ => time
  | .exchangeStart time _ _ => time
  | .rawSlotStart time _ _ => time
  | .edcaAccess time _ _ _ => time
  | .calStepEnd time _ => time
  | .listenWindowOpen time _ => time
  | .listenMiss time _ => time
  | .asrWrite time _ _ _ => time
  | .asrReset time _ _ _ => time
  | .asrRead time _ _ _ => time
  | .asrCmdDeferredApply time _ => time
  | .dutyBinRoll time => time
  | .bandLimitWrite time _ _ _ => time
  | .staWrite time _ _ => time
  | .staRemove time _ _ => time
  | .staRead time _ _ => time
  | .staReadTid time _ _ _ _ => time
  | .addrSeedWrite time _ _ => time
  | .mldBssidWrite time _ _ _ => time
  | .reorderTimeout time _ _ => time
  | .roRegionWrite time _ _ _ => time
  | .immediateResponse time _ _ => time
  | .responseTimeout time _ _ => time
  | .keyCmd time _ _ => time
  | .parentTbttDeadline time _ => time
  | .parentLossClear time _ _ => time
  | .lossSwWrite time _ _ => time
  | .uplinkRestoreTimer time _ => time
  | .fallbackEval time => time
  | .synthTuneRequest time _ _ => time
  | .synthWarmDone time _ => time
  | .synthLock time _ => time
  | .synthSettleTimeout time _ => time
  | .synthUnlock time _ => time
  | .synthFaultRestart time _ => time
  | .bgCalStepStart time _ _ => time
  | .txRequest time _ _ _ => time
  | .txHoldExpire time _ => time
  | .femLeadIn time _ _ => time
  | .txStart time _ => time
  | .txLastSample time _ _ => time
  | .txTimeout time _ => time
  | .txTailEnd time _ => time
  | .tunerWrite time _ => time
  | .tunerRegWrite time _ _ _ _ => time
  | .tempSample time _ _ => time
  | .femTimingWrite time _ _ _ => time
  | .blankInAssert time _ => time
  | .blankInRelease time _ => time
  | .blankWindowFire time _ => time
  | .modemArm time _ => time
  | .preambleDetect time _ _ => time
  | .ltfTiming time _ _ => time
  | .detectTimeout time _ => time
  | .sigCheck time _ _ => time
  | .rxConfirm time _ => time
  | .freshPreamble time _ _ _ => time
  | .ppduRxEnd time _ _ _ => time
  | .lastQ0Read time _ _ => time
  | .nfPeriodEnd time _ _ _ => time
  | .anRestart time _ _ _ => time
  | .anResolved time _ _ _ _ _ => time
  | .stallLinkUp time _ => time
  | .stallLinkDown time _ => time
  | .fenceSenseAssert time _ => time
  | .impulseDetect time _ => time
  | .fenceTriggerEnd time _ => time
  | .fenceStuck time _ => time
  | .fenceStuckClear time _ => time
  | .fencePredWindowOpen time _ => time
  | .fencePredWindowEnd time _ => time
  | .portNfPeriodEnd time _ _ _ _ => time
  | .tdrStart time _ _ => time
  | .tdrDone time _ _ _ => time
  | .podlEnable time _ _ => time
  | .podlDisable time _ _ => time
  | .podlDetectDone time _ _ => time
  | .podlClassRead time _ _ => time
  | .podlPgTimeout time _ => time
  | .podlRetry time _ => time
  | .podlBusFrame time _ _ => time
  | .podlFltNFall time => time
  | .macRxFrame time _ _ _ _ => time
  | .macTxStart time _ => time
  | .txUnderrun time _ => time
  | .macTxEnd time _ _ => time
  | .tsqPop time _ _ => time
  | .uplinkLinkDown time _ => time
  | .uplinkLinkUp time _ => time
  | .sgmiiLinkWord time _ _ _ => time
  | .serdesTxWrite time _ _ _ => time
  | .secSaInstall time _ _ => time
  | .secSaRemove time _ _ => time
  | .dirTxTailWrite time _ _ _ => time
  | .dirTxFetch time _ _ => time
  | .ringConfigWrite time _ _ _ => time
  | .dramRequestAccept time => time
  | .writeQueueDrain time _ => time
  | .dramIssue time _ => time
  | .dramReadReturn time _ _ => time
  | .refreshDue time _ _ => time
  | .zqcsDue time _ => time
  | .scrubRead time _ _ _ => time
  | .alertNFall time _ => time
  | .alertNRise time _ => time
  | .reportWriteResponse time _ => time
  | .mcInit time _ _ => time
  | .mcInitDone time _ => time
  | .mcEnable time _ _ => time
  | .mcDisable time _ _ => time
  | .addrMapWrite time _ _ _ => time
  | .trainMrs time _ _ _ _ => time
  | .trainWlevel time _ _ _ => time
  | .trainGate time _ _ _ => time
  | .trainMprRead time _ _ _ => time
  | .trainPatWrite time _ _ _ => time
  | .trainPatRead time _ _ _ => time
  | .trainZqcl time _ _ _ => time
  | .trainDone time _ _ _ _ => time
  | .driftTrack time _ _ => time
  | .laneDlyWrite time _ _ _ _ => time
  | .selfRefreshEnter time _ => time
  | .selfRefreshExit time _ => time
  | .mcIdleSelfRefresh time => time
  | .l2CfgWrite time _ _ => time
  | .coreRelease time _ _ => time
  | .coreReset time _ _ => time
  | .mtimerExpire time _ => time
  | .coreWdogWrite time _ _ _ => time
  | .coreWdogExpire time _ _ => time
  | .cpuTxTailWrite time _ _ => time
  | .cpuTxFetch time _ => time
  | .cpuTxComplete time _ _ => time
  | .cpuRxFrame time _ => time
  | .taskWrite time _ => time
  | .taskRead time _ => time
  | .taskClear time _ => time
  | .flagSet time _ _ => time
  | .taskTimerExpire time _ => time
  | .taskDispatch time _ => time
  | .dispRead time _ _ => time
  | .taskDone time _ => time
  | .taskDoneDisable time _ => time
  | .deadlineMiss time _ => time
  | .recoveryEnd time => time
  | .pmuCounterWrap time _ _ _ _ _ => time
  | .bwWindowEnd time => time
  | .bwRdRead time _ _ => time
  | .bwWinWrite time _ _ => time
  | .ghPowerGood time => time
  | .ghStartDone time _ => time
  | .ghFault time _ => time
  | .ghSupplyWarning time => time
  | .ghReset time _ => time
  | .ghPowerLoss loss => loss.time
  | .adjModeChange time _ => time
  | .ghInboxTake time => time
  | .ghRecordCheck time => time
  | .logRead time => time
  | .keyInstall time => time
  | .keyRemove time => time
  | .paramCmd time => time
  | .fwChunk time => time
  | .fwCommit time => time
  | .sealCmd time => time
  | .logCommit time => time
  | .logExport time => time
  | .appCmdGo time _ _ => time
  | .lcResult time _ _ _ _ => time
  | .lcCfgWrite time _ _ => time
  | .ghWdogWrite time _ => time
  | .por time => time
  | .sysRstN time => time
  | .aoWdogExpire time => time
  | .aoWdogWrite time _ _ => time
  | .chipRst time _ _ => time
  | .supplyReset time _ => time
  | .thermReset time => time
  | .refLoss time => time
  | .resetRelease time => time
  | .supplyLow time _ => time
  | .bootCopy time _ _ => time
  | .provision time _ => time
  | .lcSeal time _ => time
  | .returnCmd time _ => time
  | .otpProgram time _ _ => time
  | .otpRead time _ => time
  | .svnCmd time _ _ => time
  | .secureLock time _ _ => time
  | .hmacStart time _ => time
  | .hmacDone time _ => time
  | .dbgChal time => time
  | .dbgResp time _ _ => time
  | .dbgBackoffEnd time => time
  | .dbgRevoke time _ _ => time
  | .pmStateChange time => time
  | .pmWake time _ => time
  | .standby time _ => time
  | .rtcAlarm time => time
  | .wakeN time => time
  | .radioSleep time _ => time
  | .radioWake time _ => time
  | .octetSleep time _ => time
  | .octetWake time _ => time
  | .hangDetect time _ => time
  | .hangResetRelease time _ => time
  | .mcSchedRestartDone time => time
  | .pageRefetch time _ _ => time
  | .pageRefetchDone time _ _ _ => time
  | .gapRecord time _ => time
  | .markSet time _ _ => time
  | .markRelease time _ _ => time
  | .ckptEnd time => time
  | .tpModeWrite time _ _ => time
  | .replayStart time _ => time
  | .replayStop time _ => time
  | .replayRecord time _ => time
  | .ppsPulse time => time
  | .podlFreezeEnd time _ => time
  | .podlDischargeEnd time _ => time
  | .exportWait time => time
  | .supplyReturn time _ => time

end Sys2Proof
end

