-- ==== Sys2Proof/Decode.lean ====
section
/-! DEFINITION. The commands that spec/opcode_table.json spells by bits: none of its rows gives any. -/

namespace Sys2Proof

/-- The command a word spells by the table's bits. No row of the table has bit fields, so no word spells a command: commands
reach the device through State.pending alone. -/
def decodeTableWord (_nbits _w : Nat) : Option Instr := none

end Sys2Proof
end

