-- ==== Sys2Proof/Config.lean ====
section
/-! DEFINITION. What the spec leaves open and the computations it takes from other standards: constants without a body,
so that nothing can be proved of their values (notes/assumptions/6.md and 7.md). -/

namespace Sys2Proof

/-- A fresh free word: a random draw, or a value the spec does not state. The argument is State.freeCtr. -/
opaque Config.freeWord : Nat → Word

/-- A fresh free number, where the spec leaves a number open. The argument is State.freeCtr. -/
opaque Config.freeNat : Nat → Nat

/-- `n` fresh free bytes. The argument is State.freeCtr. -/
opaque Config.freeBytes : Nat → Nat → List Byte

/-- SHA-256 (FIPS 180-4), not restated by the spec: the 32-byte digest. -/
opaque Config.sha256 : List Byte → List Byte

/-- HMAC-SHA-256 (RFC 2104): key, message, 32-byte result. -/
opaque Config.hmac : List Byte → List Byte → List Byte

/-- ECDSA P-256 verification: public key, digest, signature. -/
opaque Config.ecdsaVerify : List Byte → List Byte → List Byte → Bool

/-- ECDSA P-256 signing in the gauge house: private key, digest, signature. -/
opaque Config.ecdsaSign : List Byte → List Byte → List Byte

/-- RFC 3394 unwrapping: key-encryption key and wrapped key; none where the integrity check fails. -/
opaque Config.keyUnwrap : List Byte → List Byte → Option (List Byte)

/-- GCM-AES-256 as IEEE 802.1AE uses it: key, 96-bit IV, additional data and plaintext give the ciphertext and the 16-byte
ICV after it. -/
opaque Config.gcmSeal : List Byte → List Byte → List Byte → List Byte → List Byte

/-- GCM-AES-256 in the other direction: key, IV, additional data, and ciphertext with ICV; none where the ICV is wrong. -/
opaque Config.gcmOpen : List Byte → List Byte → List Byte → List Byte → Option (List Byte)

/-- The 26-tone positions that a 9-bit RU allocation (with PS160) occupies at a BW code, as IEEE 802.11be lays them out; none
where the allocation is not defined for the width. -/
opaque Config.ruSpan : Nat → Nat → Option (List Nat)

/-- The receive start delay of IEEE 802.11 in ns for the PHY of a radio (R241). -/
opaque Config.rxStartDelay : Nat → Nat

/-- The BSS basic rate set of a radio in units of 500 kb/s, which no register of the spec holds (R239). -/
opaque Config.basicRates : Nat → List Nat

/-- The non-HT reference rate in units of 500 kb/s that IEEE 802.11 assigns to a format, MCS and stream count minus 1; of a non-HT PPDU its own
rate (R239). -/
opaque Config.refRate : Nat → Nat → Nat → Nat

/-- The BSS basic S1G-MCS set (R239). -/
opaque Config.basicMcs : List Nat

/-- The lowest mandatory rate of the PHY on a channel of radio `x` centred at a frequency in kHz, in units of 500 kb/s (R191). -/
opaque Config.lowestRate : Nat → Nat → Nat

/-- The orthogonal mapping of IEEE 802.11 for a format and a number of streams: the weight of long training symbol `n` in the coefficient of
stream `s` (R308). -/
opaque Config.ltfMap : Nat → Nat → Nat → Nat → Cplx

/-- The common phase error of a symbol and its phase slope across sub-carriers, from its pilots as sub-carrier, received vector and
coefficients (R310). -/
opaque Config.pilotFit : List (Nat × List Cplx × List (List Cplx)) → Rat × Rat

/-- The estimate of a sub-carrier's streams and their SINR where the matrix of R309 has no inverse or the noise variance is 0, which the
rule leaves without a value: coefficients by chain and stream, received vector, streams. -/
opaque Config.openFit : List (List Cplx) → List Cplx → List Cplx × List Rat

/-- The unit vector of a phase in radians (R310). -/
opaque Config.unit : Rat → Cplx

/-- The residual frequency offset in 0.01 ppm that the symbols' phases show by the end of a PPDU (R310). -/
opaque Config.residual : List (List Rat) → Int

/-- What adaptation makes of a stall port's coefficients from one DT to another (R330). -/
opaque Config.adapt : Nat → EqCoefs → Nat → Nat → EqCoefs

/-- The slicer error that a stall port shows at a DT, as the magnitude of a negative figure in 0.25 dB (R337). -/
opaque Config.slicerError : Nat → Nat → Nat

/-- The CTLE code and the five DFE taps to which an uplink's receiver has adapted at a DT (R356). -/
opaque Config.serdes : Nat → Nat → Nat × List Int

/-- How far the gauge house's view of DT lies from DT, in ns modulo the 123 values within one period of its clock (R431). -/
opaque Config.ghSync : Nat → Nat

/-- How far LOCAL lies from a time since GH start, in ns modulo the values within ±50 ppm of it (R521). -/
opaque Config.ghCrystal : Nat → Nat

/-- The default of mode register `mr` at a speed bin (R395). -/
opaque Config.modeDefault : Nat → Nat → Word

/-- The contents of the boot ROM (01_islands_and_map, R43), which the spec does not list. -/
opaque Config.bootRom : Nat → Byte

end Sys2Proof
end

