-- ==== Sys2Proof/Machine/Bits.lean ====
section
/-! DEFINITION. Bit fields, byte order and modular arithmetic on plain numbers, in the forms the register rules use. -/

namespace Sys2Proof.Machine

/-- The field of `len` bits of a number from bit `lo`. -/
def nbits (v lo len : Nat) : Nat := (v >>> lo) % 2 ^ len

/-- The field of `len` bits of a word from bit `lo`. -/
def bitsOf (w : Word) (lo len : Nat) : Nat := nbits w.toNat lo len

/-- Bit `i` of a word. -/
def bitOf (w : Word) (i : Nat) : Bool := w.getLsbD i

/-- The mask of `len` ones from bit `lo`. -/
def maskOf (lo len : Nat) : Word := BitVec.ofNat 32 ((2 ^ len - 1) <<< lo)

/-- A word with one field replaced; the value is narrowed to the field. -/
def putBits (w : Word) (lo len v : Nat) : Word :=
  (w &&& ~~~(maskOf lo len)) ||| BitVec.ofNat 32 ((v % 2 ^ len) <<< lo)

/-- A word with one bit replaced. -/
def putBit (w : Word) (i : Nat) (b : Bool) : Word := putBits w i 1 (if b then 1 else 0)

/-- A word written through a mask: bits outside the mask keep their value. -/
def mergeMask (old new : Word) (mask : Nat) : Word :=
  (old &&& ~~~(BitVec.ofNat 32 mask)) ||| (new &&& BitVec.ofNat 32 mask)

/-- The number a bit stands for. -/
def bnat (b : Bool) : Nat := if b then 1 else 0

/-- A `len`-bit field read as a two's complement number. -/
def signed (len v : Nat) : Int := if v % 2 ^ len < 2 ^ (len - 1) then (v % 2 ^ len : Int) else (v % 2 ^ len : Int) - 2 ^ len

/-- A number narrowed to `len` bits in two's complement. -/
def unsigned (len : Nat) (v : Int) : Nat := (v % (2 ^ len : Int)).toNat

/-- A number held between two bounds. -/
def clampInt (lo hi v : Int) : Int := if v < lo then lo else if hi < v then hi else v

/-- The byte at position `i` of a list of bytes, 0 beyond its end. -/
def byteAt (bs : List Byte) (i : Nat) : Nat := (bs.getD i 0).toNat

/-- `n` bytes from position `i`, most significant first (the order of network headers). -/
def beAt (bs : List Byte) (i : Nat) : Nat → Nat
  | 0 => 0
  | n + 1 => byteAt bs i * 256 ^ n + beAt bs (i + 1) n

/-- `n` bytes from position `i`, least significant first (R4). -/
def leAt (bs : List Byte) (i : Nat) : Nat → Nat
  | 0 => 0
  | n + 1 => byteAt bs i + 256 * leAt bs (i + 1) n

/-- The `n` bytes of a number, least significant first. -/
def leBytes : Nat → Nat → List Byte
  | 0, _ => []
  | n + 1, v => BitVec.ofNat 8 v :: leBytes n (v / 256)

/-- The `n` bytes of a number, most significant first. -/
def beBytes (n v : Nat) : List Byte := (leBytes n v).reverse

/-- Bytes `i` to `i + n - 1` of a list. -/
def sliceB (bs : List Byte) (i n : Nat) : List Byte := (bs.drop i).take n

/-- A difference of two 48-bit timestamps read as a signed number (R14). -/
def dt48diff (a b : Nat) : Int := signed 48 (((a : Int) - b) % 2 ^ 48).toNat

/-- Round up to a multiple. -/
def ceilDiv (a b : Nat) : Nat := (a + b - 1) / b

/-- One step of a reflected CRC over one bit. -/
def crcBit (poly : Nat) (c : Nat) : Nat := if c % 2 = 1 then (c / 2) ^^^ poly else c / 2

/-- One byte into a reflected 32-bit CRC. -/
def crcByte (poly : Nat) (c : Nat) (b : Byte) : Nat :=
  let c := c ^^^ b.toNat
  let c := crcBit poly (crcBit poly (crcBit poly (crcBit poly c)))
  crcBit poly (crcBit poly (crcBit poly (crcBit poly c)))

/-- CRC-32 with the Ethernet polynomial, reflected, initial value and final exclusive-or all ones
(PRESUMED: notes/assumptions/7.md). -/
def crc32 (bs : List Byte) : Nat := (bs.foldl (crcByte 0xEDB88320) 0xFFFFFFFF) ^^^ 0xFFFFFFFF

/-- CRC-32C (Castagnoli), in the same form (PRESUMED: notes/assumptions/7.md). -/
def crc32c (bs : List Byte) : Nat := (bs.foldl (crcByte 0x82F63B78) 0xFFFFFFFF) ^^^ 0xFFFFFFFF

end Sys2Proof.Machine
end

