-- ==== Sys2Proof/Machine/Bank.lean ====
section
/-! DEFINITION. Sparse stores in one canonical form: a list of (key, value) pairs with strictly rising keys, no entry
equal to what an unlisted key reads as. Registers, memories and per-index tables are held this way, so that equal
contents are equal data. -/

namespace Sys2Proof.Machine

/-- A sparse store. -/
abbrev Bank (α : Type) := List (Nat × α)

/-- What key `k` reads as, where an unlisted key reads as `d k`. -/
def bankGet {α : Type} (d : Nat → α) : Bank α → Nat → α
  | [], k => d k
  | (j, v) :: r, k => if k = j then v else bankGet d r k

/-- The store without key `k`. -/
def bankDel {α : Type} : Bank α → Nat → Bank α
  | [], _ => []
  | (j, v) :: r, k => if k = j then bankDel r k else (j, v) :: bankDel r k

/-- The store with an entry for key `k` put before the first greater key. -/
def bankPut {α : Type} : Bank α → Nat → α → Bank α
  | [], k, v => [(k, v)]
  | (j, u) :: r, k, v => if k < j then (k, v) :: (j, u) :: r else (j, u) :: bankPut r k v

/-- The store with key `k` set to `v`; writing what an unlisted key reads as removes the entry. -/
def bankSet {α : Type} [DecidableEq α] (d : Nat → α) (b : Bank α) (k : Nat) (v : α) : Bank α :=
  if v = d k then bankDel b k else bankPut (bankDel b k) k v

/-- The canonical form: keys strictly rising above `lo`, no entry at its default. -/
def bankWfFrom {α : Type} [DecidableEq α] (d : Nat → α) : Nat → Bank α → Bool
  | _, [] => true
  | lo, (j, v) :: r => decide (lo ≤ j) && decide (v ≠ d j) && bankWfFrom d (j + 1) r

/-- The canonical form of a whole store. -/
def bankWf {α : Type} [DecidableEq α] (d : Nat → α) (b : Bank α) : Bool := bankWfFrom d 0 b

/-- The store restricted to the keys that `p` keeps; the others read as unlisted. -/
def bankKeep {α : Type} (p : Nat → Bool) : Bank α → Bank α
  | [] => []
  | (j, v) :: r => if p j then (j, v) :: bankKeep p r else bankKeep p r

/-- What an unlisted byte of a memory reads as (DESIGN CHOICE, notes/assumptions/5.md: 0). -/
def memDefault (_ : Nat) : Byte := 0

/-- One byte of a memory. -/
def memGet (m : Bank Byte) (a : Nat) : Byte := bankGet memDefault m a

/-- `n` bytes of a memory, from the lowest address up. -/
def memRead (m : Bank Byte) (a : Nat) : Nat → List Byte
  | 0 => []
  | n + 1 => memGet m a :: memRead m (a + 1) n

/-- A list of bytes written from an address up. -/
def memWrite (m : Bank Byte) (a : Nat) : List Byte → Bank Byte
  | [] => m
  | b :: bs => memWrite (bankSet memDefault m a b) (a + 1) bs

end Sys2Proof.Machine
end

