-- ==== Sys2Proof/Machine/RegMap.lean ====
section
/-! DEFINITION. The register map: one row per register of the spec's register tables (chapters 01 to 14), with its
place, its access type (R6), its reset value, and a name for its address. A reset value that the tables give only as
"from OTP", "from sluice" or "from layout" is that of an erased OTP (notes/assumptions/1.md). -/

namespace Sys2Proof.Machine

/-- How a register answers a read and takes a write (R6 to R11). -/
inductive RegKind
  /-- RW, RO, W1C and mixed registers: the masks of the row say which bits a write sets or clears. -/
  | reg
  /-- Clear on read. -/
  | rc
  /-- Write-only: reads 0. -/
  | wo
  /-- An IRQ_STAT register: reads RAW and EN of the two words before it (R7). -/
  | stat
  /-- PND_IRQ_STAT0 and PND_IRQ_STAT1: RAW and EN lie 16 and 8 bytes before. -/
  | pstat
  /-- LO and HI of a writable 48-bit counter (R8 to R11). -/
  | lo | hi
  /-- LO and HI of a read-only 48-bit counter. -/
  | loRo | hiRo
deriving DecidableEq, Repr

/-- One row of a register table: its offset, the stride and count of up to two indices, its kind, the bits a plain
write sets (`rw`), the bits a written 1 clears (`w1c`), and its reset value. -/
structure RegRow where
  off : Nat
  stride : Nat
  count : Nat
  stride2 : Nat
  count2 : Nat
  kind : RegKind
  rw : Nat
  w1c : Nat
  reset : Nat
deriving DecidableEq, Repr

/-- A block of registers: its base, the stride and number of its instances (R15), its rows, and the resets that differ
between instances or indices. -/
structure RegBlock where
  base : Nat
  stride : Nat
  inst : Nat
  rows : List RegRow
  resets : List (Nat × Nat)
deriving DecidableEq, Repr

/-- The registers of TOP. -/
def topRows : List RegRow := [
  ⟨0, 0, 1, 0, 1, .reg, 0, 0, 0x640356A1⟩,
  ⟨4, 0, 1, 0, 1, .reg, 0, 0, 0⟩,
  ⟨8, 0, 1, 0, 1, .reg, 0, 0, 0⟩,
  ⟨0xC, 0, 1, 0, 1, .reg, 0, 0, 0x3FFFFF⟩,
  ⟨0x10, 0, 1, 0, 1, .reg, 0, 0x7F, 0⟩,
  ⟨0x14, 0, 1, 0, 1, .wo, 0, 0, 0⟩,
  ⟨0x20, 0, 1, 0, 1, .reg, 0, 0, 0⟩,
  ⟨0x24, 0, 1, 0, 1, .reg, 0, 0, 0⟩,
  ⟨0x28, 0, 1, 0, 1, .reg, 0, 0x80000000, 0⟩,
  ⟨0x40, 0, 1, 0, 1, .reg, 0, 0, 0⟩,
  ⟨0x44, 0, 1, 0, 1, .reg, 3, 0, 0⟩,
  ⟨0x48, 0, 1, 0, 1, .stat, 0, 0, 0⟩,
  ⟨0x50, 0, 1, 0, 1, .reg, 0, 0, 0⟩,
  ⟨0x54, 0, 1, 0, 1, .reg, 0, 0, 0⟩,
  ⟨0x58, 0, 1, 0, 1, .reg, 0xFFFFFFFF, 0, 0⟩,
  ⟨0x5C, 0, 1, 0, 1, .reg, 0x3FFFFF, 0, 0⟩,
  ⟨0x60, 0, 1, 0, 1, .pstat, 0, 0, 0⟩,
  ⟨0x64, 0, 1, 0, 1, .pstat, 0, 0, 0⟩,
  ⟨0x100, 0x10, 22, 0, 1, .reg, 7, 0, 0⟩,
  ⟨0x104, 0x10, 22, 0, 1, .reg, 0, 0, 7⟩,
  ⟨0x108, 0x10, 22, 0, 1, .reg, 0, 0, 0⟩,
  ⟨0x10C, 0x10, 22, 0, 1, .reg, 0xFFFFFFFF, 0, 0⟩,
  ⟨0x1000, 0x40, 54, 0, 1, .reg, 0x3FF, 0, 0⟩,
  ⟨0x1004, 0x40, 54, 0, 1, .reg, 0, 0x1000000, 0x10000⟩,
  ⟨0x1008, 0x40, 54, 0, 1, .reg, 0xFFFFFFFF, 0, 0⟩,
  ⟨0x100C, 0x40, 54, 0, 1, .reg, 0, 0, 0⟩,
  ⟨0x1010, 0x40, 54, 0, 1, .loRo, 0, 0, 0⟩,
  ⟨0x1014, 0x40, 54, 0, 1, .hiRo, 0, 0, 0⟩,
  ⟨0x1018, 0x40, 54, 0, 1, .rc, 0, 0, 0⟩,
  ⟨0x101C, 0x40, 54, 0, 1, .reg, 0, 0, 0⟩]

/-- Resets of TOP that differ from one instance or index to the next: (offset, value). -/
def topResets : List (Nat × Nat) := [
  (0x101C, 0x200040), (0x105C, 0x200040), (0x109C, 0x200040), (0x10DC, 0x200040), (0x111C, 0x200040), (0x115C, 0x200040),
  (0x119C, 0x200040), (0x11DC, 0x200040), (0x121C, 0x200040), (0x125C, 0x200040), (0x129C, 0x200040), (0x12DC, 0x200040),
  (0x131C, 0x200040), (0x135C, 0x200040), (0x139C, 0x200040), (0x13DC, 0x200040), (0x141C, 0x400100), (0x145C, 0x400100),
  (0x149C, 0x400100), (0x14DC, 0x400100), (0x151C, 0x400100), (0x155C, 0x400100), (0x159C, 0x400100), (0x15DC, 0x400100),
  (0x161C, 0x400100), (0x165C, 0x400100), (0x169C, 0x400080), (0x16DC, 0x400080), (0x171C, 0x400200), (0x175C, 0x100080),
  (0x179C, 0x100080), (0x17DC, 0x200020), (0x181C, 0x200020), (0x185C, 0x400100), (0x189C, 0x400100), (0x18DC, 0x400100),
  (0x191C, 0x400040), (0x195C, 0x400040), (0x199C, 0x400040), (0x19DC, 0x400040), (0x1A1C, 0x400040), (0x1A5C, 0x400040),
  (0x1A9C, 0x400040), (0x1ADC, 0x400040), (0x1B1C, 0x400040), (0x1B5C, 0x400040), (0x1B9C, 0x400040), (0x1BDC, 0x400040),
  (0x1C1C, 0x400040), (0x1C5C, 0x400040), (0x1C9C, 0x400040), (0x1CDC, 0x400040), (0x1D1C, 0x100040), (0x1D5C, 0x100040),
  (0x10, 0x1), (0x120, 0x10), (0x254, 0x310), (0x108, 0x64), (0x118, 0x3E8), (0x128, 0x320), (0x138, 0x320),
  (0x148, 0x3E8), (0x158, 0x320), (0x168, 0x320), (0x178, 0x320), (0x188, 0x280), (0x198, 0x1E0),
  (0x1A8, 0xA0), (0x1B8, 0x177), (0x1C8, 0x177), (0x1D8, 0x177), (0x1E8, 0x177), (0x1F8, 0x177),
  (0x208, 0x177), (0x218, 0x177), (0x228, 0x177), (0x238, 0x186), (0x248, 0x320), (0x258, 0)]

/-- The registers of AO. -/
def aoRows : List RegRow := [
  ⟨0, 0, 1, 0, 1, .reg, 0x1E, 0, 6⟩,
  ⟨4, 0, 1, 0, 1, .reg, 0xFFFFFFFF, 0, 0⟩,
  ⟨8, 0, 1, 0, 1, .reg, 0, 0, 0⟩,
  ⟨0xC, 0, 1, 0, 1, .wo, 0, 0, 0⟩,
  ⟨0x10, 0, 1, 0, 1, .reg, 3, 0, 2⟩,
  ⟨0x14, 0, 1, 0, 1, .reg, 0, 0x11F, 0⟩,
  ⟨0x18, 0, 1, 0, 1, .loRo, 0, 0, 0⟩,
  ⟨0x1C, 0, 1, 0, 1, .hiRo, 0, 0, 0⟩,
  ⟨0x20, 0, 1, 0, 1, .reg, 0xFFFFFFFF, 0, 0xFFFFFFFF⟩,
  ⟨0x24, 0, 1, 0, 1, .reg, 0xFFFF, 0, 0xFFFF⟩,
  ⟨0x28, 0, 1, 0, 1, .reg, 0xFFFF, 0, 0⟩,
  ⟨0x2C, 0, 1, 0, 1, .reg, 0, 0, 0⟩,
  ⟨0x40, 0, 1, 0, 1, .reg, 0, 0, 0⟩,
  ⟨0x44, 0, 1, 0, 1, .reg, 0xF, 0, 0⟩,
  ⟨0x48, 0, 1, 0, 1, .stat, 0, 0, 0⟩,
  ⟨0x80, 8, 5, 0, 1, .loRo, 0, 0, 0⟩,
  ⟨0x84, 8, 5, 0, 1, .hiRo, 0, 0, 0⟩]

/-- The registers of SEC. -/
def secRows : List RegRow := [
  ⟨0, 0, 1, 0, 1, .reg, 0, 0, 0⟩,
  ⟨4, 0, 1, 0, 1, .wo, 0, 0, 0⟩,
  ⟨8, 0, 1, 0, 1, .reg, 0, 0, 0⟩,
  ⟨0x10, 0, 1, 0, 1, .reg, 0x1FF, 0, 0⟩,
  ⟨0x14, 0, 1, 0, 1, .reg, 0xFFFFFFFF, 0, 0⟩,
  ⟨0x18, 0, 1, 0, 1, .wo, 0, 0, 0⟩,
  ⟨0x1C, 0, 1, 0, 1, .reg, 0, 0, 0⟩,
  ⟨0x20, 0, 1, 0, 1, .reg, 0, 0, 0⟩,
  ⟨0x24, 0, 1, 0, 1, .reg, 0, 0, 0⟩,
  ⟨0x28, 0, 1, 0, 1, .reg, 0, 0, 0⟩,
  ⟨0x2C, 0, 1, 0, 1, .wo, 0, 0, 0⟩,
  ⟨0x30, 0, 1, 0, 1, .reg, 0xFFFFF, 0, 1⟩,
  ⟨0x34, 0, 1, 0, 1, .reg, 0xFFFFF, 0, 0⟩,
  ⟨0x38, 0, 1, 0, 1, .reg, 0, 0, 0⟩,
  ⟨0x40, 0, 1, 0, 1, .reg, 0xFFFFFFFF, 0, 0⟩,
  ⟨0x44, 0, 1, 0, 1, .reg, 0xFF, 0, 0⟩,
  ⟨0x48, 0, 1, 0, 1, .reg, 0x3FFFFF, 0, 0⟩,
  ⟨0x4C, 0, 1, 0, 1, .wo, 0, 0, 0⟩,
  ⟨0x50, 0, 1, 0, 1, .reg, 0, 0, 0⟩,
  ⟨0x60, 0, 1, 0, 1, .reg, 0, 0, 0⟩,
  ⟨0x64, 0, 1, 0, 1, .wo, 0, 0, 0⟩,
  ⟨0x70, 4, 16, 0, 1, .reg, 0, 0, 0⟩,
  ⟨0xB0, 4, 16, 0, 1, .reg, 0, 0, 0⟩,
  ⟨0xF0, 4, 16, 0, 1, .reg, 0, 0, 0⟩,
  ⟨0x130, 0, 1, 0, 1, .reg, 0, 0, 0⟩,
  ⟨0x134, 0, 1, 0, 1, .reg, 0x1F, 0, 0⟩,
  ⟨0x138, 0, 1, 0, 1, .stat, 0, 0, 0⟩,
  ⟨0x140, 4, 16, 0, 1, .reg, 0xFFFFFFFF, 0, 0⟩]

/-- The registers of TS. -/
def tsRows : List RegRow := [
  ⟨0, 0, 1, 0, 1, .reg, 1, 0, 1⟩,
  ⟨4, 0, 1, 0, 1, .reg, 0, 0, 1⟩,
  ⟨8, 0, 1, 0, 1, .reg, 0xFF, 0, 0⟩,
  ⟨0xC, 0, 1, 0, 1, .reg, 0xFFFF, 0, 0x3E8⟩,
  ⟨0x10, 0, 1, 0, 1, .loRo, 0, 0, 0⟩,
  ⟨0x14, 0, 1, 0, 1, .hiRo, 0, 0, 0⟩,
  ⟨0x18, 0, 1, 0, 1, .rc, 0, 0, 0⟩,
  ⟨0x1C, 0, 1, 0, 1, .rc, 0, 0, 0⟩,
  ⟨0x20, 0, 1, 0, 1, .reg, 0, 0, 0⟩,
  ⟨0x30, 0, 1, 0, 1, .reg, 0, 0, 0⟩,
  ⟨0x34, 0, 1, 0, 1, .reg, 3, 0, 0⟩,
  ⟨0x38, 0, 1, 0, 1, .stat, 0, 0, 0⟩,
  ⟨0x100, 0x40, 9, 0, 1, .rc, 0, 0, 0⟩,
  ⟨0x104, 0x40, 9, 0, 1, .reg, 0, 0, 0⟩,
  ⟨0x108, 0x40, 9, 0, 1, .wo, 0, 0, 0⟩,
  ⟨0x10C, 0x40, 9, 0, 1, .wo, 0, 0, 0⟩,
  ⟨0x110, 0x40, 9, 0, 1, .reg, 0xFFF, 0, 0⟩,
  ⟨0x114, 0x40, 9, 0, 1, .reg, 0xFFFFFFFF, 0, 0⟩,
  ⟨0x118, 0x40, 9, 0, 1, .reg, 0x3FF3FF7, 0, 0xFF0000⟩,
  ⟨0x11C, 0x40, 9, 0, 1, .reg, 0xFFFFFFFF, 0, 0⟩,
  ⟨0x120, 0x40, 9, 0, 1, .reg, 0xFFFF, 0, 0⟩,
  ⟨0x124, 0x40, 9, 0, 1, .reg, 0xFFFFFFFF, 0, 0⟩,
  ⟨0x128, 0x40, 9, 0, 1, .reg, 0xFFFF, 0, 0⟩,
  ⟨0x12C, 0x40, 9, 0, 1, .reg, 0xFFFFFFFF, 0, 0⟩,
  ⟨0x130, 0x40, 9, 0, 1, .wo, 0, 0, 0⟩,
  ⟨0x134, 0x40, 9, 0, 1, .reg, 0, 0, 0⟩,
  ⟨0x1000, 4, 256, 0, 1, .reg, 0x87FFFFFF, 0, 0⟩,
  ⟨0x4000, 4, 4096, 0, 1, .reg, 0, 0, 0⟩,
  ⟨0x8000, 4, 4096, 0, 1, .reg, 0, 0, 0⟩]

/-- The registers of PMU. -/
def pmuRows : List RegRow := [
  ⟨0, 0, 1, 0, 1, .reg, 3, 0, 0⟩,
  ⟨8, 0, 1, 0, 1, .reg, 0, 0xFFFF, 0⟩,
  ⟨0x10, 0, 1, 0, 1, .reg, 0x1FFFF, 0, 0x3E8⟩,
  ⟨0x20, 0, 1, 0, 1, .reg, 0, 0, 0⟩,
  ⟨0x24, 0, 1, 0, 1, .reg, 7, 0, 0⟩,
  ⟨0x28, 0, 1, 0, 1, .stat, 0, 0, 0⟩,
  ⟨0x30, 0, 1, 0, 1, .reg, 0, 0, 0⟩,
  ⟨0x34, 0, 1, 0, 1, .reg, 0x3F, 0, 0⟩,
  ⟨0x38, 0, 1, 0, 1, .rc, 0, 0, 0⟩,
  ⟨0x100, 0x20, 16, 0, 1, .lo, 0xFFFFFFFF, 0, 0⟩,
  ⟨0x104, 0x20, 16, 0, 1, .hi, 0xFFFF0000FFFF, 0, 0⟩,
  ⟨0x108, 0x20, 16, 0, 1, .reg, 0x37FF, 0, 0x700⟩,
  ⟨0x10C, 0x20, 16, 0, 1, .reg, 0x7FF, 0, 0x7FF⟩,
  ⟨0x110, 0x20, 16, 0, 1, .reg, 0x1F, 0, 0x1F⟩,
  ⟨0x114, 0x20, 16, 0, 1, .reg, 0xFFFFFFF, 0, 0⟩,
  ⟨0x118, 0x20, 16, 0, 1, .reg, 0xFFFFFFF, 0, 0xFFFFFFF⟩,
  ⟨0x400, 0x10, 8, 0, 1, .reg, 0, 0, 0⟩,
  ⟨0x404, 0x10, 8, 0, 1, .reg, 0, 0, 0⟩,
  ⟨0x408, 0x10, 8, 0, 1, .rc, 0, 0, 0⟩,
  ⟨0x1000, 0x20, 64, 4, 5, .reg, 0, 0, 0⟩]

/-- The registers of TP. -/
def tpRows : List RegRow := [
  ⟨0, 0, 1, 0, 1, .reg, 0x73F1F, 0, 0x70800⟩,
  ⟨4, 0, 1, 0, 1, .reg, 0, 0, 0⟩,
  ⟨8, 0, 1, 0, 1, .reg, 0xFFFFFFFF, 0, 0⟩,
  ⟨0xC, 0, 1, 0, 1, .reg, 0xFF, 0, 0⟩,
  ⟨0x10, 0, 1, 0, 1, .reg, 0x1FFF, 0, 0⟩,
  ⟨0x14, 0, 1, 0, 1, .reg, 0, 0, 0⟩,
  ⟨0x18, 0, 1, 0, 1, .reg, 0, 0, 0⟩,
  ⟨0x20, 0, 1, 0, 1, .reg, 0xFFFFFFFF, 0, 0xFFFFFFFF⟩,
  ⟨0x24, 0, 1, 0, 1, .reg, 0xFFFFFFFF, 0, 0xFFFFFFFF⟩,
  ⟨0x28, 0, 1, 0, 1, .reg, 0x7F, 0, 0x7F⟩,
  ⟨0x30, 0, 1, 0, 1, .loRo, 0, 0, 0⟩,
  ⟨0x34, 0, 1, 0, 1, .hiRo, 0, 0, 0⟩,
  ⟨0x38, 0, 1, 0, 1, .rc, 0, 0, 0⟩,
  ⟨0x40, 0, 1, 0, 1, .wo, 0, 0, 0⟩,
  ⟨0x44, 0, 1, 0, 1, .reg, 0, 0, 0⟩,
  ⟨0x80, 0, 1, 0, 1, .reg, 0, 0, 0⟩,
  ⟨0x84, 0, 1, 0, 1, .reg, 0x3F, 0, 0⟩,
  ⟨0x88, 0, 1, 0, 1, .stat, 0, 0, 0⟩,
  ⟨0x100, 0x10, 16, 0, 1, .reg, 0, 0, 0⟩,
  ⟨0x104, 0x10, 16, 0, 1, .reg, 0, 0, 0⟩,
  ⟨0x108, 0x10, 16, 0, 1, .reg, 0, 0, 0⟩,
  ⟨0x10C, 0x10, 16, 0, 1, .reg, 0, 0, 0⟩,
  ⟨0x200, 0, 1, 0, 1, .reg, 0xFFFFFFFF, 0, 0⟩,
  ⟨0x204, 0, 1, 0, 1, .reg, 0xFF, 0, 0⟩,
  ⟨0x208, 0, 1, 0, 1, .reg, 0x1FFF, 0, 0⟩,
  ⟨0x20C, 0, 1, 0, 1, .reg, 0xFFFFFFF, 0, 0⟩,
  ⟨0x210, 0, 1, 0, 1, .reg, 0xFFFFFFF, 0, 0⟩,
  ⟨0x214, 0, 1, 0, 1, .wo, 0, 0, 0⟩,
  ⟨0x218, 0, 1, 0, 1, .reg, 0, 0, 0⟩,
  ⟨0x21C, 0, 1, 0, 1, .reg, 0, 0, 0⟩,
  ⟨0x230, 0, 1, 0, 1, .rc, 0, 0, 0⟩,
  ⟨0x234, 0, 1, 0, 1, .reg, 0, 0, 0⟩,
  ⟨0x238, 0, 1, 0, 1, .reg, 0, 0, 0⟩,
  ⟨0x23C, 0, 1, 0, 1, .reg, 0, 0, 0⟩,
  ⟨0x240, 0, 1, 0, 1, .reg, 0, 0, 0⟩,
  ⟨0x244, 0, 1, 0, 1, .reg, 0, 0, 0⟩,
  ⟨0x248, 0, 1, 0, 1, .reg, 0, 0, 0⟩]

/-- The registers of FLT. -/
def fltRows : List RegRow := [
  ⟨0, 0, 1, 0, 1, .reg, 1, 0, 1⟩,
  ⟨4, 0, 1, 0, 1, .reg, 0xFFFF, 0, 0x64⟩,
  ⟨8, 0, 1, 0, 1, .reg, 0, 0x3FF, 0⟩,
  ⟨0xC, 0, 1, 0, 1, .rc, 0, 0, 0⟩,
  ⟨0x10, 0, 1, 0, 1, .reg, 0, 0, 0⟩,
  ⟨0x14, 0, 1, 0, 1, .reg, 0x3F, 0, 0⟩,
  ⟨0x18, 0, 1, 0, 1, .rc, 0, 0, 0⟩,
  ⟨0x20, 0, 1, 0, 1, .reg, 0, 0, 0⟩,
  ⟨0x24, 0, 1, 0, 1, .reg, 7, 0, 0⟩,
  ⟨0x28, 0, 1, 0, 1, .stat, 0, 0, 0⟩,
  ⟨0x40, 4, 10, 0, 1, .rc, 0, 0, 0⟩,
  ⟨0x100, 0x10, 64, 0, 1, .reg, 0, 0, 0⟩,
  ⟨0x104, 0x10, 64, 0, 1, .reg, 0, 0, 0⟩,
  ⟨0x108, 0x10, 64, 0, 1, .reg, 0, 0, 0⟩,
  ⟨0x10C, 0x10, 64, 0, 1, .reg, 0, 0, 0⟩]

/-- The registers of MC. -/
def mcRows : List RegRow := [
  ⟨0, 0, 1, 0, 1, .reg, 0xF, 0, 8⟩,
  ⟨4, 0, 1, 0, 1, .reg, 0, 0, 0⟩,
  ⟨8, 0, 1, 0, 1, .reg, 0x31F, 0, 0x300⟩,
  ⟨0xC, 0, 1, 0, 1, .reg, 0, 0, 0⟩,
  ⟨0x10, 0, 1, 0, 1, .reg, 3, 0, 0⟩,
  ⟨0x14, 0, 1, 0, 1, .reg, 1, 0, 0⟩,
  ⟨0x18, 0, 1, 0, 1, .reg, 0xFFFFF, 0, 0x1F40⟩,
  ⟨0x1C, 0, 1, 0, 1, .reg, 0xFFFF, 0, 0x1030⟩,
  ⟨0x20, 4, 8, 0, 1, .reg, 0xFFFF07, 0, 3⟩,
  ⟨0x40, 0, 1, 0, 1, .reg, 0, 0, 0⟩,
  ⟨0x44, 0, 1, 0, 1, .reg, 0x1F, 0, 0x10⟩,
  ⟨0x48, 0, 1, 0, 1, .reg, 0xF, 0, 3⟩,
  ⟨0x4C, 0, 1, 0, 1, .reg, 0xFFFFFF, 0, 0x80080⟩,
  ⟨0x50, 0, 1, 0, 1, .reg, 0, 0, 0⟩,
  ⟨0x54, 0, 1, 0, 1, .reg, 0xFF, 0, 0x18⟩,
  ⟨0x58, 0, 1, 0, 1, .reg, 1, 0, 0⟩,
  ⟨0x60, 0, 1, 0, 1, .rc, 0, 0, 0⟩,
  ⟨0x64, 0, 1, 0, 1, .rc, 0, 0, 0⟩,
  ⟨0x68, 0, 1, 0, 1, .rc, 0, 0, 0⟩,
  ⟨0x6C, 0, 1, 0, 1, .rc, 0, 0, 0⟩,
  ⟨0x70, 0, 1, 0, 1, .rc, 0, 0, 0⟩,
  ⟨0x74, 0, 1, 0, 1, .rc, 0, 0, 0⟩,
  ⟨0x78, 0, 1, 0, 1, .rc, 0, 0, 0⟩,
  ⟨0x80, 0, 1, 0, 1, .reg, 0, 0, 0⟩,
  ⟨0x84, 0, 1, 0, 1, .reg, 0, 0, 0⟩,
  ⟨0x88, 0, 1, 0, 1, .reg, 0, 0, 0⟩,
  ⟨0x8C, 0, 1, 0, 1, .reg, 0, 0x80000000, 0⟩,
  ⟨0x90, 0, 1, 0, 1, .reg, 0, 0, 0⟩,
  ⟨0x94, 0, 1, 0, 1, .reg, 0xFF, 0, 0⟩,
  ⟨0x98, 0, 1, 0, 1, .stat, 0, 0, 0⟩,
  ⟨0xA0, 0, 1, 0, 1, .wo, 0, 0, 0⟩,
  ⟨0xA4, 0, 1, 0, 1, .reg, 0, 0, 0⟩,
  ⟨0xA8, 0, 1, 0, 1, .reg, 0x3FFFF, 0, 0⟩,
  ⟨0xAC, 0, 1, 0, 1, .reg, 0x1F, 0, 0⟩,
  ⟨0xB0, 0, 1, 0, 1, .reg, 0xFFFFFF03, 0, 0x10000⟩,
  ⟨0xB4, 0, 1, 0, 1, .reg, 0, 0, 0⟩,
  ⟨0xB8, 0, 1, 0, 1, .reg, 0, 0, 0⟩,
  ⟨0xBC, 0, 1, 0, 1, .reg, 0x3F7F, 0, 0x1A19⟩,
  ⟨0xC0, 4, 5, 0, 1, .reg, 0xFFFFFFFF, 0, 0x40400840⟩]

/-- Resets of MC that differ from one instance or index to the next: (offset, value). -/
def mcResets : List (Nat × Nat) := [
  (0x28, 0x20C013), (0x2C, 0x20C013), (0x30, 0x20C013), (0x3C, 0x20C013), (0x8028, 0x20C013), (0x802C, 0x20C013),
  (0x8030, 0x20C013), (0x803C, 0x20C013)]

/-- The registers of PP. -/
def ppRows : List RegRow := [
  ⟨0, 0, 1, 0, 1, .reg, 1, 0, 1⟩,
  ⟨4, 0, 1, 0, 1, .reg, 0, 0, 0⟩,
  ⟨0x10, 0, 1, 0, 1, .loRo, 0, 0, 0⟩,
  ⟨0x14, 0, 1, 0, 1, .hiRo, 0, 0, 0⟩,
  ⟨0x18, 0, 1, 0, 1, .loRo, 0, 0, 0⟩,
  ⟨0x1C, 0, 1, 0, 1, .hiRo, 0, 0, 0⟩,
  ⟨0x20, 0, 1, 0, 1, .rc, 0, 0, 0⟩,
  ⟨0x24, 0, 1, 0, 1, .rc, 0, 0, 0⟩,
  ⟨0x28, 0, 1, 0, 1, .rc, 0, 0, 0⟩,
  ⟨0x2C, 0, 1, 0, 1, .rc, 0, 0, 0⟩,
  ⟨0x30, 0, 1, 0, 1, .rc, 0, 0, 0⟩,
  ⟨0x34, 0, 1, 0, 1, .rc, 0, 0, 0⟩,
  ⟨0x38, 0, 1, 0, 1, .rc, 0, 0, 0⟩,
  ⟨0x3C, 0, 1, 0, 1, .rc, 0, 0, 0⟩,
  ⟨0x40, 0, 1, 0, 1, .rc, 0, 0, 0⟩,
  ⟨0x44, 0, 1, 0, 1, .rc, 0, 0, 0⟩,
  ⟨0x48, 0, 1, 0, 1, .rc, 0, 0, 0⟩,
  ⟨0x50, 4, 8, 0, 1, .rc, 0, 0, 0⟩,
  ⟨0x80, 0, 1, 0, 1, .reg, 0, 0, 0⟩,
  ⟨0x84, 0, 1, 0, 1, .reg, 0xFF, 0, 0⟩,
  ⟨0x88, 0, 1, 0, 1, .stat, 0, 0, 0⟩,
  ⟨0x90, 0, 1, 0, 1, .reg, 0xFFFFFFFF, 0, 0⟩,
  ⟨0x94, 0, 1, 0, 1, .reg, 0, 0, 0⟩,
  ⟨0xA0, 0, 1, 0, 1, .reg, 0xFFFFFFFF, 0, 0⟩,
  ⟨0xA4, 0, 1, 0, 1, .reg, 0xFFFFFFFF, 0, 0⟩,
  ⟨0xA8, 0, 1, 0, 1, .reg, 0xFFFFFFFF, 0, 0⟩,
  ⟨0xAC, 0, 1, 0, 1, .reg, 0xFF, 0, 0⟩,
  ⟨0xB0, 0, 1, 0, 1, .reg, 0xFFFFFFFF, 0, 0⟩,
  ⟨0xB4, 0, 1, 0, 1, .reg, 0xFFFF, 0, 0⟩,
  ⟨0xB8, 0, 1, 0, 1, .reg, 0xFFFFFFFF, 0, 0⟩,
  ⟨0xBC, 0, 1, 0, 1, .wo, 0, 0, 0⟩,
  ⟨0xC0, 0, 1, 0, 1, .reg, 0, 0, 0⟩,
  ⟨0xC4, 0, 1, 0, 1, .reg, 0, 0, 0⟩,
  ⟨0xC8, 0, 1, 0, 1, .reg, 0xFF, 0, 0⟩,
  ⟨0x100, 4, 32, 0, 1, .reg, 0, 0xFFFFFFFF, 0⟩,
  ⟨0x400, 4, 256, 0, 1, .reg, 0, 0, 0⟩,
  ⟨0x1000, 0x10, 1024, 0, 1, .rc, 0, 0, 0⟩,
  ⟨0x1004, 0x10, 1024, 0, 1, .rc, 0, 0, 0⟩,
  ⟨0x1008, 0x10, 1024, 0, 1, .rc, 0, 0, 0⟩,
  ⟨0x8000, 8, 4096, 0, 1, .lo, 0xFFFFFFFF, 0, 0⟩,
  ⟨0x8004, 8, 4096, 0, 1, .hi, 0xFFFF0000FFFF, 0, 0⟩]

/-- The registers of TM. -/
def tmRows : List RegRow := [
  ⟨0, 0, 1, 0, 1, .reg, 3, 0, 2⟩,
  ⟨4, 0, 1, 0, 1, .reg, 0, 0, 0x1000⟩,
  ⟨8, 0, 1, 0, 1, .reg, 0, 0, 0xB800⟩,
  ⟨0xC, 0, 1, 0, 1, .reg, 0, 0, 0x18000⟩,
  ⟨0x10, 0, 1, 0, 1, .reg, 0xFFFFFFFF, 0, 0⟩,
  ⟨0x14, 0, 1, 0, 1, .reg, 0xFF, 0, 0⟩,
  ⟨0x18, 0, 1, 0, 1, .reg, 0x1FFF, 0, 0⟩,
  ⟨0x1C, 0, 1, 0, 1, .reg, 0, 0, 0⟩,
  ⟨0x20, 0, 1, 0, 1, .loRo, 0, 0, 0⟩,
  ⟨0x24, 0, 1, 0, 1, .hiRo, 0, 0, 0⟩,
  ⟨0x28, 0, 1, 0, 1, .loRo, 0, 0, 0⟩,
  ⟨0x2C, 0, 1, 0, 1, .hiRo, 0, 0, 0⟩,
  ⟨0x30, 0, 1, 0, 1, .loRo, 0, 0, 0⟩,
  ⟨0x34, 0, 1, 0, 1, .hiRo, 0, 0, 0⟩,
  ⟨0x40, 0, 1, 0, 1, .rc, 0, 0, 0⟩,
  ⟨0x44, 0, 1, 0, 1, .rc, 0, 0, 0⟩,
  ⟨0x48, 0, 1, 0, 1, .rc, 0, 0, 0⟩,
  ⟨0x4C, 0, 1, 0, 1, .rc, 0, 0, 0⟩,
  ⟨0x50, 0, 1, 0, 1, .rc, 0, 0, 0⟩,
  ⟨0x54, 0, 1, 0, 1, .rc, 0, 0, 0⟩,
  ⟨0x58, 0, 1, 0, 1, .rc, 0, 0, 0⟩,
  ⟨0x5C, 0, 1, 0, 1, .rc, 0, 0, 0⟩,
  ⟨0x60, 0, 1, 0, 1, .rc, 0, 0, 0⟩,
  ⟨0x80, 0, 1, 0, 1, .reg, 0, 0, 0⟩,
  ⟨0x84, 0, 1, 0, 1, .reg, 0x7F, 0, 0⟩,
  ⟨0x88, 0, 1, 0, 1, .stat, 0, 0, 0⟩,
  ⟨0x90, 0, 1, 0, 1, .reg, 0x7FFF, 0, 0⟩,
  ⟨0x94, 0, 1, 0, 1, .reg, 0, 0, 0⟩,
  ⟨0x98, 0, 1, 0, 1, .reg, 0, 0, 0⟩,
  ⟨0xA0, 0, 1, 0, 1, .loRo, 0, 0, 0⟩,
  ⟨0xA4, 0, 1, 0, 1, .hiRo, 0, 0, 0⟩,
  ⟨0xA8, 0, 1, 0, 1, .loRo, 0, 0, 0⟩,
  ⟨0xAC, 0, 1, 0, 1, .hiRo, 0, 0, 0⟩,
  ⟨0xB0, 0, 1, 0, 1, .reg, 0x177FFF, 0, 0⟩,
  ⟨0xB4, 0, 1, 0, 1, .reg, 0, 0, 0⟩,
  ⟨0x100, 0x20, 72, 0, 1, .loRo, 0, 0, 0⟩,
  ⟨0x104, 0x20, 72, 0, 1, .hiRo, 0, 0, 0⟩,
  ⟨0x108, 0x20, 72, 0, 1, .loRo, 0, 0, 0⟩,
  ⟨0x10C, 0x20, 72, 0, 1, .hiRo, 0, 0, 0⟩,
  ⟨0x110, 0x20, 72, 0, 1, .rc, 0, 0, 0⟩,
  ⟨0x114, 0x20, 72, 0, 1, .rc, 0, 0, 0⟩,
  ⟨0x118, 0x20, 72, 0, 1, .reg, 0, 0, 0⟩]

/-- The registers of GEN. -/
def genRows : List RegRow := [
  ⟨0, 0, 1, 0, 1, .reg, 1, 0, 0⟩,
  ⟨4, 0, 1, 0, 1, .reg, 0, 0, 0⟩,
  ⟨8, 0, 1, 0, 1, .reg, 0, 0, 0⟩,
  ⟨0x10, 0, 1, 0, 1, .loRo, 0, 0, 0⟩,
  ⟨0x14, 0, 1, 0, 1, .hiRo, 0, 0, 0⟩,
  ⟨0x18, 0, 1, 0, 1, .loRo, 0, 0, 0⟩,
  ⟨0x1C, 0, 1, 0, 1, .hiRo, 0, 0, 0⟩,
  ⟨0x20, 0, 1, 0, 1, .reg, 0xFFFFFFFF, 0, 0⟩,
  ⟨0x24, 0, 1, 0, 1, .reg, 0xFF, 0, 0⟩,
  ⟨0x28, 0, 1, 0, 1, .reg, 0xFFFFFFFF, 0, 0⟩,
  ⟨0x2C, 0, 1, 0, 1, .wo, 0, 0, 0⟩,
  ⟨0x30, 0, 1, 0, 1, .reg, 0, 0, 0⟩,
  ⟨0x34, 0, 1, 0, 1, .reg, 0xFFFF, 0, 0xFA0⟩,
  ⟨0x38, 0, 1, 0, 1, .reg, 0xFFFFFFFF, 0, 0⟩,
  ⟨0x3C, 0, 1, 0, 1, .reg, 0xFFFF, 0, 0⟩,
  ⟨0x40, 0, 1, 0, 1, .wo, 0, 0, 0⟩,
  ⟨0x44, 0, 1, 0, 1, .reg, 0, 0, 0⟩,
  ⟨0x48, 0, 1, 0, 1, .reg, 0, 0, 0⟩,
  ⟨0x50, 0, 1, 0, 1, .loRo, 0, 0, 0⟩,
  ⟨0x54, 0, 1, 0, 1, .hiRo, 0, 0, 0⟩,
  ⟨0x58, 0, 1, 0, 1, .loRo, 0, 0, 0⟩,
  ⟨0x5C, 0, 1, 0, 1, .hiRo, 0, 0, 0⟩,
  ⟨0x60, 0, 1, 0, 1, .reg, 0, 0, 0⟩,
  ⟨0x64, 0, 1, 0, 1, .reg, 0x1FF, 0, 0⟩,
  ⟨0x68, 0, 1, 0, 1, .stat, 0, 0, 0⟩,
  ⟨0x70, 0, 1, 0, 1, .reg, 0, 0xFFFFFFFF, 0⟩,
  ⟨0x74, 0, 1, 0, 1, .reg, 0, 0xFFFFFFFF, 0⟩,
  ⟨0x78, 0, 1, 0, 1, .reg, 0, 3, 0⟩,
  ⟨0x80, 0, 1, 0, 1, .loRo, 0, 0, 0⟩,
  ⟨0x84, 0, 1, 0, 1, .hiRo, 0, 0, 0⟩,
  ⟨0x88, 0, 1, 0, 1, .rc, 0, 0, 0⟩,
  ⟨0x8C, 0, 1, 0, 1, .rc, 0, 0, 0⟩,
  ⟨0x100, 0x20, 4, 0, 1, .reg, 0, 0, 0⟩,
  ⟨0x104, 0x20, 4, 0, 1, .reg, 0, 0, 0⟩,
  ⟨0x108, 0x20, 4, 0, 1, .reg, 0, 0, 0⟩,
  ⟨0x10C, 0x20, 4, 0, 1, .reg, 0, 0, 0⟩,
  ⟨0x110, 0x20, 4, 0, 1, .reg, 0, 0, 0⟩,
  ⟨0x180, 0, 1, 0, 1, .reg, 0xFFF03, 0, 0⟩,
  ⟨0x184, 0, 1, 0, 1, .reg, 0, 0, 0⟩,
  ⟨0x200, 4, 69, 0, 1, .reg, 0, 0, 0x20000⟩]

/-- The registers of STA. -/
def staRows : List RegRow := [
  ⟨0, 0, 1, 0, 1, .reg, 3, 0, 3⟩,
  ⟨4, 0, 1, 0, 1, .reg, 0, 0, 0⟩,
  ⟨8, 0, 1, 0, 1, .reg, 0xFFFFFFFF, 0, 0⟩,
  ⟨0xC, 0, 1, 0, 1, .reg, 0, 0xC, 0⟩,
  ⟨0x10, 0, 1, 0, 1, .reg, 0xFF00, 0, 0⟩,
  ⟨0x14, 0, 1, 0, 1, .reg, 0xFFFFF, 0, 0x303E8⟩,
  ⟨0x18, 0, 1, 0, 1, .reg, 0xFF, 0, 0x10⟩,
  ⟨0x1C, 0, 1, 0, 1, .reg, 0x1F, 0, 8⟩,
  ⟨0x20, 0, 1, 0, 1, .reg, 0xFFF0001, 0, 0⟩,
  ⟨0x24, 0, 1, 0, 1, .reg, 0xFFFF, 0, 0x1400⟩,
  ⟨0x28, 4, 2, 0, 1, .reg, 0, 0, 0⟩,
  ⟨0x30, 0, 1, 0, 1, .reg, 0xFFFFFFFF, 0, 0⟩,
  ⟨0x34, 0, 1, 0, 1, .reg, 0xFF, 0, 0⟩,
  ⟨0x38, 0, 1, 0, 1, .reg, 0xFFF, 0, 0⟩,
  ⟨0x3C, 0, 1, 0, 1, .reg, 0, 0, 0⟩,
  ⟨0x40, 0, 1, 0, 1, .rc, 0, 0, 0⟩,
  ⟨0x44, 0, 1, 0, 1, .reg, 0xFFFFFFFF, 0, 0⟩,
  ⟨0x48, 0, 1, 0, 1, .reg, 0xFFFF, 0, 0⟩,
  ⟨0x50, 0, 1, 0, 1, .reg, 0, 0, 0⟩,
  ⟨0x54, 0, 1, 0, 1, .reg, 0x7F, 0, 0⟩,
  ⟨0x58, 0, 1, 0, 1, .stat, 0, 0, 0⟩,
  ⟨0x60, 0, 1, 0, 1, .reg, 0, 0, 0⟩,
  ⟨0x64, 0, 1, 0, 1, .reg, 0xFF, 0, 0⟩,
  ⟨0x68, 0, 1, 0, 1, .rc, 0, 0, 0⟩,
  ⟨0x70, 8, 3, 0, 1, .reg, 0xFFFFFFFF, 0, 0⟩,
  ⟨0x74, 8, 3, 0, 1, .reg, 0xFFFF, 0, 0⟩,
  ⟨0x100, 0x20, 3, 4, 8, .rc, 0, 0, 0⟩,
  ⟨0x200, 4, 16, 0, 1, .reg, 0xFFFFFFFF, 0, 0⟩,
  ⟨0x240, 0, 1, 0, 1, .wo, 0, 0, 0⟩,
  ⟨0x244, 0, 1, 0, 1, .reg, 0, 0, 0⟩,
  ⟨0x250, 4, 4, 0, 1, .reg, 0, 0, 0⟩,
  ⟨0x280, 4, 8, 0, 1, .wo, 0, 0, 0⟩,
  ⟨0x2A0, 0, 1, 0, 1, .reg, 0xDFFFF, 0, 0⟩,
  ⟨0x2A4, 0, 1, 0, 1, .reg, 0xFFFFFFFF, 0, 0⟩,
  ⟨0x2A8, 0, 1, 0, 1, .reg, 0xFFFF, 0, 0⟩,
  ⟨0x2AC, 0, 1, 0, 1, .wo, 0, 0, 0⟩,
  ⟨0x2B0, 0, 1, 0, 1, .reg, 0, 0, 0⟩,
  ⟨0x1000, 8, 256, 0, 1, .reg, 0, 0, 0⟩,
  ⟨0x1004, 8, 256, 0, 1, .reg, 0, 0, 0⟩]

/-- The registers of DUTY. -/
def dutyRows : List RegRow := [
  ⟨0, 0x20, 16, 0, 1, .reg, 0, 0, 0⟩,
  ⟨4, 0x20, 16, 0, 1, .reg, 0, 0, 0⟩,
  ⟨8, 0x20, 16, 0, 1, .reg, 0, 0, 0⟩,
  ⟨0xC, 0x20, 16, 0, 1, .reg, 0xFFFFFFFF, 0, 0⟩,
  ⟨0x10, 0x20, 16, 0, 1, .reg, 0, 0, 0⟩,
  ⟨0x14, 0x20, 16, 0, 1, .reg, 0, 0, 0⟩,
  ⟨0x18, 0x20, 16, 0, 1, .rc, 0, 0, 0⟩]

/-- The registers of AIR. -/
def airRows : List RegRow := [
  ⟨0, 0, 1, 0, 1, .reg, 1, 0, 1⟩,
  ⟨4, 0, 1, 0, 1, .reg, 0, 0, 0⟩,
  ⟨8, 0, 1, 0, 1, .reg, 0xFFFFF, 0, 0x4E20⟩,
  ⟨0xC, 0, 1, 0, 1, .reg, 0xFFFF, 0, 0xFA0⟩,
  ⟨0x10, 0, 1, 0, 1, .reg, 0xFFFFF, 0, 0x3620A⟩,
  ⟨0x14, 0, 1, 0, 1, .reg, 0xFFFFFF, 0, 0⟩,
  ⟨0x18, 0, 1, 0, 1, .reg, 0xFFFF, 0, 0x5000⟩,
  ⟨0x1C, 0, 1, 0, 1, .reg, 0xFFFF, 0, 0x280⟩,
  ⟨0x20, 0, 1, 0, 1, .reg, 0xFFFFF, 0, 0x32000⟩,
  ⟨0x24, 0, 1, 0, 1, .reg, 0xFFFF, 0, 0x800⟩,
  ⟨0x28, 0, 1, 0, 1, .reg, 0, 0, 0⟩,
  ⟨0x30, 0, 1, 0, 1, .reg, 0, 0, 0⟩,
  ⟨0x34, 0, 1, 0, 1, .reg, 0x1F, 0, 0⟩,
  ⟨0x38, 0, 1, 0, 1, .stat, 0, 0, 0⟩,
  ⟨0x40, 0, 1, 0, 1, .reg, 0, 0, 0⟩,
  ⟨0x44, 0, 1, 0, 1, .reg, 0xFF, 0, 0⟩,
  ⟨0x48, 0, 1, 0, 1, .rc, 0, 0, 0⟩,
  ⟨0x80, 4, 8, 0, 1, .rc, 0, 0, 0⟩,
  ⟨0xC0, 0, 1, 0, 1, .rc, 0, 0, 0⟩,
  ⟨0xC4, 0, 1, 0, 1, .rc, 0, 0, 0⟩,
  ⟨0xC8, 0, 1, 0, 1, .rc, 0, 0, 0⟩,
  ⟨0xCC, 0, 1, 0, 1, .rc, 0, 0, 0⟩,
  ⟨0xD0, 0, 1, 0, 1, .rc, 0, 0, 0⟩,
  ⟨0x100, 4, 8, 0, 1, .reg, 0xFFFFFFFF, 0, 0⟩,
  ⟨0x120, 0, 1, 0, 1, .wo, 0, 0, 0⟩,
  ⟨0x124, 0, 1, 0, 1, .reg, 0, 0, 0⟩,
  ⟨0x1000, 8, 256, 0, 1, .reg, 0, 0, 0⟩,
  ⟨0x1004, 8, 256, 0, 1, .reg, 0, 0, 0⟩,
  ⟨0x20000, 0x20, 4096, 0, 1, .reg, 0, 0, 0⟩,
  ⟨0x20004, 0x20, 4096, 0, 1, .reg, 0, 0, 0⟩,
  ⟨0x20008, 0x20, 4096, 0, 1, .reg, 0, 0, 0x5000⟩,
  ⟨0x2000C, 0x20, 4096, 0, 1, .reg, 0, 0, 0x800⟩,
  ⟨0x20010, 0x20, 4096, 0, 1, .loRo, 0, 0, 0⟩,
  ⟨0x20014, 0x20, 4096, 0, 1, .hiRo, 0, 0, 0⟩,
  ⟨0x20018, 0x20, 4096, 0, 1, .reg, 0, 0, 0⟩,
  ⟨0x2001C, 0x20, 4096, 0, 1, .reg, 0, 0, 0xFFFF0000⟩]

/-- The registers of SP. -/
def spRows : List RegRow := [
  ⟨0, 0, 1, 0, 1, .reg, 0xFF, 0, 0x25⟩,
  ⟨4, 0, 1, 0, 1, .reg, 0, 0, 0⟩,
  ⟨8, 0, 1, 0, 1, .reg, 0x1F, 0, 0xF⟩,
  ⟨0xC, 0, 1, 0, 1, .reg, 0, 0, 0⟩,
  ⟨0x10, 0, 1, 0, 1, .reg, 0, 0, 0x4B00E95⟩,
  ⟨0x14, 0, 1, 0, 1, .reg, 0xFFFF0001, 0, 0x140000⟩,
  ⟨0x18, 0, 1, 0, 1, .reg, 0, 0, 0⟩,
  ⟨0x1C, 0, 1, 0, 1, .reg, 0xFFFF, 0, 0x7D0⟩,
  ⟨0x20, 0, 1, 0, 1, .reg, 0xFF3F, 0, 0x8000⟩,
  ⟨0x24, 0, 1, 0, 1, .reg, 0xFFFFFFFF, 0, 0xC801F4⟩,
  ⟨0x28, 0, 1, 0, 1, .reg, 0, 0, 0⟩,
  ⟨0x2C, 0, 1, 0, 1, .reg, 0, 0, 0⟩,
  ⟨0x30, 0, 1, 0, 1, .reg, 0, 0, 0x80000000⟩,
  ⟨0x34, 0, 1, 0, 1, .reg, 0xFFFF, 0, 0x64⟩,
  ⟨0x38, 0, 1, 0, 1, .wo, 0, 0, 0⟩,
  ⟨0x3C, 0, 1, 0, 1, .reg, 0, 0, 0⟩,
  ⟨0x40, 0, 1, 0, 1, .reg, 0x3FF, 0, 0x294⟩,
  ⟨0x50, 4, 4, 0, 1, .reg, 0, 0, 0⟩,
  ⟨0x60, 0, 1, 0, 1, .reg, 0xFFFF0F01, 0, 0x200⟩,
  ⟨0x64, 0, 1, 0, 1, .reg, 0, 0, 0⟩,
  ⟨0x70, 0, 1, 0, 1, .reg, 3, 0, 3⟩,
  ⟨0x74, 0, 1, 0, 1, .reg, 0x3FFF, 0, 0x7D0⟩,
  ⟨0x78, 0, 1, 0, 1, .reg, 0, 0, 0⟩,
  ⟨0x7C, 0, 1, 0, 1, .rc, 0, 0, 0⟩,
  ⟨0x80, 0, 1, 0, 1, .reg, 0, 0, 0⟩,
  ⟨0x84, 0, 1, 0, 1, .reg, 0, 0, 0⟩,
  ⟨0x90, 0, 1, 0, 1, .reg, 0, 0, 0⟩,
  ⟨0x94, 0, 1, 0, 1, .reg, 0xF, 0, 0⟩,
  ⟨0x98, 0, 1, 0, 1, .stat, 0, 0, 0⟩,
  ⟨0xA0, 0, 1, 0, 1, .reg, 0, 0, 0⟩,
  ⟨0xA4, 0, 1, 0, 1, .reg, 7, 0, 0⟩,
  ⟨0xA8, 0, 1, 0, 1, .stat, 0, 0, 0⟩,
  ⟨0x100, 0, 1, 0, 1, .lo, 0xFFFFFFFF, 0, 0⟩,
  ⟨0x104, 0, 1, 0, 1, .hi, 0xFFFF, 0, 0⟩,
  ⟨0x108, 0, 1, 0, 1, .lo, 0xFFFFFFFF, 0, 0⟩,
  ⟨0x10C, 0, 1, 0, 1, .hi, 0xFFFF, 0, 0⟩,
  ⟨0x110, 0, 1, 0, 1, .lo, 0xFFFFFFFF, 0, 0⟩,
  ⟨0x114, 0, 1, 0, 1, .hi, 0xFFFF, 0, 0⟩,
  ⟨0x118, 0, 1, 0, 1, .lo, 0xFFFFFFFF, 0, 0⟩,
  ⟨0x11C, 0, 1, 0, 1, .hi, 0xFFFF, 0, 0⟩,
  ⟨0x120, 0, 1, 0, 1, .rc, 0, 0, 0⟩,
  ⟨0x124, 0, 1, 0, 1, .rc, 0, 0, 0⟩,
  ⟨0x128, 0, 1, 0, 1, .rc, 0, 0, 0⟩,
  ⟨0x12C, 0, 1, 0, 1, .rc, 0, 0, 0⟩,
  ⟨0x130, 0, 1, 0, 1, .rc, 0, 0, 0⟩,
  ⟨0x134, 0, 1, 0, 1, .rc, 0, 0, 0⟩,
  ⟨0x138, 0, 1, 0, 1, .rc, 0, 0, 0⟩,
  ⟨0x13C, 0, 1, 0, 1, .rc, 0, 0, 0⟩,
  ⟨0x140, 0, 1, 0, 1, .rc, 0, 0, 0⟩,
  ⟨0x144, 0, 1, 0, 1, .rc, 0, 0, 0⟩,
  ⟨0x148, 0, 1, 0, 1, .rc, 0, 0, 0⟩,
  ⟨0x14C, 0, 1, 0, 1, .rc, 0, 0, 0⟩,
  ⟨0x150, 0, 1, 0, 1, .rc, 0, 0, 0⟩]

/-- The registers of UL. -/
def ulRows : List RegRow := [
  ⟨0, 0, 1, 0, 1, .reg, 0xFF, 0, 0⟩,
  ⟨4, 0, 1, 0, 1, .reg, 0, 0, 0⟩,
  ⟨8, 0, 1, 0, 1, .reg, 0, 0, 0⟩,
  ⟨0xC, 0, 1, 0, 1, .reg, 0xFFFF, 0, 0x64⟩,
  ⟨0x10, 0, 1, 0, 1, .reg, 0x3F1F1F, 0, 0x300802⟩,
  ⟨0x14, 0, 1, 0, 1, .reg, 1, 0, 0⟩,
  ⟨0x20, 0, 1, 0, 1, .reg, 3, 0, 3⟩,
  ⟨0x24, 0, 1, 0, 1, .reg, 0x3FFF, 0, 0x7D0⟩,
  ⟨0x28, 0, 1, 0, 1, .reg, 0, 0, 0⟩,
  ⟨0x2C, 0, 1, 0, 1, .rc, 0, 0, 0⟩,
  ⟨0x30, 0, 1, 0, 1, .reg, 0, 0, 0⟩,
  ⟨0x34, 0, 1, 0, 1, .reg, 0, 0, 0⟩,
  ⟨0x40, 4, 4, 0, 1, .reg, 0x1FFFF, 0, 0⟩,
  ⟨0x50, 0, 1, 0, 1, .reg, 0x77, 0, 0x77⟩,
  ⟨0x60, 0, 1, 0, 1, .reg, 0, 0, 0⟩,
  ⟨0x64, 0, 1, 0, 1, .reg, 0x7FF, 0, 0⟩,
  ⟨0x68, 0, 1, 0, 1, .stat, 0, 0, 0⟩,
  ⟨0x100, 0, 1, 0, 1, .lo, 0xFFFFFFFF, 0, 0⟩,
  ⟨0x104, 0, 1, 0, 1, .hi, 0xFFFF, 0, 0⟩,
  ⟨0x108, 0, 1, 0, 1, .lo, 0xFFFFFFFF, 0, 0⟩,
  ⟨0x10C, 0, 1, 0, 1, .hi, 0xFFFF, 0, 0⟩,
  ⟨0x110, 0, 1, 0, 1, .lo, 0xFFFFFFFF, 0, 0⟩,
  ⟨0x114, 0, 1, 0, 1, .hi, 0xFFFF, 0, 0⟩,
  ⟨0x118, 0, 1, 0, 1, .lo, 0xFFFFFFFF, 0, 0⟩,
  ⟨0x11C, 0, 1, 0, 1, .hi, 0xFFFF, 0, 0⟩,
  ⟨0x120, 0, 1, 0, 1, .rc, 0, 0, 0⟩,
  ⟨0x124, 0, 1, 0, 1, .rc, 0, 0, 0⟩,
  ⟨0x128, 0, 1, 0, 1, .rc, 0, 0, 0⟩,
  ⟨0x12C, 0, 1, 0, 1, .rc, 0, 0, 0⟩,
  ⟨0x130, 0, 1, 0, 1, .rc, 0, 0, 0⟩,
  ⟨0x134, 0, 1, 0, 1, .rc, 0, 0, 0⟩,
  ⟨0x138, 0, 1, 0, 1, .rc, 0, 0, 0⟩,
  ⟨0x13C, 0, 1, 0, 1, .rc, 0, 0, 0⟩,
  ⟨0x140, 0, 1, 0, 1, .rc, 0, 0, 0⟩,
  ⟨0x144, 0, 1, 0, 1, .rc, 0, 0, 0⟩,
  ⟨0x148, 0, 1, 0, 1, .rc, 0, 0, 0⟩,
  ⟨0x14C, 0, 1, 0, 1, .rc, 0, 0, 0⟩,
  ⟨0x150, 0, 1, 0, 1, .rc, 0, 0, 0⟩,
  ⟨0x200, 0, 1, 0, 1, .reg, 0xF, 0, 0xE⟩,
  ⟨0x204, 0, 1, 0, 1, .reg, 0xFFFFFFFF, 0, 0⟩,
  ⟨0x208, 0, 1, 0, 1, .reg, 0xFFFFFFFF, 0, 0⟩,
  ⟨0x20C, 0, 1, 0, 1, .reg, 0xFFFFFFFF, 0, 0⟩,
  ⟨0x210, 0, 1, 0, 1, .reg, 0x133, 0, 0⟩,
  ⟨0x214, 0, 1, 0, 1, .reg, 0, 0, 0⟩,
  ⟨0x218, 4, 4, 0, 1, .reg, 0x1FFFF, 0, 0⟩,
  ⟨0x230, 8, 4, 0, 1, .reg, 0xFFFFFFFF, 0, 0⟩,
  ⟨0x234, 8, 4, 0, 1, .reg, 0xFFFFFFFF, 0, 0⟩,
  ⟨0x250, 4, 8, 0, 1, .wo, 0, 0, 0⟩,
  ⟨0x270, 0, 1, 0, 1, .reg, 0x3F, 0, 0⟩,
  ⟨0x274, 0, 1, 0, 1, .reg, 0xFFFFFFFF, 0, 1⟩,
  ⟨0x278, 0, 1, 0, 1, .wo, 0, 0, 0⟩,
  ⟨0x27C, 0, 1, 0, 1, .reg, 0, 0, 0⟩,
  ⟨0x280, 0, 1, 0, 1, .rc, 0, 0, 0⟩,
  ⟨0x284, 0, 1, 0, 1, .rc, 0, 0, 0⟩,
  ⟨0x288, 0, 1, 0, 1, .rc, 0, 0, 0⟩,
  ⟨0x28C, 0, 1, 0, 1, .rc, 0, 0, 0⟩,
  ⟨0x290, 0, 1, 0, 1, .rc, 0, 0, 0⟩,
  ⟨0x294, 0, 1, 0, 1, .rc, 0, 0, 0⟩,
  ⟨0x400, 0, 1, 0, 1, .reg, 0xFFFFFFFF, 0, 0⟩,
  ⟨0x404, 0, 1, 0, 1, .reg, 0xFF, 0, 0⟩,
  ⟨0x408, 0, 1, 0, 1, .reg, 0x1FFF, 0, 8⟩,
  ⟨0x40C, 0, 1, 0, 1, .reg, 0x1FFFF, 0, 0x800⟩,
  ⟨0x410, 0, 1, 0, 1, .reg, 0, 0, 0⟩,
  ⟨0x414, 0, 1, 0, 1, .reg, 0xFFF, 0, 0⟩,
  ⟨0x420, 0, 1, 0, 1, .reg, 0xFFFFFFFF, 0, 0⟩,
  ⟨0x424, 0, 1, 0, 1, .reg, 0xFF, 0, 0⟩,
  ⟨0x428, 0, 1, 0, 1, .reg, 0x1FFF, 0, 8⟩,
  ⟨0x42C, 0, 1, 0, 1, .reg, 0x1FFFF, 0, 0x800⟩,
  ⟨0x430, 0, 1, 0, 1, .reg, 0, 0, 0⟩,
  ⟨0x434, 0, 1, 0, 1, .reg, 0xFFF, 0, 0⟩,
  ⟨0x440, 0, 1, 0, 1, .rc, 0, 0, 0⟩,
  ⟨0x444, 0, 1, 0, 1, .rc, 0, 0, 0⟩,
  ⟨0x448, 0, 1, 0, 1, .rc, 0, 0, 0⟩]

/-- Resets of UL that differ from one instance or index to the next: (offset, value). -/
def ulResets : List (Nat × Nat) := [
  (0x40, 0x1888E), (0x10040, 0x1888E), (0x218, 0x1888E), (0x10218, 0x1888E)]

/-- The registers of RD. -/
def rdRows : List RegRow := [
  ⟨0, 0, 1, 0, 1, .reg, 7, 0, 2⟩,
  ⟨4, 0, 1, 0, 1, .reg, 0, 0, 0⟩,
  ⟨8, 0, 1, 0, 1, .reg, 0xFFFF, 0, 0x4E20⟩,
  ⟨0xC, 0, 1, 0, 1, .reg, 0xFFF, 0, 0x12C⟩,
  ⟨0x10, 0, 1, 0, 1, .reg, 0x3F3F3F, 0, 0x140C08⟩,
  ⟨0x14, 0, 1, 0, 1, .reg, 0x1FF, 0, 0x1FF⟩,
  ⟨0x18, 0, 1, 0, 1, .reg, 0xF, 0, 0xF⟩,
  ⟨0x1C, 0, 1, 0, 1, .reg, 0xFFFF, 0, 0x7D0⟩,
  ⟨0x20, 0, 1, 0, 1, .reg, 0, 0, 0⟩,
  ⟨0x24, 0, 1, 0, 1, .reg, 0, 0, 0⟩,
  ⟨0x28, 0, 1, 0, 1, .reg, 0xFF, 0, 0xC⟩,
  ⟨0x2C, 0, 1, 0, 1, .reg, 0xFFFF003F, 0, 0x640001⟩,
  ⟨0x30, 0, 1, 0, 1, .reg, 0, 0, 0⟩,
  ⟨0x34, 0, 1, 0, 1, .reg, 0xFFFFFFFF, 0, 0x3C280C18⟩,
  ⟨0x40, 4, 4, 0, 1, .reg, 0, 0, 0⟩,
  ⟨0x50, 4, 2, 0, 1, .reg, 0x7FF, 0, 0⟩,
  ⟨0x60, 4, 4, 0, 1, .reg, 0xFFFFFFFF, 0, 0⟩,
  ⟨0x80, 0, 1, 0, 1, .rc, 0, 0, 0⟩,
  ⟨0x84, 0, 1, 0, 1, .rc, 0, 0, 0⟩,
  ⟨0x88, 0, 1, 0, 1, .rc, 0, 0, 0⟩,
  ⟨0x8C, 0, 1, 0, 1, .rc, 0, 0, 0⟩,
  ⟨0x90, 0, 1, 0, 1, .rc, 0, 0, 0⟩,
  ⟨0x94, 0, 1, 0, 1, .rc, 0, 0, 0⟩,
  ⟨0x98, 0, 1, 0, 1, .rc, 0, 0, 0⟩,
  ⟨0x9C, 0, 1, 0, 1, .rc, 0, 0, 0⟩,
  ⟨0xA0, 0, 1, 0, 1, .loRo, 0, 0, 0⟩,
  ⟨0xA4, 0, 1, 0, 1, .hiRo, 0, 0, 0⟩,
  ⟨0xB0, 0, 1, 0, 1, .reg, 0, 0, 0⟩,
  ⟨0xB4, 0, 1, 0, 1, .reg, 0x7F, 0, 0⟩,
  ⟨0xB8, 0, 1, 0, 1, .stat, 0, 0, 0⟩,
  ⟨0x10000, 0, 1, 0, 1, .reg, 7, 0, 7⟩,
  ⟨0x10004, 0, 1, 0, 1, .reg, 0, 0, 5⟩,
  ⟨0x10008, 0, 1, 0, 1, .reg, 0xFFFF, 0, 0xC2AE⟩,
  ⟨0x1000C, 0, 1, 0, 1, .reg, 0xFFFF, 0, 0x2818⟩,
  ⟨0x10010, 0, 1, 0, 1, .reg, 0xFFF, 0, 0x12C⟩,
  ⟨0x10014, 0, 1, 0, 1, .reg, 0x1F, 0, 0xC⟩,
  ⟨0x10018, 0, 1, 0, 1, .reg, 0xFFFF, 0, 0x64⟩,
  ⟨0x1001C, 0, 1, 0, 1, .reg, 0xFFF, 0, 0x64⟩,
  ⟨0x10020, 4, 4, 0, 1, .reg, 0x3FF, 0, 0⟩,
  ⟨0x10030, 4, 4, 0, 1, .reg, 0, 0, 0x10000⟩,
  ⟨0x10040, 0, 1, 0, 1, .reg, 0, 0, 0⟩,
  ⟨0x10044, 0, 1, 0, 1, .reg, 0, 0, 0⟩,
  ⟨0x10048, 0, 1, 0, 1, .reg, 0, 0, 0⟩,
  ⟨0x1004C, 0, 1, 0, 1, .reg, 0, 0, 0⟩,
  ⟨0x10050, 0, 1, 0, 1, .reg, 0, 0, 0⟩,
  ⟨0x10080, 0, 1, 0, 1, .rc, 0, 0, 0⟩,
  ⟨0x10084, 0, 1, 0, 1, .rc, 0, 0, 0⟩,
  ⟨0x10088, 0, 1, 0, 1, .rc, 0, 0, 0⟩,
  ⟨0x1008C, 0, 1, 0, 1, .rc, 0, 0, 0⟩,
  ⟨0x10090, 0, 1, 0, 1, .rc, 0, 0, 0⟩,
  ⟨0x10094, 0, 1, 0, 1, .rc, 0, 0, 0⟩,
  ⟨0x10098, 0, 1, 0, 1, .rc, 0, 0, 0⟩,
  ⟨0x1009C, 0, 1, 0, 1, .rc, 0, 0, 0⟩,
  ⟨0x100A0, 0, 1, 0, 1, .rc, 0, 0, 0⟩,
  ⟨0x100A4, 0, 1, 0, 1, .rc, 0, 0, 0⟩,
  ⟨0x100B0, 0, 1, 0, 1, .loRo, 0, 0, 0⟩,
  ⟨0x100B4, 0, 1, 0, 1, .hiRo, 0, 0, 0⟩,
  ⟨0x18000, 4, 4096, 0, 1, .reg, 0, 0, 0⟩]

/-- Resets of RD that differ from one instance or index to the next: (offset, value). -/
def rdResets : List (Nat × Nat) := [
  (0x200000, 6), (0x200018, 3), (0x210008, 0xB09C), (0x21001C, 0x3E8), (0x200050, 0x210), (0x200054, 0x210)]

/-- The registers of GH. -/
def ghRows : List RegRow := [
  ⟨0, 0, 1, 0, 1, .reg, 0, 0, 0x47480001⟩,
  ⟨4, 0, 1, 0, 1, .reg, 0, 0, 0⟩,
  ⟨8, 0, 1, 0, 1, .reg, 0, 0, 0⟩,
  ⟨0xC, 0, 1, 0, 1, .reg, 0, 0, 0⟩,
  ⟨0x10, 0, 1, 0, 1, .reg, 0, 0, 0⟩,
  ⟨0x14, 0, 1, 0, 1, .reg, 0, 0, 0⟩,
  ⟨0x18, 0, 1, 0, 1, .reg, 0, 0, 0⟩,
  ⟨0x20, 4, 8, 0, 1, .reg, 0, 0, 0⟩,
  ⟨0x40, 4, 16, 0, 1, .reg, 0, 0, 0⟩,
  ⟨0x80, 4, 8, 0, 1, .reg, 0, 0, 0⟩,
  ⟨0xA0, 0, 1, 0, 1, .reg, 0, 0, 0⟩,
  ⟨0xA4, 0, 1, 0, 1, .reg, 0, 0, 0⟩,
  ⟨0xC0, 8, 4, 0, 1, .reg, 0, 0, 0⟩,
  ⟨0xC4, 8, 4, 0, 1, .reg, 0, 0, 0⟩]

/-- The registers of CC. -/
def ccRows : List RegRow := [
  ⟨0, 0x10, 8, 0, 1, .reg, 3, 0, 1⟩,
  ⟨4, 0x10, 8, 0, 1, .reg, 0, 0, 0xD⟩,
  ⟨8, 0x10, 8, 0, 1, .reg, 0xFFFFFF, 0, 0⟩,
  ⟨0xC, 0x10, 8, 0, 1, .reg, 0xFFFFFFFF, 0, 0⟩,
  ⟨0x100, 8, 8, 0, 1, .reg, 0xFFFFFFFF, 0, 0xFFFFFFFF⟩,
  ⟨0x104, 8, 8, 0, 1, .reg, 0xFFFFFFFF, 0, 0xFFFFFFFF⟩,
  ⟨0x180, 0, 1, 0, 1, .reg, 0, 0, 0⟩,
  ⟨0x184, 0, 1, 0, 1, .reg, 0, 0, 0⟩,
  ⟨0x200, 4, 8, 0, 1, .reg, 1, 0, 0⟩,
  ⟨0x300, 0, 1, 0, 1, .reg, 0x1F, 0, 0x10⟩,
  ⟨0x304, 0, 1, 0, 1, .rc, 0, 0, 0⟩,
  ⟨0x308, 0, 1, 0, 1, .rc, 0, 0, 0⟩,
  ⟨0x310, 0, 1, 0, 1, .reg, 0, 0, 0⟩,
  ⟨0x314, 0, 1, 0, 1, .reg, 0xFF7F, 0, 0⟩,
  ⟨0x318, 0, 1, 0, 1, .stat, 0, 0, 0⟩,
  ⟨0x400, 0, 1, 0, 1, .reg, 7, 0, 0⟩,
  ⟨0x404, 0, 1, 0, 1, .reg, 0xFFFFFFFF, 0, 0⟩,
  ⟨0x408, 0, 1, 0, 1, .reg, 0xFF, 0, 0⟩,
  ⟨0x40C, 0, 1, 0, 1, .reg, 0x1FFF, 0, 8⟩,
  ⟨0x410, 0, 1, 0, 1, .reg, 0x1FFFF, 0, 0x800⟩,
  ⟨0x414, 0, 1, 0, 1, .reg, 0, 0, 0⟩,
  ⟨0x418, 0, 1, 0, 1, .reg, 0xFFF, 0, 0⟩,
  ⟨0x420, 0, 1, 0, 1, .reg, 0xFFFFFFFF, 0, 0⟩,
  ⟨0x424, 0, 1, 0, 1, .reg, 0xFF, 0, 0⟩,
  ⟨0x428, 0, 1, 0, 1, .reg, 0x1FFF, 0, 8⟩,
  ⟨0x42C, 0, 1, 0, 1, .reg, 0x1FFFF, 0, 0x800⟩,
  ⟨0x430, 0, 1, 0, 1, .reg, 0, 0, 0⟩,
  ⟨0x434, 0, 1, 0, 1, .reg, 0xFFF, 0, 0⟩,
  ⟨0x440, 0, 1, 0, 1, .rc, 0, 0, 0⟩,
  ⟨0x444, 0, 1, 0, 1, .rc, 0, 0, 0⟩,
  ⟨0x448, 0, 1, 0, 1, .rc, 0, 0, 0⟩]

/-- Resets of CC that differ from one instance or index to the next: (offset, value). -/
def ccResets : List (Nat × Nat) := [
  (0, 0), (4, 0xC)]

/-- The registers of the GH core itself (its own address space). -/
def ghcRows : List RegRow := [
  ⟨0, 0x40, 4, 0, 1, .reg, 0xFF, 0, 0x80⟩,
  ⟨4, 0x40, 4, 0, 1, .reg, 0, 0, 0⟩,
  ⟨8, 0x40, 4, 0, 1, .reg, 0, 0, 0⟩,
  ⟨0xC, 0x40, 4, 0, 1, .reg, 0, 0, 0⟩,
  ⟨0x10, 0x40, 4, 0, 1, .reg, 0, 0, 0⟩,
  ⟨0x1000, 4, 32, 0, 1, .reg, 0xFFFFFFFF, 0, 0⟩,
  ⟨0x1080, 0, 1, 0, 1, .wo, 0, 0, 0⟩,
  ⟨0x1084, 0, 1, 0, 1, .reg, 0, 0, 0⟩,
  ⟨0x1088, 0, 1, 0, 1, .reg, 0xFFFF, 0, 0x3E8⟩]

/-- The registers of the interrupt controller, as the RISC-V platform-level interrupt controller specification lays them out for
1,024 sources and 16 contexts: priorities, pending bits, enables, thresholds, and claim and complete
(notes/assumptions/190.md). -/
def plicRows : List RegRow := [
  ⟨4, 4, 1023, 0, 1, .reg, 7, 0, 0⟩,
  ⟨0x1000, 4, 32, 0, 1, .reg, 0, 0, 0⟩,
  ⟨0x2000, 0x80, 16, 4, 32, .reg, 0xFFFFFFFF, 0, 0⟩,
  ⟨0x200000, 0x1000, 16, 0, 1, .reg, 7, 0, 0⟩,
  ⟨0x200004, 0x1000, 16, 0, 1, .reg, 0, 0, 0⟩]

/-- The block a register address lies in, from the address map of R43 and the strides of R15. The GH core's own
registers (12_gauge_house, GH core map) are held under addresses above the 40-bit map. -/
def regBlock (a : Nat) : Option RegBlock :=
  if 0x40000000 ≤ a ∧ a < 0x40010000 then some ⟨0x40000000, 0, 1, topRows, topResets⟩ else
  if 0x40010000 ≤ a ∧ a < 0x40020000 then some ⟨0x40010000, 0, 1, aoRows, []⟩ else
  if 0x40030000 ≤ a ∧ a < 0x40040000 then some ⟨0x40030000, 0, 1, secRows, []⟩ else
  if 0x40040000 ≤ a ∧ a < 0x40050000 then some ⟨0x40040000, 0, 1, tsRows, []⟩ else
  if 0x40050000 ≤ a ∧ a < 0x40060000 then some ⟨0x40050000, 0, 1, pmuRows, []⟩ else
  if 0x40060000 ≤ a ∧ a < 0x40070000 then some ⟨0x40060000, 0, 1, tpRows, []⟩ else
  if 0x40070000 ≤ a ∧ a < 0x40080000 then some ⟨0x40070000, 0, 1, fltRows, []⟩ else
  if 0x40080000 ≤ a ∧ a < 0x40090000 then some ⟨0x40080000, 0x8000, 2, mcRows, mcResets⟩ else
  if 0x40100000 ≤ a ∧ a < 0x40180000 then some ⟨0x40100000, 0, 1, ppRows, []⟩ else
  if 0x40180000 ≤ a ∧ a < 0x40200000 then some ⟨0x40180000, 0, 1, tmRows, []⟩ else
  if 0x40200000 ≤ a ∧ a < 0x40210000 then some ⟨0x40200000, 0, 1, genRows, []⟩ else
  if 0x40210000 ≤ a ∧ a < 0x40220000 then some ⟨0x40210000, 0, 1, staRows, []⟩ else
  if 0x40230000 ≤ a ∧ a < 0x40230800 then some ⟨0x40230000, 0, 1, dutyRows, []⟩ else
  if 0x40240000 ≤ a ∧ a < 0x40300000 then some ⟨0x40240000, 0x40000, 3, airRows, []⟩ else
  if 0x41000000 ≤ a ∧ a < 0x41100000 then some ⟨0x41000000, 0x4000, 64, spRows, []⟩ else
  if 0x41200000 ≤ a ∧ a < 0x41220000 then some ⟨0x41200000, 0x10000, 2, ulRows, ulResets⟩ else
  if 0x42000000 ≤ a ∧ a < 0x42300000 then some ⟨0x42000000, 0x100000, 3, rdRows, rdResets⟩ else
  if 0x43000000 ≤ a ∧ a < 0x43001000 then some ⟨0x43000000, 0, 1, ghRows, []⟩ else
  if 0x44000000 ≤ a ∧ a < 0x44400000 then some ⟨0x44000000, 0, 1, plicRows, []⟩ else
  if 0x45000000 ≤ a ∧ a < 0x45010000 then some ⟨0x45000000, 0, 1, ccRows, ccResets⟩ else
  if 0x10040000000 ≤ a ∧ a < 0x10040002000 then some ⟨0x10040000000, 0, 1, ghcRows, []⟩ else
  none

/-! Addresses by name: `i` is the block instance, `j` and `k` the register's own indices. -/

def Reg.plicPrio (i : Nat) : Nat := 0x44000000 + 4 * i
def Reg.plicPend (k : Nat) : Nat := 0x44001000 + 4 * k
def Reg.plicEn (c k : Nat) : Nat := 0x44002000 + 0x80 * c + 4 * k
def Reg.plicThresh (c : Nat) : Nat := 0x44200000 + 0x1000 * c
def Reg.plicClaim (c : Nat) : Nat := 0x44200004 + 0x1000 * c
def Reg.topChipId : Nat := 0x40000000
def Reg.topUidLo : Nat := 0x40000004
def Reg.topUidHi : Nat := 0x40000008
def Reg.topIslPresent : Nat := 0x4000000C
def Reg.topRstCause : Nat := 0x40000010
def Reg.topChipRst : Nat := 0x40000014
def Reg.topBuserrAddrLo : Nat := 0x40000020
def Reg.topBuserrAddrHi : Nat := 0x40000024
def Reg.topBuserrInfo : Nat := 0x40000028
def Reg.topIrqRaw : Nat := 0x40000040
def Reg.topIrqEn : Nat := 0x40000044
def Reg.topIrqStat : Nat := 0x40000048
def Reg.topPndIrqRaw0 : Nat := 0x40000050
def Reg.topPndIrqRaw1 : Nat := 0x40000054
def Reg.topPndIrqEn0 : Nat := 0x40000058
def Reg.topPndIrqEn1 : Nat := 0x4000005C
def Reg.topPndIrqStat0 : Nat := 0x40000060
def Reg.topPndIrqStat1 : Nat := 0x40000064
def Reg.topIslCtrl (j : Nat) : Nat := 0x40000100 + j * 0x10
def Reg.topIslStat (j : Nat) : Nat := 0x40000104 + j * 0x10
def Reg.topIslClk (j : Nat) : Nat := 0x40000108 + j * 0x10
def Reg.topIslRstcnt (j : Nat) : Nat := 0x4000010C + j * 0x10
def Reg.topPndCfg (j : Nat) : Nat := 0x40001000 + j * 0x40
def Reg.topPndStat (j : Nat) : Nat := 0x40001004 + j * 0x40
def Reg.topPndXcnt (j : Nat) : Nat := 0x40001008 + j * 0x40
def Reg.topPndPkts (j : Nat) : Nat := 0x4000100C + j * 0x40
def Reg.topPndTotLo (j : Nat) : Nat := 0x40001010 + j * 0x40
def Reg.topPndTotHi (j : Nat) : Nat := 0x40001014 + j * 0x40
def Reg.topPndAbort (j : Nat) : Nat := 0x40001018 + j * 0x40
def Reg.topPndGeom (j : Nat) : Nat := 0x4000101C + j * 0x40
def Reg.aoPmCtrl : Nat := 0x40010000
def Reg.aoLtol : Nat := 0x40010004
def Reg.aoPmStat : Nat := 0x40010008
def Reg.aoPmCmd : Nat := 0x4001000C
def Reg.aoWakeEn : Nat := 0x40010010
def Reg.aoWakeCause : Nat := 0x40010014
def Reg.aoRtcLo : Nat := 0x40010018
def Reg.aoRtcHi : Nat := 0x4001001C
def Reg.aoRtcAlarmLo : Nat := 0x40010020
def Reg.aoRtcAlarmHi : Nat := 0x40010024
def Reg.aoAoWdog : Nat := 0x40010028
def Reg.aoSupplyStat : Nat := 0x4001002C
def Reg.aoIrqRaw : Nat := 0x40010040
def Reg.aoIrqEn : Nat := 0x40010044
def Reg.aoIrqStat : Nat := 0x40010048
def Reg.aoResLo (j : Nat) : Nat := 0x40010080 + j * 8
def Reg.aoResHi (j : Nat) : Nat := 0x40010084 + j * 8
def Reg.secLcStat : Nat := 0x40030000
def Reg.secLcCmd : Nat := 0x40030004
def Reg.secLcResult : Nat := 0x40030008
def Reg.secOtpAddr : Nat := 0x40030010
def Reg.secOtpData : Nat := 0x40030014
def Reg.secOtpCmd : Nat := 0x40030018
def Reg.secOtpStat : Nat := 0x4003001C
def Reg.secBootStat : Nat := 0x40030020
def Reg.secBootSvn : Nat := 0x40030024
def Reg.secMinSvn : Nat := 0x40030028
def Reg.secSvnCmd : Nat := 0x4003002C
def Reg.secSecureBase : Nat := 0x40030030
def Reg.secSecureLimit : Nat := 0x40030034
def Reg.secSecureLock : Nat := 0x40030038
def Reg.secHmacAddrLo : Nat := 0x40030040
def Reg.secHmacAddrHi : Nat := 0x40030044
def Reg.secHmacLen : Nat := 0x40030048
def Reg.secHmacCmd : Nat := 0x4003004C
def Reg.secHmacStat : Nat := 0x40030050
def Reg.secDbgStat : Nat := 0x40030060
def Reg.secDbgRevoke : Nat := 0x40030064
def Reg.secOwnerBootPub (j : Nat) : Nat := 0x40030070 + j * 4
def Reg.secOwnerGenPub (j : Nat) : Nat := 0x400300B0 + j * 4
def Reg.secDebugPub (j : Nat) : Nat := 0x400300F0 + j * 4
def Reg.secIrqRaw : Nat := 0x40030130
def Reg.secIrqEn : Nat := 0x40030134
def Reg.secIrqStat : Nat := 0x40030138
def Reg.secReturnSig (j : Nat) : Nat := 0x40030140 + j * 4
def Reg.tsTsCtrl : Nat := 0x40040000
def Reg.tsTsStat : Nat := 0x40040004
def Reg.tsCoreEn : Nat := 0x40040008
def Reg.tsRecovUs : Nat := 0x4004000C
def Reg.tsDispLo : Nat := 0x40040010
def Reg.tsDispHi : Nat := 0x40040014
def Reg.tsDlMiss : Nat := 0x40040018
def Reg.tsRestartCnt : Nat := 0x4004001C
def Reg.tsMissTask : Nat := 0x40040020
def Reg.tsIrqRaw : Nat := 0x40040030
def Reg.tsIrqEn : Nat := 0x40040034
def Reg.tsIrqStat : Nat := 0x40040038
def Reg.tsWDisp (j : Nat) : Nat := 0x40040100 + j * 0x40
def Reg.tsWFired (j : Nat) : Nat := 0x40040104 + j * 0x40
def Reg.tsWDone (j : Nat) : Nat := 0x40040108 + j * 0x40
def Reg.tsWFlagSet (j : Nat) : Nat := 0x4004010C + j * 0x40
def Reg.tsWStgIdx (j : Nat) : Nat := 0x40040110 + j * 0x40
def Reg.tsWStgMask (j : Nat) : Nat := 0x40040114 + j * 0x40
def Reg.tsWStgCfg (j : Nat) : Nat := 0x40040118 + j * 0x40
def Reg.tsWStgDlLo (j : Nat) : Nat := 0x4004011C + j * 0x40
def Reg.tsWStgDlHi (j : Nat) : Nat := 0x40040120 + j * 0x40
def Reg.tsWStgTmrLo (j : Nat) : Nat := 0x40040124 + j * 0x40
def Reg.tsWStgTmrHi (j : Nat) : Nat := 0x40040128 + j * 0x40
def Reg.tsWStgArg (j : Nat) : Nat := 0x4004012C + j * 0x40
def Reg.tsWStgCmd (j : Nat) : Nat := 0x40040130 + j * 0x40
def Reg.tsWStgStat (j : Nat) : Nat := 0x40040134 + j * 0x40
def Reg.tsEvtMap (j : Nat) : Nat := 0x40041000 + j * 4
def Reg.tsTaskView (j : Nat) : Nat := 0x40044000 + j * 4
def Reg.tsTaskFlags (j : Nat) : Nat := 0x40048000 + j * 4
def Reg.pmuPmuCtrl : Nat := 0x40050000
def Reg.pmuPmuOvf : Nat := 0x40050008
def Reg.pmuBwCtrl : Nat := 0x40050010
def Reg.pmuIrqRaw : Nat := 0x40050020
def Reg.pmuIrqEn : Nat := 0x40050024
def Reg.pmuIrqStat : Nat := 0x40050028
def Reg.pmuSmpHead : Nat := 0x40050030
def Reg.pmuSmpTail : Nat := 0x40050034
def Reg.pmuSmpLost : Nat := 0x40050038
def Reg.pmuCntLo (j : Nat) : Nat := 0x40050100 + j * 0x20
def Reg.pmuCntHi (j : Nat) : Nat := 0x40050104 + j * 0x20
def Reg.pmuEvt (j : Nat) : Nat := 0x40050108 + j * 0x20
def Reg.pmuInit (j : Nat) : Nat := 0x4005010C + j * 0x20
def Reg.pmuClass (j : Nat) : Nat := 0x40050110 + j * 0x20
def Reg.pmuAddrBase (j : Nat) : Nat := 0x40050114 + j * 0x20
def Reg.pmuAddrLimit (j : Nat) : Nat := 0x40050118 + j * 0x20
def Reg.pmuBwRd (j : Nat) : Nat := 0x40050400 + j * 0x10
def Reg.pmuBwWr (j : Nat) : Nat := 0x40050404 + j * 0x10
def Reg.pmuBwPeak (j : Nat) : Nat := 0x40050408 + j * 0x10
def Reg.pmuSmp (j k : Nat) : Nat := 0x40051000 + j * 0x20 + k * 4
def Reg.tpTpCtrl : Nat := 0x40060000
def Reg.tpTpStat : Nat := 0x40060004
def Reg.tpRingBaseLo : Nat := 0x40060008
def Reg.tpRingBaseHi : Nat := 0x4006000C
def Reg.tpRingSize : Nat := 0x40060010
def Reg.tpWrPtr : Nat := 0x40060014
def Reg.tpWrapCnt : Nat := 0x40060018
def Reg.tpPortMask0 : Nat := 0x40060020
def Reg.tpPortMask1 : Nat := 0x40060024
def Reg.tpPortMask2 : Nat := 0x40060028
def Reg.tpRecLo : Nat := 0x40060030
def Reg.tpRecHi : Nat := 0x40060034
def Reg.tpLost : Nat := 0x40060038
def Reg.tpMarkCmd : Nat := 0x40060040
def Reg.tpMarkCmdStat : Nat := 0x40060044
def Reg.tpIrqRaw : Nat := 0x40060080
def Reg.tpIrqEn : Nat := 0x40060084
def Reg.tpIrqStat : Nat := 0x40060088
def Reg.tpMarkStat (j : Nat) : Nat := 0x40060100 + j * 0x10
def Reg.tpMarkDtLo (j : Nat) : Nat := 0x40060104 + j * 0x10
def Reg.tpMarkDtHi (j : Nat) : Nat := 0x40060108 + j * 0x10
def Reg.tpMarkPtr (j : Nat) : Nat := 0x4006010C + j * 0x10
def Reg.tpRpBaseLo : Nat := 0x40060200
def Reg.tpRpBaseHi : Nat := 0x40060204
def Reg.tpRpSize : Nat := 0x40060208
def Reg.tpRpMarkPtr : Nat := 0x4006020C
def Reg.tpRpEndPtr : Nat := 0x40060210
def Reg.tpRpCmd : Nat := 0x40060214
def Reg.tpRpStat : Nat := 0x40060218
def Reg.tpRpPos : Nat := 0x4006021C
def Reg.tpDivCnt : Nat := 0x40060230
def Reg.tpDivPtr : Nat := 0x40060234
def Reg.tpDivPort : Nat := 0x40060238
def Reg.tpDivExp : Nat := 0x4006023C
def Reg.tpDivAct : Nat := 0x40060240
def Reg.tpDivDtLo : Nat := 0x40060244
def Reg.tpDivDtHi : Nat := 0x40060248
def Reg.fltFltCtrl : Nat := 0x40070000
def Reg.fltHangUs : Nat := 0x40070004
def Reg.fltFltStat : Nat := 0x40070008
def Reg.fltGenDrop : Nat := 0x4007000C
def Reg.fltLogHead : Nat := 0x40070010
def Reg.fltLogTail : Nat := 0x40070014
def Reg.fltLogLost : Nat := 0x40070018
def Reg.fltIrqRaw : Nat := 0x40070020
def Reg.fltIrqEn : Nat := 0x40070024
def Reg.fltIrqStat : Nat := 0x40070028
def Reg.fltFltCnt (j : Nat) : Nat := 0x40070040 + j * 4
def Reg.fltLogW0 (j : Nat) : Nat := 0x40070100 + j * 0x10
def Reg.fltLogDtLo (j : Nat) : Nat := 0x40070104 + j * 0x10
def Reg.fltLogDtHi (j : Nat) : Nat := 0x40070108 + j * 0x10
def Reg.fltLogInfo (j : Nat) : Nat := 0x4007010C + j * 0x10
def Reg.mcMcCtrl (i : Nat) : Nat := 0x40080000 + i * 0x8000
def Reg.mcMcStat (i : Nat) : Nat := 0x40080004 + i * 0x8000
def Reg.mcGeom (i : Nat) : Nat := 0x40080008 + i * 0x8000
def Reg.mcCapMb (i : Nat) : Nat := 0x4008000C + i * 0x8000
def Reg.mcAddrMap (i : Nat) : Nat := 0x40080010 + i * 0x8000
def Reg.mcRefCtrl (i : Nat) : Nat := 0x40080014 + i * 0x8000
def Reg.mcAgeNs (i : Nat) : Nat := 0x40080018 + i * 0x8000
def Reg.mcWqCtrl (i : Nat) : Nat := 0x4008001C + i * 0x8000
def Reg.mcPortCfg (i j : Nat) : Nat := 0x40080020 + i * 0x8000 + j * 4
def Reg.mcPortStat (i : Nat) : Nat := 0x40080040 + i * 0x8000
def Reg.mcAlertWin (i : Nat) : Nat := 0x40080044 + i * 0x8000
def Reg.mcReplayMax (i : Nat) : Nat := 0x40080048 + i * 0x8000
def Reg.mcDriftCtrl (i : Nat) : Nat := 0x4008004C + i * 0x8000
def Reg.mcDriftStat (i : Nat) : Nat := 0x40080050 + i * 0x8000
def Reg.mcScrubH (i : Nat) : Nat := 0x40080054 + i * 0x8000
def Reg.mcSrCtrl (i : Nat) : Nat := 0x40080058 + i * 0x8000
def Reg.mcCeCnt (i : Nat) : Nat := 0x40080060 + i * 0x8000
def Reg.mcUeCnt (i : Nat) : Nat := 0x40080064 + i * 0x8000
def Reg.mcCaParCnt (i : Nat) : Nat := 0x40080068 + i * 0x8000
def Reg.mcReplayCnt (i : Nat) : Nat := 0x4008006C + i * 0x8000
def Reg.mcReportCnt (i : Nat) : Nat := 0x40080070 + i * 0x8000
def Reg.mcFwdCnt (i : Nat) : Nat := 0x40080074 + i * 0x8000
def Reg.mcRawWaitCnt (i : Nat) : Nat := 0x40080078 + i * 0x8000
def Reg.mcCeAddr (i : Nat) : Nat := 0x40080080 + i * 0x8000
def Reg.mcCeInfo (i : Nat) : Nat := 0x40080084 + i * 0x8000
def Reg.mcErrAddr (i : Nat) : Nat := 0x40080088 + i * 0x8000
def Reg.mcErrInfo (i : Nat) : Nat := 0x4008008C + i * 0x8000
def Reg.mcIrqRaw (i : Nat) : Nat := 0x40080090 + i * 0x8000
def Reg.mcIrqEn (i : Nat) : Nat := 0x40080094 + i * 0x8000
def Reg.mcIrqStat (i : Nat) : Nat := 0x40080098 + i * 0x8000
def Reg.mcTrainCmd (i : Nat) : Nat := 0x400800A0 + i * 0x8000
def Reg.mcTrainStat (i : Nat) : Nat := 0x400800A4 + i * 0x8000
def Reg.mcMrsData (i : Nat) : Nat := 0x400800A8 + i * 0x8000
def Reg.mcTrainAddr (i : Nat) : Nat := 0x400800AC + i * 0x8000
def Reg.mcPatCfg (i : Nat) : Nat := 0x400800B0 + i * 0x8000
def Reg.mcCmpRes0 (i : Nat) : Nat := 0x400800B4 + i * 0x8000
def Reg.mcCmpRes1 (i : Nat) : Nat := 0x400800B8 + i * 0x8000
def Reg.mcVref (i : Nat) : Nat := 0x400800BC + i * 0x8000
def Reg.mcLaneDly (i j : Nat) : Nat := 0x400800C0 + i * 0x8000 + j * 4
def Reg.ppPpCtrl : Nat := 0x40100000
def Reg.ppPpStat : Nat := 0x40100004
def Reg.ppRxLo : Nat := 0x40100010
def Reg.ppRxHi : Nat := 0x40100014
def Reg.ppRecircLo : Nat := 0x40100018
def Reg.ppRecircHi : Nat := 0x4010001C
def Reg.ppDeepCnt : Nat := 0x40100020
def Reg.ppDropClass : Nat := 0x40100024
def Reg.ppDropRoute : Nat := 0x40100028
def Reg.ppTtlCnt : Nat := 0x4010002C
def Reg.ppDropNat : Nat := 0x40100030
def Reg.ppDropRewrite : Nat := 0x40100034
def Reg.ppRecircFull : Nat := 0x40100038
def Reg.ppRecircLoop : Nat := 0x4010003C
def Reg.ppDropStream : Nat := 0x40100040
def Reg.ppDropGh : Nat := 0x40100044
def Reg.ppExcCnt : Nat := 0x40100048
def Reg.ppMalfCnt (j : Nat) : Nat := 0x40100050 + j * 4
def Reg.ppIrqRaw : Nat := 0x40100080
def Reg.ppIrqEn : Nat := 0x40100084
def Reg.ppIrqStat : Nat := 0x40100088
def Reg.ppNatSeed : Nat := 0x40100090
def Reg.ppNatCount : Nat := 0x40100094
def Reg.ppNatKey0 : Nat := 0x401000A0
def Reg.ppNatKey1 : Nat := 0x401000A4
def Reg.ppNatKey2 : Nat := 0x401000A8
def Reg.ppNatKey3 : Nat := 0x401000AC
def Reg.ppNatXlt0 : Nat := 0x401000B0
def Reg.ppNatXlt1 : Nat := 0x401000B4
def Reg.ppNatSes : Nat := 0x401000B8
def Reg.ppNatCmd : Nat := 0x401000BC
def Reg.ppNatCmdStat : Nat := 0x401000C0
def Reg.ppNatExpHead : Nat := 0x401000C4
def Reg.ppNatExpTail : Nat := 0x401000C8
def Reg.ppQciBlock (j : Nat) : Nat := 0x40100100 + j * 4
def Reg.ppNatExpData (j : Nat) : Nat := 0x40100400 + j * 4
def Reg.ppQciMatch (j : Nat) : Nat := 0x40101000 + j * 0x10
def Reg.ppQciPass (j : Nat) : Nat := 0x40101004 + j * 0x10
def Reg.ppQciOver (j : Nat) : Nat := 0x40101008 + j * 0x10
def Reg.ppRuleCntLo (j : Nat) : Nat := 0x40108000 + j * 8
def Reg.ppRuleCntHi (j : Nat) : Nat := 0x40108004 + j * 8
def Reg.tmTmCtrl : Nat := 0x40180000
def Reg.tmTmStat : Nat := 0x40180004
def Reg.tmCellsFree : Nat := 0x40180008
def Reg.tmBargesFree : Nat := 0x4018000C
def Reg.tmSpillBaseLo : Nat := 0x40180010
def Reg.tmSpillBaseHi : Nat := 0x40180014
def Reg.tmSpillSize : Nat := 0x40180018
def Reg.tmSpillUsed : Nat := 0x4018001C
def Reg.tmEnqLo : Nat := 0x40180020
def Reg.tmEnqHi : Nat := 0x40180024
def Reg.tmDeqLo : Nat := 0x40180028
def Reg.tmDeqHi : Nat := 0x4018002C
def Reg.tmSpilledLo : Nat := 0x40180030
def Reg.tmSpilledHi : Nat := 0x40180034
def Reg.tmDropDisabled : Nat := 0x40180040
def Reg.tmDropNobarge : Nat := 0x40180044
def Reg.tmDropQlim : Nat := 0x40180048
def Reg.tmDropNobuf : Nat := 0x4018004C
def Reg.tmDropNospill : Nat := 0x40180050
def Reg.tmDropAbort : Nat := 0x40180054
def Reg.tmTxAbort : Nat := 0x40180058
def Reg.tmDropToolong : Nat := 0x4018005C
def Reg.tmDropDram : Nat := 0x40180060
def Reg.tmIrqRaw : Nat := 0x40180080
def Reg.tmIrqEn : Nat := 0x40180084
def Reg.tmIrqStat : Nat := 0x40180088
def Reg.tmFqSel : Nat := 0x40180090
def Reg.tmFqStat : Nat := 0x40180094
def Reg.tmFqFrames : Nat := 0x40180098
def Reg.tmFqEnqLo : Nat := 0x401800A0
def Reg.tmFqEnqHi : Nat := 0x401800A4
def Reg.tmFqDropLo : Nat := 0x401800A8
def Reg.tmFqDropHi : Nat := 0x401800AC
def Reg.tmBktSel : Nat := 0x401800B0
def Reg.tmBktLevel : Nat := 0x401800B4
def Reg.tmPortTxLo (j : Nat) : Nat := 0x40180100 + j * 0x20
def Reg.tmPortTxHi (j : Nat) : Nat := 0x40180104 + j * 0x20
def Reg.tmPortTxbLo (j : Nat) : Nat := 0x40180108 + j * 0x20
def Reg.tmPortTxbHi (j : Nat) : Nat := 0x4018010C + j * 0x20
def Reg.tmPortDrop (j : Nat) : Nat := 0x40180110 + j * 0x20
def Reg.tmPortEmpty (j : Nat) : Nat := 0x40180114 + j * 0x20
def Reg.tmPortCells (j : Nat) : Nat := 0x40180118 + j * 0x20
def Reg.genGenCtrl : Nat := 0x40200000
def Reg.genGenStat : Nat := 0x40200004
def Reg.genRoundNs : Nat := 0x40200008
def Reg.genRoundIdxLo : Nat := 0x40200010
def Reg.genRoundIdxHi : Nat := 0x40200014
def Reg.genNextBdyLo : Nat := 0x40200018
def Reg.genNextBdyHi : Nat := 0x4020001C
def Reg.genLoadAddrLo : Nat := 0x40200020
def Reg.genLoadAddrHi : Nat := 0x40200024
def Reg.genLoadLen : Nat := 0x40200028
def Reg.genLoadCmd : Nat := 0x4020002C
def Reg.genLoadStat : Nat := 0x40200030
def Reg.genArmLead : Nat := 0x40200034
def Reg.genArmRoundLo : Nat := 0x40200038
def Reg.genArmRoundHi : Nat := 0x4020003C
def Reg.genArmCmd : Nat := 0x40200040
def Reg.genArmStat : Nat := 0x40200044
def Reg.genSwapCnt : Nat := 0x40200048
def Reg.genLastSwapLo : Nat := 0x40200050
def Reg.genLastSwapHi : Nat := 0x40200054
def Reg.genArmTgtLo : Nat := 0x40200058
def Reg.genArmTgtHi : Nat := 0x4020005C
def Reg.genIrqRaw : Nat := 0x40200060
def Reg.genIrqEn : Nat := 0x40200064
def Reg.genIrqStat : Nat := 0x40200068
def Reg.genGateLate0 : Nat := 0x40200070
def Reg.genGateLate1 : Nat := 0x40200074
def Reg.genGateLate2 : Nat := 0x40200078
def Reg.genRetiredLo : Nat := 0x40200080
def Reg.genRetiredHi : Nat := 0x40200084
def Reg.genNogenDrop : Nat := 0x40200088
def Reg.genOverlapCnt : Nat := 0x4020008C
def Reg.genSlotStat (j : Nat) : Nat := 0x40200100 + j * 0x20
def Reg.genSlotSeq (j : Nat) : Nat := 0x40200104 + j * 0x20
def Reg.genSlotRef (j : Nat) : Nat := 0x40200108 + j * 0x20
def Reg.genSlotBase (j : Nat) : Nat := 0x4020010C + j * 0x20
def Reg.genSlotSize (j : Nat) : Nat := 0x40200110 + j * 0x20
def Reg.genPageQry : Nat := 0x40200180
def Reg.genPageLoc : Nat := 0x40200184
def Reg.genPlayStat (j : Nat) : Nat := 0x40200200 + j * 4
def Reg.staStaCtrl : Nat := 0x40210000
def Reg.staStaStat : Nat := 0x40210004
def Reg.staAddrSeed : Nat := 0x40210008
def Reg.staLossState : Nat := 0x4021000C
def Reg.staLossSw : Nat := 0x40210010
def Reg.staRestore : Nat := 0x40210014
def Reg.staLinkFail : Nat := 0x40210018
def Reg.staRetryLim : Nat := 0x4021001C
def Reg.staMeshCtrl : Nat := 0x40210020
def Reg.staPbcnLate : Nat := 0x40210024
def Reg.staParentStat (j : Nat) : Nat := 0x40210028 + j * 4
def Reg.staRoBaseLo : Nat := 0x40210030
def Reg.staRoBaseHi : Nat := 0x40210034
def Reg.staRoSize : Nat := 0x40210038
def Reg.staRoUsed : Nat := 0x4021003C
def Reg.staRoDrop : Nat := 0x40210040
def Reg.staMldAddrLo : Nat := 0x40210044
def Reg.staMldAddrHi : Nat := 0x40210048
def Reg.staIrqRaw : Nat := 0x40210050
def Reg.staIrqEn : Nat := 0x40210054
def Reg.staIrqStat : Nat := 0x40210058
def Reg.staEvtHead : Nat := 0x40210060
def Reg.staEvtTail : Nat := 0x40210064
def Reg.staEvtLost : Nat := 0x40210068
def Reg.staBssidLo (j : Nat) : Nat := 0x40210070 + j * 8
def Reg.staBssidHi (j : Nat) : Nat := 0x40210074 + j * 8
def Reg.staRxCnt (j k : Nat) : Nat := 0x40210100 + j * 0x20 + k * 4
def Reg.staStaStage (j : Nat) : Nat := 0x40210200 + j * 4
def Reg.staStaCmd : Nat := 0x40210240
def Reg.staStaCmdStat : Nat := 0x40210244
def Reg.staTidStage (j : Nat) : Nat := 0x40210250 + j * 4
def Reg.staKeyData (j : Nat) : Nat := 0x40210280 + j * 4
def Reg.staKeyCtrl : Nat := 0x402102A0
def Reg.staKeyPnLo : Nat := 0x402102A4
def Reg.staKeyPnHi : Nat := 0x402102A8
def Reg.staKeyCmd : Nat := 0x402102AC
def Reg.staKeyStat : Nat := 0x402102B0
def Reg.staEvtW0 (j : Nat) : Nat := 0x40211000 + j * 8
def Reg.staEvtW1 (j : Nat) : Nat := 0x40211004 + j * 8
def Reg.dutyBandLoKhz (j : Nat) : Nat := 0x40230000 + j * 0x20
def Reg.dutyBandHiKhz (j : Nat) : Nat := 0x40230004 + j * 0x20
def Reg.dutyBandCap (j : Nat) : Nat := 0x40230008 + j * 0x20
def Reg.dutyBandLimit (j : Nat) : Nat := 0x4023000C + j * 0x20
def Reg.dutyBandUsed (j : Nat) : Nat := 0x40230010 + j * 0x20
def Reg.dutyBandRsv (j : Nat) : Nat := 0x40230014 + j * 0x20
def Reg.dutyBandDeny (j : Nat) : Nat := 0x40230018 + j * 0x20
def Reg.airAirCtrl (i : Nat) : Nat := 0x40240000 + i * 0x40000
def Reg.airAirStat (i : Nat) : Nat := 0x40240004 + i * 0x40000
def Reg.airGuardNs (i : Nat) : Nat := 0x40240008 + i * 0x40000
def Reg.airGbaseNs (i : Nat) : Nat := 0x4024000C + i * 0x40000
def Reg.airDriftGain (i : Nat) : Nat := 0x40240010 + i * 0x40000
def Reg.airPriorD (i : Nat) : Nat := 0x40240014 + i * 0x40000
def Reg.airPriorV (i : Nat) : Nat := 0x40240018 + i * 0x40000
def Reg.airVSeed (i : Nat) : Nat := 0x4024001C + i * 0x40000
def Reg.airDMax (i : Nat) : Nat := 0x40240020 + i * 0x40000
def Reg.airGMax (i : Nat) : Nat := 0x40240024 + i * 0x40000
def Reg.airTimingOui (i : Nat) : Nat := 0x40240028 + i * 0x40000
def Reg.airIrqRaw (i : Nat) : Nat := 0x40240030 + i * 0x40000
def Reg.airIrqEn (i : Nat) : Nat := 0x40240034 + i * 0x40000
def Reg.airIrqStat (i : Nat) : Nat := 0x40240038 + i * 0x40000
def Reg.airEvtHead (i : Nat) : Nat := 0x40240040 + i * 0x40000
def Reg.airEvtTail (i : Nat) : Nat := 0x40240044 + i * 0x40000
def Reg.airEvtLost (i : Nat) : Nat := 0x40240048 + i * 0x40000
def Reg.airForfeitCnt (i j : Nat) : Nat := 0x40240080 + i * 0x40000 + j * 4
def Reg.airHitCnt (i : Nat) : Nat := 0x402400C0 + i * 0x40000
def Reg.airMissCnt (i : Nat) : Nat := 0x402400C4 + i * 0x40000
def Reg.airWidenCnt (i : Nat) : Nat := 0x402400C8 + i * 0x40000
def Reg.airReacqCnt (i : Nat) : Nat := 0x402400CC + i * 0x40000
def Reg.airUnsureCnt (i : Nat) : Nat := 0x402400D0 + i * 0x40000
def Reg.airAsrStage (i j : Nat) : Nat := 0x40240100 + i * 0x40000 + j * 4
def Reg.airAsrCmd (i : Nat) : Nat := 0x40240120 + i * 0x40000
def Reg.airAsrCmdStat (i : Nat) : Nat := 0x40240124 + i * 0x40000
def Reg.airEvtW0 (i j : Nat) : Nat := 0x40241000 + i * 0x40000 + j * 8
def Reg.airEvtW1 (i j : Nat) : Nat := 0x40241004 + i * 0x40000 + j * 8
def Reg.airAsrD (i j : Nat) : Nat := 0x40260000 + i * 0x40000 + j * 0x20
def Reg.airAsrG (i j : Nat) : Nat := 0x40260004 + i * 0x40000 + j * 0x20
def Reg.airAsrV (i j : Nat) : Nat := 0x40260008 + i * 0x40000 + j * 0x20
def Reg.airAsrStat (i j : Nat) : Nat := 0x4026000C + i * 0x40000 + j * 0x20
def Reg.airAsrAnchLo (i j : Nat) : Nat := 0x40260010 + i * 0x40000 + j * 0x20
def Reg.airAsrAnchHi (i j : Nat) : Nat := 0x40260014 + i * 0x40000 + j * 0x20
def Reg.airAsrSpan (i j : Nat) : Nat := 0x40260018 + i * 0x40000 + j * 0x20
def Reg.airAsrAux (i j : Nat) : Nat := 0x4026001C + i * 0x40000 + j * 0x20
def Reg.spPhyCtrl (i : Nat) : Nat := 0x41000000 + i * 0x4000
def Reg.spPhyStat (i : Nat) : Nat := 0x41000004 + i * 0x4000
def Reg.spAnAdv (i : Nat) : Nat := 0x41000008 + i * 0x4000
def Reg.spAnLp (i : Nat) : Nat := 0x4100000C + i * 0x4000
def Reg.spPhyLat (i : Nat) : Nat := 0x41000010 + i * 0x4000
def Reg.spAdaptCtrl (i : Nat) : Nat := 0x41000014 + i * 0x4000
def Reg.spMse (i : Nat) : Nat := 0x41000018 + i * 0x4000
def Reg.spLinkTim (i : Nat) : Nat := 0x4100001C + i * 0x4000
def Reg.spFenceCfg (i : Nat) : Nat := 0x41000020 + i * 0x4000
def Reg.spFenceTim (i : Nat) : Nat := 0x41000024 + i * 0x4000
def Reg.spFenceStat (i : Nat) : Nat := 0x41000028 + i * 0x4000
def Reg.spFencePeriod (i : Nat) : Nat := 0x4100002C + i * 0x4000
def Reg.spNf (i : Nat) : Nat := 0x41000030 + i * 0x4000
def Reg.spNfCtrl (i : Nat) : Nat := 0x41000034 + i * 0x4000
def Reg.spTdrCmd (i : Nat) : Nat := 0x41000038 + i * 0x4000
def Reg.spTdrStat (i : Nat) : Nat := 0x4100003C + i * 0x4000
def Reg.spTdrNvp (i : Nat) : Nat := 0x41000040 + i * 0x4000
def Reg.spTdrEvt (i j : Nat) : Nat := 0x41000050 + i * 0x4000 + j * 4
def Reg.spPodlCtrl (i : Nat) : Nat := 0x41000060 + i * 0x4000
def Reg.spPodlStat (i : Nat) : Nat := 0x41000064 + i * 0x4000
def Reg.spMacCtrl (i : Nat) : Nat := 0x41000070 + i * 0x4000
def Reg.spRxMaxlen (i : Nat) : Nat := 0x41000074 + i * 0x4000
def Reg.spTsqStat (i : Nat) : Nat := 0x41000078 + i * 0x4000
def Reg.spTsqPop (i : Nat) : Nat := 0x4100007C + i * 0x4000
def Reg.spTsqDtLo (i : Nat) : Nat := 0x41000080 + i * 0x4000
def Reg.spTsqDtHi (i : Nat) : Nat := 0x41000084 + i * 0x4000
def Reg.spPhyIrqRaw (i : Nat) : Nat := 0x41000090 + i * 0x4000
def Reg.spPhyIrqEn (i : Nat) : Nat := 0x41000094 + i * 0x4000
def Reg.spPhyIrqStat (i : Nat) : Nat := 0x41000098 + i * 0x4000
def Reg.spMacIrqRaw (i : Nat) : Nat := 0x410000A0 + i * 0x4000
def Reg.spMacIrqEn (i : Nat) : Nat := 0x410000A4 + i * 0x4000
def Reg.spMacIrqStat (i : Nat) : Nat := 0x410000A8 + i * 0x4000
def Reg.spRxFramesLo (i : Nat) : Nat := 0x41000100 + i * 0x4000
def Reg.spRxFramesHi (i : Nat) : Nat := 0x41000104 + i * 0x4000
def Reg.spRxBytesLo (i : Nat) : Nat := 0x41000108 + i * 0x4000
def Reg.spRxBytesHi (i : Nat) : Nat := 0x4100010C + i * 0x4000
def Reg.spTxFramesLo (i : Nat) : Nat := 0x41000110 + i * 0x4000
def Reg.spTxFramesHi (i : Nat) : Nat := 0x41000114 + i * 0x4000
def Reg.spTxBytesLo (i : Nat) : Nat := 0x41000118 + i * 0x4000
def Reg.spTxBytesHi (i : Nat) : Nat := 0x4100011C + i * 0x4000
def Reg.spRxFcsErr (i : Nat) : Nat := 0x41000120 + i * 0x4000
def Reg.spRxRunt (i : Nat) : Nat := 0x41000124 + i * 0x4000
def Reg.spRxOversize (i : Nat) : Nat := 0x41000128 + i * 0x4000
def Reg.spRxOvf (i : Nat) : Nat := 0x4100012C + i * 0x4000
def Reg.spRxPhyErr (i : Nat) : Nat := 0x41000130 + i * 0x4000
def Reg.spRxFenceHit (i : Nat) : Nat := 0x41000134 + i * 0x4000
def Reg.spTxInvFcs (i : Nat) : Nat := 0x41000138 + i * 0x4000
def Reg.spTxUnderrun (i : Nat) : Nat := 0x4100013C + i * 0x4000
def Reg.spTxLinkdown (i : Nat) : Nat := 0x41000140 + i * 0x4000
def Reg.spTsqLost (i : Nat) : Nat := 0x41000144 + i * 0x4000
def Reg.spFreezeCnt (i : Nat) : Nat := 0x41000148 + i * 0x4000
def Reg.spLinkDownCnt (i : Nat) : Nat := 0x4100014C + i * 0x4000
def Reg.spPodlFaults (i : Nat) : Nat := 0x41000150 + i * 0x4000
def Reg.ulUlCtrl (i : Nat) : Nat := 0x41200000 + i * 0x10000
def Reg.ulUlStat (i : Nat) : Nat := 0x41200004 + i * 0x10000
def Reg.ulPhyLat (i : Nat) : Nat := 0x41200008 + i * 0x10000
def Reg.ulLinkTim (i : Nat) : Nat := 0x4120000C + i * 0x10000
def Reg.ulSerdesTx (i : Nat) : Nat := 0x41200010 + i * 0x10000
def Reg.ulSerdesRx (i : Nat) : Nat := 0x41200014 + i * 0x10000
def Reg.ulMacCtrl (i : Nat) : Nat := 0x41200020 + i * 0x10000
def Reg.ulRxMaxlen (i : Nat) : Nat := 0x41200024 + i * 0x10000
def Reg.ulTsqStat (i : Nat) : Nat := 0x41200028 + i * 0x10000
def Reg.ulTsqPop (i : Nat) : Nat := 0x4120002C + i * 0x10000
def Reg.ulTsqDtLo (i : Nat) : Nat := 0x41200030 + i * 0x10000
def Reg.ulTsqDtHi (i : Nat) : Nat := 0x41200034 + i * 0x10000
def Reg.ulDirFilt (i j : Nat) : Nat := 0x41200040 + i * 0x10000 + j * 4
def Reg.ulDirCtrl (i : Nat) : Nat := 0x41200050 + i * 0x10000
def Reg.ulIrqRaw (i : Nat) : Nat := 0x41200060 + i * 0x10000
def Reg.ulIrqEn (i : Nat) : Nat := 0x41200064 + i * 0x10000
def Reg.ulIrqStat (i : Nat) : Nat := 0x41200068 + i * 0x10000
def Reg.ulRxFramesLo (i : Nat) : Nat := 0x41200100 + i * 0x10000
def Reg.ulRxFramesHi (i : Nat) : Nat := 0x41200104 + i * 0x10000
def Reg.ulRxBytesLo (i : Nat) : Nat := 0x41200108 + i * 0x10000
def Reg.ulRxBytesHi (i : Nat) : Nat := 0x4120010C + i * 0x10000
def Reg.ulTxFramesLo (i : Nat) : Nat := 0x41200110 + i * 0x10000
def Reg.ulTxFramesHi (i : Nat) : Nat := 0x41200114 + i * 0x10000
def Reg.ulTxBytesLo (i : Nat) : Nat := 0x41200118 + i * 0x10000
def Reg.ulTxBytesHi (i : Nat) : Nat := 0x4120011C + i * 0x10000
def Reg.ulRxFcsErr (i : Nat) : Nat := 0x41200120 + i * 0x10000
def Reg.ulRxRunt (i : Nat) : Nat := 0x41200124 + i * 0x10000
def Reg.ulRxOversize (i : Nat) : Nat := 0x41200128 + i * 0x10000
def Reg.ulRxOvf (i : Nat) : Nat := 0x4120012C + i * 0x10000
def Reg.ulRxPhyErr (i : Nat) : Nat := 0x41200130 + i * 0x10000
def Reg.ulTxInvFcs (i : Nat) : Nat := 0x41200134 + i * 0x10000
def Reg.ulTxUnderrun (i : Nat) : Nat := 0x41200138 + i * 0x10000
def Reg.ulTxLinkdown (i : Nat) : Nat := 0x4120013C + i * 0x10000
def Reg.ulTsqLost (i : Nat) : Nat := 0x41200140 + i * 0x10000
def Reg.ulLinkDownCnt (i : Nat) : Nat := 0x41200144 + i * 0x10000
def Reg.ulFecCorr (i : Nat) : Nat := 0x41200148 + i * 0x10000
def Reg.ulFecUncorr (i : Nat) : Nat := 0x4120014C + i * 0x10000
def Reg.ulTcSkip (i : Nat) : Nat := 0x41200150 + i * 0x10000
def Reg.ulSecCtrl (i : Nat) : Nat := 0x41200200 + i * 0x10000
def Reg.ulSecWindow (i : Nat) : Nat := 0x41200204 + i * 0x10000
def Reg.ulSecTxSciLo (i : Nat) : Nat := 0x41200208 + i * 0x10000
def Reg.ulSecTxSciHi (i : Nat) : Nat := 0x4120020C + i * 0x10000
def Reg.ulSecTxSa (i : Nat) : Nat := 0x41200210 + i * 0x10000
def Reg.ulSecTxPn (i : Nat) : Nat := 0x41200214 + i * 0x10000
def Reg.ulSecBypass (i j : Nat) : Nat := 0x41200218 + i * 0x10000 + j * 4
def Reg.ulSecRxSciLo (i j : Nat) : Nat := 0x41200230 + i * 0x10000 + j * 8
def Reg.ulSecRxSciHi (i j : Nat) : Nat := 0x41200234 + i * 0x10000 + j * 8
def Reg.ulSecKeyData (i j : Nat) : Nat := 0x41200250 + i * 0x10000 + j * 4
def Reg.ulSecSaCtrl (i : Nat) : Nat := 0x41200270 + i * 0x10000
def Reg.ulSecSaPn (i : Nat) : Nat := 0x41200274 + i * 0x10000
def Reg.ulSecSaCmd (i : Nat) : Nat := 0x41200278 + i * 0x10000
def Reg.ulSecSaStat (i : Nat) : Nat := 0x4120027C + i * 0x10000
def Reg.ulSecRxUntagged (i : Nat) : Nat := 0x41200280 + i * 0x10000
def Reg.ulSecRxBadTag (i : Nat) : Nat := 0x41200284 + i * 0x10000
def Reg.ulSecRxNosa (i : Nat) : Nat := 0x41200288 + i * 0x10000
def Reg.ulSecRxLate (i : Nat) : Nat := 0x4120028C + i * 0x10000
def Reg.ulSecRxBadIcv (i : Nat) : Nat := 0x41200290 + i * 0x10000
def Reg.ulSecTxPnExh (i : Nat) : Nat := 0x41200294 + i * 0x10000
def Reg.ulTxRingLo (i : Nat) : Nat := 0x41200400 + i * 0x10000
def Reg.ulTxRingHi (i : Nat) : Nat := 0x41200404 + i * 0x10000
def Reg.ulTxRingSize (i : Nat) : Nat := 0x41200408 + i * 0x10000
def Reg.ulTxBufLen (i : Nat) : Nat := 0x4120040C + i * 0x10000
def Reg.ulTxHead (i : Nat) : Nat := 0x41200410 + i * 0x10000
def Reg.ulTxTail (i : Nat) : Nat := 0x41200414 + i * 0x10000
def Reg.ulRxRingLo (i : Nat) : Nat := 0x41200420 + i * 0x10000
def Reg.ulRxRingHi (i : Nat) : Nat := 0x41200424 + i * 0x10000
def Reg.ulRxRingSize (i : Nat) : Nat := 0x41200428 + i * 0x10000
def Reg.ulRxBufLen (i : Nat) : Nat := 0x4120042C + i * 0x10000
def Reg.ulRxHead (i : Nat) : Nat := 0x41200430 + i * 0x10000
def Reg.ulRxTail (i : Nat) : Nat := 0x41200434 + i * 0x10000
def Reg.ulRxRingOvf (i : Nat) : Nat := 0x41200440 + i * 0x10000
def Reg.ulDescErr (i : Nat) : Nat := 0x41200444 + i * 0x10000
def Reg.ulDmaErr (i : Nat) : Nat := 0x41200448 + i * 0x10000
def Reg.rdRdCtrl (i : Nat) : Nat := 0x42000000 + i * 0x100000
def Reg.rdRdStat (i : Nat) : Nat := 0x42000004 + i * 0x100000
def Reg.rdHoldNs (i : Nat) : Nat := 0x42000008 + i * 0x100000
def Reg.rdTxDelayNs (i : Nat) : Nat := 0x4200000C + i * 0x100000
def Reg.rdFemTiming (i : Nat) : Nat := 0x42000010 + i * 0x100000
def Reg.rdPwrLimit (i : Nat) : Nat := 0x42000014 + i * 0x100000
def Reg.rdChainEn (i : Nat) : Nat := 0x42000018 + i * 0x100000
def Reg.rdBlankCtrl (i : Nat) : Nat := 0x4200001C + i * 0x100000
def Reg.rdBlankStat (i : Nat) : Nat := 0x42000020 + i * 0x100000
def Reg.rdTemp (i : Nat) : Nat := 0x42000024 + i * 0x100000
def Reg.rdTempThr (i : Nat) : Nat := 0x42000028 + i * 0x100000
def Reg.rdBgCal (i : Nat) : Nat := 0x4200002C + i * 0x100000
def Reg.rdCalStat (i : Nat) : Nat := 0x42000030 + i * 0x100000
def Reg.rdMmThr (i : Nat) : Nat := 0x42000034 + i * 0x100000
def Reg.rdRl (i j : Nat) : Nat := 0x42000040 + i * 0x100000 + j * 4
def Reg.rdTuner (i j : Nat) : Nat := 0x42000050 + i * 0x100000 + j * 4
def Reg.rdPdetCal (i j : Nat) : Nat := 0x42000060 + i * 0x100000 + j * 4
def Reg.rdTxTimeout (i : Nat) : Nat := 0x42000080 + i * 0x100000
def Reg.rdSynUnlock (i : Nat) : Nat := 0x42000084 + i * 0x100000
def Reg.rdHoldFail (i : Nat) : Nat := 0x42000088 + i * 0x100000
def Reg.rdMandRefuse (i : Nat) : Nat := 0x4200008C + i * 0x100000
def Reg.rdBlankDefer (i : Nat) : Nat := 0x42000090 + i * 0x100000
def Reg.rdBlankAbort (i : Nat) : Nat := 0x42000094 + i * 0x100000
def Reg.rdRespRefused (i : Nat) : Nat := 0x42000098 + i * 0x100000
def Reg.rdTuneSteps (i : Nat) : Nat := 0x4200009C + i * 0x100000
def Reg.rdPaUsLo (i : Nat) : Nat := 0x420000A0 + i * 0x100000
def Reg.rdPaUsHi (i : Nat) : Nat := 0x420000A4 + i * 0x100000
def Reg.rdIrqRaw (i : Nat) : Nat := 0x420000B0 + i * 0x100000
def Reg.rdIrqEn (i : Nat) : Nat := 0x420000B4 + i * 0x100000
def Reg.rdIrqStat (i : Nat) : Nat := 0x420000B8 + i * 0x100000
def Reg.mdmCtrl (i : Nat) : Nat := 0x42010000 + i * 0x100000
def Reg.mdmStat (i : Nat) : Nat := 0x42010004 + i * 0x100000
def Reg.mdmDetThr (i : Nat) : Nat := 0x42010008 + i * 0x100000
def Reg.mdmThresh (i : Nat) : Nat := 0x4201000C + i * 0x100000
def Reg.mdmRxDelayNs (i : Nat) : Nat := 0x42010010 + i * 0x100000
def Reg.mdmDecCtrl (i : Nat) : Nat := 0x42010014 + i * 0x100000
def Reg.mdmNfCtrl (i : Nat) : Nat := 0x42010018 + i * 0x100000
def Reg.mdmTxShape (i : Nat) : Nat := 0x4201001C + i * 0x100000
def Reg.mdmRxGainOff (i j : Nat) : Nat := 0x42010020 + i * 0x100000 + j * 4
def Reg.mdmNf (i j : Nat) : Nat := 0x42010030 + i * 0x100000 + j * 4
def Reg.mdmLastQ0 (i : Nat) : Nat := 0x42010040 + i * 0x100000
def Reg.mdmLastQ1 (i : Nat) : Nat := 0x42010044 + i * 0x100000
def Reg.mdmLastTsLo (i : Nat) : Nat := 0x42010048 + i * 0x100000
def Reg.mdmLastTsHi (i : Nat) : Nat := 0x4201004C + i * 0x100000
def Reg.mdmLastCfo (i : Nat) : Nat := 0x42010050 + i * 0x100000
def Reg.mdmPdCnt (i : Nat) : Nat := 0x42010080 + i * 0x100000
def Reg.mdmPdFalse (i : Nat) : Nat := 0x42010084 + i * 0x100000
def Reg.mdmSigFail (i : Nat) : Nat := 0x42010088 + i * 0x100000
def Reg.mdmUnsupp (i : Nat) : Nat := 0x4201008C + i * 0x100000
def Reg.mdmRestartCnt (i : Nat) : Nat := 0x42010090 + i * 0x100000
def Reg.mdmFalseSig (i : Nat) : Nat := 0x42010094 + i * 0x100000
def Reg.mdmCaptureCnt (i : Nat) : Nat := 0x42010098 + i * 0x100000
def Reg.mdmRxLost (i : Nat) : Nat := 0x4201009C + i * 0x100000
def Reg.mdmFcsErr (i : Nat) : Nat := 0x420100A0 + i * 0x100000
def Reg.mdmDelimErr (i : Nat) : Nat := 0x420100A4 + i * 0x100000
def Reg.mdmRxMpduLo (i : Nat) : Nat := 0x420100B0 + i * 0x100000
def Reg.mdmRxMpduHi (i : Nat) : Nat := 0x420100B4 + i * 0x100000
def Reg.mdmPeerQ (i j : Nat) : Nat := 0x42018000 + i * 0x100000 + j * 4
def Reg.ghGhId : Nat := 0x43000000
def Reg.ghGhStat : Nat := 0x43000004
def Reg.ghAuditCnt : Nat := 0x43000008
def Reg.ghLogHead : Nat := 0x4300000C
def Reg.ghLogOldest : Nat := 0x43000010
def Reg.ghOutNext : Nat := 0x43000014
def Reg.ghLogCap : Nat := 0x43000018
def Reg.ghSwId (j : Nat) : Nat := 0x43000020 + j * 4
def Reg.ghSignPub (j : Nat) : Nat := 0x43000040 + j * 4
def Reg.ghRejCnt (j : Nat) : Nat := 0x43000080 + j * 4
def Reg.ghAccCnt : Nat := 0x430000A0
def Reg.ghWeighCnt : Nat := 0x430000A4
def Reg.ghLcRes (j : Nat) : Nat := 0x430000C0 + j * 8
def Reg.ghLcRst (j : Nat) : Nat := 0x430000C4 + j * 8
def Reg.ccCoreCtrl (j : Nat) : Nat := 0x45000000 + j * 0x10
def Reg.ccCoreStat (j : Nat) : Nat := 0x45000004 + j * 0x10
def Reg.ccCoreWdog (j : Nat) : Nat := 0x45000008 + j * 0x10
def Reg.ccCoreBoot (j : Nat) : Nat := 0x4500000C + j * 0x10
def Reg.ccMtimecmpLo (j : Nat) : Nat := 0x45000100 + j * 8
def Reg.ccMtimecmpHi (j : Nat) : Nat := 0x45000104 + j * 8
def Reg.ccMtimeLo : Nat := 0x45000180
def Reg.ccMtimeHi : Nat := 0x45000184
def Reg.ccMsip (j : Nat) : Nat := 0x45000200 + j * 4
def Reg.ccL2Cfg : Nat := 0x45000300
def Reg.ccL2Ce : Nat := 0x45000304
def Reg.ccL2Ue : Nat := 0x45000308
def Reg.ccCcIrqRaw : Nat := 0x45000310
def Reg.ccCcIrqEn : Nat := 0x45000314
def Reg.ccCcIrqStat : Nat := 0x45000318
def Reg.ccCpuCtrl : Nat := 0x45000400
def Reg.ccTxRingLo : Nat := 0x45000404
def Reg.ccTxRingHi : Nat := 0x45000408
def Reg.ccTxRingSize : Nat := 0x4500040C
def Reg.ccTxBufLen : Nat := 0x45000410
def Reg.ccTxHead : Nat := 0x45000414
def Reg.ccTxTail : Nat := 0x45000418
def Reg.ccRxRingLo : Nat := 0x45000420
def Reg.ccRxRingHi : Nat := 0x45000424
def Reg.ccRxRingSize : Nat := 0x45000428
def Reg.ccRxBufLen : Nat := 0x4500042C
def Reg.ccRxHead : Nat := 0x45000430
def Reg.ccRxTail : Nat := 0x45000434
def Reg.ccRxRingOvf : Nat := 0x45000440
def Reg.ccDescErr : Nat := 0x45000444
def Reg.ccDmaErr : Nat := 0x45000448
def Reg.ghcLcCfg (j : Nat) : Nat := 0x10040000000 + j * 0x40
def Reg.ghcLcData (j : Nat) : Nat := 0x10040000004 + j * 0x40
def Reg.ghcLcStat (j : Nat) : Nat := 0x10040000008 + j * 0x40
def Reg.ghcLcDtLo (j : Nat) : Nat := 0x1004000000C + j * 0x40
def Reg.ghcLcDtHi (j : Nat) : Nat := 0x10040000010 + j * 0x40
def Reg.ghcAppBody (j : Nat) : Nat := 0x10040001000 + j * 4
def Reg.ghcAppCmd : Nat := 0x10040001080
def Reg.ghcAppStat : Nat := 0x10040001084
def Reg.ghcGhWdog : Nat := 0x10040001088

/-- Whether a row holds the offset `o` within an instance of its block. -/
def RegRow.has (r : RegRow) (o : Nat) : Bool :=
  if o < r.off then false
  else
    let d := o - r.off
    if r.stride = 0 then d == 0
    else
      let j := d / r.stride
      let e := d % r.stride
      if r.count ≤ j then false
      else if r.stride2 = 0 then e == 0
      else e % r.stride2 == 0 && decide (e / r.stride2 < r.count2)

/-- The row of a register address; none where no register table names it (R5: an unassigned offset). -/
def regRow (a : Nat) : Option RegRow :=
  match regBlock a with
  | none => none
  | some b =>
    let d := a - b.base
    let o := if b.stride = 0 then d else d % b.stride
    b.rows.find? (fun r => r.has o)

/-- The reset value of a register (0 at an unassigned offset, R5). -/
def regReset (a : Nat) : Word :=
  match regBlock a with
  | none => 0
  | some b =>
    match b.resets.lookup (a - b.base) with
    | some v => BitVec.ofNat 32 v
    | none =>
      let d := a - b.base
      let o := if b.stride = 0 then d else d % b.stride
      match b.rows.find? (fun r => r.has o) with
      | some r => BitVec.ofNat 32 r.reset
      | none => 0

end Sys2Proof.Machine
end

