-- ==== Sys2Proof/Machine/State.lean ====
section
/-! DEFINITION. The state of the device: its registers, its pounds and buffers, what its blocks hold that no register
shows, and the queue of waiting commands. All of it is plain data. -/

namespace Sys2Proof.Machine

/-- Why the machine stops. No command of this device stops it: an access the address map does not hold gets the error
response of R43, which is an effect. -/
inductive Fault
deriving DecidableEq, Repr

/-- Why a command has no meaning here. -/
inductive Refusal
  /-- Raised by the dispatcher for a command not modelled yet; safe, since nothing is claimed of it. -/
  | notModelled (mnemonic : String)
deriving DecidableEq, Repr

/-- What the bus answered the last register access (R4, R6, R43). -/
inductive Resp
  | none
  | ok
  | data (w : Word)
  /-- An error response, with its cause by the code of BUSERR_INFO.CAUSE (R45). -/
  | error (cause : Nat)
deriving DecidableEq, Repr

/-- A pound (R20 to R26): the words written and not yet readable, the readable words, the words the reading island has
taken of packets it has not consumed, each oldest first, and whether the write side is within a packet. -/
structure Pound where
  flight : List PWord := []
  ready : List PWord := []
  taken : List PWord := []
  midW : Bool := false
deriving DecidableEq, Repr

/-- A wired player (R49, R91, R92): the slot whose lock schedule plays and the DT at which that schedule started; the
hand-over instant while one is pending; and the gates it holds open, bit t for traffic class t. -/
structure Player where
  slot : Option Nat := none
  base : Nat := 0
  hand : Option Nat := none
  gates : Nat := 0
deriving DecidableEq, Repr

/-- A frame's reference against a retired tag (R85, R86). -/
structure Retired where
  tag : Nat
  count : Nat
deriving DecidableEq, Repr

/-- What GEN holds beside its registers: the table-store pages of each slot (R535), the address each image was loaded
from (R494), when each slot became current (R85), the retired tags (R86), the armed swap's lead, arming time and target
DT (R80), whether its target passed in a reset of GEN (R492), the DT of the last boundary, whether the next one was
announced (R60), the wired players, the damaged pages and whether each was given up (R494, R495), and the stations named
in the round (R187), and the load in progress as its slot, address and length (R95). -/
structure GenState where
  pages : Bank (List Nat) := []
  loadAt : Bank Nat := []
  swapAt : Bank Nat := []
  retired : List Retired := []
  armLead : Nat := 0
  armDt : Nat := 0
  tgtDt : Nat := 0
  missed : Bool := false
  bdy : Nat := 0
  announced : Bool := false
  players : Bank Player := []
  bad : List (Nat × Nat) := []
  lost : List (Nat × Nat) := []
  names : List Nat := []
  load : Option (Nat × Nat × Nat) := none
deriving DecidableEq, Repr


/-- What a parser engine finds (R105 to R112): the verdict (0 OK, 1 DEEP, 2 MALFORMED with its cause), the 80-byte key,
the headers parsed as (kind, offset, length), the frame length that the IP lengths announce, the TUNNEL_ID, and the image
bytes read as (offset, length). -/
structure Parsed where
  verdict : Nat := 0
  cause : Nat := 0
  key : List Byte := []
  heads : List (Nat × Nat × Nat) := []
  need : Nat := 0
  tunnelId : Nat := 0
  touched : List (Nat × Nat) := []
deriving DecidableEq, Repr

/-- A frame that the pipeline writes to PD28: its sideband, its bytes so far, and the bytes kept of it (0 for all). -/
structure PpOut where
  info : Meta := {}
  data : List Byte := []
  keep : Nat := 0
deriving DecidableEq, Repr

/-- What is to be done with a frame released (R116 to R139): the packets for PD28, the frame itself first; whether the
gauge house gets a copy; the frame to recirculate; and the stream filter it took. -/
structure PpFate where
  outs : List PpOut := []
  gauge : Bool := false
  recirc : Option (List Byte) := none
  filt : Option Nat := none
deriving DecidableEq, Repr

/-- A frame in the packet pipeline (R98 to R102): the source, port and sequence number it was accepted with, its tag and
pass, its sideband, the bytes so far and whether the end word came, with ABORT or not; then the engine that holds it, what
that engine found, the action, whether the reorder collector holds the result, and its fate once released. -/
structure PpFrame where
  fid : Nat
  src : Nat
  port : Nat
  seq : Nat
  tag : Nat
  second : Bool
  inPort : Nat
  tunnel : Nat
  info : Meta
  dt : Nat
  data : List Byte
  wholeAt : Bool
  whole : Bool
  badFcs : Bool := false
  eng : Option Nat := none
  parsed : Option Parsed := none
  act : Option Nat := none
  collected : Bool := false
  fate : Option PpFate := none
  streaming : Bool := false
deriving DecidableEq, Repr

/-- A frame in the recirculation buffer (R136 to R138). -/
structure RecircFrame where
  inPort : Nat
  tunnel : Nat
  tag : Nat
  info : Meta
  data : List Byte
deriving DecidableEq, Repr

/-- A NAT session (R130, R134): its addresses and ports, its idle time and the second of its last hit. -/
structure Session where
  inside : Nat
  remote : Nat
  iport : Nat
  rport : Nat
  proto : Nat
  outside : Nat
  oport : Nat
  idle : Nat
  last : Nat
deriving DecidableEq, Repr

/-- A session command in progress, with the registers as they stood (R133). -/
structure NatCmd where
  op : Nat
  ses : Nat
  entry : Session
deriving DecidableEq, Repr

/-- The packet pipeline beside its registers: the frames in it, oldest first; the frame each open source continues; the
rotations of the collectors and of the dispatcher; the sequence numbers; the words that wait for PD28; the
GAUGE copy under way, with its tag and the words that wait for PD32; the recirculation buffer; and the sessions. -/
structure PpState where
  frames : List PpFrame := []
  nextFid : Nat := 0
  openSrc : Bank (Option Nat) := []
  inRot : Nat := 14
  engRot : Nat := 7
  outRot : Nat := 7
  seqs : Bank Nat := []
  outQ : List PWord := []
  gauge : Option (Nat × List PWord) := none
  recirc : List RecircFrame := []
  sessions : Bank (Option Session) := []
  cmd : Option NatCmd := none
deriving DecidableEq, Repr

/-- A barge (R154 to R163): its number, flow queue, tag and sideband; the frame's bytes, whether its end word came, and
whether it came with ABORT after its first word had left; its cells; whether it is spilled, the spill cells, whether it is
written there, and its fetch (0 none, 1 in progress, 2 complete); the bytes already in the egress pound once it has
started; and the radio whose request reserves it (R175). -/
structure TmFrame where
  fid : Nat
  fq : Nat
  tag : Nat
  info : Meta
  data : List Byte := []
  whole : Bool := false
  aborted : Bool := false
  cells : Nat
  spilled : Bool := false
  spillAt : List Nat := []
  written : Bool := false
  fetch : Nat := 0
  started : Bool := false
  sent : Nat := 0
  resv : Option Nat := none
deriving DecidableEq, Repr

/-- The answer to a radio player's request (R173): the radio, the DT of the start of the entry (of the hit, for a LISTEN entry), the
place of the request in it (R186), the station, the bytes, none for EMPTY, and the frames reserved. -/
structure TmAnswer where
  radio : Nat
  start : Nat
  user : Nat
  sta : Nat
  bytes : Option Nat
  fids : List Nat
deriving DecidableEq, Repr

/-- The traffic manager beside its registers: the barges in the order they were admitted; the frame whose words PD28
gives; the frame each port sends; the counters per flow queue; the bucket levels with the DT of their last refill, at their
cap where unlisted (R148); the deficits and the child served last (R166); the
radios' answers; and whether a gauge-house record waits (R158). -/
structure TmState where
  frames : List TmFrame := []
  nextFid : Nat := 0
  openFid : Option Nat := none
  sel : Bank (Option Nat) := []
  fqEnq : Bank Nat := []
  fqDrop : Bank Nat := []
  bkts : Bank (Option (Int × Nat)) := []
  deficit : Bank Nat := []
  served : Bank (Option Nat) := []
  ans : List TmAnswer := []
  ghStall : Bool := false
deriving DecidableEq, Repr
/-- A user of a multi-user PPDU or a station of a list, as its entry gives it (R193, R198). -/
structure AirUser where
  sta : Nat
  ru : Nat := 0
  mcs : Nat := 0
  nss : Nat := 0
  limit : Nat := 0
  rssi : Nat := 0
deriving DecidableEq, Repr

/-- An air entry in play (R181 to R206): its index, its DTs of start and end, its fields, whether it is forfeited, whether
its start had passed when it fired (R54), whether its first exchange has begun, whether its vacancies are filled (R197), the
users still to be served in order, each with the place of its request (R186), the stations of an SP entry (R199), and the slots of a restricted access window whose
exchange was asked for (R201). -/
structure AirPlay where
  entry : Nat
  start : Nat
  stop : Nat
  ty : Nat
  flags : Nat
  arg : Nat
  chan : Nat
  forfeit : Bool := false
  part : Bool := false
  begun : Bool := false
  filled : Bool := false
  users : List (Nat × AirUser) := []
  members : List Nat := []
  slots : List Nat := []
deriving DecidableEq, Repr

/-- The requests that a player made for the entry that starts at `start` (R186): how many, and the DT of the last. -/
structure Ask where
  start : Nat
  count : Nat
  last : Nat
deriving DecidableEq, Repr

/-- A station's LISTEN entry in a generation (R216): S in µs, EVERY, PHASE, START_NS, LEN_NS and ROUND_NS, with the round
boundary and index from which its next firing counts. -/
structure ListenGen where
  sUs : Nat
  every : Nat
  phase : Nat
  start : Nat
  len : Nat
  round : Nat
  bdy : Nat
  idx : Nat
deriving DecidableEq, Repr

/-- A LISTEN entry whose window is to open, is open, or has closed with its outcome still open (R210, R211): the station,
the entry, its end, the latest end of a response (R184), the window, whether the station was named (check 3), whether it opened
and when, its S in µs, and, where a swap came after the window closed, the station's entry in the generation that was current
then (R216). -/
structure Listen where
  sta : Nat
  entry : Nat
  stop : Nat
  limit : Nat
  opn : Nat
  cls : Nat
  named : Bool
  opened : Bool := false
  since : Nat := 0
  sUs : Nat
  gen : Option (Option ListenGen) := none
deriving DecidableEq, Repr

/-- A hit whose answer is not settled (R208, R213): the station, the entry, S and C in µs, FLAGS.REACQ, the latest end of
the response (R184), the DT of the hit, whether the request was answered (R186), whether the wake-timing frame was sent, and its
sequence number. -/
structure Wake where
  sta : Nat
  entry : Nat
  sUs : Nat
  c : Int
  reacq : Bool
  limit : Nat
  hitAt : Nat
  asked : Bool := false
  sent : Bool := false
  sn : Nat := 0
deriving DecidableEq, Repr

/-- A record command that waits (R217): its operation, index and staged words. -/
structure AsrCmd where
  op : Nat
  sta : Nat
  words : List Word
deriving DecidableEq, Repr

/-- An air player (R49): the entry in play, the entries fired in this round, the LISTEN window, those of overlapped LISTEN
entries, the hit, the deferred record command, the requests made (R186), the queue sizes last reported by station × 16 + TID
(R196), and the EDCA functions: their set, the one whose access awaits a response, the end of its TXOP, contention windows and
backoffs, and the DT up to which idle slots have been counted (R203). -/
structure AirRadio where
  play : Option AirPlay := none
  fired : List Nat := []
  listen : Option Listen := none
  lapped : List Listen := []
  wake : Option Wake := none
  cmd : Option AsrCmd := none
  asks : List Ask := []
  ulTid : Bank Nat := []
  edcaSet : Option Nat := none
  edcaAc : Option Nat := none
  txop : Option (Nat × Nat) := none
  cw : Bank Nat := []
  backoff : Bank Nat := []
  cntFrom : Nat := 0
deriving DecidableEq, Repr

/-- The duty ledger (R219): the bins, keyed by second × 16 + record, in µs; the reservations in progress; and the seconds
counted before DT was last restarted (R223). -/
structure DutyState where
  bins : Bank Nat := []
  rsv : Bank Nat := []
  base : Nat := 0
deriving DecidableEq, Repr

/-- One PPDU that the device sends in an exchange: its offset from the start of the first at the aerial port and its length,
in ns. -/
structure PlanPpdu where
  off : Nat
  len : Nat
deriving DecidableEq, Repr

/-- What a run of the transmit path is for (R270): a beacon, a downlink multi-user PPDU, a Trigger frame, an A-MPDU of an SP
entry or of a restricted access window slot, an access of an EDCA function, the response to a LISTEN hit, the multi-STA BlockAck of a
TRIG entry, or any other immediate response. -/
inductive RunKind | beacon | mu | trigger | sp | raw | edca | wake | multi | resp
deriving DecidableEq, Repr

/-- A user of a run: the MPDUs it may carry within LIMIT, those the radio holds of them, those it carries (R184), and the
frames the traffic manager has reserved for it, in order (R175). -/
structure TxUser where
  user : AirUser
  want : Nat := 0
  held : Nat := 0
  count : Nat := 0
  fids : List Nat := []
deriving DecidableEq, Repr

/-- What a response answers (R238): an Ack, a BlockAck of a space from a starting sequence number, with the numbers that the PPDU brought,
or a CTS. -/
inductive DueKind
  | ack
  | ba (space ssn : Nat) (heard : List Nat)
  | cts
deriving DecidableEq, Repr

/-- A response due (R238): the peer's association index, none where unknown, its address, and the kind. -/
structure Due where
  sta : Option Nat
  addr : Nat
  kind : DueKind
deriving DecidableEq, Repr

/-- A run of the transmit path (R270): its kind, its EDCA function, its users, the responses it gives and what they answer, what
IEEE 802.11 gives it, its start and latest end, whether it follows the device's own exchange by SIFS (R182), the PPDUs still to
be sent, and whether and in which second its airtime is reserved (R221); the DT of its last change and that at which PA enable
rose. -/
structure TxRun where
  kind : RunKind
  ac : Nat := 0
  users : List TxUser := []
  due : List Due := []
  sig : Option SigInfo := none
  air : Airtime
  start : Nat
  limit : Nat
  chained : Bool := false
  rest : List PlanPpdu := []
  reserved : Bool := false
  resSec : Nat := 0
  paAt : Option Nat := none
  since : Nat := 0
deriving DecidableEq, Repr

/-- An output line: its level, and the DT at which it changes, if one is set (R282). -/
structure Wire where
  lvl : Bool := false
  flip : Option Nat := none
deriving DecidableEq, Repr

/-- A chain of a radio: the runs of PPDUs below and above each mismatch threshold (R285), whether blanking or a background
step blinds it (R274), its AGC setting, its FEM lines (R281), and the tuner search (R287) with the write that waits and the word
last shifted out (R286). -/
structure RdChain where
  mmLow : Nat := 0
  mmOk : Nat := 0
  sevLow : Nat := 0
  sevOk : Nat := 0
  blind : Bool := false
  agc : Nat := 0
  txEn : Wire := {}
  paEn : Wire := {}
  rxEn : Wire := {}
  byp : Wire := {}
  searching : Bool := false
  best : Nat := 0
  bestRl : Int := 0
  axisB : Bool := false
  down : Bool := false
  fails : Nat := 0
  floor : Int := 0
  pend : Bool := false
  shown : Nat := 0
deriving DecidableEq, Repr

/-- A calibration step in progress (R277, R278): its kind and chain, its end, whether it is a background step or mandatory,
its position in its step set, or in its kind where it is mandatory, and the step set. -/
structure CalStep where
  kind : Nat
  chain : Nat
  last : Bool
  stop : Nat
  bg : Bool
  mand : Bool
  pos : Nat
  set : Nat
deriving DecidableEq, Repr

/-- A resource unit's sub-carriers as the modem estimates them (R308): the number of the first, and for each its coefficients by chain
and stream. -/
structure UnitEst where
  first : Nat
  h : List (List (List Cplx))
deriving DecidableEq, Repr

/-- What the modem estimates of a PPDU (R308, R310): its resource units; each chain's noise variance; the carrier offset of the LTF; and
for each unit tracked alone the smoothed timing drift and the phases of the data symbols so far. -/
structure ChanEst where
  units : List UnitEst
  var : List Rat
  cfo : Int
  drift : List Rat := []
  phases : List (List Rat) := []
deriving DecidableEq, Repr

/-- A reception (R303): when it was detected, its timestamp, the end its SIG announced, THRESH and MDM_CTRL as they stood at the
detection, REF in 0.25 dBm, its long training fields with the chains that were blanked (R300), what its SIG announced, and its
estimates. -/
structure RxRun where
  since : Nat
  ts : Nat
  stop : Nat := 0
  thresh : Word
  ctrl : Word
  ref : Int := 0
  ltf : Option LtfObs := none
  blind : List Nat := []
  sig : Option SigInfo := none
  est : Option ChanEst := none
deriving DecidableEq, Repr

/-- The modem before the events of one cycle (R305): their DT, its counters, its state, the reception and the announced duration. -/
structure MdmUndo where
  at_ : Nat
  regs : List (Nat × Word)
  was : Nat
  rx : Option RxRun
  busyTo : Nat
deriving DecidableEq, Repr

/-- An MPDU the device built (R248): its peer, space and numbers, the slot that protects it, its sideband and frame, and how
often it was sent. -/
structure TxMpdu where
  sta : Nat
  space : Nat
  sn : Nat
  kid : Option Nat
  pn : Nat
  info : Meta
  data : List Byte
  tries : Nat := 0
deriving DecidableEq, Repr

/-- An acknowledgement that the device sends (R238): an Ack, a CTS, or the scoreboard of a space from a starting sequence
number. -/
inductive Reply
  | ack
  | cts
  | blockAck (space ssn : Nat) (bits : List Bool)
deriving DecidableEq, Repr

/-- What a PPDU of the device carries: a beacon, its MPDU without FCS with the fills written (R190); A-MPDUs for users, in a
multi-user PPDU each with a triggered response scheduling field (R195); a Trigger frame's BW, GI_LTF, UL Length, AP transmit
power and users (R193, R196); the response to a LISTEN hit, with its station, the body of its wake-timing frame and its
sequence number (R208); or responses, each with the peer's association index, none where unknown, and its address (R238). -/
inductive AirFrame
  | beacon (body : List Byte)
  | data (users : List (AirUser × List TxMpdu)) (trs : Bool)
  | trigger (bw gi ulLen power : Nat) (users : List AirUser)
  | wake (sta addr : Nat) (reply : Reply) (body : List Byte) (sn : Nat) (mpdus : List TxMpdu)
  | replies (l : List (Option Nat × Nat × Reply))
deriving DecidableEq, Repr

/-- A PPDU of the device (R239, R268, R317, R319): what it carries; the BlockAckReqs in it as station, TID and starting
sequence number (R248); its format by the codes of LAST_Q0.FORMAT, its width code, and whether it is a duplicate; its rate
in units of 500 kb/s where it has no MCS, its MCS and streams minus 1; the primary channel's position and PRI1M; the punctured subchannels
nulled; the transition of TX_SHAPE in ns; the power of each enabled chain in 0.25 dBm and whether predistortion is on; and its
start at the aerial port and length in ns. -/
structure AirPpdu where
  frame : AirFrame
  bars : List (Nat × Nat × Nat) := []
  format : Nat
  bw : Nat
  dup : Bool
  rate : Nat
  mcs : Nat
  nss : Nat
  pri : Nat
  pri1m : Bool
  punct : Nat
  win : Nat
  power : List (Nat × Int)
  dpd : Bool
  start : Nat
  len : Nat
deriving DecidableEq, Repr

/-- What the modem forms of one data sub-carrier of a symbol (R309): the streams' estimates and their SINR, by which the soft bits
are scaled. -/
structure Detected where
  x : List Cplx
  sinr : List Rat
deriving DecidableEq, Repr

/-- A radio beside its registers: when the synthesiser entered its state (R269); the transmission and the PPDU in hand or last
sent; BLANK_OUT and the chains; the calibration engine, its positions with the record of each set (R277), the kinds done per
channel and chain, the mandatory kinds and how far each has run (R280), and the temperature and ceiling of the last
completions (R279); the reception, the durations announced and the NAV (R302, R240); the report not yet latched (R312);
the modem before the events of this cycle, and the SIG of a reception that did not reach its end and left MPDUs to be handed over (R305); since when the radio receives and the
intervals before; the words that wait for the receive pound; the responses due, the end of the PPDU that solicits them and its
SIG (R238); the peers whose response is awaited and until when (R241); the ends of the last transmission, the last reception
and the last exchange of the entry in play (R182, R199, R302); the frames read from the egress pound and not yet built; the
DT at which each BLANK_IN pin fell (R292) and the pins whose hold-off runs; when the modem is armed (R274); what it detected of the last
PPDU by symbol and resource unit and the iterations of its codewords (R309, R311); and the tuner bus: the chain, the word shifted and the start (R286). -/
structure RdState where
  synAt : Nat := 0
  run : Option TxRun := none
  air : Option AirPpdu := none
  blankOut : Wire := {}
  chains : Bank RdChain := []
  cal : Option CalStep := none
  calPos : Bank (Nat × Nat) := []
  calDone : Bank Nat := []
  mand : Bank Nat := []
  mandPos : Bank Nat := []
  calTemp : Bank (Option Int) := []
  calCeil : Bank (Option Int) := []
  bgPos : Nat := 0
  rx : Option RxRun := none
  undo : Option MdmUndo := none
  busyTo : Nat := 0
  nav : Nat := 0
  report : List Word := []
  kept : Option SigInfo := none
  rxFrom : Option Nat := none
  rxSpans : List (Nat × Nat) := []
  outQ : List PWord := []
  due : List Due := []
  dueAt : Nat := 0
  dueSig : Option SigInfo := none
  await : List Nat := []
  awaitTo : Nat := 0
  txDone : Nat := 0
  rxDone : Nat := 0
  exEnd : Option Nat := none
  stock : List (Meta × List Byte) := []
  fell : Bank (Option Nat) := []
  armAt : Nat := 0
  det : List (List (List Detected)) := []
  iters : List Nat := []
  tun : Option (Nat × Nat × Nat) := none
deriving DecidableEq, Repr

/-- A held MPDU (R243, R245): what was received, on which radio, at which timestamp and RSSI, when it was held, and its
cells of the reorder region. -/
structure Held where
  m : Mpdu
  x : Nat
  ts : Nat
  rssi : Nat
  since : Nat
  cells : List Nat
deriving DecidableEq, Repr

/-- A sequence space of an entry (R242, R243, R248): the window start, none before the first MPDU; the scoreboard as the
sequence numbers received at or above it; those received below it that a BlockAck still reports (R238); the last number accepted without an agreement; the held MPDUs; and the next
transmit number. -/
structure Space where
  ws : Option Nat := none
  got : List Nat := []
  back : List Nat := []
  last : Option Nat := none
  held : List Held := []
  txSn : Nat := 0
deriving DecidableEq, Repr

/-- A key slot (R246, R247): its suite, 0 for empty, its key, its transmit counter, whether the last PN was used (R249), and
its receive counters by space. -/
structure KeySlot where
  suite : Nat := 0
  key : List Byte := []
  tx : Nat := 0
  spent : Bool := false
  rx : Bank Nat := []
deriving DecidableEq, Repr

/-- What the device knows of the parent on one link (R254): the parent's TSF less the device's in µs, the beacon interval in
µs, and the next TBTT on the parent's TSF. -/
structure ParentLink where
  offset : Int := 0
  interval : Nat := 0
  tbtt : Nat := 0
deriving DecidableEq, Repr

/-- Stations beside the registers (R227 to R262): the entries as words 0 to 11; the address index (R229); the key slots;
the sequence spaces; the MPDUs on the air and awaiting acknowledgement per radio, those that await retransmission, and the
windows to be moved by a BlockAckReq (R248); the parent links; the vector last evaluated (R259); since when each uplink has
been up (R257); and the PS-Poll grants (R237). -/
structure StaState where
  entries : Bank (List Word) := []
  index : Bank (Option (Nat × Nat)) := []
  pair : Bank KeySlot := []
  group : Bank KeySlot := []
  parentKeys : Bank KeySlot := []
  spaces : Bank Space := []
  sent : Bank (List TxMpdu) := []
  retry : List TxMpdu := []
  bars : List (Nat × Nat) := []
  parents : Bank (Option ParentLink) := []
  fbVec : Nat := 0
  fbDue : Bool := false
  ulUp : Bank (Option Nat) := []
  polls : List (Nat × Nat) := []
deriving DecidableEq, Repr

/-- A frame that a transmit MAC sends (R347 to R350): its sideband, its bytes so far, whether its end word came, with ABORT
or not; whether the MAC discards the rest of it (R329, R347); and, of a direct-ring frame, that it is one, that it is sent in
the clear (CLEAR), and the SA and PN that secure it (R359); and when it started. -/
structure TxFrame where
  info : Meta := {}
  data : List Byte := []
  whole : Bool := false
  aborted : Bool := false
  drop : Bool := false
  ring : Bool := false
  clear : Bool := false
  sa : Option (Nat × Nat) := none
  start : Nat := 0
deriving DecidableEq, Repr

/-- What the traffic manager tells a wired MAC of a frame beside its words (notes/assumptions/193.md): the port and the DT it came
in by, its flow queue, and the length it was judged with. -/
structure EgNote where
  inPort : Nat
  inDt : Nat
  fq : Nat
  len : Nat
deriving DecidableEq, Repr

/-- The MAC of a wired port beside its registers: the words in its transmit buffer and the credits spent on it (R537); the
frame it sends; the words in its receive buffer, and whether part of their packet is in the pound (R346); the time-stamp
queue as (cookie, timestamp) (R350); and the bytes, FCS included, of the last frame it sent at the MDI; and the notes of the frames whose first word went into
the egress pound and which it has not started, oldest first; the DT from which the line is free for its next frame (R71), and the DT of
the last push into the time-stamp queue (R353). -/
structure PortState where
  idleAt : Nat := 0
  pushAt : Option Nat := none
  buf : List PWord := []
  spent : Nat := 0
  tx : Option TxFrame := none
  rxq : List PWord := []
  rxMid : Bool := false
  tsq : List (Nat × Nat) := []
  wire : List Byte := []
  notes : List EgNote := []
deriving DecidableEq, Repr

/-- The learned period of fence triggers (R334): the mean and the last start, in ns × 2^exp, and the misses in a row. -/
structure FencePer where
  exp : Nat
  mean : Nat
  last : Nat
  misses : Nat := 0
deriving DecidableEq, Repr

/-- The PHY of a stall port beside its registers: the start of its fence trigger, the sources that were active (0 to 3 the pins, 4 the
impulse detector), the DT at which one last became active, and those ignored since a DT (R332, R333); the start and the end of its last
trigger; the last starts, the period and the predicted window (R334); the end of a power-switch freeze (R344); the PSE (R341,
R342): when it entered its state and from which, whether it waits in DETECT, the output bits EN and DIS with the DTs of their
last changes, newest first, and when EN was cleared; the reflectometry runs that triggers hit and the start of the present one
(R339); the start of the noise-floor period (R336) and of the link; the coefficients and the DT up to which they have adapted
(R330); and the last release from a freeze with FREEZE_CNT as it stood before (R331). -/
structure SpState where
  trig : Option Nat := none
  src : List Nat := []
  srcAt : Nat := 0
  ign : List Nat := []
  stuckAt : Nat := 0
  trigFrom : Nat := 0
  trigEnd : Nat := 0
  starts : List Nat := []
  per : Option FencePer := none
  win : Bool := false
  pwr : Option Nat := none
  pseAt : Nat := 0
  pseFrom : Nat := 0
  wait : Bool := false
  en : Bool := false
  dis : Bool := false
  outs : List (Nat × Bool × Bool) := []
  disAt : Option Nat := none
  tdrHits : Nat := 0
  tdrAt : Nat := 0
  nfAt : Nat := 0
  upAt : Nat := 0
  coef : EqCoefs := {}
  coefAt : Nat := 0
  rel : Option (Nat × Word) := none
deriving DecidableEq, Repr

/-- The expander bus (R342): the DT of its last PODL_LD edge; FLT and PG of every port as the input registers captured them there;
EN and DIS of every port as the output registers hold them; and the bits of the last frame on PODL_SDO and PODL_SDI, in order. -/
structure PodlBus where
  ldAt : Option Nat := none
  flt : BitVec 64 := 0
  pg : BitVec 64 := 0
  en : BitVec 64 := 0
  dis : BitVec 64 := 0
  sdo : List Bool := []
  sdi : List Bool := []
deriving DecidableEq, Repr

/-- A MACsec secure association (R362): its key and its next PN. -/
structure Sa where
  key : List Byte
  next : Nat
deriving DecidableEq, Repr

/-- A checked frame of a transmit ring (R365, R366): the frames still to send, its TS_REQ, COOKIE and CLEAR, and its
descriptors. -/
structure DirFrame where
  segs : List (List Byte)
  tsReq : Bool
  cookie : Nat
  clear : Bool
  count : Nat
deriving DecidableEq, Repr

/-- An uplink beside its registers: the transmit SAs by AN and the receive SAs by SC × 4 + AN (R358); the checked ring frame
(R367), and whether the pound's head is held after a ring frame; since when the link word reports the link down (R355); and the
receiver's CTLE code and DFE taps as SERDES_RX.FREEZE holds them (R356). -/
structure UlState where
  txSa : Bank (Option Sa) := []
  rxSa : Bank (Option Sa) := []
  dir : Option DirFrame := none
  hold : Bool := false
  lwDown : Option Nat := none
  rx : Option (Nat × List Int) := none
deriving DecidableEq, Repr

/-- One 64-byte line of an accepted DRAM request (R373, R378): its request and port, its index there, whether it writes
and reads first (R382), its channel line, the byte mask of a write, its device-wide offset, when it was accepted and issued, and the
data that the writes accepted before it left, which a read sees. -/
structure DramLine where
  id : Nat
  port : Nat
  idx : Nat
  write : Bool
  rmw : Bool
  report : Bool
  line : Nat
  mask : Nat := 0
  off : Nat
  since : Nat
  issued : Nat := 0
  data : List Byte := []
deriving DecidableEq, Repr

/-- A write-queue entry: its channel line and its byte mask, bit b for byte b (R379, R380); `rush` where a read waits
for it; the DT of the last write that merged into it, the mask from before that DT and the mask merged at it. -/
structure WqEntry where
  line : Nat
  mask : Nat
  rush : Bool := false
  lateAt : Option Nat := none
  early : Nat := 0
  late : Nat := 0
deriving DecidableEq, Repr

/-- A request accepted and not yet answered (R373): its lines still open, its status by the codes of the response, and
the lines read. -/
structure DramOpen where
  id : Nat
  port : Nat
  read : Bool
  left : Nat
  status : Nat := 0
  got : List (Nat × List Byte) := []
deriving DecidableEq, Repr

/-- One controller: its write queue and whether it drains to WQ_LO (R381); the lines pending, in flight, and the report
writes whose response waits (R392); the retry buffer (R390); the fall of ALERT_N, the last reissue and the count of
consecutive alerts (R391, R393); lines known bad (R388); refresh and ZQCS times and the refreshes owed per rank
(R385); lane drift and the DT of the last drift step (R398); the training operation in progress and the mode registers (R396); the
port issued last (R383); the entry whose drain began last with its DT (R380); the rows open by bank and those that an alert closed
(R391); and the line that scrubbing reads next and the DT of its last read (R389). -/
structure McChan where
  wq : List WqEntry := []
  drainMode : Bool := false
  lines : List DramLine := []
  flight : List DramLine := []
  reportW : List DramLine := []
  retry : List DramLine := []
  alertAt : Option Nat := none
  reissueAt : Option Nat := none
  consec : Nat := 0
  bad : List Nat := []
  refAt : Nat × Nat := (0, 0)
  owed : Nat × Nat := (0, 0)
  zqAt : Nat := 0
  drift : List Int := [0, 0, 0, 0, 0]
  op : Option Nat := none
  modeRegs : Bank Word := []
  issueRot : Nat := 7
  drained : Option (Nat × WqEntry) := none
  rows : Bank (Option Nat) := []
  shut : Bank (Option Nat) := []
  scrubLine : Nat := 0
  scrubAt : Nat := 0
  driftAt : Nat := 0
deriving DecidableEq, Repr

/-- The memory island: both channels, the requests open in each port's order, the command collector's last port and the
device-wide order (R378), and when a request last came. -/
structure McState where
  ch : Bank McChan := []
  opens : List DramOpen := []
  nextId : Nat := 0
  rot : Nat := 7
  lastReq : Nat := 0
deriving DecidableEq, Repr

/-- The configuration of a lock-keeper task as a staged WRITE gives it (TS window registers). -/
structure TaskCfg where
  mask : Word := 0
  cfg : Word := 0
  dl : Nat := 0
  tmr : Nat := 0
deriving DecidableEq, Repr

/-- What the lock-keeper holds of a task beside TASK_VIEW and TASK_FLAGS: its configuration, when it became ready, and
a staged WRITE held until DONE (R414). -/
structure Task where
  c : TaskCfg := {}
  readyAt : Nat := 0
  held : Option TaskCfg := none
deriving DecidableEq, Repr

/-- The lock-keeper (R414 to R421): the tasks; the task each core holds; the DONE words of each core that wait for the
completion collector; the source that collector accepted last; the core served last; when the recovery interval ends; the flags set
at a DT, as (task, flag), with that DT (R415); and since when each core has been free (R417). -/
structure TsState where
  tasks : Bank Task := []
  holds : Bank (Option Nat) := []
  doneWait : Bank (List Word) := []
  rot : Nat := 7
  lastCore : Nat := 7
  recovEnd : Nat := 0
  fresh : Nat × List (Nat × Nat) := (0, [])
  freeAt : Bank Nat := []
deriving DecidableEq, Repr

/-- The interrupt controller (R47): the sources with a pending request, and the sources whose request was claimed and not yet
completed. -/
structure PlicState where
  pend : Bank Bool := []
  served : Bank Bool := []
deriving DecidableEq, Repr

/-- The bandwidth meter of the PMU (R427): bytes read and written per DRAM port in the window in progress, and where that
window started; the write totals of the window just ended, which a read of BW_RD latches into BW_WR. -/
structure PmuState where
  rd : Bank Nat := []
  wr : Bank Nat := []
  winStart : Nat := 0
  wrLast : Bank Nat := []
deriving DecidableEq, Repr

/-- A frame of the CPU port's transmit ring (R410, R411): its descriptors' count, its cookie, whether it is timed, the words
still to enter PD26, and its STATUS once it is written back. -/
structure CpuTx where
  count : Nat
  cookie : Nat
  timed : Bool
  words : List PWord
  status : Option Nat := none
deriving DecidableEq, Repr

/-- What the control cluster holds beside its registers: when each core's watchdog was last restarted (R409); the frames
that the CPU port has fetched and not yet retired, oldest first (R410); the fates posted of timed frames (R411); and the access fault
that each core took last, as whether a store met it and its address (R45). -/
structure CcState where
  wdog : Bank (Option Nat) := []
  txs : List CpuTx := []
  posts : List (Nat × TxFate) := []
  traps : Bank (Option (Bool × Nat)) := []
deriving DecidableEq, Repr

/-- What takes effect when a log entry is committed (R437, R442, R443): nothing, a key installed or removed, bytes of the
parameter block or of the staging image, the staging image active from the next reset, or the end of an APP_CMD. -/
inductive GhAct
  | none
  | install (meter : Nat) (key : List Byte)
  | remove (meter : Nat)
  | param (off : Nat) (data : List Byte)
  | chunk (off : Nat) (data : List Byte)
  | activate (image sig : List Byte)
  | app
deriving DecidableEq, Repr

/-- A log entry to be committed (R445): its TYPE, GAP_COUNT where FLAGS.GAP is set, its body, its TIME with LOCAL_TIME where it
is fixed before the commit, the adjustment mode sampled for it, and what takes effect with it. -/
structure GhItem where
  ty : Nat
  gap : Nat := 0
  body : List Byte
  time : Option (Nat × Bool) := .none
  adj : Option Bool := .none
  act : GhAct := .none
deriving DecidableEq, Repr

/-- A meter of the key table (R442): its key and its last accepted SEQ. -/
structure Meter where
  key : List Byte
  last : Nat := 0
deriving DecidableEq, Repr

/-- What the record engine works through in order (R447): a frame of the inbox with its TIME, or a WEIGH body
with the DT of its request. -/
inductive GhWork
  | frame (b : List Byte) (time : Nat) (isLocal : Bool)
  | weigh (body : List Byte) (arr : Nat)
deriving DecidableEq, Repr

/-- The gauge house beside its window and its core's registers: whether its supply is present, when it started; its OTP
(R435): SEAL, the maker's key, the transport key, the signing key; its flash: the log by INDEX, when an
unexported entry was committed, the parameter block, the key table, the staging image and the image active from the next
reset; the work in hand, the control record that passed its checks with the adjustment mode sampled for it, the entries to
commit, the LOG_READ in progress as the next INDEX and the end, whether the next entry is marked TORN, the results that still
carry SETTLING, when GH_WDOG was last written, whether an entry has waited for more than 1 s (R451), and
when the last entry was committed (R447) and the adjustment mode last changed (R436). -/
structure GhState where
  vdd : Bool := false
  startAt : Nat := 0
  sealed : Bool := false
  maker : List Byte := []
  transport : List Byte := []
  signKey : List Byte := []
  log : Bank (List Byte) := []
  commitAt : Bank Nat := []
  params : Bank Byte := []
  meters : Bank (Option Meter) := []
  stage : Bank Byte := []
  active : Option (List Byte × List Byte) := none
  work : List GhWork := []
  ctl : Option (List Byte × Bool) := none
  items : List GhItem := []
  again : Option (Nat × Nat) := none
  torn : Bool := false
  settle : Bank Nat := []
  wdogAt : Nat := 0
  waiting : Bool := false
  commitDt : Option Nat := none
  adjAt : Option Nat := none
deriving DecidableEq, Repr

/-- The security block beside its registers: the OTP by word (R460); the latest NONCE, none once used up (R467); since when
the next NONCE is withheld; the data register that DBG_CHAL last captured (R466); and the HMAC command in progress as its address, length and key (R465). -/
structure SecState where
  otp : Bank Word := []
  nonce : Option (List Byte) := none
  backoff : Option Nat := none
  chal : List Byte := []
  hmac : Option (Nat × Nat × List Byte) := none
deriving DecidableEq, Repr

/-- AO beside its registers: whether a chip reset holds the device (R516), whether the boot ROM has yet to run (R455), when
AO_WDOG was last written, when the power state last changed (R472); the real-time counter as its value at a DT, in units of a
thousand-millionth of a tick; the ns spent in each power state before a DT (the RES counters); and the DT at which PPS_OUT
last rose (R522). -/
structure AoState where
  held : Bool := false
  booting : Bool := true
  wdogAt : Nat := 0
  pmAt : Option Nat := none
  rtcBase : Nat := 0
  rtcAt : Nat := 0
  res : Bank Nat := []
  resAt : Nat := 0
  ppsAt : Option Nat := none
deriving DecidableEq, Repr


/-- The progress monitor of an island (R487 to R489): when the island last reported ready; the DTs of its hang declarations
that still count; the DT of a reset, or of a scheduler restart, that the device took; and whether it escalated. -/
structure HangMon where
  readyAt : Nat := 0
  decls : List Nat := []
  resetAt : Option Nat := none
  esc : Bool := false
deriving DecidableEq, Repr

/-- The fault unit beside its registers: the progress monitors by island. -/
structure FltState where
  mon : Bank HangMon := []
deriving DecidableEq, Repr

/-- A replay in progress (R504 to R508), latched at START: where its ring lies in DRAM and how long it is, in units of 16
bytes; where the next record lies, how many units of the span are left and the RSEQ expected next; whether the span ends
where the records do; and the interrupt sources that the records drive high (R506). -/
structure ReplayRun where
  base : Nat
  units : Nat
  pos : Nat
  left : Nat
  rseq : Nat
  toEnd : Bool
  irqs : List Nat := []
deriving DecidableEq, Repr

/-- A checkpoint (R500): bucket levels with their last refill, deficits, barges, NAT sessions, the lock-keeper's tasks with
TASK_FLAGS and TASK_VIEW, the tag and SEQ of each resident slot, the current slot's SEQ, the last boundary and ROUND_IDX,
and LOSS_STATE. -/
structure Ckpt where
  bkts : Bank (Option (Int × Nat)) := []
  deficit : Bank Nat := []
  barges : List TmFrame := []
  sessions : Bank (Option Session) := []
  tasks : Bank Task := []
  taskRegs : Bank Word := []
  slots : List (Nat × Nat) := []
  cur : Option Nat := none
  bdy : Nat := 0
  idx : Nat := 0
  loss : Nat := 0
deriving DecidableEq, Repr

/-- The towpath beside its registers: the records discarded at each source and not yet told (R498), the sequence number
of the next record (R499), the mark being taken with its checkpoint (R500), the replay in progress, and the tap that
its collector took last (R34). -/
structure TpState where
  gap : Bank Nat := []
  rseq : Nat := 0
  taking : Option (Fin 16) := none
  ckpt : Option Ckpt := none
  play : Option ReplayRun := none
  rot : Nat := 2
deriving DecidableEq, Repr

/-- The state of the device. Every register of the register map is in `regs` under its address, with its reset value
where unlisted; `snap` and `hold` are the snapshot and the holding register of each 48-bit counter (R9, R11) under the
address of its LO half. -/
structure State where
  /-- Device time, whole nanoseconds, 64 bits (R13). -/
  dt : Nat := 0
  /-- The binary fraction of a nanosecond of device time, 16 bits (R13). -/
  dtFrac : BitVec 16 := 0
  /-- The model's own counter of free values drawn (notes/assumptions/6.md). -/
  freeCtr : Nat := 0
  /-- The answer of the last register access. -/
  resp : Resp := .none
  regs : Bank Word := []
  snap : Bank (BitVec 16) := []
  hold : Bank (BitVec 16) := []
  /-- DRAM, by offset from 0x08_0000_0000. -/
  dram : Bank Byte := []
  /-- The L2 as SRAM, by offset from 0x00_1000_0000. -/
  l2 : Bank Byte := []
  /-- The table store, by offset from 0x00_2000_0000. -/
  tstore : Bank Byte := []
  pounds : Bank Pound := []
  gen : GenState := {}
  pp : PpState := {}
  tm : TmState := {}
  /-- The air players by radio (chapter 5). -/
  air : Bank AirRadio := []
  duty : DutyState := {}
  /-- The stations (chapter 6). -/
  sta : StaState := {}
  /-- The radios (chapters 7 and 8). -/
  rd : Bank RdState := []
  /-- The sluice as read at the last chip reset (R294). -/
  slu : Bank Word := []
  /-- The MACs of the wired ports P0 to P65, the PHYs of the stall ports and the uplinks (chapter 9). -/
  port : Bank PortState := []
  /-- The port within stall octet `k` whose packet comes from PD(8 + k) (R537). -/
  spoSub : Bank Nat := []
  sp : Bank SpState := []
  ul : Bank UlState := []
  /-- PODL_FLT_N is low, so that expander-bus frames run back to back (R342). -/
  podlFlt : Bool := false
  podl : PodlBus := {}
  gh : GhState := {}
  sec : SecState := {}
  ao : AoState := {}
  mc : McState := {}
  cc : CcState := {}
  ts : TsState := {}
  plic : PlicState := {}
  pmu : PmuState := {}
  tp : TpState := {}
  flt : FltState := {}
  /-- The commands that wait, first in, first out. -/
  pending : List Instr := []
deriving DecidableEq, Repr

/-- The device right after reset: device time 0, every register at its reset value, every store empty. -/
def State.reset : State := {}

end Sys2Proof.Machine
end

