-- ==== Sys2Proof/Machine/Ops.lean ====
section
/-! DEFINITION. The named operations over the state: device time, registers and their fields, 48-bit counters,
memories, and free values. Every meaning reads and writes the state through these. -/

namespace Sys2Proof.Machine

/-- Device time moved on to the time of a command; it never runs backwards (R13; notes/assumptions/2.md). -/
def State.at (s : State) (time : Nat) : State := { s with dt := max s.dt (time % 2 ^ 64) }

/-- Commands that wait and take place in the present cycle (notes/assumptions/209.md). -/
def sameCycle (s : State) : List Instr := s.pending.takeWhile (fun c => decide (c.time ≤ s.dt))

/-- The low 48 bits of device time: a timestamp (R13). -/
def State.now48 (s : State) : Nat := s.dt % 2 ^ 48

/-- The stored value of a register, or its reset value. -/
def State.reg (s : State) (a : Nat) : Word := bankGet regReset s.regs a

/-- A register set to a value. -/
def State.setReg (s : State) (a : Nat) (v : Word) : State := { s with regs := bankSet regReset s.regs a v }

/-- A register set to a number. -/
def State.setNat (s : State) (a v : Nat) : State := s.setReg a (BitVec.ofNat 32 v)

/-- The register's value as a number. -/
def State.regN (s : State) (a : Nat) : Nat := (s.reg a).toNat

/-- A field of a register as a number. -/
def State.fld (s : State) (a lo len : Nat) : Nat := bitsOf (s.reg a) lo len

/-- One bit of a register. -/
def State.bit (s : State) (a i : Nat) : Bool := bitOf (s.reg a) i

/-- A field of a register replaced. -/
def State.setFld (s : State) (a lo len v : Nat) : State := s.setReg a (putBits (s.reg a) lo len v)

/-- One bit of a register replaced. -/
def State.setBit (s : State) (a i : Nat) (b : Bool) : State := s.setReg a (putBit (s.reg a) i b)

/-- An event sets bit `i` of an IRQ_RAW register. -/
def State.raise (s : State) (raw i : Nat) : State := s.setBit raw i true

/-- Bits of a register set. -/
def State.orReg (s : State) (a : Nat) (m : Word) : State := s.setReg a (s.reg a ||| m)

/-- Bits of a register cleared. -/
def State.clrReg (s : State) (a : Nat) (m : Word) : State := s.setReg a (s.reg a &&& ~~~m)

/-- `n` events counted by a 32-bit counter that saturates (R402, R428, R509 and the like). -/
def State.addRc (s : State) (a n : Nat) : State := s.setNat a (min (s.regN a + n) 0xFFFFFFFF)

/-- One event counted by a saturating counter. -/
def State.inc (s : State) (a : Nat) : State := s.addRc a 1

/-- A 32-bit counter that wraps moved on by one (R32). -/
def State.incWrap (s : State) (a : Nat) : State := s.setNat a (s.regN a + 1)

/-- A 48-bit value in a LO/HI pair (R8). -/
def State.pair (s : State) (lo : Nat) : Nat := s.regN lo + 2 ^ 32 * (s.regN (lo + 4) % 2 ^ 16)

/-- A 48-bit value stored in a LO/HI pair, modulo 2^48 (R8). -/
def State.setPair (s : State) (lo v : Nat) : State :=
  (s.setNat lo (v % 2 ^ 32)).setNat (lo + 4) (v / 2 ^ 32 % 2 ^ 16)

/-- A 48-bit counter moved on by `n`, modulo 2^48. -/
def State.addPair (s : State) (lo n : Nat) : State := s.setPair lo (s.pair lo + n)

/-- The snapshot of a 48-bit counter (R9). -/
def State.snapOf (s : State) (lo : Nat) : BitVec 16 := bankGet (fun _ => 0) s.snap lo

/-- The holding register of a 48-bit counter (R11). -/
def State.holdOf (s : State) (lo : Nat) : BitVec 16 := bankGet (fun _ => 0) s.hold lo

/-- The snapshot of a 48-bit counter latched. -/
def State.setSnap (s : State) (lo : Nat) (v : BitVec 16) : State := { s with snap := bankSet (fun _ => 0) s.snap lo v }

/-- The holding register of a 48-bit counter loaded. -/
def State.setHold (s : State) (lo : Nat) (v : BitVec 16) : State := { s with hold := bankSet (fun _ => 0) s.hold lo v }

/-- A fresh free word, and the state that has drawn it. -/
def State.drawWord (s : State) : Word × State := (Config.freeWord s.freeCtr, { s with freeCtr := s.freeCtr + 1 })

/-- A fresh free number, and the state that has drawn it. -/
def State.drawNat (s : State) : Nat × State := (Config.freeNat s.freeCtr, { s with freeCtr := s.freeCtr + 1 })

/-- `n` fresh free bytes, and the state that has drawn them. -/
def State.drawBytes (s : State) (n : Nat) : List Byte × State :=
  (Config.freeBytes s.freeCtr n, { s with freeCtr := s.freeCtr + 1 })

/-- Bytes of DRAM by offset from its base. -/
def State.dramRead (s : State) (off n : Nat) : List Byte := memRead s.dram off n

/-- Bytes written to DRAM by offset from its base. -/
def State.dramWrite (s : State) (off : Nat) (bs : List Byte) : State := { s with dram := memWrite s.dram off bs }

/-- Bytes of the table store by offset. -/
def State.tsRead (s : State) (off n : Nat) : List Byte := memRead s.tstore off n

/-- Bytes written to the table store by offset. -/
def State.tsWrite (s : State) (off : Nat) (bs : List Byte) : State := { s with tstore := memWrite s.tstore off bs }

/-- The answer of a register access recorded. -/
def State.answer (s : State) (r : Resp) : State := { s with resp := r }

/-- A function applied for each number of a list in turn. -/
def State.each {α : Type} (s : State) (l : List α) (f : α → State → State) : State := l.foldl (fun t x => f x t) s

/-- A state changed only where a condition holds. -/
def State.whenB (s : State) (c : Bool) (f : State → State) : State := if c then f s else s

/-- A read-only field that mirrors the state: bit ranges of one register set from a list of (lo, len, value). -/
def State.setFlds (s : State) (a : Nat) (l : List (Nat × Nat × Nat)) : State :=
  s.setReg a (l.foldl (fun w f => putBits w f.1 f.2.1 f.2.2) (s.reg a))

end Sys2Proof.Machine
end

