-- ==== Sys2Proof/Machine/Operands.lean ====
section
/-! DEFINITION. Operand forms: the regions of the address map, the checks that a register access passes (R4, R42 to R45,
R463, R464, R538), the channel and offset a DRAM address names (R376, R377), and the numbers of radios and initiators. -/

namespace Sys2Proof.Machine

/-- The register index of a radio (R15). -/
def rIdx : Radio → Nat
  | .h => 0
  | .m => 1
  | .l => 2

/-- The island of a radio (R16). -/
def rIsland (x : Radio) : Nat := 8 + rIdx x

/-- Every radio, in index order. -/
def radios : List Radio := [.h, .m, .l]

/-- The kinds of region in the address map (R43). -/
inductive Region
  | boot
  | l2
  | tstore
  | ghWindow
  | regs
  | dram
  | gap
deriving DecidableEq, Repr

/-- The region of an address (R43). -/
def regionOf (a : Nat) : Region :=
  if a < 0x20000 then .boot
  else if 0x10000000 ≤ a ∧ a < 0x10200000 then .l2
  else if 0x20000000 ≤ a ∧ a < 0x20600000 then .tstore
  else if 0x40000000 ≤ a ∧ a < 0x40090000 then .regs
  else if 0x40100000 ≤ a ∧ a < 0x40300000 then .regs
  else if 0x41000000 ≤ a ∧ a < 0x41100000 then .regs
  else if 0x41200000 ≤ a ∧ a < 0x41220000 then .regs
  else if 0x42000000 ≤ a ∧ a < 0x42300000 then .regs
  else if 0x43000000 ≤ a ∧ a < 0x43001000 then .ghWindow
  else if 0x44000000 ≤ a ∧ a < 0x44400000 then .regs
  else if 0x45000000 ≤ a ∧ a < 0x45010000 then .regs
  else if 0x800000000 ≤ a ∧ a < 0xA00000000 then .dram
  else .gap

/-- The island whose reset or switch-off makes a register address inaccessible (R42, R43); none for TOP, which stays
accessible at all times, and for FLT, which belongs to the timebase island (R483). -/
def islandOf (a : Nat) : Option Nat :=
  if 0x20000000 ≤ a ∧ a < 0x20600000 then some 6
  else if a < 0x40010000 then none
  else if a < 0x40020000 then some 0
  else if a < 0x40030000 then some 1
  else if a < 0x40040000 then some 0
  else if a < 0x40050000 then some 3
  else if a < 0x40060000 then some 2
  else if a < 0x40070000 then some 20
  else if a < 0x40080000 then some 1
  else if a < 0x40090000 then some 7
  else if a < 0x40180000 then some 4
  else if a < 0x40200000 then some 5
  else if a < 0x40300000 then some 6
  else if a < 0x41100000 then some (11 + (a - 0x41000000) / 0x4000 / 8)
  else if a < 0x41220000 then some 19
  else if a < 0x42300000 then some (8 + (a - 0x42000000) / 0x100000)
  else if a < 0x43001000 then none
  else some 2

/-- The parts of GEN's region that keep their accessibility through a reset of GEN (R538): the AIR, STA and DUTY
blocks, the sluice window and the table-store window. -/
def keptInGenReset (a : Nat) : Bool :=
  decide (0x20000000 ≤ a ∧ a < 0x20600000) || decide (0x40210000 ≤ a ∧ a < 0x40300000)

/-- Island `i` is in reset (ISL_STAT.IN_RESET). -/
def islInReset (s : State) (i : Nat) : Bool := s.bit (Reg.topIslStat i) 3

/-- Island `i` is switched on (ISL_STAT.POWERED). -/
def islPowered (s : State) (i : Nat) : Bool := s.bit (Reg.topIslStat i) 0

/-- Island `i` runs: powered, out of reset and initialised. -/
def islUp (s : State) (i : Nat) : Bool := islPowered s i && !islInReset s i && s.bit (Reg.topIslStat i) 2

/-- The island of an address is off or in reset for register accesses (R42, R538). -/
def islandOff (s : State) (a : Nat) : Bool :=
  match islandOf a with
  | none => false
  | some i => !islPowered s i || (islInReset s i && !keptInGenReset a)

/-- Channel `c` of MC is in RUN. -/
def mcRun (s : State) (c : Nat) : Bool := decide (s.fld (Reg.mcMcStat c) 0 3 = 3)

/-- Channel `c` holds its contents and takes requests: RUN or SELF_REFRESH (R399, R400). -/
def mcLive (s : State) (c : Nat) : Bool := mcRun s c || decide (s.fld (Reg.mcMcStat c) 0 3 = 4)

/-- The mode of ADDR_MAP; 3 acts as 0 (R377). -/
def dramMode (s : State) : Nat := let m := s.fld (Reg.mcAddrMap 0) 0 2; if m = 3 then 0 else m

/-- The configured capacity in bytes: 0 until every channel the mode uses is in RUN (R377). -/
def dramCap (s : State) : Nat :=
  let cap := fun c => s.fld (Reg.mcCapMb c) 0 13 * 2 ^ 20
  match dramMode s with
  | 0 => if mcLive s 0 then cap 0 else 0
  | 1 => if mcLive s 0 && mcLive s 1 then cap 0 + cap 1 else 0
  | _ => if mcLive s 0 && mcLive s 1 then 2 * min (cap 0) (cap 1) else 0

/-- The channel and the channel address of a DRAM offset (R376). -/
def dramChan (s : State) (off : Nat) : Nat × Nat :=
  match dramMode s with
  | 0 => (0, off)
  | 1 =>
    let cap0 := s.fld (Reg.mcCapMb 0) 0 13 * 2 ^ 20
    if off < cap0 then (0, off) else (1, off - cap0)
  | _ => ((nbits off 8 1 + nbits off 16 1 + nbits off 24 1) % 2, off / 512 * 256 + off % 256)

/-- The size of the L2 window in bytes: SRAM_WAYS ways of 128 KiB (R406). -/
def l2Size (s : State) : Nat := min (s.fld Reg.ccL2Cfg 0 5) 16 * 0x20000

/-- The initiator is a core in machine mode. -/
def machineMode (s : State) (init : Nat) : Bool :=
  decide (init < 8) && decide (s.fld (Reg.ccCoreStat init) 2 2 = 3)

/-- The lifecycle state shows RETURNED (LC_STAT.STATE = 3). -/
def lcReturned (s : State) : Bool := decide (s.fld Reg.secLcStat 0 2 = 3)

/-- The address lies in the secure range of DRAM (R463). -/
def inSecure (s : State) (a : Nat) : Bool :=
  let b := s.fld Reg.secSecureBase 0 20
  let l := s.fld Reg.secSecureLimit 0 20
  !lcReturned s && decide (b ≤ l) && decide (b ≤ a / 2 ^ 20) && decide (a / 2 ^ 20 ≤ l)

/-- Some of `n` bytes from an address lie in the secure range (R463). -/
def secureMeets (s : State) (a n : Nat) : Bool :=
  let b := s.fld Reg.secSecureBase 0 20
  let l := s.fld Reg.secSecureLimit 0 20
  !lcReturned s && decide (b ≤ l) && decide (a / 2 ^ 20 ≤ l) && decide (b ≤ (a + (n - 1)) / 2 ^ 20)

/-- The initiator may reach the secure range: a core in machine mode, or a debugger at HALT (R463). -/
def secureInit (s : State) (init : Nat) : Bool :=
  machineMode s init || (decide (init = 10) && decide (s.fld Reg.secDbgStat 0 2 = 2))

/-- The SEC registers that every initiator may read, marked "any" in the SEC register map (R464). -/
def secAny (a : Nat) : Bool :=
  let o := a - Reg.secLcStat
  decide (o = 0) || decide (o = 0x20) || decide (o = 0x24) || decide (o = 0x28) || decide (o = 0x60) ||
    (decide (0x70 ≤ o) && decide (o < 0x130))

/-- The real-time counter in ticks of 32.768 kHz (AO.RTC), which goes on through chip resets and P4. -/
def rtcNow (s : State) : Nat := (s.ao.rtcBase + (s.dt - s.ao.rtcAt) * 32768) / 1000000000 % 2 ^ 48

/-- The µs spent in power state `n` (AO.RES). -/
def resNow (s : State) (n : Nat) : Nat :=
  (bankGet (fun _ => (0 : Nat)) s.ao.res n + (if s.fld Reg.aoPmStat 0 3 = n then s.dt - s.ao.resAt else 0)) / 1000 % 2 ^ 48

/-- The present value of the 48-bit counter whose LO half lies at an address: RTC and RES count by themselves. -/
def pairNow (s : State) (lo : Nat) : Nat :=
  if lo = Reg.aoRtcLo then rtcNow s
  else if Reg.aoResLo 0 ≤ lo ∧ lo < Reg.aoResLo 5 then resNow s ((lo - Reg.aoResLo 0) / 8)
  else s.pair lo

/-- Whether an address lies in the SEC region. -/
def inSec (a : Nat) : Bool := decide (0x40030000 ≤ a) && decide (a < 0x40040000)

/-- The debug module may make an access: reads from OBSERVE on, writes at HALT (R468). Every other initiator may. -/
def debugMay (s : State) (init : Nat) (write : Bool) : Bool :=
  decide (init ≠ 10) || decide ((if write then 2 else 1) ≤ s.fld Reg.secDbgStat 0 2)

/-- The cause of the error response of an access, by the code of BUSERR_INFO.CAUSE (R45): 0 GAP, 1 SIZE,
2 RO_WINDOW, 3 DRAM_RANGE, 4 ISLAND_OFF; none where the access completes. -/
def busCause (s : State) (init a size : Nat) (write : Bool) : Option Nat :=
  match regionOf a with
  | .gap => some 0
  | .boot => if write then some 2 else none
  | .l2 => if l2Size s ≤ a - 0x10000000 then some 0 else none
  | .dram =>
    if dramCap s ≤ a - 0x800000000 then some 3
    else if inSecure s a && !secureInit s init then some 0 else none
  | .tstore => if islandOff s a then some 4 else if write then some 2 else none
  | .ghWindow => if write then some 2 else if size ≠ 4 ∨ a % 4 ≠ 0 then some 1 else none
  | .regs =>
    if size ≠ 4 ∨ a % 4 ≠ 0 then some 1
    else if islandOff s a then some 4
    else if inSec a && !machineMode s init && (write || !secAny a) then some 0
    else none

/-- The access violates the secure range of DRAM, which sets SECURE_VIOL (R463). -/
def secureViol (s : State) (init a : Nat) : Bool :=
  decide (regionOf a = .dram) && decide (a - 0x800000000 < dramCap s) && inSecure s a && !secureInit s init

end Sys2Proof.Machine
end

