-- ==== Sys2Proof/Machine/PoundOps.lean ====
section
/-! DEFINITION. Pounds (R20 to R33, R38 to R41): their ends, levels, watermarks and packets, and the rotation of the
collectors (R34). -/

namespace Sys2Proof.Machine

/-- The islands of the users of the DRAM ports 0 to 7 (R372, R16). -/
def dramUser (q : Nat) : Nat :=
  match q with
  | 0 => 2
  | 1 => 5
  | 2 => 8
  | 3 => 9
  | 4 => 10
  | 5 => 19
  | 6 => 20
  | _ => 6

/-- The writing and the reading island of a pound (R33). -/
def poundEnds (p : Nat) : Nat × Nat :=
  if p < 8 then (11 + p, 4)
  else if p < 16 then (5, 11 + (p - 8))
  else if p < 18 then (19, 4)
  else if p < 20 then (5, 19)
  else if p < 23 then (8 + (p - 20), 4)
  else if p < 26 then (5, 8 + (p - 23))
  else match p with
    | 26 => (2, 4)
    | 27 => (5, 2)
    | 28 => (4, 5)
    | 29 => (4, 6)
    | 30 => (6, 4)
    | 31 => (21, 5)
    | 32 => (4, 21)
    | 33 => (4, 20)
    | 34 => (5, 20)
    | 35 => (2, 20)
    | 52 => (2, 3)
    | 53 => (3, 2)
    | _ => if p % 2 = 0 then (dramUser ((p - 36) / 2), 7) else (7, dramUser ((p - 36) / 2))

/-- A pound. -/
def State.pound (s : State) (p : Nat) : Pound := bankGet (fun _ => {}) s.pounds p

/-- The depth of a pound in words (PND_GEOM, R33). -/
def poundDepth (s : State) (p : Nat) : Nat := s.fld (Reg.topPndGeom p) 0 11

/-- The words a pound holds: the true level, which this model's write side sees at once (R21, notes/assumptions/8.md). -/
def Pound.level (q : Pound) : Nat := q.flight.length + q.ready.length

/-- The whole packets a pound holds: its readable end words (R26). -/
def Pound.packets (q : Pound) : Nat := (q.ready.filter (·.last)).length

/-- The comparison of R28 and R30: LEVEL ≥ MARK, never with a MARK above the depth. -/
def wmLive (mark depth level : Nat) : Bool := decide (mark ≤ level) && decide (mark ≤ depth)

/-- A pound closed by an island reset or power-down (PND_STAT.CLOSED). -/
def poundClosed (s : State) (p : Nat) : Bool := s.bit (Reg.topPndStat p) 17

/-- A pound replaced: LEVEL, WM_LIVE and PND_PKTS follow, and a rising crossing of MARK sets WM_NOTICE and increments
PND_XCNT (R27, R28, R30). -/
def State.setPound (s : State) (p : Nat) (q : Pound) : State :=
  let old := (s.pound p).level
  let mark := s.fld (Reg.topPndCfg p) 0 10
  let depth := poundDepth s p
  let s := { s with pounds := bankSet (fun _ => {}) s.pounds p q }
  let s := s.setFlds (Reg.topPndStat p) [(0, 10, q.level), (16, 1, bnat (wmLive mark depth q.level))]
  let s := s.setNat (Reg.topPndPkts p) q.packets
  if old < mark ∧ mark ≤ q.level ∧ mark ≤ depth then
    (s.setBit (Reg.topPndStat p) 24 true).incWrap (Reg.topPndXcnt p)
  else s

/-- `k` packets of `n` words each pass through a pound within one step: each is written whole and read whole, so it counts in
PND_TOT, and its words may cross MARK (R27, R33, R46; notes/assumptions/195.md). -/
def transit (s : State) (p n k : Nat) : State :=
  let level := (s.pound p).level
  let mark := s.fld (Reg.topPndCfg p) 0 10
  if k = 0 ∨ poundClosed s p = true then s
  else
    let s := if level < mark ∧ mark ≤ level + n ∧ mark ≤ poundDepth s p then
        (s.setBit (Reg.topPndStat p) 24 true).setNat (Reg.topPndXcnt p) (s.regN (Reg.topPndXcnt p) + k)
      else s
    s.addPair (Reg.topPndTotLo p) k

/-- The write side has room for a word: the pound is open and not full (R21, R40). -/
def poundRoom (s : State) (p : Nat) : Bool := !poundClosed s p && decide ((s.pound p).level < poundDepth s p)

/-- One word written (R21): it is not yet readable. -/
def poundPush (s : State) (p : Nat) (w : PWord) : State :=
  let q := s.pound p
  s.setPound p { q with flight := q.flight ++ [w], midW := !w.last }

/-- The oldest written word becomes readable (R22). -/
def poundShow (s : State) (p : Nat) : State :=
  let q := s.pound p
  match q.flight with
  | [] => s
  | w :: r => s.setPound p { q with flight := r, ready := q.ready ++ [w] }

/-- The words of the packet in progress dropped from the words a reader has taken (R25). -/
def dropOpen (taken : List PWord) : List PWord :=
  (taken.reverse.dropWhile (fun w => !w.last)).reverse

/-- A reader takes the oldest readable word. An end word with ABORT = 0 counts in PND_TOT (R46); with ABORT = 1 the reader
discards the whole packet, which counts in PND_ABORT (R25). -/
def poundTake (s : State) (p : Nat) : State :=
  let q := s.pound p
  match q.ready with
  | [] => s
  | w :: r =>
    if w.last && w.abort then
      (s.setPound p { q with ready := r, taken := dropOpen q.taken }).inc (Reg.topPndAbort p)
    else
      let s := s.setPound p { q with ready := r, taken := q.taken ++ [w] }
      if w.last then s.addPair (Reg.topPndTotLo p) 1 else s

/-- The words the reader holds of complete packets consumed: the words up to the first end word, and the rest. -/
def splitPacket : List PWord → Option (List PWord × List PWord)
  | [] => none
  | w :: r =>
    if w.last then some ([w], r)
    else match splitPacket r with
      | none => none
      | some (a, b) => some (w :: a, b)

/-- The data bytes of a list of words. -/
def wordsData (ws : List PWord) : List Byte := ws.flatMap (·.data)

/-- The meta information of a packet: that of its first word (R24). -/
def wordsMeta (ws : List PWord) : Meta :=
  match ws with
  | [] => {}
  | w :: _ => w.info

/-- A store-and-forward reader may take the next word (R26): it is within a packet, a whole packet is readable, or the pound is
as full as it is deep. -/
def mayStart (s : State) (p : Nat) : Bool :=
  let q := s.pound p
  ((q.taken.getLast?.map (fun w => !w.last)).getD false) || decide (1 ≤ q.packets) || decide (q.level = poundDepth s p)

/-- Every readable word of a pound up to the first end word taken, none where no end word is readable. -/
def takePacketN (s : State) (p : Nat) : Nat → State
  | 0 => s
  | n + 1 =>
    match (s.pound p).ready with
    | [] => s
    | w :: _ => if w.last then poundTake s p else takePacketN (poundTake s p) p n

/-- A store-and-forward reader takes the oldest packet whole and consumes it: its words, none where no whole packet is
readable or the packet was aborted (R25, R26). -/
def readPacket (s : State) (p : Nat) : Option (List PWord × State) :=
  let s :=
    match splitPacket (s.pound p).taken with
    | some _ => s
    | none => takePacketN s p ((s.pound p).ready.length)
  match splitPacket (s.pound p).taken with
  | none => none
  | some (ws, rest) => some (ws, s.setPound p { s.pound p with taken := rest })

/-- The words of `n` bytes of data as a packet, `width` bytes a word. -/
def wordsOf (width : Nat) (info : Meta) (bs : List Byte) : Nat → List PWord
  | 0 => []
  | n + 1 =>
    if bs.length ≤ width then [⟨bs, true, false, true, info⟩]
    else ⟨bs.take width, false, false, true, info⟩ :: (wordsOf width {} (bs.drop width) n).map (fun w => { w with first := false })

/-- A packet of a frame's bytes in words of a pound's width (R23). -/
def packetOf (s : State) (p : Nat) (info : Meta) (bs : List Byte) : List PWord :=
  wordsOf (max 1 (s.fld (Reg.topPndGeom p) 16 7)) info bs (bs.length + 1)

/-- The words of a whole packet written one after another. -/
def pushAll (s : State) (p : Nat) (ws : List PWord) : State := ws.foldl (fun t w => poundPush t p w) s

/-- The end word that a pound's read side writes when its writer stops partway through a packet (R38): one byte, since BYTES is at
least 1 (R23; notes/assumptions/194.md). -/
def abortEnd : PWord := ⟨[0], true, true, false, {}⟩

/-- A pound whose writing island is reset or switched off: a packet cut short gets an ABORT end word, and every whole
packet stays (R38). -/
def cutWriter (s : State) (p : Nat) : State :=
  let q := s.pound p
  if q.midW then s.setPound p { q with flight := q.flight ++ [abortEnd], midW := false } else s

/-- A pound whose reading island is reset or switched off: it is emptied, and each packet discarded or cut short counts in
PND_ABORT (R39). -/
def emptyReader (s : State) (p : Nat) : State :=
  let q := s.pound p
  let n := ((q.flight ++ q.ready).filter (·.last)).length + bnat q.midW
  (s.setPound p {}).addRc (Reg.topPndAbort p) n

/-- Every pound with an end in island `i` closed (R37 to R39). -/
def closePounds (s : State) (i : Nat) : State :=
  s.each (List.range 54) (fun p t =>
    let e := poundEnds p
    let t := if e.1 = i then cutWriter t p else t
    let t := if e.2 = i then emptyReader t p else t
    if e.1 = i ∨ e.2 = i then t.setBit (Reg.topPndStat p) 17 true else t)

/-- The pounds of island `i` reopened, but for those whose other end is still closed (R37, R41). -/
def openPounds (s : State) (i : Nat) : State :=
  s.each (List.range 54) (fun p t =>
    let e := poundEnds p
    let other := if e.1 = i then e.2 else e.1
    if (e.1 = i ∨ e.2 = i) ∧ t.bit (Reg.topIslStat other) 4 = false then t.setBit (Reg.topPndStat p) 17 false else t)

/-- The first ready source after the one accepted last, in the fixed rotation of `n` sources (R34). -/
def rotPick (n last : Nat) (ready : Nat → Bool) : Option Nat :=
  ((List.range n).map (fun i => (last + 1 + i) % n)).find? ready

end Sys2Proof.Machine
end

