-- ==== Sys2Proof/Machine/Tap.lean ====
section
/-! DEFINITION. The towpath's taps (R498, R499): records of the inputs of PP, TM and CC on their way into the tap pounds PD33 to
PD35. The ring is in Towpath.lean, the checkpoint and the replay are in Replay.lean. -/

namespace Sys2Proof.Machine

/-- The recorder records through tap `k` (0 PP, 1 TM, 2 CC): MODE = RECORD, the tap enabled, the island up (R498). -/
def recording (s : State) (k : Nat) : Bool :=
  decide (s.fld Reg.tpTpCtrl 0 2 = 1) && s.bit Reg.tpTpCtrl (16 + k) && islPowered s 20 && !islInReset s 20

/-- The replay engine runs (RP_STAT.BUSY). -/
def replaying (s : State) : Bool := s.bit Reg.tpRpStat 0

/-- The ring's length in units of 16 bytes. -/
def ringUnits (s : State) : Nat := min (s.fld Reg.tpRingSize 0 13) 4096 * 65536

/-- Records discarded at source `k` (3 the recorder itself) and not yet told by a GAP record. -/
def gapOf (s : State) (k : Nat) : Nat := bankGet (fun _ => 0) s.tp.gap k

/-- The discards of a source replaced; TP_STAT.GAP_PENDING follows. -/
def setGap (s : State) (k n : Nat) : State :=
  let s := { s with tp := { s.tp with gap := bankSet (fun _ => 0) s.tp.gap k n } }
  s.setBit Reg.tpTpStat 2 (!s.tp.gap.isEmpty)

/-- A mark's state by the code of MARK_STAT. -/
def markState (s : State) (m : Nat) : Nat := s.fld (Reg.tpMarkStat m) 0 2

/-- A record discarded (R498, R501): counted in LOST, and the mark being taken is lost. -/
def discardRecord (s : State) (k : Nat) : State :=
  let s := setGap (s.inc Reg.tpLost) k (gapOf s k + 1)
  match s.tp.taking with
  | none => s
  | some m => { s.setFld (Reg.tpMarkStat m) 0 2 3 with tp := { s.tp with taking := none } }

/-- A record's bytes: the header of R499 and the payload padded to whole units. -/
def recordBytes (kind src rseq dt arg0 arg1 : Nat) (payload : List Byte) : List Byte :=
  let n := ceilDiv payload.length 16
  leBytes 4 ((1 + n) % 256 + 256 * (kind % 16) + 4096 * (src % 4) + 65536 * (rseq % 65536)) ++
    leBytes 4 (dt % 2 ^ 32) ++ leBytes 4 (dt / 2 ^ 32 % 2 ^ 16 + 65536 * (arg0 % 65536)) ++ leBytes 4 (arg1 % 2 ^ 32) ++
    payload ++ List.replicate (16 * n - payload.length) 0

/-- The tap pound of tap `k` has room for `n` words (R33, R498). -/
def tapRoom (s : State) (k n : Nat) : Bool :=
  !poundClosed s (33 + k) && decide ((s.pound (33 + k)).level + n ≤ poundDepth s (33 + k))

/-- The words of a record in the tap pound of tap `k`; its RSEQ is given by the recorder. -/
def tapWords (s : State) (k kind src dt arg0 arg1 : Nat) (payload : List Byte) : List PWord :=
  packetOf s (33 + k) {} (recordBytes kind src 0 dt arg0 arg1 payload)

/-- The GAP record of tap `k`, once it has discards to tell and its pound has room (R498). -/
def tapGap (s : State) (k : Nat) : State :=
  let n := gapOf s k
  if n = 0 ∨ tapRoom s k 1 = false then s
  else (setGap (pushAll s (33 + k) (tapWords s k 13 3 s.now48 0 (min n 0xFFFFFFFF) [])) k 0).raise Reg.tpIrqRaw 0

/-- A record of tap `k` (R498): written into the tap pound behind the GAP record that is due, or discarded where the pound has no
room for it. -/
def tapRecord (s : State) (k kind dt arg0 arg1 : Nat) (payload : List Byte) : State :=
  if recording s k then
    let s := tapGap s k
    let ws := tapWords s k kind k dt arg0 arg1 payload
    if gapOf s k = 0 ∧ tapRoom s k ws.length = true then pushAll s (33 + k) ws else discardRecord s k
  else s

/-- The bytes of a frame that a record holds: CAP16 × 16, or all with FULL, at most 4,064 (R498, R499). -/
def captured (s : State) (bs : List Byte) : List Byte :=
  if s.bit Reg.tpTpCtrl 13 then bs.take 4064 else bs.take (16 * min (s.fld Reg.tpTpCtrl 8 5) 16)

end Sys2Proof.Machine
end

