-- ==== Sys2Proof/Machine/Flags.lean ====
section
/-! DEFINITION. Flags: the raw, enable and status registers of interrupts and the bits that follow a condition (R7, R31),
the interrupt sources by their identities (R47, R48), the flags of lock-keeper tasks (R414, R415), the event map (R416),
the interrupt controller (R47) and the completion of a command. -/

namespace Sys2Proof.Machine

/-- The bits of an IRQ_RAW register that follow a condition: they read it, and a write to IRQ_STAT does not clear them
(the field tables of TOP, GEN, PP, TM, AIR, STA, PMU and FLT). -/
def followMask (raw : Nat) : Word :=
  if raw = Reg.topIrqRaw then 0x1
  else if raw = Reg.genIrqRaw then 0x4
  else if raw = Reg.ppIrqRaw then 0x18
  else if raw = Reg.tmIrqRaw then 0x14
  else if raw = Reg.staIrqRaw then 0x10
  else if raw = Reg.pmuIrqRaw then 0x2
  else if raw = Reg.fltIrqRaw then 0x2
  else if raw = Reg.airIrqRaw 0 ∨ raw = Reg.airIrqRaw 1 ∨ raw = Reg.airIrqRaw 2 then 0x8
  else 0

/-- One condition as a word with that bit. -/
def bitIf (i : Nat) (b : Bool) : Word := if b then BitVec.ofNat 32 (2 ^ i) else 0

/-- The bits that follow a condition, as they read now. -/
def followBits (s : State) (raw : Nat) : Word :=
  if raw = Reg.topIrqRaw then bitIf 0 (s.bit Reg.topBuserrInfo 31)
  else if raw = Reg.genIrqRaw then
    bitIf 2 (s.reg Reg.genGateLate0 != 0 || s.reg Reg.genGateLate1 != 0 || s.reg Reg.genGateLate2 != 0)
  else if raw = Reg.ppIrqRaw then
    bitIf 3 (s.reg Reg.ppNatExpHead != s.reg Reg.ppNatExpTail) ||| bitIf 4 (s.bit Reg.ppPpStat 9)
  else if raw = Reg.tmIrqRaw then bitIf 2 (s.bit Reg.tmTmStat 1) ||| bitIf 4 s.tm.ghStall
  else if raw = Reg.staIrqRaw then bitIf 4 (s.reg Reg.staEvtHead != s.reg Reg.staEvtTail)
  else if raw = Reg.pmuIrqRaw then bitIf 1 (s.reg Reg.pmuSmpHead != s.reg Reg.pmuSmpTail)
  else if raw = Reg.fltIrqRaw then bitIf 1 (s.reg Reg.fltLogHead != s.reg Reg.fltLogTail)
  else if raw = Reg.airIrqRaw 0 then bitIf 3 (s.reg (Reg.airEvtHead 0) != s.reg (Reg.airEvtTail 0))
  else if raw = Reg.airIrqRaw 1 then bitIf 3 (s.reg (Reg.airEvtHead 1) != s.reg (Reg.airEvtTail 1))
  else if raw = Reg.airIrqRaw 2 then bitIf 3 (s.reg (Reg.airEvtHead 2) != s.reg (Reg.airEvtTail 2))
  else 0

/-- What an IRQ_RAW register reads: the events stored and the bits that follow. -/
def rawOf (s : State) (raw : Nat) : Word := (s.reg raw &&& ~~~(followMask raw)) ||| followBits s raw

/-- What the IRQ_STAT register after `raw` and its enable reads (R7). -/
def statOf (s : State) (raw : Nat) : Word := rawOf s raw &&& s.reg (raw + 4)

/-- A write to IRQ_STAT clears bits of RAW, but for those that follow a condition; the bits `hw` that hardware sets in
the same cycle stay set (R31). -/
def clearStat (s : State) (raw : Nat) (d hw : Word) : State :=
  s.setReg raw ((s.reg raw &&& ~~~(d &&& ~~~(followMask raw))) ||| hw)

/-- The WM_NOTICE bits of pounds `from` to `from + n - 1` as one number (PND_IRQ_RAW0 and PND_IRQ_RAW1). -/
def notices (s : State) (p : Nat) : Nat → Nat
  | 0 => 0
  | n + 1 => bnat (s.bit (Reg.topPndStat p) 24) + 2 * notices s (p + 1) n

/-- PND_IRQ_RAW0 and PND_IRQ_RAW1 as they read now. -/
def pndRaw (s : State) (w : Nat) : Word :=
  if w = 0 then BitVec.ofNat 32 (notices s 0 32) else BitVec.ofNat 32 (notices s 32 22)

/-- PND_IRQ_STAT0 and PND_IRQ_STAT1 as they read now. -/
def pndStat (s : State) (w : Nat) : Word := pndRaw s w &&& s.reg (Reg.topPndIrqEn0 + 4 * w)

/-- The level of interrupt source `id` as its block gives it (R47, R48 and the chapters of the blocks). Identities 737 and
738 are edges and have no level. -/
def ownLevel (s : State) (id : Nat) : Bool :=
  if id = 1 then bitOf (statOf s Reg.topIrqRaw) 0
  else if id = 2 then pndStat s 0 != 0 || pndStat s 1 != 0
  else if id = 3 then bitOf (statOf s Reg.topIrqRaw) 1
  else if id = 16 then statOf s Reg.aoIrqRaw != 0
  else if id = 48 then statOf s Reg.secIrqRaw != 0
  else if 64 ≤ id ∧ id < 72 then s.bit (Reg.tsWDisp (id - 64)) 31
  else if id = 72 then statOf s Reg.tsIrqRaw != 0
  else if id = 128 then statOf s Reg.pmuIrqRaw != 0
  else if id = 144 then statOf s Reg.fltIrqRaw != 0
  else if id = 145 then statOf s Reg.tpIrqRaw != 0
  else if id = 160 then statOf s (Reg.mcIrqRaw 0) != 0
  else if id = 176 then statOf s (Reg.mcIrqRaw 1) != 0
  else if id = 192 then statOf s Reg.ppIrqRaw != 0
  else if id = 256 then statOf s Reg.tmIrqRaw != 0
  else if id = 320 then statOf s Reg.genIrqRaw != 0
  else if 384 ≤ id ∧ id < 512 then
    if id % 2 = 0 then statOf s (Reg.spMacIrqRaw ((id - 384) / 2)) != 0
    else statOf s (Reg.spPhyIrqRaw ((id - 384) / 2)) != 0
  else if id = 512 then statOf s (Reg.ulIrqRaw 0) != 0
  else if id = 528 then statOf s (Reg.ulIrqRaw 1) != 0
  else if id = 544 ∨ id = 608 ∨ id = 672 then statOf s (Reg.rdIrqRaw ((id - 544) / 64)) != 0
  else if id = 592 ∨ id = 656 ∨ id = 720 then statOf s (Reg.airIrqRaw ((id - 592) / 64)) != 0
  else if id = 593 then statOf s Reg.staIrqRaw != 0
  else if id = 736 then decide (s.fld Reg.ghGhStat 0 3 = 4) || decide (s.fld Reg.ghGhStat 0 3 = 3)
  else if id = 739 then s.gh.waiting
  else if id = 740 then s.bit Reg.ghGhStat 16
  else if id = 741 then s.bit Reg.ghGhStat 4
  else if 752 ≤ id ∧ id < 759 then bitOf (statOf s Reg.ccCcIrqRaw) (id - 752)
  else if 759 ≤ id ∧ id < 767 then bitOf (statOf s Reg.ccCcIrqRaw) (8 + (id - 759))
  else false

/-- The level of interrupt source `id`: during a replay with CC_MODE = 1 the recorded levels are driven instead (R506). -/
def srcLevel (s : State) (id : Nat) : Bool :=
  match s.tp.play with
  | none => ownLevel s id
  | some r => if s.bit Reg.tpTpCtrl 4 then r.irqs.contains id else ownLevel s id

/-- The lock-keeper's record of a task. -/
def State.task (s : State) (t : Nat) : Task := bankGet (fun _ => {}) s.ts.tasks t

/-- The lock-keeper's record of a task replaced. -/
def State.setTask (s : State) (t : Nat) (x : Task) : State :=
  { s with ts := { s.ts with tasks := bankSet (fun _ => {}) s.ts.tasks t x } }

/-- The state of a task by the code of TASK_VIEW.STATE: 0 OFF, 1 WAIT, 2 READY, 3 RUNNING. -/
def taskState (s : State) (t : Nat) : Nat := s.fld (Reg.tsTaskView t) 0 2

/-- A task moved to a state; TS_STAT.READY counts the tasks in READY, and the time of becoming ready is recorded. -/
def State.setTaskState (s : State) (t st : Nat) : State :=
  let old := taskState s t
  let n := s.fld Reg.tsTsStat 16 13
  let n := if old = 2 ∧ st ≠ 2 then n - 1 else if old ≠ 2 ∧ st = 2 then n + 1 else n
  let s := (s.setFld (Reg.tsTaskView t) 0 2 st).setFld Reg.tsTsStat 16 13 n
  if old ≠ 2 ∧ st = 2 then s.setTask t { s.task t with readyAt := s.dt } else s

/-- The flags of a task that fire it: FLAGS AND MASK. -/
def firing (s : State) (t : Nat) : Word := s.reg (Reg.tsTaskFlags t) &&& (s.task t).c.mask

/-- R414: a task is ready when FLAGS AND MASK is not 0 with ALL = 0, or equals MASK with ALL = 1; never with MASK = 0. -/
def taskReady (s : State) (t : Nat) : Bool :=
  let m := (s.task t).c.mask
  m != 0 && (if bitOf (s.task t).c.cfg 1 then firing s t == m else firing s t != 0)

/-- The moves between WAIT and READY after the flags or the configuration of a task changed (R414). -/
def State.reviewTask (s : State) (t : Nat) : State :=
  if taskState s t = 1 ∧ taskReady s t = true then s.setTaskState t 2
  else if taskState s t = 2 ∧ taskReady s t = false then s.setTaskState t 1
  else s

/-- The flags set in the present cycle, as (task, flag) (R415). -/
def freshFlags (s : State) : List (Nat × Nat) := if s.ts.fresh.1 = s.dt then s.ts.fresh.2 else []

/-- The flags of task `t` set in the present cycle, as a word. -/
def freshMask (s : State) (t : Nat) : Word :=
  ((freshFlags s).filter (fun e => decide (e.1 = t))).foldl (fun w e => putBit w e.2 true) 0

/-- A flag of a task set (R415). -/
def State.setFlag (s : State) (t f : Nat) : State :=
  let s := { s with ts := { s.ts with fresh := (s.dt, (t, f) :: freshFlags s) } }
  (s.setBit (Reg.tsTaskFlags t) f true).reviewTask t

/-- The event-map entries written with EN = 1, as (SRC, TASK, FLAG): only a listed register can differ from its reset,
which is 0. -/
def evtMap (s : State) : List (Nat × Nat × Nat) :=
  (s.regs.filter (fun e => decide (Reg.tsEvtMap 0 ≤ e.1) && decide (e.1 < Reg.tsEvtMap 256) && bitOf e.2 31)).map
    (fun e => (bitsOf e.2 0 10, bitsOf e.2 10 12, bitsOf e.2 22 5))

/-- Whether edges of interrupt sources reach the event map: not while TS is in reset (R492) or off. -/
def tsTakesEdges (s : State) : Bool := !islInReset s 3 && islPowered s 3

/-- R416: every entry whose source was deasserted in `s` and is asserted in `t` sets its flag. -/
def mapEdges (s t : State) : State :=
  if tsTakesEdges t then
    t.each (evtMap t) (fun e u => if srcLevel t e.1 && !srcLevel s e.1 then u.setFlag e.2.1 e.2.2 else u)
  else t

/-- A source has a pending request at the interrupt controller (R47). -/
def plicPend (s : State) (id : Nat) : Bool := bankGet (fun _ => false) s.plic.pend id

/-- A source's request was claimed and is not yet completed: its gateway forwards no other (R47). -/
def plicServed (s : State) (id : Nat) : Bool := bankGet (fun _ => false) s.plic.served id

/-- A source's pending request replaced. -/
def setPlicPend (s : State) (id : Nat) (b : Bool) : State :=
  { s with plic := { s.plic with pend := bankSet (fun _ => false) s.plic.pend id b } }

/-- The level sources that the device has (R48). -/
def irqIds : List Nat :=
  [1, 2, 3, 16, 48] ++ (List.range 9).map (64 + ·) ++ [128, 144, 145, 160, 176, 192, 256, 320] ++ (List.range 128).map (384 + ·) ++
    [512, 528, 544, 592, 593, 608, 656, 672, 720, 736, 739, 740, 741] ++ (List.range 15).map (752 + ·)

/-- The gateways of the interrupt controller (R47): a level source that is asserted, not claimed and not yet pending becomes
pending; not while the control cluster's island is off or in reset. -/
def plicLatch (s : State) : State :=
  if islUp s 2 then
    s.each (irqIds.filter (fun id => !plicPend s id && !plicServed s id && srcLevel s id)) (fun id t => setPlicPend t id true)
  else s

/-- Context `c` has source `id` enabled. -/
def plicEnabled (s : State) (c id : Nat) : Bool := s.bit (Reg.plicEn c (id / 32)) (id % 32)

/-- The sources of context `c` that are pending and enabled, with a priority that is not 0. -/
def plicReady (s : State) (c : Nat) : List Nat :=
  (s.plic.pend.map (·.1)).filter (fun id => plicPend s id && plicEnabled s c id && decide (s.fld (Reg.plicPrio id) 0 3 ≠ 0))

/-- What a claim by context `c` finds: the pending and enabled source of the highest priority, the lowest number among equals; 0
where there is none. -/
def plicTop (s : State) (c : Nat) : Nat :=
  match plicReady s c with
  | [] => 0
  | a :: r => r.foldl (fun m i =>
      let p := s.fld (Reg.plicPrio i) 0 3
      let q := s.fld (Reg.plicPrio m) 0 3
      if q < p ∨ (p = q ∧ i < m) then i else m) a

/-- Context `c` is notified: some pending and enabled source has a priority above its threshold. -/
def plicNotify (s : State) (c : Nat) : Bool :=
  (plicReady s c).any (fun id => decide (s.fld (Reg.plicThresh c) 0 3 < s.fld (Reg.plicPrio id) 0 3))

/-- A claim by context `c`: the source's request is no longer pending, and its gateway waits for the completion. -/
def plicClaim (s : State) (c : Nat) : State :=
  let id := plicTop s c
  if id = 0 then s
  else
    let s := setPlicPend s id false
    { s with plic := { s.plic with served := bankSet (fun _ => false) s.plic.served id true } }

/-- A completion by context `c`, ignored unless the source is enabled for it; a level source still asserted becomes pending again
as the command ends (R47). -/
def plicComplete (s : State) (c id : Nat) : State :=
  if id < 1024 ∧ plicEnabled s c id = true then
    { s with plic := { s.plic with served := bankSet (fun _ => false) s.plic.served id false } }
  else s

/-- The pending bits of 32 sources as the controller shows them. -/
def plicWord (s : State) (k : Nat) : Word :=
  BitVec.ofNat 32 (((List.range 32).map (fun i => 2 ^ i * bnat (plicPend s (32 * k + i)))).foldl (· + ·) 0)

/-- The pulse of an edge source (identities 737 and 738, R47): one pending request at the interrupt controller, into which a pulse
that finds one pending merges, and an edge for the event map. -/
def State.pulse (s : State) (id : Nat) : State :=
  let s := if islUp s 2 then setPlicPend s id true else s
  if tsTakesEdges s then s.each (evtMap s) (fun e u => if e.1 = id then u.setFlag e.2.1 e.2.2 else u) else s

/-- The towpath's IRQ records: one for each interrupt source whose level changed (R498). -/
def recordIrqs (s t : State) : State :=
  if recording t 2 then
    t.each ((List.range 768).filter (fun i => srcLevel s i != srcLevel t i)) (fun i u =>
      tapRecord u 2 5 u.now48 i (bnat (srcLevel t i)) [])
  else t

/-- The state a command leaves: `t`, after the event map, the towpath and the interrupt controller have seen the interrupt
sources that changed since `s`. -/
def finish (s t : State) : State := plicLatch (recordIrqs s (mapEdges s t))

/-- The outcome of every command: a next state. -/
def done (s t : State) : Host.Outcome State Fault Refusal := .next (finish s t)

end Sys2Proof.Machine
end

