-- ==== Sys2Proof/Machine/Pmu.lean ====
section
/-! DEFINITION. The performance counters of chapter 11 (R422 to R427): counting, samples, and the bandwidth meter. -/

namespace Sys2Proof.Machine

/-- A sample written to the ring of 64 entries, or lost where it is full (R425, R426). `pc` is the PC of an instruction
within the sampling skid, for events 1 to 8 only. -/
def pmuSample (s : State) (k init priv : Nat) (pc : Option (BitVec 64)) : State :=
  let h := s.fld Reg.pmuSmpHead 0 6
  let t := s.fld Reg.pmuSmpTail 0 6
  if (h + 1) % 64 = t then (s.inc Reg.pmuSmpLost).raise Reg.pmuIrqRaw 2
  else
    let e := s.fld (Reg.pmuEvt k) 0 8
    let core := 1 ≤ e ∧ e ≤ 8
    let p := match pc with
      | some v => if core then v.toNat else 0
      | none => 0
    let valid := bnat (decide core && pc.isSome)
    let s := s.setNat (Reg.pmuSmp h 0) (p % 2 ^ 32)
    let s := s.setNat (Reg.pmuSmp h 1) (p / 2 ^ 32)
    let s := s.setNat (Reg.pmuSmp h 2) (s.now48 % 2 ^ 32)
    let s := s.setNat (Reg.pmuSmp h 3) (s.now48 / 2 ^ 32)
    let s := s.setNat (Reg.pmuSmp h 4) (k + 16 * init + 256 * (if core then priv % 4 else 0) + 4096 * valid)
    s.setNat Reg.pmuSmpHead ((h + 1) % 64)

/-- Counter `k` moved on by `n` events of initiator `init`; `base` is the value a write in the same cycle left. A wrap
sets PMU_OVF bit `k` and IRQ_RAW.OVF, and takes a sample where SAMPLE_EN is 1 (R424). -/
def pmuAdd (s : State) (k n init priv : Nat) (pc : Option (BitVec 64)) : State :=
  let v := s.pair (Reg.pmuCntLo k) + n
  let s := s.setPair (Reg.pmuCntLo k) v
  if 2 ^ 48 ≤ v then
    let s := (s.orReg Reg.pmuPmuOvf (BitVec.ofNat 32 (2 ^ k))).raise Reg.pmuIrqRaw 0
    if s.bit (Reg.pmuEvt k) 12 then pmuSample s k init priv pc else s
  else s

/-- Counter `k` counts now: EN is 1, an event is chosen, and no freeze holds it (R422, R424). -/
def pmuOn (s : State) (k : Nat) : Bool :=
  s.bit Reg.pmuPmuCtrl 0 && decide (s.fld (Reg.pmuEvt k) 0 8 ≠ 0) &&
    !(s.bit Reg.pmuPmuCtrl 1 && s.reg Reg.pmuPmuOvf != 0)

/-- The privilege filter passes: DMA and host accesses always, a core in the modes whose bit is set (R422). -/
def pmuPriv (s : State) (k init : Nat) : Bool :=
  if init < 8 then
    let m := s.fld (Reg.ccCoreStat init) 2 2
    s.bit (Reg.pmuEvt k) (8 + (if m = 3 then 2 else m))
  else true

/-- An event that the model itself sees: counted by every counter that selects it and whose filters it passes. `acc` is
its access class and address, for an event that carries an access (R422, R423). -/
def pmuEvent (s : State) (code init : Nat) (acc : Option (Nat × Nat)) : State :=
  s.each (List.range 16) (fun k t =>
    let accOk := match acc with
      | none => true
      | some (cl, a) =>
        t.bit (Reg.pmuClass k) cl &&
          (!t.bit (Reg.pmuEvt k) 13 ||
            (decide (t.fld (Reg.pmuAddrBase k) 0 28 ≤ a / 4096) && decide (a / 4096 ≤ t.fld (Reg.pmuAddrLimit k) 0 28)))
    if pmuOn s k && decide (t.fld (Reg.pmuEvt k) 0 8 = code) && t.bit (Reg.pmuInit k) init && pmuPriv t k init && accOk then
      pmuAdd t k 1 init (if init < 8 then t.fld (Reg.ccCoreStat init) 2 2 else 0) none
    else t)

/-- Events of initiator `init` in privilege mode `priv` may be ones that counter `k` counts and the model does not itself see (R422,
R423): those of the cores and caches, and accesses; a core's event only in a mode that the filter lets pass. -/
def pmuOutside (s : State) (k init priv : Nat) : Bool :=
  decide (s.fld (Reg.pmuEvt k) 0 8 ≤ 11) && s.bit (Reg.pmuInit k) init &&
    (decide (8 ≤ init) || s.bit (Reg.pmuEvt k) (8 + (if priv = 3 then 2 else priv)))

/-- PMU_COUNTER_WRAP (R424): `n` events that pass the filters of counter `k` occur, the last from initiator `init` in
privilege mode `priv`. -/
def execPmuCounterWrap (time : Nat) (k : Fin 16) (n : Nat) (init : Init) (priv : Fin 4) (pc : Option (BitVec 64))
    (s : State) : Host.Outcome State Fault Refusal :=
  let t := s.at time
  done s (if pmuOn t k && pmuOutside t k init priv then pmuAdd t k n init priv pc else t)

/-- The length of a bandwidth window in ns; WIN_US of 0 acts as 1 (R427). -/
def bwWinNs (s : State) : Nat := max 1 (s.fld Reg.pmuBwCtrl 0 16) * 1000

/-- `n` bytes accepted by the command collector for DRAM port `q` (R427). -/
def bwCount (s : State) (q n : Nat) (write : Bool) : State :=
  if s.bit Reg.pmuBwCtrl 16 && decide (s.pmu.winStart ≤ s.dt) then
    if write then { s with pmu := { s.pmu with wr := bankSet (fun _ => 0) s.pmu.wr q (bankGet (fun _ => 0) s.pmu.wr q + n) } }
    else { s with pmu := { s.pmu with rd := bankSet (fun _ => 0) s.pmu.rd q (bankGet (fun _ => 0) s.pmu.rd q + n) } }
  else s

/-- At a window's end the totals of every port are taken, and BW_PEAK keeps the largest read-plus-write total (R427). The boundary
is a DT that is a whole multiple of the window. -/
def bwEnd (s : State) : State :=
  let b := s.dt / bwWinNs s * bwWinNs s
  if s.bit Reg.pmuBwCtrl 16 = true ∧ s.pmu.winStart < b then
    let u := s.each (List.range 8) (fun q u =>
      let r := bankGet (fun _ => 0) u.pmu.rd q
      let x := bankGet (fun _ => 0) u.pmu.wr q
      let u := u.setNat (Reg.pmuBwRd q) (r % 2 ^ 32)
      u.setNat (Reg.pmuBwPeak q) (max (u.regN (Reg.pmuBwPeak q)) ((r + x) % 2 ^ 32)))
    { u with pmu := { u.pmu with rd := [], wr := [], wrLast := u.pmu.wr, winStart := b } }
  else s

/-- BW_WINDOW_END (R427). -/
def execBwWindowEnd (time : Nat) (s : State) : Host.Outcome State Fault Refusal := done s (bwEnd (s.at time))

/-- The meter after a write to BW_CTRL: the window in progress is discarded, and the next
starts at the next multiple of the new length (R427). -/
def bwRestart (s : State) : State :=
  let w := bwWinNs s
  { s with pmu := { s.pmu with rd := [], wr := [], winStart := ceilDiv s.dt w * w } }

end Sys2Proof.Machine
end

