-- ==== Sys2Proof/Machine/Bus.lean ====
section
/-! DEFINITION. Register accesses: error responses and their latch (R45), the plain effect of a write by access type
(R6), reads, W1C clears, and the commands on 48-bit counters and clear-on-read registers (R7 to R12, R31). -/

namespace Sys2Proof.Machine

/-- The access class of an access by an initiator (R422): 1 load, 2 store, 4 DMA. -/
def accClass (init : Nat) (write : Bool) : Nat := if init < 8 then (if write then 2 else 1) else 4

/-- An error response latched in BUSERR while VALID is 0, otherwise counted in MORE, which saturates at 255 (R45). -/
def busLatch (s : State) (init a : Nat) (write : Bool) (cause : Nat) : State :=
  if s.bit Reg.topBuserrInfo 31 then
    s.setFld Reg.topBuserrInfo 16 8 (min (s.fld Reg.topBuserrInfo 16 8 + 1) 255)
  else
    ((s.setNat Reg.topBuserrAddrLo (a % 2 ^ 32)).setNat Reg.topBuserrAddrHi (a / 2 ^ 32 % 256)).setNat
      Reg.topBuserrInfo (init + 16 * bnat write + 256 * cause + 2 ^ 31)

/-- The access-fault exception of a core (R45): whether a store met it, and its address. -/
def coreTrap (s : State) (c : Nat) (write : Bool) (a : Nat) : State :=
  { s with cc := { s.cc with traps := bankSet (fun _ => none) s.cc.traps c (some (write, a)) } }

/-- An error response (R45): it is latched, a violation of the secure range sets SECURE_VIOL (R463), and a core takes the
access-fault exception. -/
def busFail (s : State) (init a : Nat) (write : Bool) (cause : Nat) : State :=
  let s := if secureViol s init a then s.raise Reg.secIrqRaw 4 else s
  let s := busLatch s init a write cause
  let s := if init < 8 then coreTrap s init write a else s
  (pmuEvent s 11 init (some (accClass init write, a))).answer (.error cause)

/-- A core's access to its window of the lock-keeper passes PD52 as a task command (R33, R421). -/
def taskWire (s : State) (a : Nat) : State :=
  if Reg.tsWStgIdx 0 - 0x10 ≤ a ∧ a < Reg.tsWStgIdx 0 - 0x10 + 0x200 then transit s 52 1 1 else s

/-- The regions whose writes the towpath records: PP, TM, GEN with STA, and TS (R498). -/
def recordedRegion (a : Nat) : Bool :=
  (decide (0x40040000 ≤ a) && decide (a < 0x40050000)) || (decide (0x40100000 ≤ a) && decide (a < 0x40300000))

/-- The REGWR record of a write to a recorded region (R498). -/
def recordWrite (s : State) (init a : Nat) (d : Word) : State :=
  if recordedRegion a then tapRecord s 2 4 s.now48 init d.toNat (leBytes 8 a) else s

/-- An access carried out where no check refuses it, with the answer OK unless its effect gives another: a read with
`acc` none, a write of data with `acc` some. A debugger below the level that the access needs makes none (R468), and
nobody does while a chip reset holds the device (R516). -/
def busDo (s : State) (init a size : Nat) (acc : Option Word) (f : State → State) : State :=
  if !s.ao.held && debugMay s init acc.isSome then
    match busCause s init a size acc.isSome with
    | some c => busFail s init a acc.isSome c
    | none =>
      f (match acc with
        | none => s.answer .ok
        | some d => taskWire (recordWrite (s.answer .ok) init a d) a)
  else s.answer .none

/-- A read with a side effect: the debug module's read answers the value and has none (R469). -/
def busRead (s : State) (init a : Nat) (value : Word) (effect : State → State) : State :=
  busDo s init a 4 none (fun t => (if init = 10 then t else effect t).answer (.data value))

/-- BUSERR_INFO.VALID cleared, and MORE with it (R45, BUSERR_INFO fields). -/
def clearBuserr (s : State) : State := (s.setBit Reg.topBuserrInfo 31 false).setFld Reg.topBuserrInfo 16 8 0

/-- The notices of pounds `p` to `p + n - 1` cleared where the word has a 1, and set where hardware sets them. -/
def clearNotices (s : State) (d hw : Word) (p : Nat) (n : Nat) : State :=
  s.each (List.range n) (fun i t =>
    if bitOf hw i then t.setBit (Reg.topPndStat (p + i)) 24 true
    else if bitOf d i then t.setBit (Reg.topPndStat (p + i)) 24 false else t)

/-- A write to a W1C register: the bits written as 1 are cleared, but a bit that hardware sets in the same cycle stays
set (R31). The flags behind TOP.IRQ_STAT.BUSERR and PND_IRQ_STAT are cleared through them. -/
def w1cWrite (s : State) (a : Nat) (d hw : Word) : State :=
  if a = Reg.topIrqStat then
    let s := if bitOf d 0 && !bitOf hw 0 then clearBuserr s else s
    clearStat s Reg.topIrqRaw d (hw &&& ~~~1)
  else if a = Reg.topPndIrqStat0 then clearNotices s d hw 0 32
  else if a = Reg.topPndIrqStat1 then clearNotices s d hw 32 22
  else if a = Reg.topBuserrInfo then if bitOf d 31 && !bitOf hw 31 then clearBuserr s else s
  else
    match regRow a with
    | none => s
    | some r =>
      match r.kind with
      | .stat => clearStat s (a - 8) d hw
      | _ =>
        let m := BitVec.ofNat 32 r.w1c
        let v := (s.reg a &&& ~~~(d &&& m)) ||| (hw &&& m)
        let s := s.setReg a v
        if (a = Reg.mcErrInfo 0 ∨ a = Reg.mcErrInfo 1) ∧ bitOf v 31 = false then s.setFld a 16 8 0 else s

/-- The LO halves of the pairs that show a time, an index or a place rather than count events: no event moves them (R94,
R224). -/
def noCount (a : Nat) : Bool :=
  decide (a = Reg.aoRtcLo) || (decide (Reg.aoResLo 0 ≤ a) && decide (a < Reg.aoResLo 5)) || decide (a = Reg.genRoundIdxLo) ||
    decide (a = Reg.genNextBdyLo) || decide (a = Reg.genLastSwapLo) || decide (a = Reg.genArmTgtLo) ||
    (decide (Reg.airAsrAnchLo 0 0 ≤ a) && decide (a < 0x40300000))

/-- A 48-bit counter moved on by the events of one cycle (R9, R11): a PMU counter judges its overflow (R424), and the counters
of the selected flow queue are the queue's own (R179). -/
def counterAdd (s : State) (a inc : Nat) : State :=
  if noCount a then s
  else if Reg.pmuCntLo 0 ≤ a ∧ a < Reg.pmuCntLo 16 ∧ (a - Reg.pmuCntLo 0) % 32 = 0 then
    if inc = 0 then s else pmuAdd s ((a - Reg.pmuCntLo 0) / 32) inc 0 0 none
  else
    let q := s.fld Reg.tmFqSel 0 15
    let add := fun (b : Bank Nat) => bankSet (fun _ => 0) b q ((bankGet (fun _ => 0) b q + inc) % 2 ^ 48)
    let s :=
      if a = Reg.tmFqEnqLo then { s with tm := { s.tm with fqEnq := add s.tm.fqEnq } }
      else if a = Reg.tmFqDropLo then { s with tm := { s.tm with fqDrop := add s.tm.fqDrop } } else s
    s.addPair a inc

/-- All 48 bits of a counter written from the LO data and the holding register, which is then reset to 0; increments of
the same cycle are applied to the written value (R11). -/
def loWrite (s : State) (a : Nat) (d : Word) (inc : Nat) : State :=
  counterAdd ((s.setPair a (d.toNat + 2 ^ 32 * (s.holdOf a).toNat)).setHold a 0) a inc

/-- The plain effect of a write to a register of the register map, by its access type (R5, R6). -/
def plainWrite (s : State) (a : Nat) (d : Word) : State :=
  match regRow a with
  | none => s
  | some r =>
    match r.kind with
    | .reg => if r.w1c = 0 then s.setReg a (mergeMask (s.reg a) d r.rw)
        else (w1cWrite s a d 0).setReg a (mergeMask ((w1cWrite s a d 0).reg a) d r.rw)
    | .stat => w1cWrite s a d 0
    | .pstat => w1cWrite s a d 0
    | .lo => loWrite s a d 0
    | .hi => s.setHold (a - 4) (BitVec.ofNat 16 d.toNat)
    | .rc => s
    | .wo => s
    | .loRo => s
    | .hiRo => s

/-- COUNTER_HI_WRITE (R11): the holding register is loaded. A counter that is read-only takes no write (R6). -/
def execCounterHiWrite (time : Nat) (init : Init) (addr : Nat) (data : Word) (s : State) :
    Host.Outcome State Fault Refusal :=
  let t := s.at time
  done s (busDo t init addr 4 (some data) (fun t =>
    match regRow addr with
    | none => t
    | some r => if r.kind = .hi then t.setHold (addr - 4) (BitVec.ofNat 16 data.toNat) else t))

/-- COUNTER_LO_WRITE (R11). -/
def execCounterLoWrite (time : Nat) (init : Init) (addr : Nat) (data : Word) (inc : Nat) (s : State) :
    Host.Outcome State Fault Refusal :=
  let t := s.at time
  done s (busDo t init addr 4 (some data) (fun t =>
    match regRow addr with
    | none => t
    | some r => if r.kind = .lo then loWrite t addr data inc else t))

/-- BW_RD_READ (R427): the read returns the bytes read and latches the bytes written of the same window; in the cycle of a window's end
that of the window just ended. -/
def execBwRdRead (time : Nat) (init : Init) (q : Fin 8) (s : State) : Host.Outcome State Fault Refusal :=
  let t := bwEnd (s.at time)
  done s (busRead t init (Reg.pmuBwRd q) (t.reg (Reg.pmuBwRd q)) (fun t =>
    t.setNat (Reg.pmuBwWr q) (bankGet (fun _ => 0) t.pmu.wrLast q % 2 ^ 32)))

/-- A write to BW_CTRL: the window in progress is discarded (R427). -/
def bwCtrlWrite (s : State) (d : Word) : State := bwRestart (plainWrite s Reg.pmuBwCtrl d)

/-- BW_WIN_WRITE (R427). -/
def execBwWinWrite (time : Nat) (init : Init) (data : Word) (s : State) : Host.Outcome State Fault Refusal :=
  let t := s.at time
  done s (busDo t init Reg.pmuBwCtrl 4 (some data) (fun t => bwCtrlWrite t data))

end Sys2Proof.Machine
end

