-- ==== Sys2Proof/Machine/Pounds.lean ====
section
/-! DEFINITION. The commands on pounds: a word written (R21), and the mark of a pound (R30). -/

namespace Sys2Proof.Machine

/-- POUND_WORD_WRITE (R21): the word enters a pound with room; a word that does not fit the packet in progress, or finds
no room, is not written. -/
def execPoundWordWrite (time : Nat) (p : Fin 54) (w : PWord) (s : State) : Host.Outcome State Fault Refusal :=
  let t := s.at time
  done s (if poundRoom t p && (w.first == !(t.pound p).midW) then poundPush t p w else t)

/-- The effect of a write to PND_CFG.MARK (R30). -/
def markWrite (s : State) (p : Nat) (d : Word) : State :=
  let s := s.setReg (Reg.topPndCfg p) (mergeMask (s.reg (Reg.topPndCfg p)) d 0x3FF)
  let mark := s.fld (Reg.topPndCfg p) 0 10
  s.setFld (Reg.topPndStat p) 16 1 (bnat (wmLive mark (poundDepth s p) (s.pound p).level))

/-- PND_MARK_WRITE (R30). -/
def execPndMarkWrite (time : Nat) (init : Init) (p : Fin 54) (data : Word) (s : State) :
    Host.Outcome State Fault Refusal :=
  let t := s.at time
  done s (busDo t init (Reg.topPndCfg p) 4 (some data) (fun t => markWrite t p data))

end Sys2Proof.Machine
end

