-- ==== Sys2Proof/Machine/FaultLog.lean ====
section
/-! DEFINITION. The fault unit (R482 to R486): raising a fault of a class and its log entry. -/

namespace Sys2Proof.Machine

/-- Actions of a log entry (LOG_W0.ACTION). -/
inductive FltAction | none | reset | retry | fallback | refetch | escalated
deriving DecidableEq, Repr

/-- The code of an action. -/
def fltActionCode : FltAction → Nat
  | .none => 0
  | .reset => 1
  | .retry => 2
  | .fallback => 3
  | .refetch => 4
  | .escalated => 5

/-- The place of a log entry's class and source in the order of one cycle (R485). -/
def logKey (w : Word) : Nat := bitsOf w 0 4 * 4096 + bitsOf w 4 12

/-- Where an entry of the present cycle goes in the log ring: before those of the same DT with a higher class or source, at most
`n` entries back from `h` (R485). -/
def logPlace (s : State) (key : Nat) : Nat → Nat → Nat
  | 0, h => h
  | n + 1, h =>
    let p := (h + 63) % 64
    if h ≠ s.fld Reg.fltLogTail 0 6 ∧ s.pair (Reg.fltLogDtLo p) = s.now48 ∧ key < logKey (s.reg (Reg.fltLogW0 p)) then
      logPlace s key n p
    else h

/-- A log entry copied to the next place of the ring. -/
def logShift (s : State) (p : Nat) : State :=
  let q := (p + 1) % 64
  (((s.setReg (Reg.fltLogW0 q) (s.reg (Reg.fltLogW0 p))).setReg (Reg.fltLogDtLo q) (s.reg (Reg.fltLogDtLo p))).setReg
    (Reg.fltLogDtHi q) (s.reg (Reg.fltLogDtHi p))).setReg (Reg.fltLogInfo q) (s.reg (Reg.fltLogInfo p))

/-- A log entry written at place `p` of the ring. -/
def logWrite (s : State) (p : Nat) (w0 info : Nat) : State :=
  let s := s.setNat (Reg.fltLogW0 p) w0
  let s := s.setNat (Reg.fltLogDtLo p) (s.now48 % 2 ^ 32)
  let s := s.setNat (Reg.fltLogDtHi p) (s.now48 / 2 ^ 32)
  s.setNat (Reg.fltLogInfo p) info

/-- A log entry takes its place among those of the present cycle; on a full ring the last entry of the cycle is lost (R485). -/
def logInsert (s : State) (w0 info : Nat) : State :=
  let h := s.fld Reg.fltLogHead 0 6
  let full := decide ((h + 1) % 64 = s.fld Reg.fltLogTail 0 6)
  let p := logPlace s (logKey (BitVec.ofNat 32 w0)) 63 h
  let n := (h + 64 - p) % 64
  let s := s.each ((List.range n).drop (bnat full)) (fun j t => logShift t ((h + 127 - j) % 64))
  let s := if full && decide (n = 0) then s else logWrite s p w0 info
  if full then (s.inc Reg.fltLogLost).raise Reg.fltIrqRaw 2 else s.setNat Reg.fltLogHead ((h + 1) % 64)

/-- A fault raised (R484, R485): its class's bit, its count, and a log entry with class, source, action, DT and detail;
on a full ring an entry is lost. -/
def raiseFault (s : State) (cls src : Nat) (act : FltAction) (info : Nat) : State :=
  let s := (s.orReg Reg.fltFltStat (BitVec.ofNat 32 (2 ^ cls))).inc (Reg.fltFltCnt cls)
  logInsert (s.raise Reg.fltIrqRaw 0) (cls + 16 * (src % 4096) + 65536 * fltActionCode act) info

end Sys2Proof.Machine
end

