-- ==== Sys2Proof/Machine/Tasks.lean ====
section
/-! DEFINITION. The lock-keeper and the cores (R404 to R409, R414 to R421): staged commands, flags, dispatch, DONE, the
return of a lost core's task, core resets and watchdogs. -/

namespace Sys2Proof.Machine

/-- The task each core holds (R417). -/
def holdOfCore (s : State) (c : Nat) : Option Nat := bankGet (fun _ => none) s.ts.holds c

/-- The task a core holds replaced. -/
def setHoldOfCore (s : State) (c : Nat) (t : Option Nat) : State :=
  { s with ts := { s.ts with holds := bankSet (fun _ => none) s.ts.holds c t } }

/-- The tasks in state `st`: only a listed TASK_VIEW can differ from OFF. -/
def tasksIn (s : State) (st : Nat) : List Nat :=
  (s.regs.filter (fun e => decide (Reg.tsTaskView 0 ≤ e.1) && decide (e.1 < Reg.tsTaskView 4096) &&
    decide (bitsOf e.2 0 2 = st))).map (fun e => (e.1 - Reg.tsTaskView 0) / 4)

/-- The configuration staged in window `w`. -/
def stagedCfg (s : State) (w : Nat) : TaskCfg :=
  { mask := s.reg (Reg.tsWStgMask w), cfg := s.reg (Reg.tsWStgCfg w),
    dl := s.regN (Reg.tsWStgDlLo w) + 2 ^ 32 * s.regN (Reg.tsWStgDlHi w),
    tmr := s.regN (Reg.tsWStgTmrLo w) + 2 ^ 32 * s.regN (Reg.tsWStgTmrHi w) }

/-- A staged WRITE applied to a task by the rows of R414: held while it runs, OFF with EN = 0, WAIT from OFF, and WAIT or
READY otherwise. -/
def applyCfg (s : State) (t : Nat) (c : TaskCfg) : State :=
  let st := taskState s t
  let en := bitOf c.cfg 0
  if st = 3 then s.setTask t { s.task t with held := some c }
  else
    let s := s.setTask t { s.task t with c := c, held := none }
    if en = false then s.setTaskState t 0
    else if st = 0 then s.setTaskState t 1
    else s.reviewTask t

/-- A staged command ends with a RESULT and BUSY = 0; it completes within 100 ns, and here at once. -/
def stgResult (s : State) (w r : Nat) : State := s.setFlds (Reg.tsWStgStat w) [(0, 1, 0), (4, 3, r)]

/-- The effect of STG_CMD with OP 1. -/
def stagedWrite (s : State) (w : Nat) : State :=
  let c := stagedCfg s w
  if bitOf c.cfg 0 = true ∧ bitsOf c.cfg 16 8 = 0 then stgResult s w 1
  else stgResult (applyCfg s (s.fld (Reg.tsWStgIdx w) 0 12) c) w 0

/-- The effect of STG_CMD with OP 2: the task's configuration copied into the staging registers. -/
def stagedRead (s : State) (w : Nat) : State :=
  let c := (s.task (s.fld (Reg.tsWStgIdx w) 0 12)).c
  let s := (s.setReg (Reg.tsWStgMask w) c.mask).setReg (Reg.tsWStgCfg w) c.cfg
  let s := (s.setNat (Reg.tsWStgDlLo w) (c.dl % 2 ^ 32)).setNat (Reg.tsWStgDlHi w) (c.dl / 2 ^ 32)
  let s := (s.setNat (Reg.tsWStgTmrLo w) (c.tmr % 2 ^ 32)).setNat (Reg.tsWStgTmrHi w) (c.tmr / 2 ^ 32)
  stgResult s w 0

/-- The effect of STG_CMD with OP 3: the STG_ARG flags of the task cleared; one set in the same cycle stays set (R415). -/
def stagedClear (s : State) (w : Nat) : State :=
  let t := s.fld (Reg.tsWStgIdx w) 0 12
  stgResult ((s.clrReg (Reg.tsTaskFlags t) (s.reg (Reg.tsWStgArg w) &&& ~~~(freshMask s t))).reviewTask t) w 0

/-- TASK_WRITE (R414). -/
def execTaskWrite (time : Nat) (w : Fin 9) (s : State) : Host.Outcome State Fault Refusal :=
  let t := s.at time
  done s (busDo t w (Reg.tsWStgCmd w) 4 (some 1) (fun t => stagedWrite t w))

/-- TASK_READ (R414). -/
def execTaskRead (time : Nat) (w : Fin 9) (s : State) : Host.Outcome State Fault Refusal :=
  let t := s.at time
  done s (busDo t w (Reg.tsWStgCmd w) 4 (some 2) (fun t => stagedRead t w))

/-- TASK_CLEAR (R415). -/
def execTaskClear (time : Nat) (w : Fin 9) (s : State) : Host.Outcome State Fault Refusal :=
  let t := s.at time
  done s (busDo t w (Reg.tsWStgCmd w) 4 (some 3) (fun t => stagedClear t w))

/-- The effect of a FLAG_SET word: one flag of one task (R415). -/
def flagSetWord (s : State) (d : Word) : State := s.setFlag (bitsOf d 0 12) (bitsOf d 16 5)

/-- FLAG_SET (R415). -/
def execFlagSet (time : Nat) (w : Fin 9) (data : Word) (s : State) : Host.Outcome State Fault Refusal :=
  let t := s.at time
  done s (busDo t w (Reg.tsWFlagSet w) 4 (some data) (fun t => flagSetWord t data))

/-- TASK_TIMER_EXPIRE (R415): DT has reached TMR of a task whose timer is on. -/
def execTaskTimerExpire (time : Nat) (k : Fin 4096) (s : State) : Host.Outcome State Fault Refusal :=
  let t := s.at time
  let x := t.task k
  done s (if islUp t 3 && bitOf x.c.cfg 25 && decide (0 ≤ dt48diff t.now48 x.c.tmr) then
      tapRecord ((t.setTask k { x with c := { x.c with cfg := putBit x.c.cfg 25 false } }).setFlag k 31) 2 3 t.now48 k 0 []
    else t)

/-- Core `c` takes dispatches: enabled in CORE_EN and not LOST (R417). -/
def coreTakes (s : State) (c : Nat) : Bool := s.bit Reg.tsCoreEn c && !s.bit (Reg.ccCoreStat c) 4

/-- No task of the flow of `t` is running, or `t` has no flow (R417). -/
def flowFree (s : State) (t : Nat) : Bool :=
  let c := (s.task t).c.cfg
  !bitOf c 2 || !((tasksIn s 3).any (fun u =>
    bitOf (s.task u).c.cfg 2 && decide (bitsOf (s.task u).c.cfg 4 10 = bitsOf c 4 10)))

/-- The flags that a dispatch hands over: FLAGS AND MASK without those set in the present cycle (R414, R415). -/
def handed (s : State) (t : Nat) : Word := firing s t &&& ~~~(freshMask s t)

/-- A task is ready by the flags it had before the present cycle (R415). -/
def readyBefore (s : State) (t : Nat) : Bool :=
  let m := (s.task t).c.mask
  m != 0 && (if bitOf (s.task t).c.cfg 1 then handed s t == m else handed s t != 0)

/-- R417: the candidates for DISP[c]. -/
def candidates (s : State) (c : Nat) : List Nat :=
  (tasksIn s 2).filter (fun t =>
    readyBefore s t && bitOf (s.task t).c.cfg (16 + c) && flowFree s t &&
      (!s.bit Reg.tsTsStat 0 || !s.bit (Reg.tsTaskView t) 7 || decide (s.fld (Reg.tsTaskView t) 4 3 = c) ||
        !coreTakes s (s.fld (Reg.tsTaskView t) 4 3)))

/-- The order of candidates: earliest deadline, tasks without one last, then earliest ready time, then lowest number. -/
def before (s : State) (a b : Nat) : Bool :=
  let na := bnat (bitOf (s.task a).c.cfg 24)
  let nb := bnat (bitOf (s.task b).c.cfg 24)
  let da := if na = 1 then 0 else dt48diff (s.task a).c.dl s.now48
  let db := if nb = 1 then 0 else dt48diff (s.task b).c.dl s.now48
  if na ≠ nb then decide (na < nb)
  else if da ≠ db then decide (da < db)
  else if (s.task a).readyAt ≠ (s.task b).readyAt then decide ((s.task a).readyAt < (s.task b).readyAt)
  else decide (a < b)

/-- The first of a list of tasks in that order. -/
def firstTask (s : State) : List Nat → Option Nat
  | [] => none
  | a :: r =>
    match firstTask s r with
    | none => some a
    | some b => if before s a b then some a else some b

/-- A task placed in DISP[c] (R414): FIRED handed over, those flags cleared, AFF set, RESTARTED cleared. -/
def placeTask (s : State) (c t : Nat) : State :=
  let f := handed s t
  let s := s.setTaskState t 3
  let s := (s.setReg (Reg.tsWFired c) f).clrReg (Reg.tsTaskFlags t) f
  let s := s.setFlds (Reg.tsTaskView t) [(4, 3, c), (7, 1, 1), (8, 1, 0)]
  let s := (s.setNat (Reg.tsWDisp c) (t + 2 ^ 31)).addPair Reg.tsDispLo 1
  let s := setHoldOfCore s c (some t)
  let s := pmuEvent (transit { s with ts := { s.ts with lastCore := c } } 53 1 1) 12 c none
  tapRecord s 2 7 s.now48 t f.toNat (leBytes 4 c)

/-- Since when core `c` has been free (R417). -/
def freeAt (s : State) (c : Nat) : Nat := bankGet (fun _ => 0) s.ts.freeAt c

/-- Core `c` is free from now on. -/
def setFreeAt (s : State) (c : Nat) : State :=
  { s with ts := { s.ts with freeAt := bankSet (fun _ => 0) s.ts.freeAt c s.dt } }

/-- The effect of a write to CORE_EN: a core that it enables is free from then on. -/
def coreEnSet (s : State) (d : Word) : State :=
  let t := plainWrite s Reg.tsCoreEn d
  t.each (List.range 8) (fun c u => if !s.bit Reg.tsCoreEn c && t.bit Reg.tsCoreEn c then setFreeAt u c else u)

/-- Core `c` may be given a task: enabled, not LOST, and holding none (R417). -/
def coreFree (s : State) (c : Nat) : Bool := coreTakes s c && (holdOfCore s c).isNone

/-- Core `c`'s turn among the cores that became free in one cycle (R417): in core order from the one after the core served last. -/
def coreTurn (s : State) (c : Nat) : Bool :=
  let pos := fun (k : Nat) => (k + 7 - s.ts.lastCore) % 8
  (List.range 8).all (fun d =>
    !(coreFree s d && decide (freeAt s d = freeAt s c) && decide (pos d < pos c) && !(candidates s d).isEmpty))

/-- TASK_DISPATCH (R417): a free, enabled core that is not LOST gets the first candidate, in its turn; in P3 the cores are off, and
the candidate wakes the device first (R476). -/
def execTaskDispatch (time : Nat) (c : Fin 8) (s : State) : Host.Outcome State Fault Refusal :=
  let t := s.at time
  done s (if islUp t 3 && coreFree t c && coreTurn t c && decide (t.fld Reg.aoPmStat 0 3 ≠ 3) then
      match firstTask t (candidates t c) with
      | none => t
      | some k => placeTask t c k
    else t)

/-- DISP_READ (R421): the core takes its dispatch, which empties the slot but does not end the holding. -/
def execDispRead (time : Nat) (init : Init) (c : Fin 8) (s : State) : Host.Outcome State Fault Refusal :=
  let t := s.at time
  done s (busRead t init (Reg.tsWDisp c) (t.reg (Reg.tsWDisp c)) (fun t => t.setReg (Reg.tsWDisp c) 0))

/-- A DONE taken by the lock-keeper (R414): the flow is released and LATE cleared; with DISABLE the task goes OFF,
otherwise a held WRITE is applied and the task goes to WAIT, or READY if ready. Ignored while the core holds none (R421). -/
def doneTask (s : State) (c : Nat) (disable : Bool) : State :=
  match holdOfCore s c with
  | none => s
  | some t =>
    let s := (setFreeAt (setHoldOfCore s c none) c).setBit (Reg.tsTaskView t) 9 false
    let x := s.task t
    let s := match x.held with
      | none => s
      | some h => s.setTask t { x with c := h, held := none }
    if disable then s.setTaskState t 0
    else if x.held.isSome && !bitOf (s.task t).c.cfg 0 then s.setTaskState t 0
    else (s.setTaskState t 1).reviewTask t

/-- The DONE words of a core that the completion collector has not accepted, oldest first. -/
def doneOf (s : State) (c : Nat) : List Word := bankGet (fun _ => []) s.ts.doneWait c

/-- Those words replaced. -/
def setDoneOf (s : State) (c : Nat) (l : List Word) : State :=
  { s with ts := { s.ts with doneWait := bankSet (fun _ => []) s.ts.doneWait c l } }

/-- The completion collector accepts a DONE word that waits, in its rotation over the eight cores (R34). -/
def completionAccept (s : State) : State :=
  match rotPick 8 s.ts.rot (fun c => !(doneOf s c).isEmpty) with
  | none => s
  | some c =>
    match doneOf s c with
    | [] => s
    | w :: r =>
      let s := setDoneOf s c r
      doneTask { s with ts := { s.ts with rot := c } } c (bitOf w 1)

/-- A write to DONE[c] with DONE = 1: the word waits in its slot of the completion collector, or behind one there (R34, R36,
R421). -/
def doneWrite (s : State) (c : Nat) (d : Word) : State := if bitOf d 0 then setDoneOf s c (doneOf s c ++ [d]) else s

/-- The collector's rotation up to core `c`'s last DONE word. -/
def acceptUpTo (c : Nat) : Nat → State → State
  | 0, s => s
  | n + 1, s => if (doneOf s c).isEmpty then s else acceptUpTo c n (completionAccept s)

/-- Core `c` writes DONE, and the completion collector accepts it in its rotation behind what waits (R34, R414). -/
def doneNow (s : State) (c : Nat) (d : Word) : State :=
  let s := doneWrite s c d
  acceptUpTo c (((List.range 8).map (fun k => (doneOf s k).length)).sum) s

/-- TASK_DONE (R414): core `c` writes DONE with DISABLE = 0 and the completion collector accepts it. -/
def execTaskDone (time : Nat) (c : Fin 8) (s : State) : Host.Outcome State Fault Refusal :=
  let t := s.at time
  done s (busDo t c (Reg.tsWDone c) 4 (some 1) (fun t => doneNow t c 1))

/-- TASK_DONE_DISABLE (R414): as TASK_DONE with DISABLE = 1. -/
def execTaskDoneDisable (time : Nat) (c : Fin 8) (s : State) : Host.Outcome State Fault Refusal :=
  let t := s.at time
  done s (busDo t c (Reg.tsWDone c) 4 (some 3) (fun t => doneNow t c 3))

/-- R419: the lock-keeper acts on the commands the core had written, then returns the task it held. -/
def returnTask (s : State) (c : Nat) : State :=
  let s := (doneOf s c).foldl (fun t w => doneTask t c (bitOf w 1)) (setDoneOf s c [])
  match holdOfCore s c with
  | none => s
  | some t =>
    let s := setFreeAt (setHoldOfCore s c none) c
    let s := s.orReg (Reg.tsTaskFlags t) (s.reg (Reg.tsWFired c))
    let s := s.setBit (Reg.tsTaskView t) 8 true
    let s := (s.setTaskState t 1).reviewTask t
    let s := s.setReg (Reg.tsWDisp c) 0
    (s.inc Reg.tsRestartCnt).raise Reg.tsIrqRaw 1

/-- DEADLINE_MISS (R420): DT has passed the deadline of a READY or RUNNING task, once per activation. -/
def execDeadlineMiss (time : Nat) (k : Fin 4096) (s : State) : Host.Outcome State Fault Refusal :=
  let t := s.at time
  let st := taskState t k
  let x := t.task k
  done s (if islUp t 3 = true ∧ (st = 2 ∨ st = 3) ∧ bitOf x.c.cfg 24 = false ∧ t.bit (Reg.tsTaskView k) 9 = false ∧
      0 < dt48diff t.now48 x.c.dl then
      let u := (t.setBit (Reg.tsTaskView k) 9 true).inc Reg.tsDlMiss
      let u := (u.setNat Reg.tsMissTask k).raise Reg.tsIrqRaw 0
      tapRecord (pmuEvent u 13 (u.fld (Reg.tsTaskView k) 4 3) none) 2 3 t.now48 k 1 []
    else t)

/-- TS_STAT.AFFINITY and RECOVERY as R418 gives them. -/
def reviewAffinity (s : State) : State :=
  let rec_ := decide (s.dt < s.ts.recovEnd)
  s.setFlds Reg.tsTsStat [(0, 1, bnat (s.bit Reg.tsTsCtrl 0 || rec_)), (1, 1, bnat rec_)]

/-- RECOVERY_END (R418): RECOV_US after the last core loss, affinity ends unless MODE = 1. -/
def execRecoveryEnd (time : Nat) (s : State) : Host.Outcome State Fault Refusal :=
  let t := s.at time
  done s (if t.bit Reg.tsTsStat 1 = true ∧ t.ts.recovEnd ≤ t.dt then reviewAffinity t else t)

/-- A core held in reset: CORE_STAT shows IN_RESET and machine mode (R407). -/
def coreDown (s : State) (c : Nat) (lost : Bool) : State :=
  s.setFlds (Reg.ccCoreStat c) ([(0, 1, 1), (1, 1, 0), (2, 2, 3)] ++ if lost then [(4, 1, 1)] else [])

/-- A write of RST_HOLD to CORE_CTRL[c]: 1 writes back the core's dirty lines, resets it and returns its task; 0 releases
it at CORE_BOOT and clears LOST (R407, R409, R419). -/
def coreCtrlWrite (s : State) (c : Nat) (d : Word) : State :=
  let s := s.setReg (Reg.ccCoreCtrl c) (mergeMask (s.reg (Reg.ccCoreCtrl c)) d 3)
  if bitOf d 0 then returnTask (coreDown s c false) c
  else setFreeAt (s.setFlds (Reg.ccCoreStat c) [(0, 1, 0), (4, 1, 0)]) c

/-- CORE_RELEASE (R407). -/
def execCoreRelease (time : Nat) (init : Init) (c : Fin 8) (s : State) : Host.Outcome State Fault Refusal :=
  let t := s.at time
  done s (busDo t init (Reg.ccCoreCtrl c) 4 (some 0) (fun t => coreCtrlWrite t c (putBit (t.reg (Reg.ccCoreCtrl c)) 0 false)))

/-- CORE_RESET (R407). -/
def execCoreReset (time : Nat) (init : Init) (c : Fin 8) (s : State) : Host.Outcome State Fault Refusal :=
  let t := s.at time
  done s (busDo t init (Reg.ccCoreCtrl c) 4 (some 1) (fun t => coreCtrlWrite t c (putBit (t.reg (Reg.ccCoreCtrl c)) 0 true)))

/-- The 64-bit timer compare of core `c`. -/
def mtimecmp (s : State) (c : Nat) : Nat := s.regN (Reg.ccMtimecmpLo c) + 2 ^ 32 * s.regN (Reg.ccMtimecmpHi c)

/-- The machine timer interrupt of core `c` is taken while MTIME ≥ MTIMECMP[c], over 64 bits (R408). -/
def timerIrq (s : State) (c : Nat) : Bool := decide (mtimecmp s c ≤ s.dt)

/-- MTIMER_EXPIRE (R408): MTIME has reached MTIMECMP[c]; a core that waits for an interrupt waits no longer. -/
def execMtimerExpire (time : Nat) (c : Fin 8) (s : State) : Host.Outcome State Fault Refusal :=
  let t := s.at time
  done s (if timerIrq t c then t.setBit (Reg.ccCoreStat c) 1 false else t)

/-- The instant core `c`'s watchdog was last restarted. -/
def coreWdogAt (s : State) (c : Nat) : Option Nat := bankGet (fun _ => none) s.cc.wdog c

/-- The instant of the last restart replaced. -/
def setCoreWdogAt (s : State) (c : Nat) (v : Option Nat) : State :=
  { s with cc := { s.cc with wdog := bankSet (fun _ => none) s.cc.wdog c v } }

/-- A write to CORE_WDOG[c] restarts the count (R409). -/
def coreWdogSet (s : State) (c : Nat) (d : Word) : State :=
  let s := plainWrite s (Reg.ccCoreWdog c) d
  setCoreWdogAt s c (some s.dt)

/-- CORE_WDOG_WRITE (R409). -/
def execCoreWdogWrite (time : Nat) (init : Init) (c : Fin 8) (data : Word) (s : State) :
    Host.Outcome State Fault Refusal :=
  let t := s.at time
  done s (busDo t init (Reg.ccCoreWdog c) 4 (some data) (fun t => coreWdogSet t c data))

/-- A core declared lost (R409, R418, R419, R493): held in reset, LOST set, its task returned, affinity in force for
RECOV_US, and CORE_LOSS raised with the task it held. -/
def loseCore (s : State) (c : Nat) (l1Lost : Bool) : State :=
  let h := holdOfCore s c
  let s := returnTask (coreDown s c true) c
  let s := reviewAffinity { s with ts := { s.ts with recovEnd := s.dt + s.fld Reg.tsRecovUs 0 16 * 1000 } }
  let info := match h with
    | none => 0
    | some t => t + 2 ^ 31
  raiseFault s 0 c .reset (info + 2 ^ 30 * bnat l1Lost)

/-- CORE_WDOG_EXPIRE (R409): the count of a watchdog that is on has expired. -/
def execCoreWdogExpire (time : Nat) (c : Fin 8) (l1Lost : Bool) (s : State) : Host.Outcome State Fault Refusal :=
  let t := s.at time
  let us := t.fld (Reg.ccCoreWdog c) 0 24
  done s (match coreWdogAt t c with
    | none => t
    | some a =>
      if us = 0 ∨ t.dt < a + us * 1000 then t
      else
        let u := (setCoreWdogAt t c none).raise Reg.ccCcIrqRaw (8 + c)
        if u.bit (Reg.ccCoreCtrl c) 1 then loseCore u c l1Lost else u)

/-- A write to L2_CFG (R406): ways given back to the cache lose their SRAM contents. -/
def l2CfgSet (s : State) (d : Word) : State :=
  let s := plainWrite s Reg.ccL2Cfg d
  { s with l2 := bankKeep (fun a => decide (a < l2Size s)) s.l2 }

/-- L2_CFG_WRITE (R406). -/
def execL2CfgWrite (time : Nat) (init : Init) (data : Word) (s : State) : Host.Outcome State Fault Refusal :=
  let t := s.at time
  done s (busDo t init Reg.ccL2Cfg 4 (some data) (fun t => l2CfgSet t data))

end Sys2Proof.Machine
end

