-- ==== Sys2Proof/Machine/Dram.lean ====
section
/-! DEFINITION. The DRAM controllers (R372 to R403): requests and responses, the write queue, arbitration, errors,
command parity, initialisation, training, refresh and self-refresh. `State.dram` holds what a read accepted now would
see, so a write is in it from its acceptance on (R378). -/

namespace Sys2Proof.Machine

/-- A controller. -/
def State.chan (s : State) (c : Nat) : McChan := bankGet (fun _ => {}) s.mc.ch c

/-- The state of a controller by the code of MC_STAT.STATE. -/
def mcState (s : State) (c : Nat) : Nat := s.fld (Reg.mcMcStat c) 0 3

/-- A controller replaced; MC_STAT.WQ_LEVEL and REF_OWED follow it. -/
def State.setChan (s : State) (c : Nat) (x : McChan) : State :=
  ({ s with mc := { s.mc with ch := bankSet (fun _ => {}) s.mc.ch c x } }).setFlds (Reg.mcMcStat c)
    [(4, 7, x.wq.length), (12, 3, max x.owed.1 x.owed.2)]

/-- The controller's state moved on. -/
def setMcState (s : State) (c st : Nat) : State := s.setFld (Reg.mcMcStat c) 0 3 st

/-- The capacity in MiB of a geometry of R374, 0 for one that is not listed. -/
def geomCap (g : Word) : Nat :=
  match bitsOf g 0 1, bitsOf g 1 2, bitsOf g 3 2 with
  | 0, 0, 1 => 2048
  | 0, 0, 2 => 4096
  | 0, 1, 1 => 4096
  | 1, 0, 1 => 1024
  | 1, 0, 2 => 2048
  | 1, 1, 1 => 2048
  | 1, 1, 2 => 4096
  | 1, 2, 1 => 4096
  | _, _, _ => 0

/-- The controller clock in MHz of a speed bin (R375). -/
def speedMhz (g : Word) : Nat :=
  match bitsOf g 8 2 with
  | 0 => 600
  | 1 => 666
  | 2 => 733
  | _ => 800

/-- Where a channel address lies in the devices (R376). -/
structure DramCell where
  rank : Nat
  bg : Nat
  ba : Nat
  row : Nat
  col : Nat
deriving DecidableEq, Repr

/-- The device address of a channel address under a geometry (R376): from bit 0 upwards the byte, the column, the bank group, the
bank, the row and the rank; bank group and bank are folded with the row's low bits. -/
def dramCell (g : Word) (a : Nat) : DramCell :=
  let n := if bitsOf g 0 1 = 0 then 2 else 1
  let rows := 15 + bitsOf g 1 2
  let row := nbits a (14 + n) rows
  ⟨if bitsOf g 3 2 = 2 then nbits a (14 + n + rows) 1 else 0, nbits a 12 n ^^^ nbits row 0 n,
    nbits a (12 + n) 2 ^^^ nbits row n 2, row, nbits a 2 10⟩

/-- A bank of a channel as the index under which its open row is held. -/
def bankKey (d : DramCell) : Nat := 16 * d.rank + 4 * d.bg + d.ba

/-- A command to a line opens its row. -/
def rowOpen (g : Word) (x : McChan) (line : Nat) : McChan :=
  let d := dramCell g (64 * line)
  { x with rows := bankSet (fun _ => none) x.rows (bankKey d) (some d.row) }

/-- The DRAM offset of a channel address (R376). -/
def dramOff (s : State) (c a : Nat) : Nat :=
  match dramMode s with
  | 0 => a
  | 1 => if c = 0 then a else s.fld (Reg.mcCapMb 0) 0 13 * 2 ^ 20 + a
  | _ => let hi := a / 256 * 512
    hi + 256 * ((c + nbits hi 16 1 + nbits hi 24 1) % 2) + a % 256

/-- A line of a channel is bad: an uncorrectable error was found in it and no full-line write that replaces it is queued (R388). -/
def lineBad (x : McChan) (line : Nat) : Bool :=
  x.bad.contains line && !(x.wq.any (fun e => decide (e.line = line) && decide (e.mask = 2 ^ 64 - 1)))

/-- A write to GEOM, taken only in RESET and FAIL; CAP_MB follows it (MC register map). -/
def geomWrite (s : State) (c : Nat) (d : Word) : State :=
  if mcState s c = 0 ∨ mcState s c = 5 then
    let s := s.setReg (Reg.mcGeom c) (mergeMask (s.reg (Reg.mcGeom c)) d 0x31F)
    s.setNat (Reg.mcCapMb c) (geomCap (s.reg (Reg.mcGeom c)))
  else s

/-- An error response or a scrub finding recorded (R394): the first while VALID is 0, later ones in MORE. -/
def mcRecord (s : State) (c a port kind : Nat) (write : Bool) : State :=
  if s.bit (Reg.mcErrInfo c) 31 then
    s.setFld (Reg.mcErrInfo c) 16 8 (min (s.fld (Reg.mcErrInfo c) 16 8 + 1) 255)
  else
    (s.setNat (Reg.mcErrAddr c) (a % 2 ^ 32)).setNat (Reg.mcErrInfo c) (port + 16 * kind + 64 * bnat write + 2 ^ 31)

/-- Port `q` raises panic (R384): a radio port while its receive-side pound holds PANIC_HI words, or while a transfer is
under way its transmit-side pound holds at most PANIC_LO; the generation store, which has no receive side, while a load is in progress
and its pound of read data holds at most PANIC_LO. -/
def portPanic (s : State) (c q : Nat) : Bool :=
  if 2 ≤ q ∧ q ≤ 4 then
    let rx := (s.pound (20 + (q - 2))).level
    let tx := s.pound (23 + (q - 2))
    decide (s.fld (Reg.mcPortCfg c q) 8 8 ≤ rx) || (tx.midW && decide (tx.level ≤ s.fld (Reg.mcPortCfg c q) 16 8))
  else if q = 7 then s.gen.load.isSome && decide ((s.pound 51).level ≤ s.fld (Reg.mcPortCfg c q) 16 8)
  else false

/-- Some port raises panic and panic mode is on (R383, R385). -/
def panicNow (s : State) (c : Nat) : Bool := s.bit (Reg.mcMcCtrl c) 1 && (List.range 8).any (portPanic s c)

/-- AGE_NS; 0 acts as 1,000. -/
def ageNs (s : State) (c : Nat) : Nat := let v := s.fld (Reg.mcAgeNs c) 0 20; if v = 0 then 1000 else v

/-- A pending line has waited AGE_NS or longer since its acceptance (R383). -/
def lineAged (s : State) (c : Nat) (l : DramLine) : Bool := decide (l.since + ageNs s c ≤ s.dt)

/-- PORT_STAT as it reads now: PANIC in [7:0] and AGED in [15:8]. -/
def portStat (s : State) (c : Nat) : Word :=
  BitVec.ofNat 32 (((List.range 8).map (fun q =>
    2 ^ q * bnat (portPanic s c q) +
      2 ^ (8 + q) * bnat ((s.chan c).lines.any (fun l => decide (l.port = q) && lineAged s c l)))).foldl (· + ·) 0)

/-- One line of a request done with a status (0 OK, 1 UE, 2 CA_PAR). -/
def lineDone (s : State) (l : DramLine) (status : Nat) : State :=
  { s with mc := { s.mc with opens := s.mc.opens.map (fun o =>
      if o.id = l.id then
        { o with left := o.left - 1, status := if o.status = 0 then status else o.status,
                 got := if o.read ∧ status = 0 then o.got ++ [(l.idx, l.data)] else o.got }
      else o) } }

/-- The lines read of a request in their order. -/
def gotData (o : DramOpen) : List Byte :=
  ((List.range o.got.length).flatMap (fun i => (o.got.filter (fun g => decide (g.1 = i))).flatMap (·.2)))

/-- The response packet of a request: its status byte, and the data of a read that succeeded
(notes/assumptions/9.md: the layout of request and response words is the model's). -/
def responseWords (s : State) (o : DramOpen) : List PWord :=
  let fin := decide (o.read = false ∨ o.status ≠ 0)
  let head : PWord := ⟨BitVec.ofNat 8 o.status :: (if fin then [] else List.replicate 63 0), fin, false, true, {}⟩
  if o.read ∧ o.status = 0 then
    head :: (packetOf s (37 + 2 * o.port) {} (gotData o)).map (fun w => { w with first := false })
  else [head]

/-- Answered requests leave in the order of each port's requests, as far as the response pound has room (R373). -/
def flushResponses (s : State) : Nat → State
  | 0 => s
  | n + 1 =>
    match s.mc.opens.find? (fun o => decide (o.left = 0) &&
        !(s.mc.opens.any (fun p => decide (p.port = o.port) && decide (p.id < o.id))) &&
        !poundClosed s (37 + 2 * o.port) &&
        decide ((s.pound (37 + 2 * o.port)).level + (responseWords s o).length ≤ poundDepth s (37 + 2 * o.port))) with
    | none => s
    | some o =>
      let ws := responseWords s o
      let s := { s with mc := { s.mc with opens := s.mc.opens.filter (fun p => decide (p.id ≠ o.id)) } }
      flushResponses (pushAll s (37 + 2 * o.port) ws) n

/-- Responses after a step of the controllers. -/
def mcAnswer (s : State) : State := flushResponses s s.mc.opens.length

/-- The mask of all 64 bytes of a line. -/
def fullMask : Nat := 2 ^ 64 - 1

/-- A mask covers some 32-bit beat only in part, so that the write is a read-modify-write (R382). -/
def partBeat (mask : Nat) : Bool :=
  (List.range 16).any (fun b => let m := nbits mask (4 * b) 4; decide (m ≠ 0) && decide (m ≠ 15))

/-- The bytes of a line after a masked write. -/
def maskedLine (old new : List Byte) (mask : Nat) : List Byte :=
  (List.range 64).map (fun i => if mask.testBit i then new.getD i 0 else old.getD i 0)

/-- A request as it lies in a request pound: write, report-class, address, masks and data of its lines. -/
structure DramReq where
  write : Bool
  report : Bool
  addr : Nat
  lines : Nat
  mask : Nat
  data : List Byte
deriving DecidableEq, Repr

/-- The request that a packet of a request pound spells (notes/assumptions/9.md): byte 0 is 1 for a write, byte 1 the
number of lines, byte 2 is 1 for a report-class access, bytes 3 to 7 the address, bytes 8 to 39 the byte mask of up to
four lines; the following words are the data of a write. -/
def decodeReq (ws : List PWord) : DramReq :=
  match ws with
  | [] => ⟨false, false, 0, 0, 0, []⟩
  | h :: r => ⟨byteAt h.data 0 == 1, byteAt h.data 2 == 1, leAt h.data 3 5, min 4 (max 1 (byteAt h.data 1)),
      leAt h.data 8 32, wordsData r⟩

/-- The report-class accesses of a port (R372): none but those of ports 0 and 7. -/
def reportOf (q : Nat) (r : DramReq) : Bool := r.report && (decide (q = 0) || decide (q = 7))

/-- A queued write at DT `dt`: merged into the entry of its line, or a new entry (R379). -/
def wqPut (x : McChan) (dt line mask : Nat) : McChan :=
  if x.wq.any (fun e => decide (e.line = line)) then
    { x with wq := x.wq.map (fun e => if e.line = line then
        { e with mask := e.mask ||| mask, lateAt := some dt, early := if e.lateAt = some dt then e.early else e.mask,
                 late := if e.lateAt = some dt then e.late ||| mask else mask }
      else e) }
  else { x with wq := x.wq ++ [{ line := line, mask := mask, lateAt := some dt, late := mask }] }

/-- WQ_HI and WQ_LO; a WQ_LO at or above WQ_HI acts as WQ_HI − 1. -/
def wqMarks (s : State) (c : Nat) : Nat × Nat :=
  let hi := s.fld (Reg.mcWqCtrl c) 0 8
  let lo := s.fld (Reg.mcWqCtrl c) 8 8
  (hi, if hi ≤ lo then hi - 1 else lo)

/-- The drain mode of R381 after the queue's level moved. -/
def reviewDrain (s : State) (c : Nat) : State :=
  let x := s.chan c
  let m := wqMarks s c
  if m.1 ≤ x.wq.length ∧ x.wq ≠ [] then s.setChan c { x with drainMode := true }
  else if x.wq.length ≤ m.2 then s.setChan c { x with drainMode := false }
  else s

/-- One line of an accepted request handed to its channel (R378 to R382, R392, R393). A read whose matching entry began to drain in
the same cycle is compared with it as it was (R380). -/
def acceptLine (s : State) (q : Nat) (r : DramReq) (id i : Nat) : State :=
  let off := r.addr - 0x800000000 + 64 * i
  let ca := dramChan s off
  let c := ca.1
  let line := ca.2 / 64
  let report := reportOf q r
  let mask := nbits r.mask (64 * i) 64
  let l : DramLine := { id := id, port := q, idx := i, write := r.write, rmw := r.write && partBeat mask,
                        report := report, line := line, mask := mask, off := off, since := s.dt, data := s.dramRead off 64 }
  if mcState s c = 5 then
    let fresh := decide (i = 0) || decide ((dramChan s (off - 64)).1 ≠ c)
    lineDone (if fresh then mcRecord s c (line * 64) q 1 r.write else s) l 2
  else if r.write then
    let bs := maskedLine (s.dramRead off 64) (sliceB r.data (64 * i) 64) mask
    let s := s.dramWrite off bs
    let x := s.chan c
    if report || partBeat mask then s.setChan c { x with lines := x.lines ++ [l] }
    else
      lineDone (reviewDrain (s.setChan c (wqPut x s.dt line mask)) c) l 0
  else
    let x := s.chan c
    match x.wq.find? (fun e => decide (e.line = line)) with
    | some e =>
      if e.mask = fullMask then lineDone (s.inc (Reg.mcFwdCnt c)) l 0
      else
        (s.inc (Reg.mcRawWaitCnt c)).setChan c
          { x with wq := x.wq.map (fun f => if f.line = line then { f with rush := true } else f),
                   lines := x.lines ++ [l] }
    | none =>
      match x.drained.filter (fun d => decide (d.1 = s.dt) && decide (d.2.line = line)) with
      | none => s.setChan c { x with lines := x.lines ++ [l] }
      | some d =>
        if d.2.mask = fullMask then lineDone (s.inc (Reg.mcFwdCnt c)) l 0
        else (s.inc (Reg.mcRawWaitCnt c)).setChan c { x with lines := x.lines ++ [l] }

/-- A channel takes requests: RUN with room in its write queue, or FAIL, which answers each with CA_PAR (R379, R393,
R395, R399). -/
def chanTakes (s : State) (c : Nat) : Bool :=
  (mcRun s c && decide ((s.chan c).wq.length < 64)) || decide (mcState s c = 5)

/-- The head request of a port's request pound, where a whole one is readable. -/
def portReq (s : State) (q : Nat) : Option DramReq :=
  match splitPacket ((s.pound (36 + 2 * q)).taken ++ (s.pound (36 + 2 * q)).ready) with
  | none => none
  | some (ws, _) => some (decodeReq ws)

/-- The command collector may accept port `q`'s head request: every channel its lines go to takes requests. -/
def portAcceptable (s : State) (q : Nat) : Bool :=
  match portReq s q with
  | none => false
  | some r => (List.range r.lines).all (fun i => chanTakes s (dramChan s (r.addr - 0x800000000 + 64 * i)).1)

/-- The command collector accepts the next request in its rotation (R34, R377, R378): an address at or above the
capacity gets the error response DRAM_RANGE, status 3. -/
def commandAccept (s : State) : State :=
  match rotPick 8 s.mc.rot (portAcceptable s) with
  | none => s
  | some q =>
    match readPacket s (36 + 2 * q) with
    | none => s
    | some (ws, s) =>
      let r := decodeReq ws
      let id := s.mc.nextId
      let bad := decide (dramCap s < r.addr - 0x800000000 + 64 * r.lines) || decide (r.addr < 0x800000000)
      let fail := (List.range 2).any (fun c => decide (mcState s c = 5))
      let o : DramOpen := { id := id, port := q, read := !r.write, left := r.lines }
      let s := { s with mc := { s.mc with rot := q, nextId := id + 1, lastReq := s.dt,
                                          opens := s.mc.opens ++ [if bad && !fail then { o with left := 0, status := 3 } else o] } }
      let s := if bad && !fail then s
        else (List.range r.lines).foldl (fun t i => acceptLine t q r id i) (bwCount s q (64 * r.lines) r.write)
      mcAnswer s

/-- DRAM_REQUEST_ACCEPT (R378). -/
def execDramRequestAccept (time : Nat) (s : State) : Host.Outcome State Fault Refusal :=
  done s (commandAccept (s.at time))

/-- A command kept in the retry buffer of 32 entries (R390). -/
def retryPut (x : McChan) (l : DramLine) : McChan :=
  { x with retry := (x.retry ++ [l]).drop (x.retry.length + 1 - 32) }

/-- The replay window in ns; values above 20 act as 20 (R390). -/
def alertWin (s : State) (c : Nat) : Nat := min 20 (s.fld (Reg.mcAlertWin c) 0 5)

/-- The drain of a write-queue entry begins at DT `dt` (R379, R388): a write that came in this very cycle takes a new entry, and a
full line replaced is no longer bad. -/
def wqDrain (g : Word) (x : McChan) (dt : Nat) (e : WqEntry) : McChan :=
  let split := decide (e.lateAt = some dt) && decide (e.early ≠ 0)
  let out := if split then { e with mask := e.early } else e
  let rest := if split then [{ e with mask := e.late, early := 0, rush := false }] else []
  rowOpen g { x with wq := x.wq.erase e ++ rest, drained := some (dt, out),
                     bad := if out.mask = fullMask then x.bad.filter (fun b => decide (b ≠ e.line)) else x.bad } e.line

/-- WRITE_QUEUE_DRAIN (R380, R381): an entry that a read waits for first, otherwise the oldest, when no read is pending or
in drain mode. -/
def execWriteQueueDrain (time : Nat) (c : Fin 2) (s : State) : Host.Outcome State Fault Refusal :=
  let t := s.at time
  let x := t.chan c
  let rush := x.wq.find? (·.rush)
  let may := mcRun t c && x.alertAt.isNone && (x.drainMode || !x.lines.any (fun l => !l.write || l.rmw) || rush.isSome)
  done s (match (if may then (match rush with
      | some e => some e
      | none => x.wq.head?) else none) with
    | none => t
    | some e =>
      let l : DramLine := { id := 0, port := 0, idx := 0, write := true, rmw := false, report := false, line := e.line,
                            off := 0, since := t.dt, issued := t.dt }
      reviewDrain (t.setChan c (retryPut (wqDrain (t.reg (Reg.mcGeom c)) x t.dt e) l)) c)

/-- The line of port `q` that may be issued next: within a port, requests keep their order; a line whose write-queue
entry must drain first waits (R380, R383). -/
def portHead (x : McChan) (q : Nat) : Option DramLine :=
  match x.lines.find? (fun l => decide (l.port = q)) with
  | none => none
  | some l => if x.wq.any (fun e => e.rush && decide (e.line = l.line)) then none else some l

/-- R383: the port issued next, by age, panic, priority and rotation. -/
def issuePick (s : State) (c : Nat) : Option DramLine :=
  let x := s.chan c
  let heads := (List.range 8).filterMap (portHead x)
  let aged := heads.filter (lineAged s c)
  match aged with
  | a :: r => some (r.foldl (fun m l => if l.id < m.id then l else m) a)
  | [] =>
    let pan := if panicNow s c then heads.filter (fun l => portPanic s c l.port) else []
    let set := if pan.isEmpty then heads else pan
    let top := set.foldl (fun m l => max m (s.fld (Reg.mcPortCfg c l.port) 0 3)) 0
    let best := set.filter (fun l => decide (s.fld (Reg.mcPortCfg c l.port) 0 3 = top))
    match rotPick 8 x.issueRot (fun q => best.any (fun l => decide (l.port = q))) with
    | none => none
    | some q => best.find? (fun l => decide (l.port = q))

/-- DRAM_ISSUE (R383): the chosen line is issued; not while an alert stops the channel or the write queue drains ahead of
reads. Outside panic every refresh owed goes before it (R385). -/
def execDramIssue (time : Nat) (c : Fin 2) (s : State) : Host.Outcome State Fault Refusal :=
  let t := s.at time
  let x := t.chan c
  done s (if mcRun t c && x.alertAt.isNone && !x.drainMode then
      match issuePick t c with
      | none => t
      | some l =>
        let m := { l with issued := t.dt }
        let x := { x with lines := x.lines.erase l, issueRot := l.port, owed := if panicNow t c then x.owed else (0, 0) }
        let x := if l.write && !l.rmw then { x with reportW := x.reportW ++ [m] } else { x with flight := x.flight ++ [m] }
        t.setChan c (retryPut (rowOpen (t.reg (Reg.mcGeom c)) x l.line) m)
    else t)

/-- A write that was accepted and not carried out undone: its bytes are as they were, unless a later write of its line stands. -/
def unwrite (s : State) (c : Nat) (l : DramLine) : State :=
  let x := s.chan c
  if x.wq.any (fun e => decide (e.line = l.line)) ||
      (x.lines ++ x.flight ++ x.reportW).any (fun m => m.write && decide (m.line = l.line) && decide (l.id < m.id)) then s
  else s.dramWrite l.off (maskedLine (s.dramRead l.off 64) l.data l.mask)

/-- An uncorrectable error in a read (R388): counted, recorded, raised as DRAM_UE, and the line stays bad. -/
def mcUe (s : State) (c line port : Nat) (write : Bool) : State :=
  let s := ((s.inc (Reg.mcUeCnt c)).raise (Reg.mcIrqRaw c) 1)
  let s := raiseFault s 4 c .none 0
  let x := s.chan c
  mcRecord (s.setChan c { x with bad := if x.bad.contains line then x.bad else x.bad ++ [line] }) c (line * 64) port 0 write

/-- A correctable error (R387): counted and recorded with its bit. -/
def mcCe (s : State) (c line bit : Nat) (scrub : Bool) : State :=
  let s := ((s.inc (Reg.mcCeCnt c)).raise (Reg.mcIrqRaw c) 0)
  (s.setNat (Reg.mcCeAddr c) (line * 64 % 2 ^ 32)).setNat (Reg.mcCeInfo c) (bit + 256 * bnat scrub)

/-- DRAM_READ_RETURN (R386 to R388): the oldest line in flight returns. A line known bad is uncorrectable whatever the
operand says. -/
def execDramReadReturn (time : Nat) (c : Fin 2) (ecc : Ecc) (s : State) : Host.Outcome State Fault Refusal :=
  let t := s.at time
  let x := t.chan c
  done s (match x.flight with
    | [] => t
    | l :: r =>
      let t := t.setChan c { x with flight := r }
      let e := if lineBad x l.line then Ecc.ue else ecc
      mcAnswer (match e with
        | .ok => if l.report && l.write then
            t.setChan c { t.chan c with reportW := (t.chan c).reportW ++ [l] } else lineDone t l 0
        | .ce b => let t := mcCe t c l.line b false
          if l.report && l.write then
            t.setChan c { t.chan c with reportW := (t.chan c).reportW ++ [l] } else lineDone t l 0
        | .ue => lineDone (mcUe (if l.write then unwrite t c l else t) c l.line l.port l.write) l 1))

/-- REPORT_WRITE_RESPONSE (R392): ALERT_WIN has passed after the write's last command without an alert. -/
def execReportWriteResponse (time : Nat) (c : Fin 2) (s : State) : Host.Outcome State Fault Refusal :=
  let t := s.at time
  let x := t.chan c
  done s (match x.reportW with
    | [] => t
    | l :: r =>
      if x.alertAt.isNone ∧ l.issued + alertWin t c ≤ t.dt then mcAnswer (lineDone (t.setChan c { x with reportW := r }) l 0)
      else t)

/-- The refresh interval in ns (R385). -/
def refInterval (s : State) (c : Nat) : Nat := if s.bit (Reg.mcRefCtrl c) 0 then 3900 else 7800

/-- One component of a pair by rank. -/
def byRank (p : Nat × Nat) (r : Nat) : Nat := if r = 0 then p.1 else p.2

/-- One component of a pair replaced. -/
def setRank (p : Nat × Nat) (r v : Nat) : Nat × Nat := if r = 0 then (v, p.2) else (p.1, v)

/-- REFRESH_DUE (R385): issued with every owed one, or postponed in panic mode while any port raises panic and fewer than
four are owed. Refresh runs from TRAIN onwards (R395). -/
def execRefreshDue (time : Nat) (c : Fin 2) (rank : Fin 2) (s : State) : Host.Outcome State Fault Refusal :=
  let t := s.at time
  let x := t.chan c
  let due := byRank x.refAt rank + refInterval t c
  done s (if (mcState t c = 2 ∨ mcState t c = 3) ∧ rank.val < t.fld (Reg.mcGeom c) 3 2 ∧ due ≤ t.dt then
      let o := byRank x.owed rank
      let o := if panicNow t c ∧ o < 4 then o + 1 else 0
      t.setChan c { x with refAt := setRank x.refAt rank due, owed := setRank x.owed rank o,
                           rows := if o = 0 then bankKeep (fun k => decide (k / 16 ≠ rank.val)) x.rows else x.rows }
    else t)

/-- ZQCS_DUE (R385): a ZQCS on each rank every ZQ_MS. -/
def execZqcsDue (time : Nat) (c : Fin 2) (s : State) : Host.Outcome State Fault Refusal :=
  let t := s.at time
  let x := t.chan c
  let due := x.zqAt + max 1 (t.fld (Reg.mcDriftCtrl c) 0 16) * 1000000
  done s (if mcRun t c = true ∧ due ≤ t.dt then t.setChan c { x with zqAt := due } else t)

/-- The lines of channel `c` within the configured capacity (R377, R389). -/
def scrubLines (s : State) (c : Nat) : Nat :=
  let cap := fun (k : Nat) => s.fld (Reg.mcCapMb k) 0 13 * 2 ^ 14
  if dramCap s = 0 then 0
  else match dramMode s with
    | 0 => if c = 0 then cap 0 else 0
    | 1 => cap c
    | _ => min (cap 0) (cap 1)

/-- The time from one scrub read to the next, in ns: a pass reads every line once in SCRUB_H hours; 0 acts as 1 (R389). -/
def scrubGap (s : State) (c : Nat) : Nat := max 1 (s.fld (Reg.mcScrubH c) 0 8) * 3600000000000 / max 1 (scrubLines s c)

/-- SCRUB_READ (R389): the lines are read in turn. A correctable error is written back; an uncorrectable one is recorded with KIND
SCRUB_UE. No response is sent and no fault is raised. -/
def execScrubRead (time : Nat) (c : Fin 2) (line : Nat) (ecc : Ecc) (s : State) : Host.Outcome State Fault Refusal :=
  let t := s.at time
  let x := t.chan c
  let n := scrubLines t c
  done s (if mcRun t c && t.bit (Reg.mcMcCtrl c) 2 && decide (n ≠ 0) && decide (x.scrubAt + scrubGap t c ≤ t.dt) &&
        decide (line = x.scrubLine % max 1 n) then
      let x := rowOpen (t.reg (Reg.mcGeom c)) { x with scrubLine := (line + 1) % n, scrubAt := t.dt } line
      let t := t.setChan c x
      match (if lineBad x line then Ecc.ue else ecc) with
      | .ok => t
      | .ce b => mcCe t c line b true
      | .ue =>
        let u := ((t.inc (Reg.mcUeCnt c)).raise (Reg.mcIrqRaw c) 7)
        let u := u.setChan c { x with bad := if x.bad.contains line then x.bad else x.bad ++ [line] }
        mcRecord u c (line * 64) 0 2 false
    else t)

/-- The error response CA_PAR of a request for one of its lines (R392 to R394): recorded, as `count` says, once for the
request. -/
def lineRefused (s : State) (c : Nat) (count : State → State) (l : DramLine) : State :=
  let first := !s.mc.opens.any (fun o => decide (o.id = l.id) && decide (o.status = 2))
  lineDone (if first then count (mcRecord s c (l.line * 64) l.port 1 l.write) else s) l 2

/-- Every line a channel holds answered with CA_PAR, and nothing held any more (R393). -/
def failAll (s : State) (c : Nat) : State :=
  let x := s.chan c
  let held := x.lines ++ x.flight ++ x.reportW
  let s := held.foldl (fun t l => lineRefused t c (fun u => u) l) s
  mcAnswer (s.setChan c { x with wq := [], drainMode := false, lines := [], flight := [], reportW := [], retry := [] })

/-- ALERT_N_FALL (R391, R393, R395, R401): in RUN issue stops and DRAM_CA_PARITY is raised, and REPLAY_MAX consecutive
alerts within ALERT_WIN of a reissued command put the channel in FAIL; in TRAIN the alert is only counted; during
self-refresh it is ignored. -/
def execAlertNFall (time : Nat) (c : Fin 2) (s : State) : Host.Outcome State Fault Refusal :=
  let t := s.at time
  let x := t.chan c
  done s (if mcState t c = 2 then (t.inc (Reg.mcCaParCnt c)).raise (Reg.mcIrqRaw c) 2
    else if mcState t c = 3 ∧ x.alertAt = none then
      let u := raiseFault ((t.inc (Reg.mcCaParCnt c)).raise (Reg.mcIrqRaw c) 2) 3 c .retry 0
      let near : Bool := match x.reissueAt with
        | none => false
        | some r => decide (t.dt ≤ r + alertWin t c)
      let n := if near then x.consec + 1 else 0
      let y := u.chan c
      let u := u.setChan c { y with alertAt := some t.dt, consec := n, rows := [], shut := y.rows }
      if near = true ∧ max 1 (t.fld (Reg.mcReplayMax c) 0 4) ≤ n then
        let u := (setMcState u c 5).raise (Reg.mcIrqRaw c) 4
        let u := u.setChan c { u.chan c with alertAt := none, reissueAt := none, consec := 0 }
        failAll u c
      else u
    else t)

/-- ALERT_N_RISE (R391, R392): the rows that the alert closed are open again, and the commands issued within ALERT_WIN before the fall
are reissued in order, but those of report-class accesses are refused with CA_PAR; whether such a write took effect is open. -/
def execAlertNRise (time : Nat) (c : Fin 2) (s : State) : Host.Outcome State Fault Refusal :=
  let t := s.at time
  let x := t.chan c
  done s (match x.alertAt with
    | none => t
    | some f =>
      let recent := x.retry.filter (fun l => decide (f ≤ l.issued + alertWin t c))
      let again := recent.filter (fun l => !l.report)
      let refused := recent.filter (fun l => l.report && t.mc.opens.any (fun o => decide (o.id = l.id)))
      let u := t.addRc (Reg.mcReplayCnt c) again.length
      let ids := refused.map (·.id)
      let gone := fun (l : DramLine) => l.report && ids.contains l.id
      let u := refused.foldl (fun u l => lineRefused u c (fun v => (v.inc (Reg.mcReportCnt c)).raise (Reg.mcIrqRaw c) 3) l) u
      let u := (refused.filter (·.write)).foldl (fun u l =>
        let (w, v) := u.drawWord
        if bitOf w 0 then unwrite v c l else v) u
      let y := u.chan c
      mcAnswer (u.setChan c { y with
        alertAt := none, rows := y.shut, shut := [], reissueAt := if again.isEmpty then y.reissueAt else some t.dt,
        retry := again.map (fun l => { l with issued := t.dt }),
        flight := y.flight.filter (fun l => !gone l), reportW := y.reportW.filter (fun l => !gone l) }))

/-- Everything a channel has accepted completed, and its write queue drained (R395 RUN to TRAIN, R399). -/
def completeAll (s : State) (c : Nat) : State :=
  let x := s.chan c
  let held := x.flight ++ x.lines
  let full := (x.wq.filter (fun e => decide (e.mask = fullMask))).map (fun e => e.line)
  let s := s.setChan c { x with wq := [], drainMode := false, lines := [], flight := [], reportW := [], owed := (0, 0), rows := [],
                                bad := x.bad.filter (fun b => !full.contains b) }
  let s := held.foldl (fun t l =>
    if lineBad x l.line ∧ (l.write = false ∨ l.rmw = true) then
      lineDone (mcUe (if l.write then unwrite t c l else t) c l.line l.port l.write) l 1
    else lineDone t l 0) s
  mcAnswer (x.reportW.foldl (fun t l => lineDone t l 0) s)

/-- The DRAM contents of one channel lost: what they then read as is the reading of unlisted memory (R395;
notes/assumptions/5.md). -/
def dropChannel (s : State) (c : Nat) : State :=
  { s with dram := bankKeep (fun o => decide ((dramChan s o).1 ≠ c)) s.dram }

/-- Requests accepted as long as any can be. -/
def acceptAll (s : State) : Nat → State
  | 0 => s
  | n + 1 => acceptAll (commandAccept s) n

/-- The words that wait in the request pounds. -/
def waitingWords (s : State) : Nat := ((List.range 8).map (fun q => (s.pound (36 + 2 * q)).ready.length)).sum

/-- The effect of INIT = 1 (R395): from FAIL every request that waits has its error response first and the channel's contents are lost.
The mode registers take the defaults of the speed bin. -/
def mcStartInit (s : State) (c : Nat) : State :=
  if (mcState s c = 0 ∨ mcState s c = 5) ∧ geomCap (s.reg (Reg.mcGeom c)) ≠ 0 then
    let s := if mcState s c = 5 then dropChannel (acceptAll s (waitingWords s)) c else s
    let s := setMcState s c 1
    let g := s.reg (Reg.mcGeom c)
    let regs := (List.range 14).foldl (fun b k =>
      bankSet (fun _ => 0) b (8 * (k / 7) + k % 7) (Config.modeDefault (bitsOf g 8 2) (k % 7))) (s.chan c).modeRegs
    let s := s.setChan c { s.chan c with bad := [], op := none, modeRegs := regs, rows := [], shut := [], scrubLine := 0 }
    s.setNat (Reg.topIslClk 7) (speedMhz g)
  else s

/-- The effect of EN = 1 in TRAIN (R395). -/
def mcEnter (s : State) (c : Nat) : State :=
  let s := s.setBit (Reg.mcMcCtrl c) 0 true
  if mcState s c = 2 then (setMcState s c 3).setChan c { (setMcState s c 3).chan c with zqAt := s.dt, driftAt := s.dt, scrubAt := s.dt } else s

/-- The effect of EN = 0 in RUN (R395). -/
def mcLeave (s : State) (c : Nat) : State :=
  let s := s.setBit (Reg.mcMcCtrl c) 0 false
  if mcState s c = 3 then setMcState (completeAll s c) c 2 else s

/-- MC_INIT (R395). -/
def execMcInit (time : Nat) (init : Init) (c : Fin 2) (s : State) : Host.Outcome State Fault Refusal :=
  let t := s.at time
  done s (busDo t init (Reg.mcMcCtrl c) 4 (some 0) (fun t => mcStartInit t c))

/-- MC_INIT_DONE (R395): the sequence is complete; refresh runs from TRAIN onwards. -/
def execMcInitDone (time : Nat) (c : Fin 2) (s : State) : Host.Outcome State Fault Refusal :=
  let t := s.at time
  done s (if mcState t c = 1 then
      let u := (setMcState t c 2).raise (Reg.mcIrqRaw c) 6
      u.setChan c { u.chan c with refAt := (t.dt, t.dt) }
    else t)

/-- MC_ENABLE (R395). -/
def execMcEnable (time : Nat) (init : Init) (c : Fin 2) (s : State) : Host.Outcome State Fault Refusal :=
  let t := s.at time
  done s (busDo t init (Reg.mcMcCtrl c) 4 (some 0) (fun t => mcEnter t c))

/-- MC_DISABLE (R395). -/
def execMcDisable (time : Nat) (init : Init) (c : Fin 2) (s : State) : Host.Outcome State Fault Refusal :=
  let t := s.at time
  done s (busDo t init (Reg.mcMcCtrl c) 4 (some 0) (fun t => mcLeave t c))

/-- A write to ADDR_MAP (R377): taken only while neither channel is in RUN; MC[1]'s reads as MC[0]'s and ignores writes. -/
def addrMapSet (s : State) (c : Nat) (d : Word) : State :=
  if c = 0 ∧ mcRun s 0 = false ∧ mcRun s 1 = false then
    (s.setNat (Reg.mcAddrMap 0) (bitsOf d 0 2)).setNat (Reg.mcAddrMap 1) (bitsOf d 0 2)
  else s

/-- ADDR_MAP_WRITE (R377). -/
def execAddrMapWrite (time : Nat) (init : Init) (c : Fin 2) (data : Word) (s : State) :
    Host.Outcome State Fault Refusal :=
  let t := s.at time
  done s (busDo t init (Reg.mcAddrMap c) 4 (some data) (fun t => addrMapSet t c data))

/-- A training operation begun (R396): ignored while one is in progress or with OP 0, and ended at once with BAD_STATE
outside TRAIN or with MR_SEL 7 of an MRS. -/
def trainStart (s : State) (c op : Nat) (rank : Bool) (mr : Nat) : State :=
  if s.bit (Reg.mcTrainStat c) 0 = true ∨ op = 0 then s
  else if mcState s c ≠ 2 ∨ (op = 1 ∧ mr = 7) then
    (s.setFlds (Reg.mcTrainStat c) [(0, 1, 0), (4, 2, 1)]).raise (Reg.mcIrqRaw c) 6
  else
    let s := s.setBit (Reg.mcTrainStat c) 0 true
    let x := s.chan c
    let s := s.setChan c { x with op := some op }
    if op = 1 then
      s.setChan c { s.chan c with
        modeRegs := bankSet (fun _ => 0) (s.chan c).modeRegs (8 * bnat rank + mr) (s.reg (Reg.mcMrsData c)) }
    else if op = 5 then
      let n := 32 * max 1 (s.fld (Reg.mcPatCfg c) 16 16)
      let d := s.drawBytes n
      (List.range (n / 32)).foldl (fun t i =>
        t.dramWrite (dramOff s c (s.regN (Reg.mcTrainAddr c) + 32 * i)) (sliceB d.1 (32 * i) 32)) d.2
    else s

/-- The effect of a write to TRAIN_CMD. -/
def trainCmd (s : State) (c : Nat) (d : Word) : State := trainStart s c (bitsOf d 0 3) (bitOf d 4) (bitsOf d 8 3)

/-- TRAIN_MRS (R396). -/
def execTrainMrs (time : Nat) (init : Init) (c : Fin 2) (rank : Bool) (mr : Fin 8) (s : State) :
    Host.Outcome State Fault Refusal :=
  let t := s.at time
  done s (busDo t init (Reg.mcTrainCmd c) 4 (some 0) (fun t => trainStart t c 1 rank mr))

/-- TRAIN_WLEVEL (R396). -/
def execTrainWlevel (time : Nat) (init : Init) (c : Fin 2) (rank : Bool) (s : State) :
    Host.Outcome State Fault Refusal :=
  let t := s.at time
  done s (busDo t init (Reg.mcTrainCmd c) 4 (some 0) (fun t => trainStart t c 2 rank 0))

/-- TRAIN_GATE (R396). -/
def execTrainGate (time : Nat) (init : Init) (c : Fin 2) (rank : Bool) (s : State) :
    Host.Outcome State Fault Refusal :=
  let t := s.at time
  done s (busDo t init (Reg.mcTrainCmd c) 4 (some 0) (fun t => trainStart t c 3 rank 0))

/-- TRAIN_MPR_READ (R396). -/
def execTrainMprRead (time : Nat) (init : Init) (c : Fin 2) (rank : Bool) (s : State) :
    Host.Outcome State Fault Refusal :=
  let t := s.at time
  done s (busDo t init (Reg.mcTrainCmd c) 4 (some 0) (fun t => trainStart t c 4 rank 0))

/-- TRAIN_PAT_WRITE (R396). -/
def execTrainPatWrite (time : Nat) (init : Init) (c : Fin 2) (rank : Bool) (s : State) :
    Host.Outcome State Fault Refusal :=
  let t := s.at time
  done s (busDo t init (Reg.mcTrainCmd c) 4 (some 0) (fun t => trainStart t c 5 rank 0))

/-- TRAIN_PAT_READ (R396). -/
def execTrainPatRead (time : Nat) (init : Init) (c : Fin 2) (rank : Bool) (s : State) :
    Host.Outcome State Fault Refusal :=
  let t := s.at time
  done s (busDo t init (Reg.mcTrainCmd c) 4 (some 0) (fun t => trainStart t c 6 rank 0))

/-- TRAIN_ZQCL (R396). -/
def execTrainZqcl (time : Nat) (init : Init) (c : Fin 2) (rank : Bool) (s : State) :
    Host.Outcome State Fault Refusal :=
  let t := s.at time
  done s (busDo t init (Reg.mcTrainCmd c) 4 (some 0) (fun t => trainStart t c 7 rank 0))

/-- TRAIN_DONE (R396, R397): the operation in progress ends, and an operation that samples or compares sets CMP_RES. -/
def execTrainDone (time : Nat) (c : Fin 2) (timeout : Bool) (cmp0 : Word) (cmp1 : BitVec 8) (s : State) :
    Host.Outcome State Fault Refusal :=
  let t := s.at time
  let x := t.chan c
  done s (match x.op with
    | none => t
    | some op =>
      let u := (t.setChan c { x with op := none }).setFlds (Reg.mcTrainStat c) [(0, 1, 0), (4, 2, if timeout then 2 else 0)]
      let u := if op = 2 ∨ op = 3 ∨ op = 4 ∨ op = 6 then
          (u.setReg (Reg.mcCmpRes0 c) cmp0).setNat (Reg.mcCmpRes1 c) cmp1.toNat else u
      u.raise (Reg.mcIrqRaw c) 6)

/-- One lane's drift step (R398): RD_DLY moves towards the centre unless the lane is at its limit, which is DRIFT_MAX steps
from the value firmware last wrote. -/
def driftLane (s : State) (c l : Nat) (m : LaneMove) : State :=
  if m = .stay ∨ s.bit (Reg.mcDriftStat c) l = true then s
  else
    let v := s.fld (Reg.mcLaneDly c l) 16 8
    let x := s.chan c
    let d := x.drift.getD l 0 + (if m = .up then 1 else -1)
    let s := s.setFld (Reg.mcLaneDly c l) 16 8 (if m = .up then min 255 (v + 1) else v - 1)
    let s := s.setChan c { s.chan c with drift := x.drift.set l d }
    if s.fld (Reg.mcDriftCtrl c) 16 8 ≤ d.natAbs then (s.setBit (Reg.mcDriftStat c) l true).raise (Reg.mcIrqRaw c) 5 else s

/-- DRIFT_TRACK (R398): every 1 ms. -/
def execDriftTrack (time : Nat) (c : Fin 2) (moves : List LaneMove) (s : State) : Host.Outcome State Fault Refusal :=
  let t := s.at time
  done s (if mcRun t c && decide ((t.chan c).driftAt + 1000000 ≤ t.dt) then
      (t.setChan c { t.chan c with driftAt := t.dt }).each (List.range 5) (fun l u => driftLane u c l (moves.getD l .stay)) else t)

/-- A write to LANE_DLY: the lane's drift count is reset, and its limit bit with it (R398). -/
def laneDlySet (s : State) (c l : Nat) (d : Word) : State :=
  let s := (s.setReg (Reg.mcLaneDly c l) d).setBit (Reg.mcDriftStat c) l false
  s.setChan c { s.chan c with drift := (s.chan c).drift.set l 0 }

/-- LANE_DLY_WRITE (R398). -/
def execLaneDlyWrite (time : Nat) (init : Init) (c : Fin 2) (lane : Fin 5) (data : Word) (s : State) :
    Host.Outcome State Fault Refusal :=
  let t := s.at time
  done s (busDo t init (Reg.mcLaneDly c lane) 4 (some data) (fun t => laneDlySet t c lane data))

/-- The power state is P3 (AO.PM_STAT.STATE). -/
def inP3 (s : State) : Bool := decide (s.fld Reg.aoPmStat 0 3 = 3)

/-- A request waits in some request pound. -/
def requestWaits (s : State) : Bool :=
  (List.range 8).any (fun q => decide ((s.pound (36 + 2 * q)).flight ≠ []) || decide ((s.pound (36 + 2 * q)).ready ≠ []))

/-- The channel goes into self-refresh (R399, R401): the accepted requests are completed first. -/
def enterSelfRefresh (s : State) (c : Nat) : State :=
  if mcState s c = 3 then setMcState (completeAll s c) c 4 else s

/-- SELF_REFRESH_ENTER (R399): by SR_CTRL.SR_REQ, or by the power manager in P3. A request accepted in the same cycle comes first
(R401). -/
def execSelfRefreshEnter (time : Nat) (c : Fin 2) (s : State) : Host.Outcome State Fault Refusal :=
  let t := s.at time
  let accepts := (sameCycle t).any (fun i => match i with
    | .dramRequestAccept _ => true
    | _ => false)
  done s (if t.bit (Reg.mcSrCtrl c) 0 || inP3 t then enterSelfRefresh (if accepts then commandAccept t else t) c else t)

/-- SELF_REFRESH_EXIT (R400): the request is withdrawn, or a request waits in a pound. -/
def execSelfRefreshExit (time : Nat) (c : Fin 2) (s : State) : Host.Outcome State Fault Refusal :=
  let t := s.at time
  done s (if mcState t c = 4 ∧ ((t.bit (Reg.mcSrCtrl c) 0 = false ∧ inP3 t = false) ∨ requestWaits t = true) then
      let u := setMcState t c 3
      { u.setChan c { u.chan c with refAt := (t.dt, t.dt) } with mc := { (u.setChan c { u.chan c with refAt := (t.dt, t.dt) }).mc with lastReq := t.dt } }
    else t)

/-- MC_IDLE_SELF_REFRESH (R476): in P3, 100 µs after the last request, MC returns to self-refresh. -/
def execMcIdleSelfRefresh (time : Nat) (s : State) : Host.Outcome State Fault Refusal :=
  let t := s.at time
  done s (if inP3 t = true ∧ t.mc.lastReq + 100000 ≤ t.dt ∧ requestWaits t = false then
      enterSelfRefresh (enterSelfRefresh t 0) 1 else t)

/-- A reset of the MC island (R395, R490): both controllers in RESET, DRAM contents lost, training values and drift counts
kept. -/
def mcIslandReset (s : State) : State :=
  let one := fun (s : State) (c : Nat) =>
    (setMcState (s.setFlds (Reg.mcTrainStat c) [(0, 1, 0)]) c 0).setChan c { drift := (s.chan c).drift, modeRegs := (s.chan c).modeRegs }
  let s := one (one s 0) 1
  { s with dram := [], mc := { s.mc with opens := [] } }

/-- The 64-byte lines that `n` bytes from a DRAM offset touch. -/
def linesOf (off n : Nat) : Nat := if n = 0 then 0 else (off % 64 + n + 63) / 64

/-- An access to DRAM that gets an error response (R44, R369, R388, R393): it passes the capacity, its channel is in FAIL, or it
reads a line known bad. The result is the offset of the first such line. -/
def dramFault (s : State) (off n : Nat) (write : Bool) : Option Nat :=
  if dramCap s < off + n then some off
  else if (List.range 2).all (fun c => decide (mcState s c ≠ 5) && (write || (s.chan c).bad.isEmpty)) then none
  else ((List.range (linesOf off n)).map (fun i => off / 64 * 64 + 64 * i)).find? (fun o =>
    let a := dramChan s o
    decide (mcState s a.1 = 5) || (!write && lineBad (s.chan a.1) (a.2 / 64)))

/-- Lines that a write of `n` bytes replaces whole are no longer bad (R388). -/
def clearBad (s : State) (off n : Nat) : State :=
  s.each (List.range 2) (fun c t =>
    if (t.chan c).bad.isEmpty then t
    else t.setChan c { t.chan c with bad := (t.chan c).bad.filter (fun b =>
      let o := dramOff t c (64 * b)
      !(decide (off ≤ o) && decide (o + 64 ≤ off + n))) })

/-- The 64-byte lines that an initiator reads or writes on port 0, as the counters see them (R423). -/
def pmuLines (s : State) (init cl a n : Nat) (write : Bool) : State :=
  s.each (List.range (linesOf a n)) (fun i t =>
    pmuEvent t (if write then 10 else 9) init (some (cl, a / 64 * 64 + 64 * i)))

/-- The traffic of an access of `n` bytes that the user of port `q` makes within a step (R33, R372, R427): requests of up to four
lines on the port's request pound, their responses on its response pound, the bytes in the bandwidth meter, and what the
controller records of an error (R388, R393, R394). -/
def dramUse (s : State) (q off n : Nat) (write : Bool) : State :=
  let l := linesOf off n
  let k := ceilDiv l 4
  let s := bwCount s q (64 * l) write
  let s := transit s (36 + 2 * q) (if write then 1 + min l 4 else 1) k
  let s := transit s (37 + 2 * q) (if write then 1 else 1 + min l 4) k
  match dramFault s off n write with
  | none => if write then clearBad s off n else s
  | some o =>
    let a := dramChan s o
    if dramCap s < off + n then s
    else if mcState s a.1 = 5 then mcRecord s a.1 (a.2 / 64 * 64) q 1 write
    else mcUe s a.1 (a.2 / 64) q write

end Sys2Proof.Machine
end

