-- ==== Sys2Proof/Machine/Gen.lean ====
section
/-! DEFINITION. Generations and the timetable (R49 to R97, R533 to R535): reading an image, slots and tags, reference
counts, arming, the round, and the wired players. The image checks of a load are in Load.lean. -/

namespace Sys2Proof.Machine

/-- An image as the function of its byte offsets (R61). -/
abbrev Img := Nat → Byte

/-- `n` bytes of an image, little-endian. -/
def iLe (g : Img) (off : Nat) : Nat → Nat
  | 0 => 0
  | n + 1 => (g off).toNat + 256 * iLe g (off + 1) n

/-- A byte of an image. -/
def i8 (g : Img) (off : Nat) : Nat := (g off).toNat

/-- A 16-bit word of an image. -/
def i16 (g : Img) (off : Nat) : Nat := iLe g off 2

/-- A 32-bit word of an image. -/
def i32 (g : Img) (off : Nat) : Nat := iLe g off 4

/-- A field of a 32-bit word of an image. -/
def iFld (g : Img) (off lo len : Nat) : Nat := nbits (i32 g off) lo len

/-- Bytes of an image. -/
def iBytes (g : Img) (off n : Nat) : List Byte := (List.range n).map (fun i => g (off + i))

/-- A directory entry (R64). -/
structure Tbl where
  count : Nat
  off : Nat
  len : Nat
deriving DecidableEq, Repr

/-- Directory entry `k` as a table. -/
def iDir (g : Img) (k : Nat) : Tbl :=
  ⟨i16 g (0x40 + 16 * k + 2), i32 g (0x40 + 16 * k + 4), i32 g (0x40 + 16 * k + 8)⟩

/-- The table of a type, none where the directory has none (R66). -/
def iTbl? (g : Img) (ty : Nat) : Option Tbl :=
  match (List.range (i16 g 0x0A)).find? (fun k => decide (i8 g (0x40 + 16 * k) = ty)) with
  | none => none
  | some k => some (iDir g k)

/-- The table of a type; an absent optional table behaves as present and empty (R66). -/
def iTbl (g : Img) (ty : Nat) : Tbl := (iTbl? g ty).getD ⟨0, 0, 0⟩

/-- The state of a slot by the code of SLOT_STAT.STATE: 0 FREE, 1 LOADING, 2 READY, 3 ARMED, 4 CURRENT, 5 DRAINING. -/
def slotState (s : State) (k : Nat) : Nat := s.fld (Reg.genSlotStat k) 0 3

/-- The table-store pages of a slot, in the order of the image (R535). -/
def slotPages (s : State) (k : Nat) : List Nat := bankGet (fun _ => []) s.gen.pages k

/-- The bytes of the image in a slot, read through its pages. -/
def slotImg (s : State) (k : Nat) : Img := fun o =>
  match (slotPages s k)[o / 4096]? with
  | none => 0
  | some p => memGet s.tstore (p * 4096 + o % 4096)

/-- The current slot, none with no generation current (GEN_STAT). -/
def curSlot (s : State) : Option Nat := if s.bit Reg.genGenStat 0 then some (s.fld Reg.genGenStat 4 2) else none

/-- The image of the current generation; all zeros with none current. -/
def curImg (s : State) : Img :=
  match curSlot s with
  | none => fun _ => 0
  | some k => slotImg s k

/-- The tag of the current generation (GEN_STAT.CUR_TAG). -/
def curTag (s : State) : Nat := s.fld Reg.genGenStat 8 4

/-- The tag of the image in a slot. -/
def slotTag (s : State) (k : Nat) : Nat := s.fld (Reg.genSlotStat k) 8 4

/-- The resident slot of a tag: a slot that is not FREE and not LOADING (R77, R82). -/
def tagSlot (s : State) (tag : Nat) : Option Nat :=
  (List.range 4).find? (fun k => decide (2 ≤ slotState s k) && decide (slotTag s k = tag))

/-- A tag is retired and still counting (R85). -/
def tagRetired (s : State) (tag : Nat) : Bool := s.gen.retired.any (fun r => decide (r.tag = tag))

/-- A slot's state replaced; GEN_STAT.RESIDENT follows it. -/
def setSlotState (s : State) (k st : Nat) : State :=
  (s.setFld (Reg.genSlotStat k) 0 3 st).setBit Reg.genGenStat (16 + k) (decide (st ≠ 0))

/-- The retired list replaced; GEN_STAT.RETIRED_TAGS follows it. -/
def setRetired (s : State) (l : List Retired) : State :=
  { s with gen := { s.gen with retired := l } }.setFld Reg.genGenStat 24 3 l.length

/-- `n` more references of a tag (R82). -/
def refTag (s : State) (tag n : Nat) : State :=
  match tagSlot s tag with
  | some k => s.setNat (Reg.genSlotRef k) (s.regN (Reg.genSlotRef k) + n)
  | none => setRetired s (s.gen.retired.map (fun r => if r.tag = tag then { r with count := r.count + n } else r))

/-- One reference of a tag released (R82); a retired tag leaves the list at 0 (R86). -/
def releaseTag (s : State) (tag : Nat) : State :=
  if tagRetired s tag then
    setRetired s ((s.gen.retired.map (fun r => if r.tag = tag then { r with count := r.count - 1 } else r)).filter
      (fun r => decide (r.count ≠ 0)))
  else match tagSlot s tag with
    | some k => s.setNat (Reg.genSlotRef k) (s.regN (Reg.genSlotRef k) - 1)
    | none => s

/-- A frame of a retired tag dropped (R86). -/
def dropRetired (s : State) (tag : Nat) : State := releaseTag (s.addPair Reg.genRetiredLo 1) tag

/-- A slot freed: its pages and its registers given up. -/
def freeSlot (s : State) (k : Nat) : State :=
  let s := { s with gen := { s.gen with pages := bankSet (fun _ => []) s.gen.pages k [],
                                        loadAt := bankSet (fun _ => 0) s.gen.loadAt k 0,
                                        bad := s.gen.bad.filter (fun b => decide (b.1 ≠ k)),
                                        lost := s.gen.lost.filter (fun b => decide (b.1 ≠ k)) } }
  let s := setSlotState s k 0
  (((s.setReg (Reg.genSlotStat k) 0).setReg (Reg.genSlotSeq k) 0).setReg (Reg.genSlotRef k) 0).setReg
    (Reg.genSlotBase k) 0 |>.setReg (Reg.genSlotSize k) 0

/-- Island of a wired player's port (R49, R16). -/
def portIsland (p : Nat) : Nat := if p < 64 then 11 + p / 8 else 19

/-- A wired player. -/
def State.player (s : State) (p : Nat) : Player := bankGet (fun _ => {}) s.gen.players p

/-- A wired player replaced. -/
def State.setPlayer (s : State) (p : Nat) (x : Player) : State :=
  { s with gen := { s.gen with players := bankSet (fun _ => {}) s.gen.players p x } }

/-- SLOT_STAT.HELD of every slot: a wired player still plays a slot that is no longer current (R84). -/
def reviewHeld (s : State) : State :=
  s.each (List.range 4) (fun k t =>
    t.setBit (Reg.genSlotStat k) 16 (decide (slotState t k = 5) && t.gen.players.any (fun e => decide (e.2.slot = some k))))

/-- The offset of port `p`'s record in the LOCK table of an image (R68). -/
def lockRec (g : Img) (p : Nat) : Nat := let t := iTbl g 0x08; t.off + i32 g (t.off + 4 * p)

/-- CYCLE_NS of a port record. -/
def lockCycle (g : Img) (p : Nat) : Nat := i32 g (lockRec g p + 4)

/-- The number of gate entries of a port record. -/
def lockEntries (g : Img) (p : Nat) : Nat := iFld g (lockRec g p) 0 9

/-- GATES of gate entry `e` of a port (R69). -/
def lockGates (g : Img) (p e : Nat) : Nat := iFld g (lockRec g p + 16 + 8 * e) 0 8

/-- INTERVAL_NS of gate entry `e` of a port (R69). -/
def lockInterval (g : Img) (p e : Nat) : Nat := i32 g (lockRec g p + 16 + 8 * e + 4)

/-- The gate entry that covers the position `pos` of the cycle, from entry `e` on, and how long it still lasts. -/
def coverEntry (g : Img) (p : Nat) : Nat → Nat → Nat → Nat × Nat
  | 0, e, _ => (e, 0)
  | n + 1, e, pos =>
    let i := lockInterval g p e
    if pos < i then (e, i - pos) else coverEntry g p n (e + 1) (pos - i)

/-- The entry of a lock schedule that started at DT `base` which covers DT `d`, and the time it lasts from there. -/
def coverAt (g : Img) (p base d : Nat) : Nat × Nat :=
  coverEntry g p (lockEntries g p) 0 ((d - base) % max 1 (lockCycle g p))

/-- The entry a wired player plays at the present DT and the time it still lasts. -/
def nowEntry (s : State) (p : Nat) : Nat × Nat :=
  match (s.player p).slot with
  | none => (0, 0)
  | some k => coverAt (slotImg s k) p (s.player p).base s.dt

/-- The gates of port `p` open now at its MDI (R50, R323): closed with no schedule playing, with the island not running and while GEN is in
reset (R55, R92, R492). -/
def openGates (s : State) (p : Nat) : Nat :=
  if islInReset s 6 || !islPowered s 6 || !islUp s (portIsland p) then 0 else (s.player p).gates

/-- PLAY_STAT of a wired player and its gates set from the entry that covers the present DT (R49, R54). -/
def playWired (s : State) (p : Nat) : State :=
  let x := s.player p
  let idle := (curSlot s).isNone || !islUp s (portIsland p)
  let hold := x.hand.isSome
  match x.slot with
  | none =>
    (s.setPlayer p { x with gates := 0 }).setFlds (Reg.genPlayStat p)
      [(0, 12, 0), (12, 2, (curSlot s).getD 0), (16, 1, bnat hold), (17, 1, bnat idle), (18, 1, bnat (!idle))]
  | some k =>
    let e := (nowEntry s p).1
    (s.setPlayer p { x with gates := lockGates (slotImg s k) p e }).setFlds (Reg.genPlayStat p)
      [(0, 12, e), (12, 2, k), (16, 1, bnat hold), (17, 1, bnat idle), (18, 1, 0)]

/-- The island of player `j` (R49). -/
def playerIsland (j : Nat) : Nat := if j < 66 then portIsland j else 8 + (j - 66)

/-- The first DT at or after `b` that equals `base` modulo `cycle` (R91). -/
def handDt (b base cycle : Nat) : Nat := b + (((base : Int) - b) % (max 1 cycle : Nat)).toNat

/-- A port's lock schedule at a swap to slot `k` at boundary `b` (R91, R92): in phase with the round it starts there; in
phase with BASE_DT it starts at the hand-over instant, and a BASE_DT before the boundary sets GATE_LATE. -/
def swapPort (k b : Nat) (p : Nat) (s : State) : State :=
  let g := slotImg s k
  let r := lockRec g p
  let x := s.player p
  if iFld g r 15 1 = 0 then playWired (s.setPlayer p { x with slot := some k, base := b, hand := none }) p
  else
    let base := i32 g (r + 8) + 2 ^ 32 * i32 g (r + 12)
    let s := if base < b then s.setBit (Reg.genGateLate0 + 4 * (p / 32)) (p % 32) true else s
    let h := handDt b base (lockCycle g p)
    if h = b then playWired (s.setPlayer p { x with slot := some k, base := b, hand := none }) p
    else playWired (s.setPlayer p { x with hand := some h }) p

/-- ROUND_NS of the image in a slot. -/
def slotRound (s : State) (k : Nat) : Nat := i32 (slotImg s k) 0x0C

/-- The swap itself (R78, R88, R89): the armed slot becomes CURRENT and the one before DRAINING; the round, the players and
the registers follow. -/
def swapTo (s : State) (k b idx : Nat) : State :=
  let s := match curSlot s with
    | none => s
    | some o => setSlotState s o 5
  let s := setSlotState s k 4
  let s := s.setFlds Reg.genGenStat [(0, 1, 1), (4, 2, k), (8, 4, slotTag s k)]
  let s := { s with gen := { s.gen with bdy := b, announced := false, missed := false,
                                        swapAt := bankSet (fun _ => 0) s.gen.swapAt k b } }
  let s := (s.setNat Reg.genRoundNs (slotRound s k)).setPair Reg.genRoundIdxLo idx
  let s := s.setPair Reg.genNextBdyLo (b + slotRound s k)
  let s := (s.incWrap Reg.genSwapCnt).setPair Reg.genLastSwapLo b
  let s := (s.setFlds Reg.genArmStat [(4, 1, 0), (8, 1, 0)]).raise Reg.genIrqRaw 0
  let s := tapRecord s 1 6 (b % 2 ^ 48) (slotTag s k) (s.regN (Reg.genSlotSeq k)) (leBytes 8 idx)
  reviewHeld (s.each (List.range 66) (swapPort k b))

/-- The armed slot, if any. -/
def armedSlot (s : State) : Option Nat := (List.range 4).find? (fun k => decide (slotState s k = 3))

/-- The present round length (GEN.ROUND_NS). -/
def roundNs (s : State) : Nat := s.regN Reg.genRoundNs

/-- The round index. -/
def roundIdx (s : State) : Nat := s.pair Reg.genRoundIdxLo

/-- The DT of the next boundary of the current generation. -/
def nextBdy (s : State) : Nat := s.gen.bdy + roundNs s

/-- The first boundary whose arming time lies in the future, as its distance in rounds from the last boundary (R90). -/
def firstArmable (s : State) (lead : Nat) : Nat :=
  let r := max 1 (roundNs s)
  max 1 ((s.dt + lead - s.gen.bdy) / r + 1)

/-- The target of an armed swap fixed (R80, R89, R90): `next` takes the first boundary whose arming time is in the future;
otherwise ARM_ROUND, or that boundary with GEN_LATE where its arming time has passed. -/
def aimSwap (s : State) (k lead : Nat) (next : Bool) (want : Nat) : State :=
  match curSlot s with
  | none =>
    let r := max 1 (slotRound s k)
    let t := ceilDiv (s.dt + lead) r * r
    { s with gen := { s.gen with armLead := lead, tgtDt := t, armDt := t - lead } }.setPair Reg.genArmTgtLo (t / r)
  | some _ =>
    let d := signed 48 (((want : Int) - roundIdx s) % 2 ^ 48).toNat
    let m := firstArmable s lead
    let late := decide (d < m)
    let d := if next || late then m else d.toNat
    let t := s.gen.bdy + d * roundNs s
    let s := { s with gen := { s.gen with armLead := lead, tgtDt := t, armDt := t - lead } }.setPair Reg.genArmTgtLo
      (roundIdx s + d)
    if late && !next then s.raise Reg.genIrqRaw 1 else s

/-- GEN.ARM_LEAD; smaller values act as 2,000. -/
def armLead (s : State) : Nat := max 2000 (s.fld Reg.genArmLead 0 16)

/-- ARM_STAT.RESULT set. -/
def armResult (s : State) (r : Nat) : State := s.setFld Reg.genArmStat 0 3 r

/-- The effect of ARM (R78, R89, R90). -/
def armCmdArm (s : State) (k : Nat) (next : Bool) : State :=
  if slotState s k = 0 then armResult s 4
  else if (match armedSlot s with
    | some a => decide (a ≠ k)
    | none => false) then armResult s 2
  else if slotState s k ≠ 2 then armResult s 1
  else
    let s := (setSlotState s k 3).setFlds Reg.genArmStat [(0, 3, 0), (4, 1, 0), (8, 1, 1)]
    aimSwap s k (armLead s) next (s.pair Reg.genArmRoundLo)

/-- The effect of DISARM (R78, R79). -/
def armCmdDisarm (s : State) (k : Nat) : State :=
  if slotState s k = 0 then armResult s 4
  else if slotState s k ≠ 3 then armResult s 1
  else if s.gen.armDt ≤ s.dt then armResult s 3
  else (setSlotState s k 2).setFlds Reg.genArmStat [(0, 3, 0), (4, 1, 0), (8, 1, 0)]

/-- The effect of DISCARD (R78, R79). -/
def armCmdDiscard (s : State) (k : Nat) : State :=
  if slotState s k = 0 then armResult s 4
  else if slotState s k = 2 then armResult (freeSlot s k) 0
  else if slotState s k ≠ 3 then armResult s 1
  else if s.gen.armDt ≤ s.dt then armResult s 3
  else (freeSlot s k).setFlds Reg.genArmStat [(0, 3, 0), (4, 1, 0), (8, 1, 0)]

/-- The effect of a write to ARM_CMD. -/
def armCmd (s : State) (d : Word) : State :=
  match bitsOf d 4 2 with
  | 1 => armCmdArm s (bitsOf d 0 2) (bitOf d 8)
  | 2 => armCmdDisarm s (bitsOf d 0 2)
  | 3 => armCmdDiscard s (bitsOf d 0 2)
  | _ => s

/-- The word of ARM_CMD for a command. -/
def armWord (slot op : Nat) (next : Bool) : Word := BitVec.ofNat 32 (slot + 16 * op + 256 * bnat next)

/-- ARM (R78). -/
def execArm (time : Nat) (init : Init) (slot : Fin 4) (next : Bool) (s : State) : Host.Outcome State Fault Refusal :=
  let t := s.at time
  done s (busDo t init Reg.genArmCmd 4 (some (armWord slot 1 next)) (fun t => armCmdArm t slot next))

/-- DISARM (R78, R79). -/
def execDisarm (time : Nat) (init : Init) (slot : Fin 4) (s : State) : Host.Outcome State Fault Refusal :=
  let t := s.at time
  done s (busDo t init Reg.genArmCmd 4 (some (armWord slot 2 false)) (fun t => armCmdDisarm t slot))

/-- DISCARD (R78, R79). -/
def execDiscard (time : Nat) (init : Init) (slot : Fin 4) (s : State) : Host.Outcome State Fault Refusal :=
  let t := s.at time
  done s (busDo t init Reg.genArmCmd 4 (some (armWord slot 3 false)) (fun t => armCmdDiscard t slot))

/-- ARMING_TIME (R78, R80, R486): the armed slot is checked and locked, or the swap is cancelled and the slot freed. -/
def execArmingTime (time : Nat) (tableError : Bool) (s : State) : Host.Outcome State Fault Refusal :=
  let t := s.at time
  done s (match armedSlot t with
    | none => t
    | some k =>
      if islUp t 6 = false ∨ t.dt < t.gen.armDt ∨ t.bit Reg.genArmStat 4 = true then t
      else if tableError || (t.gen.bad ++ t.gen.lost).any (fun b => decide (b.1 = k)) then
        let u := (freeSlot t k).setFlds Reg.genArmStat [(4, 1, 0), (8, 1, 0)]
        raiseFault (u.raise Reg.genIrqRaw 7) 8 k .none 0
      else t.setBit Reg.genArmStat 4 true)

/-- BOUNDARY_ANNOUNCE (R60): 1 µs before a boundary the timebase announces it; it only confirms what players take from
DT. -/
def execBoundaryAnnounce (time : Nat) (s : State) : Host.Outcome State Fault Refusal :=
  let t := s.at time
  done s (if (curSlot t).isSome = true ∧ nextBdy t ≤ t.dt + 1000 then { t with gen := { t.gen with announced := true } } else t)

/-- FREED (R78): a draining slot without references that no player holds becomes FREE. -/
def execFreed (time : Nat) (slot : Fin 4) (s : State) : Host.Outcome State Fault Refusal :=
  let t := s.at time
  done s (if islUp t 6 = true ∧ slotState t slot = 5 ∧ t.regN (Reg.genSlotRef slot) = 0 ∧
      t.bit (Reg.genSlotStat slot) 16 = false then (freeSlot t slot).raise Reg.genIrqRaw 5 else t)

/-- PAGE_LOC as it reads now (R535): the place of the page that PAGE_QRY names. -/
def pageLoc (s : State) : Word :=
  let k := s.fld Reg.genPageQry 0 2
  if slotState s k = 0 then 0
  else match (slotPages s k)[s.fld Reg.genPageQry 8 12]? with
    | none => 0
    | some p => BitVec.ofNat 32 (p + 2 ^ 31)

/-- PAGE_QRY (R535). -/
def execPageQry (time : Nat) (init : Init) (data : Word) (s : State) : Host.Outcome State Fault Refusal :=
  let t := s.at time
  done s (busDo t init Reg.genPageQry 4 (some data) (fun t => plainWrite t Reg.genPageQry data))

/-- An uncorrectable table-store error in a page of a resident slot (R486, R494): the page is damaged and its refetch
starts. -/
def damagePage (s : State) (k page : Nat) : State :=
  if 2 ≤ slotState s k ∧ page < (slotPages s k).length ∧ (s.gen.bad ++ s.gen.lost).contains (k, page) = false then
    raiseFault { s with gen := { s.gen with bad := s.gen.bad ++ [(k, page)] } } 8 k .refetch page
  else s

/-- TABLE_SCRUB_PASS (GEN_CTRL.SCRUB_EN, R486): resident tables are read again and their CRCs checked; `err` is a page
found damaged. -/
def execTableScrubPass (time : Nat) (err : Option (Fin 4 × Fin 768)) (s : State) : Host.Outcome State Fault Refusal :=
  let t := s.at time
  done s (match err with
    | none => t
    | some (k, p) => if t.bit Reg.genGenCtrl 0 && islUp t 6 then damagePage t k p else t)

/-- GEN ready after a reset (R492): a swap whose target passed meanwhile takes the first boundary whose arming time is
still in the future, and GEN_LATE is set. -/
def genReady (s : State) : State :=
  match armedSlot s with
  | none => s
  | some k =>
    if s.gen.missed then
      let s := { s with gen := { s.gen with missed := false } }
      (aimSwap (s.setBit Reg.genArmStat 4 false) k s.gen.armLead true 0).raise Reg.genIrqRaw 1
    else s

end Sys2Proof.Machine
end

