-- ==== Sys2Proof/Machine/Parse.lean ====
section
/-! DEFINITION. The parse graph (R103 to R109, R536) and the lookup key (R112), and the walk of the decision table (R113
to R115). -/

namespace Sys2Proof.Machine

/-- A parse node (R104). -/
structure PNode where
  kind : Nat
  fixed : Nat
  lenOff : Nat
  lenShift : Nat
  lenMul : Nat
  lenMask : Nat
  nxtOff : Nat
  nxtShift : Nat
  nxtMask : Nat
  tBase : Nat
  tNum : Nat
  dflt : Nat
  extracts : List Nat
deriving DecidableEq, Repr

/-- Where node record `j` of a PARSE table lies. -/
def pNodeOff (t : Tbl) (j : Nat) : Nat := t.off + 16 + 32 * j

/-- Node record `j` of a PARSE table. -/
def pNode (g : Img) (t : Tbl) (j : Nat) : PNode :=
  let o := pNodeOff t j
  { kind := iFld g o 0 8, fixed := iFld g o 8 8, lenOff := iFld g (o + 4) 0 8, lenShift := iFld g (o + 4) 8 4,
    lenMul := iFld g (o + 4) 12 4, lenMask := iFld g (o + 4) 16 16, nxtOff := iFld g (o + 8) 0 8,
    nxtShift := iFld g (o + 8) 8 4, nxtMask := iFld g (o + 8) 16 16, tBase := iFld g (o + 12) 0 10,
    tNum := iFld g (o + 12) 10 6, dflt := iFld g (o + 12) 16 6,
    extracts := (List.range 8).map (fun e => i16 g (o + 16 + 2 * e)) }

/-- Where transition record `i` of a PARSE table lies. -/
def pTransOff (t : Tbl) (i : Nat) : Nat := t.off + 16 + 32 * t.count + 4 * i

/-- MAX_HDRS of a PARSE table. -/
def pMaxHdrs (g : Img) (t : Tbl) : Nat := iFld g t.off 0 4 + 1

/-- MAX_BYTES of a PARSE table: the parse window (R98, R104). -/
def pMaxBytes (g : Img) (t : Tbl) : Nat := min 256 (max 64 (iFld g t.off 16 9))

/-- The next node after a selector value: the first listed transition that matches, or DEFAULT (R105). -/
def pNext (g : Img) (t : Tbl) (n : PNode) (sel : Nat) : Nat :=
  match (List.range n.tNum).find? (fun i => decide (i16 g (pTransOff t (n.tBase + i)) = sel)) with
  | none => n.dflt
  | some i => iFld g (pTransOff t (n.tBase + i)) 16 6

/-- The key fields while a frame is parsed (R106, R112), and what the checks need of the headers before: the kind of the
header before, the IP headers so far, the version of the last one and the end it announces. -/
structure PKey where
  heads : List (Nat × Nat × Nat) := []
  tags : List Nat := []
  ether : Nat := 0
  ethSeen : Bool := false
  daKind : Nat := 0
  macDa : Nat := 0
  macSa : Nat := 0
  ipN : Nat := 0
  ipv6 : Bool := false
  lastV6 : Bool := false
  ipEnd : Option Nat := none
  need : Nat := 0
  proto : Nat := 0
  tos : Nat := 0
  fragSeen : Bool := false
  frag : Bool := false
  nonfirst : Bool := false
  srcA : Nat := 0
  dstA : Nat := 0
  sportSeen : Bool := false
  dportSeen : Bool := false
  sport : Nat := 0
  dport : Nat := 0
  flagSeen : Bool := false
  flags : Nat := 0
  tunSeen : Bool := false
  tunId : Nat := 0
  tunnel : Bool := false
  user : Bank Nat := []
  touched : List (Nat × Nat) := []
deriving DecidableEq, Repr

/-- One's-complement sum of 16-bit words. -/
def sum16 : List Nat → Nat
  | [] => 0
  | w :: r => let v := w + sum16 r; v % 65536 + v / 65536

/-- The 16-bit big-endian words of `n` bytes from `o`. -/
def words16 (b : List Byte) (o n : Nat) : List Nat := (List.range (n / 2)).map (fun i => beAt b (o + 2 * i) 2)

/-- The IPv4 header checksum is right. -/
def ipv4SumOk (b : List Byte) (o hl : Nat) : Bool := decide (sum16 (words16 b o hl) = 0xFFFF)

/-- The built-in checks of a header's kind (R106, R108), in the order of their causes: the cause of the first that fails.
`fend` is the end of the frame, none while a longer frame's end has not come (R111). -/
def kindCheck (b : List Byte) (k : PKey) (fend : Option Nat) (kind pos : Nat) : Option Nat :=
  let past : Nat → Bool := fun e => match fend with
    | none => false
    | some f => decide (f < e)
  if kind = 3 then
    let ihl := byteAt b pos % 16
    let tl := beAt b (pos + 2) 2
    if byteAt b pos / 16 ≠ 4 then some 1
    else if ihl < 5 ∨ tl < ihl * 4 then some 2
    else if ipv4SumOk b pos (ihl * 4) = false then some 3
    else if past (pos + tl) then some 4 else none
  else if kind = 4 then
    if byteAt b pos / 16 ≠ 6 then some 1
    else if past (pos + 40 + beAt b (pos + 4) 2) then some 4 else none
  else if kind = 7 then
    if byteAt b (pos + 12) / 16 < 5 then some 5 else none
  else if kind = 8 then
    let l := beAt b (pos + 4) 2
    let fits := match k.ipEnd with
      | some e => decide (pos + l ≤ e)
      | none => !past (pos + l)
    if l < 8 ∨ fits = false then some 5 else none
  else none

/-- FRAG and NONFIRST filled by the first header that fills them. -/
def fillFrag (k : PKey) (frag nonfirst : Bool) : PKey :=
  if k.fragSeen then k else { k with fragSeen := true, frag := frag, nonfirst := nonfirst }

/-- TUNNEL_ID filled by the first header that fills it. -/
def fillTunnel (k : PKey) (v : Nat) : PKey := if k.tunSeen then k else { k with tunSeen := true, tunId := v }

/-- SRC_PORT filled by the first header that fills it. -/
def fillSport (k : PKey) (v : Nat) : PKey := if k.sportSeen then k else { k with sportSeen := true, sport := v }

/-- SRC_PORT and DST_PORT, each filled by the first header that fills it. -/
def fillPorts (k : PKey) (sp dp : Nat) : PKey :=
  let k := fillSport k sp
  if k.dportSeen then k else { k with dportSeen := true, dport := dp }

/-- An IP header's key fields. -/
def fillIp (k : PKey) (v6 : Bool) (src dst proto tos ipEnd : Nat) : PKey :=
  let k := { k with tunnel := k.tunnel || decide (0 < k.ipN), lastV6 := v6, ipEnd := some ipEnd, need := max k.need ipEnd }
  let k := if k.ipN = 0 then { k with ipv6 := v6, srcA := src, dstA := dst, proto := proto, tos := tos } else k
  { k with ipN := k.ipN + 1 }

/-- An EtherType seen before the first IP header. -/
def fillEther (k : PKey) (e : Nat) : PKey := if k.ipN = 0 then { k with ether := e } else k

/-- The key fields a header of a kind fills (R106). -/
def kindFill (b : List Byte) (kind pos : Nat) (k : PKey) : PKey :=
  let be := fun o n => beAt b (pos + o) n
  match kind with
  | 1 =>
    let k := fillEther k (be 12 2)
    if k.ethSeen then k
    else
      let da := be 0 6
      { k with ethSeen := true, macDa := da, macSa := be 6 6,
               daKind := if da = 2 ^ 48 - 1 then 2 else if be 0 1 % 2 = 1 then 1 else 0 }
  | 2 => fillEther (if k.tags.length < 2 then { k with tags := k.tags ++ [be 0 2] } else k) (be 2 2)
  | 3 =>
    let f := be 6 2
    fillFrag (fillIp k false (be 12 4) (be 16 4) (be 9 1) (be 1 1) (pos + be 2 2))
      (decide (f % 8192 ≠ 0) || decide (f / 8192 % 2 = 1)) (decide (f % 8192 ≠ 0))
  | 4 => fillIp k true (be 8 16) (be 24 16) (be 6 1) (be 0 2 / 16 % 256) (pos + 40 + be 4 2)
  | 5 => if k.ipN = 1 then { k with proto := be 0 1 } else k
  | 6 =>
    let k := if k.ipN = 1 then { k with proto := be 0 1 } else k
    let f := be 2 2
    fillFrag k (decide (f / 8 ≠ 0) || decide (f % 2 = 1)) (decide (f / 8 ≠ 0))
  | 7 =>
    let k := fillPorts k (be 0 2) (be 2 2)
    if k.flagSeen then k else { k with flagSeen := true, flags := be 13 1 }
  | 8 => fillPorts k (be 0 2) (be 2 2)
  | 9 =>
    let ty := be 0 1
    if (if k.lastV6 then ty = 128 ∨ ty = 129 else ty = 8 ∨ ty = 0) then fillSport k (be 4 2) else k
  | 10 =>
    let f := be 0 1
    if f / 32 % 2 = 1 then fillTunnel k (be (if f / 128 = 1 then 8 else 4) 4) else k
  | 11 => fillTunnel k (be 4 3)
  | 12 => fillTunnel k (be 4 3)
  | _ => k

/-- A tunnel kind. -/
def isTunnelKind (kind : Nat) : Bool := decide (kind = 10) || decide (kind = 11) || decide (kind = 12)

/-- The header's fragment is not the first one, which ends the parse (R106). -/
def endsParse (b : List Byte) (kind pos : Nat) : Bool :=
  (decide (kind = 3) && decide (beAt b (pos + 6) 2 % 8192 ≠ 0)) ||
    (decide (kind = 6) && decide (beAt b (pos + 2) 2 / 8 ≠ 0))

/-- The extracts of a header (R105); a byte that lies beyond the bytes the engine reads is not copied. -/
def doExtracts (b : List Byte) (pos lim : Nat) (l : List Nat) (k : PKey) : PKey :=
  l.foldl (fun k e =>
    if nbits e 15 1 = 1 ∧ pos + nbits e 0 8 < lim then
      { k with user := bankSet (fun _ => 0) k.user (nbits e 8 3) (byteAt b (pos + nbits e 0 8)) }
    else k) k

/-- How a parse ends: the verdict by the code of Parsed, and the cause. -/
abbrev PEnd := Nat × Nat × PKey

/-- Whether a header that ends at `e` runs past the frame (cause PAST_END) or past the window (DEEP), the frame first
(R109, R536). -/
def extentEnd (fend : Option Nat) (win e : Nat) : Option (Nat × Nat) :=
  if (match fend with
    | none => false
    | some f => decide (f < e)) then some (2, 0)
  else if win < e then some (1, 0)
  else none

/-- The computed length of a header at `pos` (R104). -/
def hdrLen (b : List Byte) (p : PNode) (pos : Nat) : Nat :=
  p.fixed + ((beAt b (pos + p.lenOff) 2 >>> p.lenShift) &&& p.lenMask) * p.lenMul

/-- The extent of a header at `pos` (R536): the larger of its computed length and the end of the fields its node reads. A
length field that cannot be read leaves the fixed part. -/
def headExtent (b : List Byte) (fend : Option Nat) (win : Nat) (p : PNode) (pos : Nat) : Nat :=
  let el := if p.lenMul = 0 then 0 else p.lenOff + 2
  let len := if (extentEnd fend win (pos + el)).isSome then p.fixed else hdrLen b p pos
  max (max el (if p.tNum = 0 then 0 else p.nxtOff + 2)) len

/-- The walk over the parse graph (R105 to R109, R536) from a node at a position, with the headers still allowed. -/
def parseWalk (g : Img) (t : Tbl) (b : List Byte) (fend : Option Nat) (long : Bool) (win : Nat) :
    Nat → Nat → Nat → PKey → PEnd
  | 0, node, _, k => if node = 63 then (0, 0, k) else (1, 0, k)
  | n + 1, node, pos, k =>
    if node = 63 then (0, 0, k)
    else
      let p := pNode g t node
      let k := { k with touched := k.touched ++ [(pNodeOff t node, 32)] ++
        (if p.tNum = 0 then [] else [(pTransOff t p.tBase, 4 * p.tNum)]) }
      let x := headExtent b fend win p pos
      match extentEnd fend win (pos + x) with
      | some (v, c) => (v, c, k)
      | none =>
        if hdrLen b p pos = 0 then (2, 6, k)
        else
          match kindCheck b k (if long then none else fend) p.kind pos with
          | some c => (2, c, k)
          | none =>
            let tun := match k.heads.getLast? with
              | none => false
              | some h => isTunnelKind h.1
            let k := { k with tunnel := k.tunnel || tun }
            let k := kindFill b p.kind pos { k with heads := k.heads ++ [(p.kind, pos, x)] }
            let lim := match fend with
              | none => win
              | some f => min win f
            let k := doExtracts b pos lim p.extracts k
            if endsParse b p.kind pos then (0, 0, k)
            else
              let nx := if p.tNum = 0 then p.dflt
                else pNext g t p ((beAt b (pos + p.nxtOff) 2 >>> p.nxtShift) &&& p.nxtMask)
              parseWalk g t b fend long win n nx (pos + x) k

/-- The 80-byte lookup key (R112). -/
def keyBytes (k : PKey) (verdict inPort : Nat) (second : Bool) (tunnelId sta tid : Nat) : List Byte :=
  let state := verdict % 16 + 16 * bnat second + 32 * bnat k.tunnel + 64 * bnat k.frag + 128 * bnat k.nonfirst
  let info := k.heads.length % 32 + 32 * k.daKind + 128 * bnat k.ipv6
  beBytes 1 (inPort % 128) ++ beBytes 1 state ++ beBytes 2 (k.tags.getD 0 0) ++ beBytes 2 (k.tags.getD 1 0) ++
    beBytes 2 k.ether ++ beBytes 1 k.proto ++ beBytes 1 k.tos ++ beBytes 2 k.sport ++ beBytes 2 k.dport ++
    beBytes 1 k.flags ++ beBytes 1 info ++ beBytes 16 k.srcA ++ beBytes 16 k.dstA ++ beBytes 4 tunnelId ++
    beBytes 2 (sta % 4096 + 4096 * (tid % 16)) ++ beBytes 2 0 ++
    (List.range 8).map (fun i => BitVec.ofNat 8 (bankGet (fun _ => 0) k.user i)) ++
    beBytes 6 k.macDa ++ beBytes 6 k.macSa ++ beBytes 4 0

/-- A frame parsed under an image (R107 to R112): `whole` says whether its end word has come. The checks that need the end
of a frame longer than the parse window wait for its end word (R111). -/
def parseFrame (g : Img) (data : List Byte) (whole second : Bool) (inPort tunnel sta tid : Nat) : Parsed :=
  let t := iTbl g 0x01
  let win := pMaxBytes g t
  let fend := if whole then some (data.length - 4) else none
  let long := !whole || decide (win < data.length)
  let (v, c, k) := parseWalk g t (data.take win) fend long win (pMaxHdrs g t) (iFld g (t.off + 4) 0 6) 0 {}
  let tid' := if second then tunnel else k.tunId
  { verdict := v, cause := c, key := keyBytes k v inPort second tid' sta tid, heads := k.heads, need := k.need,
    tunnelId := tid', touched := (t.off, 16) :: k.touched }

/-- Where level record `d` of a CLASS table lies (R113). -/
def clsLevel (g : Img) (t : Tbl) (d : Nat) : Nat := t.off + i32 g (t.off + 0x14) + 16 * d

/-- The number of levels of a CLASS table. -/
def clsLevels (g : Img) (t : Tbl) : Nat := iFld g t.off 0 4 + 1

/-- The bits of a key, most significant first (R112). -/
def keyBits (key : List Byte) (off width : Nat) : Nat := nbits (beAt key 0 80) (640 - off - width) width

/-- R115: the walk of the decision diagram from a node of level `d`, with the levels left: the action index, and the image
bytes read. -/
def classWalk (g : Img) (t : Tbl) (key : List Byte) : Nat → Nat → Nat → List (Nat × Nat) → Nat × List (Nat × Nat)
  | 0, _, _, tr => (0, tr)
  | n + 1, d, node, tr =>
    let l := clsLevel g t d
    let no := t.off + i32 g l + 4 * node
    let v := keyBits key (iFld g no 0 10) (iFld g no 10 4 + 1)
    let po := t.off + i32 g (l + 8) + 4 * (iFld g no 14 18 + v)
    let tr := tr ++ [(l, 16), (no, 4), (po, 4)]
    if iFld g po 31 1 = 1 then (iFld g po 0 16, tr) else classWalk g t key n (d + 1) (iFld g po 0 18) tr

/-- The action of a frame that reaches the decision table: DEEP_ACT, or the walk's (R113, R115). -/
def classify (g : Img) (p : Parsed) : Nat × List (Nat × Nat) :=
  let t := iTbl g 0x02
  if p.verdict = 1 then (i16 g (t.off + 2), [(t.off, 64)])
  else classWalk g t p.key (clsLevels g t) 0 0 [(t.off, 64)]

/-- Where action record `i` of a CLASS table lies (R116). -/
def actOff (g : Img) (i : Nat) : Nat := let t := iTbl g 0x02; t.off + i32 g (t.off + 8) + 16 * i

end Sys2Proof.Machine
end

