-- ==== Sys2Proof/Machine/Route.lean ====
section
/-! DEFINITION. Rewriting a frame (R124 to R128, R139), the route lookup (R125, R126) and NAT44 (R129 to R135, R141). -/

namespace Sys2Proof.Machine

/-- Bytes of a frame replaced from a position on. -/
def setBytes (b : List Byte) (pos : Nat) (v : List Byte) : List Byte := b.take pos ++ v ++ b.drop (pos + v.length)

/-- An Internet checksum updated for words replaced (R127): the incremental form over (old, new) pairs. -/
def sumUpdate (c : Nat) (l : List (Nat × Nat)) : Nat :=
  0xFFFF - sum16 ((0xFFFF - c) :: l.flatMap (fun p => [0xFFFF - p.1, p.2]))

/-- The first IP header parsed. -/
def firstIp (heads : List (Nat × Nat × Nat)) : Option (Nat × Nat × Nat) :=
  heads.find? (fun h => decide (h.1 = 3) || decide (h.1 = 4))

/-- The L4 header of the first IP header: the first TCP, UDP or ICMP header after it and before another IP header. -/
def firstL4 (heads : List (Nat × Nat × Nat)) : Option (Nat × Nat × Nat) :=
  let after := (heads.dropWhile (fun h => decide (h.1 ≠ 3) && decide (h.1 ≠ 4))).drop 1
  (after.takeWhile (fun h => decide (h.1 ≠ 3) && decide (h.1 ≠ 4))).find? (fun h =>
    decide (h.1 = 7) || decide (h.1 = 8) || decide (h.1 = 9))

/-- A frame being rewritten: its bytes and its headers. -/
structure Rw where
  b : List Byte
  heads : List (Nat × Nat × Nat)
deriving DecidableEq, Repr

/-- The L4 header whose ports NAT uses: TCP, UDP or an ICMP echo message (R130). -/
def natL4 (r : Rw) : Option (Nat × Nat × Nat) :=
  match firstL4 r.heads with
  | some (9, q, l) => if byteAt r.b q = 8 ∨ byteAt r.b q = 0 then some (9, q, l) else none
  | x => x

/-- The first Ethernet header parsed. -/
def firstEth (heads : List (Nat × Nat × Nat)) : Option Nat :=
  match heads.find? (fun h => decide (h.1 = 1)) with
  | none => none
  | some h => some h.2.1

/-- Every header moved by `d` bytes where it starts at or after `from`. -/
def moveHeads (heads : List (Nat × Nat × Nat)) (start : Nat) (d : Int) : List (Nat × Nat × Nat) :=
  heads.map (fun h => if start ≤ h.2.1 then (h.1, ((h.2.1 : Int) + d).toNat, h.2.2) else h)

/-- The EtherType of the inner IP version (R139): that of the first IP header left, by the version nibble in front where the
parse went no further, and `free` where neither is an IP header: the rule states no value there. -/
def innerEther (left : List (Nat × Nat × Nat)) (nibble free : Nat) : Nat :=
  match firstIp left with
  | some (3, _) => 0x0800
  | some _ => 0x86DD
  | none => if left ≠ [] then free else if nibble = 4 then 0x0800 else if nibble = 6 then 0x86DD else free

/-- R139: the first `n` headers stripped, none where the frame has fewer. With a header other than ETH left in front, the outer
Ethernet header and the VLAN tags that follow it stay, with the EtherType of the inner IP version; a frame without an
Ethernet header among those stripped keeps none. -/
def stripHdrs (r : Rw) (n free : Nat) : Option Rw :=
  if r.heads.length < n then none
  else
    let gone := r.heads.take n
    let last := gone.getLast?.getD (0, 0, 0)
    let start := match r.heads[n]? with
      | some h => h.2.1
      | none => last.2.1 + last.2.2
    let eth := if r.heads[n]?.map (·.1) = some 1 then [] else gone.dropWhile (fun h => decide (h.1 ≠ 1))
    match eth with
    | [] => some ⟨r.b.drop start, moveHeads (r.heads.drop n) 0 (-(start : Int))⟩
    | (_, p, l) :: _ =>
      let tags := ((r.heads.dropWhile (fun h => decide (h.1 ≠ 1))).drop 1).takeWhile (fun h => decide (h.1 = 2))
      let l2 := match tags.getLast? with
        | none => p + l
        | some h => h.2.1 + h.2.2
      let start := max start l2
      let left := (r.heads.drop n).filter (fun h => decide (l2 ≤ h.2.1))
      let e := innerEther left (byteAt r.b start / 16) free
      some ⟨(r.b.take (l2 - 2)).drop p ++ beBytes 2 e ++ r.b.drop start,
        moveHeads ((1, p, l) :: tags) 0 (-(p : Int)) ++ moveHeads left 0 ((l2 : Int) - p - start)⟩

/-- The TPID of a pushed tag (IEEE 802.1Q). -/
def tpid : Nat := 0x8100

/-- VLAN_OP: 1 push, 2 pop the outer tag, 3 replace the outer VID; none where the frame lacks the header it needs. -/
def vlanOp (r : Rw) (op vid pcp : Nat) : Option Rw :=
  if op = 0 then some r
  else match firstEth r.heads with
    | none => none
    | some p =>
      if op = 1 then
        some ⟨r.b.take (p + 12) ++ beBytes 2 tpid ++ beBytes 2 (vid + 8192 * pcp) ++ r.b.drop (p + 12),
          moveHeads r.heads (p + 1) 4⟩
      else match r.heads.find? (fun h => decide (h.1 = 2) && decide (h.2.1 = p + 14)) with
        | none => none
        | some h =>
          if op = 2 then
            some ⟨r.b.take (p + 12) ++ r.b.drop (p + 16),
              moveHeads (r.heads.filter (fun x => decide (x ≠ h))) (p + 1) (-4)⟩
          else some { r with b := setBytes r.b h.2.1 (beBytes 2 (beAt r.b h.2.1 2 / 4096 * 4096 + vid)) }

/-- SET_DSCP on the first IP header; none where the frame has none. -/
def setDscp (r : Rw) (dscp : Nat) : Option Rw :=
  match firstIp r.heads with
  | none => none
  | some (3, p, _) =>
    let old := beAt r.b p 2
    let new := old / 256 * 256 + 4 * dscp + old % 4
    let b := setBytes r.b p (beBytes 2 new)
    some { r with b := setBytes b (p + 10) (beBytes 2 (sumUpdate (beAt b (p + 10) 2) [(old, new)])) }
  | some (_, p, _) =>
    let old := beAt r.b p 2
    some { r with b := setBytes r.b p (beBytes 2 (old / 4096 * 4096 + 64 * dscp + old % 64)) }

/-- One address or port of an IPv4 frame translated (R127): the bytes replaced, and the IPv4, TCP, UDP and ICMP checksums
brought up to date; a UDP checksum of 0 stays 0. -/
def natField (r : Rw) (src : Bool) (addr port : Nat) : Rw :=
  match firstIp r.heads with
  | some (3, p, _) =>
    let ao := p + (if src then 12 else 16)
    let oldA := [(beAt r.b ao 2, addr / 65536), (beAt r.b (ao + 2) 2, addr % 65536)]
    let b := setBytes r.b ao (beBytes 4 addr)
    let b := setBytes b (p + 10) (beBytes 2 (sumUpdate (beAt b (p + 10) 2) oldA))
    match natL4 r with
    | none => { r with b := b }
    | some (k, q, _) =>
      let po := q + (if k = 9 then 4 else if src then 0 else 2)
      let so := q + (if k = 7 then 16 else if k = 8 then 6 else 2)
      let c := beAt b so 2
      let oldP := [(beAt b po 2, port)]
      let b := setBytes b po (beBytes 2 port)
      let v := sumUpdate c (if k = 9 then oldP else oldA ++ oldP)
      if k = 8 then
        if c = 0 then { r with b := b } else { r with b := setBytes b so (beBytes 2 (if v = 0 then 0xFFFF else v)) }
      else { r with b := setBytes b so (beBytes 2 v) }
  | _ => r

/-- The addresses, ports and protocol of an IPv4 frame as NAT keys use them (R130): an ICMP echo identifier serves as both
ports, and a frame without an L4 header has ports 0. -/
def natTuple (r : Rw) : Option (Nat × Nat × Nat × Nat × Nat) :=
  match firstIp r.heads with
  | some (3, p, _) =>
    let pr := byteAt r.b (p + 9)
    let (sp, dp) := match natL4 r with
      | none => (0, 0)
      | some (9, q, _) => (beAt r.b (q + 4) 2, beAt r.b (q + 4) 2)
      | some (_, q, _) => (beAt r.b q 2, beAt r.b (q + 2) 2)
    some (beAt r.b (p + 12) 4, beAt r.b (p + 16) 4, sp, dp, pr)
  | _ => none

/-- The frame is a fragment: of IPv4, as the key's FRAG flag says. -/
def isFrag (r : Rw) : Bool :=
  match firstIp r.heads with
  | some (3, p, _) => let f := beAt r.b (p + 6) 2; decide (f % 8192 ≠ 0) || decide (f / 8192 % 2 = 1)
  | _ => false

/-- A session of the table. -/
def session (s : State) (i : Nat) : Option Session := bankGet (fun _ => none) s.pp.sessions i

/-- A session replaced; NAT_COUNT follows. -/
def setSession (s : State) (i : Nat) (x : Option Session) : State :=
  let s := { s with pp := { s.pp with sessions := bankSet (fun _ => none) s.pp.sessions i x } }
  s.setFld Reg.ppNatCount 0 17 s.pp.sessions.length

/-- The first session that a test holds for. -/
def findSession (s : State) (p : Session → Bool) : Option (Nat × Session) :=
  match s.pp.sessions.find? (fun e => match e.2 with
    | none => false
    | some x => p x) with
  | some (i, some x) => some (i, x)
  | _ => none

/-- The session of an outbound key (inside, remote). -/
def sessionOut (s : State) (k : Nat × Nat × Nat × Nat × Nat) : Option (Nat × Session) :=
  findSession s (fun x => decide ((x.inside, x.remote, x.iport, x.rport, x.proto) = k))

/-- The session of an inbound key (remote, outside). -/
def sessionIn (s : State) (k : Nat × Nat × Nat × Nat × Nat) : Option (Nat × Session) :=
  findSession s (fun x => decide ((x.remote, x.outside, x.rport, x.oport, x.proto) = k))

/-- The second of DT of a session's hit recorded (R134). -/
def hitSession (s : State) (i : Nat) (x : Session) : State := setSession s i (some { x with last := s.dt / 10 ^ 9 })

/-- Where binding `i` of a NAT44 table lies (R129). -/
def bindOff (g : Img) (t : Tbl) (i : Nat) : Nat := t.off + i32 g (t.off + 4) + 16 * i

/-- The first binding that matches an address, port and protocol on its inside or its outside (R129, R131). -/
def findBinding (g : Img) (inside : Bool) (addr port proto : Nat) : Option Nat :=
  let t := iTbl g 0x06
  (List.range t.count).find? (fun i =>
    let o := bindOff g t i
    decide (i32 g (if inside then o else o + 4) = addr) &&
      (!decide (i8 g (o + 13) % 2 = 1) ||
        (decide (i16 g (if inside then o + 8 else o + 10) = port) && decide (i8 g (o + 12) = proto))))

/-- The destination is a pool address with a port from PORT_LO to PORT_HI (R131). -/
def inPool (g : Img) (addr port : Nat) : Bool :=
  let t := iTbl g 0x06
  (List.range (if t.len = 0 then 0 else i8 g t.off)).any (fun i =>
    let o := t.off + i32 g (t.off + 8) + 16 * i
    decide (i32 g o = addr) && decide (i16 g (o + 4) ≤ port) && decide (port ≤ i16 g (o + 6)))

/-- The image bytes a NAT lookup in the table reads. -/
def natTouched (g : Img) : List (Nat × Nat) :=
  let t := iTbl g 0x06
  if t.len = 0 then [] else [(t.off, t.len)]

/-- The port a binding gives: its own with PORTS, else the frame's. -/
def bindPort (g : Img) (o off port : Nat) : Nat := if i8 g (o + 13) % 2 = 1 then i16 g (o + off) else port

/-- SNAT (R131): the source translated by a session, or by the first binding; none diverts with NAT_MISS. -/
def snat (s : State) (g : Img) (r : Rw) : Option (Rw × State) :=
  match natTuple r with
  | none => none
  | some (sa, da, sp, dp, pr) =>
    match sessionOut s (sa, da, sp, dp, pr) with
    | some (i, x) => some (natField r true x.outside x.oport, hitSession s i x)
    | none =>
      match findBinding g true sa sp pr with
      | none => none
      | some i =>
        let o := bindOff g (iTbl g 0x06) i
        some (natField r true (i32 g (o + 4)) (bindPort g o 10 sp), s)

/-- DNAT (R131): the destination translated by a session, or by the first binding; none drops a frame for a pool address;
any other frame goes on untranslated. -/
def dnat (s : State) (g : Img) (r : Rw) : Option (Rw × State) :=
  match natTuple r with
  | none => none
  | some (sa, da, sp, dp, pr) =>
    match sessionIn s (sa, da, sp, dp, pr) with
    | some (i, x) => some (natField r false x.inside x.iport, hitSession s i x)
    | none =>
      match findBinding g false da dp pr with
      | some i =>
        let o := bindOff g (iTbl g 0x06) i
        some (natField r false (i32 g o) (bindPort g o 8 dp), s)
      | none => if inPool g da dp then none else some (r, s)

/-- The host entry of an address in one bucket of a route table (R125, R126), as its next hop. -/
def hostFind (g : Img) (t : Tbl) (n esz addr bucket : Nat) : Option Nat :=
  let o := fun e => t.off + i32 g (t.off + 8) + (4 * bucket + e) * esz
  match (List.range 4).find? (fun e =>
    decide (i16 g (o e + n + 2) % 2 = 1) && decide (iLe g (o e) n = addr)) with
  | none => none
  | some e => some (i16 g (o e + n))

/-- The walk of the prefix tree (R126): from node `node` of level `d` with the levels left, the next hop, none on a miss,
and the image bytes read. -/
def treeWalk (g : Img) (t : Tbl) (n addr levels : Nat) : Nat → Nat → List (Nat × Nat) → Option Nat × List (Nat × Nat)
  | 0, _, tr => (none, tr)
  | k + 1, node, tr =>
    let d := levels - (k + 1)
    let l := t.off + i32 g (t.off + 12) + 8 * d
    let sz := if n = 4 then 128 else 320
    let o := t.off + i32 g l + sz * node
    let tr := tr ++ [(l, 8), (o, sz)]
    let j := ((List.range (iFld g o 0 4)).filter (fun i => decide (iLe g (o + n + n * i) n ≤ addr))).length
    let r := i16 g (o + (if n = 4 then 64 else 256) + 2 * j)
    if k = 0 then (if r = 0xFFFF then none else some r, tr) else treeWalk g t n addr levels k r tr

/-- R126: the next hop of an address of `n` bytes in ROUTE4 or ROUTE6, none on a miss, and the image bytes read. An absent
table is empty (R66), so every address misses. The address is hashed in network byte order (notes/assumptions/203.md). -/
def routeLookup (g : Img) (n addr : Nat) : Option Nat × List (Nat × Nat) :=
  let t := iTbl g (if n = 4 then 0x04 else 0x05)
  if t.len = 0 then (none, []) else
  let esz := if n = 4 then 8 else 24
  let h := crc32c (beBytes n addr) ^^^ i32 g t.off
  let tr := [(t.off, 64)] ++ [nbits h 0 12, nbits h 16 12].map (fun b => (t.off + i32 g (t.off + 8) + 4 * b * esz, 4 * esz))
  match hostFind g t n esz addr (nbits h 0 12) with
  | some e => (some e, tr)
  | none =>
    match hostFind g t n esz addr (nbits h 16 12) with
    | some e => (some e, tr)
    | none =>
      let levels := iFld g (t.off + 4) 0 2 + 1
      treeWalk g t n addr levels levels 0 tr

/-- Where next-hop record `i` lies (R127). -/
def hopOff (g : Img) (n i : Nat) : Nat :=
  let t := iTbl g (if n = 4 then 0x04 else 0x05)
  t.off + i32 g (t.off + 16) + 16 * i

/-- The MAC addresses written and the TTL or hop limit decremented (R127); none without an Ethernet header. -/
def routeWrite (g : Img) (hop : Nat) (r : Rw) : Option Rw :=
  match firstEth r.heads, firstIp r.heads with
  | some e, some (k, p, _) =>
    let b := setBytes (setBytes r.b e (iBytes g hop 6)) (e + 6) (iBytes g (hop + 6) 6)
    if k = 3 then
      let old := beAt b (p + 8) 2
      let b := setBytes b (p + 8) (beBytes 2 (old - 256))
      some { r with b := setBytes b (p + 10) (beBytes 2 (sumUpdate (beAt b (p + 10) 2) [(old, old - 256)])) }
    else some { r with b := setBytes b (p + 7) (beBytes 1 (byteAt b (p + 7) - 1)) }
  | _, _ => none

/-- The TTL or hop limit of the first IP header. -/
def frameTtl (r : Rw) : Nat :=
  match firstIp r.heads with
  | some (3, p, _) => byteAt r.b (p + 8)
  | some (_, p, _) => byteAt r.b (p + 7)
  | none => 0

/-- The length that the MTU bounds (R128): the outermost IP length and the layer-2 header before it. -/
def frameLen (r : Rw) : Nat :=
  match firstIp r.heads with
  | some (3, p, _) => p + beAt r.b (p + 2) 2
  | some (_, p, _) => p + 40 + beAt r.b (p + 4) 2
  | none => 0

/-- What becomes of a forwarded frame: dropped and counted at a register, diverted with a cause (R118), dropped for a
damaged page (R494), or sent on. -/
inductive FwdRes
  | drop (reg : Nat)
  | divert (cause : Nat)
  | damaged
  | go (b : List Byte) (fq : Nat) (recirc : Bool)
deriving DecidableEq, Repr

/-- Image bytes read that lie in a damaged page of slot `k` (R494). -/
def touchesBad (s : State) (k : Nat) (l : List (Nat × Nat)) : Bool :=
  l.any (fun e => (s.gen.bad ++ s.gen.lost).any (fun b =>
    decide (b.1 = k) && decide (e.1 / 4096 ≤ b.2) && decide (b.2 ≤ (e.1 + e.2 - 1) / 4096) && decide (0 < e.2)))

/-- A lookup in GEN with a request of `n` bytes: one packet over PD29, and one result over PD30 (R33, R115;
notes/assumptions/197.md). -/
def lookup (s : State) (n : Nat) : State :=
  let w := max 1 (s.fld (Reg.topPndGeom 29) 16 7)
  transit (transit s 29 ((n + w - 1) / w) 1) 30 1 1

/-- VLAN_OP, SET_DSCP and the MTU check, which end every rewrite (R124, R128). -/
def rwFinish (g : Img) (o : Nat) (r : Rw) (mtu fq : Nat) (recirc : Bool) : FwdRes :=
  match vlanOp r (iFld g o 4 4) (iFld g (o + 4) 0 12) (iFld g (o + 4) 12 3) with
  | none => .drop Reg.ppDropRewrite
  | some r =>
    match (if iFld g o 8 1 = 1 then setDscp r (iFld g o 16 6) else some r) with
    | none => .drop Reg.ppDropRewrite
    | some r => if mtu ≠ 0 ∧ mtu < frameLen r then .divert 3 else .go r.b fq recirc

/-- The route of a frame and the SNAT that may follow it (R126 to R128, R131). -/
def rwRoute (s : State) (g : Img) (k o : Nat) (r : Rw) (doSnat recirc : Bool) : State × FwdRes :=
  match firstIp r.heads with
  | none => (s, .drop Reg.ppDropRewrite)
  | some (kind, p, _) =>
    let n := if kind = 3 then 4 else 16
    let (nh, tr) := routeLookup g n (if kind = 3 then beAt r.b (p + 16) 4 else beAt r.b (p + 24) 16)
    let s := lookup s n
    if touchesBad s k tr then (s, .damaged)
    else match nh with
      | none =>
        let t := iTbl g (if n = 4 then 0x04 else 0x05)
        if t.len ≠ 0 ∧ i8 g (t.off + 5) % 2 = 1 then (s, .divert 5)
        else (s, .drop Reg.ppDropRoute)
      | some h =>
        let ho := hopOff g n h
        let fq := iFld g (ho + 12) 0 15
        let isLocal := decide (iFld g (ho + 12) 15 1 = 1)
        let mtu := if isLocal then 0 else nbits (i16 g (ho + 14)) 0 14
        let recirc := recirc || decide (nbits (i16 g (ho + 14)) 14 1 = 1)
        if touchesBad s k [(ho, 16)] then (s, .damaged)
        else if !isLocal && decide (frameTtl r ≤ 1) then (s.inc Reg.ppTtlCnt, .divert 1)
        else match (if isLocal then some r else routeWrite g ho r) with
          | none => (s, .drop Reg.ppDropRewrite)
          | some r =>
            if doSnat then
              if (natTuple r).isNone then (s, .drop Reg.ppDropRewrite)
              else if isFrag r then (s, .divert 4)
              else if touchesBad s k (natTouched g) then (s, .damaged)
              else match snat (lookup s 13) g r with
                | none => (lookup s 13, .divert 2)
                | some (r, s) => (s, rwFinish g o r mtu fq recirc)
            else (s, rwFinish g o r mtu fq recirc)

/-- R124: a rewrite record applied to a forwarded frame of slot `k`, whose action names flow queue `fq`. -/
def rewrite (s : State) (g : Img) (k rw fq : Nat) (r : Rw) : State × FwdRes :=
  if rw = 0 then (s, .go r.b fq false)
  else
    let o := (iTbl g 0x03).off + 16 * (rw - 1)
    let recirc := decide (iFld g o 9 1 = 1)
    if touchesBad s k [(o, 16)] then (s, .damaged)
    else match iFld g o 0 4 with
      | 1 => rwRoute s g k o r false recirc
      | 2 => rwRoute s g k o r true recirc
      | 3 =>
        if (natTuple r).isNone then (s, .drop Reg.ppDropRewrite)
        else if isFrag r then (s, .divert 4)
        else if touchesBad s k (natTouched g) then (s, .damaged)
        else match dnat (lookup s 13) g r with
          | none => ((lookup s 13), .drop Reg.ppDropNat)
          | some (r, s) => rwRoute s g k o r false recirc
      | 4 =>
        let (free, s) := s.drawNat
        match stripHdrs r (iFld g o 12 4) (free % 65536) with
        | none => (s, .drop Reg.ppDropRewrite)
        | some r => (s, rwFinish g o r 0 fq true)
      | _ => (s, rwFinish g o r 0 fq recirc)

/-- The bucket of a NAT key (R130). -/
def natBucket (s : State) (k : Nat × Nat × Nat × Nat × Nat) : Nat :=
  nbits (crc32c (beBytes 4 k.1 ++ beBytes 4 k.2.1 ++ beBytes 2 k.2.2.1 ++ beBytes 2 k.2.2.2.1 ++ beBytes 1 k.2.2.2.2)
    ^^^ s.regN Reg.ppNatSeed) 0 14

/-- The outbound key of a session. -/
def keyOut (x : Session) : Nat × Nat × Nat × Nat × Nat := (x.inside, x.remote, x.iport, x.rport, x.proto)

/-- The inbound key of a session. -/
def keyIn (x : Session) : Nat × Nat × Nat × Nat × Nat := (x.remote, x.outside, x.rport, x.oport, x.proto)

/-- The keys of every session. -/
def natKeys (s : State) : List (Nat × Nat × Nat × Nat × Nat) :=
  s.pp.sessions.flatMap (fun e => match e.2 with
    | none => []
    | some x => [keyOut x, keyIn x])

/-- The keys in a bucket. -/
def bucketLoad (s : State) (b : Nat) : Nat := ((natKeys s).filter (fun k => decide (natBucket s k = b))).length

/-- The RESULT of INSERT (R133), by the codes of NAT_CMD_STAT. -/
def insertResult (s : State) (ses : Nat) (x : Session) : Nat :=
  let bo := natBucket s (keyOut x)
  let bi := natBucket s (keyIn x)
  if x.idle = 0 then 5
  else if (session s ses).isSome then 3
  else if (natKeys s).contains (keyOut x) || (natKeys s).contains (keyIn x) then 1
  else if 8 ≤ bucketLoad s bo + (if bo = bi then 1 else 0) ∨ 8 ≤ bucketLoad s bi then 2
  else 0

/-- A session command taken (R133): ignored while one is in progress, or with OP 0. -/
def natCmdWrite (s : State) (op : Nat) : State :=
  if op = 0 ∨ s.bit Reg.ppNatCmdStat 0 = true then s
  else
    let x : Session :=
      { inside := s.regN Reg.ppNatKey0, remote := s.regN Reg.ppNatKey1, iport := s.fld Reg.ppNatKey2 0 16,
        rport := s.fld Reg.ppNatKey2 16 16, proto := s.fld Reg.ppNatKey3 0 8, outside := s.regN Reg.ppNatXlt0,
        oport := s.fld Reg.ppNatXlt1 0 16, idle := s.fld Reg.ppNatSes 16 16, last := s.dt / 10 ^ 9 }
    { s.setBit Reg.ppNatCmdStat 0 true with pp := { s.pp with cmd := some ⟨op, s.fld Reg.ppNatSes 0 16, x⟩ } }

/-- A session command done, with its RESULT (R133). -/
def natFinish (s : State) (r : Nat) : State :=
  { (s.setFlds Reg.ppNatCmdStat [(0, 1, 0), (4, 3, r)]).raise Reg.ppIrqRaw 5 with pp := { s.pp with cmd := none } }

/-- NAT_INSERT (R133). -/
def execNatInsert (time : Nat) (init : Init) (s : State) : Host.Outcome State Fault Refusal :=
  let t := s.at time
  done s (busDo t init Reg.ppNatCmd 4 (some 1) (fun t => natCmdWrite t 1))

/-- NAT_REMOVE (R133). -/
def execNatRemove (time : Nat) (init : Init) (s : State) : Host.Outcome State Fault Refusal :=
  let t := s.at time
  done s (busDo t init Reg.ppNatCmd 4 (some 2) (fun t => natCmdWrite t 2))

/-- NAT_READ (R133). -/
def execNatRead (time : Nat) (init : Init) (s : State) : Host.Outcome State Fault Refusal :=
  let t := s.at time
  done s (busDo t init Reg.ppNatCmd 4 (some 3) (fun t => natCmdWrite t 3))

/-- NAT_DONE (R133): the command in progress takes effect and completes. -/
def execNatDone (time : Nat) (s : State) : Host.Outcome State Fault Refusal :=
  let t := s.at time
  done s (match t.pp.cmd with
    | none => t
    | some c =>
      if islUp t 4 = false then t
      else if c.op = 1 then
        let r := insertResult t c.ses c.entry
        natFinish (if r = 0 then setSession t c.ses (some c.entry) else t) r
      else match session t c.ses with
        | none => natFinish t 4
        | some x =>
          if c.op = 2 then natFinish (setSession t c.ses none) 0
          else
            let u := ((t.setNat Reg.ppNatKey0 x.inside).setNat Reg.ppNatKey1 x.remote).setNat Reg.ppNatKey2
              (x.iport + 65536 * x.rport)
            natFinish (((u.setNat Reg.ppNatKey3 x.proto).setNat Reg.ppNatXlt0 x.outside).setNat Reg.ppNatXlt1 x.oport) 0)

/-- The expiry ring is full (R135). -/
def ringFull (s : State) : Bool := decide ((s.fld Reg.ppNatExpHead 0 8 + 1) % 256 = s.fld Reg.ppNatExpTail 0 8)

/-- PP_STAT.AGE_STALL follows the fullness of the expiry ring (R135). -/
def reviewStall (s : State) : State := s.setBit Reg.ppPpStat 9 (ringFull s)

/-- NAT_AGE_VISIT (R134, R135): a session idle for IDLE_S is removed into the expiry ring. -/
def execNatAgeVisit (time : Nat) (ses : Fin 65536) (s : State) : Host.Outcome State Fault Refusal :=
  let t := s.at time
  done s (if islUp t 4 && t.bit Reg.ppPpCtrl 0 then
      if ringFull t then reviewStall t
      else match session t ses with
        | none => t
        | some x =>
          if t.dt / 10 ^ 9 - x.last < x.idle then t
          else
            let h := t.fld Reg.ppNatExpHead 0 8
            let u := (setSession t ses none).setNat (Reg.ppNatExpData h) ses
            reviewStall (u.setNat Reg.ppNatExpHead ((h + 1) % 256))
    else t)

/-- The effect of a write to NAT_EXP_TAIL (R135). -/
def natTailWrite (s : State) (d : Word) : State := reviewStall (plainWrite s Reg.ppNatExpTail d)

/-- NAT_EXP_TAIL_WRITE (R135). -/
def execNatExpTailWrite (time : Nat) (init : Init) (data : Word) (s : State) : Host.Outcome State Fault Refusal :=
  let t := s.at time
  done s (busDo t init Reg.ppNatExpTail 4 (some data) (fun t => natTailWrite t data))

/-- The effect of a write to NAT_SEED: ignored while sessions are installed (R141). -/
def natSeedSet (s : State) (d : Word) : State := if s.fld Reg.ppNatCount 0 17 = 0 then s.setReg Reg.ppNatSeed d else s

/-- NAT_SEED_WRITE (R141). -/
def execNatSeedWrite (time : Nat) (init : Init) (data : Word) (s : State) : Host.Outcome State Fault Refusal :=
  let t := s.at time
  done s (busDo t init Reg.ppNatSeed 4 (some data) (fun t => natSeedSet t data))

end Sys2Proof.Machine
end

