-- ==== Sys2Proof/Machine/Packet.lean ====
section
/-! DEFINITION. The packet pipeline (R98 to R102, R110, R111, R116 to R123, R136 to R138): acceptance, the engines, the
reorder collector, the action, and the hand-off to the traffic manager, the gauge house and recirculation. -/

namespace Sys2Proof.Machine

/-- The pound of an ingress source (the collector table after R36); source 14 is recirculation. -/
def ingressPound (i : Nat) : Nat :=
  if i < 8 then i else if i < 10 then 8 + i else if i < 13 then 10 + i else 26

/-- The source that reads a pound, none where the ingress collector does not read it. -/
def ingressSource (p : Nat) : Option Nat :=
  (List.range 14).find? (fun i => decide (ingressPound i = p))

/-- The frame that source `i` continues, if a frame of it is still without its end word. -/
def openFrame (s : State) (i : Nat) : Option Nat := bankGet (fun _ => none) s.pp.openSrc i

/-- The open frame of a source replaced. -/
def setOpen (s : State) (i : Nat) (f : Option Nat) : State :=
  { s with pp := { s.pp with openSrc := bankSet (fun _ => none) s.pp.openSrc i f } }

/-- The readable words of a pound up to and with its first end word, and whether there is one. -/
def headWords (s : State) (p : Nat) : List PWord × Bool :=
  match splitPacket (s.pound p).ready with
  | some (ws, _) => (ws, true)
  | none => ((s.pound p).ready, false)

/-- A source has a frame that may be accepted (R98): its end word is readable, or MAX_BYTES of it. During a replay only
the engine gives frames (R505). -/
def ingressReady (s : State) (i : Nat) : Bool :=
  if replaying s then false
  else if i = 14 then !s.pp.recirc.isEmpty
  else
    let (ws, fin) := headWords s (ingressPound i)
    let g := curImg s
    (openFrame s i).isNone && !ws.isEmpty &&
      (fin || decide (pMaxBytes g (iTbl g 0x01) ≤ (wordsData ws).length))

/-- `n` words read from a pound and consumed. -/
def eatWords (s : State) (p : Nat) : Nat → State
  | 0 => s
  | n + 1 =>
    let s := poundTake s p
    eatWords (s.setPound p { s.pound p with taken := [] }) p n

/-- The frames of the pipeline replaced. -/
def setFrames (s : State) (l : List PpFrame) : State := { s with pp := { s.pp with frames := l } }

/-- One frame of the pipeline replaced. -/
def putFrame (s : State) (f : PpFrame) : State := setFrames s (s.pp.frames.map (fun x => if x.fid = f.fid then f else x))

/-- A frame taken out of the pipeline; the engine that held it is free. -/
def takeFrame (s : State) (f : PpFrame) : State :=
  let s := setFrames s (s.pp.frames.filter (fun x => decide (x.fid ≠ f.fid)))
  match f.eng with
  | none => s
  | some e => s.setBit Reg.ppPpStat e false

/-- A frame dropped in the pipeline: its reference is released (R82). -/
def dropFrame (s : State) (f : PpFrame) : State := releaseTag (takeFrame s f) f.tag

/-- A frame whose tag is retired is dropped where it would consult its generation (R86). -/
def dropIfRetired (s : State) (f : PpFrame) (go : Nat → State) : State :=
  match tagSlot s f.tag with
  | some k => go k
  | none => dropRetired (takeFrame s f) f.tag

/-- A frame that touches a damaged page is dropped and counted (R494). -/
def dropDamaged (s : State) (f : PpFrame) : State := dropFrame (s.inc Reg.fltGenDrop) f

/-- The next sequence number of an ingress port taken (R99). -/
def nextSeq (s : State) (port : Nat) : Nat × State :=
  let n := bankGet (fun _ => 0) s.pp.seqs port
  (n, { s with pp := { s.pp with seqs := bankSet (fun _ => 0) s.pp.seqs port ((n + 1) % 65536) } })

/-- PORT_MASK names a port (R498). -/
def portMasked (s : State) (port : Nat) : Bool := s.bit (Reg.tpPortMask0 + 4 * (port / 32)) (port % 32)

/-- The FRAME record of an accepted frame (R498): the RADIO field is that of R112. -/
def recordFrame (s : State) (port : Nat) (info : Meta) (dt : Nat) (data : List Byte) : State :=
  if portMasked s port then
    tapRecord s 0 0 dt port (data.length % 16384 + 65536 * (info.staIdx + 4096 * info.tid)) (captured s data)
  else s

/-- A frame enters the pipeline (R81, R99, R498): its tag is referenced on its first pass, it gets its sequence number,
and its record is written once it is whole. -/
def admitFrame (s : State) (src port inPort tunnel tag : Nat) (second : Bool) (info : Meta) (data : List Byte)
    (whole : Bool) : State :=
  let (n, s) := nextSeq s port
  let s := if second then s else refTag s tag 1
  let f : PpFrame :=
    { fid := s.pp.nextFid, src := src, port := port, seq := n, tag := tag, second := second, inPort := inPort,
      tunnel := tunnel, info := info, dt := s.now48, data := data, wholeAt := whole, whole := whole }
  let s := { s with pp := { s.pp with frames := s.pp.frames ++ [f], nextFid := s.pp.nextFid + 1 } }
  if whole then recordFrame s port info s.now48 data else setOpen s src (some f.fid)

/-- A frame with no generation current is dropped (R55). -/
def dropNoGen (s : State) : State := (s.inc Reg.genNogenDrop).raise Reg.genIrqRaw 8

/-- The ingress port of a frame from a source (R99): the CPU port is P69. -/
def sourcePort (i : Nat) (m : Meta) : Nat := if i = 13 then 69 else m.inPort

/-- The frame at the head of a pound accepted (R55, R98, R99). A packet that ends with ABORT is discarded (R25). -/
def acceptPound (s : State) (i : Nat) : State :=
  let p := ingressPound i
  let (ws, fin) := headWords s p
  let s := eatWords s p ws.length
  let aborted := match ws.getLast? with
    | none => false
    | some w => w.last && w.abort
  if aborted then s
  else
    let m := wordsMeta ws
    let s := s.addPair Reg.ppRxLo 1
    match curSlot s with
    | none =>
      let s := (nextSeq s (sourcePort i m)).2
      let s := recordFrame (dropNoGen s) (sourcePort i m) m s.now48 (wordsData ws)
      if fin then s else setOpen { s with pp := { s.pp with nextFid := s.pp.nextFid + 1 } } i (some s.pp.nextFid)
    | some _ => admitFrame s i (sourcePort i m) (sourcePort i m) 0 (curTag s) false m (wordsData ws) fin

/-- PP_STAT.RECIRC_BUSY follows the recirculation buffer. -/
def reviewRecirc (s : State) : State := s.setBit Reg.ppPpStat 8 (!s.pp.recirc.isEmpty)

/-- The oldest frame of the recirculation buffer accepted on its second pass (R99, R138); a retired tag drops it (R86). -/
def acceptRecirc (s : State) : State :=
  match s.pp.recirc with
  | [] => s
  | r :: rest =>
    let s := reviewRecirc { s with pp := { s.pp with recirc := rest } }
    if (tagSlot s r.tag).isNone then
      recordFrame (dropRetired (nextSeq s 70).2 r.tag) 70 r.info s.now48 r.data
    else admitFrame s 14 70 r.inPort r.tunnel r.tag true r.info r.data true

/-- The ingress collector accepts the next ready source in its rotation (R34, R98). -/
def ingressAccept (s : State) : State :=
  if islUp s 4 = false then s
  else match rotPick 15 s.pp.inRot (ingressReady s) with
    | none => s
    | some i =>
      let s := { s with pp := { s.pp with inRot := i } }
      if i = 14 then acceptRecirc s else acceptPound s i

/-- ENGINE_DISPATCH (R100): the next frame in acceptance order goes to the next engine of the rotation, once that engine
is free. -/
def execEngineDispatch (time : Nat) (s : State) : Host.Outcome State Fault Refusal :=
  let t := s.at time
  let e := (t.pp.engRot + 1) % 8
  done s (match t.pp.frames.find? (fun f => f.eng.isNone && !f.collected) with
    | none => t
    | some f =>
      if islUp t 4 = false ∨ t.bit Reg.ppPpStat e = true then t
      else
        let u := putFrame (t.setBit Reg.ppPpStat e true) { f with eng := some e }
        { u with pp := { u.pp with engRot := e } })

/-- The frame an engine holds. -/
def engFrame (s : State) (e : Nat) : Option PpFrame := s.pp.frames.find? (fun f => decide (f.eng = some e))

/-- MALF_MODE of the CLASS table (R110). -/
def malfMode (g : Img) : Bool := decide (i8 g ((iTbl g 0x02).off + 1) % 2 = 1)

/-- PARSE_DONE (R107, R110): the engine's verdict and key. A MALFORMED frame is counted, and dropped with MALF_MODE 0. -/
def execParseDone (time : Nat) (e : Fin 8) (s : State) : Host.Outcome State Fault Refusal :=
  let t := s.at time
  done s (match engFrame t e with
    | none => t
    | some f =>
      if f.parsed.isSome || !islUp t 4 then t
      else dropIfRetired t f (fun k =>
        let g := slotImg t k
        let p := parseFrame g f.data f.whole f.second f.inPort f.tunnel f.info.staIdx f.info.tid
        let f := { f with parsed := some p }
        if touchesBad t k p.touched then dropDamaged t f
        else if p.verdict = 2 then
          let u := (t.inc (Reg.ppMalfCnt p.cause)).raise Reg.ppIrqRaw 0
          if malfMode g then putFrame u f else dropFrame u f
        else if p.verdict = 1 then putFrame ((t.inc Reg.ppDeepCnt).raise Reg.ppIrqRaw 1) f
        else putFrame t f))

/-- CLASSIFY_DONE (R113 to R115): the action of a frame with verdict OK or DEEP, looked up in GEN. -/
def execClassifyDone (time : Nat) (e : Fin 8) (s : State) : Host.Outcome State Fault Refusal :=
  let t := s.at time
  done s (match engFrame t e with
    | none => t
    | some f =>
      match f.parsed with
      | none => t
      | some p =>
        if f.act.isSome || decide (p.verdict = 2) || !islUp t 4 || !islUp t 6 then t
        else dropIfRetired t f (fun k =>
          let (a, tr) := classify (slotImg t k) p
          let t := lookup t 80
          if touchesBad t k (tr ++ [(actOff (slotImg t k) a, 16)]) then dropDamaged t f
          else putFrame t { f with act := some a }))

/-- An engine has a result that the reorder collector may take: an action, or a MALFORMED frame to divert. -/
def resultReady (f : PpFrame) : Bool :=
  f.act.isSome || (match f.parsed with
    | none => false
    | some p => decide (p.verdict = 2))

/-- The reorder collector takes the next engine's result in its rotation, which frees the engine (R34). -/
def collectReorder (s : State) : State :=
  match rotPick 8 s.pp.outRot (fun e => match engFrame s e with
    | none => false
    | some f => resultReady f) with
  | none => s
  | some e =>
    match engFrame s e with
    | none => s
    | some f =>
      let s := putFrame (s.setBit Reg.ppPpStat e false) { f with eng := none, collected := true }
      { s with pp := { s.pp with outRot := e } }

/-- Every result that waits taken into the reorder collector. -/
def collectAll (s : State) : Nat → State
  | 0 => s
  | n + 1 => collectAll (collectReorder s) n

/-- The oldest collected frame that no earlier frame of its port keeps back (R101). -/
def releasable : List PpFrame → List Nat → Option PpFrame
  | [], _ => none
  | f :: r, ports =>
    if f.fate.isSome then releasable r ports
    else if f.collected && !ports.contains f.port then some f
    else releasable r (f.port :: ports)

/-- The sideband of a frame on PD28 (R24, R118, R156). -/
def outMeta (f : PpFrame) (len fq cause : Nat) (dev timed : Bool) : Meta :=
  { len := if f.wholeAt && decide (len ≤ 16383) then len else 0, tag := f.tag, inPort := f.inPort, fq := fq,
    inDt := f.info.inDt, staIdx := f.info.staIdx, tid := f.info.tid, cause := cause, dev := dev,
    tsReq := timed && f.info.tsReq, cookie := if timed then f.info.cookie else 0 }

/-- The packet of a frame for PD28. -/
def outOf (f : PpFrame) (b : List Byte) (fq cause : Nat) (dev timed : Bool) (keep : Nat) : PpOut :=
  { info := outMeta f (if keep = 0 then b.length else min keep b.length) fq cause dev timed, data := b, keep := keep }

/-- EXC_FQ of the CLASS table (R113). -/
def excFq (g : Img) : Nat := i16 g ((iTbl g 0x02).off + 6) % 32768

/-- A frame diverted to the exception queue as it was received (R118). -/
def divertOut (g : Img) (f : PpFrame) (cause : Nat) : PpOut := outOf f f.data (excFq g) cause true true 0

/-- Whether a frame is longer than its parse window, so that its length is judged at its end word (R111, R123). -/
def longFrame (g : Img) (f : PpFrame) : Bool := !f.wholeAt || decide (pMaxBytes g (iTbl g 0x01) < f.data.length)

/-- MAX_SDU of stream filter `i` (R121). -/
def filtOff (g : Img) (i : Nat) : Nat := let t := iTbl g 0x02; t.off + i32 g (t.off + 12) + 4 * i

/-- A frame is over the MAX_SDU of a stream filter (R121, R123). -/
def oversize (g : Img) (i len : Nat) : Bool :=
  let m := iFld g (filtOff g i) 0 14
  decide (m ≠ 0) && decide (m < len - 4)

/-- An oversize frame counted against its stream filter, which blocks where BLOCK_EN is 1 (R123). -/
def overCount (s : State) (g : Img) (i : Nat) : State :=
  let s := (s.inc (Reg.ppQciOver i)).inc Reg.ppDropStream
  if iFld g (filtOff g i) 15 1 = 1 then (s.setBit (Reg.ppQciBlock (i / 32)) (i % 32) true).raise Reg.ppIrqRaw 2 else s

/-- The stream filter of a forwarded frame (R122, R123): the state, and whether the frame passes. -/
def streamFilter (s : State) (g : Img) (f : PpFrame) (i : Nat) : State × Bool :=
  let s := s.inc (Reg.ppQciMatch i)
  if s.bit (Reg.ppQciBlock (i / 32)) (i % 32) then (s.inc Reg.ppDropStream, false)
  else if !longFrame g f && oversize g i f.data.length then (overCount s g i, false)
  else (s.inc (Reg.ppQciPass i), true)

/-- The copies an action makes for the processor and for its mirror (R116 to R118), each with the frame as received. -/
def copiesOf (g : Img) (f : PpFrame) (a : Nat) : List PpOut :=
  let t := iTbl g 0x02
  let mo := t.off + i32 g (t.off + 0x10) + 8 * iFld g a 16 4
  let tr := iFld g mo 16 16
  (if iFld g a 1 1 = 1 then [outOf f f.data (iFld g (a + 12) 0 15) (iFld g a 8 8) false false 0] else []) ++
    (if iFld g a 2 1 = 1 then [outOf f f.data (iFld g mo 0 15) 0 false false (if tr = 0 then 0 else max 64 tr)] else [])

/-- A collected frame's action applied (R110, R116 to R128): its fate, or it is dropped. Copies are made before the frame
itself is filtered and rewritten, and each takes its own reference. -/
def applyAction (s : State) (f : PpFrame) (k : Nat) : State :=
  let g := slotImg s k
  match f.parsed, f.act with
  | some p, some ai =>
    let a := actOff g ai
    let s := if iFld g (a + 8) 15 1 = 1 then s.addPair (Reg.ppRuleCntLo (iFld g (a + 8) 0 12)) 1 else s
    if iFld g a 0 4 = 0 then dropFrame (s.inc Reg.ppDropClass) f
    else
      let copies := copiesOf g f a
      let gauge := decide (iFld g a 3 1 = 1)
      let s := refTag s f.tag (copies.length + bnat gauge)
      let base : PpFate := { outs := copies, gauge := gauge }
      let rest := fun (s : State) => if copies.isEmpty && !gauge then takeFrame s f else putFrame s { f with fate := some base }
      if iFld g a 0 1 = 0 then rest (releaseTag s f.tag)
      else
        let fi := iFld g (a + 8) 16 10
        let filt := if iFld g (a + 8) 31 1 = 1 then some fi else none
        let (s, pass) := match filt with
          | none => (s, true)
          | some i => streamFilter s g f i
        if !pass then rest (releaseTag s f.tag)
        else match rewrite s g k (iFld g (a + 4) 16 16) (iFld g (a + 4) 0 15) ⟨f.data, p.heads⟩ with
          | (s, .drop r) => rest (releaseTag (s.inc r) f.tag)
          | (s, .damaged) => rest (releaseTag (s.inc Reg.fltGenDrop) f.tag)
          | (s, .divert c) =>
            putFrame (s.inc Reg.ppExcCnt) { f with fate := some { base with outs := divertOut g f c :: copies } }
          | (s, .go b _ true) =>
            putFrame s { f with fate := some { base with recirc := some b, filt := filt, outs := copies } }
          | (s, .go b fq false) =>
            putFrame s { f with fate := some { base with outs := outOf f b fq 0 false true 0 :: copies, filt := filt } }
  | _, _ => putFrame (s.inc Reg.ppExcCnt) { f with fate := some { outs := [divertOut g f 0] } }

/-- REORDER_RELEASE (R101): the collector releases the oldest result that keeps its port's order, and its action is
applied. -/
def reorderRelease (s : State) : State :=
  if islUp s 4 = false then s
  else
    let s := collectAll s 8
    match releasable s.pp.frames [] with
    | none => s
    | some f => dropIfRetired s f (fun k => applyAction s f k)

/-- REORDER_RELEASE (R101). -/
def execReorderRelease (time : Nat) (s : State) : Host.Outcome State Fault Refusal :=
  let t := s.at time
  done s (reorderRelease t)

/-- Words that wait for PD28 written while it has room (R102). -/
def flushOut (s : State) : Nat → State
  | 0 => s
  | n + 1 =>
    match s.pp.outQ with
    | [] => s
    | w :: r => if poundRoom s 28 then flushOut (poundPush { s with pp := { s.pp with outQ := r } } 28 w) n else s

/-- Words queued for PD28 and written as far as it has room. -/
def queueOut (s : State) (ws : List PWord) : State :=
  let s := { s with pp := { s.pp with outQ := s.pp.outQ ++ ws } }
  flushOut s s.pp.outQ.length

/-- The bytes of an output packet, cut to what is kept of it. -/
def outBytes (o : PpOut) : List Byte := if o.keep = 0 then o.data else o.data.take o.keep

/-- The words of a packet whose end word carries ABORT. -/
def abortLast : List PWord → List PWord
  | [] => [abortEnd]
  | [w] => [{ w with abort := true }]
  | w :: r => w :: abortLast r

/-- The words of an output packet for PD28. -/
def outWords (s : State) (bad : Bool) (o : PpOut) : List PWord :=
  let ws := packetOf s 28 o.info (outBytes o)
  if bad then abortLast ws else ws

/-- What R111 finds at a long frame's end word. -/
def lateCauses (s : State) (f : PpFrame) : List LateCause :=
  match tagSlot s f.tag with
  | none => if f.badFcs then [.badFcs] else []
  | some k =>
    let g := slotImg s k
    if f.whole = false ∨ longFrame g f = false then []
    else
      (if (match f.parsed with
        | none => false
        | some p => decide (f.data.length - 4 < p.need)) then [.ipLen] else []) ++
      (if f.badFcs then [.badFcs] else []) ++
      (match f.fate with
        | some x => match x.filt with
          | some i => if oversize g i f.data.length then [.oversize] else []
          | none => []
        | none => [])

/-- The words of a GAUGE copy under way written while PD32 has room (R21); its reference is released when its last word
enters the pound (R117), or when the pound closed behind its first words (R39). -/
def gaugeFlush (s : State) : Nat → State
  | 0 => s
  | n + 1 =>
    match s.pp.gauge with
    | none => s
    | some (tag, []) => releaseTag { s with pp := { s.pp with gauge := none } } tag
    | some (tag, w :: r) =>
      if poundClosed s 32 || (!w.first && !(s.pound 32).midW) then
        releaseTag { s with pp := { s.pp with gauge := none } } tag
      else if poundRoom s 32 then gaugeFlush (poundPush { s with pp := { s.pp with gauge := some (tag, r) } } 32 w) n
      else s

/-- The words of a GAUGE copy under way written as far as PD32 has room. -/
def gaugeNow (s : State) : State := gaugeFlush s ((match s.pp.gauge with
  | none => 0
  | some g => g.2.length) + 1)

/-- The GAUGE copy written to PD32, or dropped alone where PD32 is full or closed, or an earlier copy still waits for room
(R119; notes/assumptions/198.md). -/
def gaugeCopy (s : State) (f : PpFrame) (bad : Bool) : State :=
  let ws := packetOf s 32 { len := if f.data.length ≤ 16383 then f.data.length else 0 } f.data
  let ws := if bad then abortLast ws else ws
  if poundRoom s 32 && s.pp.gauge.isNone then gaugeNow { s with pp := { s.pp with gauge := some (f.tag, ws) } }
  else releaseTag ((s.inc Reg.ppDropGh).raise Reg.ppIrqRaw 7) f.tag

/-- The bytes the recirculation buffer holds (R136). -/
def recircFill (s : State) : Nat := (s.pp.recirc.map (·.data.length)).sum

/-- A frame that recirculates (R136, R137): admitted, and accounted at P70 (R146), or dropped on a second recirculation or for lack of room. -/
def recircAdmit (s : State) (f : PpFrame) (b : List Byte) : State :=
  if f.second then releaseTag ((s.inc Reg.ppRecircLoop).raise Reg.ppIrqRaw 6) f.tag
  else if 65536 < recircFill s + b.length then releaseTag ((s.inc Reg.ppRecircFull).raise Reg.ppIrqRaw 6) f.tag
  else
    let tun := match f.parsed with
      | none => 0
      | some p => p.tunnelId
    let s := (s.addPair (Reg.tmPortTxLo 70) 1).addPair (Reg.tmPortTxbLo 70) b.length
    let r : RecircFrame := ⟨f.inPort, tun, f.tag, f.info, b⟩
    reviewRecirc (State.addPair { s with pp := { s.pp with recirc := s.pp.recirc ++ [r] } } Reg.ppRecircLo 1)

/-- A released frame with its end word leaves the pipeline: the packets still to be written, the GAUGE copy, and the
recirculation; with `bad` every one ends with ABORT, and nothing recirculates (R111). -/
def finishFrame (s : State) (f : PpFrame) (x : PpFate) (outs : List PpOut) (bad : Bool) : State :=
  let s := takeFrame s f
  let s := queueOut s (outs.flatMap (outWords s bad))
  let s := if x.gauge then gaugeCopy s f bad else s
  match x.recirc with
  | none => s
  | some b => if bad then releaseTag s f.tag else recircAdmit s f b

/-- The bytes of the first words of a packet without its end: whole words only, at least one byte held back. -/
def openWords (width : Nat) (info : Meta) (bs : List Byte) (first : Bool) : Nat → List PWord × List Byte
  | 0 => ([], bs)
  | n + 1 =>
    if bs.length ≤ width then ([], bs)
    else
      let (ws, r) := openWords width info (bs.drop width) false n
      (⟨bs.take width, false, false, first, if first then info else {}⟩ :: ws, r)

/-- The first packet of a frame still without its end word, or with a contradiction to be told, written as far as it has
come, and of a truncated mirror copy as far as it is kept (R102, R111, R116): the bytes held back stay in its record. -/
def streamOut (s : State) (f : PpFrame) (x : PpFate) (first : Bool) : State :=
  match x.outs with
  | [] => s
  | o :: r =>
    let d := outBytes o
    let (ws, rest) := openWords (max 1 (s.fld (Reg.topPndGeom 28) 16 7)) o.info d first d.length
    let keep := if o.keep = 0 then 0 else o.keep - (d.length - rest.length)
    let o := { o with data := rest ++ o.data.drop d.length, keep := keep }
    queueOut (putFrame s { f with streaming := true, fate := some { x with outs := o :: r } }) ws

/-- The end of a streaming packet: its last bytes with the end word. -/
def streamEnd (s : State) (o : PpOut) (bad : Bool) : List PWord :=
  let ws := (packetOf s 28 {} (outBytes o)).map (fun v => { v with first := false })
  if bad then abortLast ws else ws

/-- A streaming frame whose end word has come: its first packet ends, and the frame leaves. -/
def endStream (s : State) (f : PpFrame) (x : PpFate) (bad : Bool) : State :=
  match x.outs with
  | [] => finishFrame s f x [] bad
  | o :: r => finishFrame (queueOut s (streamEnd s o bad)) f x r bad

/-- PIPELINE_HANDOFF (R102): words that wait go first; then the oldest released frame is written to PD28, with its copies.
A frame that streams keeps the path until its end; one without its end word whose first packet is not for PD28, or which
recirculates, waits for it. -/
def pipelineHandoff (s : State) : State :=
  if islUp s 4 = false then s
  else
    let s := gaugeNow (flushOut s s.pp.outQ.length)
    if !s.pp.outQ.isEmpty || s.pp.frames.any (·.streaming) || !poundRoom s 28 then s
    else match s.pp.frames.find? (fun f => match f.fate with
        | none => false
        | some x => (f.whole && (lateCauses s f).isEmpty) || (!x.outs.isEmpty && x.recirc.isNone)) with
      | none => s
      | some f =>
        match f.fate with
        | none => s
        | some x =>
          if f.whole && (lateCauses s f).isEmpty then finishFrame s f x x.outs false else streamOut s f x true

/-- PIPELINE_HANDOFF (R102). -/
def execPipelineHandoff (time : Nat) (s : State) : Host.Outcome State Fault Refusal :=
  let t := s.at time
  done s (pipelineHandoff t)

/-- One contradiction counted (R111, R123): an IP length under cause LATE, an oversize frame against its filter. -/
def lateCount (s : State) (f : PpFrame) : LateCause → State
  | .ipLen => (s.inc (Reg.ppMalfCnt 7)).raise Reg.ppIrqRaw 0
  | .badFcs => s
  | .oversize => match f.fate.bind (·.filt), tagSlot s f.tag with
    | some i, some k => overCount s (slotImg s k) i
    | _, _ => s

/-- LATE_CONTRADICTION (R111, R123): a contradiction that the end word of long frame `fid` shows ends it and its copies
with ABORT, and every contradiction it shows is counted. -/
def execLateContradiction (time : Nat) (fid : Nat) (c : LateCause) (s : State) : Host.Outcome State Fault Refusal :=
  let t := s.at time
  done s (match t.pp.frames.find? (fun f => decide (f.fid = fid)) with
    | none => t
    | some f =>
      match f.fate with
      | none => t
      | some x =>
        if islUp t 4 = false ∨ (lateCauses t f).contains c = false then t
        else
          let t := t.each (lateCauses t f) (fun e u => lateCount u f e)
          if f.streaming then endStream t f x true else finishFrame t f x x.outs true)

/-- Bytes appended to every packet of a frame. -/
def growFate (x : PpFate) (d : List Byte) : PpFate :=
  { x with outs := x.outs.map (fun o => { o with data := o.data ++ d }), recirc := x.recirc.map (· ++ d) }

/-- A word that an open source's pound gives (R25, R98, R102): it goes to the frame it continues, which takes no word while
the pipeline waits for PD28. The words of a dropped frame are discarded. -/
def ingressWord (s : State) (i p : Nat) (fid : Nat) : State :=
  match (s.pound p).ready with
  | [] => s
  | w :: _ =>
    match s.pp.frames.find? (fun f => decide (f.fid = fid)) with
    | none => let s := eatWords s p 1; if w.last then setOpen s i none else s
    | some f =>
      if f.streaming && !s.pp.outQ.isEmpty then s
      else
        let s := eatWords s p 1
        let s := if w.last then setOpen s i none else s
        let f := { f with data := f.data ++ w.data, whole := w.last, badFcs := w.last && w.abort,
                          fate := f.fate.map (fun x => growFate x w.data) }
        let s := putFrame s f
        let s := if w.last then recordFrame s f.port f.info f.dt f.data else s
        match f.streaming, f.fate with
        | true, some x =>
          if w.last && (lateCauses s f).isEmpty then
            endStream s f x false
          else streamOut s f x false
        | _, _ => s

end Sys2Proof.Machine
end

