-- ==== Sys2Proof/Machine/StaTab.lean ====
section
/-! DEFINITION. The association table (R227 to R229): the fields of an entry, and the index of transmitter addresses. -/

namespace Sys2Proof.Machine

/-- The words of an association entry; an entry never installed reads as zeros. -/
def staEntry (s : State) (a : Nat) : List Word := bankGet (fun _ => []) s.sta.entries a

/-- Word `k` of an entry. -/
def staWord (s : State) (a k : Nat) : Nat := ((staEntry s a).getD k 0).toNat

/-- A field of an entry. -/
def staFld (s : State) (a k lo len : Nat) : Nat := nbits (staWord s a k) lo len

/-- An entry replaced; no words where it is invalid. -/
def putEntry (s : State) (a : Nat) (ws : List Word) : State :=
  { s with sta := { s.sta with entries := bankSet (fun _ => []) s.sta.entries a ws } }

/-- VALID. -/
def staValid (s : State) (a : Nat) : Bool := decide (staFld s a 0 0 1 = 1)

/-- A field of a valid entry, which has twelve words, replaced. -/
def putStaFld (s : State) (a k lo len v : Nat) : State :=
  let e := staEntry s a
  if staValid s a then
    putEntry s a ((e ++ List.replicate (12 - e.length) 0).set k (putBits (e.getD k 0) lo len v))
  else s

/-- KIND: 0 STA, 1 MLD, 2 PARENT. -/
def staKind (s : State) (a : Nat) : Nat := staFld s a 0 1 2

/-- Bit `x` of LINKS. -/
def staLink (s : State) (a x : Nat) : Bool := decide (staFld s a 0 (3 + x) 1 = 1)

/-- Bit `x` of LINK_UP. -/
def staUp (s : State) (a x : Nat) : Bool := decide (staFld s a 0 (6 + x) 1 = 1)

/-- Bit `x` of PS. -/
def staPs (s : State) (a x : Nat) : Bool := decide (staFld s a 0 (13 + x) 1 = 1)

/-- A 48-bit address of an entry, byte 0 in bits [7:0]: ADDR. -/
def staAddr (s : State) (a : Nat) : Nat := staWord s a 1 + 2 ^ 32 * staFld s a 2 0 16

/-- The link address of an entry on Radio H or M, in words 3 to 5. -/
def linkAddrOf (w : Nat → Nat) (x : Nat) : Nat :=
  if x = 0 then w 3 + 2 ^ 32 * nbits (w 4) 0 16 else nbits (w 4) 16 16 + 2 ^ 16 * w 5

/-- The transmitter address of an entry on radio `x` (R229): ADDR for KIND 0, the link address for the others. -/
def txAddrOf (w : Nat → Nat) (x : Nat) : Nat :=
  if nbits (w 0) 1 2 = 0 then w 1 + 2 ^ 32 * nbits (w 2) 0 16 else linkAddrOf w x

/-- The two buckets of an address on radio `x` (R229). -/
def addrBuckets (s : State) (x addr : Nat) : Nat × Nat :=
  let h := crc32c (BitVec.ofNat 8 x :: leBytes 6 addr) ^^^ s.regN Reg.staAddrSeed
  (nbits h 0 12, nbits h 16 12)

/-- The places of an address, those of bucket a first (R229). -/
def addrPlaces (s : State) (x addr : Nat) : List Nat :=
  let b := addrBuckets s x addr
  ((List.range 4).map (fun i => (x * 4096 + b.1) * 4 + i)) ++ ((List.range 4).map (fun i => (x * 4096 + b.2) * 4 + i))

/-- A place of the index: the address and the association index there. -/
def addrPlace (s : State) (k : Nat) : Option (Nat × Nat) := bankGet (fun _ => none) s.sta.index k

/-- A place replaced. -/
def putPlace (s : State) (k : Nat) (v : Option (Nat × Nat)) : State :=
  { s with sta := { s.sta with index := bankSet (fun _ => none) s.sta.index k v } }

/-- The association index of a transmitter address on radio `x`, among all eight places (R229). -/
def lookupTa (s : State) (x addr : Nat) : Option Nat :=
  (addrPlaces s x addr).findSome? (fun k => match addrPlace s k with
    | none => none
    | some (ad, a) => if ad = addr then some a else none)

/-- The radio is one of the device's three and the entry's peer answers on it: a valid entry whose LINK_UP bit is clear
draws nothing (R251). -/
def linkDown (s : State) (a x : Nat) : Bool := staValid s a && !staUp s a x

/-- The packet pound of radio `x` holds a frame for a peer. -/
def poundFor (s : State) (x a : Nat) : Bool :=
  let p := s.pound (23 + x)
  (p.flight ++ p.ready ++ p.taken).any (fun w => w.first && decide (w.info.staIdx = a))

/-- With NSTR = 1, the other radio of the pair serves the peer (R250): frames are reserved to it there or wait there to be built,
or an exchange with it or a response of it is in progress. -/
def nstrHeld (s : State) (a x : Nat) : Bool :=
  let o := 1 - x
  let other := bankGet (fun _ => ({} : RdState)) s.rd o
  decide (x < 2) && staValid s a && decide (staFld s a 0 9 1 = 1) &&
    ((match other.run with
      | none => false
      | some r => r.users.any (fun u => decide (u.user.sta = a))) ||
     other.await.contains a || other.stock.any (fun f => decide (f.1.staIdx = a)) || poundFor s o a ||
     s.tm.ans.any (fun r => decide (r.radio = o) && decide (r.sta = a) && s.tm.frames.any (fun f => r.fids.contains f.fid)))

/-- The pairwise slot that protects what is sent to a peer has used its last PN (R249): its frames stay queued. -/
def pnSpent (s : State) (a : Nat) : Bool :=
  decide (staFld s a 6 0 2 ≠ 0) && (bankGet (fun _ => ({} : KeySlot)) s.sta.pair (a * 2 + staFld s a 6 2 1)).spent

end Sys2Proof.Machine
end

