-- ==== Sys2Proof/Machine/Tm.lean ====
section
/-! DEFINITION. The traffic manager (R143 to R178): the SHAPE table, buckets, admission, spill, the choice of a frame, and
the answers to radio players (R173 to R175). Ports and gates are in Egress.lean. -/

namespace Sys2Proof.Machine

/-- The SHAPE table of the current generation. -/
def shape (s : State) : Tbl := iTbl (curImg s) 0x07

/-- The number of nodes at a level of the SHAPE table (R143): 0 flow queues to 4 ports. -/
def nodeCount (s : State) (lvl : Nat) : Nat :=
  let g := curImg s
  let t := shape s
  match lvl with
  | 0 => t.count
  | 1 => i16 g t.off
  | 2 => i16 g (t.off + 2)
  | 3 => i8 g (t.off + 4)
  | _ => if (curSlot s).isSome then 72 else 0

/-- Where the record of a node lies in the current image (R143, R144). -/
def nodeOff (s : State) (lvl i : Nat) : Nat :=
  let t := shape s
  t.off + i32 (curImg s) (t.off + 8 + 4 * lvl) + (if lvl = 4 then 64 else 32) * i

/-- A field of a node's record. -/
def nodeFld (s : State) (lvl i word lo len : Nat) : Nat := iFld (curImg s) (nodeOff s lvl i + 4 * word) lo len

/-- The FALLBACK record that applies to a node, by its index (R258, R259): the first that names it and whose tested bits of
the vector last evaluated match. -/
def fallbackFor (s : State) (lvl i : Nat) : Option Nat :=
  let g := curImg s
  let t := iTbl g 0x13
  (List.range t.count).find? (fun k =>
    let r := t.off + 8 * k
    decide (iFld g r 0 13 = i) && decide (iFld g r 13 2 = lvl) &&
      decide (s.sta.fbVec &&& iFld g (r + 4) 0 16 = iFld g (r + 4) 16 16))

/-- The effective parent of a node at level 0 to 3 (R259). -/
def parentOf (s : State) (lvl i : Nat) : Nat :=
  match if lvl = 0 then none else fallbackFor s lvl i with
  | none => nodeFld s lvl i 0 0 13
  | some k => iFld (curImg s) ((iTbl (curImg s) 0x13).off + 8 * k) 16 13

/-- The node at level `lvl` above a flow queue. -/
def nodeAbove (s : State) (fq : Nat) : Nat → Nat
  | 0 => fq
  | n + 1 => parentOf s n (nodeAbove s fq n)

/-- The port of a flow queue. -/
def fqPort (s : State) (fq : Nat) : Nat := nodeAbove s fq 4

/-- Traffic class of a flow queue. -/
def fqTc (s : State) (fq : Nat) : Nat := nodeFld s 0 fq 0 13 3

/-- GH_FQ (R143). -/
def ghFq (s : State) : Nat := i16 (curImg s) ((shape s).off + 6) % 32768

/-- A number for the bucket of a node: its level, its index, and 0 committed or 1 peak. -/
def bktKey (lvl i pk : Nat) : Nat := (lvl * 32768 + i) * 2 + pk

/-- The rate of a bucket in kb/s: CIR or PIR. -/
def bktRate (s : State) (lvl i pk : Nat) : Nat := nodeFld s lvl i (1 + pk) 0 32

/-- The cap of a bucket, in units of 1/8,000,000 byte (R148). -/
def bktCap (s : State) (lvl i pk : Nat) : Int := (nodeFld s lvl i (3 + pk) 0 24 * 8000000 : Nat)

/-- A bucket is unshaped (R148). -/
def bktUnshaped (s : State) (lvl i pk : Nat) : Bool := decide (bktRate s lvl i pk = 0xFFFFFFFF)

/-- A bucket's stored level and the DT of its last refill, none at its cap. -/
def bktRaw (s : State) (lvl i pk : Nat) : Option (Int × Nat) := bankGet (fun _ => none) s.tm.bkts (bktKey lvl i pk)

/-- A bucket's level refilled to DT `now` (R148, R151). -/
def bktLevel (s : State) (lvl i pk now : Nat) : Int :=
  match bktRaw s lvl i pk with
  | none => bktCap s lvl i pk
  | some (l, last) =>
    if bktUnshaped s lvl i pk then l
    else min (l + (bktRate s lvl i pk * (now - last) : Nat)) (bktCap s lvl i pk)

/-- A bucket's level stored as of DT `now`; a shaped bucket at its cap is unlisted. -/
def setBkt (s : State) (lvl i pk now : Nat) (l : Int) : State :=
  let v := if l = bktCap s lvl i pk then none else some (l, now)
  { s with tm := { s.tm with bkts := bankSet (fun _ => none) s.tm.bkts (bktKey lvl i pk) v } }

/-- A node is in the current SHAPE table, so that its buckets are kept (R152). -/
def nodeLive (s : State) (lvl i : Nat) : Bool := decide (i < nodeCount s lvl)

/-- A bucket is eligible (R148). -/
def bktEligible (s : State) (lvl i pk : Nat) : Bool := bktUnshaped s lvl i pk || decide (0 ≤ bktLevel s lvl i pk s.dt)

/-- A node is eligible (R149); with PIR 0 it never sends (R144). -/
def nodeEligible (s : State) (lvl i : Nat) : Bool := decide (bktRate s lvl i 1 ≠ 0) && bktEligible s lvl i 1

/-- A node is committed (R149). -/
def nodeCommitted (s : State) (lvl i : Nat) : Bool :=
  nodeEligible s lvl i && decide (bktRate s lvl i 0 ≠ 0) && bktEligible s lvl i 0

/-- A bucket charged (R148); an unshaped bucket is not. -/
def bktCharge (s : State) (lvl i pk : Nat) (len : Int) : State :=
  if nodeLive s lvl i && !bktUnshaped s lvl i pk then
    setBkt s lvl i pk s.dt (bktLevel s lvl i pk s.dt - len * 8000000)
  else s

/-- OVH of a port, in bytes (R145). -/
def portOvh (s : State) (p : Nat) : Int := signed 8 (nodeFld s 4 p 8 0 8)

/-- Every bucket on a frame's path charged with its length and the OVH of the port that sends it (R150, R176). -/
def chargePath (s : State) (fq port len : Nat) : State :=
  let l : Int := (len : Int) + portOvh s port
  s.each [(0, fq), (1, nodeAbove s fq 1), (2, nodeAbove s fq 2), (3, nodeAbove s fq 3), (4, port)] (fun n t =>
    bktCharge (bktCharge t n.1 n.2 0 l) n.1 n.2 1 l)

/-- The buckets of one node carried over a swap at boundary `b` from state `o`, in which the old generation is current
(R152). -/
def swapNode (o : State) (b lvl i : Nat) (s : State) : State :=
  if nodeLive o lvl i = false ∨ nodeFld s lvl i 0 25 1 = 1 then s
  else s.each [0, 1] (fun pk t => setBkt t lvl i pk b (min (bktLevel o lvl i pk b) (bktCap t lvl i pk)))

/-- Every bucket carried over a swap (R152, R153): `o` is the state before it. -/
def swapBuckets (o : State) (b : Nat) (s : State) : State :=
  let s := { s with tm := { s.tm with bkts := [] } }
  if (curSlot o).isNone then s
  else s.each (List.range 5) (fun lvl t => t.each (List.range (nodeCount t lvl)) (fun i u => swapNode o b lvl i u))

/-- The on-chip cells of a frame: in the shared pool where it is not spilled. -/
def onChip (f : TmFrame) : Nat := if f.spilled then 0 else f.cells

/-- The frames of a flow queue, oldest first. -/
def fqFrames (s : State) (fq : Nat) : List TmFrame := s.tm.frames.filter (fun f => decide (f.fq = fq))

/-- The cells queued in a flow queue, on chip and spilled. -/
def fqCells (s : State) (fq : Nat) : Nat := ((fqFrames s fq).map (·.cells)).sum

/-- A queue holds a spilled frame. -/
def fqSpilled (s : State) (fq : Nat) : Bool := (fqFrames s fq).any (·.spilled)

/-- The cells of the spill region (R164). -/
def spillCells (s : State) : Nat := s.fld Reg.tmSpillSize 0 13 * 4096

/-- The registers that show the pools (TM_STAT, CELLS_FREE, BARGES_FREE, SPILL_USED) and the queue that FQ_SEL names. -/
def reviewTm (s : State) : State :=
  let fs := s.tm.frames
  let chip := (fs.map onChip).sum
  let used := (fs.map (·.spillAt.length)).sum
  let fetch := (fs.map (fun f => if f.fetch = 0 then 0 else f.cells)).sum
  let s := s.setFld Reg.tmCellsFree 0 16 (47104 - chip)
  let s := s.setFld Reg.tmBargesFree 0 17 (98304 - fs.length)
  let s := s.setFld Reg.tmSpillUsed 0 25 used
  let s := s.setFlds Reg.tmTmStat [(0, 1, bnat (fs.any (·.spilled))),
    (1, 1, bnat (decide (spillCells s ≠ 0) && decide (spillCells s - used < 64))), (2, 11, (2048 - fetch) / 2)]
  let q := s.fld Reg.tmFqSel 0 15
  let s := s.setFlds Reg.tmFqStat [(0, 18, fqCells s q), (24, 1, bnat (fqSpilled s q))]
  let s := s.setFld Reg.tmFqFrames 0 17 (fqFrames s q).length
  (s.setPair Reg.tmFqEnqLo (bankGet (fun _ => 0) s.tm.fqEnq q)).setPair Reg.tmFqDropLo (bankGet (fun _ => 0) s.tm.fqDrop q)

/-- The barges replaced, with the registers that show them. -/
def setBarges (s : State) (l : List TmFrame) : State := reviewTm { s with tm := { s.tm with frames := l } }

/-- One barge replaced. -/
def putBarge (s : State) (f : TmFrame) : State := setBarges s (s.tm.frames.map (fun x => if x.fid = f.fid then f else x))

/-- A barge by its number. -/
def barge (s : State) (fid : Nat) : Option TmFrame := s.tm.frames.find? (fun f => decide (f.fid = fid))

/-- A drop counted in the flow queue and in its port (R154). -/
def countDrop (s : State) (fq : Nat) : State :=
  let n := bankGet (fun _ => 0) s.tm.fqDrop fq
  let s := { s with tm := { s.tm with fqDrop := bankSet (fun _ => 0) s.tm.fqDrop fq ((n + 1) % 2 ^ 48) } }
  if nodeLive s 0 fq then s.inc (Reg.tmPortDrop (fqPort s fq)) else s

/-- A barge freed. -/
def freeBarge (s : State) (f : TmFrame) : State := setBarges s (s.tm.frames.filter (fun x => decide (x.fid ≠ f.fid)))

/-- A frame in the traffic manager dropped: its reference is released and the drop counted (R154). -/
def tmDrop (s : State) (f : TmFrame) : State := reviewTm (countDrop (releaseTag (freeBarge s f) f.tag) f.fq)

/-- A frame of a retired tag dropped (R86, R154). -/
def tmDropRetired (s : State) (f : TmFrame) : State := reviewTm (countDrop (dropRetired (freeBarge s f) f.tag) f.fq)

/-- The reservation of a frame (R155). -/
def reservation (len : Nat) : Nat := if len = 0 then 64 else ceilDiv len 256

/-- What admission decides (R154, R159): a drop counted at a register, or a place. -/
inductive Place
  | drop (reg : Nat)
  | chip
  | spill
deriving DecidableEq, Repr

/-- Conditions 2 to 5 of R154 and the placement of R159. -/
def admitPlace (s : State) (fq res : Nat) : Place :=
  let qlim := nodeFld s 0 fq 6 0 18
  let allow := nodeFld s 0 fq 7 0 16
  let chip := ((fqFrames s fq).map onChip).sum
  let room := decide (res ≤ s.fld Reg.tmCellsFree 0 16)
  if nodeLive s 0 fq = false ∨ nodeFld s 0 fq 0 24 1 = 0 then .drop Reg.tmDropDisabled
  else if s.fld Reg.tmBargesFree 0 17 = 0 then .drop Reg.tmDropNobarge
  else if qlim ≠ 0 ∧ qlim < fqCells s fq + res then .drop Reg.tmDropQlim
  else if !fqSpilled s fq && (decide (allow = 0xFFFF) || decide (chip < allow)) && room then .chip
  else if s.bit Reg.tmTmCtrl 0 && decide (res ≤ spillCells s - s.fld Reg.tmSpillUsed 0 25) then .spill
  else if !room then .drop Reg.tmDropNobuf else .drop Reg.tmDropNospill

/-- A gauge-house record waits in PD31 and could not be admitted (R158). -/
def ghBlocked (s : State) : Bool :=
  match splitPacket ((s.pound 31).taken ++ (s.pound 31).ready) with
  | none => false
  | some (ws, _) =>
    match admitPlace s (ghFq s) (reservation (wordsMeta ws).len) with
    | .drop _ => true
    | _ => false

/-- IRQ_RAW.GH_STALL follows the condition of R158. -/
def reviewGhStall (s : State) : State := { s with tm := { s.tm with ghStall := ghBlocked s } }

/-- The interrupt bit of an admission drop. -/
def dropIrq (s : State) (reg : Nat) : State :=
  if reg = Reg.tmDropNobuf ∨ reg = Reg.tmDropNospill then s.raise Reg.tmIrqRaw 0
  else if reg = Reg.tmDropQlim then s.raise Reg.tmIrqRaw 1 else s

/-- The lowest `n` spill cells not in use, from cell `c` on, with fuel. -/
def freeSpill (used : List Nat) : Nat → Nat → Nat → List Nat
  | 0, _, _ => []
  | _ + 1, 0, _ => []
  | k + 1, n + 1, c => if used.contains c then freeSpill used k (n + 1) (c + 1) else c :: freeSpill used k n (c + 1)

/-- A frame admitted to a queue (R154, R159): its barge, its cells and the counters. -/
def enqueue (s : State) (fq tag : Nat) (info : Meta) (res : Nat) (spilled : Bool) : State :=
  let used := s.tm.frames.flatMap (·.spillAt)
  let f : TmFrame :=
    { fid := s.tm.nextFid, fq := fq, tag := tag, info := info, cells := res, spilled := spilled,
      spillAt := if spilled then freeSpill used (used.length + res) res 0 else [] }
  let n := bankGet (fun _ => 0) s.tm.fqEnq fq
  let s := { s with tm := { s.tm with nextFid := s.tm.nextFid + 1,
                                      fqEnq := bankSet (fun _ => 0) s.tm.fqEnq fq ((n + 1) % 2 ^ 48) } }
  let s := s.addPair Reg.tmEnqLo 1
  let s := if spilled then s.addPair Reg.tmSpilledLo 1 else s
  setBarges s (s.tm.frames ++ [f])

/-- Bytes added to a barge. -/
def growBarge (s : State) (fid : Nat) (d : List Byte) : State :=
  match barge s fid with
  | none => s
  | some f => putBarge s { f with data := f.data ++ d }

/-- A frame that ended with ABORT, or passed 16,383 bytes (R156, R157): discarded whole, or passed on with ABORT where its
first word has left. -/
def abortBarge (s : State) (fid : Nat) : State :=
  match barge s fid with
  | none => s
  | some f =>
    if f.started && decide (f.sent ≠ 0) then
      putBarge (releaseTag ((s.inc Reg.tmTxAbort).raise Reg.tmIrqRaw 5) f.tag) { f with whole := true, aborted := true }
    else
      let s := s.each (List.range 72) (fun p t => if bankGet (fun _ => none) t.tm.sel p = some fid then
        { t with tm := { t.tm with sel := bankSet (fun _ => none) t.tm.sel p none } } else t)
      tmDrop (s.inc Reg.tmDropAbort) f

/-- One readable word of PD28 taken for the frame it continues (R25, R156); the words of a dropped frame are discarded. -/
def tmWord (s : State) (fid : Nat) : State :=
  match (s.pound 28).ready with
  | [] => s
  | w :: _ =>
    let s := eatWords s 28 1
    let s := if w.last then { s with tm := { s.tm with openFid := none } } else s
    match barge s fid with
    | none => s
    | some f =>
      if f.aborted then s
      else
        let s := growBarge s fid w.data
        if 16383 < f.data.length + w.data.length then abortBarge s fid
        else if w.last then
          if w.abort then abortBarge s fid
          else match barge s fid with
            | none => s
            | some f => let n := min f.cells (max 1 (ceilDiv f.data.length 256))
              putBarge s { f with whole := true, cells := n, spillAt := f.spillAt.take n }
        else s

/-- `n` words of PD28 taken. -/
def tmWords (s : State) (fid : Nat) : Nat → State
  | 0 => s
  | n + 1 => tmWords (tmWord s fid) fid n

/-- The words readable on PD28 of the packet at its head, without its end word. -/
def bodyWords (s : State) : Nat := ((headWords s 28).1.filter (fun w => !w.last)).length

/-- R154: the frame whose FIRST word is readable on PD28 admitted or dropped. The words of a dropped frame are discarded
as they come. -/
def tmAdmit (s : State) : State :=
  if islUp s 5 = false ∨ s.tm.openFid.isSome = true then s
  else match (s.pound 28).ready with
    | [] => s
    | w :: _ =>
      let m := w.info
      let fid := s.tm.nextFid
      let s := { s with tm := { s.tm with openFid := some fid } }
      let drop := fun (s : State) =>
        tmWords { s with tm := { s.tm with nextFid := fid + 1 } } fid (headWords s 28).1.length
      if (tagSlot s m.tag).isNone then drop (reviewTm (countDrop (dropRetired s m.tag) m.fq))
      else match admitPlace s m.fq (reservation m.len) with
        | .drop r => drop (reviewTm (countDrop (releaseTag (dropIrq (s.inc r) r) m.tag) m.fq))
        | .chip => let t := enqueue s m.fq m.tag m (reservation m.len) false; tmWords t fid (bodyWords t)
        | .spill => let t := enqueue s m.fq m.tag m (reservation m.len) true; tmWords t fid (bodyWords t)

/-- TM_ADMIT (R154). -/
def execTmAdmit (time : Nat) (s : State) : Host.Outcome State Fault Refusal :=
  let t := s.at time
  done s (reviewGhStall (tmAdmit t))

/-- TM_END_WORD (R155, R157): the end word of frame `fid` has come on PD28. -/
def execTmEndWord (time : Nat) (fid : Nat) (s : State) : Host.Outcome State Fault Refusal :=
  let t := s.at time
  done s (if islUp t 5 = true ∧ t.tm.openFid = some fid ∧ (headWords t 28).2 = true then
      reviewGhStall (tmWords t fid (headWords t 28).1.length)
    else t)

/-- A gauge-house record enters its queue (R81, R158): stamped with the current tag, accounted at P71 and recorded. -/
def ghTake (t : State) (d : List Byte) : State :=
  let m : Meta := { len := d.length, tag := curTag t, fq := ghFq t, inDt := t.now48 }
  let fid := t.tm.nextFid
  let sp := decide (admitPlace t (ghFq t) (reservation d.length) = .spill)
  let u := enqueue (refTag t (curTag t) 1) (ghFq t) (curTag t) m (reservation d.length) sp
  let u := match barge u fid with
    | none => u
    | some f => putBarge u { f with data := d, whole := true }
  let u := (u.addPair (Reg.tmPortTxLo 71) 1).addPair (Reg.tmPortTxbLo 71) d.length
  tapRecord u 1 9 u.now48 d.length 0 d

/-- GH_RECORD_TAKE (R158): a record of PD31 taken on GH_FQ, stamped with the current tag and accounted at P71; left there
while it could not be admitted. -/
def execGhRecordTake (time : Nat) (s : State) : Host.Outcome State Fault Refusal :=
  let t := s.at time
  done s (if islUp t 5 = false ∨ replaying t = true then t
    else if ghBlocked t || (curSlot t).isNone then reviewGhStall t
    else match readPacket t 31 with
      | none => reviewGhStall t
      | some (ws, t) => reviewGhStall (ghTake t (wordsData ws)))

/-- The offset in DRAM of a spill cell (R164). -/
def spillOff (s : State) (c : Nat) : Nat :=
  s.regN Reg.tmSpillBaseLo + 2 ^ 32 * s.fld Reg.tmSpillBaseHi 0 8 - 0x800000000 + 256 * c

/-- A frame's bytes written to its spill cells over memory port 1 (R160). -/
def spillStore (s : State) : List Nat → List Byte → State
  | [], _ => s
  | c :: r, d =>
    let o := spillOff s c
    let s := dramUse s 1 o 256 true
    spillStore (if (dramFault s o 256 true).isNone then s.dramWrite o (d.take 256) else s) r (d.drop 256)

/-- A frame's bytes read from its spill cells. -/
def spillLoad (s : State) (cs : List Nat) (n : Nat) : List Byte := (cs.flatMap (fun c => s.dramRead (spillOff s c) 256)).take n

/-- SPILL_WRITE_DONE (R160): a spilled frame whose end word has come is in DRAM and becomes eligible. -/
def execSpillWriteDone (time : Nat) (fid : Nat) (s : State) : Host.Outcome State Fault Refusal :=
  let t := s.at time
  done s (match barge t fid with
    | none => t
    | some f =>
      if islUp t 5 && f.spilled && f.whole && !f.written then
        reviewGhStall (putBarge (spillStore t f.spillAt f.data) { f with written := true, spillAt := f.spillAt.take f.cells })
      else t)

/-- SPILL_FETCH (R162): the first spilled frame among the first four of its queue that is written and not fetched is
fetched, once the fetch pool has room. -/
def execSpillFetch (time : Nat) (fq : Fin 32768) (s : State) : Host.Outcome State Fault Refusal :=
  let t := s.at time
  let free := 2048 - (t.tm.frames.map (fun f => if f.fetch = 0 then 0 else f.cells)).sum
  done s (match ((fqFrames t fq).take 4).find? (fun f => f.spilled && f.written && decide (f.fetch = 0)) with
    | none => t
    | some f => if islUp t 5 && decide (f.cells ≤ free) then putBarge t { f with fetch := 1 } else t)

/-- SPILL_FETCH_DONE (R162, R163): the frame is complete in the fetch pool, or dropped on an error response. -/
def execSpillFetchDone (time : Nat) (fid : Nat) (ok : Bool) (s : State) : Host.Outcome State Fault Refusal :=
  let t := s.at time
  done s (match barge t fid with
    | none => t
    | some f =>
      if islUp t 5 = false ∨ f.fetch ≠ 1 then t
      else
      let u := t.each f.spillAt (fun c u => dramUse u 1 (spillOff t c) 256 false)
      if ok && f.spillAt.all (fun c => (dramFault t (spillOff t c) 256 false).isNone) then
        reviewGhStall (putBarge u { f with data := spillLoad t f.spillAt f.data.length, fetch := 2, spillAt := [] })
      else reviewGhStall (tmDrop ((u.inc Reg.tmDropDram).raise Reg.tmIrqRaw 3) f))

/-- A frame may leave as far as its place goes (R160, R162, R165): complete on chip or in the fetch pool. -/
def storedReady (f : TmFrame) : Bool := f.whole && (!f.spilled || decide (f.fetch = 2))

/-- The head of a queue: its oldest frame that no request reserves and no port sends. -/
def fqHead (s : State) (fq : Nat) : Option TmFrame :=
  (fqFrames s fq).find? (fun f => !f.started && f.resv.isNone)

/-- Every bucket from a flow queue to a port is eligible (R165). -/
def pathEligible (s : State) (fq port : Nat) : Bool :=
  nodeEligible s 0 fq && nodeEligible s 1 (nodeAbove s fq 1) && nodeEligible s 2 (nodeAbove s fq 2) &&
    nodeEligible s 3 (nodeAbove s fq 3) && nodeEligible s 4 port

/-- The flow queues that hold frames, each once, in ascending order of their first frames. -/
def busyFqs (s : State) : List Nat := (s.tm.frames.map (·.fq)).eraseDups

/-- A number for a node in the deficit and rotation records. -/
def nodeKey (lvl i : Nat) : Nat := lvl * 32768 + i

/-- The deficit of a node (R166). -/
def deficitOf (s : State) (lvl i : Nat) : Nat := bankGet (fun _ => 0) s.tm.deficit (nodeKey lvl i)

/-- The deficit of a node replaced. -/
def setDeficit (s : State) (lvl i v : Nat) : State :=
  { s with tm := { s.tm with deficit := bankSet (fun _ => 0) s.tm.deficit (nodeKey lvl i) v } }

/-- The children at level `lvl` of a node, among the ready flow queues: each once, ascending. -/
def readyKids (s : State) (lvl node : Nat) (fqs : List Nat) : List Nat :=
  ((fqs.filter (fun q => decide (nodeAbove s q (lvl + 1) = node))).map (fun q => nodeAbove s q lvl)).eraseDups.mergeSort
    (fun a b => decide (a ≤ b))

/-- The children that rank first: committed before the others, then the highest PRIO (R166). -/
def bestKids (s : State) (lvl : Nat) (kids : List Nat) : List Nat :=
  let c := kids.filter (fun k => nodeCommitted s lvl k)
  let kids := if c.isEmpty then kids else c
  let top := (kids.map (fun k => nodeFld s lvl k 0 16 3)).foldl max 0
  kids.filter (fun k => decide (nodeFld s lvl k 0 16 3 = top))

/-- Children in the order of the round robin: from the child after the one served last (R166). -/
def rrOrder (kids : List Nat) (last : Option Nat) : List Nat :=
  match last with
  | none => kids
  | some l => kids.filter (fun k => decide (l < k)) ++ kids.filter (fun k => decide (k ≤ l))

/-- The deficit round robin of R166 over children with the lengths they would send. -/
def drr (s : State) (lvl : Nat) : Nat → List (Nat × Nat) → List (Nat × Nat) → Option Nat × State
  | 0, _, _ => (none, s)
  | n + 1, [], all => if all.isEmpty then (none, s) else drr s lvl n all all
  | n + 1, (k, len) :: r, all =>
    if len ≤ deficitOf s lvl k then (some k, setDeficit s lvl k (deficitOf s lvl k - len))
    else drr (setDeficit s lvl k (deficitOf s lvl k + max 64 (nodeFld s lvl k 5 0 16))) lvl n r all

/-- The length that a frame is judged with: its own, or the port's MAXFRAME while it is not known (R170). -/
def headBytes (s : State) (f : TmFrame) : Nat :=
  if f.whole then f.data.length else if f.info.len ≠ 0 then f.info.len else nodeFld s 4 (fqPort s f.fq) 8 16 14

/-- The length of the head frame of a queue, as it is counted for a choice. -/
def headLen (s : State) (fq : Nat) : Nat :=
  match fqHead s fq with
  | none => 0
  | some f => headBytes s f

/-- R166: the flow queue chosen below node `node` at level `lvl` among ready queues, and the state with the deficits and
the rotation moved on. A ready child's deficit starts at 0 again once it stops being ready. -/
def pick (s : State) : Nat → Nat → List Nat → Option Nat × State
  | 0, node, _ => (some node, s)
  | lvl + 1, node, fqs =>
    let kids := readyKids s lvl node fqs
    let best := rrOrder (bestKids s lvl kids) (bankGet (fun _ => none) s.tm.served (nodeKey (lvl + 1) node))
    let lens := best.map (fun k => (k, match (pick s lvl k fqs).1 with
      | none => 0
      | some q => headLen s q))
    let idle := (s.tm.deficit.filter (fun e => decide (e.1 / 32768 = lvl) && decide (parentOf s lvl (e.1 % 32768) = node) &&
      !kids.contains (e.1 % 32768))).map (·.1 % 32768)
    let s := s.each idle (fun i t => setDeficit t lvl i 0)
    match drr s lvl (260 * (best.length + 1)) lens lens with
    | (none, s) => (none, s)
    | (some k, s) =>
      let s := { s with tm := { s.tm with served := bankSet (fun _ => none) s.tm.served (nodeKey (lvl + 1) node) (some k) } }
      pick s lvl k fqs

/-- The port of a radio. -/
def radioPort (x : Nat) : Nat := 66 + x

/-- The subscriber of a station (R147): none with EN = 0. -/
def staSub (s : State) (sta : Nat) : Option Nat :=
  let t := shape s
  let w := i16 (curImg s) (t.off + i32 (curImg s) (t.off + 0x1C) + 2 * sta)
  if t.len ≠ 0 ∧ w / 32768 = 1 then some (w % 8192) else none

/-- Radio `x` may draw from a subscriber (R174, R176). -/
def mayDraw (s : State) (x sub : Nat) : Bool :=
  let p := parentOf s 3 (parentOf s 2 (parentOf s 1 sub))
  decide (p = radioPort x) ||
    (decide (nodeFld s 1 sub 0 26 1 = 1) && decide (x < 2) && (decide (p = 66) || decide (p = 67)))

/-- The queues of a subscriber with a frame ready for radio `x` (R165, R174). -/
def subReady (s : State) (x sub : Nat) : List Nat :=
  (busyFqs s).filter (fun q => decide (nodeAbove s q 1 = sub) && nodeLive s 0 q && pathEligible s q (radioPort x) &&
    (match fqHead s q with
      | none => false
      | some f => storedReady f && !tagRetired s f.tag))

/-- Frames of retired tags at the head of a queue dropped (R86). -/
def dropRetiredHeads (fq : Nat) : Nat → State → State
  | 0, s => s
  | n + 1, s => match fqHead s fq with
    | none => s
    | some f => if (tagSlot s f.tag).isNone then dropRetiredHeads fq n (tmDropRetired s f) else s

/-- The same for every queue of a subscriber. -/
def dropRetiredOf (sub : Nat) (s : State) : State :=
  s.each ((busyFqs s).filter (fun q => decide (nodeAbove s q 1 = sub) && nodeLive s 0 q)) (fun q t =>
    dropRetiredHeads q (fqFrames t q).length t)

/-- Ready frames of a subscriber reserved in the order of R166 while they fit the limit (R173, R175). -/
def reserveMore (x sub limit : Nat) : Nat → Nat → List Nat → State → Nat × List Nat × State
  | 0, n, l, s => (n, l, s)
  | k + 1, n, l, s₀ =>
    let s := dropRetiredOf sub s₀
    match pick s 1 sub (subReady s x sub) with
    | (none, _) => (n, l, s)
    | (some q, t) =>
      match fqHead s q with
      | none => (n, l, s)
      | some f =>
        if limit < n + f.data.length then (n, l, s)
        else reserveMore x sub limit k (n + f.data.length) (l ++ [f.fid]) (putBarge t { f with resv := some x })

/-- The answer to a request recorded. -/
def setAnswer (s : State) (a : TmAnswer) : State := { s with tm := { s.tm with ans := s.tm.ans ++ [a] } }

/-- The answer to a radio's request for the entry that starts at `start` (R173), none where none came. -/
def answerOf (s : State) (x start user : Nat) : Option TmAnswer :=
  s.tm.ans.find? (fun a => decide (a.radio = x) && decide (a.start = start) && decide (a.user = user))

/-- R173, R174, R249 to R251: the answer to a request of radio `x` for a station's traffic, for its place in an entry. -/
def tmRequest (s : State) (x start user sta limit : Nat) : State :=
  let empty := fun (s : State) => setAnswer (s.inc (Reg.tmPortEmpty (radioPort x))) ⟨x, start, user, sta, none, []⟩
  match staSub s sta with
  | none => empty s
  | some sub =>
    let t := dropRetiredOf sub s
    if mayDraw s x sub = false ∨ (subReady t x sub).isEmpty = true ∨ linkDown s sta x = true ∨ nstrHeld s sta x = true ∨
        pnSpent s sta = true then empty t
    else
      let (n, l, s) := reserveMore x sub limit s.tm.frames.length 0 [] s
      setAnswer s ⟨x, start, user, sta, some n, l⟩

/-- R175: frames reserved to radio `x` by the answers of `p` that have not begun to enter its egress pound return to their
queues. -/
def returnReserved (s : State) (x : Nat) (p : TmAnswer → Bool) : State :=
  let gone := s.tm.ans.filter (fun a => decide (a.radio = x) && p a)
  let mine := fun (f : TmFrame) => decide (f.resv = some x) && !f.started && gone.any (fun a => a.fids.contains f.fid)
  let s := s.each (s.tm.frames.filter mine) (fun f t => tapRecord t 1 2 t.now48 (radioPort x) f.fq [])
  setBarges { s with tm := { s.tm with ans := s.tm.ans.filter (fun a => !(decide (a.radio = x) && p a)) } }
    (s.tm.frames.map (fun f => if mine f then { f with resv := none } else f))

/-- The level of the bucket that BKT_SEL names, in whole bytes (R148, BKT_LEVEL). -/
def bktShown (s : State) : Word :=
  let l := s.fld Reg.tmBktSel 16 3
  let lvl := if 4 < l then 0 else l
  let i := s.fld Reg.tmBktSel 0 15
  let pk := s.fld Reg.tmBktSel 20 1
  if nodeLive s lvl i = false then 0
  else if bktUnshaped s lvl i pk then 0x7FFFFFFF
  else BitVec.ofInt 32 (bktLevel s lvl i pk s.dt / 8000000)

/-- The selected bucket refilled to the present DT. -/
def bktRefill (s : State) : State :=
  let l := s.fld Reg.tmBktSel 16 3
  let lvl := if 4 < l then 0 else l
  let i := s.fld Reg.tmBktSel 0 15
  let pk := s.fld Reg.tmBktSel 20 1
  if nodeLive s lvl i && !bktUnshaped s lvl i pk then setBkt s lvl i pk s.dt (bktLevel s lvl i pk s.dt) else s

/-- BKT_LEVEL_READ (R148). -/
def execBktLevelRead (time : Nat) (init : Init) (s : State) : Host.Outcome State Fault Refusal :=
  let t := s.at time
  done s (busRead t init Reg.tmBktLevel (bktShown t) bktRefill)

/-- The address of a register of the spill region. -/
def spillReg : SpillReg → Nat
  | .baseLo => Reg.tmSpillBaseLo
  | .baseHi => Reg.tmSpillBaseHi
  | .size => Reg.tmSpillSize

/-- A write to SPILL_BASE or SPILL_SIZE (R164): ignored while SPILL_USED is not 0; a size above 4,096 stores 4,096. -/
def spillSet (s : State) (a : Nat) (d : Word) : State :=
  if s.fld Reg.tmSpillUsed 0 25 ≠ 0 then s
  else
    let s := plainWrite s a d
    reviewGhStall (reviewTm (if a = Reg.tmSpillSize then s.setFld a 0 13 (min 4096 d.toNat) else s))

/-- SPILL_CONFIG_WRITE (R164). -/
def execSpillConfigWrite (time : Nat) (init : Init) (r : SpillReg) (data : Word) (s : State) :
    Host.Outcome State Fault Refusal :=
  let t := s.at time
  done s (busDo t init (spillReg r) 4 (some data) (fun t => spillSet t (spillReg r) data))

/-- The traffic manager reset (R178): every frame discarded, its reference released; buckets restart at their caps. -/
def tmIslandReset (s : State) : State :=
  let s := s.each s.tm.frames (fun f t => if f.aborted then t else releaseTag t f.tag)
  reviewTm { s with tm := { nextFid := s.tm.nextFid, fqEnq := s.tm.fqEnq, fqDrop := s.tm.fqDrop } }

end Sys2Proof.Machine
end

