-- ==== Sys2Proof/Machine/AirTables.lean ====
section
/-! DEFINITION. The tables that the air players read (R72 to R76, R191 to R202, R264, R276, R289), the blanking plan, the
sluice (R294, R295) and the duty ledger (R218 to R223). -/

namespace Sys2Proof.Machine

/-- The air table of radio `x` in an image. -/
def airTbl (g : Img) (x : Nat) : Tbl := iTbl g (9 + x)

/-- A field of air entry `e` (R72). -/
def airFld (g : Img) (x e word lo len : Nat) : Nat := iFld g ((airTbl g x).off + 16 * e + 4 * word) lo len

/-- EVERY and PHASE select a round (R59); an EVERY of 0 never does. -/
def selects (every phase idx : Nat) : Bool := decide (every ≠ 0) && decide (idx % max 1 every = phase)

/-- Entry `e` of radio `x` fires in round `idx` (R59). -/
def airFires (g : Img) (x e idx : Nat) : Bool := selects (airFld g x e 3 0 16) (airFld g x e 3 16 16) idx

/-- An entry listed earlier fires over entry `e` in round `idx` (R76). -/
def overlapped (g : Img) (x e idx : Nat) : Bool :=
  let a := airFld g x e 1 0 32
  let b := a + airFld g x e 2 0 32
  (List.range e).any (fun i => airFires g x i idx && decide (airFld g x i 1 0 32 < b) &&
    decide (a < airFld g x i 1 0 32 + airFld g x i 2 0 32))

/-- The CONTEND entry that may take the place of a LISTEN entry's end (R184): the first listed that fires in the round and
starts where the LISTEN entry ends, not itself forfeited with OVERLAP. -/
def contendAfter (g : Img) (x idx off : Nat) : Option Nat :=
  (List.range (airTbl g x).count).find? (fun e => decide (airFld g x e 0 0 3 = 4) && airFires g x e idx &&
    decide (airFld g x e 1 0 32 = off))

/-- The LISTEN entry of a station in an air table (R209, R216). -/
def listenEntry (g : Img) (x sta : Nat) : Option Nat :=
  (List.range (airTbl g x).count).find? (fun e => decide (airFld g x e 0 0 3 = 3) && decide (airFld g x e 0 16 16 = sta))

/-- Where channel record `n` of radio `x` lies in the CHAN table (R264). -/
def chanOff (g : Img) (x n : Nat) : Nat :=
  let t := iTbl g 0x0C
  t.off + 16 + 16 * ((if x = 0 then 0 else if x = 1 then i8 g t.off else i8 g t.off + i8 g (t.off + 1)) + n)

/-- The number of channels of radio `x`. -/
def chanCount (g : Img) (x : Nat) : Nat := i8 g ((iTbl g 0x0C).off + x)

/-- CENTRE_KHZ, BW and PUNCT of a channel, by which results carry over (R267). -/
def chanKey (g : Img) (x n : Nat) : Nat × Nat × Nat :=
  let o := chanOff g x n
  (iFld g o 0 23, iFld g o 24 3, iFld g (o + 4) 0 16)

/-- The width of a channel in kHz (R264). -/
def chanWidth (g : Img) (x n : Nat) : Nat := (if x = 2 then 1000 else 20000) * 2 ^ iFld g (chanOff g x n) 24 3

/-- The occupied range of a channel in units of half a kHz: twice its edges in kHz (R265). -/
def chanRange (g : Img) (x n : Nat) : Nat × Nat :=
  let c := 2 * iFld g (chanOff g x n) 0 23
  (c - chanWidth g x n, c + chanWidth g x n)

/-- Where template or list record `n` of a table of offsets lies (R191, R193, R198). -/
def recOff (g : Img) (ty n : Nat) : Nat := let t := iTbl g ty; t.off + i32 g (t.off + 4 * n)

/-- The user entries of TRIG template `n` (R193), as where each lies. -/
def trigUsers (g : Img) (n : Nat) : List Nat :=
  let o := recOff g 0x0E n
  (List.range (iFld g o 0 6 + 1)).map (fun i => o + 16 + 8 * i)

/-- The entries of station list `n` (R198), as where each lies. -/
def listEntries (g : Img) (n : Nat) : List Nat :=
  let o := recOff g 0x0F n
  (List.range (iFld g o 0 9)).map (fun i => o + 8 + 8 * i)

/-- STA of a user entry. -/
def userSta (g : Img) (o : Nat) : Nat := iFld g o 0 12

/-- RU_ALLOC of a user entry. -/
def userRu (g : Img) (o : Nat) : Nat := iFld g o 12 9

/-- NSS of a user entry. -/
def userNss (g : Img) (o : Nat) : Nat := iFld g o 25 3

/-- A word of the sluice (R294). -/
def sluWord (s : State) (i : Nat) : Nat := (bankGet (fun _ => (0 : Word)) s.slu i).toNat

/-- SEAL. -/
def sluSealed (s : State) : Bool := decide (sluWord s 143 % 2 = 1)

/-- The sluice is sealed and its CRC is wrong (R295). -/
def sluBad (s : State) : Bool :=
  sluSealed s && decide (crc32 ((List.range 142).flatMap (fun i => leBytes 4 (sluWord s i))) ≠ sluWord s 142)

/-- Band record `b` is in use (R218, R294, R295). -/
def bandUsedRec (s : State) (b : Nat) : Bool :=
  !sluBad s && decide (sluWord s (8 + 8 * b) % 2 ^ 23 < sluWord s (9 + 8 * b) % 2 ^ 23)

/-- The band records whose range overlaps a channel: they share an interval of non-zero width (R218). -/
def chanBands (s : State) (g : Img) (x n : Nat) : List Nat :=
  let r := chanRange g x n
  (List.range 16).filter (fun b => bandUsedRec s b && decide (2 * (sluWord s (8 + 8 * b) % 2 ^ 23) < r.2) &&
    decide (r.1 < 2 * (sluWord s (9 + 8 * b) % 2 ^ 23)))

/-- MAX_TX_US of a PPDU on a channel (R296), none where no limit of the sluice applies; 4,000 µs on no record while the
sluice is not sealed (R295). -/
def maxTxUs (s : State) (g : Img) (x n : Nat) : Option Nat :=
  let l := (chanBands s g x n).map (fun b => sluWord s (13 + 8 * b) % 2 ^ 24)
  match l with
  | [] => if sluSealed s then none else some 4000
  | a :: r => some (r.foldl min a)

/-- The second that a DT lies in (R219), counted on through chip resets that keep the ledger (R223). -/
def dutySec (s : State) (dt : Nat) : Nat := dt / 1000000000 + s.duty.base

/-- USED of a band record at the present DT (R219): the current bin and the 3,599 before it. -/
def bandUsed (s : State) (b : Nat) : Nat :=
  ((s.duty.bins.filter (fun e => decide (e.1 % 16 = b) && decide (dutySec s s.dt < e.1 / 16 + 3600))).map (·.2)).sum

/-- BAND_RSV of a band record. -/
def bandRsv (s : State) (b : Nat) : Nat := bankGet (fun _ => 0) s.duty.rsv b

/-- A bin of a band record changed. -/
def binAdd (s : State) (sec b : Nat) (n : Int) : State :=
  let v := (((bankGet (fun _ => (0 : Nat)) s.duty.bins (sec * 16 + b) : Nat) : Int) + n).toNat
  { s with duty := { s.duty with bins := bankSet (fun _ => 0) s.duty.bins (sec * 16 + b) v } }

/-- A reservation of a band record changed: it counts in its bin of second `sec` and in BAND_RSV (R221). -/
def rsvAdd (s : State) (sec b : Nat) (n : Int) : State :=
  let s := binAdd s sec b n
  { s with duty := { s.duty with rsv := bankSet (fun _ => 0) s.duty.rsv b ((bandRsv s b : Int) + n).toNat } }

/-- DUTY_BIN_ROLL (R219): bins that left the window are dropped. -/
def execDutyBinRoll (time : Nat) (s : State) : Host.Outcome State Fault Refusal :=
  let t := s.at time
  done s { t with duty := { t.duty with bins := bankKeep (fun k => decide (dutySec t t.dt < k / 16 + 3600)) t.duty.bins } }

/-- The effect of a write to BAND_LIMIT (R226). -/
def bandLimitSet (s : State) (b : Nat) (d : Word) : State :=
  s.setNat (Reg.dutyBandLimit b) (min d.toNat (s.regN (Reg.dutyBandCap b)))

/-- BAND_LIMIT_WRITE (R226). -/
def execBandLimitWrite (time : Nat) (init : Init) (b : Fin 16) (data : Word) (s : State) :
    Host.Outcome State Fault Refusal :=
  let t := s.at time
  done s (busDo t init (Reg.dutyBandLimit b) 4 (some data) (fun t => bandLimitSet t b data))

/-- Window `w` of the blanking plan names radio `x` and fires in round `idx` (R289, R290). -/
def blankWindow (g : Img) (x w idx : Nat) : Bool :=
  let o := (iTbl g 0x12).off + 64 + 16 * w
  decide (nbits (i32 g o) x 1 = 1) && selects (i16 g (o + 12)) (i16 g (o + 14)) idx

/-- A firing window of the blanking plan overlaps the DTs from `a` up to `b` for radio `x` (R288, R290). -/
def windowOver (s : State) (x a b : Nat) : Bool :=
  let g := curImg s
  (curSlot s).isSome && (List.range (iTbl g 0x12).count).any (fun w =>
    let o := (iTbl g 0x12).off + 64 + 16 * w
    blankWindow g x w (roundIdx s) && decide (s.gen.bdy + i32 g (o + 4) < b) &&
      decide (a < s.gen.bdy + i32 g (o + 4) + i32 g (o + 8)))

/-- A word of the BLANK header for a BLANK_IN pin (R289). -/
def pinWord (s : State) (pin : Nat) : Nat := i32 (curImg s) ((iTbl (curImg s) 0x12).off + 32 + 4 * pin)

/-- A BLANK_IN pin is routed to radio `x`. -/
def pinRouted (s : State) (pin x : Nat) : Bool := (curSlot s).isSome && decide (nbits (pinWord s pin) x 1 = 1)

/-- Channels `i` of Radio H and `j` of Radio M conflict (R289). -/
def conflicts (s : State) (i j : Nat) : Bool :=
  let g := curImg s
  (curSlot s).isSome && decide (nbits (i16 g ((iTbl g 0x12).off + 2 * i)) j 1 = 1)

end Sys2Proof.Machine
end

