-- ==== Sys2Proof/Machine/Loss.lean ====
section
/-! DEFINITION. Station events, loss conditions and the fallback table (R250 to R261): LOSS_STATE, its re-evaluation, and
links that go down and come up. -/

namespace Sys2Proof.Machine

/-- The interrupt bit of a station event by its kind (IRQ_RAW of STA). -/
def staEventBit (kind : Nat) : Nat := if kind < 2 then 0 else if kind < 4 then 1 else if kind < 6 then 2 else 3

/-- A station event (EVT_W0, EVT_W1): its kind, radio and argument; a full ring loses it. -/
def staEvent (s : State) (kind x arg : Nat) : State :=
  let s := s.raise Reg.staIrqRaw (staEventBit kind)
  let h := s.fld Reg.staEvtHead 0 8
  if (h + 1) % 256 = s.fld Reg.staEvtTail 0 8 then (s.inc Reg.staEvtLost).raise Reg.staIrqRaw 5
  else ((s.setNat (Reg.staEvtW0 h) (kind + 16 * x + 65536 * (arg % 65536))).setNat (Reg.staEvtW1 h) (s.dt % 2 ^ 32)).setNat
    Reg.staEvtHead ((h + 1) % 256)

/-- LOSS_STATE as a number. -/
def lossState (s : State) : Nat := s.fld Reg.staLossState 0 16

/-- The fallback table re-evaluated with the present vector (R259, R261). -/
def fallbackNow (s : State) : State :=
  reviewTm { s with sta := { s.sta with fbVec := lossState s, fbDue := false } }

/-- LOSS_STATE set (R257): bit PARENT follows the parent's links; on a change the FALLBACK event and the towpath's record
are written and the re-evaluation falls due. -/
def setLoss (s : State) (v : Nat) : State :=
  let p := s.fld Reg.staMeshCtrl 16 12
  let on := s.bit Reg.staMeshCtrl 0 && staValid s p
  let all := on && (staLink s p 0 || staLink s p 1) && (!staLink s p 0 || decide (nbits v 2 1 = 1)) &&
    (!staLink s p 1 || decide (nbits v 3 1 = 1))
  let v := nbits v 0 4 + 16 * bnat all + 256 * s.fld Reg.staLossSw 8 8
  if v = lossState s then s
  else
    let s := s.setFld Reg.staLossState 0 16 v
    let s := tapRecord s 1 8 s.now48 v 0 []
    staEvent { s with sta := { s.sta with fbDue := true } } 6 0 v

/-- One bit of LOSS_STATE set. -/
def setLossBit (s : State) (i : Nat) (b : Bool) : State := setLoss s (putBit (s.reg Reg.staLossState) i b).toNat

/-- FALLBACK_EVAL (R259): the re-evaluation that a change asked for. -/
def execFallbackEval (time : Nat) (s : State) : Host.Outcome State Fault Refusal :=
  let t := s.at time
  done s (if t.sta.fbDue then fallbackNow t else t)

/-- The effect of a write to LOSS_SW (R257): a re-evaluation falls due in any case. -/
def lossSwSet (s : State) (d : Word) : State :=
  let s := setLoss (plainWrite s Reg.staLossSw d) (lossState s)
  { s with sta := { s.sta with fbDue := true } }

/-- LOSS_SW_WRITE (R257). -/
def execLossSwWrite (time : Nat) (init : Init) (data : Word) (s : State) : Host.Outcome State Fault Refusal :=
  let t := s.at time
  done s (busDo t init Reg.staLossSw 4 (some data) (fun t => lossSwSet t data))

/-- UPLINK_RESTORE_TIMER (R257): an uplink up without a break for RESTORE.UL_MS clears its bit. -/
def execUplinkRestoreTimer (time : Nat) (u : Fin 2) (s : State) : Host.Outcome State Fault Refusal :=
  let t := s.at time
  done s (match bankGet (fun _ => none) t.sta.ulUp u with
    | none => t
    | some d =>
      if t.bit Reg.staLossState u ∧ d + 1000000 * max 1 (t.fld Reg.staRestore 0 16) ≤ t.dt then setLossBit t u false else t)

/-- A link of an entry goes down (R251, R255): LINK_UP is cleared, the fault LINK_LOSS raised, and frames reserved there
return at the end of the entry (R175). -/
def linkLost (s : State) (a x : Nat) : State :=
  raiseFault (putStaFld s a 0 (6 + x) 1 0) 6 a .fallback 0

/-- A link of an entry comes up again (R251). -/
def linkBack (s : State) (a x : Nat) : State := putStaFld s a 0 (6 + x) 1 1

/-- The register that shows the parent link on radio `x`, Radio H or M. -/
def parentStat (x : Nat) : Nat := Reg.staParentStat x

/-- The parent of the mesh role (R253): the entry that MESH_CTRL names, while EN is 1 and it has KIND 2. -/
def meshParent (s : State) : Option Nat :=
  let p := s.fld Reg.staMeshCtrl 16 12
  if s.bit Reg.staMeshCtrl 0 && staValid s p && decide (staKind s p = 2) then some p else none

/-- The parent link on radio `x` declared lost (R255). -/
def parentLost (s : State) (p x : Nat) : State :=
  let s := (linkLost s p x).setBit (parentStat x) 4 true
  let s := s.setFld (parentStat x) 8 4 0
  setLossBit (staEvent s 2 x p) (2 + x) true

/-- The parent link on radio `x` restored (R256). -/
def parentBack (s : State) (p x : Nat) : State :=
  let s := ((linkBack s p x).setBit (parentStat x) 4 false).setFld (parentStat x) 8 4 0
  setLossBit (staEvent s 3 x p) (2 + x) false

/-- What the device knows of the parent on radio `x`. -/
def parentLink (s : State) (x : Nat) : Option ParentLink := bankGet (fun _ => none) s.sta.parents x

/-- The parent record replaced. -/
def setParentLink (s : State) (x : Nat) (v : Option ParentLink) : State :=
  { s with sta := { s.sta with parents := bankSet (fun _ => none) s.sta.parents x v } }

/-- The DT, in ns, at which the parent's TSF reaches `t` µs (R254). -/
def parentDt (l : ParentLink) (t : Nat) : Int := ((t : Int) - l.offset) * 1000

/-- Radio `x` was receiving at a DT (R254). -/
def wasReceiving (s : State) (x : Nat) (d : Int) : Bool :=
  let r := bankGet (fun _ => ({} : RdState)) s.rd x
  (match r.rxFrom with
    | none => false
    | some a => decide ((a : Int) ≤ d)) ||
  r.rxSpans.any (fun e => decide ((e.1 : Int) ≤ d) && decide (d < e.2))

/-- A TBTT not met by its deadline (R254, R255): missed where the radio was receiving at the TBTT, otherwise skipped. -/
def tbttMissed (s : State) (p x : Nat) (l : ParentLink) : State :=
  let seen := wasReceiving s x (parentDt l l.tbtt)
  let s := setParentLink s x (some { l with tbtt := l.tbtt + max 1 l.interval })
  if seen = false then s
  else
    let n := min 3 (s.fld (parentStat x) 0 2 + 1)
    let s := (s.setFld (parentStat x) 0 2 n).setFld (parentStat x) 8 4 0
    if n = 3 ∧ s.bit (parentStat x) 4 = false then parentLost s p x else s

/-- PARENT_TBTT_DEADLINE (R254, R255). -/
def execParentTbttDeadline (time : Nat) (x : Radio) (s : State) : Host.Outcome State Fault Refusal :=
  let t := s.at time
  done s (match meshParent t, parentLink t (rIdx x) with
    | some p, some l =>
      if rIdx x < 2 ∧ staLink t p (rIdx x) = true ∧
          parentDt l (l.tbtt + t.fld Reg.staPbcnLate 0 16) < (t.dt : Int) then tbttMissed t p (rIdx x) l
      else t
    | _, _ => t)

/-- A beacon of the parent received on radio `x` at DT `ts` (R254, R256): the offset and the interval are kept, MISS_RUN
returns to 0, and a TBTT met counts towards restoration. -/
def parentBeacon (s : State) (p x ts stamp interval : Nat) : State :=
  let off : Int := (stamp : Int) - (ts / 1000 : Nat)
  let i := max 1 interval
  let late := s.fld Reg.staPbcnLate 0 16
  let met := match parentLink s x with
    | none => false
    | some l => decide (l.tbtt ≤ stamp) && decide (stamp ≤ l.tbtt + late)
  let s := (setParentLink s x (some ⟨off, interval, (stamp / i + 1) * i⟩)).setFld (parentStat x) 0 2 0
  if s.bit (parentStat x) 4 = false ∨ met = false then s
  else
    let n := min 15 (s.fld (parentStat x) 8 4 + 1)
    if max 1 (s.fld Reg.staRestore 16 4) ≤ n then parentBack s p x else s.setFld (parentStat x) 8 4 n

/-- A write of 1 to PARENT_H or PARENT_M has the effect of a restoration (R256); a bit that hardware sets in the same cycle
stays set (R31). -/
def parentLossClear (s : State) (d : Word) : State :=
  let p := s.fld Reg.staMeshCtrl 16 12
  s.each [0, 1] (fun x t => if bitOf d (2 + x) && t.bit Reg.staLossState (2 + x) then parentBack t p x else t)

/-- PARENT_LOSS_CLEAR (R256). -/
def execParentLossClear (time : Nat) (init : Init) (data : Word) (s : State) : Host.Outcome State Fault Refusal :=
  let t := s.at time
  done s (busDo t init Reg.staLossState 4 (some data) (fun t => parentLossClear t data))

/-- The effect of a write to MESH_CTRL (R253): while EN is 0 no parent is tracked and the parent bits are 0. -/
def meshSet (s : State) (d : Word) : State :=
  let old := s.reg Reg.staMeshCtrl
  let s := plainWrite s Reg.staMeshCtrl d
  let same := decide (s.reg Reg.staMeshCtrl = old)
  if same then s
  else
    let s := { s with sta := { s.sta with parents := [] } }
    let s := s.each [0, 1] (fun x t => t.setReg (parentStat x) 0)
    setLoss s (putBits (s.reg Reg.staLossState) 2 2 0).toNat

end Sys2Proof.Machine
end

