-- ==== Sys2Proof/Machine/Sta.lean ====
section
/-! DEFINITION. Stations (R227 to R249): association entries and their commands, key slots, the path from a received MPDU
to an Ethernet frame, sequence numbers and reorder windows. -/

namespace Sys2Proof.Machine

/-- A radio beside its registers. -/
def State.radio (s : State) (x : Nat) : RdState := bankGet (fun _ => {}) s.rd x

/-- A radio replaced. -/
def State.setRadio (s : State) (x : Nat) (r : RdState) : State := { s with rd := bankSet (fun _ => {}) s.rd x r }

/-- A sequence space of an entry: 0 to 7 a TID, 8 NONQOS, 9 MGMT. -/
def spaceOf (s : State) (a sp : Nat) : Space := bankGet (fun _ => {}) s.sta.spaces (a * 16 + sp)

/-- A sequence space replaced; RO_USED follows the cells held (R245). -/
def setSpace (s : State) (a sp : Nat) (v : Space) : State :=
  let s := { s with sta := { s.sta with spaces := bankSet (fun _ => {}) s.sta.spaces (a * 16 + sp) v } }
  s.setFld Reg.staRoUsed 0 24 ((s.sta.spaces.map (fun e => (e.2.held.map (·.cells.length)).sum)).sum)

/-- A pairwise key slot (R246). -/
def pairKey (s : State) (a kid : Nat) : KeySlot := bankGet (fun _ => {}) s.sta.pair (a * 2 + kid)

/-- A pairwise key slot replaced. -/
def setPairKey (s : State) (a kid : Nat) (k : KeySlot) : State :=
  { s with sta := { s.sta with pair := bankSet (fun _ => {}) s.sta.pair (a * 2 + kid) k } }

/-- MPDUs that await retransmission or acknowledgement and that `p` names, discarded. -/
def dropTx (s : State) (p : TxMpdu → Bool) : State :=
  { s with sta := { s.sta with retry := s.sta.retry.filter (fun m => !p m),
                               sent := s.sta.sent.map (fun e => (e.1, e.2.filter (fun m => !p m))) |>.filter (fun e => !e.2.isEmpty) } }

/-- An MPDU dropped for want of the reorder region or with its entry (R231, R245). -/
def roDrop (s : State) (n : Nat) : State := if n = 0 then s else (s.addRc Reg.staRoDrop n).raise Reg.staIrqRaw 6

/-- The radios of LINKS in the words of an entry. -/
def entryRadios (w : Nat → Nat) : List Nat := (List.range 3).filter (fun x => decide (nbits (w 0) (3 + x) 1 = 1))

/-- A REMOVE (R231): held frames are discarded, key slots emptied, the addresses leave the index. -/
def removeEntry (s : State) (a : Nat) : State :=
  let n := ((List.range 10).map (fun sp => (spaceOf s a sp).held.length)).sum
  let s := roDrop s n
  let s := s.each (List.range 10) (fun sp t => setSpace t a sp {})
  let s := dropTx (setPairKey (setPairKey s a 0 {}) a 1 {}) (fun m => decide (m.sta = a))
  let s := { s with sta := { s.sta with index := s.sta.index.filter (fun e => match e.2 with
      | none => false
      | some (_, b) => decide (b ≠ a)),
                                        polls := s.sta.polls.filter (fun p => decide (p.2 ≠ a)),
                                        bars := s.sta.bars.filter (fun b => decide (b.1 ≠ a)) } }
  if staValid s a then (putEntry s a []).setFld Reg.staStaStat 0 13 (s.fld Reg.staStaStat 0 13 - 1) else s

/-- The addresses of an entry's words put into the index (R229): the result code with the state where every one fits. -/
def indexAll (w : Nat → Nat) (a : Nat) : List Nat → State → Nat × State
  | [], s => (0, s)
  | x :: r, s =>
    let ad := txAddrOf w x
    match lookupTa s x ad with
    | some _ => (1, s)
    | none =>
      match (addrPlaces s x ad).find? (fun k => (addrPlace s k).isNone) with
      | none => (2, s)
      | some k => indexAll w a r (putPlace s k (some (ad, a)))

/-- A window code is reserved. -/
def badCode (c : Nat) : Bool := decide (6 ≤ c)

/-- The checks of R228 on the words of an entry with VALID = 1, but for AID_CLASH. -/
def badField (w : Nat → Nat) : Bool :=
  let kind := nbits (w 0) 1 2
  let links := entryRadios w
  let aid := nbits (w 0) 16 13
  decide (kind = 3) ||
    (decide (kind = 0) && (decide (links.length ≠ 1) || decide (w 3 ≠ 0) || decide (w 4 ≠ 0) || decide (w 5 ≠ 0))) ||
    ((decide (kind = 1) || decide (kind = 2)) && (links.isEmpty || links.contains 2 ||
      (!links.contains 0 && decide (linkAddrOf w 0 ≠ 0)) || (!links.contains 1 && decide (linkAddrOf w 1 ≠ 0)))) ||
    (List.range 8).any (fun t => badCode (nbits (w 7) (3 * t) 3) || badCode (nbits (w 8) (3 * t) 3)) ||
    decide (nbits (w 6) 0 2 = 3) || (decide (nbits (w 8) 24 8 = 0) && decide (nbits (w 7) 0 24 ≠ 0)) ||
    (decide (kind < 2) && (((links.contains 0 || links.contains 1) && (decide (aid = 0) || decide (2006 < aid))) ||
      (links.contains 2 && (decide (aid = 0) || decide (8191 < aid)))))

/-- AID_CLASH of R228: another valid entry of KIND 0 or 1 shares the AID and a link. -/
def aidClash (s : State) (a : Nat) (w : Nat → Nat) : Bool :=
  decide (nbits (w 0) 1 2 < 2) && s.sta.entries.any (fun e =>
    decide (e.1 ≠ a) && staValid s e.1 && decide (staKind s e.1 < 2) &&
      decide (staFld s e.1 0 16 13 = nbits (w 0) 16 13) && decide (staFld s e.1 0 3 3 &&& nbits (w 0) 3 3 ≠ 0))

/-- The words of an entry that a WRITE stores: its listed fields, with the device's own fields from `dev`. -/
def entryOf (w dev : Nat → Nat) : List Word :=
  let word := fun n => BitVec.ofNat 32 n
  let w0 := mergeMask (word (dev 0)) (word (w 0)) 0x1FFF1E3F
  [w0, word (w 1), word (w 2 % 2 ^ 16), word (w 3), word (w 4), word (w 5), word (w 6 % 16), word (w 7 % 2 ^ 24),
    word (w 8), word (dev 9), word (dev 10), word (dev 11)]

/-- An install (R230): LINK_UP equals LINKS, and PS, FAIL, LAST_RX and PEER_Q.VALID are cleared (R313). -/
def installEntry (s : State) (a : Nat) (w : Nat → Nat) : State :=
  let s := putEntry s a (entryOf w (fun k => if k = 0 then nbits (w 0) 3 3 * 64 else 0))
  let s := s.setFld Reg.staStaStat 0 13 (s.fld Reg.staStaStat 0 13 + 1)
  s.each (List.range 3) (fun x t => t.setBit (Reg.mdmPeerQ x a) 24 false)

/-- Frames between two sequence numbers. -/
def snDist (a b : Nat) : Nat := (b + 4096 - a % 4096) % 4096

/-- The words that wait for radio `x`'s receive pound written while it has room. -/
def radioDrain (s : State) (x : Nat) : Nat → State
  | 0 => s
  | n + 1 =>
    match (s.radio x).outQ with
    | [] => s
    | w :: r =>
      if poundRoom s (20 + x) then
        radioDrain (poundPush (s.setRadio x { s.radio x with outQ := r }) (20 + x) w) x n
      else s

/-- A frame of a station, without FCS, given to the packet pipeline on radio `x`'s pound as the port of R235. -/
def deliverFrame (s : State) (x port ts a tid : Nat) (f : List Byte) : State :=
  let f := f ++ leBytes 4 (crc32 f)
  let m : Meta := { len := if f.length ≤ 16383 then f.length else 0, inPort := port, inDt := ts, staIdx := a, tid := tid }
  let r := s.radio x
  radioDrain (s.setRadio x { r with outQ := r.outQ ++ packetOf s (20 + x) m f }) x (r.outQ.length + f.length + 1)

/-- The port by which a peer's frames enter (R235). -/
def staPort (s : State) (a x : Nat) : Nat :=
  66 + (if staKind s a = 0 then x else ((List.range 3).find? (fun i => staLink s a i)).getD x)

/-- An MSDU behind its addresses as an Ethernet frame without FCS (R234). -/
def ethOf (da sa msdu : List Byte) : List Byte :=
  let h := msdu.take 6
  if h = [0xAA, 0xAA, 0x03, 0, 0, 0] ∨ h = [0xAA, 0xAA, 0x03, 0, 0, 0xF8] then da ++ sa ++ msdu.drop 6
  else da ++ sa ++ beBytes 2 msdu.length ++ msdu

/-- An MPDU in four addresses (R234). -/
def fourAddr (m : Mpdu) : Bool := m.toDs && m.fromDs

/-- An MPDU sent to a group address. -/
def groupMpdu (m : Mpdu) : Bool := decide (m.ra.toNat % 2 = 1)

/-- DA and SA of a data frame that is no A-MSDU, from its 802.11 addresses (R234). -/
def mpduAddrs (m : Mpdu) : List Byte × List Byte :=
  let b := fun (ad : BitVec 48) => leBytes 6 ad.toNat
  match m.toDs, m.fromDs with
  | false, false => (b m.ra, b m.ta)
  | true, false => (b m.a3, b m.ta)
  | false, true => (b m.ra, b m.a3)
  | true, true => (b m.a3, b m.a4)

/-- An address as it stands in a delivered frame: ADDR in place of the peer's link address in a three-address frame of a
KIND 1 or 2 peer (R234). -/
def shownAddr (s : State) (a x : Nat) (m : Mpdu) (ad : List Byte) : List Byte :=
  if staKind s a ≠ 0 ∧ fourAddr m = false ∧ x < 2 ∧ ad = leBytes 6 (linkAddrOf (staWord s a) x) then
    leBytes 6 (staAddr s a)
  else ad

/-- The subframes of an A-MSDU, as (DA, SA, MSDU). -/
def subframes : Nat → List Byte → List (List Byte × List Byte × List Byte)
  | 0, _ => []
  | n + 1, bs =>
    if bs.length < 14 then []
    else
      let l := beAt bs 12 2
      (sliceB bs 0 6, sliceB bs 6 6, sliceB bs 14 l) :: subframes n (bs.drop ((14 + l + 3) / 4 * 4))

/-- Every subframe of an A-MSDU lies wholly within the MPDU (step 7 of R233). -/
def subframesFit : Nat → List Byte → Bool
  | 0, _ => true
  | n + 1, bs =>
    if bs.isEmpty then true
    else decide (14 + beAt bs 12 2 ≤ bs.length) && decide (14 ≤ bs.length) &&
      subframesFit n (bs.drop ((14 + beAt bs 12 2 + 3) / 4 * 4))

/-- The MSDUs of a data frame as (DA, SA, MSDU) (R234). -/
def mpduMsdus (m : Mpdu) : List (List Byte × List Byte × List Byte) :=
  if m.amsdu then subframes m.payload.length m.payload else [((mpduAddrs m).1, (mpduAddrs m).2, m.payload)]

/-- A data frame is EAPOL: its MSDUs have EtherType 0x888E behind an RFC 1042 or bridge-tunnel header (step 4 of R233). -/
def eapolMpdu (m : Mpdu) : Bool :=
  let l := mpduMsdus m
  !l.isEmpty && l.all (fun f => decide (byteAt f.2.2 0 = 0xAA) && decide (byteAt f.2.2 1 = 0xAA) && decide (beAt f.2.2 6 2 = 0x888E))

/-- RSSI in whole dBm (R312): 0.25 dBm rounded with ties towards +∞, saturated, as a byte. -/
def rssiDbm (rssi : Nat) : Nat := unsigned 8 (clampInt (-128) 127 ((signed 12 rssi + 2) / 4))

/-- A management frame delivered (R236). -/
def deliverMgmt (s : State) (x ts rssi a : Nat) (unknown : Bool) (m : Mpdu) : State :=
  let bss := s.regN (Reg.staBssidLo x) + 2 ^ 32 * s.fld (Reg.staBssidHi x) 0 16
  let a := if unknown then 0 else a
  let hdr := BitVec.ofNat 8 (x + 4 * bnat unknown + 8 * bnat (m.prot && !unknown)) :: leBytes 2 a ++
    [BitVec.ofNat 8 (rssiDbm rssi)] ++ leBytes 4 (ts % 2 ^ 32)
  let port := if unknown then 66 + x else staPort s a x
  deliverFrame s x port ts a 0 (leBytes 6 bss ++ leBytes 6 m.ta.toNat ++ [0x88, 0xB5] ++ hdr ++ m.payload)

/-- A receive drop counted by cause: 0 UNKNOWN, 1 UNAUTH, 2 DUP, 3 OLD, 4 REPLAY, 5 MIC_FAIL, 6 MALF, 7 FLUSH. -/
def rxDrop (s : State) (x c : Nat) : State := s.inc (Reg.staRxCnt x c)

/-- The key slot that a received MPDU names (R246). -/
def rxKey (s : State) (a x : Nat) (m : Mpdu) : KeySlot :=
  if groupMpdu m then bankGet (fun _ => {}) s.sta.parentKeys (x * 8 + m.keyId)
  else if m.keyId.val < 2 then pairKey s a m.keyId else {}

/-- The sequence space of an MPDU. -/
def mpduSpace (m : Mpdu) : Nat :=
  match m.kind with
  | .data => if m.qos then m.tid else 8
  | _ => 9

/-- The receive counter of an MPDU's slot (R246). -/
def rxPn (s : State) (a x : Nat) (m : Mpdu) : Nat :=
  bankGet (fun _ => 0) (rxKey s a x m).rx (if groupMpdu m then 0 else mpduSpace m)

/-- The receive counter of an MPDU's slot set to its PN. -/
def setRxPn (s : State) (a x : Nat) (m : Mpdu) : State :=
  let k := rxKey s a x m
  let k := { k with rx := bankSet (fun _ => 0) k.rx (if groupMpdu m then 0 else mpduSpace m) m.pn }
  if groupMpdu m then
    { s with sta := { s.sta with parentKeys := bankSet (fun _ => {}) s.sta.parentKeys (x * 8 + m.keyId) k } }
  else setPairKey s a m.keyId k

/-- Steps 6 to 8 of R233 for an MPDU released. -/
def releaseMpdu (s : State) (a : Nat) (h : Held) : State :=
  let m := h.m
  if m.prot && decide (m.pn ≤ rxPn s a h.x m) then rxDrop s h.x 4
  else
    let s := if m.prot then setRxPn s a h.x m else s
    match m.kind with
    | .data =>
      if m.amsdu && !(subframesFit m.payload.length m.payload && s.bit Reg.staStaCtrl 1) then rxDrop s h.x 6
      else s.each (mpduMsdus m) (fun f t => deliverFrame t h.x (staPort t a h.x) h.ts a (if m.qos then m.tid else 0)
        (ethOf (shownAddr t a h.x m f.1) (shownAddr t a h.x m f.2.1) f.2.2))
    | _ => deliverMgmt s h.x h.ts h.rssi a false m

/-- The offset in DRAM of a cell of the reorder region (R245). -/
def roOff (s : State) (c : Nat) : Nat :=
  s.regN Reg.staRoBaseLo + 2 ^ 32 * s.fld Reg.staRoBaseHi 0 8 - 0x800000000 + 256 * c

/-- The cells of the reorder region. -/
def roCells (s : State) : Nat := s.fld Reg.staRoSize 0 12 * 4096

/-- A held frame released (R243, R245): it is read from its cells over the DRAM port of its radio, or dropped where the read
receives an error response. -/
def releaseHeld (s : State) (a : Nat) (h : Held) : State :=
  let t := s.each h.cells (fun c u => dramUse u (2 + h.x) (roOff s c) 256 false)
  if h.cells.any (fun c => (dramFault s (roOff s c) 256 false).isSome) then roDrop t 1
  else
    let d := (h.cells.flatMap (fun c => s.dramRead (roOff s c) 256)).take h.m.payload.length
    releaseMpdu t a (if h.cells.isEmpty then h else { h with m := { h.m with payload := d } })

/-- The numbers received that a BlockAck still reports below window start `ws` (R238): those less than half of the space behind it. -/
def backOf (w : Space) (l : List Nat) (ws : Nat) : List Nat :=
  (l ++ w.back).filter (fun g => decide (0 < snDist g ws) && decide (snDist g ws < 2048))

/-- The run of received frames at the window start released, with the window start moved past it (R243). -/
def advance (a sp : Nat) : Nat → State → State
  | 0, s => s
  | n + 1, s =>
    let w := spaceOf s a sp
    match w.ws with
    | none => s
    | some ws =>
      if w.got.contains ws then
        let hs := w.held.filter (fun h => decide (h.m.sn.toNat = ws))
        let s := setSpace s a sp { w with ws := some ((ws + 1) % 4096), got := w.got.filter (fun g => decide (g ≠ ws)),
                                          back := backOf w [ws] ((ws + 1) % 4096),
                                          held := w.held.filter (fun h => decide (h.m.sn.toNat ≠ ws)) }
        advance a sp n (s.each hs (fun h t => releaseHeld t a h))
      else s

/-- WS moved ahead to a number (R243): the held frames below it are released in order, and each hole skipped counts under
FLUSH. -/
def moveWs (s : State) (x a sp target : Nat) : State :=
  let w := spaceOf s a sp
  match w.ws with
  | none => setSpace s a sp { w with ws := some target, back := [] }
  | some ws =>
    let n := snDist ws target
    let below := fun g => decide (snDist ws g < n)
    let holes := n - (w.got.filter below).length
    let hs := (w.held.filter (fun h => below h.m.sn.toNat)).mergeSort
      (fun h k => decide (snDist ws h.m.sn.toNat ≤ snDist ws k.m.sn.toNat))
    let s := setSpace s a sp { w with ws := some target, got := w.got.filter (fun g => !below g),
                                      back := backOf w (w.got.filter below) target,
                                      held := w.held.filter (fun h => !below h.m.sn.toNat) }
    (s.each hs (fun h t => releaseHeld t a h)).addRc (Reg.staRxCnt x 7) holes

/-- The window of a code (R227). -/
def windowOf (code : Nat) : Nat := if code = 0 then 0 else 32 * 2 ^ code

/-- The receive window of a TID. -/
def rxWindow (s : State) (a tid : Nat) : Nat := windowOf (staFld s a 7 (3 * tid) 3)

/-- A WRITE to a valid entry that keeps KIND, LINKS and every address (R230). -/
def updateEntry (s : State) (a : Nat) (w : Nat → Nat) : State :=
  let old := staWord s a
  let changed := (List.range 8).filter (fun t => decide (nbits (old 7) (3 * t) 3 ≠ nbits (w 7) (3 * t) 3))
  let s := s.each changed (fun tid t =>
    let sp := spaceOf t a tid
    let ws := sp.ws.getD 0
    let hs := sp.held.mergeSort (fun h k => decide (snDist ws h.m.sn.toNat ≤ snDist ws k.m.sn.toNat))
    (setSpace t a tid { sp with ws := none, got := [], back := [], held := [] }).each hs (fun h u => releaseHeld u a h))
  let old := staWord s a
  putEntry s a (entryOf w old)

/-- KIND, LINKS and every address are kept (R230). -/
def sameIdentity (s : State) (a : Nat) (w : Nat → Nat) : Bool :=
  let o := staWord s a
  decide (nbits (o 0) 1 5 = nbits (w 0) 1 5) && decide (o 1 = w 1) && decide (o 2 = w 2 % 2 ^ 16) &&
    decide (o 3 = w 3) && decide (o 4 = w 4) && decide (o 5 = w 5)

/-- STA_CMD_STAT.RESULT set. -/
def staResult (s : State) (r : Nat) : State := s.setFlds Reg.staStaCmdStat [(0, 1, 0), (4, 3, r)]

/-- STA_CMD WRITE (R228 to R230): an install that fails leaves what the REMOVE before it left. -/
def staCmdWrite (s : State) (a : Nat) : State :=
  let w := fun k => s.regN (Reg.staStaStage k)
  if w 0 % 2 = 0 then staResult (removeEntry s a) (if staValid s a then 0 else 5)
  else if badField w then staResult s 4
  else if aidClash s a w then staResult s 3
  else if staValid s a && sameIdentity s a w then staResult (updateEntry s a w) 0
  else match indexAll w a (entryRadios w) (removeEntry s a) with
    | (0, t) => staResult (installEntry t a w) 0
    | (r, _) => staResult (removeEntry s a) r

/-- STA_CMD REMOVE (R231). -/
def staCmdRemove (s : State) (a : Nat) : State := staResult (removeEntry s a) (if staValid s a then 0 else 5)

/-- STA_CMD READ (R227). -/
def staCmdRead (s : State) (a : Nat) : State :=
  staResult (s.each (List.range 16) (fun k t => t.setNat (Reg.staStaStage k) (staWord s a k)))
    (if staValid s a then 0 else 5)

/-- STA_CMD READ_TID (R227). -/
def staCmdReadTid (s : State) (a sp kid : Nat) : State :=
  let v := spaceOf s a sp
  let pn := bankGet (fun _ => 0) (pairKey s a kid).rx sp
  let s := s.setNat (Reg.staTidStage 0) (v.ws.getD 0 + 65536 * v.txSn)
  let s := (s.setNat (Reg.staTidStage 1) (pn % 2 ^ 32)).setNat (Reg.staTidStage 2) (pn / 2 ^ 32)
  staResult (s.setNat (Reg.staTidStage 3) v.held.length) (if staValid s a then 0 else 5)

/-- The word of STA_CMD for a command. -/
def staCmdWord (op a : Nat) : Word := BitVec.ofNat 32 (a + 65536 * op)

/-- The effect of a write to STA_CMD. -/
def staCmd (s : State) (d : Word) : State :=
  let a := bitsOf d 0 12
  if s.bit Reg.staStaCmdStat 0 then s
  else match bitsOf d 16 3 with
    | 1 => staCmdWrite s a
    | 2 => staCmdRemove s a
    | 3 => staCmdRead s a
    | 4 => staCmdReadTid s a (bitsOf d 20 4) (bitsOf d 24 1)
    | _ => s

/-- STA_WRITE (R230, R232). -/
def execStaWrite (time : Nat) (init : Init) (a : Fin 4096) (s : State) : Host.Outcome State Fault Refusal :=
  let t := s.at time
  done s (busDo t init Reg.staStaCmd 4 (some (staCmdWord 1 a)) (fun t => staCmd t (staCmdWord 1 a)))

/-- STA_REMOVE (R231). -/
def execStaRemove (time : Nat) (init : Init) (a : Fin 4096) (s : State) : Host.Outcome State Fault Refusal :=
  let t := s.at time
  done s (busDo t init Reg.staStaCmd 4 (some (staCmdWord 2 a)) (fun t => staCmd t (staCmdWord 2 a)))

/-- STA_READ (R227). -/
def execStaRead (time : Nat) (init : Init) (a : Fin 4096) (s : State) : Host.Outcome State Fault Refusal :=
  let t := s.at time
  done s (busDo t init Reg.staStaCmd 4 (some (staCmdWord 3 a)) (fun t => staCmd t (staCmdWord 3 a)))

/-- STA_READ_TID (R227). -/
def execStaReadTid (time : Nat) (init : Init) (a : Fin 4096) (space : Fin 16) (kid : Bool) (s : State) :
    Host.Outcome State Fault Refusal :=
  let t := s.at time
  let d := staCmdWord 4 a ||| BitVec.ofNat 32 (2 ^ 20 * space + 2 ^ 24 * bnat kid)
  done s (busDo t init Reg.staStaCmd 4 (some d) (fun t => staCmd t d))

/-- A write that takes effect only while no entry is valid (R229, R262). -/
def whenNoSta (s : State) (a : Nat) (d : Word) : State := if s.fld Reg.staStaStat 0 13 = 0 then plainWrite s a d else s

/-- ADDR_SEED_WRITE (R229). -/
def execAddrSeedWrite (time : Nat) (init : Init) (data : Word) (s : State) : Host.Outcome State Fault Refusal :=
  let t := s.at time
  done s (busDo t init Reg.staAddrSeed 4 (some data) (fun t => whenNoSta t Reg.staAddrSeed data))

/-- The address of a register of R262. -/
def mldReg : MldReg → Nat
  | .mldLo => Reg.staMldAddrLo
  | .mldHi => Reg.staMldAddrHi
  | .bssidLo x => Reg.staBssidLo (rIdx x)
  | .bssidHi x => Reg.staBssidHi (rIdx x)

/-- MLD_BSSID_WRITE (R262). -/
def execMldBssidWrite (time : Nat) (init : Init) (r : MldReg) (data : Word) (s : State) :
    Host.Outcome State Fault Refusal :=
  let t := s.at time
  done s (busDo t init (mldReg r) 4 (some data) (fun t => whenNoSta t (mldReg r) data))

/-- The address of a register of the reorder region. -/
def roReg : RoReg → Nat
  | .baseLo => Reg.staRoBaseLo
  | .baseHi => Reg.staRoBaseHi
  | .size => Reg.staRoSize

/-- A write to RO_BASE or RO_SIZE, which takes effect only while RO_USED is 0 (R245). -/
def roSet (s : State) (a : Nat) (d : Word) : State := if s.fld Reg.staRoUsed 0 24 = 0 then plainWrite s a d else s

/-- RO_REGION_WRITE (R245). -/
def execRoRegionWrite (time : Nat) (init : Init) (r : RoReg) (data : Word) (s : State) :
    Host.Outcome State Fault Refusal :=
  let t := s.at time
  done s (busDo t init (roReg r) 4 (some data) (fun t => roSet t (roReg r) data))

/-- The result of an install of a key (R247): 0 OK, 1 BAD_SUITE, 2 BAD_ID, 3 NOT_VALID. -/
def keyResult (s : State) (group parent : Bool) (ix kid suite : Nat) : Nat :=
  if group then
    if (decide (1 ≤ kid) && decide (kid ≤ 3) && decide (suite = 3)) ||
        (decide (4 ≤ kid) && decide (kid ≤ 5) && (decide (suite = 1) || decide (suite = 2))) then 1
    else if kid = 0 ∨ 5 < kid ∨ 3 ≤ ix % 4 ∨ (parent = true ∧ 2 ≤ ix % 4) then 2 else 0
  else if suite = 3 then 1 else if 1 < kid then 2 else if staValid s ix then 0 else 3

/-- The key that KEY_DATA, KEY_CTRL and KEY_PN give (R247). -/
def stagedKey (s : State) (suite : Nat) : KeySlot :=
  if suite = 0 then {}
  else { suite := suite,
         key := ((List.range 8).flatMap (fun k => leBytes 4 (s.regN (Reg.staKeyData k)))).take (if suite = 1 then 16 else 32) }

/-- KEY_CMD with value 1 (R247): the slot that KEY_CTRL names is installed or emptied. -/
def keyInstall (s : State) : State :=
  let c := s.reg Reg.staKeyCtrl
  let ix := bitsOf c 0 12
  let kid := bitsOf c 12 3
  let group := bitOf c 15
  let parent := bitOf c 16
  let suite := bitsOf c 18 2
  let pn := s.regN Reg.staKeyPnLo + 2 ^ 32 * s.fld Reg.staKeyPnHi 0 16
  let r := keyResult s group parent ix kid suite
  let k := stagedKey s suite
  let k := if suite = 0 then k
    else if group && parent then { k with rx := bankSet (fun _ => 0) [] 0 pn } else { k with tx := pn }
  let t :=
    if r ≠ 0 then s
    else if group then
      if parent then { s with sta := { s.sta with parentKeys := bankSet (fun _ => {}) s.sta.parentKeys (ix % 4 * 8 + kid) k } }
      else { s with sta := { s.sta with group := bankSet (fun _ => {}) s.sta.group (ix % 4 * 8 + kid) k } }
    else
      let t := setPairKey s ix kid k
      if suite = 0 then dropTx t (fun m => decide (m.sta = ix) && decide (m.kid = some kid)) else t
  let t := t.each (List.range 8) (fun k u => u.setReg (Reg.staKeyData k) 0)
  t.setFlds Reg.staKeyStat [(0, 1, 0), (4, 3, r)]

/-- The effect of a write to KEY_CMD. -/
def keyCmd (s : State) (d : Word) : State := if d = 1 ∧ s.bit Reg.staKeyStat 0 = false then keyInstall s else s

/-- KEY_CMD (R247). -/
def execKeyCmd (time : Nat) (init : Init) (data : Word) (s : State) : Host.Outcome State Fault Refusal :=
  let t := s.at time
  done s (busDo t init Reg.staKeyCmd 4 (some data) (fun t => keyCmd t data))

/-- Cells of the reorder region for a payload: the lowest free ones (R245). -/
def freeRo (s : State) (n : Nat) : List Nat :=
  let used := s.sta.spaces.flatMap (fun e => e.2.held.flatMap (·.cells))
  freeSpill used (used.length + n) n 0

/-- A payload written to cells of the reorder region over the DRAM port of radio `x` (R245). -/
def roStore (s : State) (x : Nat) : List Nat → List Byte → State
  | [], _ => s
  | c :: r, d =>
    let o := roOff s c
    let s := dramUse s (2 + x) o 256 true
    roStore (if (dramFault s o 256 true).isNone then s.dramWrite o (d.take 256) else s) x r (d.drop 256)

/-- An MPDU in its window held, with its bit set, or released at once where it stands at the window start or nothing is held
(R243, R245); the oldest held frames give way while cells lack. -/
def holdMpdu (a tid : Nat) : Nat → Held → State → State
  | 0, _, s => roDrop s 1
  | n + 1, h, s =>
    let w := spaceOf s a tid
    let sn := h.m.sn.toNat
    let ws := w.ws.getD sn
    let need := ceilDiv h.m.payload.length 256
    if 2048 ≤ snDist ws sn then roDrop s 1
    else if roCells s = 0 ∨ sn = ws then
      let s := setSpace s a tid { w with ws := some ws, got := w.got ++ [sn] }
      let s := if roCells s = 0 then releaseMpdu s a h else s
      let w := spaceOf s a tid
      let s := if roCells s = 0 then s else setSpace s a tid { w with held := w.held ++ [{ h with cells := [] }] }
      advance a tid 4096 s
    else if need ≤ roCells s - s.fld Reg.staRoUsed 0 24 then
      let cs := freeRo s need
      let h := { h with cells := cs }
      setSpace (roStore s h.x cs h.m.payload) a tid { w with ws := some ws, got := w.got ++ [sn], held := w.held ++ [h] }
    else
      match (w.held.map (fun k => snDist ws k.m.sn.toNat)).min? with
      | none => roDrop s 1
      | some d => holdMpdu a tid n h (advance a tid 4096 (moveWs s h.x a tid ((ws + d + 1) % 4096)))

/-- Step 5 and the release of R233 for an MPDU of a known peer (R242, R243). -/
def sequenceMpdu (s : State) (a : Nat) (h : Held) : State :=
  let m := h.m
  let sp := mpduSpace m
  let sn := m.sn.toNat
  let w := spaceOf s a sp
  let win := if sp < 8 then rxWindow s a sp else 0
  if win = 0 then
    if m.retry && decide (w.last = some sn) then rxDrop s h.x 2
    else releaseMpdu (setSpace s a sp { w with last := some sn }) a h
  else
    let d := snDist (w.ws.getD sn) sn
    if 2048 ≤ d then rxDrop s h.x 3
    else if d < win then if w.got.contains sn then rxDrop s h.x 2 else holdMpdu a sp 1025 h s
    else holdMpdu a sp 1025 h (advance a sp 4096 (moveWs s h.x a sp ((sn + 4097 - win) % 4096)))

/-- A data frame breaks step 4 of R233. -/
def unauth (s : State) (a : Nat) (m : Mpdu) : Bool :=
  let auth := decide (staFld s a 0 10 1 = 1)
  if eapolMpdu m && !m.prot then auth
  else (decide (staFld s a 6 0 2 ≠ 0) && !m.prot) || (!auth && !eapolMpdu m)

/-- R233 for an MPDU with a valid FCS that is not a control frame, received on radio `x`. -/
def receiveMpdu (s : State) (x ts rssi : Nat) (m : Mpdu) : State :=
  let data := decide (m.kind = .data)
  match lookupTa s x m.ta.toNat with
  | none =>
    if !data && s.bit Reg.staStaCtrl 0 then deliverMgmt s x ts rssi 0 true m else rxDrop s x 0
  | some a =>
    if m.fragment then rxDrop s x 6
    else if m.prot && decide ((rxKey s a x m).suite = 0) then rxDrop s x 1
    else if m.prot && !m.micOk then staEvent (rxDrop s x 5) 4 x a
    else if data && unauth s a m then rxDrop s x 1
    else sequenceMpdu s a ⟨m, x, ts, rssi, s.dt, []⟩

/-- REORDER_TIMEOUT (R243): a frame that has waited RO_TO is released with what stands before it and the run that follows it: the
window start moves past it. -/
def execReorderTimeout (time : Nat) (a : Fin 4096) (tid : Fin 8) (s : State) : Host.Outcome State Fault Refusal :=
  let t := s.at time
  done s (match (spaceOf t a tid).held.mergeSort (fun h k => decide (h.since ≤ k.since)) with
    | [] => t
    | h :: _ =>
      if h.since + 1000000 * staFld t a 8 24 8 ≤ t.dt then
        advance a tid 4096 (moveWs t h.x a tid ((h.m.sn.toNat + 1) % 4096))
      else t)

/-- A BlockAckReq on a TID with an agreement (R237, R243): WS moves to its starting number where that lies ahead. -/
def rxBar (s : State) (x a tid ssn : Nat) : State :=
  if rxWindow s a tid = 0 then s
  else match (spaceOf s a tid).ws with
    | none => moveWs s x a tid ssn
    | some ws => if 0 < snDist ws ssn ∧ snDist ws ssn < 2048 then advance a tid 4096 (moveWs s x a tid ssn) else s

end Sys2Proof.Machine
end

