-- ==== Sys2Proof/Machine/Radio.lean ====
section
/-! DEFINITION. Radios (R264 to R298): the states shown in RD_STAT, the receive path (R274, R185), the modem's states and
reports (R303, R312), blanking sources (R288 to R292), and the air players' records and events (R183, R187, R209 to R217). -/

namespace Sys2Proof.Machine

/-- RD_STAT.SYN_STATE: 0 OFF, 1 WARM, 2 SETTLE, 3 LOCKED, 4 CAL, 5 FAULT. -/
def synState (s : State) (x : Nat) : Nat := s.fld (Reg.rdRdStat x) 0 3

/-- RD_STAT.TX_STATE: 0 IDLE, 1 HOLD, 2 STEP, 3 LEAD, 4 ON, 5 TAIL. -/
def txState (s : State) (x : Nat) : Nat := s.fld (Reg.rdRdStat x) 4 3

/-- RD_STAT.RX_STATE: 0 OFF, 1 LISTEN, 2 TURN, 3 BLANKED. -/
def rxState (s : State) (x : Nat) : Nat := s.fld (Reg.rdRdStat x) 8 2

/-- RD_STAT.CHAN: the channel index in use. -/
def radioChan (s : State) (x : Nat) : Nat := s.fld (Reg.rdRdStat x) 12 4

/-- MDM_STAT.RX_STATE: 0 IDLE, 1 DETECT, 2 SIG, 3 UNCONF, 4 DATA, 5 OFF. -/
def mdmState (s : State) (x : Nat) : Nat := s.fld (Reg.mdmStat x) 0 3

/-- A modem's state set; REF is 0 with no reception. -/
def setMdm (s : State) (x st : Nat) : State :=
  let s := s.setFld (Reg.mdmStat x) 0 3 st
  if st = 0 ∨ st = 5 then (s.setFld (Reg.mdmStat x) 8 8 0).setRadio x { s.radio x with rx := none } else s

/-- An air player beside its registers. -/
def State.airOf (s : State) (x : Nat) : AirRadio := bankGet (fun _ => {}) s.air x

/-- An air player replaced. -/
def State.setAirOf (s : State) (x : Nat) (a : AirRadio) : State := { s with air := bankSet (fun _ => {}) s.air x a }

/-- A chain of a radio. -/
def rdChain (s : State) (x c : Nat) : RdChain := bankGet (fun _ => {}) (s.radio x).chains c

/-- A chain of a radio replaced. -/
def setRdChain (s : State) (x c : Nat) (v : RdChain) : State :=
  s.setRadio x { s.radio x with chains := bankSet (fun _ => {}) (s.radio x).chains c v }

/-- The level of an output line at the present DT. -/
def wireNow (s : State) (w : Wire) : Bool :=
  match w.flip with
  | none => w.lvl
  | some t => if t ≤ s.dt then !w.lvl else w.lvl

/-- A line set to take level `b` at DT `t`. -/
def wireTo (s : State) (w : Wire) (b : Bool) (t : Nat) : Wire :=
  let n := wireNow s w
  if n = b then { lvl := b } else if t ≤ s.dt then { lvl := b } else { lvl := n, flip := some t }

/-- The chains a radio has (R281). -/
def chainCount (x : Nat) : Nat := if x = 2 then 2 else 4

/-- The enabled chains of a radio. -/
def enabledChains (s : State) (x : Nat) : List Nat :=
  (List.range (chainCount x)).filter (fun c => s.bit (Reg.rdChainEn x) c)

/-- Every enabled chain of a radio changed. -/
def eachChain (s : State) (x : Nat) (f : RdChain → RdChain) : State :=
  s.each (enabledChains s x) (fun c t => setRdChain t x c (f (rdChain t x c)))

/-- A mandatory calibration is pending on channel `n` (CAL_STAT.MAND). -/
def mandPending (s : State) (x n : Nat) : Bool := s.bit (Reg.rdCalStat x) n

/-- Two radios' channels in use conflict (R289, R291). -/
def channelsConflict (s : State) : Bool := conflicts s (radioChan s 0) (radioChan s 1)

/-- The partner of radio `x` receives a PPDU, its SIG validated, on a conflicting channel (R291). -/
def partnerReceives (s : State) (x : Nat) : Bool :=
  decide (x < 2) && (decide (mdmState s (1 - x) = 3) || decide (mdmState s (1 - x) = 4)) && channelsConflict s

/-- A PA enable of radio `x` is high. -/
def paOn (s : State) (x : Nat) : Bool := (List.range (chainCount x)).any (fun c => wireNow s (rdChain s x c).paEn)

/-- RD_STAT.LOCKED, MAND and SLU_OPEN follow the synthesiser, CAL_STAT and the sluice; BLANK_STAT.PARTNER and WINDOW follow
the sources of R290 and R291, and MDM_STAT.BUSY the reception and the announced durations of R302. -/
def reviewRdStat (s : State) (x : Nat) : State :=
  let s := s.setFlds (Reg.rdBlankStat x) [(4, 1, bnat (partnerReceives s x)), (5, 1, bnat (windowOver s x s.dt (s.dt + 1)))]
  let busy := decide (1 ≤ s.fld (Reg.mdmStat x) 0 3 ∧ s.fld (Reg.mdmStat x) 0 3 ≤ 4) ||
    decide (s.dt < (s.radio x).busyTo) || decide (s.dt < (s.radio x).nav)
  let s := s.setBit (Reg.mdmStat x) 16 busy
  s.setFlds (Reg.rdRdStat x) [(16, 1, bnat (decide (synState s x = 3))), (17, 1, bnat (mandPending s x (radioChan s x))),
    (18, 1, bnat (!sluSealed s))]

/-- The partner of radio `x` transmits on a conflicting channel (R291). -/
def partnerSends (s : State) (x : Nat) : Bool :=
  decide (x < 2) && (paOn s (1 - x) || decide (txState s (1 - x) = 4)) && channelsConflict s

/-- A BLANK_IN pin, as filtered, blanks radio `x` (R288). -/
def pinBlanks (s : State) (x : Nat) : Bool :=
  (List.range 4).any (fun p => s.bit (Reg.rdBlankStat x) p && pinRouted s p x)

/-- A blanking source applies to radio `x` now, or a window would overlap the DTs `a` to `b` (R288). -/
def blanked (s : State) (x a b : Nat) : Bool :=
  pinBlanks s x || partnerReceives s x || windowOver s x s.dt (s.dt + 1) || windowOver s x a b

/-- The window of a LISTEN entry is open (R211). -/
def listenOpen (s : State) (x : Nat) : Bool :=
  match (s.airOf x).listen with
  | none => false
  | some l => l.opened && decide (s.dt < l.cls)

/-- A reception is in progress. -/
def receiving (s : State) (x : Nat) : Bool := decide (1 ≤ mdmState s x) && decide (mdmState s x ≤ 4)

/-- The entry in play allows reception (R185). -/
def rxAllowed (s : State) (x : Nat) : Bool :=
  match (s.airOf x).play with
  | none => true
  | some p =>
    if p.ty = 6 then p.forfeit
    else if p.ty = 5 then p.forfeit || decide (p.flags % 2 = 0)
    else if p.ty = 3 then listenOpen s x || (s.airOf x).wake.isSome || receiving s x
    else true

/-- When the medium became or will become idle, as far as the device knows, none while that is open (R240, R302): no reception,
no announced duration, no NAV, no transmission of its own, and energy detection idle since `ed`. -/
def mediumIdleFrom (s : State) (x ed : Nat) : Option Nat :=
  let r := s.radio x
  let m := max (max r.busyTo r.nav) (max (max r.rxDone r.txDone) ed)
  if receiving s x then
    if 3 ≤ mdmState s x then r.rx.map (fun q => max m q.stop) else none
  else some m

/-- A report of a reception that did not reach its end (R312): what its SIG announced, the other measures open; its MPDUs that
passed are kept (R305). -/
def dropReport (s : State) (x : Nat) : State :=
  let (a, s) := s.drawWord
  let (b, s) := s.drawWord
  let (c, s) := s.drawWord
  let (d, s) := s.drawNat
  let g := (s.radio x).rx.bind (·.sig)
  let v := fun (f : SigInfo → Nat) => (g.map f).getD 0
  s.setRadio x { s.radio x with kept := g, report :=
    [putBit (putBits (a &&& 0x0FFF0FFF) 24 4 (v (·.format))) 28 true,
      (b &&& 0x8FFF0000) ||| BitVec.ofNat 32 (v (·.mcs) % 16 + 16 * (v (·.nss) % 4) + 64 * (v (·.bw) % 8)),
      BitVec.ofNat 32 (d % 2 ^ 32), BitVec.ofNat 32 (d / 2 ^ 32 % 2 ^ 16), c &&& 0xFFFF] }

/-- A reception that ends no exchange any more: the medium is idle from now as far as it goes (R302). -/
def rxOver (s : State) (x : Nat) : State := s.setRadio x { s.radio x with rxDone := s.dt }

/-- The counters that the events of the receive table move. -/
def mdmCounters (x : Nat) : List Nat :=
  [Reg.mdmPdCnt x, Reg.mdmPdFalse x, Reg.mdmSigFail x, Reg.mdmUnsupp x, Reg.mdmRestartCnt x, Reg.mdmFalseSig x, Reg.mdmCaptureCnt x]

/-- The modem as it stands before the events of this cycle is kept: a receive path that leaves LISTEN in it beats them (R305). -/
def mdmMark (s : State) (x : Nat) : State :=
  let r := s.radio x
  if r.undo.elim false (fun u => decide (u.at_ = s.dt)) then s
  else s.setRadio x { r with undo := some ⟨s.dt, (mdmCounters x).map (fun a => (a, s.reg a)), mdmState s x, r.rx, r.busyTo⟩ }

/-- The receive path leaves LISTEN (R303): a reception is lost. It beats every other event of the receive table in its cycle, so that
what they did is undone first (R305). -/
def modemOff (s : State) (x : Nat) : State :=
  let (s, st) := match (s.radio x).undo with
    | none => (s, mdmState s x)
    | some u =>
      if u.at_ = s.dt ∧ mdmState s x ≠ 5 then
        ((s.each u.regs (fun e t => t.setReg e.1 e.2)).setRadio x { s.radio x with rx := u.rx, busyTo := u.busyTo }, u.was)
      else (s, mdmState s x)
  let s := if 1 ≤ st ∧ st ≤ 4 then
      let t := rxOver (s.inc (Reg.mdmRxLost x)) x
      if 3 ≤ st then dropReport t x else t
    else s
  setMdm s x 5

/-- The receive path enters LISTEN (R274, R282): RXEN is high, and the modem is armed 1 µs later, or when the receiver is ready
after a transmission. -/
def rxEnter (s : State) (x : Nat) : State :=
  let s := s.setFld (Reg.rdRdStat x) 8 2 1
  let r := s.radio x
  let s := s.setRadio x { r with rxFrom := some s.dt, armAt := if s.dt < r.armAt then r.armAt else s.dt + 1000 }
  eachChain s x (fun c => { c with rxEn := wireTo s c.rxEn true s.dt, byp := wireTo s c.byp (c.blind || c.agc % 2 = 1) s.dt })

/-- The receive path leaves LISTEN for a state (R274, R303): RXEN is low in OFF, and BLANKED bypasses the LNAs. -/
def rxLeave (s : State) (x st : Nat) : State :=
  let s := modemOff s x
  let r := s.radio x
  let spans := match r.rxFrom with
    | none => r.rxSpans
    | some a => (a, s.dt) :: r.rxSpans.filter (fun e => decide (s.dt < e.2 + 2 ^ 27))
  let s := (s.setFld (Reg.rdRdStat x) 8 2 st).setRadio x { r with rxFrom := none, rxSpans := spans }
  if st = 0 then eachChain s x (fun c => { c with rxEn := wireTo s c.rxEn false s.dt })
  else if st = 3 then eachChain s x (fun c => { c with byp := wireTo s c.byp true s.dt })
  else s

/-- The receive path of a radio moved as its conditions now say (R274). -/
def reviewRxOne (x : Nat) (s : State) : State :=
  let want := rxAllowed s x && decide (synState s x = 3) && islUp s (8 + x)
  let busy := decide (3 ≤ txState s x)
  let ready := fun (s : State) => if partnerSends s x then rxLeave s x 3 else rxEnter s x
  match rxState s x with
  | 0 => if want && !busy then ready s else s
  | 1 => if busy then rxLeave s x 2 else if !want then rxLeave s x 0 else if partnerSends s x then rxLeave s x 3 else s
  | 2 => if busy then s else if want then ready s else rxLeave s x 0
  | _ => if !want then rxLeave s x 0 else if partnerSends s x then s else ready s

/-- Every radio's receive path and status reviewed. -/
def reviewRadios (s : State) : State :=
  (s.each (List.range 3) reviewRxOne).each (List.range 3) (fun x t => reviewRdStat t x)

/-- An event of an air player (EVT_W0, EVT_W1): 0 FORFEIT, 1 REFUSED, 2 REACQ, 3 LOST; a full ring loses it. -/
def airEvent (s : State) (x kind cause entry sta : Nat) : State :=
  let s := s.raise (Reg.airIrqRaw x) (if kind < 2 then 0 else kind - 1)
  let h := s.fld (Reg.airEvtHead x) 0 8
  if (h + 1) % 256 = s.fld (Reg.airEvtTail x) 0 8 then (s.inc (Reg.airEvtLost x)).raise (Reg.airIrqRaw x) 4
  else ((s.setNat (Reg.airEvtW0 x h) (kind + 16 * cause + 256 * entry + 2 ^ 20 * sta)).setNat (Reg.airEvtW1 x h)
    (roundIdx s % 2 ^ 32)).setNat (Reg.airEvtHead x) ((h + 1) % 256)

/-- A forfeit or a refusal counted by its cause, with its event (R183). -/
def airCause (s : State) (x kind cause entry sta : Nat) : State :=
  let s := s.inc (Reg.airForfeitCnt x cause)
  let s := if cause = 1 then s.inc Reg.genOverlapCnt else s
  airEvent s x kind cause entry sta

/-- The entry in play replaced; PLAY_STAT of the player follows it (R54). -/
def setPlay (s : State) (x : Nat) (p : Option AirPlay) : State :=
  let s := s.setAirOf x { s.airOf x with play := p }
  s.setFlds (Reg.genPlayStat (66 + x)) [(0, 12, match p with
    | none => 0
    | some p => p.entry), (12, 2, (curSlot s).getD 0), (17, 1, bnat ((curSlot s).isNone || !islUp s (8 + x))),
    (18, 1, bnat (p.isNone && (curSlot s).isSome && islUp s (8 + x)))]

/-- The association index that an event of the entry in play shows: that of a LISTEN entry. -/
def playSta (p : AirPlay) : Nat := if p.ty = 3 then p.arg else 0

/-- The entry in play forfeited (R183). -/
def forfeitPlay (s : State) (x cause : Nat) : State :=
  match (s.airOf x).play with
  | none => s
  | some p => airCause (setPlay s x (some { p with forfeit := true })) x 0 cause p.entry (playSta p)

/-- Stations named in the round (R187), none of them where the count would pass 2,048. -/
def nameStations (s : State) (l : List Nat) : Option State :=
  let n := l.eraseDups.filter (fun a => !s.gen.names.contains a)
  if 2048 < s.gen.names.length + n.length then none
  else
    let s := { s with gen := { s.gen with names := s.gen.names ++ n } }
    some (s.each (List.range 3) (fun x t => t.setFld (Reg.airAirStat x) 0 12 t.gen.names.length))

/-- A quotient rounded to the nearest whole number, ties away from zero (R210). -/
def roundDiv (n d : Int) : Int := if 0 ≤ n then (2 * n + d) / (2 * d) else -((-2 * n + d) / (2 * d))

/-- D of a station record, signed q. -/
def asrD (s : State) (x a : Nat) : Int := signed 24 (s.fld (Reg.airAsrD x a) 0 24)

/-- G of a station record, signed q per hour. -/
def asrG (s : State) (x a : Nat) : Int := signed 16 (s.fld (Reg.airAsrG x a) 0 16)

/-- V of a station record. -/
def asrV (s : State) (x a : Nat) : Nat := s.fld (Reg.airAsrV x a) 0 16

/-- STATE of a station record: 0 REACQ, 1 TRACK, 2 LOST. -/
def asrState (s : State) (x a : Nat) : Nat := s.fld (Reg.airAsrStat x a) 0 2

/-- SPAN of a station record in µs. -/
def asrSpan (s : State) (x a : Nat) : Nat := s.regN (Reg.airAsrSpan x a)

/-- UNSURE of a station record in µs. -/
def asrUnsure (s : State) (x a : Nat) : Nat := s.fld (Reg.airAsrAux x a) 0 16

/-- SPAN set, saturating. -/
def setSpan (s : State) (x a : Nat) (v : Int) : State := s.setNat (Reg.airAsrSpan x a) (clampInt 0 0xFFFFFFFF v).toNat

/-- A value stored in a field of `len` bits; where the field cannot hold it, the spec states no value and the field takes
an open one. -/
def fitOr (s : State) (len : Nat) (fits : Bool) (v : Nat) : Nat × State :=
  if fits then (v, s) else let (n, s) := s.drawNat; (n % 2 ^ len, s)

/-- DRIFT_EN. -/
def driftOn (s : State) (x : Nat) : Bool := s.bit (Reg.airAirCtrl x) 0

/-- A station's LISTEN entry in the current generation (R216). -/
def listenGen (s : State) (x sta : Nat) : Option ListenGen :=
  if (curSlot s).isSome then
    let g := curImg s
    (listenEntry g x sta).map (fun e =>
      { sUs := airFld g x e 3 0 16 * roundNs s / 1000, every := airFld g x e 3 0 16, phase := airFld g x e 3 16 16,
        start := airFld g x e 1 0 32, len := airFld g x e 2 0 32, round := roundNs s, bdy := s.gen.bdy, idx := roundIdx s })
  else none

/-- The station's entry in the generation that was current when the window closed (R216). -/
def listenAt (s : State) (x : Nat) (l : Listen) : Option ListenGen := l.gen.getD (listenGen s x l.sta)

/-- S of a station whose LISTEN entry fired, in µs (R216): that of the generation current when the window closed, otherwise that of the
entry that fired. -/
def stationS (s : State) (x : Nat) (l : Listen) : Nat :=
  match listenAt s x l with
  | none => l.sUs
  | some g => g.sUs

/-- A window that closed before boundary `b` keeps the entry of the generation that a swap at `b` replaces (R216). -/
def listenFreeze (s : State) (x b : Nat) : State :=
  let a := s.airOf x
  match a.listen with
  | none => s
  | some l =>
    if l.opened && decide (l.cls < b) && l.gen.isNone then
      s.setAirOf x { a with listen := some { l with gen := some (listenGen s x l.sta) } }
    else s

/-- A record put into re-acquisition (R214): D, G and V return to the priors and the anchor is kept. -/
def asrReacquire (s : State) (x a : Nat) : State :=
  let s := s.setNat (Reg.airAsrD x a) (s.fld (Reg.airPriorD x) 0 24)
  let s := (s.setNat (Reg.airAsrG x a) 0).setNat (Reg.airAsrV x a) (s.fld (Reg.airPriorV x) 0 16)
  s.setFlds (Reg.airAsrStat x a) [(0, 2, 0), (8, 4, 8)]

/-- A miss (R214, R215). With DRIFT_EN = 0 no record is updated. -/
def listenMissed (s : State) (x : Nat) (l : Listen) : State :=
  let s := (s.setAirOf x { s.airOf x with listen := none }).inc (Reg.airMissCnt x)
  if driftOn s x = false then s
  else
    let a := l.sta
    let s := setSpan s x a (asrSpan s x a + stationS s x l)
    let n := min 3 (s.fld (Reg.airAsrStat x a) 4 2 + 1)
    let s := s.setFld (Reg.airAsrStat x a) 4 2 n
    if asrState s x a = 1 then
      if n = 3 then airEvent ((asrReacquire s x a).inc (Reg.airReacqCnt x)) x 2 0 l.entry a else s
    else if asrState s x a = 0 then
      let w := s.fld (Reg.airAsrStat x a) 8 4 - 1
      let s := s.setFld (Reg.airAsrStat x a) 8 4 w
      if w = 0 then airEvent (s.setFld (Reg.airAsrStat x a) 0 2 2) x 3 0 l.entry a else s
    else s

/-- A reception that began in the window of a LISTEN entry is still in progress. -/
def windowReception (s : State) (x : Nat) (l : Listen) : Bool :=
  receiving s x && (match (s.radio x).rx with
    | none => false
    | some r => decide (l.opn ≤ r.ts) && decide (r.ts < l.cls))

/-- A hit settled: the frames reserved for its answer that were not sent return (R175). -/
def wakeOver (s : State) (x : Nat) (w : Wake) : State :=
  returnReserved (s.setAirOf x { s.airOf x with wake := none }) x (fun a => decide (a.start = w.hitAt) && decide (a.sta = w.sta))

/-- A wake-timing frame given up or never sent (R213): SPAN is S. -/
def wakeGivenUp (s : State) (x : Nat) : State :=
  match (s.airOf x).wake with
  | none => s
  | some w =>
    let s := wakeOver s x w
    if driftOn s x then setSpan s x w.sta w.sUs else s

/-- A wake-timing frame sent with sequence number `sn` (R213): SPAN is S + C. -/
def wakeSent (s : State) (x sn : Nat) : State :=
  match (s.airOf x).wake with
  | none => s
  | some w =>
    let s := s.setAirOf x { s.airOf x with wake := some { w with sent := true, sn := sn } }
    if driftOn s x then setSpan s x w.sta (w.sUs + w.c) else s

/-- A wake-timing frame not confirmed (R213): SPAN is S + C/2 and UNSURE |C|/2 rounded up. -/
def wakeUnsure (s : State) (x : Nat) : State :=
  match (s.airOf x).wake with
  | none => s
  | some w =>
    if w.sent = false then s
    else
      let s := (wakeOver s x w).inc (Reg.airUnsureCnt x)
      if driftOn s x = false then s
      else
        let u := (w.c.natAbs + 1) / 2
        let (v, s) := fitOr s 16 (decide (u < 2 ^ 16)) u
        (setSpan s x w.sta (w.sUs + w.c.tdiv 2)).setFld (Reg.airAsrAux x w.sta) 0 16 v

/-- A wake-timing frame confirmed by the station's block acknowledgement (R213): UNSURE stays 0. -/
def wakeConfirmed (s : State) (x : Nat) : State :=
  match (s.airOf x).wake with
  | none => s
  | some w => wakeOver s x w

end Sys2Proof.Machine
end

