-- ==== Sys2Proof/Machine/Transmit.lean ====
section
/-! DEFINITION. Transmission (R181 to R184, R189 to R192, R220, R221, R239, R268, R270 to R273, R282 to R287, R296, R299, R317,
R319): the checks before an exchange, the transmit path, the FEM lines, the duty charge, the PPDU that is built with its power,
return loss and the tuner of Radio L, and the MPDUs of a PPDU (R248, R249). -/

namespace Sys2Proof.Machine

/-- PA_LEAD in ns (R282). -/
def paLead (s : State) (x : Nat) : Nat := 100 * s.fld (Reg.rdFemTiming x) 0 6

/-- TX_LEAD in ns (R282). -/
def enLead (s : State) (x : Nat) : Nat := 100 * s.fld (Reg.rdFemTiming x) 8 6

/-- BO_LEAD in ns (R282). -/
def boLead (s : State) (x : Nat) : Nat := 100 * s.fld (Reg.rdFemTiming x) 16 6

/-- TX_DELAY_NS. -/
def txDelay (s : State) (x : Nat) : Nat := s.fld (Reg.rdTxDelayNs x) 0 12

/-- The centre of the channel in use in kHz. -/
def radioKhz (s : State) (x : Nat) : Nat := (chanKey (curImg s) x (radioChan s x)).1

/-- SIFS in ns: 160 µs on Radio L (R320), 10 µs in 2.4 GHz and 16 µs in 5 and 6 GHz (R274). -/
def sifsNs (s : State) (x : Nat) : Nat := if x = 2 then 160000 else if radioKhz s x < 3000000 then 10000 else 16000

/-- The slot time of IEEE 802.11 in ns (notes/assumptions/210.md). -/
def slotNs (x : Nat) : Nat := if x = 2 then 52000 else 9000

/-- PIFS in ns: SIFS and a slot (IEEE 802.11). -/
def pifsNs (s : State) (x : Nat) : Nat := sifsNs s x + slotNs x

/-- The committed airtime of a PPDU in µs (R220). -/
def ppduUs (s : State) (x len : Nat) : Nat := ceilDiv (len + paLead s x + 200) 1000

/-- T0 of a PPDU that starts at the aerial port at `t`. -/
def txT0 (s : State) (x t : Nat) : Nat := t - txDelay s x

/-- The bands of the channel in use. -/
def radioBands (s : State) (x : Nat) : List Nat := chanBands s (curImg s) x (radioChan s x)

/-- A(n) in 0.25 dB (R268). -/
def chainLoss (n : Nat) : Int := if n ≤ 1 then 0 else if n = 2 then 12 else if n = 3 then 19 else 24

/-- The ceiling of a channel in 0.25 dBm, but for SEVERE (R268). -/
def chanCeiling (s : State) (x n : Nat) : Int :=
  let l := (chanBands s (curImg s) x n).map (fun b =>
    ((sluWord s (11 + 8 * b) % 2 ^ 9 : Nat) : Int) - signed 8 (sluWord s (12 + 8 * b)) -
      chainLoss (enabledChains s x).length)
  let l := l ++ [((s.fld (Reg.rdPwrLimit x) 0 9 : Nat) : Int)] ++ (if sluSealed s then [] else [-40])
  l.foldl min 511

/-- The ceiling of a chain (R268): −10 dBm in SEVERE. -/
def chainCeiling (s : State) (x n c : Nat) : Int :=
  if s.bit (Reg.rdRl x c) 9 then min (-40) (chanCeiling s x n) else chanCeiling s x n

/-- Predistortion is on: the channel is calibrated and its TXGAIN has completed (R268). -/
def dpdOn (s : State) (x n : Nat) : Bool :=
  s.bit (Reg.rdCalStat x) (16 + n) && (bankGet (fun _ => none) (s.radio x).calCeil n).isSome

/-- The power a PPDU is sent with on a chain, in 0.25 dBm (R268): PWR or the ceiling, 3 dB lower on a channel that is
uncalibrated or whose TXGAIN has not completed. -/
def chainPower (s : State) (x n c : Nat) : Int :=
  let p := min (signed 8 (iFld (curImg s) (chanOff (curImg s) x n + 8) 0 8)) (chainCeiling s x n c)
  if dpdOn s x n then p else p - 12

/-- The width codes that the table of R299, the channel in use and PRI1M allow (R319). -/
def widthOk (s : State) (x format bw : Nat) : Bool :=
  let g := curImg s
  let o := chanOff g x (radioChan s x)
  let w := iFld g o 24 3
  if x = 2 then
    decide ((format = 9) ↔ (bw = 0)) && (decide (bw = w) || (decide (0 < w) && decide (bw = (if iFld g (o + 4) 16 1 = 1 then 0 else 1))))
  else decide (bw ≤ w) && decide (bw ≤ (if format = 0 then 4 else if format = 1 then 1 else if format = 4 then 0 else if format < 7 then 3 else 4))

/-- A format, width, MCS and streams minus 1 that the tables of R299 and R319 hold for radio `x` on its channel. -/
def inTable (s : State) (x format bw mcs nss : Nat) : Bool :=
  widthOk s x format bw &&
    (if x = 2 then (decide (format = 9) || decide (format = 10)) && decide (nss < 2) &&
        (decide (mcs < 10) || (decide (mcs = 10) && decide (bw = 0) && decide (nss = 0)))
      else decide (format < 9) && decide (nss < 4) && decide (mcs < 14))

/-- A run is an immediate response (R273). -/
def respKind (k : RunKind) : Bool := decide (k = .resp) || decide (k = .multi) || decide (k = .wake)

/-- The length of a PPDU with `n` MPDUs for user `i` of a run. -/
def userLen (r : TxRun) (i n : Nat) : Option Nat := if n = 0 then none else (r.air.lens.getD i [])[n - 1]?

/-- The largest number of MPDUs, up to `want`, whose length passes a test (R184, R296). -/
def trimCount (ok : Nat → Bool) (lens : List Nat) (want : Nat) : Nat :=
  ((List.range want).reverse.find? (fun k => match lens[k]? with
    | none => false
    | some l => ok l)).elim 0 (· + 1)

/-- A PPDU of length `l` that begins at `start` ends in time, with `extra` ns after it, and keeps MAX_TX_US (R184, R296). -/
def lenFits (s : State) (x start limit extra l : Nat) : Bool :=
  decide (start + l + extra ≤ limit) && (match maxTxUs s (curImg s) x (radioChan s x) with
    | none => true
    | some m => decide (ppduUs s x l ≤ m))

/-- A run begun at `start`, its A-MPDUs trimmed by whole MPDUs so that every PPDU ends in time (R184, R195, R296); none where none
fits. A downlink multi-user PPDU leaves time for the acknowledgements that it solicits. -/
def planAt (s : State) (x : Nat) (r : TxRun) (start : Nat) : Option TxRun :=
  let ok := lenFits s x start r.limit
  match r.kind with
  | .beacon | .resp | .multi =>
    match (if r.kind = .multi then r.rest.head?.map (·.len) else userLen r 0 1) with
    | none => none
    | some l => if ok 0 l then some { r with start := start, rest := [⟨0, l⟩] } else none
  | .trigger =>
    match userLen r 0 1, r.air.later with
    | some l, some (gap, len) =>
      if ok 0 l && lenFits s x (start + l + gap) r.limit 0 len then
        some { r with start := start, rest := [⟨0, l⟩, ⟨l + gap, len⟩] }
      else none
    | _, _ => none
  | _ =>
    let extra := if r.kind = .mu ∧ r.air.resp ≠ 0 then sifsNs s x + r.air.resp else 0
    let us := (List.range r.users.length).filterMap (fun i => (r.users[i]?).map (fun u =>
      { u with count := trimCount (ok extra) (r.air.lens.getD i []) u.want }))
    let ls := (List.range us.length).filterMap (fun i => (us[i]?).bind (fun u => userLen r i u.count))
    if ls.isEmpty then none else some { r with start := start, users := us, rest := [⟨0, ls.foldl max 0⟩] }

/-- The least that a run would send, for the checks of one that does not fit. -/
def planLeast (r : TxRun) (start : Nat) : TxRun :=
  if r.kind = .multi then { r with start := start }
  else { r with start := start, rest := [⟨0, ((List.range (max 1 r.users.length)).filterMap (fun i => userLen r i 1)).foldl max 0⟩] }

/-- The airtime that an exchange commits, in µs (R220). -/
def planUs (s : State) (x : Nat) (l : List PlanPpdu) : Nat := (l.map (fun p => ppduUs s x p.len)).sum

/-- The band records that do not cover an exchange (R220). -/
def uncovered (s : State) (x us : Nat) : List Nat :=
  (radioBands s x).filter (fun b => decide (s.regN (Reg.dutyBandLimit b) < bandUsed s b + us))

/-- The start and end at the aerial port of each PPDU of a run. -/
def runTimes (r : TxRun) : List (Nat × Nat) :=
  match r.rest with
  | [] => []
  | p :: q => (r.start, r.start + p.len) :: q.map (fun k => (r.start + (k.off - p.off), r.start + (k.off - p.off) + k.len))

/-- A SIG of the partner is validated in the present cycle on a conflicting channel: the reception wins (R291). -/
def sigSoon (s : State) (x : Nat) : Bool :=
  decide (x < 2) && decide (mdmState s (1 - x) = 2) && channelsConflict s && (sameCycle s).any (fun c => match c with
    | .sigCheck _ y (.valid g) => decide (rIdx y = 1 - x) && inTable s (1 - x) g.format g.bw g.mcs g.nss
    | _ => false)

/-- Check 5 fails (R181, R288). -/
def runBlanked (s : State) (x : Nat) (r : TxRun) : Bool :=
  sigSoon s x || (runTimes r).any (fun p => blanked s x (txT0 s x p.1 - paLead s x) (txT0 s x p.2 + 200))

/-- What checks 5 to 8 come to: a refusal with its cause code, a wait for the medium, or the run as it will start. -/
inductive TxVerdict
  | refuse (cause : Nat)
  | wait
  | go (r : TxRun)
deriving DecidableEq, Repr

/-- Check 8 (R220) for a run whose airtime is not yet reserved. -/
def judgeDuty (s : State) (x : Nat) (r : TxRun) : TxVerdict :=
  if !r.reserved && !(uncovered s x (planUs s x r.rest)).isEmpty then .refuse 7 else .go r

/-- Checks 5 to 8 in order (R181, R182). Check 7 is not made for an immediate response nor SIFS after the device's own exchange;
the start is delayed until the medium has been idle for PIFS, where that comes by the latest start at which check 6 holds. -/
def txJudge (s : State) (x : Nat) (r : TxRun) : TxVerdict :=
  if runBlanked s x ((planAt s x r r.start).getD (planLeast r r.start)) then .refuse 4
  else match planAt s x r r.start with
    | none => .refuse 5
    | some q =>
      if r.chained || respKind r.kind then judgeDuty s x q
      else match mediumIdleFrom s x r.air.edFrom with
        | none => .wait
        | some a =>
          match planAt s x r (max r.start (max s.dt (a + pifsNs s x))) with
          | none => .refuse 6
          | some q => if runBlanked s x q then .refuse 4 else judgeDuty s x q

/-- The reservation of an exchange (R221). -/
def reserveRun (s : State) (x : Nat) (r : TxRun) : State :=
  s.each (radioBands s x) (fun b t => rsvAdd t r.resSec b (planUs s x r.rest))

/-- What a run still holds reserved, released (R221). -/
def releaseRun (s : State) (x : Nat) (r : TxRun) : State :=
  if r.reserved then s.each (radioBands s x) (fun b t => rsvAdd t r.resSec b (-(planUs s x r.rest : Nat))) else s

/-- The transmit path set to a state. -/
def setTx (s : State) (x st : Nat) (run : Option TxRun) : State :=
  (s.setFld (Reg.rdRdStat x) 4 3 st).setRadio x { s.radio x with run := run }

/-- The FEM lines returned (R270, R282). -/
def femRest (s : State) (x : Nat) : State :=
  let s := s.setRadio x { s.radio x with blankOut := wireTo s (s.radio x).blankOut false s.dt }
  eachChain s x (fun c => { c with txEn := wireTo s c.txEn false s.dt, paEn := wireTo s c.paEn false s.dt })

/-- A fresh backoff of an EDCA function from its present contention window (R203). -/
def drawBackoff (s : State) (x ac : Nat) : State :=
  let a := s.airOf x
  let cw := bankGet (fun _ => 0) a.cw ac
  let (n, s) := s.drawNat
  s.setAirOf x { s.airOf x with backoff := bankSet (fun _ => 0) (s.airOf x).backoff ac (n % (cw + 1)) }

/-- An EDCA parameter of the set in use, from a bit position (R202). -/
def edcaFld (s : State) (set ac lo len : Nat) : Nat := iFld (curImg s) ((iTbl (curImg s) 0x10).off + 16 * set + 4 * ac) lo len

/-- An EDCA function's contention window set to CWmin of its set, with a fresh backoff. -/
def edcaFresh (s : State) (x ac : Nat) : State :=
  match (s.airOf x).edcaSet with
  | none => s
  | some k =>
    let s := s.setAirOf x { s.airOf x with cw := bankSet (fun _ => 0) (s.airOf x).cw ac (2 ^ edcaFld s k ac 4 4 - 1) }
    drawBackoff s x ac

/-- An EDCA function's contention window doubled up to CWmax after a PPDU without a response (IEEE 802.11, R203). -/
def edcaDouble (s : State) (x ac : Nat) : State :=
  match (s.airOf x).edcaSet with
  | none => s
  | some k =>
    let cw := min (2 ^ edcaFld s k ac 8 4 - 1) (2 * bankGet (fun _ => 0) (s.airOf x).cw ac + 1)
    drawBackoff (s.setAirOf x { s.airOf x with cw := bankSet (fun _ => 0) (s.airOf x).cw ac cw }) x ac

/-- AIFS of an EDCA function in ns (IEEE 802.11, R202). -/
def aifsNs (s : State) (x set ac : Nat) : Nat := sifsNs s x + edcaFld s set ac 0 4 * slotNs x

/-- The idle slots that an EDCA function has counted since they were last taken from its backoff (R203). -/
def edcaSlots (s : State) (x ac ed : Nat) : Nat :=
  match (s.airOf x).edcaSet, mediumIdleFrom s x ed with
  | some k, some a => (s.dt - max (a + aifsNs s x k ac) (s.airOf x).cntFrom) / slotNs x
  | _, _ => 0

/-- The backoffs of a CONTEND entry stop counting (R203): what they counted is taken from them. -/
def edcaFreeze (s : State) (x : Nat) : State :=
  match (s.airOf x).play with
  | none => s
  | some p =>
    if p.ty ≠ 4 ∨ p.forfeit = true then s
    else
      let s := s.each (List.range 4) (fun ac t =>
        let b := bankGet (fun _ => (0 : Nat)) (t.airOf x).backoff ac
        t.setAirOf x { t.airOf x with backoff := bankSet (fun _ => 0) (t.airOf x).backoff ac (b - edcaSlots s x ac 0) })
      s.setAirOf x { s.airOf x with cntFrom := s.dt }

/-- A response not sent (R273); a wake-timing frame not sent with it is given up (R213). -/
def respRefuse (s : State) (x : Nat) (r : TxRun) (cause : Nat) : State :=
  let s := s.inc (Reg.rdRespRefused x)
  if r.kind ≠ .wake then s
  else match (s.airOf x).wake with
    | none => s
    | some w => if w.sent then s else wakeGivenUp (airCause s x 1 cause w.entry w.sta) x

/-- A request refused with a cause (R182, R183, R221, R270, R273). -/
def txRefuse (s : State) (x : Nat) (r : TxRun) (cause : Nat) : State :=
  let s := releaseRun (setTx s x 0 none) x r
  let s := if cause = 7 then s.each (uncovered s x (planUs s x r.rest)) (fun b t => t.inc (Reg.dutyBandDeny b)) else s
  let s := reviewRadios (femRest s x)
  if respKind r.kind then respRefuse s x r cause
  else
    let s := if r.kind = .edca then drawBackoff s x r.ac else s
    match (s.airOf x).play with
    | none => s
    | some p =>
      if p.forfeit then s
      else if p.ty < 2 && !p.begun then forfeitPlay s x cause
      else airCause s x 1 cause p.entry (playSta p)

/-- The path enters LEAD with the run's airtime reserved. -/
def txGo (s : State) (x : Nat) (r : TxRun) : State :=
  let s := edcaFreeze s x
  let q := { r with resSec := if r.reserved then r.resSec else dutySec s s.dt, reserved := true, since := s.dt, paAt := none }
  reviewRadios (setTx (if r.reserved then s else reserveRun s x q) x 3 (some q))

/-- Checks 5 to 8 made for one radio (R270). -/
def txLeadOne (s : State) (x : Nat) (r : TxRun) : State :=
  match txJudge s x r with
  | .refuse c => txRefuse s x (if r.reserved then r else ((planAt s x r r.start).getD (planLeast r r.start))) c
  | .wait => setTx s x 0 none
  | .go q => txGo s x q

/-- The radios below `x` whose exchange was reserved in this very cycle. -/
def leadBelow (s : State) (x : Nat) : List Nat :=
  (List.range 3).filter (fun y => decide (x < y) && decide (txState s y = 3) && (match (s.radio y).run with
    | none => false
    | some r => decide (r.since = s.dt)))

/-- A lower radio's reservation of the same cycle made anew, or refused where the budget no longer covers it (R222). -/
def retest (y : Nat) (s : State) : State :=
  match (s.radio y).run with
  | none => s
  | some r =>
    let q := { r with reserved := false }
    if (uncovered s y (planUs s y r.rest)).isEmpty then
      setTx (reserveRun s y r) y 3 (some r)
    else txRefuse s y q 7

/-- Checks 5 to 8 made (R270): the airtime is reserved and the path enters LEAD, or the request is refused. In one cycle Radio H is
tested before M and M before L (R222). -/
def txLead (s : State) (x : Nat) (r : TxRun) : State :=
  let low := leadBelow s x
  let s := s.each low (fun y t => match (t.radio y).run with
    | none => t
    | some r => releaseRun t y r)
  (txLeadOne s x r).each low retest

/-- A background calibration step is under way. -/
def bgRunning (s : State) (x : Nat) : Bool := (s.radio x).cal.elim false (·.bg)

/-- A background step ends in the present cycle: it is taken before a request (R272). -/
def bgEnds (s : State) (x : Nat) : Bool :=
  ((s.radio x).cal.elim false (fun c => decide (c.stop ≤ s.dt))) && (sameCycle s).any (fun c => match c with
    | .calStepEnd _ y => decide (rIdx y = x)
    | _ => false)

/-- A request of the transmit path in IDLE (R270); during a replay no port transmits (R505). -/
def txAsk (s : State) (x : Nat) (r : TxRun) : State :=
  if txState s x ≠ 0 ∨ replaying s = true then s
  else if islUp s (8 + x) = false ∨ s.bit (Reg.rdRdCtrl x) 0 = false ∨ sluBad s = true then txRefuse s x r 0
  else if mandPending s x (radioChan s x) then txRefuse (s.inc (Reg.rdMandRefuse x)) x r 3
  else if synState s x = 1 ∨ synState s x = 2 then setTx s x 1 (some { r with since := s.dt })
  else if bgRunning s x && !bgEnds s x then setTx s x 2 (some { r with since := s.dt })
  else if synState s x = 3 then txLead s x r
  else txRefuse s x r 3

/-- A waiting request goes on once the synthesiser has locked or the background step has ended: its start is delayed as far
as the lead-in needs (R270), and SIFS after the device's own exchange it may have missed. -/
def txResume (s : State) (x : Nat) : State :=
  match (s.radio x).run with
  | none => s
  | some r =>
    let t := max r.start (s.dt + boLead s x + txDelay s x)
    txLead (s.setFld (Reg.rdRdStat x) 4 3 0) x { r with start := t, chained := r.chained && decide (t = r.start) }

/-- R270, HOLD: no lock in time. The request is refused, and the entry forfeited. -/
def holdFail (s : State) (x : Nat) : State :=
  match (s.radio x).run with
  | none => setTx s x 0 none
  | some r =>
    let s := (releaseRun (setTx s x 0 none) x r).inc (Reg.rdHoldFail x)
    let s := if respKind r.kind && decide (r.kind ≠ .wake) then respRefuse s x r 3 else s
    let s := if r.kind = .wake then
        (match (s.airOf x).wake with
        | none => s
        | some w => if w.sent then s.inc (Reg.rdRespRefused x) else wakeGivenUp (s.inc (Reg.rdRespRefused x)) x)
      else s
    match (s.airOf x).play with
    | none => s
    | some p => if p.forfeit then s else forfeitPlay s x 3

/-- The share of the PPDU in hand replaced by the time PA enable was asserted, in ns (R221), and PA_US counted for every
enabled chain (R297). -/
def txCharge (s : State) (x : Nat) (r : TxRun) (ns : Nat) : State :=
  let us := ceilDiv ns 1000
  let share := match r.rest with
    | [] => 0
    | p :: _ => ppduUs s x p.len
  let s := s.each (radioBands s x) (fun b t =>
    binAdd (if r.reserved then rsvAdd t r.resSec b (-(share : Nat)) else t) (dutySec s r.since) b us)
  s.addPair (Reg.rdPaUsLo x) (us * (enabledChains s x).length)

/-- A PPDU's last sample left the DAC, or PA enable was dropped, now; PA enable falls `tail` ns later (R270, R282): the path
enters TAIL, and the FEM lines fall and rise by the timeline. -/
def txEnd (s : State) (x tail : Nat) : State :=
  match (s.radio x).run with
  | none => s
  | some r =>
    let s := txCharge s x r (s.dt + tail - r.paAt.getD r.since)
    let next := match r.rest with
      | p :: q :: _ => r.start + (q.off - p.off)
      | _ => r.start
    let s := setTx s x 5 (some { r with start := next, rest := r.rest.drop 1, since := s.dt })
    let s := s.setRadio x { s.radio x with txDone := s.dt + txDelay s x, armAt := s.dt + 2000,
                                           blankOut := wireTo s (s.radio x).blankOut false (s.dt + 1600) }
    eachChain s x (fun c => { c with paEn := wireTo s c.paEn false (s.dt + tail), txEn := wireTo s c.txEn false (s.dt + 400),
                                     rxEn := wireTo s c.rxEn true (s.dt + 600) })

/-- MPDUs on the air on radio `x`. -/
def sentOf (s : State) (x : Nat) : List TxMpdu := bankGet (fun _ => []) s.sta.sent x

/-- MPDUs on the air replaced. -/
def setSent (s : State) (x : Nat) (l : List TxMpdu) : State :=
  { s with sta := { s.sta with sent := bankSet (fun _ => []) s.sta.sent x l } }

/-- A block-ack agreement holds for what is sent in a space (TX_BA of R227). -/
def txAgreed (s : State) (a sp : Nat) : Bool := decide (sp < 8) && decide (staFld s a 8 (3 * sp) 3 ≠ 0)

/-- MPDUs unacknowledged (R248): each awaits retransmission, or is discarded after RETRY_LIM transmissions, and the peer's
window, where an agreement gives it one, is then to be moved by a BlockAckReq. -/
def unacked (s : State) (l : List TxMpdu) : State :=
  let lim := max 1 (s.fld Reg.staRetryLim 0 5)
  let s := { s with sta := { s.sta with retry := s.sta.retry ++ l.filter (fun (m : TxMpdu) => decide (m.tries < lim)) } }
  let gone := (l.filter (fun m => decide (lim ≤ m.tries))).map (fun (m : TxMpdu) => (m.sta, m.space))
  let gone := gone.filter (fun b => txAgreed s b.1 b.2)
  { s with sta := { s.sta with bars := (s.sta.bars ++ gone).eraseDups } }

/-- R285: MISMATCH and SEVERE of a chain moved by a return loss in 0.25 dB; one that RL_QDB cannot hold shows an open value. -/
def mismatchMove (s : State) (x c : Nat) (rl : Int) : State :=
  let ch := rdChain s x c
  let mm := s.fld (Reg.rdMmThr x) 0 8
  let sv := s.fld (Reg.rdMmThr x) 8 8
  let ml := if rl < mm then min 4 (ch.mmLow + 1) else 0
  let mo := if mm + 4 ≤ rl then min 4 (ch.mmOk + 1) else 0
  let sl := if rl < sv then min 2 (ch.sevLow + 1) else 0
  let so := if sv + 4 ≤ rl then min 4 (ch.sevOk + 1) else 0
  let s := setRdChain s x c { ch with mmLow := ml, mmOk := mo, sevLow := sl, sevOk := so }
  let m := s.bit (Reg.rdRl x c) 8
  let v := s.bit (Reg.rdRl x c) 9
  let m2 := if m then !decide (mo = 4) else decide (ml = 4)
  let v2 := if v then !decide (so = 4) else decide (sl = 2)
  let (q, s) := fitOr s 8 (decide (0 ≤ rl) && decide (rl < 256)) rl.toNat
  let s := s.setFlds (Reg.rdRl x c) [(0, 8, q), (8, 1, bnat m2), (9, 1, bnat v2)]
  let s := if m2 && !m then s.raise (Reg.rdIrqRaw x) 2 else s
  if v2 && !v then s.raise (Reg.rdIrqRaw x) 3 else s

/-- Capacitor codes moved one step along an axis, held within 0 to 31 (R287). -/
def tuneStep (cur : Nat) (axisB down : Bool) : Nat :=
  let lo := if axisB then 5 else 0
  let v := nbits cur lo 5
  let w := if down then v - 1 else min 31 (v + 1)
  cur - v * 2 ^ lo + w * 2 ^ lo

/-- A failed trial of the search and the next one, with how many trials that comes to (R287); a trial that the clamp leaves
unchanged fails at once. -/
def tuneFail : Nat → RdChain → Nat → RdChain × Option Nat × Nat
  | 0, c, cur => (c, some cur, 0)
  | n + 1, c, _ =>
    let f := c.fails + 1
    if f = 6 then ({ c with searching := false, fails := f, floor := c.bestRl - 8 }, some c.best, 0)
    else
      let c := { c with fails := f, axisB := if f = 4 then !c.axisB else c.axisB,
                        down := if f = 2 then !c.down else if f = 4 then false else c.down }
      let next := tuneStep c.best c.axisB c.down
      if next = c.best then
        let (c, o, k) := tuneFail n c next
        (c, o, k + 1)
      else (c, some next, 1)

/-- The next trial from the codes kept (R287). -/
def tuneNext (c : RdChain) (cur : Nat) : RdChain × Option Nat × Nat :=
  let next := tuneStep cur c.axisB c.down
  if next = cur then
    let (c, o, k) := tuneFail 6 c cur
    (c, o, k + 1)
  else (c, some next, 1)

/-- The search of R287 after a PPDU with a return loss: the chain, the codes to apply, none where they stay, and the trials
counted. -/
def tuneSearch (c : RdChain) (cur : Nat) (rl start ok : Int) : RdChain × Option Nat × Nat :=
  if c.searching = false then
    if min start c.floor ≤ rl then (c, none, 0)
    else tuneNext { c with searching := true, best := cur, bestRl := rl, axisB := false, down := false, fails := 0 } cur
  else if c.bestRl < rl then
    let c := { c with best := cur, bestRl := rl, fails := 0 }
    if ok ≤ rl then ({ c with searching := false, floor := 0 }, none, 0) else tuneNext c cur
  else tuneFail 6 c cur

/-- The tuner search of a chain of Radio L (R287): each trial counts in TUNE_STEPS and waits for a write opportunity. -/
def tuneAfter (s : State) (c : Nat) (rl : Int) : State :=
  if s.bit (Reg.rdRdCtrl 2) 2 = false then s
  else
    let (ch, next, k) := tuneSearch (rdChain s 2 c) (s.fld (Reg.rdTuner 2 c) 0 10) rl (s.fld (Reg.rdMmThr 2) 16 8)
      (s.fld (Reg.rdMmThr 2) 24 8)
    let s := s.addRc (Reg.rdTuneSteps 2) k
    match next with
    | none => setRdChain s 2 c ch
    | some v => (setRdChain s 2 c { ch with pend := true }).setFld (Reg.rdTuner 2 c) 0 10 v

/-- A return loss in 0.25 dB from the codes of the forward and the reflected detector, through PDET_CAL (R284); how a fraction is
rounded is open. -/
def rlOf (s : State) (x c : Nat) (codes : Nat × Nat) : Int × State :=
  let v : Int := (s.fld (Reg.rdPdetCal x c) 16 16 : Nat) * ((codes.1 : Int) - codes.2)
  let (n, s) := s.drawNat
  (if v % 1024 = 0 then v / 1024 else v / 1024 + ((n % 2 : Nat) : Int), s)

/-- The return loss of every enabled chain measured over the first 8 µs of a PPDU longer than that (R284); none where SLOPE
is 0. -/
def measureRl (s : State) (x : Nat) (r : TxRun) (codes : List (Nat × Nat)) : State :=
  let long := match r.rest with
    | [] => false
    | p :: _ => decide (8000 < p.len)
  if s.bit (Reg.rdRdCtrl x) 1 = false ∨ long = false then s
  else s.each (enabledChains s x) (fun c t =>
    match codes[c]? with
    | none => t
    | some k =>
      if t.fld (Reg.rdPdetCal x c) 16 16 = 0 then t
      else
        let (v, t) := rlOf t x c k
        let t := mismatchMove t x c v
        if x = 2 then tuneAfter t c v else t)

/-- The codes that the detectors gave where a PPDU was cut short, which no command brings. -/
def freeCodes : Nat → State → List (Nat × Nat) × State
  | 0, s => ([], s)
  | n + 1, s =>
    let (a, s) := s.drawNat
    let (b, s) := s.drawNat
    let (l, s) := freeCodes n s
    ((a % 4096, b % 4096) :: l, s)

/-- The sequence number of the wake-timing frame in the PPDU in hand (R208), none where it carries none. -/
def wakeSn (s : State) (x : Nat) : Option Nat :=
  match (s.radio x).air with
  | none => none
  | some a => match a.frame with
    | .wake _ _ _ _ sn _ => some sn
    | _ => none

/-- A PPDU cut short in ON (R271): PA enable drops at once, and its MPDUs are unacknowledged. The return loss is measured where it
lasted 8 µs (R284). -/
def txCut (s : State) (x : Nat) : State :=
  match (s.radio x).run with
  | none => s
  | some r =>
    let (codes, s) := freeCodes (chainCount x) s
    let s := if r.since + 8000 ≤ s.dt then measureRl s x r codes else s
    let s := txEnd s x 0
    let l := sentOf s x
    let s := unacked (setSent s x []) l
    let s := match wakeSn s x with
      | none => s
      | some sn => wakeUnsure (wakeSent s x sn) x
    reviewRadios (s.setRadio x { s.radio x with await := [], exEnd := none })

/-- Blanking asserts in LEAD before T0 (R270): the start is refused. -/
def leadBlanked (s : State) (x : Nat) : State :=
  match (s.radio x).run with
  | none => s
  | some r => if txState s x = 3 then txRefuse (s.inc (Reg.rdBlankDefer x)) x r 4 else s

/-- What the last exchange of radio `x` left reserved, released, where its path is idle (R221). -/
def dropRest (s : State) (x : Nat) : State :=
  match (s.radio x).run with
  | none => s
  | some r => if txState s x = 0 then setTx (releaseRun s x r) x 0 none else s

/-- TX_HOLD_EXPIRE (R270): HOLD_NS passed, or the entry ended, without lock; a lock in the same cycle beats both (R272). -/
def execTxHoldExpire (time : Nat) (x : Radio) (s : State) : Host.Outcome State Fault Refusal :=
  let t := s.at time
  let i := rIdx x
  let locks := decide (synState t i = 2) && (sameCycle t).any (fun c => match c with
    | .synthLock _ y => decide (y = x)
    | _ => false)
  done s (match (t.radio i).run, (t.airOf i).play with
    | some r, p =>
      let late := match p with
        | none => true
        | some p => decide (p.stop ≤ t.dt)
      if txState t i = 1 && !locks && (late || decide (r.since + t.fld (Reg.rdHoldNs i) 0 16 ≤ t.dt)) then holdFail t i else t
    | none, _ => t)

/-- How long before T0 a line of the lead-in moves, in ns (R282). -/
def femLead (s : State) (x : Nat) (line : FemLine) : Nat :=
  match line with
  | .blankOut => boLead s x
  | .rxOff => 1600
  | .txEn => enLead s x
  | .paEn => paLead s x

/-- One line of the lead-in moved on every enabled chain (R282); in OFF and WARM every line is held low (R283). -/
def femMove (s : State) (x : Nat) (line : FemLine) : State :=
  if synState s x < 2 then s
  else match line with
  | .blankOut => s.setRadio x { s.radio x with blankOut := wireTo s (s.radio x).blankOut true s.dt }
  | .rxOff => eachChain s x (fun c => { c with rxEn := wireTo s c.rxEn false s.dt })
  | .txEn => eachChain s x (fun c => { c with txEn := wireTo s c.txEn true s.dt })
  | .paEn => eachChain s x (fun c => { c with paEn := wireTo s c.paEn true s.dt })

/-- FEM_LEAD_IN (R282): in LEAD, one line moves once its instant before T0 has come. -/
def execFemLeadIn (time : Nat) (x : Radio) (line : FemLine) (s : State) : Host.Outcome State Fault Refusal :=
  let t := s.at time
  let i := rIdx x
  done s (match (t.radio i).run with
    | none => t
    | some r =>
      if txState t i = 3 ∧ txT0 t i r.start - femLead t i line ≤ t.dt then reviewRadios (femMove t i line) else t)

/-- A management frame of firmware (R236). -/
def mgmtFrame (d : List Byte) : Bool := decide (beAt d 12 2 = 0x88B5)

/-- The peer of a frame: its association index, which a management frame's header names (R236). -/
def framePeer (info : Meta) (d : List Byte) : Nat := if mgmtFrame d then leAt d 15 2 % 4096 else info.staIdx

/-- The user priority and space of a frame: its TID, or NONQOS for a peer without QOS; MGMT for EtherType 0x88B5 (R236,
R242). -/
def frameSpace (s : State) (a : Nat) (m : Meta) (d : List Byte) : Nat :=
  if mgmtFrame d then 9 else if staFld s a 0 11 1 = 1 then m.tid % 8 else 8

/-- A frame goes to a group address of the radio's own BSS: not one in four addresses, nor one towards a parent. -/
def toGroup (s : State) (a : Nat) (d : List Byte) : Bool :=
  decide (byteAt d 0 % 2 = 1) && decide (staKind s a ≠ 2) && decide (staFld s a 0 12 1 = 0)

/-- An MPDU requests an acknowledgement (R236): no group address, and no management frame whose byte 0 bit 5 asks for none. -/
def asksAck (s : State) (m : TxMpdu) : Bool :=
  !toGroup s m.sta m.data && !(decide (m.space = 9) && decide (nbits (byteAt m.data 14) 5 1 = 1))

/-- The slot that protects a frame to be sent, none where it goes unprotected: the pairwise slot of TX_KID, or for a group
address of the radio's own BSS the lowest key ID installed of its kind, with 8 added (R246, R248; notes/assumptions/6.md). -/
def txKid (s : State) (x : Nat) (info : Meta) (d : List Byte) : Option Nat :=
  let a := framePeer info d
  let sp := frameSpace s a info d
  let asks := if sp = 9 then decide (nbits (byteAt d 14) 3 1 = 1) else decide (staFld s a 6 0 2 ≠ 0)
  if !asks then none
  else if toGroup s a d then
    ((if sp = 9 then [4, 5] else [1, 2, 3]).find? (fun k =>
      decide ((bankGet (fun _ => ({} : KeySlot)) s.sta.group (x * 8 + k)).suite ≠ 0))).map (· + 8)
  else if (pairKey s a (staFld s a 6 2 1)).suite = 0 then none else some (staFld s a 6 2 1)

/-- The slot of `txKid`. -/
def txKey (s : State) (x a kid : Nat) : KeySlot :=
  if kid < 8 then pairKey s a kid else bankGet (fun _ => {}) s.sta.group (x * 8 + (kid - 8))

/-- The slot of `txKid` replaced. -/
def setTxKey (s : State) (x a kid : Nat) (k : KeySlot) : State :=
  if kid < 8 then setPairKey s a kid k
  else { s with sta := { s.sta with group := bankSet (fun _ => {}) s.sta.group (x * 8 + (kid - 8)) k } }

/-- A frame made an MPDU (R248, R249): it takes its sequence number and, protected, its PN; the last PN is used once and
writes PN_EXHAUST. -/
def buildMpdu (s : State) (x : Nat) (info : Meta) (d : List Byte) : TxMpdu × State :=
  let a := framePeer info d
  let sp := frameSpace s a info d
  let w := spaceOf s a sp
  let kid := txKid s x info d
  let pn := match kid with
    | none => 0
    | some k => (txKey s x a k).tx
  let s := setSpace s a sp { w with txSn := (w.txSn + 1) % 4096 }
  let s := match kid with
    | none => s
    | some i =>
      let k := txKey s x a i
      if k.tx = 0xFFFFFFFFFFFF then staEvent (setTxKey s x a i { k with spent := true }) 5 x a
      else setTxKey s x a i { k with tx := k.tx + 1 }
  (⟨a, sp, w.txSn, kid, pn, info, d, 0⟩, s)

/-- A frame may be built: the slot that would protect it has PNs left (R249). -/
def mayBuild (s : State) (x : Nat) (f : Meta × List Byte) : Bool :=
  match txKid s x f.1 f.2 with
  | none => true
  | some k => !(txKey s x (framePeer f.1 f.2) k).spent

/-- Whole packets of radio `x`'s egress pound read into the radio (R175, R248). -/
def stockUp (x : Nat) : Nat → State → State
  | 0, s => s
  | n + 1, s =>
    match readPacket s (23 + x) with
    | none => s
    | some (ws, s) =>
      stockUp x n (s.setRadio x { s.radio x with stock := (s.radio x).stock ++ [(wordsMeta ws, wordsData ws)] })

/-- Every whole packet of radio `x`'s egress pound read into the radio. -/
def stockAll (s : State) (x : Nat) : State := stockUp x (s.pound (23 + x)).packets s

/-- MPDUs to a peer that await retransmission and that radio `x` may carry. -/
def retryFor (s : State) (x a : Nat) : List TxMpdu :=
  s.sta.retry.filter (fun m => decide (m.sta = a) && (staLink s a x || decide (staKind s a = 0)))

/-- The frames for a peer that radio `x` holds and may build. -/
def stockFor (s : State) (x a : Nat) : List (Meta × List Byte) :=
  (s.radio x).stock.filter (fun f => decide (framePeer f.1 f.2 = a) && mayBuild s x f)

/-- Frames built into MPDUs in order. -/
def buildAll (x : Nat) : List (Meta × List Byte) → List TxMpdu → State → List TxMpdu × State
  | [], l, s => (l, s)
  | f :: r, l, s =>
    if mayBuild s x f = false then (l, s)
    else
      let (m, s) := buildMpdu s x f.1 f.2
      buildAll x r (l ++ [m]) (s.setRadio x { s.radio x with stock := (s.radio x).stock.erase f })

/-- The first `n` MPDUs that radio `x` has for a peer: those awaiting retransmission before those now built (R248). -/
def mpdusFor (s : State) (x a n : Nat) : List TxMpdu × State :=
  let again := (retryFor s x a).take n
  let s := { s with sta := { s.sta with retry := s.sta.retry.filter (fun m => !again.contains m) } }
  let (new, s) := buildAll x ((stockFor s x a).take (n - again.length)) [] s
  ((again ++ new).map (fun m => { m with tries := m.tries + 1 }), s)

/-- The A-MPDUs of a run's users, as far as they were planned (R184). -/
def usersMpdus (x : Nat) : List TxUser → State → List (AirUser × List TxMpdu) × State
  | [], s => ([], s)
  | u :: r, s =>
    if u.count = 0 then usersMpdus x r s
    else
      let (l, s) := mpdusFor s x u.user.sta u.count
      let (q, s) := usersMpdus x r s
      ((u.user, l) :: q, s)

/-- The lowest sequence number outstanding to a peer in a space, in the order of the window. -/
def txStart (s : State) (a sp : Nat) : Option Nat :=
  let l := (s.sta.retry ++ s.sta.sent.flatMap (·.2)).filter (fun m => decide (m.sta = a) && decide (m.space = sp))
  let next := (spaceOf s a sp).txSn
  match (l.map (fun m => snDist m.sn next)).max? with
  | none => none
  | some d => some ((next + 4096 - d) % 4096)

/-- The BlockAckReqs that peers' windows wait for, taken into a PPDU to them (R248). -/
def takeBars (s : State) (x : Nat) (l : List Nat) : List (Nat × Nat × Nat) × State :=
  let mine := fun (b : Nat × Nat) => l.contains b.1 && (staLink s b.1 x || decide (staKind s b.1 = 0))
  ((s.sta.bars.filter mine).map (fun b => (b.1, b.2, (txStart s b.1 b.2).getD (spaceOf s b.1 b.2).txSn)),
   { s with sta := { s.sta with bars := s.sta.bars.filter (fun b => !mine b) } })

/-- The traffic manager holds a frame under a station's subscriber (R192, R252). -/
def tmHolds (s : State) (a : Nat) : Bool :=
  match staSub s a with
  | none => false
  | some sub => (busyFqs s).any (fun q => decide (nodeAbove s q 1 = sub))

/-- The stations whose AIDs TIM_MAP shows on radio `x`: the peers of KIND 0 and 1 on it with a frame queued (R252). -/
def timAids (s : State) (x : Nat) : List Nat :=
  ((s.sta.entries.map (·.1)).filter (fun a => staValid s a && decide (staKind s a < 2) && staLink s a x && tmHolds s a)).map
    (fun a => staFld s a 0 16 13)

/-- TSF at a DT in ns (R189). -/
def tsfAt (dt : Nat) : Nat := dt / 1000 % 2 ^ 64

/-- The DT at which air entry `e` fires next after an entry that started at `from_` in this round (NEXT_FIRE of R192). -/
def nextFire (s : State) (x e from_ : Nat) : Nat :=
  let g := curImg s
  let ev := max 1 (airFld g x e 3 0 16)
  let a := s.gen.bdy + airFld g x e 1 0 32
  let idx := roundIdx s
  if airFires g x e idx && decide (from_ < a) then a
  else
    let next := idx + ev - (idx + ev - airFld g x e 3 16 16 % ev) % ev
    a + (next - idx) * roundNs s

/-- The value of a fill of a beacon (R192), as a number to be written least significant byte first. -/
def fillValue (s : State) (x : Nat) (p : AirPlay) (start tsOff kind arg size : Nat) : Nat :=
  match kind with
  | 0 => tsfAt (start + tsOff)
  | 1 => tsfAt (nextFire s x arg p.start)
  | 2 => ((timAids s x).filter (fun a => decide (8 * arg ≤ a) && decide (a < 8 * arg + 8 * size))).eraseDups.foldl
      (fun n a => n + 2 ^ (a - 8 * arg)) 0
  | _ => (arg - 1) - (roundIdx s / max 1 (airFld (curImg s) x p.entry 3 0 16)) % max 1 arg

/-- The body of the beacon that a BCN entry sends, from its template with every fill written (R190 to R192). -/
def beaconBody (s : State) (x : Nat) (p : AirPlay) (start tsOff : Nat) : List Byte :=
  let g := curImg s
  let o := recOff g 0x0D p.arg
  let body := (List.range (iFld g o 0 12)).map (fun i => BitVec.ofNat 8 (i8 g (o + 8 + 8 * iFld g o 12 4 + i)))
  (List.range (iFld g o 12 4)).foldl (fun b k =>
    let r := o + 8 + 8 * k
    let off := iFld g r 4 12
    let n := iFld g r 16 8
    b.take off ++ leBytes n (fillValue s x p start tsOff (iFld g r 0 4) (iFld g (r + 4) 0 16) n) ++ b.drop (off + n)) body

/-- The body of the wake-timing frame for a hit (R208). -/
def wakeBody (s : State) (x : Nat) (w : Wake) : List Byte :=
  [127] ++ leBytes 3 (s.fld (Reg.airTimingOui x) 0 24) ++ [1] ++ leBytes 4 (unsigned 32 w.c) ++ [BitVec.ofNat 8 (bnat w.reacq), 0]

/-- The window of a space on the receive side: 0 where no agreement holds. -/
def spaceWindow (s : State) (a sp : Nat) : Nat := if sp < 8 then rxWindow s a sp else 0

/-- The bits of a scoreboard from a starting sequence number (R238, R243); a space without an agreement keeps none, and the numbers that
the PPDU brought stand for it. -/
def scoreBits (s : State) (a sp ssn : Nat) (heard : List Nat) : List Bool :=
  let w := spaceOf s a sp
  let l := if spaceWindow s a sp = 0 then heard else w.got ++ w.back
  (List.range (max 64 (spaceWindow s a sp))).map (fun i => l.contains ((ssn + i) % 4096))

/-- The acknowledgement that a response due comes to (R238); it reports the scoreboard that both links share (R244). -/
def replyOf (s : State) (d : Due) : Reply :=
  match d.kind, d.sta with
  | .cts, _ => .cts
  | .ack, _ => .ack
  | .ba sp ssn heard, some a => .blockAck sp ssn (scoreBits s a sp ssn heard)
  | .ba sp ssn heard, none => .blockAck sp ssn ((List.range 64).map (fun i => heard.contains ((ssn + i) % 4096)))

/-- The rate of a control response in units of 500 kb/s (R239): the highest of the BSS basic rate set that does not exceed the
reference rate of the eliciting PPDU, the lowest where none does. -/
def respRate (x ref : Nat) : Nat :=
  let l := Config.basicRates x
  ((l.filter (fun r => decide (r ≤ ref))).max?).getD (l.min?.getD 0)

/-- The MCS of a response of Radio L (R239): MCS 10 to MCS 10, otherwise the highest of the basic set that does not exceed that
of the eliciting PPDU, the lowest where none does. -/
def respMcs (mcs : Nat) : Nat :=
  if mcs = 10 then 10
  else ((Config.basicMcs.filter (fun m => decide (m ≤ mcs) && decide (m ≠ 10))).max?).getD ((Config.basicMcs.min?).getD 0)

/-- A PPDU's format, width code, whether it is a duplicate, its rate, MCS and streams minus 1. -/
structure PpduRate where
  format : Nat
  bw : Nat
  dup : Bool
  rate : Nat
  mcs : Nat
  nss : Nat
deriving DecidableEq, Repr

/-- The primary width code of the channel in use on Radio L (R264, R319). -/
def priWidth (s : State) : Nat :=
  let g := curImg s
  let o := chanOff g 2 (radioChan s 2)
  if iFld g o 24 3 = 0 ∨ iFld g (o + 4) 16 1 = 1 then 0 else 1

/-- A non-HT PPDU of radio `x`, a duplicate where it is wider than 20 MHz; on Radio L an S1G PPDU on the primary. -/
def plainRate (s : State) (x bw rate mcs : Nat) : PpduRate :=
  if x = 2 then
    let w := if mcs = 10 then 0 else priWidth s
    ⟨if w = 0 then 9 else 10, w, false, 0, mcs, 0⟩
  else ⟨0, bw, decide (0 < bw), rate, 0, 0⟩

/-- The rate of a control response to a PPDU (R239). -/
def respPpdu (s : State) (x : Nat) (g : Option SigInfo) : PpduRate :=
  match g with
  | none => plainRate s x 0 (respRate x 0) (respMcs 0)
  | some g => plainRate s x g.bw (respRate x (Config.refRate g.format g.mcs g.nss)) (respMcs g.mcs)

/-- The rate of a run's PPDU (R191, R193, R199, R208, R238, R239): what the template or the station's record names, the operands of the
exchange where they name none. -/
def ppduRate (s : State) (x : Nat) (r : TxRun) (p : Option AirPlay) : PpduRate :=
  let g := curImg s
  let low := Config.lowestRate x (radioKhz s x)
  let o := (p.map (fun p => recOff g (if p.ty = 0 then 0x0D else 0x0E) p.arg)).getD 0
  match r.kind with
  | .beacon => plainRate s x (if iFld g o 16 4 = 1 then iFld g (chanOff g x (radioChan s x)) 24 3 else 0) low 0
  | .trigger => plainRate s x (iFld g o 6 3) low 0
  | .mu => ⟨r.air.format, iFld g o 6 3, false, 0, r.air.mcs, r.air.nss⟩
  | .sp | .raw =>
    let u := (r.users.head?.map (·.user)).getD { sta := 0 }
    ⟨r.air.format, r.air.bw, false, 0, u.mcs, u.nss⟩
  | .multi => plainRate s x (iFld g o 6 3) low 0
  | .resp => respPpdu s x r.sig
  | .wake | .edca => ⟨r.air.format, r.air.bw, false, 0, r.air.mcs, r.air.nss⟩

/-- A PPDU to be sent with its frame (R268, R317, R319): the punctured subchannels nulled, TX_SHAPE as it stands now, limited to 200 ns,
or 2,000 ns on Radio L, and the power of every enabled chain. -/
def ppduOf (s : State) (x : Nat) (r : TxRun) (v : PpduRate) (f : AirFrame) (bars : List (Nat × Nat × Nat)) : AirPpdu :=
  let g := curImg s
  let n := radioChan s x
  let o := chanOff g x n
  { frame := f, bars := bars, format := v.format, bw := v.bw, dup := v.dup, rate := v.rate, mcs := v.mcs, nss := v.nss,
    pri := iFld g o 28 4, pri1m := decide (iFld g (o + 4) 16 1 = 1), punct := iFld g (o + 4) 0 16,
    win := min (if x = 2 then 2000 else 200) (s.fld (Reg.mdmTxShape x) 0 12),
    power := (enabledChains s x).map (fun c => (c, chainPower s x n c)), dpd := dpdOn s x n,
    start := r.start, len := (r.rest.head?.map (·.len)).getD 0 }

/-- The frame of a run's PPDU built (R190, R195, R196, R199, R208, R238), with the MPDUs on the air and the BlockAckReqs. -/
def buildFrame (s : State) (x : Nat) (r : TxRun) (p : Option AirPlay) : AirFrame × List (Nat × Nat × Nat) × List TxMpdu × State :=
  let g := curImg s
  match r.kind, p with
  | .beacon, some p => (.beacon (beaconBody s x p r.start r.air.tsOff), [], [], s)
  | .trigger, some p =>
    let o := recOff g 0x0E p.arg
    (.trigger (iFld g o 6 3) (iFld g o 9 2) (iFld g (o + 4) 0 12) (iFld g (o + 4) 12 6) (r.users.map (·.user)), [], [], s)
  | .wake, _ =>
    match (s.airOf x).wake, r.users.head? with
    | some w, some u =>
      let sp := spaceOf s w.sta 9
      let t := setSpace s w.sta 9 { sp with txSn := (sp.txSn + 1) % 4096 }
      let (l, t) := mpdusFor t x w.sta (u.count - 1)
      let (bars, t) := takeBars t x [w.sta]
      let d := r.due.head?.getD ⟨some w.sta, staAddr s w.sta, .ack⟩
      (.wake w.sta d.addr (replyOf s d) (wakeBody s x w) sp.txSn l, bars, l, t)
    | _, _ => (.replies [], [], [], s)
  | .resp, _ | .multi, _ => (.replies (r.due.map (fun d => (d.sta, d.addr, replyOf s d))), [], [], s)
  | k, _ =>
    let (l, t) := usersMpdus x r.users s
    let (bars, t) := takeBars t x (r.users.map (·.user.sta))
    (.data l (decide (k = .mu)), bars, l.flatMap (·.2), t)

/-- The PPDU that starts built (R175, R248): what an earlier PPDU left without an answer is unacknowledged, and an MPDU that
requests no acknowledgement is not kept. -/
def loadPpdu (s : State) (x : Nat) (r : TxRun) : State :=
  let s := stockAll s x
  let own := respKind r.kind && decide (r.kind ≠ .wake)
  let s := if own then s else unacked (setSent s x []) (sentOf s x)
  let p := (s.airOf x).play
  let v := ppduRate s x r p
  let (f, bars, l, s) := buildFrame s x r p
  let s := s.setRadio x { s.radio x with air := some (ppduOf s x r v f bars) }
  if own then s else setSent s x (l.filter (asksAck s))

/-- A BLANK_IN pin routed to radio `x` asserts in the present cycle (R272). -/
def pinSoon (s : State) (x : Nat) : Bool :=
  (sameCycle s).any (fun c => match c with
    | .blankInAssert _ p => pinRouted s p x
    | _ => false)

/-- TX_START (R270): the first sample leaves the DAC at T0; blanking in that cycle refuses the start (R272). Every line of the lead-in
has moved by then. -/
def execTxStart (time : Nat) (x : Radio) (s : State) : Host.Outcome State Fault Refusal :=
  let t := s.at time
  let i := rIdx x
  done s (match (t.radio i).run with
    | none => t
    | some r =>
      if txState t i ≠ 3 ∨ t.dt < txT0 t i r.start then t
      else if pinBlanks t i || partnerReceives t i || sigSoon t i || pinSoon t i then leadBlanked t i
      else
        let r := { r with since := t.dt, paAt := some (txT0 t i r.start - paLead t i) }
        let u := setTx (loadPpdu t i r) i 4 (some r)
        let u := match (u.airOf i).play with
          | none => u
          | some p => if respKind r.kind then u else setPlay u i (some { p with begun := true })
        let u := u.setRadio i { u.radio i with exEnd := none }
        reviewRadios (u.each [FemLine.blankOut, .rxOff, .txEn, .paEn] (fun l u => femMove u i l)))

/-- The stations whose response a PPDU solicits: those of its MPDUs that ask one and of its BlockAckReqs, and of a Trigger frame its
users. -/
def soughtBy (a : AirPpdu) (sent : List TxMpdu) : List Nat :=
  match a.frame with
  | .trigger _ _ _ _ us => (us.map (·.sta)).eraseDups
  | .wake a' _ _ _ _ _ => [a']
  | _ => ((sent.map (·.sta)) ++ a.bars.map (·.1)).eraseDups

/-- What the last sample of a PPDU leaves to wait for (R241): the peers whose response it solicits, until SIFS, a slot and the
receive start delay have passed; a PPDU that solicits none ends its exchange. -/
def txAwait (s : State) (x : Nat) (r : TxRun) : State :=
  match (s.radio x).air with
  | none => s
  | some a =>
    if respKind r.kind && decide (r.kind ≠ .wake) then s.setRadio x { s.radio x with exEnd := some (s.radio x).txDone }
    else
      let l := soughtBy a (sentOf s x)
      let q := s.radio x
      let s := s.setRadio x { q with await := l, awaitTo := q.txDone + sifsNs s x + slotNs x + Config.rxStartDelay x,
                                     exEnd := if l.isEmpty then some q.txDone else none }
      if l.isEmpty && decide (r.kind = .edca) then edcaFresh (s.setAirOf x { s.airOf x with edcaAc := none }) x r.ac else s

/-- TX_LAST_SAMPLE (R270, R221, R284). -/
def execTxLastSample (time : Nat) (x : Radio) (codes : List (Nat × Nat)) (s : State) :
    Host.Outcome State Fault Refusal :=
  let t := s.at time
  let i := rIdx x
  done s (match (t.radio i).run with
    | none => t
    | some r =>
      if txState t i ≠ 4 then t
      else
        let u := txAwait (txEnd (measureRl t i r codes) i 200) i r
        reviewRadios (match wakeSn u i with
          | none => u
          | some sn => if r.kind = .wake then wakeSent u i sn else u))

/-- TX_TIMEOUT (R270, R296): PA enable time reached MAX_TX_US; the last sample in the same cycle ends the PPDU normally
(R272). -/
def execTxTimeout (time : Nat) (x : Radio) (s : State) : Host.Outcome State Fault Refusal :=
  let t := s.at time
  let i := rIdx x
  let ends := (sameCycle t).any (fun c => match c with
    | .txLastSample _ y _ => decide (y = x)
    | _ => false)
  done s (match (t.radio i).run, maxTxUs t (curImg t) i (radioChan t i) with
    | some r, some m =>
      if txState t i = 4 && !ends && decide (r.paAt.getD r.since + 1000 * m ≤ t.dt) then
        txCut ((t.inc (Reg.rdTxTimeout i)).raise (Reg.rdIrqRaw i) 1) i
      else t
    | _, _ => t)

/-- TX_TAIL_END (R270): 1.6 µs after the last sample the receive path is restored. -/
def execTxTailEnd (time : Nat) (x : Radio) (s : State) : Host.Outcome State Fault Refusal :=
  let t := s.at time
  let i := rIdx x
  done s (match (t.radio i).run with
    | none => t
    | some r =>
      if txState t i = 5 ∧ r.since + 1600 ≤ t.dt then
        reviewRadios (setTx t i 0 (if r.rest.isEmpty then none else some r))
      else t)

/-- A tuner's word may be written (R286): in TAIL, or while Radio L neither receives a PPDU nor stands in LEAD or ON. -/
def tunerMay (s : State) : Bool := !receiving s 2 && !(decide (txState s 2 = 3) || decide (txState s 2 = 4))

/-- TUNER_WRITE (R286): the word of a chain's tuner is shifted out over the three-wire bus, which one write holds for 1.8 µs. -/
def execTunerWrite (time : Nat) (c : Fin 2) (s : State) : Host.Outcome State Fault Refusal :=
  let t := s.at time
  let ch := rdChain t 2 c
  let free := match (t.radio 2).tun with
    | none => true
    | some (_, _, a) => decide (a + 1800 ≤ t.dt)
  done s (if ch.pend && islUp t 10 && tunerMay t && free then
      let w := t.fld (Reg.rdTuner 2 c) 0 11
      let t := setRdChain t 2 c { ch with pend := false, shown := w }
      t.setRadio 2 { t.radio 2 with tun := some (c, w, t.dt) }
    else t)

/-- The lines of the tuner bus at a DT (R286): LE of each chain, DAT and CLK. A write holds LE low for 1.8 µs and shifts 16 bits at
10 MHz from 0.1 µs on, the most significant first, with the rising edge of CLK in the middle of each bit. -/
def tunerLines (s : State) : (Nat → Bool) × Bool × Bool :=
  match (s.radio 2).tun with
  | none => (fun _ => true, false, false)
  | some (c, w, a) =>
    let d := s.dt - a
    if 1800 ≤ d then (fun _ => true, false, false)
    else
      let k := (d - 100) / 100
      if d < 100 ∨ 16 ≤ k then (fun i => decide (i ≠ c), false, false)
      else (fun i => decide (i ≠ c), decide (nbits w (15 - k) 1 = 1), decide (50 ≤ (d - 100) % 100))

/-- The effect of a write to TUNER[c] (R287): applied at the next opportunity, or taken as the start of the search; Radios H
and M ignore it. -/
def tunerSet (s : State) (x c : Nat) (d : Word) : State :=
  if x ≠ 2 then s
  else
    let s := plainWrite s (Reg.rdTuner 2 c) d
    setRdChain s 2 c { rdChain s 2 c with pend := true, searching := false, fails := 0 }

/-- TUNER_REG_WRITE (R287). -/
def execTunerRegWrite (time : Nat) (init : Init) (x : Radio) (c : Fin 2) (data : Word) (s : State) :
    Host.Outcome State Fault Refusal :=
  let t := s.at time
  done s (busDo t init (Reg.rdTuner (rIdx x) c) 4 (some data) (fun t => tunerSet t (rIdx x) c data))

/-- The effect of a write to FEM_TIMING (R283): ignored where it breaks the order of the leads. -/
def femTimingSet (s : State) (x : Nat) (d : Word) : State :=
  let pa := bitsOf d 0 6
  let tx := bitsOf d 8 6
  let bo := bitsOf d 16 6
  if tx ≤ bo ∧ pa + 2 ≤ tx ∧ 2 ≤ pa then plainWrite s (Reg.rdFemTiming x) d else s

/-- FEM_TIMING_WRITE (R283). -/
def execFemTimingWrite (time : Nat) (init : Init) (x : Radio) (data : Word) (s : State) :
    Host.Outcome State Fault Refusal :=
  let t := s.at time
  done s (busDo t init (Reg.rdFemTiming (rIdx x)) 4 (some data) (fun t => femTimingSet t (rIdx x) data))

/-- BLANK_IN_ASSERT (R292): starts are prevented on the radios the pin is routed to, and in ABORT mode a PPDU in ON ends. An assertion
within a radio's hold-off goes on with the one before. -/
def execBlankInAssert (time : Nat) (pin : Fin 4) (s : State) : Host.Outcome State Fault Refusal :=
  let t := s.at time
  let abort := decide (nbits (pinWord t pin) 4 1 = 1)
  done s (t.each (List.range 3) (fun x t =>
    let again := t.bit (Reg.rdBlankStat x) pin
    let q := t.radio x
    let t := t.setRadio x { q with fell := bankSet (fun _ => none) q.fell pin none }
    let t := t.setBit (Reg.rdBlankStat x) pin true
    if pinRouted t pin x = false ∨ again = true then t
    else if txState t x = 3 then leadBlanked t x
    else if txState t x = 4 && abort then
      txCut ((t.inc (Reg.rdBlankAbort x)).raise (Reg.rdIrqRaw x) 6) x
    else t))

/-- A radio's hold-off after a pin fell has passed (R292): 100 ns and BLANK_CTRL.HOLD. -/
def pinHeldOff (s : State) (x pin : Nat) : Bool :=
  match bankGet (fun _ => none) (s.radio x).fell pin with
  | none => false
  | some a => decide (a + 100 + s.fld (Reg.rdBlankCtrl x) 0 16 ≤ s.dt)

/-- BLANK_IN_RELEASE (R292): the pin fell; starts are allowed again on each radio once its hold-off has passed. A release at
an earlier DT is kept until a later one ends it. -/
def execBlankInRelease (time : Nat) (fall : PinFall) (s : State) : Host.Outcome State Fault Refusal :=
  let t := s.at time
  let pin := fall.pin
  done s (t.each (List.range 3) (fun x t =>
    if t.bit (Reg.rdBlankStat x) pin = false then t
    else
      let q := t.radio x
      let since := (bankGet (fun _ => none) q.fell pin).getD (min fall.fell t.dt)
      let t := t.setRadio x { q with fell := bankSet (fun _ => none) q.fell pin (some since) }
      if pinHeldOff t x pin then
        let q := t.radio x
        (t.setRadio x { q with fell := bankSet (fun _ => none) q.fell pin none }).setBit (Reg.rdBlankStat x) pin false
      else t))

/-- BLANK_WINDOW_FIRE (R290, R288): a window of the blanking plan fires; a start that is still in LEAD is refused. -/
def execBlankWindowFire (time : Nat) (w : Fin 64) (s : State) : Host.Outcome State Fault Refusal :=
  let t := s.at time
  let g := curImg t
  let o := (iTbl g 0x12).off + 64 + 16 * w
  done s (if (curSlot t).isSome ∧ w.val < (iTbl g 0x12).count ∧ t.gen.bdy + i32 g (o + 4) ≤ t.dt ∧
      t.dt < t.gen.bdy + i32 g (o + 4) + i32 g (o + 8) then
      t.each (List.range 3) (fun x t => if blankWindow g x w (roundIdx t) then
        leadBlanked (reviewRadios t) x else t)
    else t)

end Sys2Proof.Machine
end

