-- ==== Sys2Proof/Machine/Calib.lean ====
section
/-! DEFINITION. The synthesiser (R266, R269) and the calibration engine (R206, R267, R275 to R280). -/

namespace Sys2Proof.Machine

/-- The synthesiser set to a state; the FEM lines are low in OFF and WARM (R283). -/
def setSyn (s : State) (x st : Nat) : State :=
  let s := (s.setFld (Reg.rdRdStat x) 0 3 st).setRadio x { s.radio x with synAt := s.dt }
  let s := if st < 2 then
      (s.setRadio x { s.radio x with blankOut := {} }).each (List.range (chainCount x)) (fun c t =>
        setRdChain t x c { rdChain t x c with txEn := {}, paEn := {}, rxEn := {}, byp := {} })
    else s
  reviewRadios s

/-- The maximum settle time of a radio's synthesiser in ns. -/
def maxSettle (x : Nat) : Nat := if x = 2 then 40000 else 30000

/-- The typical settle time of a radio's synthesiser in ns. -/
def typSettle (x : Nat) : Nat := if x = 2 then 16000 else 12000

/-- The entries of radio `x` that start at or after DT in this round and the next, overlapped ones aside, as (start, entry). -/
def comingEntries (s : State) (x : Nat) : List (Nat × Nat) :=
  let g := curImg s
  if (curSlot s).isNone then []
  else
    ([0, 1].flatMap (fun k => ((List.range (airTbl g x).count).filter (fun e =>
      airFires g x e (roundIdx s + k) && !overlapped g x e (roundIdx s + k))).map (fun e =>
        (s.gen.bdy + k * roundNs s + airFld g x e 1 0 32, e)))).filter (fun c => decide (s.dt ≤ c.1))

/-- The next entry of radio `x` as (start, entry). -/
def nextEntry (s : State) (x : Nat) : Option (Nat × Nat) :=
  (comingEntries s x).foldl (fun o c => match o with
    | none => some c
    | some b => if c.1 < b.1 then some c else some b) none

/-- The synthesiser asked for a channel (R269): from OFF it warms up for it; locked on another channel it settles anew. -/
def tuneTo (s : State) (x chan : Nat) : State :=
  if synState s x = 0 then setSyn (s.setFld (Reg.rdRdStat x) 12 4 chan) x 1
  else if synState s x = 1 then reviewRadios (s.setFld (Reg.rdRdStat x) 12 4 chan)
  else if synState s x = 3 ∧ radioChan s x ≠ chan then setSyn (s.setFld (Reg.rdRdStat x) 12 4 chan) x 2
  else s

/-- The player asks for a retune to a channel now (R266): no entry is in play, the next entry is on the channel, and its start lies
no more than the maximum settle time ahead. -/
def tuneDue (s : State) (x chan : Nat) : Bool :=
  islUp s (8 + x) && !(((s.airOf x).play.elim false (fun p => decide (s.dt < p.stop)))) &&
    (match nextEntry s x with
    | none => false
    | some (a, e) => decide (airFld (curImg s) x e 0 4 4 = chan) && decide (a ≤ s.dt + maxSettle x))

/-- SYNTH_TUNE_REQUEST (R266, R269). -/
def execSynthTuneRequest (time : Nat) (x : Radio) (chan : Fin 16) (s : State) : Host.Outcome State Fault Refusal :=
  let t := s.at time
  let i := rIdx x
  done s (if tuneDue t i chan then tuneTo t i chan else t)

/-- SYNTH_WARM_DONE (R269). -/
def execSynthWarmDone (time : Nat) (x : Radio) (s : State) : Host.Outcome State Fault Refusal :=
  let t := s.at time
  let i := rIdx x
  done s (if synState t i = 1 ∧ (t.radio i).synAt + 8000 ≤ t.dt then setSyn t i 2 else t)

/-- SYNTH_SETTLE_TIMEOUT (R269, R486): 100 µs without lock is a fault. -/
def execSynthSettleTimeout (time : Nat) (x : Radio) (s : State) : Host.Outcome State Fault Refusal :=
  let t := s.at time
  let i := rIdx x
  done s (if synState t i = 2 ∧ (t.radio i).synAt + 100000 ≤ t.dt then
      raiseFault (((setSyn t i 5).inc (Reg.rdSynUnlock i)).raise (Reg.rdIrqRaw i) 0) 2 i .retry 0
    else t)

/-- SYNTH_UNLOCK (R269, R270): the loop settles again, and a PPDU in ON ends. -/
def execSynthUnlock (time : Nat) (x : Radio) (s : State) : Host.Outcome State Fault Refusal :=
  let t := s.at time
  let i := rIdx x
  done s (if synState t i = 3 then
      let t := ((setSyn t i 2).inc (Reg.rdSynUnlock i)).raise (Reg.rdIrqRaw i) 0
      if txState t i = 4 then txCut t i else t
    else t)

/-- SYNTH_FAULT_RESTART (R269). -/
def execSynthFaultRestart (time : Nat) (x : Radio) (s : State) : Host.Outcome State Fault Refusal :=
  let t := s.at time
  let i := rIdx x
  done s (if synState t i = 5 ∧ (t.radio i).synAt + 10000 ≤ t.dt then setSyn t i 1 else t)

/-- Steps per chain of a kind (R275). -/
def calSteps (k : Nat) : Nat := [2, 4, 3, 4, 3, 8].getD k 0

/-- Length of a step of a kind in ns (R275). -/
def calLen (k : Nat) : Nat := 1000 * [4, 8, 6, 8, 8, 8].getD k 0

/-- The kinds that a radio has (R275). -/
def calHas (x k : Nat) : Bool := decide (k < 5) || (decide (k = 5) && decide (x < 2))

/-- The steps of a set of kinds and chains in their order (R277), as (kind, chain, whether it is the chain's last). -/
def calList (x kinds chains : Nat) : List (Nat × Nat × Bool) :=
  ((List.range 6).filter (fun k => calHas x k && decide (nbits kinds k 1 = 1))).flatMap (fun k =>
    ((List.range (chainCount x)).filter (fun c => decide (nbits chains c 1 = 1))).flatMap (fun c =>
      (List.range (calSteps k)).map (fun i => (k, c, decide (i + 1 = calSteps k)))))

/-- The mandatory kinds pending on a channel. -/
def mandKinds (s : State) (x n : Nat) : Nat := bankGet (fun _ => 0) (s.radio x).mand n

/-- The record of step set `k` as one number (R276). -/
def calSet (s : State) (k : Nat) : Nat := i32 (curImg s) ((iTbl (curImg s) 0x11).off + 8 * k)

/-- The position in a step set: it restarts where the set's record changed (R277). -/
def calPosOf (s : State) (x k : Nat) : Nat :=
  let p := bankGet (fun _ => (0, 0)) (s.radio x).calPos k
  if p.2 = calSet s k then p.1 else 0

/-- The steps of one kind on every chain of the radio, as a mandatory calibration runs them (R280). -/
def kindSteps (x k : Nat) : List (Nat × Nat × Bool) := calList x (2 ^ k) 15

/-- The steps of a set on a radio (R276, R277). -/
def setSteps (s : State) (x k : Nat) : List (Nat × Nat × Bool) := calList x (calSet s k % 64) (nbits (calSet s k) 8 4)

/-- How far a mandatory kind has run on a channel (R280). -/
def mandAt (s : State) (x n k : Nat) : Nat := bankGet (fun _ => (0 : Nat)) (s.radio x).mandPos (8 * n + k)

/-- The next step of a CAL entry (R277, R280): of the pending kinds first, in kind order, in an entry with MAND; then of the set. -/
def calStep (s : State) (x : Nat) (p : AirPlay) : Option CalStep :=
  let m := mandKinds s x p.chan
  let mk := fun (mand : Bool) (pos : Nat) (c : Nat × Nat × Bool) =>
    (⟨c.1, c.2.1, c.2.2, s.dt + calLen c.1, false, mand, pos, p.arg⟩ : CalStep)
  match if p.flags % 2 = 1 then (List.range 6).find? (fun k => decide (nbits m k 1 = 1)) else none with
  | some k => (kindSteps x k)[mandAt s x p.chan k]?.map (mk true (mandAt s x p.chan k))
  | none => (setSteps s x p.arg)[calPosOf s x p.arg]?.map (mk false (calPosOf s x p.arg))

/-- A step started (R206, R269): the LO moves by the step's offset where the step needs one, which the spec leaves open. -/
def calBegin (s : State) (x : Nat) (c : CalStep) : State :=
  let (n, s) := s.drawNat
  let s := s.setRadio x { s.radio x with cal := some c }
  if c.bg = false ∧ n % 2 = 1 then setSyn s x 4 else s

/-- The next step of a CAL entry started (R206, R269, R277): the synthesiser is LOCKED on the entry's channel, and the step
ends before the entry does. -/
def calNext (s : State) (x : Nat) : State :=
  match (s.airOf x).play, (s.radio x).cal with
  | some p, none =>
    if p.ty ≠ 6 ∨ p.forfeit = true ∨ synState s x ≠ 3 ∨ radioChan s x ≠ p.chan then s
    else match calStep s x p with
      | none => s
      | some c => if c.stop ≤ p.stop then calBegin s x c else s
  | _, _ => s

/-- Lock declared (R269, R270): a request held goes on, and a CAL entry's next step starts. -/
def lockNow (s : State) (x : Nat) : State :=
  if synState s x ≠ 2 then s
  else
    let t := setSyn s x 3
    if txState t x = 1 then txResume t x else calNext t x

/-- A lock that waits in the present cycle comes before the end of the entry (R272). -/
def lockSoon (s : State) (x : Nat) : State :=
  if (sameCycle s).any (fun c => match c with
    | .synthLock _ y => decide (rIdx y = x)
    | _ => false) then lockNow s x else s

/-- SYNTH_LOCK (R269, R270). -/
def execSynthLock (time : Nat) (x : Radio) (s : State) : Host.Outcome State Fault Refusal :=
  done s (lockNow (s.at time) (rIdx x))

/-- A channel counts as calibrated (R277): every kind the radio has has completed on every enabled chain. -/
def calComplete (s : State) (x n : Nat) : Bool :=
  let d := bankGet (fun _ => 0) (s.radio x).calDone n
  (List.range 6).all (fun k => !calHas x k || (enabledChains s x).all (fun c => decide (nbits d (4 * k + c) 1 = 1)))

/-- A kind's step ended on a chain's last step: the completion is recorded, with its temperature or ceiling (R279). TXGAIN
cannot complete on a chain with SLOPE 0. -/
def calMark (s : State) (x n k c : Nat) : State :=
  if k = 4 ∧ s.fld (Reg.rdPdetCal x c) 16 16 = 0 then s
  else
    let r := s.radio x
    let d := bankGet (fun _ => 0) r.calDone n
    let s := s.setRadio x { r with calDone := bankSet (fun _ => 0) r.calDone n (d ||| 2 ^ (4 * k + c)) }
    let r := s.radio x
    let temp := signed 12 (s.fld (Reg.rdTemp x) 0 12)
    let s :=
      if k = 3 then s.setRadio x { r with calTemp := bankSet (fun _ => none) r.calTemp (2 * n) (some temp) }
      else if k = 5 then s.setRadio x { r with calTemp := bankSet (fun _ => none) r.calTemp (2 * n + 1) (some temp) }
      else if k = 4 then s.setRadio x { r with calCeil := bankSet (fun _ => none) r.calCeil n (some (chanCeiling s x n)) }
      else s
    s.setBit (Reg.rdCalStat x) (16 + n) (s.bit (Reg.rdCalStat x) (16 + n) || calComplete s x n)

/-- The kinds pending on a channel replaced, with CAL_STAT.MAND. -/
def setMand (s : State) (x n kinds : Nat) : State :=
  let r := s.radio x
  let s := s.setRadio x { r with mand := bankSet (fun _ => 0) r.mand n kinds }
  reviewRdStat (s.setBit (Reg.rdCalStat x) n (decide (kinds ≠ 0))) x

/-- How far a mandatory kind has run on a channel, replaced. -/
def setMandAt (s : State) (x n k v : Nat) : State :=
  let r := s.radio x
  s.setRadio x { r with mandPos := bankSet (fun _ => 0) r.mandPos (8 * n + k) v }

/-- The position of the step that ended moved on by one (R277, R280): the last step of a mandatory kind clears it, and that of a set
returns to its first. -/
def calAdvance (s : State) (x n : Nat) (c : CalStep) : State :=
  if c.mand then
    if (kindSteps x c.kind).length ≤ c.pos + 1 then
      setMand (setMandAt s x n c.kind 0) x n (mandKinds s x n - nbits (mandKinds s x n) c.kind 1 * 2 ^ c.kind)
    else setMandAt s x n c.kind (c.pos + 1)
  else
    let r := s.radio x
    let next := (if (setSteps s x c.set).length ≤ c.pos + 1 then 0 else c.pos + 1, calSet s c.set)
    s.setRadio x { r with calPos := bankSet (fun _ => (0, 0)) r.calPos c.set next }

/-- A calibration made mandatory on a calibrated channel (R279). -/
def mandRaise (s : State) (x n kinds : Nat) : State :=
  let k := mandKinds s x n ||| kinds
  if s.bit (Reg.rdCalStat x) (16 + n) = false ∨ k = mandKinds s x n then s
  else (setMand s x n k).raise (Reg.rdIrqRaw x) 4

/-- The ceiling of a channel compared with the one recorded (R279): TXGAIN, and DPD on Radios H and M, become mandatory where it
changed; while TXGAIN is pending, its completion will record the ceiling anew. -/
def reviewCeiling (s : State) (x n : Nat) : State :=
  match bankGet (fun _ => none) (s.radio x).calCeil n with
  | none => s
  | some v => if v = chanCeiling s x n ∨ nbits (mandKinds s x n) 4 1 = 1 then s else mandRaise s x n (if x = 2 then 16 else 48)

/-- CAL_STEP_END (R269, R275, R277, R278, R280): a step ends within its length; one that moved the LO leaves 4 µs of it for the settle
back. -/
def execCalStepEnd (time : Nat) (x : Radio) (s : State) : Host.Outcome State Fault Refusal :=
  let t := s.at time
  let i := rIdx x
  done s (match (t.radio i).cal with
    | none => t
    | some c =>
      if t.dt + (if synState t i = 4 then 4000 else 0) < c.stop then t
      else
        let n := radioChan t i
        let t := t.setRadio i { t.radio i with cal := none }
        let t := if c.last then calMark t i n c.kind c.chain else t
        if c.bg then
          let ch := rdChain t i c.chain
          let t := setRdChain t i c.chain { ch with blind := false, byp := wireTo t ch.byp (ch.agc % 2 = 1) t.dt }
          let t := reviewCeiling (t.setRadio i { t.radio i with bgPos := (t.radio i).bgPos + 1 }) i n
          if txState t i = 2 then txResume t i else t
        else
          let t := reviewCeiling (calAdvance t i n c) i n
          let t := if synState t i = 4 then setSyn t i 2 else t
          calNext t i)

/-- A frame is ready for radio `x` (R278): a queue that descends to its port, or a multi-link subscriber's, may send. -/
def radioReady (s : State) (x : Nat) : Bool :=
  (busyFqs s).any (fun q => nodeLive s 0 q && mayDraw s x (nodeAbove s q 1) && pathEligible s q (radioPort x) &&
    (match fqHead s q with
      | none => false
      | some f => storedReady f && !tagRetired s f.tag)) ||
    !(s.radio x).stock.isEmpty || decide ((s.pound (23 + x)).packets ≠ 0) ||
    s.sta.retry.any (fun m => staLink s m.sta x)

/-- BG_CAL_STEP_START (R278, R274): the next RXDC step in chain order; its chain alone is blanked. The medium has been idle for
BG_IDLE, the radio's own transmissions among what made it busy. -/
def execBgCalStepStart (time : Nat) (x : Radio) (chain : Fin 4) (s : State) : Host.Outcome State Fault Refusal :=
  let t := s.at time
  let i := rIdx x
  let l := enabledChains t i
  let k := (t.radio i).bgPos
  let idle := match mediumIdleFrom t i 0 with
    | none => false
    | some a => decide (a + 1000 * t.fld (Reg.rdBgCal i) 16 16 ≤ t.dt)
  done s (match (t.airOf i).play, l[k / 2 % max 1 l.length]? with
    | some p, some next =>
      if decide (next = chain.val) && decide (p.ty = 4) && !p.forfeit && t.bit (Reg.rdBgCal i) 0 && (t.radio i).cal.isNone && decide (synState t i = 3) &&
          decide (txState t i = 0) && idle && !radioReady t i && decide (t.dt + calLen 0 ≤ p.stop) then
        let ch := rdChain t i chain
        let t := setRdChain t i chain { ch with blind := true, byp := wireTo t ch.byp true t.dt }
        calBegin t i ⟨0, chain, decide (k % 2 = 1), t.dt + calLen 0, true, false, k, 0⟩
      else t
    | _, _ => t)

/-- TEMP_SAMPLE (R279): the temperature is read, and TXIQ and DPD become mandatory where it moved by more than TEMP_THR from the one
recorded for either; a kind already pending will record it anew. -/
def execTempSample (time : Nat) (x : Radio) (temp : BitVec 12) (s : State) : Host.Outcome State Fault Refusal :=
  let t := s.at time
  let i := rIdx x
  let thr : Nat := 8 * max 1 (t.fld (Reg.rdTempThr i) 0 8)
  let far := fun (t : State) (n k j : Nat) => match bankGet (fun _ => none) (t.radio i).calTemp j with
    | none => false
    | some v => decide (nbits (mandKinds t i n) k 1 = 0) && decide (thr < (signed 12 temp.toNat - v).natAbs)
  done s (if islUp t (8 + i) = false then t
    else
      let t := t.setFld (Reg.rdTemp i) 0 12 temp.toNat
      if i = 2 then t
      else t.each (List.range 16) (fun n t =>
        if t.bit (Reg.rdCalStat i) (16 + n) && (far t n 3 (2 * n) || far t n 5 (2 * n + 1)) then
          (mandRaise t i n 40).raise (Reg.rdIrqRaw i) 5
        else t))

/-- The ceilings of every channel compared with those recorded (R279). -/
def reviewCeilings (s : State) (x : Nat) : State := s.each (List.range 16) (fun n t => reviewCeiling t x n)

/-- A write to PWR_LIMIT or CHAIN_EN; bits above the radio's chains read 0 (R279, CHAIN_EN). -/
def ceilingWrite (s : State) (x a : Nat) (d : Word) : State :=
  reviewCeilings (plainWrite s a (if a = Reg.rdChainEn x then BitVec.ofNat 32 (d.toNat % 2 ^ chainCount x) else d)) x

/-- The record of step set `k` is the same in the images of two states (R277). -/
def sameCalSet (o s : State) (k : Nat) : Bool :=
  (curSlot o).isSome && decide (k < (iTbl (curImg o) 0x11).count) && decide (k < (iTbl (curImg s) 0x11).count) &&
    decide (calSet o k = calSet s k)

/-- Calibration results at a swap: an index whose CENTRE_KHZ, BW or PUNCT changed becomes uncalibrated (R267), and the position
in a step set whose record changed restarts (R277). `o` is the state before the swap. -/
def chanSwap (o s : State) : State :=
  let s := s.each (List.range 3) (fun x t =>
    t.setRadio x { t.radio x with calPos := bankKeep (sameCalSet o t) (t.radio x).calPos })
  s.each (List.range 3) (fun x t => t.each (List.range 16) (fun n u =>
    if (curSlot o).isSome && decide (n < chanCount (curImg o) x) && decide (n < chanCount (curImg u) x) &&
        decide (chanKey (curImg o) x n = chanKey (curImg u) x n) then u
    else
      let u := (setMand u x n 0).each (List.range 6) (fun k v => setMandAt v x n k 0)
      let r := u.radio x
      let r := { r with calDone := bankSet (fun _ => 0) r.calDone n 0, calCeil := bankSet (fun _ => none) r.calCeil n none,
                        calTemp := bankSet (fun _ => none) (bankSet (fun _ => none) r.calTemp (2 * n) none) (2 * n + 1) none }
      (u.setRadio x r).setBit (Reg.rdCalStat x) (16 + n) false))

end Sys2Proof.Machine
end

