-- ==== Sys2Proof/Machine/Air.lean ====
section
/-! DEFINITION. Air players (R181 to R217): entries, exchanges, spare lists, restricted access windows, EDCA access, LISTEN
windows, the clock-error model and its record commands, and responses (R238, R241). -/

namespace Sys2Proof.Machine

/-- The table-store page that holds an air entry is damaged (R494, R495): the entry is played as QUIET. -/
def entryLost (s : State) (x e : Nat) : Bool :=
  match curSlot s with
  | none => true
  | some k => (s.gen.bad ++ s.gen.lost).contains (k, ((airTbl (curImg s) x).off + 16 * e) / 4096)

/-- The radio is off for check 1 (R181). -/
def radioOff (s : State) (x : Nat) : Bool := !islUp s (8 + x) || s.bit (Reg.topIslCtrl (8 + x)) 1

/-- Check 4 fails (R181, R280): a mandatory calibration is pending on the channel, or the synthesiser is neither locked on it
nor, by its typical settle time, locks within HOLD_NS (notes/assumptions/211.md). -/
def synthNotReady (s : State) (x chan : Nat) : Bool :=
  let st := synState s x
  let lock := (s.radio x).synAt + typSettle x + (if st = 1 then 8000 else 0)
  mandPending s x chan || decide (radioChan s x ≠ chan) || decide (st = 0) || decide (3 < st) ||
    (decide (st < 3) && decide (s.dt + s.fld (Reg.rdHoldNs x) 0 16 < lock))

/-- The stations an entry names (R187). -/
def entryNames (g : Img) (ty arg : Nat) : List Nat :=
  if ty = 1 then (trigUsers g arg).map (userSta g)
  else if ty = 2 then (listEntries g arg).map (userSta g)
  else if ty = 3 then [arg]
  else []

/-- A station is empty for an uplink entry (R196): its UL_BUF is 0. -/
def ulEmpty (s : State) (x a : Nat) : Bool := decide (s.fld (Reg.airAsrAux x a) 16 16 = 0)

/-- A user entry of a template or a list (R193). -/
def userOf (g : Img) (o : Nat) : AirUser :=
  { sta := userSta g o, ru := userRu g o, mcs := iFld g o 21 4, nss := userNss g o, limit := iFld g (o + 4) 0 24,
    rssi := iFld g (o + 4) 24 7 }

/-- The users and the spare entries of an entry (R193, R198). -/
def entryUsers (g : Img) (ty flags arg : Nat) : List AirUser × List AirUser :=
  let l := fun n => (listEntries g n).map (userOf g)
  if ty = 1 then
    ((trigUsers g arg).map (userOf g), if nbits flags 1 1 = 1 then l (iFld g (recOff g 0x0E arg) 16 12) else [])
  else (l arg, if nbits flags 2 1 = 1 then l (iFld g (recOff g 0x0F arg) 16 12) else [])

/-- The player asks the traffic manager for the stations of such an entry (R186): TRIG with UL = 0, and SP without RAW. -/
def asksEntry (ty flags : Nat) : Bool :=
  (decide (ty = 1) && decide (flags % 2 = 0)) || (decide (ty = 2) && decide (nbits flags 1 1 = 0))

/-- The stations that an entry's requests name, in order: the named ones, then the spares (R186). -/
def entryAsks (g : Img) (ty flags arg : Nat) : List AirUser :=
  if asksEntry ty flags then (entryUsers g ty flags arg).1 ++ (entryUsers g ty flags arg).2 else []

/-- Requests of radio `x` made for what starts at `start`. -/
def asked (s : State) (x start : Nat) : Nat := (((s.airOf x).asks.find? (fun a => decide (a.start = start))).map (·.count)).getD 0

/-- The requests of the entry in play are made, so that every answer has come (R186). -/
def asksDone (s : State) (x : Nat) (p : AirPlay) : Bool :=
  decide ((entryAsks (curImg s) p.ty p.flags p.arg).length ≤ asked s x p.start)

/-- The frames of the traffic manager that a request reserved and that have not entered the pound. -/
def waitingFids (s : State) (a : TmAnswer) : List Nat :=
  a.fids.filter (fun i => s.tm.frames.any (fun f => decide (f.fid = i) && !f.started))

/-- The bytes of what radio `x` has for a peer, in the order it would be sent: MPDUs that await retransmission, frames held, and
frames reserved by an answer; with how many of them the radio holds. -/
def sendable (s : State) (x a : Nat) (ans : Option TmAnswer) : List Nat × Nat × List Nat :=
  let mine := (retryFor s x a).map (·.data.length) ++ (stockFor s x a).map (·.2.length)
  let fids := (ans.map (waitingFids s)).getD []
  let res := fids.map (fun i => ((barge s i).map (·.data.length)).getD 0)
  (mine ++ res, mine.length, fids)

/-- How many of a list of lengths fit a limit in bytes, in order. -/
def withinLimit (limit : Nat) : List Nat → Nat
  | [] => 0
  | n :: r => if n ≤ limit then withinLimit (limit - n) r + 1 else 0

/-- A user of a run with what it may carry within LIMIT (R195, R199). -/
def txUserOf (s : State) (x : Nat) (u : AirUser) (ans : Option TmAnswer) : TxUser :=
  let (lens, held, fids) := sendable s x u.sta ans
  { user := u, want := withinLimit u.limit lens, held := held, fids := fids }

/-- A station is empty for a downlink entry (R174, R178): its request was answered EMPTY, or not at all, and the radio holds nothing
for it; the parent is reached in CONTEND entries only (R253). -/
def dlEmpty (s : State) (x start i : Nat) (u : AirUser) : Bool :=
  decide (staKind s u.sta = 2) || decide ((txUserOf s x u (answerOf s x start i)).want = 0)

/-- R197: each vacant user passed to the next spare entry that serves, in list order; a spare past the limit of names leaves
the unit empty (R187). Users go with the place of their request. The result is the users served and the state with the
spares named. -/
def fillVacancies (empty : Nat × AirUser → Bool) (users : List AirUser) (ru : Bool) :
    List (Nat × AirUser) → List (Nat × AirUser) → List (Nat × AirUser) → State → List (Nat × AirUser) × State
  | [], _, l, s => (l, s)
  | u :: r, spares, l, s =>
    if empty u = false then fillVacancies empty users ru r spares (l ++ [u]) s
    else
      let shared := ru && decide (1 < (users.filter (fun v => decide (v.ru = u.2.ru))).length)
      match spares.find? (fun p => !empty p && !(users.map (·.sta)).contains p.2.sta && !(l.map (·.2.sta)).contains p.2.sta &&
          !(shared && decide (p.2.nss ≠ u.2.nss))) with
      | none => fillVacancies empty users ru r spares l s
      | some p =>
        let rest := spares.filter (fun q => decide (q.1 ≠ p.1))
        match nameStations s [p.2.sta] with
        | none => fillVacancies empty users ru r rest l s
        | some s => fillVacancies empty users ru r rest (l ++ [(p.1, { p.2 with ru := u.2.ru })]) s

/-- The vacancies of the entry in play filled, once its requests are answered (R197, R199). -/
def fillEntry (s : State) (x : Nat) : State :=
  match (s.airOf x).play with
  | none => s
  | some p =>
    if p.filled || p.forfeit || decide (p.ty ≠ 1 ∧ p.ty ≠ 2) || decide (p.ty = 2 ∧ nbits p.flags 1 1 = 1) || !asksDone s x p then s
    else
      let (us, sp) := entryUsers (curImg s) p.ty p.flags p.arg
      let num := fun (k : Nat) (l : List AirUser) => (List.range l.length).filterMap (fun i => (l[i]?).map (fun u => (k + i, u)))
      let empty := fun (u : Nat × AirUser) =>
        if p.ty = 1 ∧ p.flags % 2 = 1 then ulEmpty s x u.2.sta else dlEmpty s x p.start u.1 u.2
      let (l, s) := fillVacancies empty us (decide (p.ty = 1)) (num 0 us) (num us.length sp) [] s
      setPlay s x (some { p with filled := true, users := l, members := (p.members ++ l.map (·.2.sta)).eraseDups })

/-- The first DT at or before `d` whose low 48 bits are `a`. -/
def expandDt (a d : Nat) : Nat := d - (d + 2 ^ 48 - a % 2 ^ 48) % 2 ^ 48

/-- R210: the window of a LISTEN entry from `a` to `b` in DT, and whether it was widened. -/
def listenWindow (s : State) (x sta a b : Nat) (widen : Bool) : Nat × Nat × Bool :=
  let known := s.bit (Reg.airAsrStat x sta) 2
  if driftOn s x = false ∨ asrState s x sta ≠ 1 ∨ known = false then (a, b, false)
  else
    let span : Int := (asrSpan s x sta * 1000 : Nat)
    let m := roundDiv (asrD s x sta * 7200000000000 + asrG s x sta * span) 7200000000000
    let anchor : Int := (expandDt (s.pair (Reg.airAsrAnchLo x sta)) s.dt : Nat)
    let centre := roundDiv ((anchor + span) * 1024000000 + span * m) 1024000000
    let gk : Int := (s.fld (Reg.airDriftGain x) 0 8 : Nat)
    let base : Int := (s.fld (Reg.airGbaseNs x) 0 16 + asrUnsure s x sta * 1000 : Nat)
    let h := roundDiv (base * 4096000000 + gk * (asrV s x sta : Nat) * span) 4096000000
    let guard : Int := (s.fld (Reg.airGuardNs x) 0 20 : Nat)
    let wide := decide (guard < h) && widen
    let w := if h ≤ guard ∨ wide = true then h else guard
    let clip := fun (v : Int) => (clampInt a b v).toNat
    (clip (centre - w), clip (centre + w), wide)

/-- The window of a LISTEN entry that fires (R210); check 3 is remembered for when it opens. The flag says whether the window
was widened. -/
def listenOf (s : State) (x : Nat) (p : AirPlay) (named : Bool) : Listen × Bool :=
  let g := curImg s
  let (a, b, wide) := listenWindow s x p.arg (max p.start s.dt) p.stop (p.flags % 2 = 1)
  let lim := match contendAfter g x (roundIdx s) (p.stop - s.gen.bdy) with
    | none => p.stop
    | some e => s.gen.bdy + airFld g x e 1 0 32 + airFld g x e 2 0 32
  ({ sta := p.arg, entry := p.entry, stop := p.stop, limit := lim, opn := a, cls := b, named := named,
     sUs := airFld g x p.entry 3 0 16 * roundNs s / 1000 }, wide)

/-- A LISTEN entry fires (R210): its window waits to open, beside the entry in play where an entry listed earlier fires over
it (R182). -/
def listenFire (s : State) (x : Nat) (p : AirPlay) (named late : Bool) : State :=
  let (l, wide) := listenOf s x p named
  let s := if wide then s.inc (Reg.airWidenCnt x) else s
  let r := s.airOf x
  s.setAirOf x (if late then { r with lapped := r.lapped ++ [l] } else { r with listen := some l })

/-- Overlapped LISTEN entries whose windows open by DT `d` forfeited (R181, R182, R214): OFF where the radio is off, else
OVERLAP. -/
def overDue (s : State) (x d : Nat) : State :=
  let l := (s.airOf x).lapped
  let s := s.setAirOf x { s.airOf x with lapped := l.filter (fun (w : Listen) => decide (d < w.opn)) }
  s.each (l.filter (fun (w : Listen) => decide (w.opn ≤ d))) (fun (w : Listen) (t : State) =>
    let t := airCause t x 0 (if radioOff t x then 0 else 1) w.entry w.sta
    if driftOn t x then setSpan t x w.sta (asrSpan t x w.sta + stationS t x w) else t)

/-- A LISTEN entry forfeited under checks 1 to 4 (R214): neither a hit nor a miss, but S is added to SPAN. -/
def listenForfeit (s : State) (x : Nat) (l : Listen) : State :=
  let s := s.setAirOf x { s.airOf x with listen := none }
  if driftOn s x then setSpan s x l.sta (asrSpan s x l.sta + stationS s x l) else s

/-- A wake-timing frame that can no longer be sent is given up (R213). -/
def wakeReview (s : State) (x : Nat) : State :=
  match (s.airOf x).wake with
  | none => s
  | some w => if w.sent = false ∧ w.limit ≤ s.dt ∧ txState s x = 0 then wakeGivenUp s x else s

/-- A LISTEN entry ends (R211, R214): a window that opened without a hit is a miss, unless the synthesiser never locked for it, which
forfeits the entry (R181); a PPDU that began in it is still awaited. -/
def listenEnd (s : State) (x : Nat) : State :=
  match (s.airOf x).listen with
  | none => s
  | some l =>
    if windowReception s x l then s
    else if l.opened = false then s.setAirOf x { s.airOf x with listen := none }
    else if synState s x = 3 then listenMissed s x l
    else listenForfeit (forfeitPlay s x 3) x l

/-- The entry in play ends (R175, R53, R203, R270): frames reserved for it return, a request held is refused, and what was
reserved of the ledger and not sent is released. A lock in the same cycle comes first (R272). -/
def airEnd (s : State) (x : Nat) : State :=
  match (s.airOf x).play with
  | none => wakeReview s x
  | some p =>
    let s := if txState s x = 1 then lockSoon s x else s
    let s := if txState s x = 1 then holdFail s x else s
    let s := edcaFreeze s x
    let held := (s.airOf x).wake.map (·.hitAt)
    let s := returnReserved s x (fun a => decide (a.start < p.stop) && decide (held ≠ some a.start))
    let a := s.airOf x
    let s := s.setAirOf x { a with asks := a.asks.filter (fun k => decide (p.stop ≤ k.start)), txop := none }
    let s := (dropRest s x).setRadio x { (dropRest s x).radio x with exEnd := none }
    reviewRadios (setPlay (wakeReview (listenEnd s x) x) x none)

/-- An entry with its fields, from its round boundary. -/
def playOf (s : State) (x e : Nat) : AirPlay :=
  let g := curImg s
  let a := s.gen.bdy + airFld g x e 1 0 32
  { entry := e, start := a, stop := a + airFld g x e 2 0 32, ty := airFld g x e 0 0 3, flags := airFld g x e 0 8 8,
    arg := airFld g x e 0 16 16, chan := airFld g x e 0 4 4, part := decide (a + 100 < s.dt) }

/-- What an entry does as it starts to play (R190, R196, R199, R203, R206, R210). -/
def airBegin (s : State) (x : Nat) (p : AirPlay) : State :=
  let listed := if p.ty = 2 then (entryUsers (curImg s) 2 p.flags p.arg).1.map (·.sta) else []
  let s := setPlay s x (some { p with begun := p.part && decide (p.ty < 2), members := listed.eraseDups })
  let s :=
    if p.ty = 1 ∧ p.flags % 2 = 1 then fillEntry s x
    else if p.ty = 4 then
      let s := s.setAirOf x { s.airOf x with cntFrom := s.dt }
      if (s.airOf x).edcaSet = some p.arg then s
      else (s.setAirOf x { s.airOf x with edcaSet := some p.arg }).each (List.range 4) (fun ac t => edcaFresh t x ac)
    else s
  let s := reviewRadios s
  if p.ty = 6 then calNext s x else s

/-- An entry of radio `x` is in play and has not reached its end. -/
def inPlay (s : State) (x : Nat) : Bool :=
  match (s.airOf x).play with
  | none => false
  | some p => decide (s.dt < p.stop)

/-- An air entry fires (R59, R181, R182, R187): checks 1 to 4, in order; for a LISTEN entry, whose station is named now, they
wait until its window opens. A forfeit with OVERLAP leaves the entry in play as it is. An entry that follows the one before it
without a gap asks for its channel as it starts (R266). -/
def airFire (s : State) (x e : Nat) : State :=
  let s := if inPlay s x then s else airEnd s x
  let s := s.setAirOf x { s.airOf x with fired := e :: (s.airOf x).fired }
  let p := playOf s x e
  let sta := playSta p
  let forfeit := fun (s : State) (c : Nat) =>
    airCause (if inPlay s x then s else reviewRadios (setPlay s x (some { p with forfeit := true }))) x 0 c e sta
  let late := overlapped (curImg s) x e (roundIdx s) || inPlay s x
  let s := if !late && decide (s.dt = p.start) && decide (synState s x = 3) then tuneTo s x p.chan else s
  if p.ty = 3 then
    let n := nameStations s [p.arg]
    let s := n.getD s
    listenFire (if late then s else airBegin s x p) x p n.isSome late
  else if radioOff s x then forfeit s 0
  else if late then airCause s x 0 1 e sta
  else match nameStations s (entryNames (curImg s) p.ty p.arg) with
    | none => forfeit s 2
    | some s => if p.ty < 5 && synthNotReady s x p.chan then forfeit s 3 else airBegin s x p

/-- Entry `e` of radio `x` is to fire now: its round selects it, its time covers DT, and it has not fired in this round. -/
def fireDue (s : State) (x e : Nat) : Bool :=
  let g := curImg s
  let a := s.gen.bdy + airFld g x e 1 0 32
  islUp s 6 && (curSlot s).isSome && decide (e < (airTbl g x).count) && airFires g x e (roundIdx s) && !entryLost s x e &&
    decide (a ≤ s.dt) && decide (s.dt < a + airFld g x e 2 0 32) && !(s.airOf x).fired.contains e

/-- The players at a round boundary: entries that ended leave, and every entry may fire anew. A window that closes at the
boundary is settled under the generation that is current from it on (R216). -/
def airRound (s : State) : State :=
  s.each (List.range 3) (fun x t =>
    let l := (t.airOf x).listen.filter (fun l => l.opened && decide (nextBdy t ≤ l.cls))
    let t := if l.isSome then t.setAirOf x { t.airOf x with listen := none } else t
    let t := airEnd t x
    let t := overDue t x (t.gen.bdy + roundNs t)
    let t := t.setAirOf x { t.airOf x with fired := [], listen := if l.isSome then l else (t.airOf x).listen }
    t.setFld (Reg.airAirStat x) 0 12 0)

/-- Windows that closed at the boundary just passed, settled (R211, R216). -/
def airRoundEnd (s : State) : State :=
  s.each (List.range 3) (fun x t =>
    match (t.airOf x).listen with
    | none => t
    | some l => if l.opened && decide (l.cls ≤ t.dt) && (t.airOf x).play.isNone then listenEnd t x else t)

/-- What was asked for entries from boundary `b` on, taken back as a swap makes them those of another generation (R175, R186). -/
def askForget (s : State) (x b : Nat) : State :=
  let s := returnReserved s x (fun a => decide (b ≤ a.start))
  s.setAirOf x { s.airOf x with asks := (s.airOf x).asks.filter (fun k => decide (k.start < b)) }

/-- The player of radio `x` rejoins (R54): the entry that the loss of its island forfeited leaves, and the entry that covers DT fires, for
its remainder, on the channel it asks for. -/
def airRejoin (s : State) (x : Nat) : State :=
  let s := match (s.airOf x).play with
    | none => s
    | some p =>
      if p.forfeit then
        setPlay (s.setAirOf x { s.airOf x with fired := (s.airOf x).fired.erase p.entry }) x none
      else s
  match (List.range (airTbl (curImg s) x).count).find? (fun e => fireDue s x e) with
  | none => s
  | some e => airFire (tuneTo s x (airFld (curImg s) x e 0 4 4)) x e

/-- The firings of the present cycle that wait on a radio. -/
def firesSoon (s : State) (y : Nat) : List Nat :=
  (sameCycle s).filterMap (fun c => match c with
    | .airEntryFire _ z e => if rIdx z = y then some e.val else none
    | _ => none)

/-- Stations are named in the order Radio H, M, L within a cycle (R188): what radios above `x` fire or fill now comes first. -/
def namesFirst (s : State) (x : Nat) : State :=
  s.each (List.range x) (fun y t =>
    let t := t.each (firesSoon s y) (fun e t => if fireDue t y e then airFire t y e else t)
    if (sameCycle s).any (fun c => match c with
      | .exchangeStart _ z _ => decide (rIdx z = y)
      | _ => false) then fillEntry t y else t)

/-- AIR_ENTRY_FIRE (R181). -/
def execAirEntryFire (time : Nat) (x : Radio) (entry : Fin 4096) (s : State) : Host.Outcome State Fault Refusal :=
  let t := s.at time
  done s (if fireDue t (rIdx x) entry then airFire (namesFirst t (rIdx x)) (rIdx x) entry else t)

/-- AIR_ENTRY_END (R175, R53). -/
def execAirEntryEnd (time : Nat) (x : Radio) (s : State) : Host.Outcome State Fault Refusal :=
  let t := s.at time
  done s (match (t.airOf (rIdx x)).play with
    | none => t
    | some p => if p.stop ≤ t.dt then airEnd t (rIdx x) else t)

/-- A request that a player owes (R186): what it is for by its start, its place there, the station with its LIMIT, and the DTs from and
before which it is made. -/
structure OwedAsk where
  start : Nat
  count : Nat
  users : List AirUser
  opn : Nat
  cls : Nat
deriving DecidableEq, Repr

/-- The requests of entry `e` of radio `x` in the round whose boundary is `b` (R186): those of its stations from 4 µs before its start,
or those of each slot of a restricted access window from 4 µs before the slot. -/
def entryOwes (s : State) (x e b : Nat) : List OwedAsk :=
  let g := curImg s
  let ty := airFld g x e 0 0 3
  let flags := airFld g x e 0 8 8
  let arg := airFld g x e 0 16 16
  let a := b + airFld g x e 1 0 32
  let z := a + airFld g x e 2 0 32
  if ty = 2 ∧ nbits flags 1 1 = 1 then
    let l := listEntries g arg
    let us := (z - a) / (1000 * max 1 l.length)
    (List.range l.length).map (fun i =>
      let t := a + 1000 * us * i
      ⟨t, asked s x t, (l[i]?).toList.map (userOf g), t - 4000, t + 1000 * us⟩)
  else [⟨a, asked s x a, entryAsks g ty flags arg, a - 4000, z⟩]

/-- The entries of radio `x` that its player may ask for, as (entry, boundary of its round): those of this round that are not forfeited
or past, and those of the next. -/
def askable (s : State) (x : Nat) : List (Nat × Nat) :=
  let g := curImg s
  let r := s.airOf x
  let past := fun e => r.fired.contains e && !(match r.play with
    | none => false
    | some p => decide (p.entry = e) && !p.forfeit)
  if (curSlot s).isNone ∨ islUp s 6 = false then []
  else [0, 1].flatMap (fun k => ((List.range (airTbl g x).count).filter (fun e =>
    airFires g x e (roundIdx s + k) && !overlapped g x e (roundIdx s + k) && !entryLost s x e &&
      !(decide (k = 0) && past e))).map (fun e => (e, s.gen.bdy + k * roundNs s)))

/-- The requests that the player of radio `x` owes now. -/
def owedNow (s : State) (x : Nat) : List OwedAsk :=
  ((askable s x).flatMap (fun e => entryOwes s x e.1 e.2)).filter (fun o =>
    decide (o.count < o.users.length) && decide (o.opn ≤ s.dt) && decide (s.dt < o.cls))

/-- A request counted for what starts at `start`. -/
def askCount (s : State) (x start : Nat) : State :=
  let a := s.airOf x
  s.setAirOf x { a with asks := a.asks.filter (fun k => decide (k.start ≠ start)) ++ [⟨start, asked s x start + 1, s.dt⟩] }

/-- The traffic manager answers a request (R173); while it is in reset or off, the station counts as empty (R178). The parent is reached in
CONTEND entries alone, so that nothing is reserved for it (R253). -/
def askFor (s : State) (x start count sta limit : Nat) : State :=
  if islUp s 5 = false ∨ staKind s sta = 2 then s else tmRequest s x start count sta limit

/-- The request that the player of radio `x` owes for the earliest start (R186). -/
def firstOwed (s : State) (x : Nat) : Option OwedAsk :=
  (owedNow s x).foldl (fun o c => match o with
    | none => some c
    | some b => if c.start < b.start then some c else some b) none

/-- The next request of the player of radio `x` (R186): that of a hit, whose LISTEN entry gives no LIMIT, or the earliest it owes, with
its entry's LIMIT; at least 20 ns after the one before. -/
def askNext (s : State) (x sta limit : Nat) : State :=
  if (s.airOf x).asks.any (fun k => decide (s.dt < k.last + 20)) then s
  else match (s.airOf x).wake.filter (fun w => !w.asked) with
    | some w =>
      if w.sta = sta then askFor (s.setAirOf x { s.airOf x with wake := some { w with asked := true } }) x w.hitAt 0 sta limit else s
    | none =>
      match firstOwed s x with
      | none => s
      | some o => match o.users[o.count]? with
        | none => s
        | some u => if u.sta = sta ∧ u.limit = limit then askFor (askCount s x o.start) x o.start o.count sta limit else s

/-- The requests of this cycle by the radios that are served before radio `x` (R176): Radio H first. -/
def askAbove (s : State) (x : Nat) : State :=
  s.each ((List.range x).flatMap (fun y => (sameCycle s).filterMap (fun c => match c with
    | .tmRequest _ z sta limit => if rIdx z = y then some (y, sta.val, limit) else none
    | _ => none))) (fun r t => askNext t r.1 r.2.1 r.2.2)

/-- TM_REQUEST (R173, R186) for the station and with the LIMIT of the player's next request. -/
def execTmRequest (time : Nat) (x : Radio) (sta : Fin 4096) (limit : Nat) (s : State) : Host.Outcome State Fault Refusal :=
  done s (askNext (askAbove (s.at time) (rIdx x)) (rIdx x) sta limit)

/-- Responses are due and their instant has not passed (R238). -/
def dueNow (s : State) (x : Nat) : Bool := !(s.radio x).due.isEmpty && decide (s.dt ≤ (s.radio x).dueAt + sifsNs s x)

/-- The device may begin an exchange on radio `x`: its transmit path is idle, and no response is awaited or due. -/
def mayExchange (s : State) (x : Nat) : Bool :=
  decide (txState s x = 0) && (s.radio x).await.isEmpty && !dueNow s x

/-- The device's own last exchange of the entry ended less than SIFS ago: the next one begins SIFS after it (R182, R199). -/
def chainedAt (s : State) (x : Nat) : Option Nat :=
  match (s.radio x).exEnd with
  | none => none
  | some e => if s.dt ≤ e + sifsNs s x then some (e + sifsNs s x) else none

/-- A run of the transmit path that begins now, or SIFS after the device's own exchange where `chain` allows it. -/
def runOf (s : State) (x : Nat) (kind : RunKind) (users : List TxUser) (air : Airtime) (limit : Nat) (chain : Bool) : TxRun :=
  match if chain then chainedAt s x else none with
  | some t => { kind := kind, air := air, users := users, start := t, limit := limit, chained := true }
  | none => { kind := kind, air := air, users := users, start := s.dt, limit := limit }

/-- The medium is not yet known to become idle for a run: it waits (R181). -/
def mustWait (s : State) (x : Nat) (r : TxRun) : Bool := decide (synState s x = 3) && decide (txJudge s x r = .wait)

/-- A run asked for, its medium permitting, after what is done to the player. -/
def askRun (s : State) (x : Nat) (r : TxRun) (take : State → State) : State :=
  let s := dropRest s x
  if mustWait s x r then s else txAsk (take s) x r

/-- The access category of a frame (R203): IEEE 802.11 maps its user priority; management frames take AC_VO. The numbers are those of
R202: 0 AC_BE, 1 AC_BK, 2 AC_VI, 3 AC_VO. -/
def frameAc (m : Meta) (d : List Byte) : Nat := if mgmtFrame d then 3 else [0, 1, 1, 0, 2, 2, 3, 3].getD (m.tid % 8) 0

/-- The peer that EDCA function `ac` of radio `x` would send to next: of an MPDU that awaits retransmission, of a frame held, or of a
BlockAckReq to be sent. -/
def acPeer (s : State) (x ac : Nat) : Option Nat :=
  let again := (s.sta.retry.filter (fun m => decide (frameAc m.info m.data = ac) &&
    (staLink s m.sta x || decide (staKind s m.sta = 0)))).map (·.sta)
  let new := ((s.radio x).stock.filter (fun f => decide (frameAc f.1 f.2 = ac) && mayBuild s x f)).map (fun f => framePeer f.1 f.2)
  let bars := (s.sta.bars.filter (fun b => staLink s b.1 x && decide ([0, 1, 1, 0, 2, 2, 3, 3].getD b.2 0 = ac))).map (·.1)
  (again ++ new ++ bars).head?

/-- What an EDCA function sends to a peer: every MPDU that the radio has for it. -/
def acUser (s : State) (x a : Nat) : TxUser :=
  let n := (retryFor s x a).length + (stockFor s x a).length
  { user := { sta := a }, want := max 1 n, held := max 1 n }

/-- An EDCA function has counted its backoff down (R203). -/
def edcaOpen (s : State) (x ac ed : Nat) : Bool :=
  match (s.airOf x).edcaSet, mediumIdleFrom s x ed with
  | some k, some a =>
    decide (max (a + aifsNs s x k ac) (s.airOf x).cntFrom + bankGet (fun _ => (0 : Nat)) (s.airOf x).backoff ac * slotNs x ≤ s.dt)
  | _, _ => false

/-- An access of EDCA function `ac` in a CONTEND entry (R203): its backoff has counted down and it has a frame. A function of higher
priority that is ready as well wins, and the lower one backs off as after a collision. The access lasts for the TXOP of its
set. -/
def edcaRun (s : State) (x ac : Nat) (air : Airtime) : State :=
  let s := stockAll s x
  match (s.airOf x).play, (s.airOf x).edcaSet, acPeer s x ac with
  | some p, some k, some a =>
    if p.ty ≠ 4 ∨ p.forfeit = true ∨ p.stop ≤ s.dt ∨ mayExchange s x = false ∨ edcaOpen s x ac air.edFrom = false then s
    else if [0, 1, 2, 3].any (fun b => decide ([1, 0, 2, 3].getD ac 0 < [1, 0, 2, 3].getD b 0) && edcaOpen s x b air.edFrom &&
        (acPeer s x b).isSome) then edcaDouble s x ac
    else
      let n := edcaFld s k ac 16 12
      let z := if n = 0 then p.stop else min p.stop (s.dt + 32000 * n)
      askRun s x { runOf s x .edca [acUser s x a] air z false with ac := ac } (fun t =>
        t.setAirOf x { t.airOf x with edcaAc := some ac, txop := if n = 0 then none else some (ac, z) })
  | _, _, _ => s

/-- The next exchange of a TXOP (R203): it follows SIFS after the one before, as long as it fits. -/
def edcaMore (s : State) (x : Nat) (air : Airtime) : State :=
  let s := stockAll s x
  match (s.airOf x).txop with
  | none => s
  | some (ac, z) =>
    let stop := fun (t : State) => t.setAirOf x { t.airOf x with txop := none }
    match acPeer s x ac, chainedAt s x with
    | some a, some _ =>
      let r := { runOf s x .edca [acUser s x a] air z true with ac := ac }
      if (planAt s x r r.start).isNone then stop s
      else askRun s x r (fun t => t.setAirOf x { t.airOf x with edcaAc := some ac })
    | _, _ => stop s

/-- The users of the entry in play with what each may carry. -/
def playUsers (s : State) (x : Nat) (p : AirPlay) : List TxUser := p.users.map (fun u => txUserOf s x u.2 (answerOf s x p.start u.1))

/-- The next exchange of the entry in play (R190, R195, R196, R199, R203): a BCN or TRIG entry has one; an SP entry passes once through its
stations in list order, leaving out those for which there is nothing. -/
def playExchange (s : State) (x : Nat) (air : Airtime) : State :=
  let s := fillEntry (stockAll s x) x
  match (s.airOf x).play with
  | none => s
  | some p =>
    if p.forfeit = true ∨ p.stop ≤ s.dt ∨ mayExchange s x = false then s
    else
      let once := fun (t : State) => t.setAirOf x { t.airOf x with play := some { p with begun := true } }
      match p.ty with
      | 0 => if p.begun then s else askRun s x (runOf s x .beacon [{ user := { sta := 0 }, want := 1, held := 1 }] air p.stop false) id
      | 1 =>
        if p.begun ∨ p.filled = false then s
        else
          let l := playUsers s x p
          if p.flags % 2 = 1 then
            if l.isEmpty then once s else askRun s x (runOf s x .trigger l air p.stop false) id
          else
            let l := l.filter (fun u => decide (u.want ≠ 0))
            if l.isEmpty then once s else askRun s x (runOf s x .mu l air p.stop false) id
      | 2 =>
        if p.filled = false then s
        else
          let rest := p.users.dropWhile (fun u => decide ((txUserOf s x u.2 (answerOf s x p.start u.1)).want = 0))
          let pass := fun (l : List (Nat × AirUser)) (t : State) => t.setAirOf x { t.airOf x with play := some { p with users := l } }
          match rest with
          | [] => pass [] s
          | u :: more =>
            askRun (pass rest s) x (runOf s x .sp [txUserOf s x u.2 (answerOf s x p.start u.1)] air p.stop true) (pass more)
      | 4 => edcaMore s x air
      | _ => s

/-- EXCHANGE_START (R182): checks 5 to 8 before an exchange that the device begins. -/
def execExchangeStart (time : Nat) (x : Radio) (air : Airtime) (s : State) : Host.Outcome State Fault Refusal :=
  let t := s.at time
  done s (playExchange (namesFirst t (rIdx x)) (rIdx x) air)

/-- Slot `k` of a restricted access window (R201): its station's frames are sent once, and the slot's end is their limit. -/
def rawSlot (s : State) (k : Nat) (air : Airtime) : State :=
  let s := stockAll s 2
  match (s.airOf 2).play with
  | none => s
  | some p =>
    let g := curImg s
    let l := listEntries g p.arg
    let us := (p.stop - p.start) / (1000 * max 1 l.length)
    let a := p.start + 1000 * us * k
    match l[k]? with
    | none => s
    | some o =>
      if p.ty ≠ 2 ∨ p.forfeit = true ∨ nbits p.flags 1 1 = 0 ∨ s.dt < a ∨ a + 1000 * us ≤ s.dt ∨ p.slots.contains k = true ∨
          asked s 2 a = 0 ∨ mayExchange s 2 = false then s
      else
        let u := txUserOf s 2 (userOf g o) (answerOf s 2 a 0)
        let take := fun (t : State) => t.setAirOf 2 { t.airOf 2 with play := some { p with slots := k :: p.slots } }
        if u.want = 0 then take s else askRun s 2 (runOf s 2 .raw [u] air (a + 1000 * us) false) take

/-- RAW_SLOT_START (R201): in slot `slot` of a restricted access window the device sends its station's frames, if any. -/
def execRawSlotStart (time : Nat) (slot : Nat) (air : Airtime) (s : State) : Host.Outcome State Fault Refusal :=
  done s (rawSlot (s.at time) slot air)

/-- EDCA_ACCESS (R203): an access of an EDCA function in a CONTEND entry. -/
def execEdcaAccess (time : Nat) (x : Radio) (ac : Fin 4) (air : Airtime) (s : State) :
    Host.Outcome State Fault Refusal :=
  done s (edcaRun (s.at time) (rIdx x) ac air)

/-- LISTEN_WINDOW_OPEN (R181, R210): checks 1 to 4 as the window opens; an overlapped entry's window fails one of the first
two. -/
def execListenWindowOpen (time : Nat) (x : Radio) (s : State) : Host.Outcome State Fault Refusal :=
  let i := rIdx x
  let t := overDue (s.at time) i (s.at time).dt
  done s (match (t.airOf i).listen, (t.airOf i).play with
    | some l, some p =>
      if l.opened || decide (t.dt < l.opn) then t
      else
        let stop := fun c => reviewRadios (listenForfeit (forfeitPlay t i c) i l)
        if radioOff t i then stop 0
        else if !l.named then stop 2
        else if synthNotReady t i p.chan then stop 3
        else reviewRadios (t.setAirOf i { t.airOf i with listen := some { l with opened := true, since := t.dt } })
    | _, _ => t)

/-- LISTEN_MISS (R214): the window closed without a hit. -/
def execListenMiss (time : Nat) (x : Radio) (s : State) : Host.Outcome State Fault Refusal :=
  let t := s.at time
  let i := rIdx x
  done s (match (t.airOf i).listen with
    | none => t
    | some l => if l.opened && decide (l.cls ≤ t.dt) && !windowReception t i l then reviewRadios (listenMissed t i l) else t)

/-- The signed number of a field of staged words. -/
def stagedSigned (ws : List Word) (k len : Nat) : Int := signed len (ws.getD k 0).toNat

/-- A record command carried out (R217): 1 WRITE, 2 RESET, 3 READ. -/
def asrDo (s : State) (x : Nat) (c : AsrCmd) : State :=
  let a := c.sta
  let w := fun k => c.words.getD k 0
  let result := fun (s : State) r => s.setFlds (Reg.airAsrCmdStat x) [(0, 1, 0), (1, 1, 0), (4, 3, r)]
  let store := fun (s : State) (l : List Word) => s.each (List.range 8) (fun k t => t.setReg (Reg.airAsrD x a + 4 * k) (l.getD k 0))
  if c.op = 1 then
    if bitsOf (w 3) 0 2 = 3 then result s 1
    else if (s.fld (Reg.airDMax x) 0 20 < (stagedSigned c.words 0 24).natAbs) ∨
        (s.fld (Reg.airGMax x) 0 16 < (stagedSigned c.words 1 16).natAbs) then result s 2
    else result (store s [w 0 &&& 0xFFFFFF, w 1 &&& 0xFFFF, w 2 &&& 0xFFFF, w 3 &&& 0xF37, w 4, w 5 &&& 0xFFFF, w 6, w 7]) 0
  else if c.op = 2 then
    result (store s [BitVec.ofNat 32 (s.fld (Reg.airPriorD x) 0 24), 0, BitVec.ofNat 32 (s.fld (Reg.airPriorV x) 0 16),
      0x800, 0, 0, 0, 0xFFFF0000]) 0
  else result (s.each (List.range 8) (fun k t => t.setReg (Reg.airAsrStage x k) (s.reg (Reg.airAsrD x a + 4 * k)))) 0

/-- A station's window is open, or the answer to its hit is not settled; a command that meets the opening in its cycle comes first
(R217). -/
def asrHeld (s : State) (x a : Nat) : Bool :=
  (match (s.airOf x).listen with
    | none => false
    | some l => l.opened && decide (l.sta = a) && decide (l.since < s.dt)) ||
  (match (s.airOf x).wake with
    | none => false
    | some w => decide (w.sta = a))

/-- The effect of a write to ASR_CMD (R217): carried out at once, or deferred while the station's window is open. -/
def asrCmd (s : State) (x : Nat) (d : Word) : State :=
  let c : AsrCmd := ⟨bitsOf d 16 2, bitsOf d 0 12, (List.range 8).map (fun k => s.reg (Reg.airAsrStage x k))⟩
  if s.bit (Reg.airAsrCmdStat x) 0 ∨ c.op = 0 then s
  else if asrHeld s x c.sta then
    (s.setAirOf x { s.airOf x with cmd := some c }).setFlds (Reg.airAsrCmdStat x) [(0, 1, 1), (1, 1, 1)]
  else asrDo s x c

/-- The word of ASR_CMD for a command. -/
def asrWord (op a : Nat) : Word := BitVec.ofNat 32 (a + 65536 * op)

/-- ASR_WRITE (R217). -/
def execAsrWrite (time : Nat) (init : Init) (x : Radio) (a : Fin 4096) (s : State) : Host.Outcome State Fault Refusal :=
  let t := s.at time
  done s (busDo t init (Reg.airAsrCmd (rIdx x)) 4 (some (asrWord 1 a)) (fun t => asrCmd t (rIdx x) (asrWord 1 a)))

/-- ASR_RESET (R217). -/
def execAsrReset (time : Nat) (init : Init) (x : Radio) (a : Fin 4096) (s : State) : Host.Outcome State Fault Refusal :=
  let t := s.at time
  done s (busDo t init (Reg.airAsrCmd (rIdx x)) 4 (some (asrWord 2 a)) (fun t => asrCmd t (rIdx x) (asrWord 2 a)))

/-- ASR_READ (R217). -/
def execAsrRead (time : Nat) (init : Init) (x : Radio) (a : Fin 4096) (s : State) : Host.Outcome State Fault Refusal :=
  let t := s.at time
  done s (busDo t init (Reg.airAsrCmd (rIdx x)) 4 (some (asrWord 3 a)) (fun t => asrCmd t (rIdx x) (asrWord 3 a)))

/-- ASR_CMD_DEFERRED_APPLY (R217). -/
def execAsrCmdDeferredApply (time : Nat) (x : Radio) (s : State) : Host.Outcome State Fault Refusal :=
  let t := s.at time
  let i := rIdx x
  done s (match (t.airOf i).cmd with
    | none => t
    | some c => if asrHeld t i c.sta then t else asrDo (t.setAirOf i { t.airOf i with cmd := none }) i c)

/-- Twice the nominal wake of R74 in the next round in which a LISTEN entry fires, after a wake at `w` (R212). -/
def nominalNext2 (g : ListenGen) (w : Nat) : Nat :=
  let ev := max 1 g.every
  let idx := if w < g.bdy then g.idx - 1 else g.idx
  let next := idx + ev - (idx + ev - g.phase % ev) % ev
  2 * (g.bdy + (next - g.idx) * g.round + g.start) + g.len

/-- R212: a record updated on a hit at `w`. -/
def hitUpdate (s : State) (x a w : Nat) : State :=
  let span := asrSpan s x a
  let spanNs : Int := (span * 1000 : Nat)
  let d := asrD s x a
  let g := asrG s x a
  let v := asrV s x a
  let seed := s.fld (Reg.airVSeed x) 0 16
  let sh := fun lo => s.fld (Reg.airDriftGain x) lo 4
  let since := dt48diff (w % 2 ^ 48) (s.pair (Reg.airAsrAnchLo x a))
  let (d, g, v) : Int × Int × Int :=
    if s.bit (Reg.airAsrStat x a) 2 = false then (signed 24 (s.fld (Reg.airPriorD x) 0 24), 0, seed)
    else if asrUnsure s x a ≠ 0 ∨ span = 0 then (d, g, v)
    else
      let rate := roundDiv ((since - spanNs) * 1024000000) spanNs
      if asrState s x a = 1 then
        let e := roundDiv ((rate - d) * 7200000000000 - g * spanNs) 7200000000000
        let k : Int := (2 ^ sh 8 : Nat)
        let d2 := roundDiv (d * 3600000000000 * k + g * spanNs * k + e * 3600000000000) (3600000000000 * k)
        let b : Int := (2 ^ sh 12 : Nat)
        let g2 := roundDiv (g * b * spanNs + e * 3600000000000) (b * spanNs)
        let c : Int := (2 ^ sh 16 : Nat)
        (d2, g2, roundDiv (v * c + (e.natAbs - v)) c)
      else (rate, 0, seed)
  let dm : Int := (s.fld (Reg.airDMax x) 0 20 : Nat)
  let gm : Int := (s.fld (Reg.airGMax x) 0 16 : Nat)
  let d := clampInt (-dm) dm d
  let g := clampInt (-gm) gm g
  let (gv, s) := fitOr s 16 (decide (g.natAbs < 32768)) (unsigned 16 g)
  let (vv, s) := fitOr s 16 (decide (v < 65536)) v.toNat
  let s := ((s.setNat (Reg.airAsrD x a) (unsigned 24 d)).setNat (Reg.airAsrG x a) gv).setNat (Reg.airAsrV x a) vv
  let s := (s.setPair (Reg.airAsrAnchLo x a) (w % 2 ^ 48)).setNat (Reg.airAsrSpan x a) 0
  (s.setFld (Reg.airAsrAux x a) 0 16 0).setFlds (Reg.airAsrStat x a) [(0, 2, 1), (2, 1, 1), (4, 2, 0)]

/-- The correction C in µs that a wake-timing frame carries (R208, R212, R216). -/
def wakeC (s : State) (x a w sUs : Nat) (o : Option ListenGen) : Int :=
  match o with
  | none => 0
  | some g =>
    if driftOn s x = false then 0
    else
      let m := roundDiv (asrD s x a * 7200000000000 + asrG s x a * ((sUs * 1000 : Nat) : Int)) 7200000000000
      let n : Int := (nominalNext2 g w : Nat)
      clampInt (-8388608) 8388607
        (roundDiv ((n - 2 * (w : Int)) * 1024000000) ((1024000000 + m) * 2000) - (sUs : Nat))

/-- LISTEN_HIT (R211, R212): a PPDU from the station, timestamped in the window. -/
def listenHit (s : State) (x : Nat) (l : Listen) (w : Nat) : State :=
  let a := l.sta
  let re := decide (asrState s x a ≠ 1)
  let s := s.inc (Reg.airHitCnt x)
  let s := if driftOn s x then hitUpdate s x a w else s
  let sUs := stationS s x l
  let wk : Wake := { sta := a, entry := l.entry, sUs := sUs, c := wakeC s x a w sUs (listenAt s x l), reacq := re,
                     limit := l.limit, hitAt := s.dt }
  reviewRadios (s.setAirOf x { s.airOf x with listen := none, wake := some wk })

/-- The entry in play keeps radio `x` silent, responses included (R204, R206, R190, R201): a QUIET or CAL entry, the rest of a BCN
entry, the time after the last slot of a restricted access window, and any time without an entry. -/
def respSilent (s : State) (x : Nat) : Bool :=
  match (s.airOf x).play with
  | none => true
  | some p =>
    !p.forfeit && (decide (p.ty = 5) || decide (p.ty = 6) || decide (p.ty = 0) ||
      (decide (p.ty = 2) && decide (nbits p.flags 1 1 = 1) &&
        (let n := max 1 (listEntries (curImg s) p.arg).length
         decide (p.start + 1000 * ((p.stop - p.start) / (1000 * n)) * n ≤ s.dt))))

/-- The responses due that the entry in play lets the device send: in an SP entry without RAW only those to its stations and the spares
used (R199, R200). -/
def respDue (s : State) (x : Nat) : List Due :=
  match (s.airOf x).play with
  | none => []
  | some p =>
    if p.ty ≠ 2 ∨ nbits p.flags 1 1 = 1 then (s.radio x).due
    else (s.radio x).due.filter (fun d => match d.sta with
      | none => false
      | some a => p.members.contains a)

/-- The run of the response that is due (R196, R208, R238): the answer to a hit with its wake-timing frame and what is reserved for the
station, the multi-STA BlockAck of a Trigger frame, or any other. -/
def respRun (s : State) (x : Nat) (l : List Due) (stop : Nat) (air : Airtime) : TxRun :=
  let start := (s.radio x).dueAt + sifsNs s x
  let hit := (s.airOf x).wake.filter (fun w => !w.sent && l.any (fun d => decide (d.sta = some w.sta)))
  match hit, (s.radio x).run with
  | some w, _ =>
    let ans := answerOf s x w.hitAt 0
    let u := txUserOf s x { sta := w.sta, limit := ((ans.bind (·.bytes)).getD 0) } ans
    { kind := .wake, air := air, start := start, limit := w.limit, sig := (s.radio x).dueSig,
      users := [{ u with want := u.want + 1, held := u.held + 1 }], due := l.filter (fun d => decide (d.sta = some w.sta)) }
  | none, some r =>
    if r.kind = .trigger ∧ r.rest.length = 1 then
      { r with kind := .multi, start := start, limit := stop, due := l, sig := (s.radio x).dueSig }
    else { kind := .resp, air := air, start := start, limit := stop, due := l, sig := (s.radio x).dueSig }
  | none, none => { kind := .resp, air := air, start := start, limit := stop, due := l, sig := (s.radio x).dueSig }

/-- The response that is due asked for (R238, R273): in a forfeited entry, and while the transmit path is busy, it is refused. -/
def respond (s : State) (x : Nat) (air : Airtime) : State :=
  let s := stockAll s x
  let l := respDue s x
  let late := !dueNow s x
  let silent := respSilent s x
  match (s.airOf x).play with
  | none => s.setRadio x { s.radio x with due := [] }
  | some p =>
    let r := respRun s x l p.stop air
    let s := s.setRadio x { s.radio x with due := [] }
    if late || silent || l.isEmpty then s
    else if p.forfeit ∨ txState s x ≠ 0 then
      let s := if mandPending s x (radioChan s x) then s.inc (Reg.rdMandRefuse x) else s
      respRefuse s x r (if p.forfeit then 0 else 5)
    else if r.kind = .multi then txAsk s x r
    else txAsk (dropRest s x) x r

/-- IMMEDIATE_RESPONSE (R238, R273). -/
def execImmediateResponse (time : Nat) (x : Radio) (air : Airtime) (s : State) : Host.Outcome State Fault Refusal :=
  done s (respond (s.at time) (rIdx x) air)

/-- TX_REQUEST (R270): a request of the player, of an EDCA function, or of the MAC for an immediate response. -/
def execTxRequest (time : Nat) (x : Radio) (src : TxSource) (air : Airtime) (s : State) : Host.Outcome State Fault Refusal :=
  let t := s.at time
  done s (match src with
    | .player => playExchange t (rIdx x) air
    | .edca ac => edcaRun t (rIdx x) ac air
    | .mac => respond t (rIdx x) air)

/-- A PPDU to a peer drew no response (R251): FAIL rises, and at LINK_FAIL.N the link goes down. -/
def linkFail (s : State) (a x : Nat) : State :=
  if staValid s a = false ∨ 2 ≤ staKind s a then s
  else
    let n := min 255 (staFld s a 11 (8 * x) 8 + 1)
    let s := putStaFld s a 11 (8 * x) 8 n
    if max 1 (s.fld Reg.staLinkFail 0 8) ≤ n ∧ staUp s a x = true then staEvent (linkLost s a x) 0 x a else s

/-- Nothing is awaited on radio `x` any more: what the exchange would still have sent releases its airtime, unless a response is due
(R221). -/
def awaitDone (s : State) (x : Nat) : State :=
  if (s.radio x).await.isEmpty && (s.radio x).due.isEmpty then dropRest s x else s

/-- The PPDU to a peer is not answered (R241): its MPDUs are unacknowledged, FAIL rises where no PPDU started, a wake-timing frame stays
unconfirmed (R213), and an EDCA function backs off (R203). -/
def unanswered (s : State) (x a : Nat) (fail : Bool) : State :=
  let mine := fun (m : TxMpdu) => decide (m.sta = a)
  let l := sentOf s x
  let u := if fail then linkFail s a x else s
  let u := unacked (setSent u x (l.filter (fun m => !mine m))) (l.filter mine)
  let u := match (u.airOf x).wake with
    | none => u
    | some w => if w.sta = a then wakeUnsure u x else u
  let u := u.setRadio x { u.radio x with await := (u.radio x).await.erase a, exEnd := none }
  let u := match (u.airOf x).edcaAc with
    | none => u
    | some ac => edcaDouble (u.setAirOf x { u.airOf x with edcaAc := none, txop := none }) x ac
  awaitDone u x

/-- A PPDU has started since the device's last one on radio `x`. -/
def ppduSince (s : State) (x : Nat) : Bool := decide ((s.radio x).txDone < (s.radio x).rxDone)

/-- RESPONSE_TIMEOUT (R241): SIFS, a slot and the receive start delay have passed, and no PPDU is being received. One that began in time
and brought no answer leaves FAIL as it is. -/
def execResponseTimeout (time : Nat) (x : Radio) (a : Fin 4096) (s : State) : Host.Outcome State Fault Refusal :=
  let t := s.at time
  let i := rIdx x
  done s (if (t.radio i).await.contains a.val && decide ((t.radio i).awaitTo ≤ t.dt) && !receiving t i then
      unanswered t i a (!ppduSince t i)
    else t)

end Sys2Proof.Machine
end

