-- ==== Sys2Proof/Machine/Gauge.lean ====
section
/-! DEFINITION. The gauge house (R17, R429 to R451): its states, the record engine, the log and its export, and the
load-cell channels. -/

namespace Sys2Proof.Machine

/-- The gauge house's state by the code of GH_STAT.STATE: 0 OFF, 1 START, 2 RUN, 3 HOLD, 4 FAULT. -/
def ghSt (s : State) : Nat := s.fld Reg.ghGhStat 0 3

/-- The gauge house's own state replaced. -/
def setGh (s : State) (g : GhState) : State := { s with gh := g }

/-- ISL_STAT[21] and ISL_CLK[21] follow the gauge house (R17). -/
def reviewGhIsl (s : State) : State :=
  let w : Nat := if s.gh.vdd = false then 0x310
    else match ghSt s with
      | 0 => 0x19
      | 2 => 0x07
      | _ => 0x13
  (s.setNat (Reg.topIslStat 21) w).setNat (Reg.topIslClk 21) (if ghSt s = 0 then 0 else 16)

/-- The gauge house moved to a state, with its cause (GH_STAT). -/
def ghMove (s : State) (st cause : Nat) : State :=
  reviewGhIsl (s.setFlds Reg.ghGhStat [(0, 3, st), (3, 1, bnat s.gh.sealed), (8, 4, cause)])

/-- The pounds of the gauge house closed to their other ends while it is in FAULT or HOLD (R17): frames stay in PD32. -/
def ghShut (s : State) : State := (s.setBit (Reg.topPndStat 31) 17 true).setBit (Reg.topPndStat 32) 17 true

/-- FAULT entered with a cause (R433, R486). -/
def ghFail (s : State) (cause : Nat) : State := raiseFault (ghShut (ghMove s 4 cause)) 9 0 .none 0

/-- The time view is valid: the timebase island runs (R431). -/
def dtValid (s : State) : Bool := islUp s 1

/-- LOCAL after a time in ns since GH start, as accurate as the 16.384 MHz crystal's ±50 ppm (R431, R521). -/
def ghLocal (n : Nat) : Nat :=
  let e := n * 50 / 1000000
  n - e + Config.ghCrystal n % (2 * e + 1)

/-- The gauge house's time: DT to within one period of its clock, 61 ns, or LOCAL while the time view is invalid (R431), and
whether it is LOCAL. -/
def ghTime (s : State) : Nat × Bool :=
  if dtValid s then (s.dt + 61 - Config.ghSync s.dt % 123, false) else (ghLocal (s.dt - s.gh.startAt), true)

/-! ### The parameter block -/

/-- A byte of the parameter block. -/
def paramByte (s : State) (o : Nat) : Byte := bankGet memDefault s.gh.params o

/-- Bytes of the parameter block as the record engine takes them: zeros where FORMAT is not 1 (R443). -/
def paramBytes (s : State) (o n : Nat) : List Byte :=
  if leAt (memRead s.gh.params 0 2) 0 2 = 1 then memRead s.gh.params o n else List.replicate n 0

/-- A write of the parameter block that keeps its must-be-0 bytes (R443). -/
def paramOk (off : Nat) (d : List Byte) : Bool :=
  decide (off + d.length ≤ 1024) &&
    (List.range d.length).all (fun i =>
      let o := off + i
      let v := byteAt d i
      if o = 0x10 then decide (v < 2)
      else if o = 0x11 ∨ (0x14 ≤ o ∧ o < 0x20) then decide (v = 0) else true)

/-! ### The log -/

/-- The free entries of the log (R446): the two sectors of 16 entries ahead of the head are kept erased, and no entry is
overwritten before it was exported. -/
def logFree (s : State) : Nat :=
  16 * ((s.regN Reg.ghOutNext + s.regN Reg.ghLogCap) / 16 - 2) - s.regN Reg.ghLogHead

/-- LOG_OLDEST and LOG_LOW follow the log; entries that the ring erased are gone (R446). -/
def reviewLog (s : State) : State :=
  let h := s.regN Reg.ghLogHead
  let old := max (s.regN Reg.ghLogOldest)
    (min ((h / 16 + 3) * 16 - s.regN Reg.ghLogCap) (s.regN Reg.ghOutNext / 16 * 16))
  let s := setGh (s.setNat Reg.ghLogOldest old) { s.gh with log := s.gh.log.filter (fun e => decide (old ≤ e.1)) }
  s.setBit Reg.ghGhStat 16 (decide (logFree s < s.regN Reg.ghLogCap / 16))

/-- FLAGS of an entry (R445). -/
def entryFlags (s : State) (i : GhItem) (isLocal : Bool) : Nat :=
  bnat (decide (i.gap ≠ 0)) + 2 * bnat isLocal + 4 * bnat s.gh.torn + 8 * bnat (!s.gh.sealed) +
    16 * bnat (i.adj.getD (s.bit Reg.ghGhStat 4))

/-- Bytes padded with zeros to a length. -/
def padTo (n : Nat) (b : List Byte) : List Byte := b.take n ++ List.replicate (n - b.length) 0

/-- A log entry's 256 bytes (R445). -/
def entryBytes (s : State) (i : GhItem) : List Byte :=
  let h := s.regN Reg.ghLogHead
  let (time, isLocal) := i.time.getD (ghTime s)
  let prev := if h = 0 then List.replicate 32 0 else Config.sha256 (bankGet (fun _ => []) s.gh.log (h - 1))
  let b := leBytes 4 h ++ [BitVec.ofNat 8 i.ty, BitVec.ofNat 8 (entryFlags s i isLocal)] ++ leBytes 2 i.body.length ++
    leBytes 8 (time % 2 ^ 64) ++ leBytes 4 (s.fld Reg.ghAuditCnt 0 14) ++ leBytes 4 i.gap ++ List.replicate 8 0 ++ padTo 128 i.body ++
    padTo 32 prev
  b ++ padTo 64 (Config.ecdsaSign s.gh.signKey (Config.sha256 b))

/-- What takes effect with an entry's commit (R442, R443, R447). -/
def ghEffect (s : State) (a : GhAct) : State :=
  let g := s.gh
  match a with
  | .none => s
  | .install m k => setGh s { g with meters := bankSet (fun _ => none) g.meters m (some { key := k }) }
  | .remove m => setGh s { g with meters := bankSet (fun _ => none) g.meters m none }
  | .param o d => setGh s { g with params := memWrite g.params o d }
  | .chunk o d => setGh s { g with stage := memWrite g.stage o d }
  | .activate i sg => setGh s { g with active := some (i, sg) }
  | .app =>
    (s.incWrap Reg.ghWeighCnt).setFlds Reg.ghcAppStat [(0, 1, 0), (4, 3, 0), (8, 24, s.regN Reg.ghLogHead)]

/-- An entry committed (R445, R447): signed, programmed at INDEX LOG_HEAD, identity 737 pulsed, and its effect taken. -/
def commitItem (s : State) (i : GhItem) : State :=
  let h := s.regN Reg.ghLogHead
  let e := entryBytes s i
  let s := setGh s { s.gh with log := bankSet (fun _ => []) s.gh.log h e, torn := false,
                               commitAt := bankSet (fun _ => 0) s.gh.commitAt h s.dt, commitDt := some s.dt }
  let s := ghEffect s i.act
  (reviewLog (s.setNat Reg.ghLogHead (h + 1))).pulse 737

/-- The entry that the engine commits next (R447): the oldest entry queued, or a WEIGH request at the head of the work; it
takes it off its queue. -/
def nextItem (s : State) : Option (GhItem × State) :=
  match s.gh.items, s.gh.work with
  | i :: r, _ => some (i, setGh s { s.gh with items := r })
  | [], .weigh b _ :: r =>
    if s.gh.ctl.isNone then some ({ ty := 2, body := b, act := .app }, setGh s { s.gh with work := r }) else none
  | [], _ => none

/-- The next entry committed; a WEIGH request that finds no free entry ends with LOG_FULL. -/
def commitNext (s : State) : State :=
  match nextItem s with
  | none => s
  | some (i, t) =>
    if logFree t = 0 then
      if i.act = .app then t.setFlds Reg.ghcAppStat [(0, 1, 0), (4, 3, 1)] else s
    else commitItem t i

/-- The engine may commit: at most one entry per 10 ms (R447). -/
def ghPaced (s : State) : Bool :=
  match s.gh.commitDt with
  | none => true
  | some d => decide (d + 10000000 ≤ s.dt)

/-- LOG_COMMIT (R447). -/
def execLogCommit (time : Nat) (s : State) : Host.Outcome State Fault Refusal :=
  let t := s.at time
  done s (if ghSt t = 2 ∧ ghPaced t = true then commitNext t else t)

/-! ### States -/

/-- A GH start: the engine's and the core's registers and what was in hand are lost, and the boot ROM runs (R433). Frames in
PD32 are lost with the reset (R39). -/
def ghBoot (s : State) (cause : Nat) : State :=
  let s := closePounds s 21
  let keep := fun (a : Nat) => a < 0x43000000 ∨ (a = Reg.ghLogHead ∨ a = Reg.ghLogOldest ∨ a = Reg.ghOutNext ∨ a = Reg.ghLogCap ∨
    a = Reg.ghAuditCnt ∨ (Reg.ghSignPub 0 ≤ a ∧ a < Reg.ghSignPub 16)) ∨ (0x43001000 ≤ a ∧ a < 0x10040000000)
  let s := { s with regs := bankKeep (fun a => decide (keep a)) s.regs }
  let g := s.gh
  let s := setGh s { vdd := true, startAt := s.dt, sealed := g.sealed, maker := g.maker,
                     transport := g.transport, signKey := g.signKey, log := g.log, commitAt := g.commitAt,
                     params := g.params, meters := g.meters, stage := g.stage, active := g.active, torn := g.torn,
                     wdogAt := s.dt }
  ghMove s 1 cause

/-- GH_POWER_GOOD (R433). -/
def execGhPowerGood (time : Nat) (s : State) : Host.Outcome State Fault Refusal :=
  let t := s.at time
  done s (if ghSt t = 0 then ghBoot t 0 else t)

/-- The last SEQ of a meter in the log: the newest METER entry that names it (R434). -/
def lastSeq (s : State) (m : Nat) : Nat :=
  match s.gh.log.reverse.find? (fun e => byteAt e.2 4 == 1 && leAt e.2 0x24 4 == m) with
  | none => 0
  | some e => leAt e.2 0x28 4

/-- Each meter's last SEQ rebuilt from the log (R434). -/
def rebuildSeqs (s : State) : State :=
  setGh s { s.gh with meters := s.gh.meters.map (fun e => (e.1, e.2.map (fun m => { m with last := lastSeq s e.1 }))) }

/-- The signing key generated at the first start (R435): key and public key are free values. -/
def firstKey (s : State) : State :=
  if s.gh.signKey.isEmpty then
    let (k, s) := s.drawBytes 32
    let (p, s) := s.drawBytes 64
    let s := setGh s { s.gh with signKey := k }
    s.each (List.range 16) (fun i t => t.setNat (Reg.ghSignPub i) (leAt p (4 * i) 4))
  else s

/-- The maker's key and the transport key as the GH JTAG access port wrote them before the start: refused after the seal
(R435). -/
def ghKeys (s : State) (k : Option (List Byte × List Byte)) : State :=
  match k with
  | none => s
  | some (m, x) => if s.gh.sealed then s else setGh s { s.gh with maker := m, transport := x }

/-- The signing public key as the window shows it. -/
def signPub (s : State) : List Byte := (List.range 16).flatMap (fun k => leBytes 4 (s.regN (Reg.ghSignPub k)))

/-- The page that a power loss left in flash at LOG_HEAD: an entry whose signature holds is in the log (R434). -/
def pageKept (s : State) (p : List Byte) : Bool :=
  Config.ecdsaVerify (signPub s) (Config.sha256 (p.take 0xC0)) (p.drop 0xC0) && decide (leAt p 0 4 = s.regN Reg.ghLogHead)

/-- The newest entry checked, after the sequence numbers were rebuilt with it: kept, or erased as torn and the next entry
marked (R434). -/
def ghNewest (s : State) (p : Option (List Byte)) : State :=
  match p with
  | none => rebuildSeqs s
  | some p =>
    let h := s.regN Reg.ghLogHead
    let u := rebuildSeqs (setGh s { s.gh with log := bankSet (fun _ => []) s.gh.log h p })
    if pageKept s p then
      setGh (u.setNat Reg.ghLogHead (h + 1)) { u.gh with commitAt := bankSet (fun _ => 0) u.gh.commitAt h u.dt }
    else setGh u { u.gh with log := bankSet (fun _ => []) u.gh.log h [], torn := true }

/-- GH_START_DONE (R433, R434): the image verified, SW_ID computed, the sequence numbers rebuilt, a torn entry marked, and the
START entry committed; or FAULT with its cause. -/
def execGhStartDone (time : Nat) (img : GhImage) (s : State) : Host.Outcome State Fault Refusal :=
  let t := ghKeys (s.at time) (if ghSt s = 1 then img.keys else none)
  let (image, sg) := t.gh.active.getD (img.image, img.sig)
  let cap := if t.gh.sealed then t.regN Reg.ghLogCap else img.logCap
  done s (if ghSt t ≠ 1 then t
    else if Config.ecdsaVerify t.gh.maker (Config.sha256 image) sg = false then ghFail t 1
    else if img.otpCrcOk = false then ghFail t 2
    else if img.layoutOk = false ∨ cap < 4096 ∨ 262144 < cap then ghFail t 3
    else
      let id := Config.sha256 image
      let t := t.each (List.range 8) (fun k u => u.setNat (Reg.ghSwId k) (leAt id (4 * k) 4))
      let t := ghNewest (firstKey (t.setNat Reg.ghLogCap cap)) img.page
      let t := openPounds (ghMove t 2 (t.fld Reg.ghGhStat 8 4)) 21
      let body := padTo 32 id ++ leBytes 2 (t.fld Reg.ghGhId 0 16)
      if logFree t = 0 then t else commitItem t { ty := 4, body := body })

/-- The cause code of a fault in RUN. -/
def ghCauseCode : GhCause → Nat
  | .sramUe => 4
  | .flash => 5
  | .engine => 6

/-- GH_FAULT (R433). -/
def execGhFault (time : Nat) (cause : GhCause) (s : State) : Host.Outcome State Fault Refusal :=
  let t := s.at time
  done s (if ghSt t = 2 then ghFail t (ghCauseCode cause) else t)

/-- GH_SUPPLY_WARNING (R432, R433): the entry in progress is completed, and HOLD is entered. -/
def execGhSupplyWarning (time : Nat) (s : State) : Host.Outcome State Fault Refusal :=
  let t := s.at time
  done s (if ghSt t = 2 then
      let u := if t.gh.items.isEmpty then t else commitNext t
      raiseFault (ghShut (ghMove u 3 (u.fld Reg.ghGhStat 8 4))) 9 0 .none 0
    else t)

/-- GH_RESET (R430, R433): GH_RST_N, or the watchdog GH_WDOG ms after it was last written, from FAULT or HOLD. -/
def execGhReset (time : Nat) (watchdog : Bool) (s : State) : Host.Outcome State Fault Refusal :=
  let t := s.at time
  let ms := t.fld Reg.ghcGhWdog 0 16
  done s (if ghSt t ≠ 3 ∧ ghSt t ≠ 4 then t
    else if watchdog then (if ms ≠ 0 ∧ t.gh.wdogAt + 1000000 * ms ≤ t.dt then ghBoot t 7 else t)
    else ghBoot t 0)

/-- GH_POWER_LOSS (R433): OFF, from any state, with VDD_GH absent or present but below its reset threshold, where the supply
monitor holds the reset (R17). What OTP and flash hold stays. -/
def execGhPowerLoss (loss : GhLoss) (s : State) : Host.Outcome State Fault Refusal :=
  let t := s.at loss.time
  let u := ghBoot t 0
  done s (reviewGhIsl (setGh (u.setReg Reg.ghGhStat 0) { u.gh with vdd := !loss.absent }))

/-- ADJ_MODE_CHANGE (R436): GH_ADJ_N was stable for 10 ms, so two changes lie 10 ms apart. -/
def execAdjModeChange (time : Nat) (low : Bool) (s : State) : Host.Outcome State Fault Refusal :=
  let t := s.at time
  let early := match t.gh.adjAt with
    | none => false
    | some d => decide (t.dt < d + 10000000)
  done s (if ghSt t = 0 ∨ early = true then t else setGh (t.setBit Reg.ghGhStat 4 low) { t.gh with adjAt := some t.dt })

/-! ### The record engine -/

/-- The bytes of the frames in the inbox. -/
def inboxFill (s : State) : Nat :=
  (s.gh.work.map (fun w => match w with
    | .frame b _ _ => b.length
    | .weigh _ _ => 0)).sum

/-- A frame joins the work in order of arrival, before an APP request of the same cycle (R447). -/
def frameIn (now : Nat) (l : List GhWork) (w : GhWork) : List GhWork :=
  let tie := l.reverse.takeWhile (fun x => match x with
    | .weigh _ a => decide (a = now)
    | .frame _ _ _ => false)
  l.take (l.length - tie.length) ++ w :: tie.reverse

/-- The oldest packet of PD32 taken into the inbox, where it has room for it (R439). -/
def inboxTake (s : State) : State :=
  match splitPacket ((s.pound 32).taken ++ (s.pound 32).ready) with
  | none => (match readPacket s 32 with
    | none => s
    | some (_, t) => t)
  | some (ws, _) =>
    if (ws.getLast?.map (·.abort)).getD false then takePacketN s 32 ws.length
    else if 32768 < inboxFill s + (wordsData ws).length then s
    else match readPacket s 32 with
      | none => s
      | some (ws, t) =>
        let tm := ghTime t
        setGh t { t.gh with work := frameIn t.dt t.gh.work (.frame (wordsData ws) tm.1 tm.2) }

/-- GH_INBOX_TAKE (R439): nothing is read from PD32 outside RUN (R433). -/
def execGhInboxTake (time : Nat) (s : State) : Host.Outcome State Fault Refusal :=
  let t := s.at time
  done s (if ghSt t = 2 then inboxTake t else t)

/-- The UDP payload of a frame to REC_PORT, over IPv4 with IHL 5 or IPv6 without extension headers, after up to two VLAN
tags (R439, check 1). -/
def recordPayload (s : State) (b : List Byte) : Option (List Byte) :=
  let tag := fun o => decide (beAt b o 2 = 0x8100) || decide (beAt b o 2 = 0x88A8)
  let ty := if tag 12 then (if tag 16 then 20 else 16) else 12
  let ip := ty + 2
  let udp : Option Nat :=
    if beAt b ty 2 = 0x0800 ∧ byteAt b ip = 0x45 ∧ byteAt b (ip + 9) = 17 then some (ip + 20)
    else if beAt b ty 2 = 0x86DD ∧ byteAt b ip / 16 = 6 ∧ byteAt b (ip + 6) = 17 then some (ip + 40)
    else none
  let port := leAt (paramBytes s 2 2) 0 2
  match udp with
  | none => none
  | some u =>
    let len := beAt b (u + 4) 2
    if 1536 < b.length ∨ port = 0 ∨ beAt b (u + 2) 2 ≠ port ∨ len < 8 ∨ b.length < u + len then none
    else
      let d := sliceB b (u + 8) (len - 8)
      let m := beAt d 0 2
      if m = 0x4D52 ∨ m = 0x4743 then some d else none

/-- A payload is a control record: MAGIC 'GC'. -/
def isCtl (d : List Byte) : Bool := decide (beAt d 0 2 = 0x4743)

/-- The OP of a control record. -/
def ctlOp (d : List Byte) : Nat := byteAt d 3

/-- The body of a control record. -/
def ctlBody (d : List Byte) : List Byte := d.drop 8

/-- Check 2 of a control record (R439, R441, R443): VERSION 1, a known OP, LEN matching the body, and a body of its form. -/
def ctlFormed (d : List Byte) : Bool :=
  let b := ctlBody d
  decide (8 ≤ d.length) && decide (byteAt d 2 = 1) && decide (leAt d 4 2 = b.length) && decide (leAt d 6 2 = 0) &&
    (match ctlOp d with
      | 1 => decide (b.length = 6)
      | 2 => decide (b.length = 44)
      | 3 => decide (b.length = 4)
      | 4 => decide (4 ≤ b.length) && decide (leAt b 2 2 = b.length - 4) && decide (b.length - 4 ≤ 1024) &&
          paramOk (leAt b 0 2) (b.drop 4)
      | 5 => decide (4 ≤ b.length) && decide (b.length ≤ 1028)
      | 6 => decide (b.length = 68)
      | 7 => decide (b.length = 0)
      | _ => false)

/-- Check 2 of a meter record (R438, R439). -/
def meterFormed (d : List Byte) : Bool :=
  decide (d.length = 78) && decide (byteAt d 2 = 1) && decide (1 ≤ byteAt d 3) && decide (byteAt d 3 ≤ 3) &&
    decide (1 ≤ byteAt d 24) && decide (byteAt d 24 ≤ 3)

/-- Check 7: a control record is allowed in the present state (R441), with the adjustment mode sampled for its frame. -/
def ctlAllowed (s : State) (op : Nat) (adj : Bool) : Bool :=
  if op = 1 then true else if op = 7 then !s.gh.sealed && adj else !s.gh.sealed || adj

/-- Check 8: the key unwrap, the signature and the audit counter are in order (R437, R442). -/
def ctlInOrder (s : State) (d : List Byte) : Bool :=
  let b := ctlBody d
  let op := ctlOp d
  let counted := decide (2 ≤ op) && decide (op ≤ 6) && s.gh.sealed
  (!counted || decide (s.fld Reg.ghAuditCnt 0 14 < 16383)) &&
    (if op = 2 then
      (Config.keyUnwrap s.gh.transport (b.drop 4)).isSome &&
        ((bankGet (fun _ => none) s.gh.meters (leAt b 0 4)).isSome || decide (s.gh.meters.length < 256))
    else if op = 6 then
      Config.ecdsaVerify s.gh.maker (Config.sha256 (memRead s.gh.stage 0 (leAt b 0 4))) (sliceB b 4 64)
    else true)

/-- A frame rejected (R439): counted by cause, and identity 738 pulsed. -/
def ghReject (s : State) (c : Nat) : State := (s.incWrap (Reg.ghRejCnt c)).pulse 738

/-- The meter record checks 3 to 6, and its acceptance (R439, R440, METER_RECORD). -/
def meterCheck (s : State) (d : List Byte) (time : Nat) (isLocal adj : Bool) : State :=
  let m := leAt d 4 4
  let seq := leAt d 8 4
  match bankGet (fun _ => none) s.gh.meters m with
  | none => ghReject s 2
  | some x =>
    if Config.hmac x.key (d.take 46) ≠ d.drop 46 then ghReject s 3
    else if seq ≤ x.last then ghReject s 4
    else if logFree s = 0 then ghReject s 5
    else
      let i : GhItem := { ty := 1, gap := seq - x.last - 1, body := d, time := some (time, isLocal), adj := some adj }
      let s := setGh s { s.gh with items := s.gh.items ++ [i],
                                   meters := bankSet (fun _ => none) s.gh.meters m (some { x with last := seq }) }
      s.incWrap Reg.ghAccCnt

/-- The checks of R439 on the inbox frame in turn; the adjustment mode is sampled as the engine starts on it (R436). -/
def recordCheck (s : State) (b : List Byte) (time : Nat) (isLocal : Bool) : State :=
  let adj := s.bit Reg.ghGhStat 4
  match recordPayload s b with
  | none => ghReject s 0
  | some d =>
    if isCtl d then
      if ctlFormed d = false then ghReject s 1
      else if logFree s = 0 then ghReject s 5
      else if ctlAllowed s (ctlOp d) adj = false then ghReject s 6
      else if ctlInOrder s d = false then ghReject s 7
      else setGh s { s.gh with ctl := some (d, adj) }
    else if meterFormed d = false then ghReject s 1
    else meterCheck s d time isLocal adj

/-- GH_RECORD_CHECK (R439): the engine handles frames one at a time, after the entry and the control record in hand. -/
def execGhRecordCheck (time : Nat) (s : State) : Host.Outcome State Fault Refusal :=
  let t := s.at time
  done s (if ghSt t ≠ 2 ∨ t.gh.ctl.isSome = true ∨ t.gh.items.isEmpty = false then t
    else match t.gh.work with
      | .frame b tm l :: r => recordCheck (setGh t { t.gh with work := r }) b tm l
      | _ => t)

/-! ### Control records -/

/-- The control record in hand, where its OP is `op`: its body and the adjustment mode sampled for it; and the state without
it. -/
def takeCtl (s : State) (op : Nat) : Option (List Byte × Bool × State) :=
  match s.gh.ctl with
  | none => none
  | some (d, adj) => if ghSt s = 2 ∧ ctlOp d = op then some (d, adj, setGh s { s.gh with ctl := none }) else none

/-- The AUDIT of a control record (R437, R445): the counter moves on after the seal, and the entry that precedes the change is
queued. -/
def auditItem (s : State) (d names data : List Byte) (adj : Bool) (a : GhAct) : State :=
  let c := s.fld Reg.ghAuditCnt 0 14
  let n := if s.gh.sealed then min 16383 (c + 1) else c
  let i : GhItem := { ty := 3, body := d.take 8 ++ names ++ padTo 32 (Config.sha256 data), adj := some adj, act := a }
  (setGh s { s.gh with items := s.gh.items ++ [i] }).setNat Reg.ghAuditCnt n

/-- LOG_READ (R444): it replaces the one in progress. -/
def execLogRead (time : Nat) (s : State) : Host.Outcome State Fault Refusal :=
  let t := s.at time
  done s (match takeCtl t 1 with
    | none => t
    | some (d, _, t) =>
      let b := ctlBody d
      setGh t { t.gh with again := some (leAt b 0 4, leAt b 0 4 + leAt b 4 2) })

/-- KEY_INSTALL (R442): the last SEQ starts at 0 again. -/
def execKeyInstall (time : Nat) (s : State) : Host.Outcome State Fault Refusal :=
  let t := s.at time
  done s (match takeCtl t 2 with
    | none => t
    | some (d, adj, t) =>
      let b := ctlBody d
      match Config.keyUnwrap t.gh.transport (b.drop 4) with
      | none => t
      | some k => auditItem t d (b.take 4) (b.drop 4) adj (.install (leAt b 0 4) k))

/-- KEY_REMOVE (R442). -/
def execKeyRemove (time : Nat) (s : State) : Host.Outcome State Fault Refusal :=
  let t := s.at time
  done s (match takeCtl t 3 with
    | none => t
    | some (d, adj, t) => auditItem t d ((ctlBody d).take 4) [] adj (.remove (leAt (ctlBody d) 0 4)))

/-- PARAM (R443). -/
def execParamCmd (time : Nat) (s : State) : Host.Outcome State Fault Refusal :=
  let t := s.at time
  done s (match takeCtl t 4 with
    | none => t
    | some (d, adj, t) =>
      let b := ctlBody d
      auditItem t d (b.take 4) (b.drop 4) adj (.param (leAt b 0 2) (b.drop 4)))

/-- FW_CHUNK (R441). -/
def execFwChunk (time : Nat) (s : State) : Host.Outcome State Fault Refusal :=
  let t := s.at time
  done s (match takeCtl t 5 with
    | none => t
    | some (d, adj, t) =>
      let b := ctlBody d
      auditItem t d (b.take 4 ++ leBytes 2 (b.length - 4)) (b.drop 4) adj (.chunk (leAt b 0 4) (b.drop 4)))

/-- FW_COMMIT (R442). -/
def execFwCommit (time : Nat) (s : State) : Host.Outcome State Fault Refusal :=
  let t := s.at time
  done s (match takeCtl t 6 with
    | none => t
    | some (d, adj, t) =>
      let b := ctlBody d
      let image := memRead t.gh.stage 0 (leAt b 0 4)
      auditItem t d (b.take 4) image adj (.activate image (sliceB b 4 64)))

/-- SEAL (R442): SEAL is set, the log erased, and entry 0 committed, once the engine may commit (R447). -/
def execSealCmd (time : Nat) (s : State) : Host.Outcome State Fault Refusal :=
  let t := s.at time
  done s (match (if ghPaced t then takeCtl t 7 else none) with
    | none => t
    | some (_, adj, t) =>
      let t := setGh t { t.gh with sealed := true, log := [], commitAt := [], again := none, waiting := false, torn := false }
      let t := ((t.setNat Reg.ghLogHead 0).setNat Reg.ghLogOldest 0).setNat Reg.ghOutNext 0
      commitItem (t.setBit Reg.ghGhStat 3 true) { ty := 0, body := [], adj := some adj })

/-! ### Export -/

/-- An export frame (R448). -/
def exportFrame (s : State) (rep : Bool) (e : List Byte) : List Byte :=
  let vlan := decide (byteAt (paramBytes s 0x10 1) 0 % 2 = 1)
  paramBytes s 4 6 ++ paramBytes s 0xA 6 ++
    (if vlan then beBytes 2 0x8100 ++ beBytes 2 (leAt (paramBytes s 0x12 2) 0 2) else []) ++
    beBytes 2 0x88B6 ++ [BitVec.ofNat 8 (bnat rep), 0, 0, 0] ++ padTo 256 e ++ [0, 0, 0, 0]

/-- The export frame of an entry written to PD31, where it has room for the whole of it. -/
def exportPush (s : State) (rep : Bool) (e : List Byte) : Option State :=
  let f := exportFrame s rep e
  let ws := packetOf s 31 { len := f.length } f
  if poundClosed s 31 = false ∧ (s.pound 31).level + ws.length ≤ poundDepth s 31 then some (pushAll s 31 ws) else none

/-- Identity 739's condition (R451): the entry next to export has waited more than 1 s since its commit. -/
def reviewWait (s : State) : State :=
  let n := s.regN Reg.ghOutNext
  let late := decide (n < s.regN Reg.ghLogHead) && decide (bankGet (fun _ => 0) s.gh.commitAt n + 1000000000 < s.dt)
  setGh s { s.gh with waiting := late }

/-- The next INDEX of a LOG_READ in progress that the log still holds (R444). -/
def repeatNext (s : State) : Option (Nat × Nat) :=
  match s.gh.again with
  | none => none
  | some (i, e) => match s.gh.log.find? (fun x => decide (i ≤ x.1) && decide (x.1 < e)) with
    | none => none
    | some x => some (x.1, e)

/-- LOG_EXPORT (R444, R448): the next new entry in INDEX order, or a repeat while no new entry waits. -/
def execLogExport (time : Nat) (s : State) : Host.Outcome State Fault Refusal :=
  let t := s.at time
  let n := t.regN Reg.ghOutNext
  done s (if ghSt t ≠ 2 then t
    else if n < t.regN Reg.ghLogHead then
      match exportPush t false (bankGet (fun _ => []) t.gh.log n) with
      | none => t
      | some u =>
        let u := setGh u { u.gh with commitAt := bankSet (fun _ => 0) u.gh.commitAt n 0 }
        reviewWait (reviewLog (u.setNat Reg.ghOutNext (n + 1)))
    else match repeatNext t with
      | none => setGh t { t.gh with again := none }
      | some (i, e) => match exportPush t true (bankGet (fun _ => []) t.gh.log i) with
        | none => t
        | some u => setGh u { u.gh with again := some (i + 1, e) })

/-- EXPORT_WAIT (R451). -/
def execExportWait (time : Nat) (s : State) : Host.Outcome State Fault Refusal :=
  let t := s.at time
  done s (reviewWait t)

/-! ### The GH core and the load-cell channels -/

/-- The words that the GH core wrote to APP_BODY. -/
def appBody (s : State) (ws : List Word) : State :=
  if ghSt s = 0 ∨ ghSt s = 1 then s
  else s.each (List.range (min 32 ws.length)) (fun k t => t.setReg (Reg.ghcAppBody k) (ws.getD k 0))

/-- APP_CMD_GO (R447): APP_BODY as the core filled it; then GO, ignored while BUSY: a length outside 1 to 128 ends with
BAD_LEN, otherwise the body is copied and its request takes its turn. -/
def execAppCmdGo (time : Nat) (body : List Word) (data : Word) (s : State) : Host.Outcome State Fault Refusal :=
  let t := appBody (s.at time) body
  let n := bitsOf data 0 8
  done s (if ghSt t ≠ 2 ∨ bitOf data 31 = false ∨ t.bit Reg.ghcAppStat 0 = true then t
    else if n = 0 ∨ 128 < n then t.setFld Reg.ghcAppStat 4 3 2
    else
      let body := ((List.range 32).flatMap (fun k => leBytes 4 (t.regN (Reg.ghcAppBody k)))).take n
      setGh (t.setBit Reg.ghcAppStat 0 true) { t.gh with work := t.gh.work ++ [.weigh body t.dt] })

/-- The quotient `n / d` rounded to the nearest whole number; a value midway takes either neighbour (R449 names no rule). -/
def lcRound (n d : Int) (up : Bool) : Int :=
  let q := n / d
  let r := 2 * (n % d)
  if r < d then q else if d < r then q + 1 else if up then q + 1 else q

/-- A channel's result before the clamp (R449): 2^23 × GAIN × V_in / V_ref for V_ref from 1.0 V to 5.5 V, and a free value for
any other V_ref. -/
def lcCode (c : Nat) (input sense : LcPair) (s : State) : Int × State :=
  let (w, s) := s.drawWord
  let ref := sense.p - sense.n
  let gain : Int := (2 ^ s.fld (Reg.ghcLcCfg c) 1 3 : Nat)
  if 1000000000 ≤ ref ∧ ref ≤ 5500000000 then (lcRound (8388608 * gain * (input.p - input.n)) ref (w.getLsbD 0), s)
  else (w.toInt, s)

/-- OPEN_INPUT's condition (R450): an input more than 50 mV outside the supply rails. -/
def lcOutside (input : LcPair) (rail : Int) : Bool :=
  [input.p, input.n].any (fun x => decide (x < -50000000) || decide (rail + 50000000 < x))

/-- LC_RESULT (R449, R450): the code is clamped to 24 bits, and the first three results after a change carry SETTLING. -/
def execLcResult (time : Nat) (c : Fin 4) (input sense : LcPair) (rail : Int) (s : State) :
    Host.Outcome State Fault Refusal :=
  let t := s.at time
  let n := bankGet (fun _ => 0) t.gh.settle c
  let (now, isLocal) := ghTime t
  done s (if ghSt t < 2 ∨ t.bit (Reg.ghcLcCfg c) 0 = false then t
    else
      let (code, t) := lcCode c input sense t
      let x := clampInt (-8388607) 8388607 code
      let t := t.setNat (Reg.ghcLcData c) (unsigned 24 x + 2 ^ 24)
      let t := t.setNat (Reg.ghcLcStat c) (bnat (decide (x ≠ code)) +
        2 * bnat (decide (sense.p - sense.n < 500000000)) + 4 * bnat (lcOutside input rail) +
        8 * bnat (decide (n ≠ 0)) + 16 * bnat isLocal)
      let t := (t.setNat (Reg.ghcLcDtLo c) (now % 2 ^ 32)).setNat (Reg.ghcLcDtHi c) (now / 2 ^ 32 % 2 ^ 16)
      let t := (t.setReg (Reg.ghLcRes c) (t.reg (Reg.ghcLcData c))).setReg (Reg.ghLcRst c) (t.reg (Reg.ghcLcStat c))
      setGh t { t.gh with settle := bankSet (fun _ => 0) t.gh.settle c (n - 1) })

/-- LC_CFG_WRITE (R435, R450): ignored after the seal. -/
def execLcCfgWrite (time : Nat) (c : Fin 4) (data : Word) (s : State) : Host.Outcome State Fault Refusal :=
  let t := s.at time
  done s (if t.gh.sealed = true ∨ ghSt t < 2 then t
    else
      let u := t.setReg (Reg.ghcLcCfg c) (data &&& 0xFF)
      setGh u { u.gh with settle := bankSet (fun _ => 0) u.gh.settle c 3 })

/-- GH_WDOG_WRITE (R430): each write restarts the watchdog. -/
def execGhWdogWrite (time : Nat) (data : Word) (s : State) : Host.Outcome State Fault Refusal :=
  let t := s.at time
  done s (if ghSt t = 0 ∨ ghSt t = 1 then t
    else setGh (t.setNat Reg.ghcGhWdog (data.toNat % 65536)) { t.gh with wdogAt := t.dt })

/-- What the window shows (the register section): only GH_STAT while the gauge house is OFF or in START; DT_VALID follows
the time view. -/
def ghShown (s : State) (a : Nat) : Word :=
  if a = Reg.ghGhStat then putBit (s.reg a) 5 (dtValid s && decide (ghSt s ≠ 0))
  else if ghSt s = 0 ∨ ghSt s = 1 then 0 else s.reg a

end Sys2Proof.Machine
end

