-- ==== Sys2Proof/Machine/Phy.lean ====
section
/-! DEFINITION. The single-pair PHYs of the stall ports (R322, R326 to R344): modes and negotiation, freezing, fence pulses,
noise floor, cable diagnostics and power over the data lines. -/

namespace Sys2Proof.Machine

/-- The PHY of a stall port. -/
def State.phy (s : State) (n : Nat) : SpState := bankGet (fun _ => {}) s.sp n

/-- The PHY of a stall port replaced. -/
def State.setPhy (s : State) (n : Nat) (x : SpState) : State := { s with sp := bankSet (fun _ => {}) s.sp n x }

/-- The stall ports. -/
def stallPorts : List Nat := List.range 64

/-- The octet of a stall port has power; its PHY datapath outlives a reset of the octet (R490). -/
def octetOn (s : State) (n : Nat) : Bool := islPowered s (11 + n / 8)

/-- The registers of a stall port can move: its octet is powered and out of reset. -/
def octetUp (s : State) (n : Nat) : Bool := islUp s (11 + n / 8)

/-- The mode that PHY_CTRL asks for: 3 acts as 0. -/
def phyMode (s : State) (n : Nat) : Nat := let m := s.fld (Reg.spPhyCtrl n) 0 2; if m = 3 then 0 else m

/-- The link of a stall port is up. -/
def spLink (s : State) (n : Nat) : Bool := s.bit (Reg.spPhyStat n) 0

/-- PHY_LAT of a mode: 1 10BASE-T1L, 2 100BASE-T1 (R322). -/
def spLat (mode : Nat) : Nat := if mode = 2 then 660 + 300 * 65536 else 3733 + 1200 * 65536

/-- The mode in use with its amplitude and role; PHY_LAT follows it, and keeps its value while no mode is in use (R327). -/
def setMode (s : State) (n mode : Nat) (amp24 leader anDone : Bool) : State :=
  let s := s.setFlds (Reg.spPhyStat n) [(1, 2, mode), (3, 1, bnat amp24), (4, 1, bnat leader), (5, 1, bnat anDone)]
  if mode = 0 then s else s.setNat (Reg.spPhyLat n) (spLat mode)

/-- The coefficients brought up to the present DT (R330). -/
def adaptNow (s : State) (n : Nat) : State :=
  let x := s.phy n
  if x.coefAt = s.dt then s
  else s.setPhy n { x with coef := Config.adapt n x.coef x.coefAt s.dt, coefAt := s.dt }

/-- A link-down of a stall port declared (R328, R486); adaptation runs no further (R330). -/
def spDown (s : State) (n : Nat) : State :=
  if spLink s n then
    let s := if s.bit (Reg.spPhyStat n) 6 then s else adaptNow s n
    let s := ((s.setBit (Reg.spPhyStat n) 0 false).raise (Reg.spPhyIrqRaw n) 0).inc (Reg.spLinkDownCnt n)
    raiseFault (s.setBit (Reg.spMse n) 16 false) 7 n .none 0
  else s

/-- The effect of a write to PHY_CTRL (R327): with AN_EN it restarts negotiation, and without it the forced mode,
amplitude and role are in use. The link is held down by MODE 0 and TX_OFF and goes down with the mode in use. -/
def phyCtrlSet (s : State) (n : Nat) (d : Word) : State :=
  let old := s.reg (Reg.spPhyCtrl n)
  let s := plainWrite s (Reg.spPhyCtrl n) d
  let w := s.reg (Reg.spPhyCtrl n)
  let m := phyMode s n
  if m = 0 then spDown (setMode s n 0 false false false) n
  else if bitOf w 5 then spDown (setMode s n 0 false false false) n
  else
    let s := setMode s n m (bitOf w 2) (decide (bitsOf w 3 2 = 1)) false
    if bitOf w 6 || decide (bitsOf old 0 6 ≠ bitsOf w 0 6) then spDown s n else s

/-- AN_RESTART (R327): a write to PHY_CTRL that sets AN_EN. -/
def execAnRestart (time : Nat) (init : Init) (n : Fin 64) (data : Word) (s : State) : Host.Outcome State Fault Refusal :=
  let t := s.at time
  done s (busDo t init (Reg.spPhyCtrl n) 4 (some (data ||| 0x20)) (fun t => phyCtrlSet t n (data ||| 0x20)))

/-- What Clause 98 may resolve: a mode that both ends advertise, and 2.4 Vpp only where both are able (R327). -/
def anAgreed (s : State) (n mode : Nat) (amp24 : Bool) (partner : BitVec 5) : Bool :=
  let both := fun (i : Nat) => s.bit (Reg.spAnAdv n) i && partner.getLsbD i
  decide (mode ≠ 0) && both (if mode = 1 then 0 else 3) && (!amp24 || (decide (mode = 1) && both 1))

/-- AN_RESOLVED (R327). -/
def execAnResolved (time : Nat) (n : Fin 64) (mode : Fin 3) (amp24 leader : Bool) (partner : BitVec 5) (s : State) :
    Host.Outcome State Fault Refusal :=
  let t := s.at time
  done s (if octetOn t n && decide (phyMode t n ≠ 0) && t.bit (Reg.spPhyCtrl n) 5 && !t.bit (Reg.spPhyStat n) 5 &&
      anAgreed t n mode amp24 partner then
      (setMode t n mode amp24 leader true).setNat (Reg.spAnLp n) partner.toNat
    else t)

/-- STALL_LINK_UP (R328): with a mode in use, the transmitter on and no measurement running. Training leaves the coefficients that
adaptation goes on from, unless the port is frozen (R330); the slicer error becomes valid (R337). -/
def execStallLinkUp (time : Nat) (n : Fin 64) (s : State) : Host.Outcome State Fault Refusal :=
  let t := s.at time
  done s (if octetOn t n && !spLink t n && decide (t.fld (Reg.spPhyStat n) 1 2 ≠ 0) && !t.bit (Reg.spPhyCtrl n) 6 &&
      !t.bit (Reg.spTdrStat n) 0 then
      let t := adaptNow (t.setPhy n { t.phy n with upAt := t.dt }) n
      ((t.setBit (Reg.spPhyStat n) 0 true).raise (Reg.spPhyIrqRaw n) 0).setBit (Reg.spMse n) 16 true
    else t)

/-- What MSE shows: while the link is up the slicer error outside frozen intervals (R337). -/
def mseShown (s : State) (n : Nat) : Word :=
  if s.bit (Reg.spMse n) 16 then
    BitVec.ofNat 32 (2 ^ 16 + Config.slicerError n (if s.bit (Reg.spPhyStat n) 6 then (s.phy n).coefAt else s.dt) % 256)
  else 0

/-- LINK_DOWN_US in ns; 0 acts as 1. -/
def spDownNs (s : State) (n : Nat) : Nat := 1000 * max 1 (s.fld (Reg.spLinkTim n) 0 16)

/-- STALL_LINK_DOWN (R328): the link monitor's failure, or a receiver out of lock for LINK_DOWN_US, not counting frozen time. -/
def execStallLinkDown (time : Nat) (down : StallDown) (s : State) : Host.Outcome State Fault Refusal :=
  let t := s.at time
  done s (if octetOn t down.n && down.lost.all (fun d => decide (spDownNs t down.n ≤ d)) then spDown t down.n else t)

/-! ### Freezing -/

/-- A source of R331 is active. -/
def frozen (s : State) (n : Nat) : Bool :=
  s.bit (Reg.spAdaptCtrl n) 0 || (s.phy n).trig.isSome || (s.phy n).win || (s.phy n).pwr.isSome

/-- A freeze of a port begins: while its link is up the coefficients stay as they have adapted until now (R330). Where the last one
ended in this very cycle the port stayed frozen, and that end does not count (R331). -/
def freezeBegin (s : State) (n : Nat) : State :=
  let s := match (s.phy n).rel with
    | none => s
    | some (d, w) => if d = s.dt ∧ s.reg (Reg.spFreezeCnt n) = w + 1 then s.setReg (Reg.spFreezeCnt n) w else s
  if spLink s n then adaptNow s n else s

/-- A freeze of a port ends: it counts, and adaptation goes on from the coefficients held (R330, R331). -/
def freezeEnd (s : State) (n : Nat) : State :=
  let s := s.setPhy n { s.phy n with coefAt := s.dt, rel := some (s.dt, s.reg (Reg.spFreezeCnt n)) }
  s.inc (Reg.spFreezeCnt n)

/-- PHY_STAT.FROZEN and FENCE_STAT follow their sources; the end of an interval counts in FREEZE_CNT (R331). -/
def reviewFreeze (s : State) (n : Nat) : State :=
  let was := s.bit (Reg.spPhyStat n) 6
  let now := frozen s n
  let x := s.phy n
  let s := s.setFlds (Reg.spFenceStat n) [(0, 1, bnat (x.trig.isSome || x.win)), (1, 1, bnat x.per.isSome)]
  let s := s.setNat (Reg.spFencePeriod n) (match x.per with
    | none => 0
    | some p => p.mean / (1000 * 2 ^ p.exp))
  let s := s.setBit (Reg.spPhyStat n) 6 now
  if was && !now then freezeEnd s n else if !was && now then freezeBegin s n else s

/-- The PHY of a stall port replaced, and its freeze state followed. -/
def putPhy (s : State) (n : Nat) (x : SpState) : State := reviewFreeze (s.setPhy n x) n

/-- The effect of a write to ADAPT_CTRL. -/
def adaptSet (s : State) (n : Nat) (d : Word) : State := reviewFreeze (plainWrite s (Reg.spAdaptCtrl n) d) n

/-- The effect of a write to FENCE_CFG: with PRED_EN = 0 nothing is learned or predicted. -/
def fenceCfgSet (s : State) (n : Nat) (d : Word) : State :=
  let s := plainWrite s (Reg.spFenceCfg n) d
  if s.bit (Reg.spFenceCfg n) 5 then s else putPhy s n { s.phy n with starts := [], per := none, win := false }

/-! ### Fence pulses -/

/-- POST_US and PRE_US in ns. -/
def postNs (s : State) (n : Nat) : Nat := 1000 * s.fld (Reg.spFenceTim n) 0 16

/-- PRE_US in ns. -/
def preNs (s : State) (n : Nat) : Nat := 1000 * s.fld (Reg.spFenceTim n) 16 16

/-- The differences of consecutive numbers of a rising list. -/
def gaps : List Nat → List Nat
  | a :: b :: r => (b - a) :: gaps (b :: r)
  | _ => []

/-- Five starts that lock (R334): four periods each within ±0.5 % of their mean, and the mean between 300,000 and
3,000,000 µs. -/
def fenceLocks (l : List Nat) : Option FencePer :=
  let g := gaps l
  let sum := g.sum
  if l.length = 5 ∧ g.all (fun p => decide (200 * ((4 * p : Int) - sum).natAbs ≤ sum)) = true ∧
      4 * 300000000 ≤ sum ∧ sum ≤ 4 * 3000000000 then
    some ⟨2, sum, 4 * l.getLastD 0, 0⟩
  else none

/-- The start of a trigger at DT `d` learned (R334). -/
def fenceLearn (s : State) (n d : Nat) (x : SpState) : SpState :=
  if s.bit (Reg.spFenceCfg n) 5 = false then x
  else
    match x.per with
    | none =>
      let l := (x.starts ++ [d]).drop ((x.starts ++ [d]).length - 5)
      { x with starts := l, per := fenceLocks l }
    | some p =>
      let u := 2 ^ p.exp
      if (((d * u : Nat) : Int) - (p.last + p.mean : Nat)).natAbs ≤ preNs s n * u then
        let mean := (8 * (p.mean : Int) + ((d * u : Nat) - p.last - p.mean)).toNat
        { x with win := false, per := some { exp := p.exp + 3, mean := mean, last := 8 * (d * u) } }
      else { x with starts := [d], per := none, win := false }

/-- A source of a stall port's fence trigger becomes active (R332): it starts a trigger, or lasts within one. A source that was
ignored has then been inactive (R333). -/
def fenceSource (s : State) (n k : Nat) : State :=
  let x := s.phy n
  if octetOn s n = false then s
  else
    let y := { x with src := (x.src ++ [k]).eraseDups, srcAt := s.dt, ign := x.ign.filter (fun j => j != k) }
    if x.trig.isSome then putPhy s n y
    else putPhy s n (fenceLearn s n s.dt { y with src := [k], trig := some s.dt, trigFrom := s.dt })

/-- FENCE_SENSE_ASSERT (R332): the pin rises, at every stall port that selects it. -/
def execFenceSenseAssert (time : Nat) (pin : Fin 4) (s : State) : Host.Outcome State Fault Refusal :=
  let t := s.at time
  done s (t.each stallPorts (fun n u => if u.bit (Reg.spFenceCfg n) pin then fenceSource u n pin else u))

/-- IMPULSE_DETECT (R332): the slicer error exceeds IMP_THR / 256 on three consecutive symbols. -/
def execImpulseDetect (time : Nat) (imp : Impulse) (s : State) : Host.Outcome State Fault Refusal :=
  let t := s.at time
  done s (if t.bit (Reg.spFenceCfg imp.n) 4 && decide ((t.fld (Reg.spFenceCfg imp.n) 8 8 : Rat) < 256 * imp.err) then
      fenceSource t imp.n 4
    else t)

/-- FENCE_TRIGGER_END (R332): POST_US after the DT since when no source is active. -/
def execFenceTriggerEnd (time : Nat) (rest : FenceRest) (s : State) : Host.Outcome State Fault Refusal :=
  let t := s.at time
  let n := rest.n
  let x := t.phy n
  done s (if x.trig.isSome && decide (x.srcAt ≤ rest.quiet) && decide (rest.quiet + postNs t n ≤ t.dt) then
      putPhy t n { x with trig := none, src := [], trigEnd := t.dt }
    else t)

/-- FENCE_STUCK (R333). -/
def execFenceStuck (time : Nat) (n : Fin 64) (s : State) : Host.Outcome State Fault Refusal :=
  let t := s.at time
  let x := t.phy n
  done s (match x.trig with
    | none => t
    | some d =>
      if d + 1000000 * max 1 (t.fld (Reg.spAdaptCtrl n) 16 16) ≤ t.dt then
        let t := putPhy t n { x with trig := none, src := [], ign := (x.ign ++ x.src).eraseDups, stuckAt := t.dt, trigEnd := t.dt }
        (t.setBit (Reg.spFenceStat n) 2 true).raise (Reg.spPhyIrqRaw n) 1
      else t)

/-- FENCE_STUCK_CLEAR (R333): every ignored source has been inactive for 1 ms. -/
def execFenceStuckClear (time : Nat) (rest : FenceRest) (s : State) : Host.Outcome State Fault Refusal :=
  let t := s.at time
  let n := rest.n
  let x := t.phy n
  done s (if t.bit (Reg.spFenceStat n) 2 && decide (x.stuckAt ≤ rest.quiet) && decide (rest.quiet + 1000000 ≤ t.dt) then
      (putPhy t n { x with ign := [] }).setBit (Reg.spFenceStat n) 2 false
    else t)

/-- FENCE_PRED_WINDOW_OPEN (R334): from PRE_US before the predicted start. -/
def execFencePredWindowOpen (time : Nat) (n : Fin 64) (s : State) : Host.Outcome State Fault Refusal :=
  let t := s.at time
  let x := t.phy n
  done s (match x.per with
    | none => t
    | some p =>
      let u := 2 ^ p.exp
      if !x.win && decide (p.last + p.mean ≤ (t.dt + preNs t n) * u) && decide (t.dt * u < p.last + p.mean + preNs t n * u) then
        putPhy t n { x with win := true }
      else t)

/-- FENCE_PRED_WINDOW_END (R334): no trigger by PRE_US after the predicted start. The next start is predicted one mean after
the one missed. -/
def execFencePredWindowEnd (time : Nat) (n : Fin 64) (s : State) : Host.Outcome State Fault Refusal :=
  let t := s.at time
  let x := t.phy n
  done s (match x.per with
    | none => t
    | some p =>
      if x.win && decide (p.last + p.mean + preNs t n * 2 ^ p.exp ≤ t.dt * 2 ^ p.exp) then
        putPhy t n { x with
          win := false,
          starts := if 1 ≤ p.misses then [] else x.starts,
          per := if 1 ≤ p.misses then none else some { p with last := p.last + p.mean, misses := p.misses + 1 } }
      else t)

/-! ### Noise floor and cable diagnostics -/

/-- PORT_NF_PERIOD_END (R336): at the end of a period of NF_PERIOD ms. A link that has been up since the period began left no
quiet interval. -/
def execPortNfPeriodEnd (time : Nat) (n : Fin 64) (quietUs : Nat) (level peak : BitVec 12) (s : State) :
    Host.Outcome State Fault Refusal :=
  let t := s.at time
  let x := t.phy n
  let quiet := if spLink t n && decide (x.upAt ≤ x.nfAt) then 0 else quietUs
  done s (if octetOn t n = false ∨ t.dt < x.nfAt + 1000000 * max 1 (t.fld (Reg.spNfCtrl n) 0 16) then t
    else
      let t := t.setPhy n { x with nfAt := t.dt }
      if 10000 ≤ quiet then t.setNat (Reg.spNf n) (level.toNat + 4096 * peak.toNat) else t.setBit (Reg.spNf n) 31 true)

/-- The effect of TDR_CMD.START (R338): ignored while BUSY, refused with LINK_UP or POWERED, or begun. -/
def tdrBegin (s : State) (n : Nat) : State :=
  if s.bit (Reg.spTdrStat n) 0 then s
  else if spLink s n && !s.bit (Reg.spPhyCtrl n) 6 then s.setFld (Reg.spTdrStat n) 1 3 1
  else if (s.phy n).en || s.podl.en.getLsbD n then s.setFld (Reg.spTdrStat n) 1 3 2
  else (s.setPhy n { s.phy n with tdrHits := 0, tdrAt := s.dt }).setBit (Reg.spTdrStat n) 0 true

/-- TDR_START (R338). -/
def execTdrStart (time : Nat) (init : Init) (n : Fin 64) (s : State) : Host.Outcome State Fault Refusal :=
  let t := s.at time
  done s (busDo t init (Reg.spTdrCmd n) 4 (some 1) (fun t => tdrBegin t n))

/-- A reflection as TDR_EVT shows it. -/
def reflWord (r : Reflection) : Nat := r.dist.toNat + 65536 * r.amp.toNat + 2 ^ 24 * r.typ.val

/-- A fence trigger fell within the present reflectometry run (R339). -/
def tdrHit (x : SpState) : Bool := x.trig.isSome || decide (x.tdrAt < x.trigEnd)

/-- TDR_DONE (R339): a run that a fence trigger hit is repeated, up to three in all. The command says which of the two ends
the run has. -/
def execTdrDone (time : Nat) (n : Fin 64) (fenceHit : Bool) (refl : List Reflection) (s : State) :
    Host.Outcome State Fault Refusal :=
  let t := s.at time
  let x := t.phy n
  let hits := x.tdrHits + 1
  done s (if t.bit (Reg.spTdrStat n) 0 = false ∨ fenceHit ≠ tdrHit x then t
    else if fenceHit then
      if hits < 3 then t.setPhy n { x with tdrHits := hits, tdrAt := t.dt }
      else (t.setFlds (Reg.spTdrStat n) [(0, 1, 0), (1, 3, 3), (4, 3, 0)]).raise (Reg.spPhyIrqRaw n) 3
    else
      let l := (refl.mergeSort (fun a b => decide (a.dist.toNat ≤ b.dist.toNat))).take 4
      let t := t.each (List.range 4) (fun e u => u.setNat (Reg.spTdrEvt n e) ((l[e]?.map reflWord).getD 0))
      (t.setFlds (Reg.spTdrStat n) [(0, 1, 0), (1, 3, 0), (4, 3, l.length)]).raise (Reg.spPhyIrqRaw n) 3)

/-! ### Power over the data lines -/

/-- The state of a PSE by the code of PODL_STAT.STATE: 0 OFF, 1 DETECT, 2 CLASS, 3 POWER_UP, 4 ON, 5 FAULT. -/
def pseState (s : State) (n : Nat) : Nat := s.fld (Reg.spPodlStat n) 0 3

/-- How long the bits of a bus frame take to shift, in ns (R342). -/
def podlShift : Nat := 12800

/-- The output bits EN and DIS of a port set, with the DTs of its changes back to one before a frame in progress. -/
def setOuts (dt : Nat) (x : SpState) (en dis : Bool) : SpState :=
  if en = x.en ∧ dis = x.dis then x
  else
    let new := x.outs.takeWhile (fun e => decide (dt < e.1 + podlShift))
    { x with en := en, dis := dis, outs := (dt, en, dis) :: new ++ (x.outs.drop new.length).take 1 }

/-- The output bits of a port as a frame shifts them that ends at DT `dt`: those of its beginning. -/
def shiftedOuts (dt : Nat) (x : SpState) : Bool × Bool :=
  ((x.outs.find? (fun e => decide (e.1 + podlShift ≤ dt))).map (fun e => e.2)).getD (false, false)

/-- A PSE moved to a state (R341), with its output bits. -/
def pseMove (s : State) (n st : Nat) (en dis : Bool) : State :=
  let x := setOuts s.dt (s.phy n) en dis
  let y := { x with pseFrom := pseState s n, pseAt := s.dt, wait := false, disAt := if st = 5 then none else x.disAt }
  (s.setPhy n y).setFld (Reg.spPodlStat n) 0 3 st

/-- PODL_STAT.RESULT. -/
def pseResult (s : State) (n r : Nat) : State := s.setFld (Reg.spPodlStat n) 8 3 r

/-- A fault of a PSE recorded and counted (R341, R486). -/
def pseFaulted (s : State) (n r : Nat) : State :=
  raiseFault (((pseResult s n r).inc (Reg.spPodlFaults n)).raise (Reg.spPhyIrqRaw n) 2) 7 n .none 1

/-- A PSE enters FAULT: EN = 0 and DIS = 1. -/
def pseFault (s : State) (n r : Nat) : State := pseFaulted (pseMove s n 5 false true) n r

/-- A PSE waits in DETECT for 1 s (R341). -/
def pseWait (s : State) (n r : Nat) : State :=
  let s := pseResult (pseMove s n 1 false (s.phy n).dis) n r
  s.setPhy n { s.phy n with wait := true }

/-- The effect of a write to PODL_CTRL (R341): EN set in OFF starts detection; EN cleared switches off and discharges. -/
def podlSet (s : State) (n : Nat) (d : Word) : State :=
  let s := plainWrite s (Reg.spPodlCtrl n) d
  if s.bit (Reg.spPodlCtrl n) 0 then
    if pseState s n = 0 then pseMove s n 1 false (s.phy n).dis else s
  else if pseState s n = 0 then s
  else
    let s := pseMove s n 0 false true
    s.setPhy n { s.phy n with disAt := some s.dt }

/-- PODL_CTRL with EN replaced. -/
def podlWord (s : State) (n : Nat) (en : Bool) : Word := putBit (s.reg (Reg.spPodlCtrl n)) 0 en

/-- PODL_ENABLE (R341). -/
def execPodlEnable (time : Nat) (init : Init) (n : Fin 64) (s : State) : Host.Outcome State Fault Refusal :=
  let t := s.at time
  done s (busDo t init (Reg.spPodlCtrl n) 4 (some (podlWord t n true)) (fun u => podlSet u n (podlWord t n true)))

/-- PODL_DISABLE (R341). -/
def execPodlDisable (time : Nat) (init : Init) (n : Fin 64) (s : State) : Host.Outcome State Fault Refusal :=
  let t := s.at time
  done s (busDo t init (Reg.spPodlCtrl n) 4 (some (podlWord t n false)) (fun u => podlSet u n (podlWord t n false)))

/-- PODL_DETECT_DONE (R341). -/
def execPodlDetectDone (time : Nat) (n : Fin 64) (valid : Bool) (s : State) : Host.Outcome State Fault Refusal :=
  let t := s.at time
  done s (if octetUp t n = false ∨ pseState t n ≠ 1 ∨ (t.phy n).wait = true then t
    else if valid then pseMove t n 2 false (t.phy n).dis
    else pseWait t n 1)

/-- PODL_CLASS_READ (R340, R341). -/
def execPodlClassRead (time : Nat) (n : Fin 64) (cls : Option (Fin 16)) (s : State) : Host.Outcome State Fault Refusal :=
  let t := s.at time
  done s (if octetUp t n = false ∨ pseState t n ≠ 2 then t
    else match cls with
      | none => pseWait t n 2
      | some c =>
        let t := t.setFld (Reg.spPodlStat n) 4 4 c.val
        if t.bit (Reg.spPodlCtrl n) (16 + c) then pseMove t n 3 true false else pseWait t n 3)

/-- PODL_PG_TIMEOUT (R341); in the cycle in which EN was cleared the fault is recorded all the same. -/
def execPodlPgTimeout (time : Nat) (n : Fin 64) (s : State) : Host.Outcome State Fault Refusal :=
  let t := s.at time
  let x := t.phy n
  done s (if octetUp t n = false then t
    else if pseState t n = 3 ∧ x.pseAt + 100000000 ≤ t.dt then pseFault t n 4
    else if pseState t n = 0 ∧ x.pseAt = t.dt ∧ x.pseFrom = 3 then pseFaulted t n 4
    else t)

/-- PODL_RETRY (R341): 1 s after FAULT the PSE returns to DETECT, and 1 s after a failed detection or class it detects
again. -/
def execPodlRetry (time : Nat) (n : Fin 64) (s : State) : Host.Outcome State Fault Refusal :=
  let t := s.at time
  let x := t.phy n
  done s (if octetUp t n = false ∨ t.dt < x.pseAt + 1000000000 then t
    else if pseState t n = 5 ∧ t.bit (Reg.spPodlCtrl n) 0 = true then pseMove t n 1 false false
    else if pseState t n = 1 ∧ x.wait = true then t.setPhy n { x with wait := false }
    else t)

/-- The inputs FLT and PG of a port captured (R341, PODL_INPUT_CHANGE): they move the PSE to ON or FAULT; a fault in the cycle
in which EN was cleared is recorded. -/
def pseInput (s : State) (n : Nat) (flt pg : Bool) : State :=
  let s := s.setFlds (Reg.spPodlStat n) [(12, 1, bnat flt), (13, 1, bnat pg)]
  let x := s.phy n
  let st := pseState s n
  let off := decide (st = 0) && decide (x.pseAt = s.dt) && decide (x.pseFrom = 4)
  if st = 3 ∧ pg = true then (pseResult (pseMove s n 4 true false) n 0).raise (Reg.spPhyIrqRaw n) 2
  else if st = 4 ∧ flt = true then pseFault s n 5
  else if st = 4 ∧ pg = false then pseFault s n 6
  else if off ∧ flt = true then pseFaulted s n 5
  else if off ∧ pg = false then pseFaulted s n 6
  else s

/-- The 128 bits of the frame of the expander bus that ends now, in the order in which they leave on PODL_SDO: EN of P63, DIS of
P63, down to DIS of P0; EN is 0 for a port whose octet is in reset or off (R342). -/
def podlSdo (s : State) : List Bool :=
  stallPorts.reverse.flatMap (fun n => let o := shiftedOuts s.dt (s.phy n); [o.1 && octetUp s n, o.2])

/-- The 128 bits that this frame brings on PODL_SDI, in order: FLT of P0, PG of P0, up to PG of P63, as the input registers captured
them at the edge before (R342); none before the first. -/
def podlSdi (s : State) : List Bool :=
  if s.podl.ldAt.isSome then stallPorts.flatMap (fun n => [s.podl.flt.getLsbD n, s.podl.pg.getLsbD n]) else []

/-- The PODL_LD edge of a frame at one port (R342, R344): the output registers take the bits shifted out, a change of EN freezes the
port for FRZ_MS, and the PSE sees the bits shifted in. -/
def podlLatch (s : State) (n : Nat) : State :=
  let x := s.phy n
  let en := s.podl.sdo.getD (2 * (63 - n)) false
  let dis := s.podl.sdo.getD (2 * (63 - n) + 1) false
  let ms := s.fld (Reg.spPodlCtrl n) 8 4
  let pwr := if en = s.podl.en.getLsbD n ∨ ms = 0 then x.pwr else some (s.dt + 1000000 * ms)
  let bit := fun (w : BitVec 64) (b : Bool) => if b then w ||| BitVec.twoPow 64 n else w &&& ~~~(BitVec.twoPow 64 n)
  let s := { s.setPhy n { x with pwr := pwr } with podl := { s.podl with en := bit s.podl.en en, dis := bit s.podl.dis dis } }
  let s := match octetUp s n, s.podl.sdi[2 * n]?, s.podl.sdi[2 * n + 1]? with
    | true, some flt, some pg => pseInput s n flt pg
    | _, _, _ => s
  reviewFreeze s n

/-- An output bit of some port is not yet in the output registers (R342). -/
def podlPends (s : State) : Bool :=
  stallPorts.any (fun n => (((s.phy n).en && octetUp s n) != s.podl.en.getLsbD n) || ((s.phy n).dis != s.podl.dis.getLsbD n))

/-- A frame of the expander bus may end now (R342): a frame takes 12.9 µs, one comes every 50 µs, and they run back to back while
PODL_FLT_N is low or an output change is pending. -/
def podlMay (s : State) : Bool :=
  match s.podl.ldAt with
  | none => true
  | some d => decide (d + (if s.podlFlt || podlPends s then 12900 else 50000) ≤ s.dt)

/-- PODL_BUS_FRAME (R342, R343, R344): the PODL_LD edge. The input registers capture the pins' FLT and PG, which the next frame
shifts in. -/
def execPodlBusFrame (time : Nat) (flt pg : BitVec 64) (s : State) : Host.Outcome State Fault Refusal :=
  let t := s.at time
  done s (if podlMay t = false then t
    else
      let t := { t with podl := { t.podl with sdo := podlSdo t, sdi := podlSdi t } }
      let t := t.each stallPorts (fun n u => podlLatch u n)
      { t with podlFlt := flt != 0, podl := { t.podl with ldAt := some t.dt, flt := flt, pg := pg } })

/-- PODL_FLT_N_FALL (R342, R343): frames run back to back. -/
def execPodlFltNFall (time : Nat) (s : State) : Host.Outcome State Fault Refusal :=
  let t := s.at time
  done s { t with podlFlt := true }

/-- PODL_FREEZE_END (R344). -/
def execPodlFreezeEnd (time : Nat) (n : Fin 64) (s : State) : Host.Outcome State Fault Refusal :=
  let t := s.at time
  let x := t.phy n
  done s (match x.pwr with
    | none => t
    | some d => if d ≤ t.dt then putPhy t n { x with pwr := none } else t)

/-- PODL_DISCHARGE_END (R341): 100 ms after EN was cleared, DIS drops. -/
def execPodlDischargeEnd (time : Nat) (n : Fin 64) (s : State) : Host.Outcome State Fault Refusal :=
  let t := s.at time
  let x := t.phy n
  done s (match x.disAt with
    | none => t
    | some d => if d + 100000000 ≤ t.dt then t.setPhy n { setOuts t.dt x x.en false with disAt := none } else t)

/-- The PHYs of an octet after a reset of its island (R490): the PSEs start again from OFF, into DETECT where EN is set. -/
def phyIslandReset (s : State) (k : Nat) : State :=
  s.each ((List.range 8).map (fun j => 8 * k + j)) (fun n t =>
    let t := pseMove (t.setBit (Reg.spTdrStat n) 0 false) n 0 false (t.phy n).dis
    if t.bit (Reg.spPodlCtrl n) 0 then pseMove t n 1 false (t.phy n).dis else t)

end Sys2Proof.Machine
end

