-- ==== Sys2Proof/Machine/Gates.lean ====
section
/-! DEFINITION. Line rates and the fit of a frame before its gate closes (R71, R170, R322, R354). -/

namespace Sys2Proof.Machine

/-- The mode of an uplink: values 5 to 7 act as 0 (R354). -/
def ulMode (s : State) (u : Nat) : Nat := let m := s.fld (Reg.ulUlCtrl u) 0 3; if 4 < m then 0 else m

/-- The time of one byte at an uplink's line rate, in ps; 0 for none (R354). -/
def ulBytePs (s : State) (u : Nat) : Nat :=
  match ulMode s u with
  | 1 => 320
  | 2 => 800
  | 3 => 8000
  | 4 => match s.fld (Reg.ulUlStat u) 4 2 with
    | 0 => 800000
    | 1 => 80000
    | _ => 8000
  | _ => 0

/-- The time of one byte at a wired port's line rate, in ps; 0 for a port without a line rate (R170). A stall port is judged
at the mode that PHY_LAT shows: the mode in use or the last in use since reset, else 10BASE-T1L. -/
def bytePs (s : State) (p : Nat) : Nat :=
  if p < 64 then
    if phyMode s p = 0 then 0 else if s.regN (Reg.spPhyLat p) = spLat 2 then 80000 else 800000
  else ulBytePs s (p - 64)

/-- How long traffic class `tc` stays open from entry `e` on, over `n` entries; none where it stays open through all. -/
def runFrom (g : Img) (p tc : Nat) : Nat → Nat → Option Nat
  | 0, _ => none
  | n + 1, e =>
    if nbits (lockGates g p e) tc 1 = 0 then some 0
    else (runFrom g p tc n ((e + 1) % max 1 (lockEntries g p))).map (fun r => lockInterval g p e + r)

/-- The port's hand-over instant to the next generation, once it is known (R71, R91): the one pending, or that of the armed
slot. -/
def handInstant (s : State) (p : Nat) : Option Nat :=
  match (s.player p).hand with
  | some h => some h
  | none => match armedSlot s with
    | none => none
    | some k =>
      let g := slotImg s k
      let r := lockRec g p
      if iFld g r 15 1 = 0 then some s.gen.tgtDt
      else some (handDt s.gen.tgtDt (i32 g (r + 8) + 2 ^ 32 * i32 g (r + 12)) (lockCycle g p))

/-- The time that a frame of `len` bytes takes on the wire with its preamble and gap, in ns. -/
def wireNs (s : State) (p len : Nat) : Nat := ceilDiv ((len + 20) * bytePs s p) 1000

/-- How long before the DT of a gate change the MAC of port `p` takes it (R323). -/
def macLead (s : State) (p : Nat) : Nat := s.fld (if p < 64 then Reg.spPhyLat p else Reg.ulPhyLat (p - 64)) 16 16

/-- The lock schedule that port `p` plays at DT `d`, from now on: its slot and its start (R91, R92). -/
def schedAt (s : State) (p d : Nat) : Option (Nat × Nat) :=
  let own := (s.player p).slot.map (fun k => (k, (s.player p).base))
  match handInstant s p with
  | none => own
  | some h =>
    if d < h then own else (if (s.player p).hand.isSome then curSlot s else armedSlot s).map (fun k => (k, h))

/-- How long a gate of port `p` that is open at DT `d` stays open from there; none where it never closes. -/
def openRun (s : State) (p tc d : Nat) : Option Nat :=
  match schedAt s p d with
  | none => some 0
  | some (k, b) =>
    let g := slotImg s k
    let (e, left) := coverAt g p b d
    if nbits (lockGates g p e) tc 1 = 0 then some 0
    else (runFrom g p tc (lockEntries g p - 1) ((e + 1) % max 1 (lockEntries g p))).map (fun r => left + r)

/-- A frame of `len` bytes of class `tc` that its MAC starts at the DT `start` fits at the MDI (R71, R323); a port without a line
rate takes every fit as met (R170). -/
def fits (s : State) (p tc len start : Nat) : Bool :=
  let d := s.dt + macLead s p
  decide (bytePs s p = 0) ||
    ((match openRun s p tc d with
      | none => true
      | some r => decide (start - s.dt + wireNs s p len ≤ r)) &&
     (match handInstant s p with
      | none => true
      | some h => decide (h ≤ d) || decide (max start s.dt + macLead s p + wireNs s p len ≤ h)))

/-- Gate `tc` of port `p` is open for its MAC, which takes each change PHY_LAT.TX ahead of the DT of the entry, and for the traffic
manager (R50, R170, R323). -/
def gateOpen (s : State) (p tc : Nat) : Bool :=
  !islInReset s 6 && islPowered s 6 && islUp s (portIsland p) &&
    (match schedAt s p (s.dt + macLead s p) with
      | none => false
      | some (k, b) => decide (nbits (lockGates (slotImg s k) p (coverAt (slotImg s k) p b (s.dt + macLead s p)).1) tc 1 = 1))

end Sys2Proof.Machine
end

