-- ==== Sys2Proof/Machine/Rings.lean ====
section
/-! DEFINITION. Descriptor rings (R364 to R369, R410, R412, R413), shared by the uplinks' direct rings and the CPU port's
rings: memory as a DMA sees it, transmit descriptors and their checks, segmentation, and receive descriptors. -/

namespace Sys2Proof.Machine

/-- A DMA may access `n` bytes at an address: configured DRAM outside the secure range (R369, R377, R463) or, where the ring
may lie there, the L2 window. -/
def dmaOk (s : State) (l2 : Bool) (a n : Nat) : Bool :=
  (decide (0x800000000 ≤ a) && decide (a - 0x800000000 + n ≤ dramCap s) && !secureMeets s a n) ||
    (l2 && decide (0x10000000 ≤ a) && decide (a - 0x10000000 + n ≤ l2Size s))

/-- A DMA access that got an error response: one that hit the secure range sets SECURE_VIOL (R463). -/
def dmaFail (s : State) (a n : Nat) : State :=
  if decide (0x800000000 ≤ a) && decide (a - 0x800000000 + n ≤ dramCap s) && secureMeets s a n then
    s.raise Reg.secIrqRaw 4
  else s

/-- A DMA access of the user of a DRAM port completes without an error response (R369, R388, R393). -/
def dmaGood (s : State) (l2 : Bool) (a n : Nat) (write : Bool) : Bool :=
  dmaOk s l2 a n && (decide (a < 0x800000000) || (dramFault s (a - 0x800000000) n write).isNone)

/-- The traffic of a DMA access by the user of DRAM port `q`; the L2 window is not DRAM. The user of port 0 is the segmentation DMA,
initiator 9, whose lines the performance counters see (R423). -/
def dmaUse (s : State) (q a n : Nat) (write : Bool) : State :=
  if 0x800000000 ≤ a then
    dramUse (if q = 0 then pmuLines s 9 4 a n write else s) q (a - 0x800000000) n write
  else s

/-- Bytes as a DMA reads them. -/
def dmaRead (s : State) (a n : Nat) : List Byte :=
  if 0x800000000 ≤ a then s.dramRead (a - 0x800000000) n else memRead s.l2 (a - 0x10000000) n

/-- Bytes as a DMA writes them over DRAM port `q`; an access that gets an error response is not written. -/
def dmaWrite (s : State) (q : Nat) (l2 : Bool) (a : Nat) (bs : List Byte) : State :=
  if dmaOk s l2 a bs.length = false then dmaFail s a bs.length
  else
    let t := dmaUse s q a bs.length true
    if dmaGood s l2 a bs.length true = false then t
    else if 0x800000000 ≤ a then t.dramWrite (a - 0x800000000) bs
    else { t with l2 := memWrite t.l2 (a - 0x10000000) bs }

/-- A ring: its registers, the size of a descriptor, whether it may lie in the L2 window, and the DRAM port of its DMA. -/
structure Ring where
  base : Nat
  size : Nat
  head : Nat
  tail : Nat
  bufLen : Nat
  bytes : Nat
  l2 : Bool
  port : Nat
deriving DecidableEq, Repr

/-- The address of descriptor `i` of a ring. -/
def ringAt (r : Ring) (i : Nat) : Nat := r.base + r.bytes * (i % max 1 r.size)

/-- Word `k` of descriptor `i`. -/
def descWord (s : State) (r : Ring) (i k : Nat) : Nat := leAt (dmaRead s (ringAt r i + 4 * k) 4) 0 4

/-- The device owns descriptor `i`: it lies before TAIL and has OWN = 1 (R364). -/
def descOwned (s : State) (r : Ring) (i : Nat) : Bool := decide (nbits (descWord s r i 2) 31 1 = 1)

/-- The descriptors of the frame at HEAD, up to EOF, none while the device does not own them all (R364, R365). -/
def frameDescs (s : State) (r : Ring) : Nat → Nat → Option (List Nat)
  | 0, _ => none
  | n + 1, i =>
    if i % max 1 r.size = r.tail % max 1 r.size then none
    else if descOwned s r i = false then none
    else if nbits (descWord s r i 2) 16 1 = 1 then some [i]
    else (frameDescs s r n (i + 1)).map (fun l => i :: l)

/-- The buffer address of a descriptor: ADDR_HI and ADDR_LO. -/
def descAddr (s : State) (r : Ring) (i : Nat) : Nat := descWord s r i 0 + 2 ^ 32 * nbits (descWord s r i 1) 0 8

/-- LEN of a transmit descriptor. -/
def descLen (s : State) (r : Ring) (i : Nat) : Nat := nbits (descWord s r i 2) 0 16

/-- The TCP or UDP header of a frame's headers (R366): where the IP header lies, its version, and where the L4 header lies
with its protocol; none where the headers are not as R366 requires. -/
def segHeads (b : List Byte) (hdr : Nat) : Option (Nat × Nat × Nat × Nat) :=
  let tag := fun o => decide (beAt b o 2 = 0x8100) || decide (beAt b o 2 = 0x88A8)
  let ty := if tag 12 then (if tag 16 then 20 else 16) else 12
  let ip := ty + 2
  let found : Option (Nat × Nat × Nat) :=
    if beAt b ty 2 = 0x0800 ∧ byteAt b ip = 0x45 then some (4, ip + 20, byteAt b (ip + 9))
    else if beAt b ty 2 = 0x86DD ∧ byteAt b ip / 16 = 6 then some (6, ip + 40, byteAt b (ip + 6))
    else none
  match found with
  | none => none
  | some (v, l4, pr) =>
    let fin := if pr = 6 then l4 + 4 * (byteAt b (l4 + 12) / 16) else l4 + 8
    if (pr = 6 ∨ pr = 17) ∧ fin = hdr ∧ (pr = 17 ∨ 20 ≤ hdr - l4) ∧ hdr ≤ b.length then some (ip, v, l4, pr) else none

/-- A transmit descriptor's must-be-0 bits are 0, and its flags agree (R364, R365 BAD_FLAGS). -/
def flagsOk (s : State) (r : Ring) (cpu : Bool) (i : Nat) : Bool :=
  let w1 := descWord s r i 1
  let w2 := descWord s r i 2
  decide (nbits w1 30 2 = 0) && decide (nbits w2 20 11 = 0) && decide (nbits (descWord s r i 3) 20 12 = 0) &&
    !(decide (nbits w2 17 1 = 1) && decide (nbits w2 19 1 = 1)) && !(cpu && decide (nbits w2 18 1 = 1))

/-- The STATUS of the checks of R365, in the order of its table; 0 where all pass. `limit` is the largest frame. -/
def txCheck (s : State) (r : Ring) (cpu : Bool) (limit : Nat) (l : List Nat) (dmaError : Bool) : Nat :=
  let i := l.headD 0
  let w1 := descWord s r i 1
  let seg := decide (nbits (descWord s r i 2) 19 1 = 1)
  let hdr := nbits w1 8 8
  let mss := nbits w1 16 14
  let total := (l.map (descLen s r)).sum
  let first := dmaRead s (descAddr s r i) (descLen s r i)
  if l.any (fun i => decide (descLen s r i = 0)) then 2
  else if l.any (fun i => decide (r.bufLen < descLen s r i)) then 3
  else if limit < (if seg then hdr + mss + 4 else total + 4) then 4
  else if seg && (decide (hdr < 14) || decide (254 < hdr) || decide (mss < 64) || decide (descLen s r i < hdr) ||
      (segHeads first hdr).isNone) then 5
  else if 64 < l.length ∨ 262144 < (if seg then total - hdr else total) then 6
  else if !l.all (flagsOk s r cpu) then 7
  else if dmaError || l.any (fun i => !dmaGood s r.l2 (descAddr s r i) (descLen s r i) false) then 8
  else 0

/-- The bytes of a frame's buffers. -/
def gather (s : State) (r : Ring) (l : List Nat) : List Byte :=
  l.flatMap (fun i => dmaRead s (descAddr s r i) (descLen s r i))

/-- A payload cut into segments of MSS bytes (R366), as (offset, bytes). -/
def cutSegs (mss : Nat) : Nat → Nat → List Byte → List (Nat × List Byte)
  | 0, _, _ => []
  | n + 1, off, b => if b.length ≤ mss then [(off, b)] else (off, b.take mss) :: cutSegs mss n (off + mss) (b.drop mss)

/-- The checksum over a pseudo-header and an L4 segment. -/
def l4Sum (b : List Byte) (ip v l4 pr : Nat) : Nat :=
  let len := b.length - l4
  let pseudo := if v = 4 then words16 b (ip + 12) 8 else words16 b (ip + 8) 32
  let body := sliceB b l4 len
  0xFFFF - sum16 (pr :: len % 65536 :: (pseudo ++ words16 (body ++ [0]) 0 (len + len % 2)))

/-- One segment: the headers with the fields of R366 updated, and its part of the payload. -/
def segFrame (h : List Byte) (ip v l4 pr k : Nat) (last : Bool) (off : Nat) (body : List Byte) : List Byte :=
  let b := h ++ body
  let b := if v = 4 then
      let b := setBytes b (ip + 2) (beBytes 2 (b.length - ip))
      let b := setBytes b (ip + 4) (beBytes 2 ((beAt h (ip + 4) 2 + k) % 65536))
      let b := setBytes b (ip + 10) [0, 0]
      setBytes b (ip + 10) (beBytes 2 (0xFFFF - sum16 (words16 b ip 20)))
    else setBytes b (ip + 4) (beBytes 2 (b.length - ip - 40))
  if pr = 6 then
    let b := setBytes b (l4 + 4) (beBytes 4 ((beAt h (l4 + 4) 4 + off) % 2 ^ 32))
    let f := byteAt h (l4 + 13)
    let f := if last then f else f - f % 2 - 4 * nbits f 2 1 - 8 * nbits f 3 1
    let f := if k = 0 then f else f % 128
    let b := setBytes (setBytes b (l4 + 13) [BitVec.ofNat 8 f]) (l4 + 16) [0, 0]
    setBytes b (l4 + 16) (beBytes 2 (l4Sum b ip v l4 pr))
  else
    let b := setBytes (setBytes b (l4 + 4) (beBytes 2 (b.length - l4))) (l4 + 6) [0, 0]
    let c := l4Sum b ip v l4 pr
    setBytes b (l4 + 6) (beBytes 2 (if c = 0 then 0xFFFF else c))

/-- The segments of a frame with SEG = 1 (R366). -/
def segment (b : List Byte) (hdr mss : Nat) : List (List Byte) :=
  match segHeads b hdr with
  | none => [b]
  | some (ip, v, l4, pr) =>
    let parts := cutSegs mss (b.length + 1) 0 (b.drop hdr)
    parts.mapIdx (fun k p => segFrame (b.take hdr) ip v l4 pr k (decide (k + 1 = parts.length)) p.1 p.2)

/-- A frame with four bytes in the place of its FCS, which the transmit MAC computes (R347). -/
def withFcs (b : List Byte) : List Byte := b ++ leBytes 4 (crc32 b)

/-- What the checks of R365 make of the frame at HEAD: its descriptors with the STATUS of a failed check, or the frames to
send. -/
def txFetch (s : State) (r : Ring) (cpu : Bool) (limit : Nat) (dmaError : Bool) : Option (List Nat × Nat × DirFrame) :=
  match frameDescs s r r.size r.head with
  | none => none
  | some l =>
    let i := l.headD 0
    let w1 := descWord s r i 1
    let w2 := descWord s r i 2
    let st := txCheck s r cpu limit l dmaError
    let b := if st = 0 then gather s r l else []
    let segs := if nbits w2 19 1 = 1 then segment b (nbits w1 8 8) (nbits w1 16 14) else [b]
    some (l, st, { segs := segs.map withFcs, tsReq := decide (nbits w2 17 1 = 1), cookie := nbits (descWord s r i 3) 0 16,
                   clear := decide (nbits w2 18 1 = 1), count := l.length })

/-- The traffic of a fetch: each descriptor, and its buffer where the frame's checks let the DMA read it (R365). -/
def fetchUse (s : State) (r : Ring) (l : List Nat) (bufs : Bool) : State :=
  s.each l (fun i t =>
    let t := dmaUse t r.port (ringAt r i) r.bytes false
    if bufs && dmaOk s r.l2 (descAddr s r i) (descLen s r i) then dmaUse t r.port (descAddr s r i) (descLen s r i) false else t)

/-- The first buffer of a frame whose read gets an error response. -/
def fetchBad (s : State) (r : Ring) (l : List Nat) : Option Nat :=
  (l.find? (fun i => !dmaGood s r.l2 (descAddr s r i) (descLen s r i) false)).map (descAddr s r)

/-- A transmit descriptor written back with OWN = 0 and a STATUS (R364, R365). -/
def txBack (s : State) (r : Ring) (status i : Nat) : State :=
  let w2 := descWord s r i 2
  let w3 := descWord s r i 3
  dmaWrite s r.port r.l2 (ringAt r i + 8) (leBytes 4 (w2 % 2 ^ 31) ++ leBytes 4 (w3 % 65536 + 65536 * status))

/-- `n` transmit descriptors from HEAD on written back. -/
def txBackAll (s : State) (r : Ring) (status n : Nat) : State :=
  s.each (List.range n) (fun k t => txBack t r status (r.head + k))

/-- How many receive descriptors the device owns from `i` on, at most `n`. -/
def ownedRx (s : State) (r : Ring) : Nat → Nat → Nat
  | 0, _ => 0
  | n + 1, i =>
    if i % max 1 r.size = r.tail % max 1 r.size ∨ descOwned s r i = false then 0 else 1 + ownedRx s r n (i + 1)

/-- The parts of a frame that go to receive buffers of BUF_LEN bytes (R368). -/
def rxParts (len : Nat) : Nat → List Byte → List (List Byte)
  | 0, _ => []
  | n + 1, b => if b.length ≤ len then [b] else b.take len :: rxParts len n (b.drop len)

/-- The buffers a received frame needs. -/
def rxNeed (r : Ring) (b : List Byte) : List (List Byte) := rxParts (max 1 r.bufLen) (b.length + 1) b

/-- Buffers written from HEAD on, until one gets an error response: whether all were written (R368, R369). -/
def rxFill (s : State) (r : Ring) : Nat → List (List Byte) → Bool × State
  | _, [] => (true, s)
  | i, p :: rest =>
    let a := descAddr s r i
    if dmaGood s r.l2 a p.length true then rxFill (dmaWrite s r.port r.l2 a p) r (i + 1) rest
    else (false, dmaWrite s r.port r.l2 a p)

end Sys2Proof.Machine
end

