-- ==== Sys2Proof/Machine/Mac.lean ====
section
/-! DEFINITION. The MACs of the wired ports (R322 to R325, R329, R345 to R353, R537), with MACsec (R358 to R362), the
transparent clock (R357) and the direct rings (R363 to R369) of the uplinks. -/

namespace Sys2Proof.Machine

/-- The MAC of a wired port. -/
def State.mac (s : State) (p : Nat) : PortState := bankGet (fun _ => {}) s.port p

/-- The MAC of a wired port replaced. -/
def State.setMac (s : State) (p : Nat) (x : PortState) : State := { s with port := bankSet (fun _ => {}) s.port p x }

/-- An uplink. -/
def State.uplink (s : State) (u : Nat) : UlState := bankGet (fun _ => {}) s.ul u

/-- An uplink replaced. -/
def State.setUplink (s : State) (u : Nat) (x : UlState) : State := { s with ul := bankSet (fun _ => {}) s.ul u x }

/-- A register that stall ports and uplinks both have. -/
def portReg (p : Nat) (sp ul : Nat → Nat) : Nat := if p < 64 then sp p else ul (p - 64)

/-- The ingress pound of a wired port (R33). -/
def inPound (p : Nat) : Nat := if p < 64 then p / 8 else 16 + (p - 64)

/-- The egress pound of a wired port (R33). -/
def outPound (p : Nat) : Nat := if p < 64 then 8 + p / 8 else 18 + (p - 64)

/-- The link of a wired port is up. -/
def portLink (s : State) (p : Nat) : Bool := if p < 64 then spLink s p else s.bit (Reg.ulUlStat (p - 64)) 0

/-- A MAC event: 0 TSQ_LOST, 1 RX_OVF, 2 TX_UNDERRUN. -/
def macEvent (s : State) (p i : Nat) : State :=
  if p < 64 then s.raise (Reg.spMacIrqRaw p) i else s.raise (Reg.ulIrqRaw (p - 64)) (i + 1)

/-- One of the counters that stall ports and uplinks both have, moved on by one. -/
def macCount (s : State) (p : Nat) (sp ul : Nat → Nat) : State := s.inc (portReg p sp ul)

/-- LINKDOWN_HOLD (R329). -/
def holds (s : State) (p : Nat) : Bool := s.bit (portReg p Reg.spPhyCtrl Reg.ulUlCtrl) (if p < 64 then 7 else 5)

/-- A port may send (R329): its link is up and MAC_CTRL.TX_EN is 1. -/
def maySend (s : State) (p : Nat) : Bool := portLink s p && s.bit (portReg p Reg.spMacCtrl Reg.ulMacCtrl) 1

/-- PHY_LAT of a wired port for the mode in use: RX and TX in ns (R322). -/
def phyLat (s : State) (p : Nat) : Nat × Nat :=
  let r := portReg p Reg.spPhyLat Reg.ulPhyLat
  (s.fld r 0 16, s.fld r 16 16)

/-- The accuracy of a wired port's timestamps in ns (R322). -/
def stampAcc (s : State) (p : Nat) : Nat :=
  if p < 64 then (if s.regN (Reg.spPhyLat p) = spLat 2 then 16 else 40)
  else match ulMode s (p - 64) with
    | 3 => 8
    | 4 => if bytePs s p = 8000 then 8 else 40
    | _ => 4

/-- The time of `n` bytes on the wire, in ns. -/
def byteNs (s : State) (p n : Nat) : Nat := ceilDiv (n * bytePs s p) 1000

/-- A timestamp as the device computes it: the DT, with an error within the accuracy of the mode (R324). -/
def stamped (s : State) (p at_ : Nat) (err : Int) : Nat :=
  let a : Int := stampAcc s p
  ((at_ : Int) + max (-a) (min a err)).toNat

/-! ### Headers -/

/-- Where a frame's EtherType lies after up to two VLAN tags. -/
def etherAt (b : List Byte) : Nat :=
  let tag := fun o => decide (beAt b o 2 = 0x8100) || decide (beAt b o 2 = 0x88A8)
  if tag 12 then (if tag 16 then 20 else 16) else 12

/-- A frame's EtherType after up to two VLAN tags. -/
def etherType (b : List Byte) : Nat := beAt b (etherAt b) 2

/-- The EtherType matches one of four enabled filter registers. -/
def filtered (s : State) (r : Nat → Nat) (ty : Nat) : Bool :=
  (List.range 4).any (fun i => s.bit (r i) 16 && decide (s.fld (r i) 0 16 = ty))

/-- The FCS of a frame is right (R345). -/
def fcsOk (b : List Byte) : Bool := decide (b.drop (b.length - 4) = leBytes 4 (crc32 (b.take (b.length - 4))))

/-- A frame with the FCS over every byte but the last four in their place, or with its inverse (R347). -/
def sealFcs (b : List Byte) (inverse : Bool) : List Byte :=
  let c := crc32 (b.take (b.length - 4))
  b.take (b.length - 4) ++ leBytes 4 (if inverse then 0xFFFFFFFF - c else c)

/-! ### MACsec -/

/-- The SCI of a register pair, byte 0 first. -/
def sciReg (s : State) (lo : Nat) : List Byte := leBytes 4 (s.regN lo) ++ leBytes 4 (s.regN (lo + 4))

/-- SEC_TX_PN shows the next PN of SA CUR_AN. -/
def reviewTxPn (s : State) (u : Nat) : State :=
  s.setNat (Reg.ulSecTxPn u) (match bankGet (fun _ => none) (s.uplink u).txSa (s.fld (Reg.ulSecTxSa u) 0 2) with
    | none => 0
    | some a => a.next % 2 ^ 32)

/-- A transmit SA replaced. -/
def setTxSa (s : State) (u an : Nat) (a : Option Sa) : State :=
  let x := s.uplink u
  reviewTxPn (s.setUplink u { x with txSa := bankSet (fun _ => none) x.txSa an a }) u

/-- The transmit SA CUR_AN. -/
def curSa (s : State) (u : Nat) : Option Sa :=
  bankGet (fun _ => none) (s.uplink u).txSa (s.fld (Reg.ulSecTxSa u) 0 2)

/-- A receive SA replaced. -/
def setRxSa (s : State) (u k : Nat) (a : Option Sa) : State :=
  let x := s.uplink u
  s.setUplink u { x with rxSa := bankSet (fun _ => none) x.rxSa k a }

/-- The effect of SEC_SA_CMD = 1 (R362): the SA that SEC_SA_CTRL names is installed with the key and PN, or emptied; the
current transmit SA cannot be. A receive SA's PN becomes its lowest acceptable PN. -/
def secCmd (s : State) (u : Nat) : State :=
  let an := s.fld (Reg.ulSecSaCtrl u) 0 2
  let sc := s.fld (Reg.ulSecSaCtrl u) 2 2
  let rx := s.bit (Reg.ulSecSaCtrl u) 4
  let pn := s.regN (Reg.ulSecSaPn u)
  if s.bit (Reg.ulSecSaCtrl u) 5 then
    if rx then setRxSa (s.setNat (Reg.ulSecSaStat u) 0) u (4 * sc + an) none
    else if s.fld (Reg.ulSecTxSa u) 0 2 = an then s.setNat (Reg.ulSecSaStat u) 16
    else setTxSa (s.setNat (Reg.ulSecSaStat u) 0) u an none
  else
    let key := (List.range 8).flatMap (fun k => leBytes 4 (s.regN (Reg.ulSecKeyData u k)))
    let s := s.each (List.range 8) (fun k t => t.setReg (Reg.ulSecKeyData u k) 0)
    let s := s.setNat (Reg.ulSecSaStat u) 0
    if rx then setRxSa s u (4 * sc + an) (some ⟨key, pn + s.regN (Reg.ulSecWindow u)⟩)
    else setTxSa s u an (some ⟨key, pn⟩)

/-- SEC_SA_INSTALL (R362). -/
def execSecSaInstall (time : Nat) (init : Init) (u : Fin 2) (s : State) : Host.Outcome State Fault Refusal :=
  let t := s.at time
  done s (busDo t init (Reg.ulSecSaCmd u) 4 (some 1) (fun t => secCmd t u))

/-- SEC_SA_REMOVE (R362): the same command with SEC_SA_CTRL.REMOVE = 1. -/
def execSecSaRemove (time : Nat) (init : Init) (u : Fin 2) (s : State) : Host.Outcome State Fault Refusal :=
  let t := s.at time
  done s (busDo t init (Reg.ulSecSaCmd u) 4 (some 1) (fun t => secCmd t u))

/-- What MACsec makes of a received frame without its FCS (R360): it passes, as it is or decrypted with SECURED; it is
dropped; or its ICV is wrong. -/
inductive SecRx
  | pass (b : List Byte) (secured : Bool)
  | drop
  | badIcv
deriving DecidableEq, Repr

/-- A SecTAG is well formed (IEEE 802.1AE): version 0, an SCI only without ES and SCB, a PN other than 0, and a short length
that fits. -/
def secTagOk (b : List Byte) (tagLen : Nat) : Bool :=
  let tci := byteAt b 14
  let sl := byteAt b 15
  let body := b.length - 12 - tagLen - 16
  decide (nbits tci 7 1 = 0) && !(decide (nbits tci 5 1 = 1) && (decide (nbits tci 6 1 = 1) || decide (nbits tci 4 1 = 1))) &&
    decide (sl < 48) && decide (beAt b 16 4 ≠ 0) && decide (12 + tagLen + 16 ≤ b.length) &&
    (if sl = 0 then decide (48 ≤ body) else decide (body = sl))

/-- The receive checks of R360, with their counters. -/
def secReceive (s : State) (u : Nat) (b : List Byte) : SecRx × State :=
  let mode := s.fld (Reg.ulSecCtrl u) 0 2
  if s.bit (Reg.ulUlCtrl u) 7 = false ∨ mode = 0 then (.pass b false, s)
  else if beAt b 12 2 ≠ 0x88E5 then
    if filtered s (Reg.ulSecBypass u) (beAt b 12 2) then (.pass b false, s)
    else if mode = 1 then (.pass b false, s.inc (Reg.ulSecRxUntagged u))
    else (.drop, s.inc (Reg.ulSecRxUntagged u))
  else
    let sc := decide (nbits (byteAt b 14) 5 1 = 1)
    let tagLen := if sc then 16 else 8
    if secTagOk b tagLen = false then (.drop, s.inc (Reg.ulSecRxBadTag u))
    else
      let an := nbits (byteAt b 14) 0 2
      let sci := if sc then sliceB b 20 8 else sliceB b 6 6 ++ [0, 1]
      let found := (List.range 4).findSome? (fun k =>
        if sciReg s (Reg.ulSecRxSciLo u k) = sci then
          (bankGet (fun _ => none) (s.uplink u).rxSa (4 * k + an)).map (fun a => (4 * k + an, a))
        else none)
      match found with
      | none => (.drop, s.inc (Reg.ulSecRxNosa u))
      | some (k, a) =>
        let pn := beAt b 16 4
        if s.bit (Reg.ulSecCtrl u) 3 && decide (pn < a.next - s.regN (Reg.ulSecWindow u)) then
          (.drop, s.inc (Reg.ulSecRxLate u))
        else
          let aad := b.take (12 + tagLen)
          let enc := decide (nbits (byteAt b 14) 3 1 = 1)
          let ct := b.drop (12 + tagLen)
          let body := ct.take (ct.length - 16)
          let plain := if enc then Config.gcmOpen a.key (sci ++ beBytes 4 pn) aad ct
            else (Config.gcmOpen a.key (sci ++ beBytes 4 pn) (aad ++ body) (ct.drop (ct.length - 16))).map (fun _ => body)
          match plain with
          | none => (.badIcv, s.inc (Reg.ulSecRxBadIcv u))
          | some m => (.pass (b.take 12 ++ m) true, setRxSa s u k (some { a with next := max a.next (pn + 1) }))

/-- The SA and PN that secure the next frame taken (R361); none where no PN is left or no SA is installed: the frame is
dropped, SEC_TX_PN_EXH counts it and SEC_EXH is set. -/
def takePn (s : State) (u : Nat) : Option (Nat × Nat) × State :=
  let an := s.fld (Reg.ulSecTxSa u) 0 2
  match curSa s u with
  | none => (none, (s.inc (Reg.ulSecTxPnExh u)).raise (Reg.ulIrqRaw u) 5)
  | some a =>
    if 2 ^ 32 ≤ a.next then (none, (s.inc (Reg.ulSecTxPnExh u)).raise (Reg.ulIrqRaw u) 5)
    else
      let s := setTxSa s u an (some { a with next := a.next + 1 })
      let s := if a.next + 1 = 0xC0000000 then s.raise (Reg.ulIrqRaw u) 4 else s
      let nx := s.fld (Reg.ulSecTxSa u) 4 2
      let roll := decide (a.next = 0xFFFFFFFF) && s.bit (Reg.ulSecTxSa u) 8 &&
        (bankGet (fun _ => none) (s.uplink u).txSa nx).isSome
      let s := if roll then reviewTxPn (s.setFlds (Reg.ulSecTxSa u) [(0, 2, nx), (8, 1, 0)]) u else s
      (some (an, a.next), s)

/-- A frame (without FCS) secured (R359): DA, SA and SecTAG in the clear, the rest encrypted, and the ICV. -/
def secSeal (s : State) (u an pn : Nat) (b : List Byte) : List Byte :=
  match bankGet (fun _ => none) (s.uplink u).txSa an with
  | none => b
  | some a =>
    let sci := sciReg s (Reg.ulSecTxSciLo u)
    let inc := s.bit (Reg.ulSecCtrl u) 2
    let body := b.drop 12
    let sl := if body.length < 48 then body.length else 0
    let tag := beBytes 2 0x88E5 ++ [BitVec.ofNat 8 (12 + an + 32 * bnat inc), BitVec.ofNat 8 sl] ++ beBytes 4 pn ++
      (if inc then sci else [])
    b.take 12 ++ tag ++ Config.gcmSeal a.key (sci ++ beBytes 4 pn) (b.take 12 ++ tag) body

/-! ### The transparent clock -/

/-- Where an event message lies that can be corrected, and the UDP header, 0 for none (R357). -/
def ptpAt (b : List Byte) : Option (Nat × Nat) :=
  let e := etherAt b
  let ip := e + 2
  if beAt b e 2 = 0x88F7 then some (ip, 0)
  else if beAt b e 2 = 0x0800 ∧ byteAt b ip = 0x45 ∧ byteAt b (ip + 9) = 17 ∧ beAt b (ip + 22) 2 = 319 then some (ip + 28, ip + 20)
  else none

/-- An event message that cannot be corrected: over IPv6, or IPv4 with options, at UDP port 319. -/
def ptpOther (b : List Byte) : Option Nat :=
  let e := etherAt b
  let ip := e + 2
  let hl := 4 * (byteAt b ip % 16)
  if beAt b e 2 = 0x0800 ∧ byteAt b ip / 16 = 4 ∧ 20 < hl ∧ byteAt b (ip + 9) = 17 ∧ beAt b (ip + hl + 2) 2 = 319 then
    some (ip + hl + 8)
  else if beAt b e 2 = 0x86DD ∧ byteAt b (ip + 6) = 17 ∧ beAt b (ip + 42) 2 = 319 then some (ip + 48)
  else none

/-- The uplinks with TC_EN = 1 that a frame enters or leaves by, the egress one first (R357). -/
def tcPort (s : State) (inp p : Nat) : Option Nat :=
  if 66 ≤ inp ∨ inp = p then none
  else if 64 ≤ p ∧ s.bit (Reg.ulUlCtrl (p - 64)) 6 = true then some (p - 64)
  else if 64 ≤ inp ∧ s.bit (Reg.ulUlCtrl (inp - 64)) 6 = true then some (inp - 64)
  else none

/-- The correction of R357 at egress timestamp `stamp`: the residence time in ns × 2^16 added to correctionField. -/
def tcCorrect (s : State) (f : TxFrame) (p stamp : Nat) : List Byte × State :=
  match if f.ring then none else tcPort s f.info.inPort p with
  | none => (f.data, s)
  | some u =>
    let b := f.data
    let event := fun o => decide (byteAt b o % 16 ≤ 3)
    match ptpAt b with
    | some (o, udp) =>
      if event o then
        let c := (beAt b (o + 8) 8 + (dt48diff stamp f.info.inDt * 65536 % (2 ^ 64 : Int)).toNat) % 2 ^ 64
        let b := setBytes b (o + 8) (beBytes 8 c)
        (if udp = 0 then b else setBytes b (udp + 6) [0, 0], s)
      else (b, s)
    | none => match ptpOther b with
      | none => (b, s)
      | some o => (b, if event o then s.inc (Reg.ulTcSkip u) else s)

/-! ### The direct rings -/

/-- The transmit ring of an uplink. -/
def ulTxRing (s : State) (u : Nat) : Ring :=
  { base := s.regN (Reg.ulTxRingLo u) + 2 ^ 32 * s.fld (Reg.ulTxRingHi u) 0 8, size := s.fld (Reg.ulTxRingSize u) 0 13,
    head := s.fld (Reg.ulTxHead u) 0 12, tail := s.fld (Reg.ulTxTail u) 0 12, bufLen := s.fld (Reg.ulTxBufLen u) 0 17,
    bytes := 16, l2 := false, port := 5 }

/-- The receive ring of an uplink. -/
def ulRxRing (s : State) (u : Nat) : Ring :=
  { base := s.regN (Reg.ulRxRingLo u) + 2 ^ 32 * s.fld (Reg.ulRxRingHi u) 0 8, size := s.fld (Reg.ulRxRingSize u) 0 13,
    head := s.fld (Reg.ulRxHead u) 0 12, tail := s.fld (Reg.ulRxTail u) 0 12, bufLen := s.fld (Reg.ulRxBufLen u) 0 17,
    bytes := 16, l2 := false, port := 5 }

/-- The largest frame of a port, FCS included: RX_MAXLEN, below 64 acting as 64. -/
def maxLen (s : State) (p : Nat) : Nat := max 64 (s.fld (portReg p Reg.spRxMaxlen Reg.ulRxMaxlen) 0 14)

/-- Every descriptor of the frame at HEAD of a transmit ring written back, and HEAD advanced (R364, R365). -/
def dirBack (s : State) (u status n : Nat) : State :=
  let r := ulTxRing s u
  let s := txBackAll s r status n
  (s.setNat (Reg.ulTxHead u) ((r.head + n) % max 1 r.size)).raise (Reg.ulIrqRaw u) 10

/-- A frame of the ring is finished with a STATUS: its descriptors are written back. -/
def dirDone (s : State) (u status : Nat) : State :=
  let x := s.uplink u
  match x.dir with
  | none => s
  | some d => dirBack (s.setUplink u { x with dir := none }) u status d.count

/-- DIR_TX_FETCH (R365, R366): the frame at HEAD checked, and kept to be sent or dropped whole with its STATUS. -/
def execDirTxFetch (time : Nat) (u : Fin 2) (dmaError : Bool) (s : State) : Host.Outcome State Fault Refusal :=
  let t := s.at time
  done s (if islUp t 19 = false ∨ t.bit (Reg.ulDirCtrl u) 0 = false ∨ (t.uplink u).dir.isSome = true then t
    else match txFetch t (ulTxRing t u) false (maxLen t (64 + u)) dmaError with
      | none => t
      | some (l, st, d) =>
        let t := fetchUse t (ulTxRing t u) l (decide (st = 0) || decide (st = 8))
        if st = 0 then t.setUplink u { t.uplink u with dir := some d }
        else if st = 8 then dirBack ((t.inc (Reg.ulDmaErr u)).raise (Reg.ulIrqRaw u) 7) u st l.length
        else dirBack ((t.inc (Reg.ulDescErr u)).raise (Reg.ulIrqRaw u) 6) u st l.length)

/-- DIR_TX_TAIL_WRITE (R364). -/
def execDirTxTailWrite (time : Nat) (init : Init) (u : Fin 2) (data : Word) (s : State) :
    Host.Outcome State Fault Refusal :=
  let t := s.at time
  done s (busDo t init (Reg.ulTxTail u) 4 (some data) (fun t => plainWrite t (Reg.ulTxTail u) data))

/-- An address is a base, SIZE or BUF_LEN register of a ring: the enable bit that guards it, as a register and a bit. -/
def ringGuard (a : Nat) : Option (Nat × Nat) :=
  if a = Reg.ccTxRingLo ∨ a = Reg.ccTxRingHi ∨ a = Reg.ccTxRingSize ∨ a = Reg.ccTxBufLen then some (Reg.ccCpuCtrl, 0)
  else if a = Reg.ccRxRingLo ∨ a = Reg.ccRxRingHi ∨ a = Reg.ccRxRingSize ∨ a = Reg.ccRxBufLen then some (Reg.ccCpuCtrl, 1)
  else (List.range 2).findSome? (fun u =>
    if a = Reg.ulTxRingLo u ∨ a = Reg.ulTxRingHi u ∨ a = Reg.ulTxRingSize u ∨ a = Reg.ulTxBufLen u then
      some (Reg.ulDirCtrl u, 0)
    else if a = Reg.ulRxRingLo u ∨ a = Reg.ulRxRingHi u ∨ a = Reg.ulRxRingSize u ∨ a = Reg.ulRxBufLen u then
      some (Reg.ulDirCtrl u, 1)
    else none)

/-- The effect of a write to a ring's base, SIZE or BUF_LEN: only while its enable is 0 (R364). -/
def ringConfigSet (s : State) (a : Nat) (d : Word) : State :=
  match ringGuard a with
  | none => s
  | some (r, i) => if s.bit r i then s else plainWrite s a d

/-- RING_CONFIG_WRITE (R364): a base, SIZE or BUF_LEN of an uplink's or the CPU port's ring (R410). -/
def execRingConfigWrite (time : Nat) (init : Init) (addr : Nat) (data : Word) (s : State) :
    Host.Outcome State Fault Refusal :=
  let t := s.at time
  done s (if (ringGuard addr).isSome then busDo t init addr 4 (some data) (fun t => ringConfigSet t addr data) else t)

/-- One receive descriptor of an uplink's ring written back (R364). -/
def ulRxDesc (s : State) (r : Ring) (i len : Nat) (first eof secured nogen : Bool) (ts : Nat) : State :=
  let w1 := descWord s r i 1
  let ts := if first then ts else 0
  let w2 := len % 65536 + 65536 * bnat first + 2 ^ 17 * bnat eof + 2 ^ 18 * bnat secured + 2 ^ 19 * bnat nogen
  dmaWrite s r.port false (ringAt r i + 4)
    (leBytes 4 (w1 % 65536 + 65536 * (ts / 2 ^ 32 % 65536)) ++ leBytes 4 w2 ++ leBytes 4 (ts % 2 ^ 32))

/-- DIR_RX_FRAME (R363, R368, R369): a frame without its FCS written to the receive ring, or dropped. -/
def dirReceive (s : State) (u : Nat) (b : List Byte) (secured : Bool) (ts : Nat) : State :=
  let r := ulRxRing s u
  let parts := rxNeed r b
  let have_ := ownedRx s r parts.length r.head
  let (ok, t) := rxFill s r r.head (parts.take have_)
  if ok = false then (t.inc (Reg.ulDmaErr u)).raise (Reg.ulIrqRaw u) 7
  else if have_ < parts.length then (t.inc (Reg.ulRxRingOvf u)).raise (Reg.ulIrqRaw u) 8
  else
    let n := parts.length
    let nogen := (curSlot s).isNone
    let t := t.each (List.range n) (fun k t =>
      ulRxDesc t r (r.head + k) (parts.getD k []).length (decide (k = 0)) (decide (k + 1 = n)) secured nogen ts)
    (t.setNat (Reg.ulRxHead u) ((r.head + n) % max 1 r.size)).raise (Reg.ulIrqRaw u) 9

/-- A received frame goes to the ring (R363). -/
def toRing (s : State) (u : Nat) (b : List Byte) : Bool :=
  s.bit (Reg.ulDirCtrl u) 1 &&
    (filtered s (Reg.ulDirFilt u) (etherType b) || ((curSlot s).isNone && s.bit (Reg.ulDirCtrl u) 2))

/-! ### Receiving -/

/-- The bytes that wait in a receive buffer. -/
def rxHeld (s : State) (p : Nat) : Nat := ((s.mac p).rxq.map (fun w => w.data.length)).sum

/-- The receive buffer of a wired port (R346). -/
def rxBuffer (p : Nat) : Nat := if p < 64 then 2048 else 16384

/-- A port may write its next word to its ingress pound: there is room, no other port's packet is open there, and the octet
does not sleep (R474). -/
def rxRoom (s : State) (p : Nat) : Bool :=
  decide (s.fld (Reg.topIslStat (portIsland p)) 8 2 = 0) && poundRoom s (inPound p) && ((s.mac p).rxMid || !(s.pound (inPound p)).midW)

/-- The words of a receive buffer written to the ingress pound as far as it takes them. -/
def rxDrain (s : State) (p : Nat) : Nat → State
  | 0 => s
  | n + 1 =>
    let x := s.mac p
    match x.rxq with
    | [] => s
    | w :: r =>
      if rxRoom s p then rxDrain (poundPush (s.setMac p { x with rxq := r, rxMid := !w.last }) (inPound p) w) p n else s

/-- Every port's receive buffer that ends in pound `q` drained. -/
def rxDrainAll (s : State) (q : Nat) : State :=
  let ports := if q < 8 then (List.range 8).map (fun j => 8 * q + j) else if q = 16 then [64] else if q = 17 then [65] else []
  s.each ports (fun p t => rxDrain t p (t.mac p).rxq.length)

/-- RX_OVF (R346). -/
def rxOverflow (s : State) (p : Nat) : State := macEvent (macCount s p Reg.spRxOvf Reg.ulRxOvf) p 1

/-- A frame's words handed to the receive buffer and the pound (R345, R346): the pound takes what it has room for, the buffer
holds the rest, and a frame that overflows it ends with ABORT, none of its buffered words kept. -/
def rxDeliver (s : State) (p : Nat) (b : List Byte) (abort : Bool) (ts : Nat) : State × Bool :=
  let s := rxDrain s p (s.mac p).rxq.length
  if rxBuffer p < rxHeld s p + 64 then (rxOverflow s p, false)
  else
    let m : Meta := { inPort := p, inDt := ts % 2 ^ 48 }
    let ws := (packetOf s (inPound p) m b).map (fun w => if w.last then { w with abort := abort } else w)
    let before := (s.mac p).rxq
    let t := s.setMac p { s.mac p with rxq := before ++ ws }
    let t := rxDrain t p (before.length + ws.length)
    if rxHeld t p ≤ rxBuffer p then (t, true)
    else
      let x := t.mac p
      let left := before.length
      let taken := if before.isEmpty then ws.length - x.rxq.length else 0
      if taken = 0 then (rxOverflow (t.setMac p { x with rxq := x.rxq.take left }) p, false)
      else (rxOverflow (t.setMac p { x with rxq := [abortEnd] }) p, false)

/-- What the receive MAC finds of a frame (R345), in its order. -/
inductive RxCase | runt | oversize | phyErr | fcs | good
deriving DecidableEq, Repr

/-- The case of a frame: counted once, in the first that applies. -/
def rxCase (s : State) (p : Nat) (b : List Byte) (phyErr : Bool) : RxCase :=
  if b.length < 64 then .runt
  else if maxLen s p < b.length then .oversize
  else if phyErr then .phyErr
  else if fcsOk b then .good else .fcs

/-- A frame that ends with ABORT at byte `n`: nothing of it reaches a ring; RX_OVF alone counts where the buffer ends it. -/
def rxBad (s : State) (p : Nat) (b : List Byte) (ts : Nat) (sp ul : Nat → Nat) : State :=
  let (t, ok) := rxDeliver s p b true ts
  if ok then macCount t p sp ul else t

/-- A good frame counted (R345, R349). -/
def rxGood (s : State) (p len : Nat) : State :=
  (s.addPair (portReg p Reg.spRxFramesLo Reg.ulRxFramesLo) 1).addPair (portReg p Reg.spRxBytesLo Reg.ulRxBytesLo) len

/-- A good frame of an uplink through MACsec (R360) to the ring (R363) or the pound. -/
def ulGood (s : State) (u : Nat) (b : List Byte) (ts : Nat) : State :=
  let p := 64 + u
  let (v, t) := secReceive s u (b.take (b.length - 4))
  match v with
  | .drop => rxGood t p b.length
  | .badIcv => (rxDeliver t p b true ts).1
  | .pass m sec =>
    if toRing t u m then rxGood (dirReceive t u m sec ts) p b.length
    else
      let (t, ok) := rxDeliver t p (if sec then withFcs m else b) false ts
      if ok then rxGood t p b.length else t

/-- A fence trigger was active on a stall port at some time between two DTs (R335). -/
def fenceDuring (s : State) (p a b : Nat) : Bool :=
  let x := s.phy p
  match x.trig with
  | some d => decide (d ≤ b)
  | none => decide (a < x.trigEnd) && decide (x.trigFrom ≤ b)

/-- A frame with an FCS error counted, and with RX_FENCE_HIT where a trigger was active during it (R335). -/
def fcsError (s : State) (p : Nat) (b : List Byte) (ts : Nat) : State :=
  let (t, ok) := rxDeliver s p b true ts
  if ok = false then t
  else
    let t := macCount t p Reg.spRxFcsErr Reg.ulRxFcsErr
    if p < 64 ∧ fenceDuring t p (ts - byteNs t p 8) (t.dt - (phyLat t p).1) = true then t.inc (Reg.spRxFenceHit p) else t

/-- The receive MAC (R345, R346, R360, R363). -/
def macReceive (s : State) (p : Nat) (b : List Byte) (phyErr : Bool) (ts : Nat) : State :=
  match rxCase s p b phyErr with
  | .runt => macCount s p Reg.spRxRunt Reg.ulRxRunt
  | .oversize => rxBad s p (b.take (maxLen s p + 1)) ts Reg.spRxOversize Reg.ulRxOversize
  | .phyErr => rxBad s p b ts Reg.spRxPhyErr Reg.ulRxPhyErr
  | .fcs => fcsError s p b ts
  | .good =>
    if p < 64 then
      let (t, ok) := rxDeliver s p b false ts
      if ok then rxGood t p b.length else t
    else ulGood s (p - 64) b ts

/-- At 25GBASE-R with Clause 74 FEC, FEC_CORR and FEC_UNCORR count the blocks that the PCS found, which the spec does not give
per frame: what they count by the end of a frame is open. -/
def fecBlocks (s : State) (p : Nat) : State :=
  if 64 ≤ p ∧ s.fld (Reg.ulUlCtrl (p - 64)) 0 3 = 1 ∧ s.bit (Reg.ulUlCtrl (p - 64)) 3 = true then
    let (a, s) := s.drawNat
    let (b, s) := s.drawNat
    (s.addRc (Reg.ulFecCorr (p - 64)) a).addRc (Reg.ulFecUncorr (p - 64)) b
  else s

/-- The ingress timestamp of a frame of `len` bytes whose last bit is at the MAC reference point now (R324). -/
def rxStamp (s : State) (p len : Nat) (err : Int) : Nat := stamped s p (s.dt - byteNs s p len - (phyLat s p).1) err

/-- MAC_RX_FRAME (R345): nothing is written or counted with RX_EN = 0, with the link down, or while the port's island is not
running. -/
def execMacRxFrame (time : Nat) (p : Fin 66) (bytes : List Byte) (phyErr : Bool) (err : Int) (s : State) :
    Host.Outcome State Fault Refusal :=
  let t := s.at time
  done s (if islUp t (portIsland p) && portLink t p && t.bit (portReg p Reg.spMacCtrl Reg.ulMacCtrl) 0 then
      macReceive (fecBlocks t p) p bytes phyErr (rxStamp t p bytes.length err)
    else t)

/-! ### Sending -/

/-- The words that wait for a transmit MAC: a stall port's transmit buffer (R537), or what is readable in an uplink's egress
pound. -/
def txQueue (s : State) (p : Nat) : List PWord := if p < 64 then (s.mac p).buf else (s.pound (outPound p)).ready

/-- The oldest word that waits for a transmit MAC taken; a word that leaves a stall port's buffer returns its credit. -/
def txTake (s : State) (p : Nat) : State :=
  if p < 64 then
    let x := s.mac p
    s.setMac p { x with buf := x.buf.drop 1, spent := x.spent - 1 }
  else eatWords s (outPound p) 1

/-- The words of the frame in hand taken as they come, up to its end word; a frame that is discarded leaves nothing. -/
def txPull (s : State) (p : Nat) : Nat → State
  | 0 => s
  | n + 1 =>
    let x := s.mac p
    match x.tx, txQueue s p with
    | some f, w :: _ =>
      if f.whole || f.ring then s
      else
        let s := txTake s p
        let x := s.mac p
        if f.drop then txPull (s.setMac p { x with tx := if w.last then none else some f }) p n
        else txPull (s.setMac p { x with tx := some { f with data := f.data ++ w.data, whole := w.last, aborted := w.abort } }) p n
    | _, _ => s

/-- SPO_BUFFER_MOVE (R537): the stall octet moves every readable word of its pound into the transmit buffer of its port. -/
def spoMove (s : State) (k : Nat) : Nat → State
  | 0 => s
  | n + 1 =>
    match (s.pound (8 + k)).ready with
    | [] => s
    | w :: _ =>
      let j := if w.first then w.info.egSub % 8 else bankGet (fun _ => 0) s.spoSub k
      let p := 8 * k + j
      let s := { eatWords s (8 + k) 1 with spoSub := bankSet (fun _ => 0) s.spoSub k j }
      let s := s.setMac p { s.mac p with buf := (s.mac p).buf ++ [w] }
      spoMove (txPull s p (s.mac p).buf.length) k n

/-- The words readable in an egress pound moved on to the MACs that read it without pause; during a replay only the engine
drains it (R505). -/
def egressMove (s : State) (q : Nat) : State :=
  if replaying s then s
  else if 8 ≤ q ∧ q < 16 then (if islUp s (11 + (q - 8)) then spoMove s (q - 8) (s.pound q).ready.length else s)
  else if q = 18 ∨ q = 19 then (if islUp s 19 then txPull s (64 + (q - 18)) (s.pound q).ready.length else s)
  else s

/-- A completion posted for a timed frame of the CPU port (R350, R411). -/
def postFate (s : State) (m : Meta) (f : TxFate) : State :=
  if m.tsReq then { s with cc := { s.cc with posts := s.cc.posts ++ [(m.cookie, f)] } } else s

/-- The frame at the head of a MAC's queue discarded (R329, R347, R361); its words go as they come. -/
def txDiscard (s : State) (p : Nat) (m : Meta) : State :=
  let s := s.setMac p { s.mac p with tx := some { info := m, drop := true } }
  txPull s p (txQueue s p).length

/-- A ring frame may go first (R367): no generation is current, or gate DIR_TC is open and the frame fits. -/
def ringReady (s : State) (u len : Nat) : Bool :=
  (curSlot s).isNone ||
    (gateOpen s (64 + u) (s.fld (Reg.ulDirCtrl u) 4 3) && fits s (64 + u) (s.fld (Reg.ulDirCtrl u) 4 3) len s.dt)

/-- A frame of an uplink is sent in the clear (R359). -/
def inClear (s : State) (u : Nat) (b : List Byte) (clear : Bool) : Bool :=
  !s.bit (Reg.ulUlCtrl u) 7 || clear || filtered s (Reg.ulSecBypass u) (beAt b 12 2)

/-- The next frame of an uplink's ring sent, discarded while the link is down (R329), or dropped for want of a PN (R361). -/
def ringStart (s : State) (u : Nat) (d : DirFrame) (b : List Byte) (rest : List (List Byte)) : State :=
  let p := 64 + u
  if maySend s p = false then
    if holds s p then s else dirDone (macCount s p Reg.spTxLinkdown Reg.ulTxLinkdown) u 10
  else
    let (sa, t) := if inClear s u b d.clear then (some none, s) else ((takePn s u).1.map some, (takePn s u).2)
    match sa with
    | none => dirDone t u 9
    | some sa =>
      let m : Meta := { len := b.length, tsReq := d.tsReq, cookie := d.cookie }
      let t := t.setUplink u { t.uplink u with dir := some { d with segs := rest }, hold := true }
      t.setMac p { t.mac p with tx := some { info := m, data := b, whole := true, ring := true, clear := d.clear, sa := sa, start := t.dt } }

/-- The pound's head after a ring frame waits until it fits again (R367). -/
def poundHeld (s : State) (p : Nat) (m : Meta) (len : Nat) : Bool :=
  decide (64 ≤ p) && (s.uplink (p - 64)).hold && (curSlot s).isSome &&
    !(gateOpen s p (fqTc s m.fq) && fits s p (fqTc s m.fq) len s.dt)

/-- The sideband of the frame at the head of a MAC's queue, with what its note says (R357, R367). -/
def noted (s : State) (p : Nat) (m : Meta) : Meta :=
  match (s.mac p).notes with
  | [] => m
  | n :: _ => { m with inPort := n.inPort, inDt := n.inDt, fq := n.fq }

/-- The note of the frame at the head of a MAC's queue taken off. -/
def dropNote (s : State) (p : Nat) : State := s.setMac p { s.mac p with notes := (s.mac p).notes.drop 1 }

/-- The frame at the head of a MAC's queue started, discarded while the link is down, or dropped whole where its end word
already carries ABORT (R329, R347, R348). -/
def poundStart (s : State) (p : Nat) : State :=
  match txQueue s p with
  | [] => s
  | w :: _ =>
    let m := noted s p w.info
    let (ws, fin) := match splitPacket (txQueue s p) with
      | some (ws, _) => (ws, true)
      | none => (txQueue s p, false)
    let bad := fin && ((ws.getLast?.map (·.abort)).getD false)
    if maySend s p = false then
      if holds s p then s else postFate (txDiscard (macCount (dropNote s p) p Reg.spTxLinkdown Reg.ulTxLinkdown) p m) m .linkDown
    else if bad then txDiscard (dropNote s p) p m
    else if poundHeld s p m (max m.len (wordsData ws).length) then s
    else
      let u := p - 64
      let (sa, t) := if p < 64 ∨ inClear s u (wordsData ws) false = true then (some none, s)
        else ((takePn s u).1.map some, (takePn s u).2)
      match sa with
      | none => postFate (txDiscard (dropNote t p) p m) m .secDrop
      | some sa =>
        let t := if 64 ≤ p then t.setUplink u { t.uplink u with hold := false } else t
        let t := dropNote t p
        let t := t.setMac p { t.mac p with tx := some { info := m, sa := sa, start := t.dt } }
        txPull t p (txQueue t p).length

/-- The next frame of a port, once the gap after the one before has passed: an uplink's ring frame that is ready goes before the
pound's head (R71, R367). -/
def macStart (s : State) (p : Nat) : State :=
  if (s.mac p).tx.isSome || decide (s.dt < (s.mac p).idleAt) then s
  else
    let ring := if p < 64 then none else match (s.uplink (p - 64)).dir with
      | none => none
      | some d => match d.segs with
        | [] => none
        | b :: r => if ringReady s (p - 64) b.length then some (d, b, r) else none
    match ring with
    | some (d, b, r) => ringStart s (p - 64) d b r
    | none => poundStart s p

/-- MAC_TX_START (R347, R348, R367); during a replay no port transmits (R505). -/
def execMacTxStart (time : Nat) (p : Fin 66) (s : State) : Host.Outcome State Fault Refusal :=
  let t := s.at time
  done s (if islUp t (portIsland p) && !replaying t then macStart (egressMove t (outPound p)) p else t)

/-- The bytes of a frame on the wire (R347, R357, R359): corrected, secured, and ended with the FCS or its inverse. -/
def wireBytes (s : State) (p : Nat) (f : TxFrame) (inverse : Bool) (stamp : Nat) : List Byte × State :=
  let (b, s) := tcCorrect s f p stamp
  match f.sa with
  | none => (sealFcs b inverse, s)
  | some (an, pn) => (sealFcs (secSeal s (p - 64) an pn (b.take (b.length - 4)) ++ [0, 0, 0, 0]) inverse, s)

/-- A frame's bytes put on the wire. -/
def putWire (s : State) (p : Nat) (f : TxFrame) (inverse : Bool) (stamp : Nat) : State :=
  let (b, s) := wireBytes s p f inverse stamp
  let s := s.setMac p { s.mac p with wire := b }
  if inverse then macCount s p Reg.spTxInvFcs Reg.ulTxInvFcs
  else (s.addPair (portReg p Reg.spTxFramesLo Reg.ulTxFramesLo) 1).addPair (portReg p Reg.spTxBytesLo Reg.ulTxBytesLo) b.length

/-- TSQ_STAT.LEVEL follows the queue. -/
def setTsq (s : State) (p : Nat) (l : List (Nat × Nat)) : State :=
  (s.setMac p { s.mac p with tsq := l }).setFld (portReg p Reg.spTsqStat Reg.ulTsqStat) 0 5 l.length

/-- A read of TSQ_POP takes place in the present cycle after this command (R353). -/
def popComes (s : State) (p : Nat) : Bool :=
  (sameCycle s).any (fun c => match c with
    | .tsqPop _ init q => decide (q.val = p) && !s.ao.held && debugMay s init false &&
        (busCause s init (portReg p Reg.spTsqPop Reg.ulTsqPop) 4 false).isNone
    | _ => false)

/-- A timed frame's timestamp pushed, or lost on a full queue (R350, R352): whether it was kept. A pop in the same cycle makes
room first (R353). -/
def tsqPush (s : State) (p cookie stamp : Nat) : Bool × State :=
  let q := (s.mac p).tsq
  if q.length < 16 ∨ popComes s p = true then
    let t := setTsq s p (q ++ [(cookie, stamp % 2 ^ 48)])
    (true, t.setMac p { t.mac p with pushAt := some s.dt })
  else (false, macEvent (macCount s p Reg.spTsqLost Reg.ulTsqLost) p 0)

/-- The end of a frame on the wire: its timestamp, its completion (R350, R352), and the write-back of a ring frame whose last
segment it was (R365). -/
def txFinish (s : State) (p : Nat) (f : TxFrame) (inverse : Bool) (stamp : Nat) : State :=
  let s := putWire s p f inverse stamp
  let s := s.setMac p { s.mac p with tx := none }
  let (kept, s) := if f.info.tsReq && !inverse then tsqPush s p f.info.cookie stamp else (true, s)
  if f.ring then
    match (s.uplink (p - 64)).dir with
    | none => s
    | some d => if d.segs.isEmpty then dirDone s (p - 64) (if kept then 0 else 1) else s
  else postFate s f.info (if inverse then .invFcs else if kept then .sent else .tsLost)

/-- The egress timestamp of a frame: the DT at which the first bit after its start-of-frame delimiter crosses the MDI (R324). -/
def txStamp (s : State) (p : Nat) (f : TxFrame) (err : Int) : Nat := stamped s p (f.start + byteNs s p 8 + (phyLat s p).2) err

/-- When the last bit of a frame with `n` bytes leaves the MAC. -/
def txEndAt (s : State) (p : Nat) (f : TxFrame) (n : Nat) : Nat := f.start + byteNs s p (8 + n)

/-- The line is free again after the gap that follows a frame whose last bit left at DT `e` (R71). -/
def txGap (s : State) (p e : Nat) : State := s.setMac p { s.mac p with idleAt := e + byteNs s p 12 }

/-- MAC_TX_END (R347, R350): the last bit of a frame leaves whose end word has come. -/
def execMacTxEnd (time : Nat) (p : Fin 66) (err : Int) (s : State) : Host.Outcome State Fault Refusal :=
  let t := s.at time
  done s (match (t.mac p).tx with
    | none => t
    | some f =>
      let stamp := txStamp t p f err
      let e := txEndAt t p f (wireBytes t p f f.aborted stamp).1.length
      if islUp t (portIsland p) && f.whole && !f.drop && decide (e ≤ t.dt) then
        egressMove (txGap (txFinish t p f f.aborted stamp) p e) (outPound p)
      else t)

/-- TX_UNDERRUN (R347): every byte of a frame in progress has been sent and no word of it is left; the rest of it is discarded as it
comes. -/
def execTxUnderrun (time : Nat) (p : Fin 66) (s : State) : Host.Outcome State Fault Refusal :=
  let t := s.at time
  done s (match (t.mac p).tx with
    | none => t
    | some f =>
      if islUp t (portIsland p) && !f.whole && !f.drop && (txQueue t p).isEmpty && decide (txEndAt t p f f.data.length ≤ t.dt) then
        let t := macEvent (macCount t p Reg.spTxUnderrun Reg.ulTxUnderrun) p 2
        let t := txGap (txFinish t p f true (txStamp t p f 0)) p t.dt
        t.setMac p { t.mac p with tx := some { info := f.info, drop := true } }
      else t)

/-- The entries of a time-stamp queue that a pop may take: one pushed in the present cycle comes after it (R353). -/
def tsqOld (s : State) (p : Nat) : List (Nat × Nat) :=
  let x := s.mac p
  if x.pushAt = some s.dt then x.tsq.dropLast else x.tsq

/-- What a read of TSQ_POP returns (R351). -/
def tsqWord (s : State) (p : Nat) : Word :=
  match tsqOld s p with
  | [] => 0
  | (c, _) :: _ => BitVec.ofNat 32 (c % 65536 + 2 ^ 31)

/-- The effect of that read: the oldest entry's timestamp is latched and the entry removed (R351). -/
def tsqRemove (s : State) (p : Nat) : State :=
  match tsqOld s p with
  | [] => s
  | (_, d) :: _ =>
    setTsq ((s.setNat (portReg p Reg.spTsqDtLo Reg.ulTsqDtLo) (d % 2 ^ 32)).setNat (portReg p Reg.spTsqDtHi Reg.ulTsqDtHi)
      (d / 2 ^ 32)) p ((s.mac p).tsq.drop 1)

/-- TSQ_POP (R351). -/
def execTsqPop (time : Nat) (init : Init) (p : Fin 66) (s : State) : Host.Outcome State Fault Refusal :=
  let t := s.at time
  done s (busRead t init (portReg p Reg.spTsqPop Reg.ulTsqPop) (tsqWord t p) (fun t => tsqRemove t p))

/-! ### Uplinks -/

/-- PHY_LAT of an uplink's mode in use (R322). -/
def ulLat (s : State) (u : Nat) : Nat :=
  let l := fun (rx tx : Nat) => rx + 65536 * tx
  match ulMode s u with
  | 1 => if s.bit (Reg.ulUlCtrl u) 3 then l 268 110 else l 96 64
  | 2 => l 118 74
  | 3 => l 248 176
  | 4 => match s.fld (Reg.ulUlStat u) 4 2 with
    | 0 => l 16040 9856
    | 1 => l 1640 1056
    | _ => l 248 176
  | _ => 0

/-- What UL_STAT shows of a lost link: block lock lost, or hi_ber at a lane that keeps it (R355); the other modes have neither. -/
def ulCause (s : State) (u : Nat) (c : UlLoss) : State :=
  let r := decide (ulMode s u = 1) || decide (ulMode s u = 2)
  s.setFlds (Reg.ulUlStat u) [(1, 1, bnat (r && decide (c = .hiBer))), (2, 1, bnat (r && decide (c = .hiBer)))]

/-- A link-down of an uplink declared (R355, R257, R486). -/
def ulDown (s : State) (u : Nat) (c : UlLoss) : State :=
  if s.bit (Reg.ulUlStat u) 0 then
    let s := ((s.setBit (Reg.ulUlStat u) 0 false).raise (Reg.ulIrqRaw u) 0).inc (Reg.ulLinkDownCnt u)
    let s := { s with sta := { s.sta with ulUp := bankSet (fun _ => none) s.sta.ulUp u none } }
    raiseFault (setLossBit (ulCause s u c) u true) 5 u .fallback 0
  else s

/-- LINK_DOWN_US of an uplink in ns; smaller values act as 10. -/
def ulDownNs (s : State) (u : Nat) : Nat := 1000 * max 10 (s.fld (Reg.ulLinkTim u) 0 16)

/-- A loss that R355 names has lasted LINK_DOWN_US: of the mode's own kinds, for `lost` ns, or a link word that has reported the
link down for so long. -/
def ulLost (s : State) (u : Nat) (c : UlLoss) (lost : Nat) : Bool :=
  let m := ulMode s u
  match c with
  | .blockLock | .hiBer => (decide (m = 1) || decide (m = 2)) && decide (ulDownNs s u ≤ lost)
  | .sync => (decide (m = 3) || decide (m = 4)) && decide (ulDownNs s u ≤ lost)
  | .negotiation => decide (m = 3) && s.bit (Reg.ulUlCtrl u) 4 && decide (ulDownNs s u ≤ lost)
  | .linkWord => decide (m = 4) && (match (s.uplink u).lwDown with
    | none => false
    | some d => decide (d + ulDownNs s u ≤ s.dt))

/-- UPLINK_LINK_DOWN (R355). -/
def execUplinkLinkDown (time : Nat) (down : UlDown) (s : State) : Host.Outcome State Fault Refusal :=
  let t := s.at time
  done s (if islPowered t 19 && ulLost t down.u down.cause down.lost then ulDown t down.u down.cause else t)

/-- UPLINK_LINK_UP (R355): not at SGMII while the link word reports the link down. -/
def execUplinkLinkUp (time : Nat) (u : Fin 2) (s : State) : Host.Outcome State Fault Refusal :=
  let t := s.at time
  let m := ulMode t u
  done s (if islPowered t 19 && decide (m ≠ 0) && !t.bit (Reg.ulUlStat u) 0 &&
      !(decide (m = 4) && (t.uplink u).lwDown.isSome) then
      let t := t.setFlds (Reg.ulUlStat u) [(0, 1, 1), (1, 1, bnat (decide (m ≤ 2))), (2, 1, 0),
        (3, 1, bnat (decide (m = 4) || (decide (m = 3) && t.bit (Reg.ulUlCtrl u) 4)))]
      { t.raise (Reg.ulIrqRaw u) 0 with sta := { t.sta with ulUp := bankSet (fun _ => none) t.sta.ulUp u (some t.dt) } }
    else t)

/-- SGMII_LINK_WORD (R354, R355): the speed in use follows the last link word, which reports the link up or down. -/
def execSgmiiLinkWord (time : Nat) (u : Fin 2) (linkUp : Bool) (speed : Fin 3) (s : State) :
    Host.Outcome State Fault Refusal :=
  let t := s.at time
  done s (if islPowered t 19 && decide (ulMode t u = 4) then
      let x := t.uplink u
      let t := t.setUplink u { x with lwDown := if linkUp then none else some (x.lwDown.getD t.dt) }
      let t := t.setFlds (Reg.ulUlStat u) [(3, 1, bnat linkUp), (4, 2, speed)]
      t.setNat (Reg.ulPhyLat u) (ulLat t u)
    else t)

/-- The effect of a write to UL_CTRL (R354): a new mode takes the link down, and PHY_LAT and SGMII_SPEED follow. -/
def ulCtrlSet (s : State) (u : Nat) (d : Word) : State :=
  let old := (ulMode s u, s.fld (Reg.ulUlCtrl u) 3 2)
  let s := plainWrite s (Reg.ulUlCtrl u) d
  let m := ulMode s u
  let s := if old.1 = m then s else s.setFlds (Reg.ulUlStat u) [(3, 1, 0), (4, 2, if m = 4 then 2 else 0)]
  let s := s.setNat (Reg.ulPhyLat u) (ulLat s u)
  let s := if old.1 = m then s else s.setUplink u { s.uplink u with lwDown := none }
  if old = (m, s.fld (Reg.ulUlCtrl u) 3 2) then s else ulDown s u .sync

/-- What SERDES_RX shows: FREEZE, and the CTLE code to which the receiver has adapted, held while FREEZE is 1 (R356). -/
def serdesShown (s : State) (u : Nat) : Word :=
  let c := match (s.uplink u).rx with
    | none => (Config.serdes u s.dt).1
    | some h => h.1
  putBits (s.reg (Reg.ulSerdesRx u)) 8 4 (c % 16)

/-- The effect of a write to SERDES_RX (R356): with FREEZE the receiver's CTLE code and DFE taps stay as they are. -/
def serdesRxSet (s : State) (u : Nat) (d : Word) : State :=
  let s := plainWrite s (Reg.ulSerdesRx u) d
  let x := s.uplink u
  s.setUplink u { x with rx := if s.bit (Reg.ulSerdesRx u) 0 then some (x.rx.getD (Config.serdes u s.dt)) else none }

/-- The effect of a write to SERDES_TX (R356): ignored where PRE + POST is greater than MAIN. -/
def serdesSet (s : State) (u : Nat) (d : Word) : State :=
  if bitsOf d 16 6 < bitsOf d 0 5 + bitsOf d 8 5 then s else plainWrite s (Reg.ulSerdesTx u) d

/-- SERDES_TX_WRITE (R356). -/
def execSerdesTxWrite (time : Nat) (init : Init) (u : Fin 2) (data : Word) (s : State) :
    Host.Outcome State Fault Refusal :=
  let t := s.at time
  done s (busDo t init (Reg.ulSerdesTx u) 4 (some data) (fun t => serdesSet t u data))

/-- The effect of a write to SEC_TX_SA. -/
def secTxSaSet (s : State) (u : Nat) (d : Word) : State := reviewTxPn (plainWrite s (Reg.ulSecTxSa u) d) u

/-- A port's MAC after a reset of its island (R490): the frame being sent ends with an inverted FCS, and everything in its
buffers is lost. -/
def macIslandReset (s : State) (p : Nat) : State :=
  let s := match (s.mac p).tx with
    | none => s
    | some f => if f.drop then s else txFinish s p { f with ring := false } true s.now48
  s.setMac p { tsq := (s.mac p).tsq, wire := (s.mac p).wire }

end Sys2Proof.Machine
end

