-- ==== Sys2Proof/Machine/Egress.lean ====
section
/-! DEFINITION. Frames leaving the traffic manager (R86, R150, R157, R165 to R172, R175 to R177, R537): the choice of a
port's next frame, its words into the egress pound, and their end. -/

namespace Sys2Proof.Machine

/-- The egress pound of a port (R33); none for the accounting ports P70 and P71 (R146). -/
def egressPound (p : Nat) : Option Nat :=
  if p < 66 then some (outPound p) else if p < 69 then some (23 + (p - 66)) else if p = 69 then some 27 else none

/-- The frame that a port sends. -/
def selFrame (s : State) (p : Nat) : Option TmFrame :=
  match bankGet (fun _ => none) s.tm.sel p with
  | none => none
  | some fid => barge s fid

/-- The frame that a port sends replaced. -/
def setSel (s : State) (p : Nat) (fid : Option Nat) : State :=
  { s with tm := { s.tm with sel := bankSet (fun _ => none) s.tm.sel p fid } }

/-- The traffic manager may write a word for port `p`: its pound has room and stands between packets or within that of the port,
since only a FIRST word names its port (R23, R537), and a stall port has a credit left. -/
def egressRoom (s : State) (p q : Nat) : Bool :=
  let own := match selFrame s p with
    | none => false
    | some f => decide (f.sent ≠ 0)
  poundRoom s q && (own || !(s.pound q).midW) && (decide (64 ≤ p) || decide ((s.mac p).spent < 64))

/-- One word of a port's frame written into its egress pound; on a stall port it spends a credit. With the first word of a frame
for a wired port goes its note. -/
def egressPush (s : State) (p q : Nat) (f : TmFrame) (w : PWord) : State :=
  let s := if p < 64 then s.setMac p { s.mac p with spent := (s.mac p).spent + 1 } else s
  let s := if p < 66 ∧ w.first = true then
      s.setMac p { s.mac p with notes := (s.mac p).notes ++ [⟨f.info.inPort, f.info.inDt, f.fq, headBytes s f⟩] }
    else s
  poundPush s q w

/-- The sideband of a frame in the egress pound of port `p` (R24): LEN where it is known, and of the rest what the table of R24
lists for that pound. -/
def egressMeta (p : Nat) (f : TmFrame) : Meta :=
  let len := if f.whole then f.data.length else f.info.len
  if p < 64 then { len := len, tsReq := f.info.tsReq, cookie := f.info.cookie, egSub := p % 8 }
  else if p < 66 then { len := len, tsReq := f.info.tsReq, cookie := f.info.cookie }
  else if p < 69 then { len := len, staIdx := f.info.staIdx, tid := f.info.tid }
  else { f.info with len := len, tag := f.tag, fq := f.fq, egSub := 0 }

/-- The width in bytes of the words of a pound. -/
def wordWidth (s : State) (q : Nat) : Nat := max 1 (s.fld (Reg.topPndGeom q) 16 7)

/-- A word of a frame from byte `f.sent` on. -/
def egressWord (p width : Nat) (f : TmFrame) (last : Bool) : PWord :=
  { data := (f.data.drop f.sent).take width, last := last, abort := last && f.aborted, first := decide (f.sent = 0),
    info := if f.sent = 0 then egressMeta p f else {} }

/-- Every word but the last of a port's frame written as far as its bytes have come and room and credits allow. -/
def egressFeed (s : State) (p q : Nat) : Nat → State
  | 0 => s
  | n + 1 =>
    match selFrame s p with
    | none => s
    | some f =>
      let w := wordWidth s q
      if decide (w < f.data.length - f.sent) && egressRoom s p q then
        egressFeed (putBarge (egressPush s p q f (egressWord p w f false)) { f with sent := f.sent + w }) p q n
      else s

/-- The words of the frame in hand of port `p` moved on. -/
def feedPort (s : State) (p : Nat) : State :=
  match egressPound p, selFrame s p with
  | some q, some f => egressFeed s p q (f.data.length + 1)
  | _, _ => s

/-- The line rate of a frame's ingress port, as the time of a byte; none where it came by no wired port. -/
def ingressPs (s : State) (f : TmFrame) : Option Nat := if f.info.inPort < 66 then some (bytePs s f.info.inPort) else none

/-- A frame may leave cut-through (R169): CUT_EN, an egress port P0 to P65 whose line rate is no higher than the ingress
port's, and the frame on chip. -/
def cutReady (s : State) (p : Nat) (f : TmFrame) : Bool :=
  s.bit Reg.tmTmCtrl 1 && decide (p < 66) && !f.spilled && !f.aborted && decide (32 < f.data.length) &&
    (match ingressPs s f with
      | none => false
      | some i => decide (i ≠ 0) && decide (i ≤ bytePs s p))

/-- FIT of a traffic class on a wired port (R145). -/
def portFit (s : State) (p tc : Nat) : Nat := nodeFld s 4 p (9 + tc / 2) (16 * (tc % 2)) 16

/-- When the line of a wired port is free behind the frame that is leaving and those that wait for the MAC (R167, R170). -/
def lineFree (s : State) (p : Nat) : Nat :=
  let x := s.mac p
  let busy := match x.tx with
    | none => x.idleAt
    | some f => if f.drop then x.idleAt else f.start + wireNs s p (max f.info.len f.data.length)
  max s.dt busy + (x.notes.map (fun n => wireNs s p n.len)).sum

/-- A wired port may select (R167): at most one frame waits behind the one that leaves; a port whose MAC sends nothing is held by
its credits alone (R329, R537). -/
def maySelect (s : State) (p : Nat) : Bool :=
  !maySend s p || decide ((s.mac p).notes.length + bnat (s.mac p).tx.isSome < 2)

/-- The head of a queue may leave by wired port `p` (R165, R169, R170). -/
def wiredReady (s : State) (p fq : Nat) : Bool :=
  match fqHead s fq with
  | none => false
  | some f =>
    (storedReady f || cutReady s p f) && gateOpen s p (fqTc s fq) && fits s p (fqTc s fq) (headLen s fq) (lineFree s p) &&
      pathEligible s fq p

/-- The queues that hold frames for a port. -/
def portFqs (s : State) (p : Nat) : List Nat := (busyFqs s).filter (fun q => nodeLive s 0 q && decide (fqPort s q = p))

/-- Heads that cannot leave dropped: one of a retired tag (R86), and on a wired port one longer than FIT (R171). -/
def dropHead (s : State) (p fq : Nat) : Option State :=
  match fqHead s fq with
  | none => none
  | some f =>
    if (tagSlot s f.tag).isNone then some (tmDropRetired s f)
    else if p < 66 ∧ portFit s p (fqTc s fq) ≠ 0xFFFF ∧ portFit s p (fqTc s fq) < headLen s fq then
      some (tmDrop ((s.inc Reg.tmDropToolong).raise Reg.tmIrqRaw 6) f)
    else none

/-- Every head that cannot leave dropped, queue by queue. -/
def dropHeads (p fq : Nat) : Nat → State → State
  | 0, s => s
  | n + 1, s => match dropHead s p fq with
    | none => s
    | some t => dropHeads p fq n t

/-- The station of a subscriber (R147): the first whose record names it. -/
def subSta (s : State) (sub : Nat) : Option Nat := (List.range 4096).find? (fun a => staSub s a == some sub)

/-- The head of a queue may leave by radio `x` in a CONTEND entry (R165, R177): its peer's link is up and its PS bit clear
on it, or a PS-Poll asks for one MSDU (R237, R251, R252). -/
def contendReady (s : State) (x fq : Nat) : Bool :=
  match fqHead s fq with
  | none => false
  | some f =>
    storedReady f && pathEligible s fq (radioPort x) &&
      (match subSta s (nodeAbove s fq 1) with
        | none => true
        | some a => !linkDown s a x && !nstrHeld s a x && !pnSpent s a && (!staPs s a x || s.sta.polls.contains (x, a)))

/-- The queues that radio `x` may draw from in a CONTEND entry: those below its port, and those of a multi-link device
(R176). -/
def contendFqs (s : State) (x : Nat) : List Nat :=
  (busyFqs s).filter (fun q => nodeLive s 0 q && mayDraw s x (nodeAbove s q 1))

/-- A flow queue is ready at its own port (R165): the gate and the fit on a wired port, a stored head elsewhere. -/
def fqReady (s : State) (fq : Nat) : Bool :=
  nodeLive s 0 fq &&
    (let p := fqPort s fq
    if p < 66 then wiredReady s p fq
    else match fqHead s fq with
      | none => false
      | some f => storedReady f && pathEligible s fq p)

/-- The deficit of every child that is no longer ready set to 0 (R166). -/
def reviewDeficits (s : State) : State :=
  let qs := (busyFqs s).filter (fqReady s)
  { s with tm := { s.tm with deficit := bankKeep (fun k =>
      qs.any (fun q => decide (nodeAbove s q (k / 32768) = k % 32768))) s.tm.deficit } }

/-- A frame begins to enter the egress pound of a port; the children it leaves without a ready frame lose their
deficits. -/
def beginFrame (s : State) (p : Nat) (f : TmFrame) (info : Meta) : State :=
  reviewDeficits (feedPort (setSel (putBarge s { f with started := true, sent := 0, info := info }) p (some f.fid)) p)

/-- The frames that the run which radio `x` builds carries and that the traffic manager still holds, with their stations, in order (R175,
R184): of each user's reserved frames as many as the run was planned with beyond those the radio held. -/
def runFrames (s : State) (x : Nat) : List (Nat × Nat) :=
  match (s.radio x).run with
  | none => []
  | some r => if txState s x = 3 then r.users.flatMap (fun u => (u.fids.take (u.count - u.held)).map (fun i => (u.user.sta, i))) else []

/-- The next frame that the traffic manager moves for the PPDU which radio `x` builds (R175). -/
def reservedNext (s : State) (x : Nat) : Option (Nat × TmFrame) :=
  (runFrames s x).findSome? (fun e => match barge s e.2 with
    | none => none
    | some f => if f.started || decide (f.resv ≠ some x) then none else some (e.1, f))

/-- The queue chosen at a port among those ready, for a multi-link device's subscriber below the other radio's port too
(R166, R176). -/
def choose (s : State) (p : Nat) (fqs : List Nat) : Option Nat × State :=
  match pick s 4 p (fqs.filter (fun q => decide (fqPort s q = p))) with
  | (some q, t) => (some q, t)
  | (none, _) => match fqs with
    | [] => (none, s)
    | q :: _ => pick s 4 (fqPort s q) fqs

/-- Radio `x` selects (R175, R177): a reserved frame, or in a CONTEND entry a frame of its port. -/
def radioSelect (s : State) (x : Nat) : State :=
  let p := radioPort x
  match reservedNext s x with
  | some (a, f) =>
    if (tagSlot s f.tag).isNone then tmDropRetired s f
    else beginFrame s p f { f.info with staIdx := a, tid := fqTc s f.fq }
  | none =>
    match (s.airOf x).play with
    | none => s
    | some e =>
      if e.ty ≠ 4 ∨ e.forfeit = true then s
      else
        let s := s.each (contendFqs s x) (fun q t => dropHeads p q (fqFrames t q).length t)
        match choose s p ((contendFqs s x).filter (contendReady s x)) with
        | (none, _) => s
        | (some q, t) => match fqHead t q with
          | none => s
          | some f =>
            let a := subSta t (nodeAbove t q 1)
            let t := match a with
              | none => t
              | some a =>
                if staPs t a x then { t with sta := { t.sta with polls := t.sta.polls.filter (fun e => e != (x, a)) } } else t
            beginFrame t p f { f.info with staIdx := a.getD 0, tid := fqTc t q }

/-- A wired port or the CPU port selects (R165 to R172). -/
def portChoose (s : State) (p : Nat) : State :=
  let s := s.each (portFqs s p) (fun q t => dropHeads p q (fqFrames t q).length t)
  let ready := (portFqs s p).filter (fun q => if p < 66 then wiredReady s p q else
    (match fqHead s q with
      | none => false
      | some f => storedReady f && pathEligible s q p))
  match pick s 4 p ready with
  | (none, _) => s
  | (some q, t) => match fqHead t q with
    | none => s
    | some f => beginFrame t p f f.info

/-- PORT_SELECT (R167): once the last word of the port's previous frame is in the pound, the next frame is chosen; while one
is under way its further words are moved. A closed or full pound selects nothing (R172). -/
def execPortSelect (time : Nat) (p : Fin 72) (s : State) : Host.Outcome State Fault Refusal :=
  let t := s.at time
  done s (match egressPound p with
    | none => t
    | some q =>
      if islUp t 5 = false then t
      else if (selFrame t p).isSome then feedPort t p
      else if egressRoom t p q = false ∨ (p.val < 66 ∧ maySelect t p = false) then t
      else reviewGhStall (if 66 ≤ p.val ∧ p.val < 69 then radioSelect t (p.val - 66) else portChoose t p))

/-- The EGRESS record of a frame (R498, R499). -/
def egressRecord (s : State) (p : Nat) (f : TmFrame) : State :=
  tapRecord s 1 1 s.now48 p (crc32 (captured s f.data))
    (leBytes 4 (f.fq % 32768 + 32768 * (f.tag % 16)) ++ leBytes 4 f.data.length ++ List.replicate 8 0)

/-- A frame's last word in the egress pound of port `p` (R150, R175, R176, R411): it is charged, counted and recorded, its
reference is released, and a timed frame to a port without timestamps completes. -/
def egressDone (s : State) (p : Nat) (f : TmFrame) : State :=
  let len := f.data.length
  let s := chargePath s f.fq p len
  let s := s.addPair Reg.tmDeqLo 1
  let s := (s.addPair (Reg.tmPortTxLo p) 1).addPair (Reg.tmPortTxbLo p) len
  let s := egressRecord s p f
  let s := if 66 ≤ p then postFate s f.info .noTs else s
  let s := reviewDeficits (freeBarge (setSel s p none) f)
  reviewGhStall (reviewTm (if f.aborted then s else releaseTag s f.tag))

/-- FRAME_EGRESS_COMPLETE (R150). -/
def execFrameEgressComplete (time : Nat) (p : Fin 72) (s : State) : Host.Outcome State Fault Refusal :=
  let t := s.at time
  done s (match egressPound p with
    | none => t
    | some q =>
      if islUp t 5 = false then t
      else
        let t := feedPort t p
        match selFrame t p with
        | none => t
        | some f =>
          if f.whole && decide (f.data.length - f.sent ≤ wordWidth t q) && egressRoom t p q then
            egressDone (egressPush t p q f (egressWord p (wordWidth t q) f true)) p f
          else t)

/-- The traffic manager is about to be reset (R38, R178): the end word with ABORT of a frame half-written into the pound of a
stall octet takes a credit of its port. -/
def egressCut (s : State) : State :=
  s.each (List.range 64) (fun p t => match egressPound p, selFrame t p with
    | some q, some f =>
      if f.sent = 0 ∨ (t.pound q).midW = false then t
      else t.setMac p { t.mac p with spent := (t.mac p).spent + 1 }
    | _, _ => t)

/-- The island of port `p` is about to be reset (R39): the frame half-written into its emptied pound is lost. -/
def egressLost (s : State) (p : Nat) : State :=
  match selFrame s p with
  | none => s
  | some f =>
    if f.sent = 0 then s
    else reviewTm (freeBarge (setSel (if f.aborted then s else releaseTag s f.tag) p none) f)

/-- LOCK_HANDOVER (R91, R92): the port's new lock schedule starts. -/
def execLockHandover (time : Nat) (p : Fin 66) (s : State) : Host.Outcome State Fault Refusal :=
  let t := s.at time
  let x := t.player p
  done s (match x.hand, curSlot t with
    | some h, some k =>
      if h ≤ t.dt then reviewDeficits (reviewHeld (playWired (t.setPlayer p { x with slot := some k, base := h, hand := none }) p)) else t
    | _, _ => t)

/-- GATE_INTERVAL_START (R49, R50): the player opens and closes its gates as the entry that covers DT says. -/
def execGateIntervalStart (time : Nat) (p : Fin 66) (s : State) : Host.Outcome State Fault Refusal :=
  let t := s.at time
  done s (if islUp t (portIsland p) && islUp t 6 then reviewDeficits (playWired t p) else t)

end Sys2Proof.Machine
end

