-- ==== Sys2Proof/Machine/CpuPort.lean ====
section
/-! DEFINITION. The CPU port P69 (R410 to R413): the transmit ring into PD26, the fates of timed frames, and the receive
ring from PD27. -/

namespace Sys2Proof.Machine

/-- The CPU port's transmit ring. -/
def cpuTxRing (s : State) : Ring :=
  { base := s.regN Reg.ccTxRingLo + 2 ^ 32 * s.fld Reg.ccTxRingHi 0 8, size := s.fld Reg.ccTxRingSize 0 13,
    head := s.fld Reg.ccTxHead 0 12, tail := s.fld Reg.ccTxTail 0 12, bufLen := s.fld Reg.ccTxBufLen 0 17,
    bytes := 16, l2 := true, port := 0 }

/-- The CPU port's receive ring. -/
def cpuRxRing (s : State) : Ring :=
  { base := s.regN Reg.ccRxRingLo + 2 ^ 32 * s.fld Reg.ccRxRingHi 0 8, size := s.fld Reg.ccRxRingSize 0 13,
    head := s.fld Reg.ccRxHead 0 12, tail := s.fld Reg.ccRxTail 0 12, bufLen := s.fld Reg.ccRxBufLen 0 17,
    bytes := 32, l2 := true, port := 0 }

/-- The CPU port's frames replaced. -/
def setTxs (s : State) (l : List CpuTx) : State := { s with cc := { s.cc with txs := l } }

/-- The finished frames at the front of a list of fetched frames, and how many descriptors they have. -/
def txRetired : List CpuTx → Nat × List CpuTx
  | [] => (0, [])
  | x :: r =>
    match x.status with
    | none => (0, x :: r)
    | some _ => let y := txRetired r; (x.count + y.1, y.2)

/-- TX_HEAD advanced past the descriptors written back with every one before them (R411). -/
def cpuRetire (s : State) : State :=
  let y := txRetired s.cc.txs
  let r := cpuTxRing s
  (setTxs s y.2).setNat Reg.ccTxHead ((r.head + y.1) % max 1 r.size)

/-- Frame `k` of the fetched frames completes with a STATUS: its descriptors are written back (R411). -/
def cpuBack (s : State) (k status : Nat) : State :=
  match s.cc.txs[k]? with
  | none => s
  | some x =>
    let r := cpuTxRing s
    let r := { r with head := r.head + ((s.cc.txs.take k).map (·.count)).sum }
    let s := (txBackAll s r status x.count).raise Reg.ccCcIrqRaw 1
    cpuRetire (setTxs s (s.cc.txs.set k { x with status := some status, words := [] }))

/-- A frame's words moved into PD26 as far as it has room: the words left. -/
def cpuPush (s : State) : List PWord → List PWord × State
  | [] => ([], s)
  | w :: r => if poundRoom s 26 then cpuPush (poundPush s 26 w) r else (w :: r, s)

/-- The frame being written moved on; one without TS_REQ completes when its last word enters PD26 (R411). -/
def cpuFeed (s : State) : State :=
  match s.cc.txs.findIdx? (fun x => !x.words.isEmpty) with
  | none => s
  | some k =>
    match s.cc.txs[k]? with
    | none => s
    | some x =>
      let y := cpuPush s x.words
      let s := setTxs y.2 (y.2.cc.txs.set k { x with words := y.1 })
      if y.1.isEmpty && !x.timed then cpuBack s k 0 else s

/-- An error response to the segmentation DMA, initiator 9, latched as R45 lays down; an error that no check of the address
explains, which the memory itself reported, has no code of its own (notes/assumptions/196.md). -/
def dmaLatch (s : State) (a n : Nat) (write : Bool) : State :=
  if dmaOk s true a n = false then
    busLatch s 9 a write (if 0x800000000 ≤ a ∧ a < 0xA00000000 ∧ dramCap s ≤ a - 0x800000000 + (n - 1) then 3 else 0)
  else
    let w := s.drawNat
    busLatch w.2 9 a write (w.1 % 8)

/-- CPU_TX_FETCH (R410): the next frame of the ring checked, and written into PD26 or dropped whole with its STATUS. -/
def execCpuTxFetch (time : Nat) (dmaError : Bool) (s : State) : Host.Outcome State Fault Refusal :=
  let t := s.at time
  let r := cpuTxRing t
  let r := { r with head := r.head + (t.cc.txs.map (·.count)).sum }
  done s (if t.ao.held = true ∨ t.bit Reg.ccCpuCtrl 0 = false ∨ t.cc.txs.any (fun x => !x.words.isEmpty) = true then t
    else match txFetch t r true 16383 dmaError with
      | none => t
      | some (l, st, d) =>
        let k := t.cc.txs.length
        let words := fun (b : List Byte) => packetOf t 26 { len := b.length, tsReq := d.tsReq, cookie := if d.tsReq then d.cookie else 0 } b
        let x : CpuTx := { count := l.length, cookie := d.cookie, timed := d.tsReq, words := if st = 0 then d.segs.flatMap words else [] }
        let bad := (fetchBad t r l).getD (descAddr t r (l.headD 0))
        let u := setTxs (fetchUse t r l (decide (st = 0) || decide (st = 8))) (t.cc.txs ++ [x])
        if st = 0 then cpuFeed u
        else if st = 8 then cpuBack (((dmaLatch u bad (descLen t r (l.headD 0)) false).inc Reg.ccDmaErr).raise Reg.ccCcIrqRaw 4) k st
        else cpuBack ((u.inc Reg.ccDescErr).raise Reg.ccCcIrqRaw 2) k st)

/-- CPU_TX_TAIL_WRITE (R410). -/
def execCpuTxTailWrite (time : Nat) (init : Init) (data : Word) (s : State) : Host.Outcome State Fault Refusal :=
  let t := s.at time
  done s (busDo t init Reg.ccTxTail 4 (some data) (fun t => plainWrite t Reg.ccTxTail data))

/-- The STATUS of a fate (R411). -/
def fateStatus : TxFate → Nat
  | .sent => 0
  | .tsLost => 1
  | .invFcs => 11
  | .linkDown => 10
  | .noTs => 12
  | .dropped => 11
  | .secDrop => 9

/-- A sideband is that of a timed frame with this cookie. -/
def timedAs (cookie : Nat) (m : Meta) : Bool := m.tsReq && decide (m.cookie = cookie)

/-- A timed frame with this cookie is still on its way: in a pound, the pipeline, the traffic manager or a transmit MAC, so that its
fate is not known (R411). -/
def onItsWay (s : State) (cookie : Nat) : Bool :=
  s.pounds.any (fun e => (e.2.flight ++ e.2.ready ++ e.2.taken).any (fun w => w.first && timedAs cookie w.info)) ||
    s.pp.frames.any (fun f => timedAs cookie f.info) || s.pp.recirc.any (fun f => timedAs cookie f.info) ||
    s.pp.outQ.any (fun w => timedAs cookie w.info) || s.tm.frames.any (fun f => timedAs cookie f.info) ||
    s.port.any (fun e => e.2.buf.any (fun w => w.first && timedAs cookie w.info) ||
      (match e.2.tx with
        | none => false
        | some f => !f.drop && timedAs cookie f.info))

/-- The fate of a timed frame: the one posted for its cookie, or DROPPED where none was and no such frame is on its way. -/
def postFits (s : State) (cookie : Nat) (fate : TxFate) : Bool :=
  match s.cc.posts.find? (fun p => decide (p.1 = cookie)) with
  | some p => decide (p.2 = fate)
  | none => decide (fate = .dropped) && !onItsWay s cookie

/-- CPU_TX_COMPLETE (R411): the fate of the oldest timed frame with a cookie, as it was posted; a frame with no fate posted
was dropped on its way or not forwarded. -/
def execCpuTxComplete (time : Nat) (cookie : BitVec 16) (fate : TxFate) (s : State) : Host.Outcome State Fault Refusal :=
  let t := s.at time
  done s (match t.cc.txs.findIdx? (fun x => x.timed && decide (x.cookie = cookie.toNat) && x.status.isNone && x.words.isEmpty) with
    | none => t
    | some k =>
      if postFits t cookie.toNat fate = true then
        cpuBack { t with cc := { t.cc with posts := t.cc.posts.eraseP (fun p => decide (p.1 = cookie.toNat)) } } k (fateStatus fate)
      else t)

/-- The packet pipeline is about to be reset (R39): a frame of the CPU port partway into PD26 is cut short. -/
def cpuCut (s : State) : State :=
  if (s.pound 26).midW then
    match s.cc.txs.findIdx? (fun x => !x.words.isEmpty) with
    | none => s
    | some k =>
      match s.cc.txs[k]? with
      | none => s
      | some x =>
        let rest := (x.words.dropWhile (fun w => !w.last)).drop 1
        if rest.isEmpty && !x.timed then cpuBack s k 11 else setTxs s (s.cc.txs.set k { x with words := rest })
  else s

/-- One receive descriptor of the CPU port written back (R412). -/
def cpuRxDesc (s : State) (r : Ring) (i len : Nat) (first eof : Bool) (m : Meta) : State :=
  let w5 := m.cause % 256 + 256 * bnat m.dev + 512 * (m.inPort % 128) + 65536 * (m.tag % 16)
  let w6 := m.staIdx % 4096 + 4096 * (m.tid % 16) + 65536 * (m.fq % 32768)
  let z := fun (v : Nat) => leBytes 4 (if first then v else 0)
  dmaWrite s r.port true (ringAt r i + 8) (leBytes 4 (len % 65536 + 65536 * bnat first + 2 ^ 17 * bnat eof) ++
    z (m.inDt % 2 ^ 32) ++ z (m.inDt / 2 ^ 32 % 65536) ++ z w5 ++ z w6 ++ leBytes 4 0)

/-- CPU_RX_FRAME (R412, R413): the frame at the head of PD27 written to the ring without its FCS, once the device owns enough
descriptors; without them it waits or is dropped by RX_WAIT. -/
def execCpuRxFrame (time : Nat) (dmaError : Bool) (s : State) : Host.Outcome State Fault Refusal :=
  let t := s.at time
  done s (if t.ao.held = true ∨ t.bit Reg.ccCpuCtrl 1 = false ∨ replaying t = true then t
    else match readPacket t 27 with
      | none => t
      | some (ws, u) =>
        let b := wordsData ws
        let b := b.take (b.length - 4)
        let m := wordsMeta ws
        let r := cpuRxRing t
        let parts := rxNeed r b
        let n := parts.length
        if ownedRx t r n r.head < n then
          if t.bit Reg.ccCpuCtrl 2 then t else feedPort ((u.inc Reg.ccRxRingOvf).raise Reg.ccCcIrqRaw 3) 69
        else
          let (ok, v) := rxFill u r r.head parts
          let bad := ((List.range n).find? (fun k =>
            !dmaGood t true (descAddr t r (r.head + k)) (parts.getD k []).length true)).getD 0
          if dmaError ∨ ok = false then
            feedPort (((dmaLatch v (descAddr t r (r.head + bad)) (parts.getD bad []).length true).inc Reg.ccDmaErr).raise Reg.ccCcIrqRaw 4) 69
          else
            let v := v.each (List.range n) (fun k t =>
              cpuRxDesc t r (r.head + k) (parts.getD k []).length (decide (k = 0)) (decide (k + 1 = n)) m)
            feedPort ((v.setNat Reg.ccRxHead ((r.head + n) % max 1 r.size)).raise Reg.ccCcIrqRaw 0) 69)

end Sys2Proof.Machine
end

