-- ==== Sys2Proof/Machine/Security.lean ====
section
/-! DEFINITION. SEC (R454 to R470): the OTP, the lifecycle state, the keys, the boot ROM's checks, the HMAC engine and the
grant of debug levels. -/

namespace Sys2Proof.Machine

/-- A word of the OTP (R460). -/
def otpWord (s : State) (i : Nat) : Word := bankGet (fun _ => (0 : Word)) s.sec.otp i

/-- A word of the OTP replaced. -/
def setOtp (s : State) (i : Nat) (w : Word) : State :=
  { s with sec := { s.sec with otp := bankSet (fun _ => 0) s.sec.otp i w } }

/-- OTP words `i` to `i + n - 1` as bytes, little-endian. -/
def otpBytes (s : State) (i n : Nat) : List Byte := (List.range n).flatMap (fun k => leBytes 4 (otpWord s (i + k)).toNat)

/-- The lifecycle state that OTP holds (R458): 0 OPEN, 1 PROVISIONED, 2 SEALED, 3 RETURNED. -/
def otpLc (s : State) : Nat :=
  let w := otpWord s 0
  if bitOf w 2 then 3 else if bitOf w 1 then 2 else if bitOf w 0 then 1 else 0

/-- The lifecycle state in force. -/
def lcState (s : State) : Nat := s.fld Reg.secLcStat 0 2

/-- KEY_CRC is right (R460). -/
def keysOk (s : State) : Bool := decide (crc32 (otpBytes s 16 48) = (otpWord s 64).toNat)

/-- The sluice's SEAL as OTP holds it (R294, R295). -/
def otpSluSealed (s : State) : Bool := bitOf (otpWord s 399) 0

/-- A public key at OTP word `i`, none where it is blank or taken as blank (R461). -/
def pubKey (s : State) (i : Nat) : Option (List Byte) :=
  let b := otpBytes s i 16
  if b.all (fun x => x == 0) || ((lcState s == 1 || lcState s == 2) && !keysOk s) then none else some b

/-- An ECDSA P-256 signature under a key that may be blank, over the SHA-256 of a message. -/
def sigOk (k : Option (List Byte)) (msg sig : List Byte) : Bool :=
  match k with
  | none => false
  | some p => Config.ecdsaVerify p (Config.sha256 msg) sig

/-- MIN_SVN: the ones of the thermometer (R460). -/
def minSvn (s : State) : Nat :=
  ((List.range 63).filter (fun i => bitOf (otpWord s (5 + i / 32)) (i % 32))).length

/-- The device generation key (R459): HMAC-SHA-256 under DEV_SECRET over the label. -/
def genKey (s : State) : List Byte :=
  Config.hmac (otpBytes s 8 8) [0x57, 0x45, 0x49, 0x54, 0x48, 0x2D, 0x47, 0x45, 0x4E]

/-- A LC_CMD ends with a RESULT. -/
def lcEnd (s : State) (r : Nat) : State := s.setFlds Reg.secLcResult [(0, 1, 0), (4, 3, r)]

/-- The debug level returns to NONE (R467). -/
def debugNone (s : State) : State := s.setFld Reg.secDbgStat 0 2 0

/-- Bits programmed into OTP words: a word that fails its verify is partly programmed (register section). -/
def otpBurn (s : State) (l : List (Nat × Word)) (verifyOk : Bool) : State :=
  s.each l (fun e t =>
    let w := t.drawWord
    setOtp w.2 e.1 (otpWord t e.1 ||| (if verifyOk then e.2 else w.1 &&& e.2)))

/-- A transition that takes effect at the next chip reset (R458): PENDING shows the programmed state; OTP_FAIL where its word
fails the verify. -/
def lcNext (s : State) (code : Nat) (verifyOk : Bool) : State :=
  let t := otpBurn s [(0, BitVec.ofNat 32 code)] verifyOk
  lcEnd (t.setFld Reg.secLcStat 2 2 (otpLc t)) (if verifyOk then 0 else 5)

/-- PROVISION in OPEN (R458). -/
def lcProvision (s : State) (ok : Bool) : State :=
  if lcState s = 0 then
    if (pubKey s 16).isSome && (pubKey s 48).isSome && keysOk s then lcNext s 1 ok else lcEnd s 2
  else lcEnd s 1

/-- SEAL in PROVISIONED (R458). -/
def lcSealCmd (s : State) (ok : Bool) : State :=
  if lcState s = 1 then if otpSluSealed s then lcNext s 3 ok else lcEnd s 3 else lcEnd s 1

/-- The bytes of RETURN_SIG. -/
def returnSig (s : State) : List Byte := (List.range 16).flatMap (fun k => leBytes 4 (s.regN (Reg.secReturnSig k)))

/-- RETURN (R458): at once in OPEN, and in PROVISIONED and SEALED with a valid RETURN_SIG; with OTP_FAIL the state stays until
the words that were programmed are read at a chip reset. -/
def lcReturn (s : State) (ok : Bool) : State :=
  if lcState s = 3 then lcEnd s 1
  else if lcState s = 0 || sigOk (pubKey s 48) ([0x52, 0x45, 0x54, 0x55, 0x52, 0x4E] ++ otpBytes s 1 2) (returnSig s) then
    let s := otpBurn s ((List.range 8).map (fun k => (8 + k, 0xFFFFFFFF)) ++ [(0, 7)]) ok
    if ok then lcEnd (debugNone (s.setFlds Reg.secLcStat [(0, 2, 3), (2, 2, 3)])) 0
    else lcEnd (s.setFld Reg.secLcStat 2 2 (otpLc s)) 5
  else lcEnd s 4

/-- The effect of a write to LC_CMD: without the KEY, with OP 0, or while BUSY, none. -/
def lcCmd (s : State) (d : Word) (ok : Bool) : State :=
  if bitsOf d 16 16 ≠ 0xA5C3 ∨ s.bit Reg.secLcResult 0 = true then s
  else match bitsOf d 0 2 with
    | 1 => lcProvision s ok
    | 2 => lcSealCmd s ok
    | 3 => lcReturn s ok
    | _ => s

/-- PROVISION (R458). -/
def execProvision (time : Nat) (write : FuseWrite) (s : State) : Host.Outcome State Fault Refusal :=
  let t := s.at time
  done s (busDo t write.init Reg.secLcCmd 4 (some 0xA5C30001) (fun t => lcCmd t 0xA5C30001 write.verifyOk))

/-- LC_SEAL (R458). -/
def execLcSeal (time : Nat) (write : FuseWrite) (s : State) : Host.Outcome State Fault Refusal :=
  let t := s.at time
  done s (busDo t write.init Reg.secLcCmd 4 (some 0xA5C30002) (fun t => lcCmd t 0xA5C30002 write.verifyOk))

/-- RETURN (R458). -/
def execReturnCmd (time : Nat) (write : FuseWrite) (s : State) : Host.Outcome State Fault Refusal :=
  let t := s.at time
  done s (busDo t write.init Reg.secLcCmd 4 (some 0xA5C30003) (fun t => lcCmd t 0xA5C30003 write.verifyOk))

/-- A PROGRAM may reach OTP word `i` in the present state (R295, R460): BOOT_CFG and TIMING_OUI in OPEN, the key words in
OPEN until PROVISION locks them, and the sluice until its SEAL. -/
def otpWritable (s : State) (i : Nat) : Bool :=
  if i = 3 ∨ i = 4 then lcState s = 0
  else if 16 ≤ i ∧ i ≤ 64 then lcState s = 0 && s.fld Reg.secLcStat 2 2 = 0
  else if 256 ≤ i ∧ i ≤ 399 then !otpSluSealed s
  else false

/-- An OTP command ends with a RESULT: OTP_DONE. -/
def otpEnd (s : State) (r : Nat) : State := (s.setFlds Reg.secOtpStat [(0, 1, 0), (4, 3, r)]).raise Reg.secIrqRaw 3

/-- PROGRAM of OTP_DATA into the word OTP_ADDR names; a word that fails its verify is partly programmed. -/
def otpWrite (s : State) (verifyOk : Bool) : State :=
  let i := s.fld Reg.secOtpAddr 0 9
  let d := s.reg Reg.secOtpData
  let old := otpWord s i
  if otpWritable s i = false ∨ old &&& ~~~d ≠ 0 then otpEnd s 1
  else if verifyOk then otpEnd (setOtp s i d) 0
  else otpEnd (otpBurn s [(i, d)] false) 3

/-- READ of the word OTP_ADDR names into OTP_DATA; DEV_SECRET reads as 0 with SECRET. -/
def otpFetch (s : State) : State :=
  let i := s.fld Reg.secOtpAddr 0 9
  if 8 ≤ i ∧ i ≤ 15 then otpEnd (s.setReg Reg.secOtpData 0) 2
  else otpEnd (s.setReg Reg.secOtpData (otpWord s i)) 0

/-- The effect of a write to OTP_CMD. -/
def otpCmd (s : State) (d : Word) (verifyOk : Bool) : State :=
  match bitsOf d 0 2 with
  | 1 => if bitsOf d 16 16 = 0xA5C3 then otpWrite s verifyOk else s
  | 2 => otpFetch s
  | _ => s

/-- OTP_PROGRAM (R460). -/
def execOtpProgram (time : Nat) (init : Init) (verifyOk : Bool) (s : State) : Host.Outcome State Fault Refusal :=
  let t := s.at time
  done s (busDo t init Reg.secOtpCmd 4 (some 0xA5C30001) (fun t => otpCmd t 0xA5C30001 verifyOk))

/-- OTP_READ (R460). -/
def execOtpRead (time : Nat) (init : Init) (s : State) : Host.Outcome State Fault Refusal :=
  let t := s.at time
  done s (busDo t init Reg.secOtpCmd 4 (some 2) (fun t => otpCmd t 2 true))

/-- The effect of a write to SVN_CMD (R462): MIN_SVN raised to a value above it and no higher than BOOT_SVN. -/
def svnRaise (s : State) (d : Word) (ok : Bool) : State :=
  let v := bitsOf d 0 6
  if minSvn s < v ∧ v ≤ s.fld Reg.secBootSvn 0 6 then
    let m := 2 ^ v - 1
    lcEnd (otpBurn s [(5, BitVec.ofNat 32 m), (6, BitVec.ofNat 32 (m / 2 ^ 32))] ok) (if ok then 0 else 5)
  else lcEnd s 1

/-- SVN_CMD (R462). -/
def execSvnCmd (time : Nat) (write : FuseWrite) (data : Word) (s : State) : Host.Outcome State Fault Refusal :=
  let t := s.at time
  done s (busDo t write.init Reg.secSvnCmd 4 (some data) (fun t => svnRaise t data write.verifyOk))

/-- The effect of a write to SECURE_LOCK: its bit can only be set (R463). -/
def secureLockSet (s : State) (d : Word) : State := s.orReg Reg.secSecureLock (d &&& 1)

/-- The effect of a write to SECURE_BASE or SECURE_LIMIT: none once SECURE_LOCK is set (R463). -/
def secureRangeSet (s : State) (a : Nat) (d : Word) : State := if s.bit Reg.secSecureLock 0 then s else plainWrite s a d

/-- SECURE_LOCK (R463). -/
def execSecureLock (time : Nat) (init : Init) (data : Word) (s : State) : Host.Outcome State Fault Refusal :=
  let t := s.at time
  done s (busDo t init Reg.secSecureLock 4 (some data) (fun t => secureLockSet t data))

/-- The HMAC engine ends a command with a RESULT: HMAC_DONE (R465). -/
def hmacEnd (s : State) (r : Nat) : State :=
  let s := (s.setFlds Reg.secHmacStat [(0, 1, 0), (4, 3, r)]).raise Reg.secIrqRaw 2
  { s with sec := { s.sec with hmac := none } }

/-- The effect of HMAC_CMD = 1 (R459, R465); ignored while the engine is busy. -/
def hmacBegin (s : State) (d : Word) : State :=
  let n := s.fld Reg.secHmacLen 0 22
  if d ≠ 1 ∨ s.bit Reg.secHmacStat 0 = true then s
  else if lcState s = 3 then hmacEnd s 3
  else if n % 64 ≠ 0 ∨ n < 256 ∨ 3145664 < n then hmacEnd s 1
  else
    let a := s.regN Reg.secHmacAddrLo / 64 * 64 + 2 ^ 32 * s.fld Reg.secHmacAddrHi 0 8
    { s.setBit Reg.secHmacStat 0 true with sec := { s.sec with hmac := some (a, n, genKey s) } }

/-- HMAC_START (R465). -/
def execHmacStart (time : Nat) (init : Init) (s : State) : Host.Outcome State Fault Refusal :=
  let t := s.at time
  done s (busDo t init Reg.secHmacCmd 4 (some 1) (fun t => hmacBegin t 1))

/-- HMAC_DONE (R465): the result directly after the bytes, or DRAM on an error response, then with nothing written. -/
def execHmacDone (time : Nat) (dramError : Bool) (s : State) : Host.Outcome State Fault Refusal :=
  let t := s.at time
  done s (match t.sec.hmac with
    | none => t
    | some (a, n, k) =>
      let u := dramUse t 0 (a - 0x800000000) n false
      if dramError ∨ a < 0x800000000 ∨ 0x800000000 + dramCap t < a + n + 32 ∨ (dramFault t (a - 0x800000000) n false).isSome = true then
        hmacEnd u 2
      else
        let o := a - 0x800000000
        hmacEnd (dramUse (u.dramWrite (o + n) (Config.hmac k (t.dramRead o n))) 0 (o + n) 32 true) 0)

/-- Power state P4 (AO.PM_STAT.STATE). -/
def inP4 (s : State) : Bool := decide (s.fld Reg.aoPmStat 0 3 = 4)

/-- The debug port serves: not while a chip reset holds the device, and not in P4 (R480). -/
def dbgServes (s : State) : Bool := !s.ao.held && !inP4 s

/-- A failed DBG_RESP withholds the next NONCE for 1 s (R467). -/
def dbgBackoff (s : State) : Bool :=
  match s.sec.backoff with
  | none => false
  | some a => decide (s.dt < a + 1000000000)

/-- The data register of DBG_CHAL (R466): NONCE, UID, LC, LEVEL and zero bits, the first field first. -/
def chalBytes (s : State) (nonce : List Byte) : List Byte :=
  nonce ++ otpBytes s 1 2 ++ [BitVec.ofNat 8 (lcState s + 4 * s.fld Reg.secDbgStat 0 2), 0, 0, 0]

/-- DBG_CHAL (R466, R467): a fresh NONCE, unless a failure withholds it. -/
def execDbgChal (time : Nat) (s : State) : Host.Outcome State Fault Refusal :=
  let t := s.at time
  done s (if dbgServes t && !dbgBackoff t then
      let b := t.drawBytes 16
      { b.2 with sec := { b.2.sec with nonce := some b.1, chal := chalBytes b.2 b.1, backoff := none } }
    else t)

/-- The highest debug level of the lifecycle state (R459). -/
def dbgHighest (s : State) : Nat := if lcState s = 2 then 1 else 2

/-- Why a DBG_RESP grants nothing, by the codes of DBG_STAT.RESULT; 0 where it grants its level (R459, R467). -/
def dbgResult (s : State) (level : BitVec 8) (sig : List Byte) : Nat :=
  if level.toNat = 0 ∨ dbgHighest s < level.toNat then 1
  else if lcState s = 0 ∨ lcState s = 3 then 0
  else match s.sec.nonce with
    | none => if dbgBackoff s then 4 else 3
    | some n => if sigOk (pubKey s 48) (n ++ otpBytes s 1 2 ++ [level]) sig then 0 else 2

/-- DBG_RESP (R467). -/
def execDbgResp (time : Nat) (level : BitVec 8) (sig : List Byte) (s : State) : Host.Outcome State Fault Refusal :=
  let t := s.at time
  done s (if dbgServes t then
      let r := dbgResult t level sig
      let u := { t with sec := { t.sec with nonce := none } }
      if r = 0 then (u.setFlds Reg.secDbgStat [(0, 2, level.toNat), (4, 3, 0)]).raise Reg.secIrqRaw 0
      else
        let u := (u.setFld Reg.secDbgStat 4 3 r).raise Reg.secIrqRaw 1
        { u with sec := { u.sec with backoff := some u.dt } }
    else t)

/-- DBG_BACKOFF_END (R467): 1 s after the last failure, a NONCE may be drawn again. -/
def execDbgBackoffEnd (time : Nat) (s : State) : Host.Outcome State Fault Refusal :=
  let t := s.at time
  done s (if dbgBackoff t then t else { t with sec := { t.sec with backoff := none } })

/-- The effect of a write to DBG_REVOKE. -/
def dbgRevokeSet (s : State) (d : Word) : State := if bitOf d 0 then debugNone s else s

/-- DBG_REVOKE (R467). -/
def execDbgRevoke (time : Nat) (init : Init) (data : Word) (s : State) : Host.Outcome State Fault Refusal :=
  let t := s.at time
  done s (busDo t init Reg.secDbgRevoke 4 (some data) (fun t => dbgRevokeSet t data))

/-- FW_LEN of a boot header (R454). -/
def fwLen (h : List Byte) : Nat := leAt h 0x10 4

/-- The first check of a boot copy that fails, by the codes of BOOT_STAT: 1 NO_HEADER, 2 HDR_SIG, 3 SVN, 4 LENGTH, 6 FLASH;
0 where its firmware is to be copied (R454, R455). -/
def bootHeader (s : State) (c : FlashCopy) : Nat :=
  let h := c.header
  let checked := lcState s == 1 || lcState s == 2
  if !c.readable || h.length != 256 then 6
  else if leAt h 0 4 != 0x42544D56 || leAt h 4 2 != 1 || leAt h 6 2 != 256 || (sliceB h 0x40 128).any (fun b => b != 0) then 1
  else if checked && !sigOk (pubKey s 16) (h.take 0xC0) (sliceB h 0xC0 64) then 2
  else if checked && (decide (leAt h 8 4 < minSvn s) || decide (63 < leAt h 8 4)) then 3
  else if decide (fwLen h = 0) || decide (2031616 < fwLen h) || decide (fwLen h ≤ leAt h 0x14 4) || decide (leAt h 0x14 4 % 4 ≠ 0) then 4
  else 0

/-- The boot of one copy (R455): its result, and the L2 with the firmware copied before its hash is compared. -/
def bootOne (s : State) (c : FlashCopy) : Nat × State :=
  let r := bootHeader s c
  let n := fwLen c.header
  if r ≠ 0 then (r, s)
  else
    let fw := c.fw.take n
    let s := { s with l2 := memWrite s.l2 0 fw }
    if fw.length < n then (6, s)
    else if Config.sha256 fw = sliceB c.header 0x20 32 then (0, s)
    else (5, s)

/-- The top 64 KiB of the L2 window after the ROM has used it as scratch (R456): open. -/
def romScratch (s : State) : State :=
  let b := s.drawBytes 65536
  { b.2 with l2 := memWrite b.2.l2 0x1F0000 (b.1.take 65536) }

/-- The jump to the firmware of copy `k` (R455, R456). -/
def bootJump (s : State) (k : Nat) (c : FlashCopy) : State :=
  let s := (romScratch s).setFlds Reg.secBootStat [(0, 1, 1), (1, 1, k)]
  let s := (s.setNat Reg.secBootSvn (leAt c.header 8 4 % 64)).setFlds (Reg.ccCoreStat 0) [(0, 1, 0), (1, 1, 0), (2, 2, 3)]
  let s := (s.setFld Reg.ccL2Cfg 0 5 16).setBit Reg.tsTsCtrl 0 true
  (s.setNat Reg.secSecureBase 1).setNat Reg.secSecureLimit 0

/-- BOOT_COPY (R455, R456): the ROM tries copy A, then copy B; when both fail, CC0 waits in WFI until a chip reset. -/
def execBootCopy (time : Nat) (a b : FlashCopy) (s : State) : Host.Outcome State Fault Refusal :=
  let t := s.at time
  done s (if t.ao.booting = false ∨ t.ao.held = true ∨ inP4 t = true then t
    else
      let t := { t.setNat Reg.secBootStat 0 with ao := { t.ao with booting := false } }
      let x := bootOne t a
      if x.1 = 0 then bootJump x.2 0 a
      else
        let y := bootOne (x.2.setFld Reg.secBootStat 4 4 x.1) b
        if y.1 = 0 then bootJump y.2 1 b
        else (y.2.setFld Reg.secBootStat 8 4 y.1).setFlds (Reg.ccCoreStat 0) [(0, 1, 0), (1, 1, 1), (2, 2, 3)])

/-- What is read from the sluice's words with the boot sequence: the sluice and the DUTY records (R294). Only a POR returns the
limits of the band records to their caps (R223). -/
def sluiceLoad (por : Bool) (s : State) : State :=
  let s := { s with slu := (List.range 144).foldl (fun b i => bankSet (fun _ => 0) b i (otpWord s (256 + i))) [] }
  s.each (List.range 16) (fun b t =>
    let w := fun i => otpWord t (256 + 8 + 8 * b + i)
    let t := (t.setReg (Reg.dutyBandLoKhz b) (w 0 &&& 0x7FFFFF)).setReg (Reg.dutyBandHiKhz b) (w 1 &&& 0x7FFFFF)
    let t := t.setReg (Reg.dutyBandCap b) (w 2)
    if por then t.setReg (Reg.dutyBandLimit b) (w 2) else t)

/-- What SEC reads from OTP at a chip reset (R294, R458, R461): the lifecycle state, the sluice, and, where DEV_SECRET is blank
in OPEN, a fresh one. -/
def otpLoad (por : Bool) (s : State) : State :=
  let s := s.setFlds Reg.secLcStat [(0, 2, otpLc s), (2, 2, otpLc s)]
  let s := if otpLc s = 0 && (otpBytes s 8 8).all (fun x => x == 0) then
      s.each (List.range 8) (fun k t => let w := t.drawWord; setOtp w.2 (8 + k) w.1)
    else s
  sluiceLoad por s

/-- What a register from OTP shows: UID, MIN_SVN, the keys, KEYS_OK and SLU_SEALED, and TIMING_OUI (R460). -/
def otpShown (s : State) (a : Nat) : Word :=
  if a = Reg.topUidLo then otpWord s 1
  else if a = Reg.topUidHi then otpWord s 2
  else if a = Reg.secMinSvn then BitVec.ofNat 32 (minSvn s)
  else if a = Reg.secLcStat then putBit (putBit (s.reg a) 4 (keysOk s)) 5 (otpSluSealed s)
  else if Reg.secOwnerBootPub 0 ≤ a ∧ a < Reg.secOwnerBootPub 48 then otpWord s (16 + (a - Reg.secOwnerBootPub 0) / 4)
  else if a = Reg.airTimingOui 0 ∨ a = Reg.airTimingOui 1 ∨ a = Reg.airTimingOui 2 then otpWord s 4 &&& 0xFFFFFF
  else s.reg a

end Sys2Proof.Machine
end

