-- ==== Sys2Proof/Machine/Towpath.lean ====
section
/-! DEFINITION. The towpath's recorder: the tap collector, and the ring with the marks that a write overtakes or stops at (R498 to
R503). -/

namespace Sys2Proof.Machine

/-- The marks TAKING or VALID. -/
def liveMarks (s : State) : List Nat :=
  (List.range 16).filter (fun m => decide (markState s m = 1) || decide (markState s m = 2))

/-- How many units may be written before the MARK record of mark `m`. -/
def roomBefore (s : State) (m : Nat) : Nat :=
  let r := max 1 (ringUnits s)
  (s.regN (Reg.tpMarkPtr m) + r - s.regN Reg.tpWrPtr % r) % r

/-- The address in DRAM of unit `u` of a ring. -/
def ringOff (s : State) (u : Nat) : Nat :=
  s.regN Reg.tpRingBaseLo + 2 ^ 32 * s.fld Reg.tpRingBaseHi 0 8 - 0x800000000 + 16 * u

/-- Whole units of bytes written to the ring from unit `u` on, continuing at its start; bytes whose address lies outside
the configured DRAM are not kept. -/
def ringBytes (s : State) (u : Nat) : Nat → List Byte → State
  | 0, _ => s
  | n + 1, bs =>
    let o := ringOff s (u % max 1 (ringUnits s))
    let s := if o + 16 ≤ dramCap s then s.dramWrite o (bs.take 16) else s
    ringBytes s (u + 1) n (bs.drop 16)

/-- A record with its RSEQ written to the ring over memory port 6 (R499, R502, R503): under HOLD it stops short of the oldest live mark and is discarded;
otherwise marks whose MARK record it overtakes become LOST. A ring of size 0 records nothing. -/
def ringRecord (s : State) (b : List Byte) : State :=
  if ringUnits s = 0 then s
  else
    let bs := b.take 2 ++ leBytes 2 s.tp.rseq ++ b.drop 4
    let n := bs.length / 16
    let late := (liveMarks s).filter (fun m => decide (roomBefore s m < n))
    if s.bit Reg.tpTpCtrl 2 && !late.isEmpty then
      discardRecord ((s.setBit Reg.tpTpStat 1 true).raise Reg.tpIrqRaw 3) 3
    else
      let s := s.each late (fun m t => (t.setFld (Reg.tpMarkStat m) 0 2 3).raise Reg.tpIrqRaw 2)
      let s := if late.any (fun m => decide (s.tp.taking.map (·.val) = some m)) then { s with tp := { s.tp with taking := none } } else s
      let u := s.regN Reg.tpWrPtr
      let s := dramUse (ringBytes s u n bs) 6 (ringOff s u) (16 * n) true
      let e := u + n
      let s := if ringUnits s ≤ e then s.incWrap Reg.tpWrapCnt else s
      let s := s.setBit Reg.tpTpStat 1 false
      let s := (s.setNat Reg.tpWrPtr (e % ringUnits s)).addPair Reg.tpRecLo 1
      { s with tp := { s.tp with rseq := (s.tp.rseq + 1) % 65536 } }

/-- A record of the recorder itself. -/
def ringWrite (s : State) (kind dt arg0 arg1 : Nat) (payload : List Byte) : State :=
  ringRecord s (recordBytes kind 3 0 dt arg0 arg1 payload)

/-- The GAP record of the recorder itself, once the ring has room again (R498, R503). -/
def gapWrite (s : State) : State :=
  let n := gapOf s 3
  if n = 0 ∨ (s.bit Reg.tpTpCtrl 2 && (liveMarks s).any (fun m => decide (roomBefore s m < 1))) then s
  else (setGap (ringWrite s 13 s.now48 0 (min n 0xFFFFFFFF) []) 3 0).raise Reg.tpIrqRaw 0

/-- The whole record at the head of tap pound `k`, where one is readable. -/
def tapHead (s : State) (k : Nat) : Option (List Byte) :=
  (splitPacket ((s.pound (33 + k)).taken ++ (s.pound (33 + k)).ready)).map (fun p => wordsData p.1)

/-- The DT of a record. -/
def recordDt (b : List Byte) : Nat := leAt b 4 6

/-- The tap whose record the collector takes next: the next ready one in its rotation (R34), but of records with the same DT the
one of the lowest source (R35, R499). -/
def tapPick (s : State) : Option Nat :=
  match rotPick 3 s.tp.rot (fun k => (tapHead s k).isSome) with
  | none => none
  | some k => (List.range 3).find? (fun j => decide ((tapHead s j).map recordDt = (tapHead s k).map recordDt))

/-- The tap collector accepts a record and the recorder writes it to the ring, behind its own GAP record (R34, R498). -/
def tapAccept (s : State) : State :=
  match tapPick s with
  | none => s
  | some k => match readPacket s (33 + k) with
    | none => s
    | some (ws, s) =>
      tapGap (ringRecord (gapWrite { s with tp := { s.tp with rot := k } }) (wordsData ws)) k

/-- Every word of the tap pounds made readable. -/
def tapShow (s : State) : State := s.each (List.range 3) (fun k t => (List.range (t.pound (33 + k)).flight.length).foldl (fun u _ => poundShow u (33 + k)) t)

/-- Every record that waits in the tap pounds written to the ring: those from before a mark lie before it (R499, R500). -/
def tapDrain (s : State) : State :=
  let s := tapShow s
  (List.range (((List.range 3).map (fun k => (s.pound (33 + k)).packets)).sum)).foldl (fun t _ => tapAccept t) s

end Sys2Proof.Machine
end

