-- ==== Sys2Proof/Machine/PoundIo.lean ====
section
/-! DEFINITION. The moves of pound words that readers make (R21, R22, R25, R537) and the collectors' acceptances (R34, R36, R98). -/

namespace Sys2Proof.Machine

/-- The writers of ingress pound `p` move on the words that wait for room there: the receive buffers of its ports (R346), the
words of a radio, or the CPU port's frame. -/
def refill (s : State) (p : Nat) : State :=
  if p = 26 then cpuFeed s
  else if 20 ≤ p ∧ p < 23 then radioDrain s (p - 20) (s.radio (p - 20)).outQ.length
  else rxDrainAll s p

/-- The ports that send through an egress pound go on writing it. -/
def feedPound (s : State) (p : Nat) : State :=
  s.each ((List.range 72).filter (fun k => decide (egressPound k = some p))) (fun k t => feedPort t k)

/-- The word that the reader of pound `p` takes next (R21, R25). The ingress collector and the traffic manager take it for the
frame that it continues, and take first words by INGRESS_ACCEPT and ADMIT; the MACs take words without pause (R537); every
other reader takes the words of a packet as R26 lets it begin one, and keeps them until the packet is whole. During a replay only the engine drains an egress pound (R505). -/
def readWord (s : State) (p : Nat) : State :=
  match ingressSource p with
  | some i => match openFrame s i with
    | some fid => refill (ingressWord s i p fid) p
    | none => refill s p
  | none =>
    if p = 28 then (match s.tm.openFid with
      | some fid => tmWord s fid
      | none => s)
    else if (8 ≤ p ∧ p < 16) ∨ p = 18 ∨ p = 19 then feedPound (egressMove s p) p
    else if mayStart s p = false then s
    else if 23 ≤ p ∧ p < 28 then if replaying s then s else feedPound (poundTake s p) p
    else if p = 31 then reviewGhStall (poundTake s p)
    else poundTake s p

/-- POUND_WORD_READABLE (R22): the oldest written word becomes readable, and a MAC that reads without pause takes it (R537). -/
def execPoundWordReadable (time : Nat) (p : Fin 54) (s : State) : Host.Outcome State Fault Refusal :=
  let t := s.at time
  let u := feedPound (egressMove (poundShow t p) p) p
  done s (if p = 31 then reviewGhStall u else u)

/-- POUND_WORD_READ (R21, R25): a reader whose island is up takes a word. -/
def execPoundWordRead (time : Nat) (p : Fin 54) (s : State) : Host.Outcome State Fault Refusal :=
  let t := s.at time
  done s (if islUp t (poundEnds p).2 then readWord t p else t)

/-- Every ingress pound refilled. -/
def refillAll (s : State) : State := s.each ((List.range 14).map ingressPound) (fun p t => refill t p)

/-- INGRESS_ACCEPT (R98): the ingress collector accepts the next ready source, and the writers of the pounds go on. -/
def execIngressAccept (time : Nat) (s : State) : Host.Outcome State Fault Refusal :=
  let t := s.at time
  done s (refillAll (ingressAccept t))

/-- COLLECTOR_ACCEPT (R34, R36): a collector accepts the next waiting result in its rotation. -/
def execCollectorAccept (time : Nat) (c : Collector) (s : State) : Host.Outcome State Fault Refusal :=
  let t := s.at time
  done s (match c with
    | .reorder => if islUp t 4 then collectReorder t else t
    | .ingress => refillAll (ingressAccept t)
    | .command => if islUp t 7 then commandAccept t else t
    | .completion => if islUp t 3 then completionAccept t else t
    | .tap => if islUp t 20 then tapAccept t else t)

end Sys2Proof.Machine
end

