-- ==== Sys2Proof/Machine/Checkpoint.lean ====
section
/-! DEFINITION. The contents of CKPT records (R498, R500): the spec names what a checkpoint holds and not how its pieces are
written, so both directions are constants without a body (notes/assumptions/6.md). -/

namespace Sys2Proof

/-- The pieces of a checkpoint: the kind, the index and the contents of each CKPT record. -/
opaque Config.ckptItems : Machine.Ckpt → List (Nat × Nat × List Byte)

/-- The checkpoint that some CKPT records hold; none where they hold none. -/
opaque Config.ckptOf : List (Nat × Nat × List Byte) → Option Machine.Ckpt

end Sys2Proof
end

