-- ==== Sys2Proof/Machine/ImageCheck.lean ====
section
/-! DEFINITION. The checks that GEN makes on an image it loads (R56, R57, R61 to R70, R72, R73, R75, R77, R95, R533, R534)
and the checks of every table (R103 to R129, R143 to R147, R191 to R202, R209, R258, R264, R265, R276, R289). A check is an
error code of LOAD_STAT.ERR with whether it holds; the first failure in the order of R95 counts. -/

namespace Sys2Proof.Machine

/-- Checks made: each error code with whether its condition is met. -/
abbrev Chk := List (Nat × Bool)

/-- Bits that must be 0: error ENTRY_OP (R95). -/
def mbz (v mask : Nat) : Chk := [(16, decide (v &&& mask = 0))]

/-- A condition of error ENTRY_RANGE. -/
def inRange (b : Bool) : Chk := [(17, b)]

/-- A condition of error REF_RANGE (R67). -/
def refOk (b : Bool) : Chk := [(19, b)]

/-- A reference below a count (R67). -/
def refTo (v count : Nat) : Chk := refOk (decide (v < count))

/-- A table as the function of its own byte offsets; bytes past LENGTH are not read (R534). -/
def tabImg (g : Img) (t : Tbl) : Img := fun o => if o < t.len then g (t.off + o) else 0

/-- A part of `n` bytes at an offset lies within LENGTH (R534). -/
def partIn (len off n : Nat) : Chk := inRange (decide (n = 0) || decide (off + n ≤ len))

/-- How many of `n` records of `size` bytes from an offset lie within LENGTH. -/
def recsIn (len off n size : Nat) : Nat := if off ≤ len then min n ((len - off) / size) else 0

/-- `n` records of `size` bytes from an offset: placed within LENGTH (R534), and each that is there checked. -/
def recs (len off n size : Nat) (f : Nat → Chk) : Chk :=
  partIn len off (n * size) ++ (List.range (recsIn len off n size)).flatMap (fun i => f (off + size * i))

/-- Every byte of a range is 0: error ENTRY_OP. -/
def zeroBytes (g : Img) (off n : Nat) : Chk := [(16, (List.range n).all (fun i => g (off + i) == 0))]

/-- Some bit of a mask is set. -/
def anyBit (v mask : Nat) : Bool := decide (v &&& mask ≠ 0)

/-- The PARSE table (R103, R104, R106, R67). -/
def chkParse (g : Img) (t : Tbl) : Chk :=
  let p := tabImg g t
  let n := t.count
  let tc := iFld p 8 0 10
  let next := fun v => refOk (decide (v = 63) || decide (v < n))
  inRange (decide (1 ≤ n) && decide (n ≤ 63)) ++ partIn t.len 0 16 ++ mbz (i32 p 0) 0xFE00FFF0 ++ mbz (i32 p 4) 0xFFFFFFC0 ++
    mbz (i32 p 8) 0xFFFFFC00 ++ mbz (i32 p 12) 0xFFFFFFFF ++ next (iFld p 4 0 6) ++
    recs t.len 16 n 32 (fun o =>
      mbz (i32 p o) 0xFFFF0000 ++ [(16, decide (i8 p o ≤ 12))] ++ mbz (i32 p (o + 8)) 0x0000F000 ++
        mbz (i32 p (o + 12)) 0xFFC00000 ++ inRange (decide (iFld p (o + 12) 10 6 ≤ 16)) ++
        refOk (decide (iFld p (o + 12) 0 10 + iFld p (o + 12) 10 6 ≤ tc)) ++ next (iFld p (o + 12) 16 6) ++
        (List.range 4).flatMap (fun i => mbz (i32 p (o + 16 + 4 * i)) 0x78007800)) ++
    recs t.len (16 + 32 * n) tc 4 (fun o => mbz (i32 p o) 0xFFC00000 ++ next (iFld p o 16 6))

/-- One level of the diagram (R113, R114): `nn` is the node count of the next level, none on the last. -/
def chkLevel (p : Img) (len acts : Nat) (o : Nat) (nn : Option Nat) : Chk :=
  recs len (i32 p o) (i32 p (o + 4)) 4 (fun a =>
    inRange (decide (iFld p a 0 10 ≤ 639) && decide (iFld p a 0 10 + iFld p a 10 4 + 1 ≤ 640)) ++
      refOk (decide (iFld p a 14 18 + 2 ^ (iFld p a 10 4 + 1) ≤ i32 p (o + 12)))) ++
  recs len (i32 p (o + 8)) (i32 p (o + 12)) 4 (fun a =>
    if iFld p a 31 1 = 1 then refTo (iFld p a 0 16) acts
    else match nn with
      | none => refOk false
      | some c => refTo (iFld p a 0 18) c)

/-- Where action record `i` of a CLASS table lies. -/
def actAt (p : Img) (i : Nat) : Nat := i32 p 8 + 16 * i

/-- The CLASS table (R103, R113, R114, R116, R121): `nfq` is the number of flow-queue records, `nrw` that of REWRITE records,
`routed` whether some REWRITE record routes (R144). -/
def chkClass (g : Img) (t : Tbl) (nfq nrw : Nat) (routed : Bool) : Chk :=
  let p := tabImg g t
  let n := t.count
  let lv := iFld p 0 0 4 + 1
  let lo := i32 p 0x14
  let fc := i16 p 4
  let mir := i32 p 0x10
  inRange (decide (1 ≤ n)) ++ partIn t.len 0 64 ++ mbz (i8 p 0) 0xF0 ++ mbz (i8 p 1) 0xFE ++ zeroBytes p 0x18 40 ++
    inRange (decide (fc ≤ 1024)) ++ refTo (i16 p 2) n ++ partIn t.len lo (16 * lv) ++ refTo 0 (i32 p (lo + 4)) ++
    (List.range (recsIn t.len lo lv 16)).flatMap (fun d =>
      chkLevel p t.len n (lo + 16 * d) (if d + 1 < lv then some (i32 p (lo + 16 * (d + 1) + 4)) else none)) ++
    recs t.len (i32 p 0xC) fc 4 (fun o => mbz (i32 p o) 0xFFFF4000) ++ partIn t.len mir 128 ++
    (if i8 p 1 % 2 = 1 ∨ routed = true then refTo (i16 p 6) nfq else []) ++
    recs t.len (i32 p 8) n 16 (fun o =>
      mbz (i32 p o) 0xFFF000F0 ++ mbz (i32 p (o + 4)) 0x00008000 ++ mbz (i32 p (o + 8)) 0x7C007000 ++
        mbz (i32 p (o + 12)) 0xFFFF8000 ++
        (if iFld p o 0 1 = 1 then refTo (iFld p (o + 4) 0 15) nfq else []) ++
        (if iFld p o 1 1 = 1 then refTo (iFld p (o + 12) 0 15) nfq else []) ++
        (if iFld p o 2 1 = 1 then refTo (iFld p (mir + 8 * iFld p o 16 4) 0 15) nfq else []) ++
        refOk (decide (iFld p (o + 4) 16 16 ≤ nrw)) ++
        (if iFld p (o + 8) 31 1 = 1 then refTo (iFld p (o + 8) 16 10) fc else []))

/-- Some REWRITE record has L3OP 1, 2 or 3 (R144). -/
def rwRoutes (g : Img) (t : Tbl) : Bool :=
  (List.range (recsIn t.len 0 t.count 16)).any (fun i =>
    let v := iFld (tabImg g t) (16 * i) 0 4
    decide (1 ≤ v) && decide (v ≤ 3))

/-- The REWRITE table (R124). -/
def chkRewrite (g : Img) (t : Tbl) : Chk :=
  let p := tabImg g t
  recs t.len 0 t.count 16 (fun o =>
    [(16, decide (iFld p o 0 4 ≤ 4)), (16, decide (iFld p o 4 4 ≤ 3))] ++ mbz (i32 p (o + 8)) 0xFFFFFFFF ++
      mbz (i32 p (o + 12)) 0xFFFFFFFF ++ inRange (decide (iFld p o 0 4 ≠ 4) || decide (1 ≤ iFld p o 12 4)))

/-- A node of a prefix tree (R125, R126): its results up to NKEYS name nodes of the next level or next hops. -/
def chkTreeNode (p : Img) (o keys res hops : Nat) (nn : Option Nat) : Chk :=
  let k := iFld p o 0 4
  mbz (i32 p o) 0xFFFFFFF0 ++ zeroBytes p (o + 4) (keys - 4) ++
    (List.range (k + 1)).flatMap (fun j =>
      let r := i16 p (o + res + 2 * j)
      match nn with
      | some c => refTo r c
      | none => refOk (decide (r = 0xFFFF) || decide (r < hops)))

/-- A ROUTE4 (`n` = 4) or ROUTE6 (`n` = 16) table (R103, R125 to R127, R144); an empty one places nothing (R66). -/
def chkRoute (g : Img) (t : Tbl) (n nfq : Nat) : Chk :=
  if t.len = 0 then [] else
  let p := tabImg g t
  let lv := iFld p 4 0 2 + 1
  let tr := i32 p 0xC
  let esz := if n = 4 then 8 else 24
  let nsz := if n = 4 then 128 else 320
  let keys := if n = 4 then 4 else 16
  let res := if n = 4 then 64 else 256
  inRange (decide (t.count ≤ 4096)) ++ partIn t.len 0 64 ++
    recs t.len (i32 p 8) 16384 esz (fun o =>
      (if n = 4 then [] else zeroBytes p (o + 20) 4) ++
        (if iFld p (o + n) 16 1 = 1 then refTo (i16 p (o + n)) t.count else [])) ++
    partIn t.len tr (8 * lv) ++ refTo 0 (i32 p (tr + 4)) ++
    (List.range (recsIn t.len tr lv 8)).flatMap (fun d =>
      recs t.len (i32 p (tr + 8 * d)) (i32 p (tr + 8 * d + 4)) nsz (fun o =>
        chkTreeNode p o keys res t.count (if d + 1 < lv then some (i32 p (tr + 8 * (d + 1) + 4)) else none) ++
          zeroBytes p (o + res + 32) (nsz - res - 32))) ++
    recs t.len (i32 p 0x10) t.count 16 (fun o => refTo (iFld p (o + 12) 0 15) nfq)

/-- The NAT44 table (R103, R129). -/
def chkNat (g : Img) (t : Tbl) : Chk :=
  if t.len = 0 then [] else
  let p := tabImg g t
  inRange (decide (t.count ≤ 256) && decide (i8 p 0 ≤ 16)) ++ partIn t.len 0 16 ++ zeroBytes p 1 3 ++ zeroBytes p 12 4 ++
    recs t.len (i32 p 4) t.count 16 (fun o => mbz (i8 p (o + 13)) 0xFE ++ zeroBytes p (o + 14) 2) ++
    recs t.len (i32 p 8) (i8 p 0) 16 (fun o => zeroBytes p (o + 14) 2)

/-- Words 0 to 7 of a SHAPE record at a level (R144): 0 flow queue, 1 subscriber, 2 service, 3 link, 4 port; `up` is the
number of records PARENT may name. -/
def chkNode (p : Img) (lvl up o : Nat) : Chk :=
  mbz (i32 p o) (0xF8F80000 + (if lvl = 4 then 0x00071FFF else 0) + (if lvl = 0 then 0 else 0x0100E000) +
      (if lvl = 1 then 0 else 0x04000000)) ++
    mbz (i32 p (o + 12)) 0xFF000000 ++ mbz (i32 p (o + 16)) 0xFF000000 ++
    mbz (i32 p (o + 20)) (if lvl = 4 then 0xFFFFFFFF else 0xFFFF0000) ++
    mbz (i32 p (o + 24)) (if lvl = 0 then 0xFFFC0000 else 0xFFFFFFFF) ++
    mbz (i32 p (o + 28)) (if lvl = 0 then 0xFFFF0000 else 0xFFFFFFFF) ++
    (if lvl = 4 then [] else refTo (iFld p o 0 13) up)

/-- The SHAPE table (R143 to R147). -/
def chkShape (g : Img) (t : Tbl) : Chk :=
  let p := tabImg g t
  let nSub := i16 p 0
  let nSvc := i16 p 2
  let nLnk := i8 p 4
  let par := fun off i => iFld p (off + 32 * i) 0 13
  inRange (decide (t.count ≤ 32768) && decide (nSub ≤ 8192) && decide (nSvc ≤ 512) && decide (nLnk ≤ 128)) ++
    partIn t.len 0 64 ++ zeroBytes p 5 1 ++ zeroBytes p 0x20 32 ++
    (if t.count = 0 then [] else refTo (i16 p 6) t.count) ++
    recs t.len (i32 p 8) t.count 32 (chkNode p 0 nSub) ++ recs t.len (i32 p 0xC) nSub 32 (chkNode p 1 nSvc) ++
    recs t.len (i32 p 0x10) nSvc 32 (chkNode p 2 nLnk) ++ recs t.len (i32 p 0x14) nLnk 32 (chkNode p 3 70) ++
    recs t.len (i32 p 0x18) 72 64 (fun o =>
      chkNode p 4 0 o ++ mbz (i32 p (o + 32)) 0xC000FF00 ++
        inRange (decide (-64 ≤ signed 8 (i8 p (o + 32))) && decide (signed 8 (i8 p (o + 32)) ≤ 63) &&
          decide (64 ≤ iFld p (o + 32) 16 14)) ++ zeroBytes p (o + 52) 12) ++
    recs t.len (i32 p 0x1C) 4096 2 (fun o =>
      let sub := nbits (i16 p o) 0 13
      mbz (i16 p o) 0x6000 ++
        (if nbits (i16 p o) 15 1 = 0 then []
        else
          let port := par (i32 p 0x14) (par (i32 p 0x10) (par (i32 p 0xC) sub))
          refTo sub nSub ++ refOk (decide (66 ≤ port) && decide (port ≤ 68)) ++
            refOk (decide (iFld p (i32 p 0xC + 32 * sub) 26 1 = 0) || decide (port ≤ 67))))

/-- A LOCK port record at `o` (R68 to R70). -/
def chkLockRec (p : Img) (len round o : Nat) : Chk :=
  let n := iFld p o 0 9
  let cyc := i32 p (o + 4)
  let iv := (List.range (recsIn len (o + 16) n 8)).map (fun e => i32 p (o + 16 + 8 * e + 4))
  partIn len o 16 ++ (if len < o + 16 then [] else
    mbz (i32 p o) 0xFFFF7E00 ++ inRange (decide (1 ≤ n) && decide (n ≤ 256)) ++
      (if iFld p o 15 1 = 0 then mbz (i32 p (o + 8)) 0xFFFFFFFF ++ mbz (i32 p (o + 12)) 0xFFFFFFFF else []) ++
      recs len (o + 16) n 8 (fun a => mbz (i32 p a) 0xFFFFFF00) ++
      (if len < o + 16 + 8 * n then [] else
        [(14, decide (500 ≤ cyc) && iv.all (fun v => decide (500 ≤ v)) && decide (iv.sum = cyc)),
         (15, decide (cyc = 0) || decide (round % cyc = 0))]))

/-- The LOCK table (R68, R533). -/
def chkLock (g : Img) (t : Tbl) (round : Nat) : Chk :=
  let p := tabImg g t
  inRange (decide (t.count = 66)) ++ recs t.len 0 66 4 (fun a => chkLockRec p t.len round (i32 p a))

/-- START_NS, LEN_NS, EVERY and PHASE of an air entry or a blanking window (R57, R72, R75). -/
def chkWindow (p : Img) (o round : Nat) : Chk :=
  inRange (decide (1000 ≤ i32 p (o + 8)) && decide (1 ≤ i16 p (o + 12)) && decide (i16 p (o + 14) < i16 p (o + 12)) &&
    decide (i32 p (o + 4) + i32 p (o + 8) ≤ round))

/-- FLAGS that an entry type may set (R73), as bits [15:8] of word 0. -/
def flagMask (ty : Nat) : Nat :=
  match ty with
  | 1 => 0x0300
  | 2 => 0x0700
  | 3 => 0x0100
  | 5 => 0x0100
  | 6 => 0x0100
  | _ => 0

/-- BW of the channel an air entry names, and whether it lies in the 6 GHz band of Radio H (R194). -/
def entryChan (g : Img) (x n : Nat) : Nat × Bool :=
  (iFld g (chanOff g x n) 24 3, decide (x = 0) && decide (5925000 ≤ iFld g (chanOff g x n) 0 23))

/-- What an air entry names (R67, R73, R192 to R194, R198, R201, R205, R209). -/
def chkEntry (g : Img) (x e ty fl arg : Nat) : Chk :=
  let air := airTbl g x
  match ty with
  | 0 =>
    let b := iTbl g 0x0D
    let p := tabImg g b
    let r := i32 p (4 * arg)
    refTo arg b.count ++
      (if b.count ≤ arg then [] else
        inRange (decide (x ≠ 2) || decide (iFld p r 16 4 ≠ 1)) ++
          (List.range (iFld p r 12 4)).flatMap (fun f =>
            if iFld p (r + 8 + 8 * f) 0 4 = 1 then refTo (i16 p (r + 12 + 8 * f)) air.count else []))
  | 1 =>
    let b := iTbl g 0x0E
    let p := tabImg g b
    let r := i32 p (4 * arg)
    let c := entryChan g x (airFld g x e 0 4 4)
    [(16, decide (x ≠ 2))] ++ refTo arg b.count ++
      (if b.count ≤ arg then [] else
        inRange (decide (iFld p r 6 3 ≤ c.1) && (decide (iFld p r 6 3 ≠ 4) || c.2)) ++
          (if nbits fl 1 1 = 1 then refTo (iFld p r 16 12) (iTbl g 0x0F).count else []))
  | 2 =>
    let b := iTbl g 0x0F
    let p := tabImg g b
    let raw := decide (nbits fl 1 1 = 1)
    let spare := decide (nbits fl 2 1 = 1)
    refTo arg b.count ++ inRange ((!raw || decide (x = 2)) && (!raw || !spare) && (decide (nbits fl 0 1 = 0) || decide (x ≠ 2))) ++
      (if spare = true ∧ arg < b.count then refTo (iFld p (i32 p (4 * arg)) 16 12) b.count else [])
  | 3 =>
    inRange (decide (arg ≤ 4095) && (List.range e).all (fun i =>
      decide (airFld g x i 0 0 3 ≠ 3) || decide (airFld g x i 0 16 16 ≠ arg)))
  | 4 => refTo arg (iTbl g 0x10).count
  | 5 => [(16, decide (arg = 0))] ++ inRange (decide (nbits fl 0 1 = 0) || decide (x ≠ 2))
  | 6 => refTo arg (iTbl g 0x11).count
  | _ => [(16, false)]

/-- The air table of radio `x` (R72, R73, R75, R264). -/
def chkAir (g : Img) (x round : Nat) : Chk :=
  let t := airTbl g x
  let p := tabImg g t
  let n := recsIn t.len 0 t.count 16
  inRange (decide (t.count ≤ 4096)) ++
    [(18, (List.range n).all (fun i => decide (i = 0) || decide (i32 p (16 * (i - 1) + 4) ≤ i32 p (16 * i + 4))))] ++
    recs t.len 0 t.count 16 (fun o =>
      let ty := iFld p o 0 3
      mbz (i32 p o) (8 + (0xFF00 - flagMask ty)) ++ chkWindow p o round ++
        refTo (iFld p o 4 4) (chanCount g x) ++ chkEntry g x (o / 16) ty (iFld p o 8 8) (iFld p o 16 16))

/-- The frequency ranges of a radio in kHz (Radio Front-End Control), each with its band: 0 sub-GHz, 1 2.4 GHz, 2 5 GHz,
3 6 GHz. -/
def radioRanges (x : Nat) : List (Nat × Nat × Nat) :=
  match x with
  | 0 => [(5150000, 5850000, 2), (5925000, 7125000, 3)]
  | 1 => [(2400000, 2483500, 1), (5150000, 5850000, 2)]
  | _ => [(755000, 928000, 0)]

/-- The sluice permits a channel (R265): one band record contains the occupied range and permits the radio. -/
def sluPermits (s : State) (x : Nat) (r : Nat × Nat) : Bool :=
  (List.range 16).any (fun b => bandUsedRec s b && decide (2 * (sluWord s (8 + 8 * b) % 2 ^ 23) ≤ r.1) &&
    decide (r.2 ≤ 2 * (sluWord s (9 + 8 * b) % 2 ^ 23)) && decide (nbits (sluWord s (12 + 8 * b)) (16 + x) 1 = 1))

/-- Channel record `n` of radio `x` (R264, R265). -/
def chkChan (s : State) (g : Img) (x n : Nat) : Chk :=
  let o := chanOff g x n
  let bw := iFld g o 24 3
  let pri := iFld g o 28 4
  let punct := i16 g (o + 4)
  let pri1m := decide (iFld g (o + 4) 16 1 = 1)
  let r := chanRange g x n
  let unit := if x = 2 then (if decide (bw = 0) || pri1m then 1000 else 2000) else 20000
  let band := (radioRanges x).find? (fun b => decide (2 * b.1 ≤ r.1) && decide (r.2 ≤ 2 * b.2.1))
  mbz (i32 g o) 0x08800000 ++ mbz (i32 g (o + 4)) 0xFFFE0000 ++ mbz (i32 g (o + 8)) 0xFFFFFF00 ++
    mbz (i32 g (o + 12)) 0xFFFFFFFF ++ [(16, decide (bw ≤ 4))] ++
    (if 4 < bw then [] else
      inRange ((match band with
        | none => false
        | some b => (decide (bw ≠ 4) || (decide (x = 0) && decide (b.2.2 = 3))) && (decide (b.2.2 ≠ 1) || decide (bw ≤ 1))) &&
        decide (chanWidth g x n ≤ 2 * iFld g o 0 23) && decide ((pri + 1) * unit ≤ chanWidth g x n) &&
        (if x = 2 then decide (punct = 0)
          else !pri1m && (decide (punct = 0) || decide (2 ≤ bw)) && decide (punct < 2 ^ (2 ^ bw)) &&
            decide (nbits punct pri 1 = 0)) &&
        (!sluSealed s || sluPermits s x r)))

/-- The CHAN table (R264, R265, R533). -/
def chkChans (s : State) (g : Img) (t : Tbl) : Chk :=
  let p := tabImg g t
  let n := i8 p 0 + i8 p 1 + i8 p 2
  partIn t.len 0 16 ++ zeroBytes p 3 13 ++
    inRange (decide (i8 p 0 ≤ 16) && decide (i8 p 1 ≤ 16) && decide (i8 p 2 ≤ 16) && decide (t.count = n)) ++
    partIn t.len 16 (16 * n) ++
    (if t.len < 16 + 16 * n then [] else
      (List.range 3).flatMap (fun x => (List.range (i8 p x)).flatMap (fun k => chkChan s g x k)))

/-- SIZE that a fill KIND allows (R192). -/
def fillSize (kind size : Nat) : Bool :=
  match kind with
  | 0 => decide (size = 8)
  | 1 => decide (size = 4) || decide (size = 8)
  | 2 => decide (1 ≤ size) && decide (size ≤ 251)
  | _ => decide (size = 1)

/-- A beacon template at `o` (R191, R192). -/
def chkBeacon (p : Img) (len o : Nat) : Chk :=
  let n := iFld p o 12 4
  let blen := iFld p o 0 12
  let area := fun f => (iFld p (o + 8 + 8 * f) 4 12, iFld p (o + 8 + 8 * f) 16 8)
  partIn len o 8 ++ (if len < o + 8 then [] else
    mbz (i32 p o) 0xFFF00000 ++ mbz (i32 p (o + 4)) 0xFFFFFFFF ++
      inRange (decide (24 ≤ blen) && decide (blen ≤ 2048) && decide (n ≤ 8)) ++ [(16, decide (iFld p o 16 4 ≤ 1))] ++
      recs len (o + 8) n 8 (fun a =>
        mbz (i32 p a) 0xFF000000 ++ mbz (i32 p (a + 4)) 0xFFFF0000 ++ [(16, decide (iFld p a 0 4 ≤ 3))] ++
          inRange (decide (3 < iFld p a 0 4) || fillSize (iFld p a 0 4) (iFld p a 16 8)) ++
          inRange (decide (iFld p a 0 4 ≠ 3) || (decide (1 ≤ i16 p (a + 4)) && decide (i16 p (a + 4) ≤ 255))) ++
          inRange (decide (iFld p a 4 12 + iFld p a 16 8 ≤ blen))) ++
      inRange ((List.range n).all (fun i => (List.range i).all (fun j =>
        decide ((area i).1 + (area i).2 ≤ (area j).1) || decide ((area j).1 + (area j).2 ≤ (area i).1)))) ++
      partIn len (o + 8 + 8 * n) (ceilDiv blen 4 * 4))

/-- A user entry of a template or list at `o` (R193, R198). -/
def chkUser (p : Img) (list : Bool) (o : Nat) : Chk :=
  mbz (i32 p o) (if list then 0xF01FF000 else 0xF0000000) ++ mbz (i32 p (o + 4)) 0x80000000 ++
    inRange (decide (iFld p o 21 4 ≤ 13))

/-- The resource units of a TRIG template (R194): each defined for BW, distinct ones apart, at most four users and four
streams on each. -/
def ruOk (bw : Nat) (users : List (Nat × Nat)) : Bool :=
  users.all (fun u =>
    (Config.ruSpan bw u.1).isSome &&
      decide ((users.filter (fun v => decide (v.1 = u.1))).length ≤ 4) &&
      decide (((users.filter (fun v => decide (v.1 = u.1))).map (fun v => v.2 + 1)).sum ≤ 4) &&
      users.all (fun v => decide (v.1 = u.1) ||
        ((Config.ruSpan bw u.1).getD []).all (fun k => !((Config.ruSpan bw v.1).getD []).contains k)))

/-- A trigger template at `o` (R193, R194). -/
def chkTrig (p : Img) (len o : Nat) : Chk :=
  let n := iFld p o 0 6 + 1
  partIn len o 16 ++ (if len < o + 16 then [] else
    mbz (i32 p o) 0xF000F800 ++ mbz (i32 p (o + 4)) 0xFFFC0000 ++ mbz (i32 p (o + 8)) 0xFFFFFFFF ++
      mbz (i32 p (o + 12)) 0xFFFFFFFF ++ [(16, decide (iFld p o 6 3 ≤ 4))] ++ recs len (o + 16) n 8 (chkUser p false) ++
      (if 4 < iFld p o 6 3 ∨ len < o + 16 + 8 * n then [] else
        inRange (ruOk (iFld p o 6 3) ((List.range n).map (fun i =>
          (iFld p (o + 16 + 8 * i) 12 9, iFld p (o + 16 + 8 * i) 25 3))))))

/-- A station list at `o` (R198). -/
def chkList (p : Img) (len o : Nat) : Chk :=
  let n := iFld p o 0 9
  partIn len o 8 ++ (if len < o + 8 then [] else
    mbz (i32 p o) 0xF000FE00 ++ mbz (i32 p (o + 4)) 0xFFFFFFFF ++ inRange (decide (1 ≤ n) && decide (n ≤ 256)) ++
      recs len (o + 8) n 8 (chkUser p true))

/-- A table that begins with COUNT offsets to its records (R191, R193, R198). -/
def chkOffs (g : Img) (t : Tbl) (most : Nat) (f : Img → Nat → Nat → Chk) : Chk :=
  let p := tabImg g t
  inRange (decide (t.count ≤ most)) ++ recs t.len 0 t.count 4 (fun a => f p t.len (i32 p a))

/-- The EDCA table (R202). -/
def chkEdca (g : Img) (t : Tbl) : Chk :=
  let p := tabImg g t
  inRange (decide (t.count ≤ 16)) ++ recs t.len 0 t.count 16 (fun o =>
    (List.range 4).flatMap (fun c =>
      mbz (i32 p (o + 4 * c)) 0xF000F000 ++
        inRange (decide (2 ≤ iFld p (o + 4 * c) 0 4) && decide (iFld p (o + 4 * c) 4 4 ≤ iFld p (o + 4 * c) 8 4))))

/-- The CAL_SET table (R276). -/
def chkCal (g : Img) (t : Tbl) : Chk :=
  let p := tabImg g t
  recs t.len 0 t.count 8 (fun o =>
    mbz (i32 p o) 0xFFFFF0C0 ++ mbz (i32 p (o + 4)) 0xFFFFFFFF ++
      inRange (decide (iFld p o 0 6 ≠ 0) && decide (iFld p o 8 4 ≠ 0)))

/-- The BLANK table (R289). -/
def chkBlank (g : Img) (t : Tbl) (round : Nat) : Chk :=
  let p := tabImg g t
  inRange (decide (t.count ≤ 64)) ++ partIn t.len 0 64 ++
    (List.range 4).flatMap (fun w => mbz (i32 p (32 + 4 * w)) 0xFFFFFFE8) ++ zeroBytes p 48 16 ++
    recs t.len 64 t.count 16 (fun o => mbz (i32 p o) 0xFFFFFFF8 ++ chkWindow p o round)

/-- The FALLBACK table (R258); `p` of the SHAPE table gives the counts. -/
def chkFallback (g : Img) (t : Tbl) : Chk :=
  let p := tabImg g t
  let sh := tabImg g (iTbl g 0x07)
  let nodes := fun l => if l = 1 then i16 sh 0 else if l = 2 then i16 sh 2 else i8 sh 4
  let ups := fun l => if l = 1 then i16 sh 2 else if l = 2 then i8 sh 4 else 70
  inRange (decide (t.count ≤ 1024)) ++ recs t.len 0 t.count 8 (fun o =>
    let l := iFld p o 13 2
    let mask := i16 p (o + 4)
    mbz (i32 p o) 0xE0008000 ++ [(16, decide (l ≠ 0))] ++
      inRange (decide (mask ≠ 0) && !anyBit mask 0xE0 && !anyBit (i16 p (o + 6)) (0xFFFF - mask)) ++
      (if l = 0 then [] else refTo (iFld p o 0 13) (nodes l) ++ refTo (iFld p o 16 13) (ups l)))

/-- Every table of an image. -/
def chkTables (s : State) (g : Img) : Chk :=
  let round := i32 g 0x0C
  let nfq := (iTbl g 0x07).count
  let rw := iTbl g 0x03
  chkParse g (iTbl g 0x01) ++ chkClass g (iTbl g 0x02) nfq rw.count (rwRoutes g rw) ++ chkRewrite g rw ++
    chkRoute g (iTbl g 0x04) 4 nfq ++ chkRoute g (iTbl g 0x05) 16 nfq ++ chkNat g (iTbl g 0x06) ++
    chkShape g (iTbl g 0x07) ++ chkLock g (iTbl g 0x08) round ++ chkAir g 0 round ++ chkAir g 1 round ++
    chkAir g 2 round ++ chkChans s g (iTbl g 0x0C) ++ chkOffs g (iTbl g 0x0D) 64 chkBeacon ++
    chkOffs g (iTbl g 0x0E) 256 chkTrig ++ chkOffs g (iTbl g 0x0F) 1024 chkList ++ chkEdca g (iTbl g 0x10) ++
    chkCal g (iTbl g 0x11) ++ chkBlank g (iTbl g 0x12) round ++ chkFallback g (iTbl g 0x13)

/-- The first failure among checks in the order of R95. -/
def firstFail (c : Chk) : Option Nat :=
  [14, 15, 16, 17, 18, 19].find? (fun e => c.any (fun x => decide (x.1 = e) && !x.2))

/-- The checks on the header (R61, R95): the first failure. -/
def headerError (g : Img) (len : Nat) : Option Nat :=
  if i32 g 0 ≠ 0x54494557 then some 4
  else if i16 g 4 ≠ 1 ∨ i16 g 6 ≠ 64 then some 5
  else if i8 g 8 / 16 ≠ 0 ∨ i32 g 0x1C ≠ 0 ∨ (iBytes g 0x28 20).any (fun b => b != 0) = true ∨
      crc32 (iBytes g 0 0x3C) ≠ i32 g 0x3C then some 6
  else if i32 g 0x10 ≠ len then some 3
  else none

/-- The length of the signature of a type (R62). -/
def sigLen (ty : Nat) : Nat := if ty = 1 then 64 else if ty = 2 then 32 else 0

/-- A signature type is accepted in the lifecycle state (R459). -/
def sigAccepted (s : State) (ty : Nat) : Bool :=
  match lcState s with
  | 0 => decide (ty ≤ 2)
  | 3 => decide (ty ≤ 1)
  | _ => decide (ty = 1) || decide (ty = 2)

/-- What the header alone settles of the signature (R63, R459): the type is accepted and the length fits it. -/
def sigFits (s : State) (g : Img) (len : Nat) : Bool :=
  sigAccepted s (i8 g 9) && (decide (i8 g 9 ≠ 2) || (decide (len % 64 = 32) && decide (288 ≤ len)))

/-- The signature of an image is accepted and right (R62, R63, R459). -/
def sigGood (s : State) (g : Img) (len : Nat) : Bool :=
  let ty := i8 g 9
  sigFits s g len &&
    (if ty = 0 then true
    else if ty = 1 then sigOk (pubKey s 32) (iBytes g 0 (len - 64)) (iBytes g (len - 64) 64)
    else Config.hmac (genKey s) (iBytes g 0 (len - 32)) == iBytes g (len - 32) 32)

/-- The directory obeys R64 and R65. -/
def dirGood (g : Img) (len : Nat) : Bool :=
  let n := i16 g 0x0A
  let lo := 0x40 + 16 * n
  let hi := len - sigLen (i8 g 9)
  let ty := fun k => i8 g (0x40 + 16 * k)
  decide (10 ≤ n) && decide (n ≤ 32) && decide (lo ≤ hi) && (List.range n).all (fun k =>
    let t := iDir g k
    decide (1 ≤ ty k) && decide (ty k ≤ 0x13) && decide (t.off % 64 = 0) && decide (lo ≤ t.off) &&
      decide (t.off + t.len ≤ hi) && (decide (t.len ≠ 0) || decide (t.count = 0)) &&
      (List.range k).all (fun j => decide (ty j ≠ ty k) && (decide (t.len = 0) || decide ((iDir g j).len = 0) ||
        decide (t.off + t.len ≤ (iDir g j).off) || decide ((iDir g j).off + (iDir g j).len ≤ t.off))))

/-- The table types that every generation holds (R66). -/
def requiredTables : List Nat := [0x01, 0x02, 0x07, 0x08, 0x09, 0x0A, 0x0B, 0x0C, 0x12, 0x13]

/-- A tag that a load may not use (R77). -/
def tagBusy (s : State) (tag : Nat) : Bool :=
  tagRetired s tag || (List.range 4).any (fun k => decide (2 ≤ slotState s k) && decide (slotTag s k = tag))

/-- ROUND_NS obeys R56. -/
def roundGood (r : Nat) : Bool := decide (r % 1000 = 0) && decide (125000 ≤ r) && decide (r ≤ 1048576000)

/-- Every directory entry has VERSION 1 (R64). -/
def versionsGood (g : Img) : Bool := (List.range (i16 g 0x0A)).all (fun k => decide (i8 g (0x40 + 16 * k + 1) = 1))

/-- The checks that follow the header's, in the order of R95: the first failure. -/
def imageError (s : State) (g : Img) (len : Nat) : Option Nat :=
  let dir := List.range (i16 g 0x0A)
  if sigGood s g len = false then some 7
  else if dirGood g len = false then some 8
  else if versionsGood g = false then some 9
  else if dir.any (fun k => decide (crc32 (iBytes g (iDir g k).off (iDir g k).len) ≠ i32 g (0x40 + 16 * k + 12))) = true then
    some 10
  else if requiredTables.any (fun ty => (iTbl? g ty).isNone) = true then some 11
  else if tagBusy s (i8 g 8 % 16) = true then some 12
  else if roundGood (i32 g 0x0C) = false then some 13
  else firstFail (chkTables s g)

end Sys2Proof.Machine
end

