-- ==== Sys2Proof/Machine/Load.lean ====
section
/-! DEFINITION. Loading an image (R78, R85 to R87, R95, R535) and the round boundary with its swap (R58, R60, R76, R78, R88,
R153, R187, R257, R267, R492). -/

namespace Sys2Proof.Machine

/-- A load ends (R78, R95): its result, and LOAD_DONE or LOAD_ERR. -/
def loadEnd (s : State) (err : Nat) : State :=
  ({ s with gen := { s.gen with load := none } }.setFlds Reg.genLoadStat [(0, 1, 0), (8, 8, err)]).raise Reg.genIrqRaw
    (if err = 0 then 3 else 4)

/-- The load in progress ends with an error and its slot becomes FREE. -/
def loadFail (s : State) (k err : Nat) : State := loadEnd (freeSlot s k) err

/-- The pages of the table store that no slot holds. -/
def freePages (s : State) : List Nat :=
  (List.range 1536).filter (fun p => !(s.gen.pages.any (fun e => e.2.contains p)))

/-- A lowest FREE slot (notes/assumptions/18.md). -/
def freeSlotNo (s : State) : Option Nat := (List.range 4).find? (fun k => decide (slotState s k = 0))

/-- The draining slots that forced retirement may consider (R85), oldest swap first. -/
def retirable (s : State) : List Nat :=
  ((List.range 4).filter (fun k => decide (slotState s k = 5) && !s.bit (Reg.genSlotStat k) 16)).mergeSort
    (fun a b => decide (bankGet (fun _ => (0 : Nat)) s.gen.swapAt a ≤ bankGet (fun _ => 0) s.gen.swapAt b))

/-- The slots that a load retires (R85), taken in order until it has a slot and its pages: none where that cannot provide
everything. `counting` is the number of retired tags still counting. -/
def retirePlan (s : State) : List Nat → Bool → Nat → Nat → Nat → Option (List Nat)
  | [], slot, have_, need, _ => if slot && decide (need ≤ have_) then some [] else none
  | k :: r, slot, have_, need, counting =>
    if slot && decide (need ≤ have_) then some []
    else
      let c := decide (s.regN (Reg.genSlotRef k) ≠ 0)
      if c && decide (4 ≤ counting) then retirePlan s r slot have_ need counting
      else (retirePlan s r true (have_ + (slotPages s k).length) need (counting + bnat c)).map (fun l => k :: l)

/-- One generation retired forcibly (R85, R86). -/
def retireOne (k : Nat) (s : State) : State :=
  let n := s.regN (Reg.genSlotRef k)
  let s := if n = 0 then s else setRetired s (s.gen.retired ++ [⟨slotTag s k, n⟩])
  (freeSlot s k).raise Reg.genIrqRaw 6

/-- A slot enters LOADING with its pages, in the places that are free (R78, R535). -/
def loadInto (s : State) (k addr len : Nat) : State :=
  let pages := (freePages s).take (ceilDiv len 4096)
  let s := { s with gen := { s.gen with pages := bankSet (fun _ => []) s.gen.pages k pages, load := some (k, addr, len) } }
  let s := (setSlotState s k 1).setNat (Reg.genSlotBase k) (4096 * pages.headD 0)
  (s.setNat (Reg.genSlotSize k) (4096 * pages.length)).setFlds Reg.genLoadStat [(0, 1, 1), (4, 2, k), (8, 8, 0)]

/-- LOAD_ADDR. -/
def loadAddr (s : State) : Nat := s.regN Reg.genLoadAddrLo + 2 ^ 32 * s.fld Reg.genLoadAddrHi 0 8

/-- The effect of LOAD_CMD start (R78, R85, R95): the first five checks, forced retirement, and the fetch begins. -/
def loadStart (s : State) : State :=
  let len := s.regN Reg.genLoadLen
  let need := ceilDiv len 4096
  let refused := fun e => loadEnd s e
  if s.bit Reg.genLoadStat 0 then s
  else if (List.range 4).any (fun k => decide (1 ≤ slotState s k) && decide (slotState s k ≤ 3)) then refused 1
  else if loadAddr s % 64 ≠ 0 then refused 2
  else if len < 256 ∨ 3145728 < len then refused 3
  else match retirePlan s (retirable s) (freeSlotNo s).isSome (freePages s).length need s.gen.retired.length with
    | none => refused (if (freeSlotNo s).isNone then 20 else 21)
    | some l =>
      let t := s.each l retireOne
      match freeSlotNo t with
      | none => t
      | some k => loadInto t k (loadAddr s) len

/-- The effect of LOAD_CMD abort (R78, R95). -/
def loadAbort (s : State) : State :=
  match s.gen.load with
  | none => s
  | some (k, _, _) => loadFail s k 23

/-- The effect of a write to LOAD_CMD. -/
def loadCmd (s : State) (d : Word) : State := if d = 1 then loadStart s else if d = 2 then loadAbort s else s

/-- The image in DRAM at an address, of a length. -/
def dramImg (s : State) (addr len : Nat) : Img := fun o => if o < len then memGet s.dram (addr - 0x800000000 + o) else 0

/-- How the load of an image ends whose header was read and some of whose bytes cannot be (R95): an unsigned image may
fail a check of its directory before the fetch reaches those bytes, every other signature needs them all. -/
def cutError (s : State) (g : Img) (addr : Nat) : Nat :=
  let n := i16 g 0x0A
  if i8 g 9 ≠ 0 then 22
  else if n < 10 ∨ 32 < n then 8
  else if dmaGood s false addr (0x40 + 16 * n) false = false then 22
  else if dirGood g (i32 g 0x10) = false then 8
  else if versionsGood g = false then 9
  else 22

/-- The first check that an image at an address fails, with 22 for an access that gets an error response (R87, R95). -/
def loadError (s : State) (addr len : Nat) : Option Nat :=
  let g := dramImg s addr len
  if dmaGood s false addr 64 false = false then some 22
  else match headerError g len with
    | some e => some e
    | none =>
      if sigFits s g len = false then some 7
      else if dmaGood s false addr len false = false then some (cutError s g addr)
      else imageError s g len

/-- The pages of a slot filled from an image; the last is padded with zeros (R535). -/
def storePages (s : State) (k : Nat) (g : Img) : State :=
  s.each ((List.range (slotPages s k).length).zip (slotPages s k)) (fun e t => t.tsWrite (4096 * e.2) (iBytes g (4096 * e.1) 4096))

/-- A load has passed its checks (R78): the slot becomes READY. -/
def loadPass (s : State) (k addr len : Nat) : State :=
  let g := dramImg s addr len
  let s := storePages s k g
  let s := { s with gen := { s.gen with loadAt := bankSet (fun _ => 0) s.gen.loadAt k addr } }
  let s := (setSlotState s k 2).setFld (Reg.genSlotStat k) 8 4 (i8 g 8)
  loadEnd (s.setNat (Reg.genSlotSeq k) (i32 g 0x14)) 0

/-- LOAD_CMD_START (R95, R85). -/
def execLoadCmdStart (time : Nat) (init : Init) (s : State) : Host.Outcome State Fault Refusal :=
  let t := s.at time
  done s (busDo t init Reg.genLoadCmd 4 (some 1) loadStart)

/-- LOAD_DONE (R78, R87, R95): the fetch over DRAM port 7 and its checks end. -/
def execLoadDone (time : Nat) (s : State) : Host.Outcome State Fault Refusal :=
  let t := s.at time
  done s (match t.gen.load with
    | none => t
    | some (k, a, n) =>
      let u := dmaUse t 7 a n false
      match loadError t a n with
      | none => loadPass u k a n
      | some e => loadFail (if e = 22 then dmaFail u a n else u) k e)

/-- LOAD_DRAM_ERROR (R87, R95): an error response on DRAM port 7. -/
def execLoadDramError (time : Nat) (s : State) : Host.Outcome State Fault Refusal :=
  let t := s.at time
  done s (match t.gen.load with
    | none => t
    | some (k, _, _) => loadFail t k 22)

/-- LOAD_ABORT (R95). -/
def execLoadAbort (time : Nat) (init : Init) (s : State) : Host.Outcome State Fault Refusal :=
  let t := s.at time
  done s (busDo t init Reg.genLoadCmd 4 (some 2) loadAbort)

/-- Everything that follows a swap (R78, R84, R88, R91, R153, R257, R267): `o` is the state before the boundary. -/
def swapAll (o s : State) (k b idx : Nat) : State :=
  let s := s.each (List.range 3) (fun x t => askForget (listenFreeze t x b) x b)
  let s := swapBuckets o b (swapTo s k b idx)
  let s := chanSwap o s
  let s := s.each (List.range 3) (fun x t => setPlay t x (t.airOf x).play)
  reviewGhStall (reviewDeficits (fallbackNow s))

/-- The armed slot becomes current at the DT `b`, or misses its boundary while GEN is in reset (R492). -/
def swapDue (o s : State) (b idx : Nat) : State :=
  match armedSlot s with
  | none => s
  | some k =>
    if b < s.gen.tgtDt then s
    else if islUp s 6 then swapAll o s k b idx
    else { s with gen := { s.gen with missed := true } }

/-- ROUND_BOUNDARY (R58, R60, R88, R89, R187): the round index moves on, the names bitmap clears and every air entry may
fire anew; an armed generation whose target boundary this is swaps in. With no generation current, the boundary is the
armed one's first. -/
def execRoundBoundary (time : Nat) (s : State) : Host.Outcome State Fault Refusal :=
  let t := s.at time
  done s (match curSlot t with
    | none =>
      match armedSlot t with
      | none => t
      | some k => if t.gen.tgtDt ≤ t.dt ∧ t.gen.missed = false then
          swapDue t t t.gen.tgtDt (t.gen.tgtDt / max 1 (slotRound t k)) else t
    | some _ =>
      if t.dt < nextBdy t then t
      else
        let b := nextBdy t
        let u := airRound t
        let u := { u with gen := { u.gen with bdy := b, announced := false, names := [] } }
        let u := (u.setPair Reg.genRoundIdxLo (roundIdx u + 1)).setPair Reg.genNextBdyLo (b + roundNs u)
        airRoundEnd (swapDue t u b (roundIdx u)))

end Sys2Proof.Machine
end

