-- ==== Sys2Proof/Machine/Islands.lean ====
section
/-! DEFINITION. Islands: resets, power switches and grafts (R17 to R19, R37 to R42, R54, R490, R492, R496, R531, R538), and
the hang monitors with what the device does on a hang (R487 to R489, R491). -/

namespace Sys2Proof.Machine

/-- The progress monitor of an island. -/
def State.hangMon (s : State) (i : Nat) : HangMon := bankGet (fun _ => {}) s.flt.mon i

/-- A progress monitor replaced. -/
def State.setHangMon (s : State) (i : Nat) (m : HangMon) : State :=
  { s with flt := { s.flt with mon := bankSet (fun _ => {}) s.flt.mon i m } }

/-- The words after the packet in progress: its rest is dropped by a writer whose reader was reset. -/
def afterRest (ws : List PWord) : List PWord := (ws.dropWhile (fun w => !w.last)).drop 1

/-- The references of the packets whose first word is among some words (R82). -/
def releaseFirst (s : State) (ws : List PWord) : State :=
  s.each (ws.filter (·.first)) (fun w t => releaseTag t w.info.tag)

/-- TS loses the dispatches unread in DISP slots, whose tasks are placed again, and the DONE words that wait (R490). -/
def loseTs (s : State) : State :=
  let s := s.each (List.range 8) (fun c t =>
    let t := t.setBit (Reg.tsWStgStat c) 0 false
    if t.bit (Reg.tsWDisp c) 31 = false then t
    else match holdOfCore t c with
      | none => t
      | some k =>
        let t := (setHoldOfCore t c none).orReg (Reg.tsTaskFlags k) (t.reg (Reg.tsWFired c))
        ((t.setReg (Reg.tsWDisp c) 0).setTaskState k 1).reviewTask k)
  { s with ts := { s.ts with doneWait := [] } }

/-- The references a frame in the pipeline holds (R82): its own, or once released those of its packets, of the copy to the
gauge house and of the recirculated frame; a streaming packet's goes with its first word. -/
def frameRefs (f : PpFrame) : Nat :=
  match f.fate with
  | none => 1
  | some x => x.outs.length - bnat f.streaming + bnat x.gauge + bnat x.recirc.isSome

/-- PP loses every frame in it and in its recirculation buffer, with their references (R82, R490); its writers drop the rest
of a packet that they had begun (R39). -/
def losePp (s : State) : State :=
  let s := cpuCut s
  let s := s.each (List.range 66) (fun p t =>
    if (t.mac p).rxMid then t.setMac p { t.mac p with rxq := afterRest (t.mac p).rxq, rxMid := false } else t)
  let s := s.each (List.range 3) (fun x t =>
    if (t.pound (20 + x)).midW then t.setRadio x { t.radio x with outQ := afterRest (t.radio x).outQ } else t)
  let s := s.each s.pp.frames (fun f t => t.each (List.replicate (frameRefs f) f.tag) (fun g u => releaseTag u g))
  let s := s.each s.pp.recirc (fun f t => releaseTag t f.tag)
  let s := releaseFirst s s.pp.outQ
  let s := match s.pp.gauge with
    | none => s
    | some g => releaseTag s g.1
  let s := s.setFlds Reg.ppPpStat [(0, 9, 0)]
  { s.setBit Reg.ppNatCmdStat 0 false with pp := { nextFid := s.pp.nextFid, sessions := s.pp.sessions } }

/-- TM loses every frame it held (R178, R490), those that PD28 still holds with them. -/
def loseTm (s : State) : State :=
  let q := s.pound 28
  let s := releaseFirst s (q.ready ++ q.flight)
  let mid := q.midW
  let s := { s with pp := { s.pp with
    outQ := if mid && !s.pp.frames.any (·.streaming) then afterRest s.pp.outQ
      else if s.pp.frames.any (·.streaming) then [] else s.pp.outQ,
    frames := s.pp.frames.map (fun f => if f.streaming then
        { f with streaming := false, fate := f.fate.map (fun x => { x with outs := x.outs.drop 1 }) } else f) } }
  tmIslandReset (egressCut s)

/-- GEN loses a load in progress and the players' positions, which rejoin under R54 (R490). -/
def loseGen (s : State) : State :=
  let s := loadAbort s
  s.each (List.range 3) (fun x t =>
    let t := airEnd t x
    t.setAirOf x { t.airOf x with fired := [], lapped := [] })

/-- A radio loses the PPDU and the reception in progress, and the frames it holds (R270, R303, R490): what its run has reserved and not
used is released (R221), and what it waited for stays unanswered. -/
def loseRadio (s : State) (x : Nat) : State :=
  let s := if txState s x = 4 then txCut s x else s
  let s := match (s.radio x).run with
    | none => s
    | some r => releaseRun s x r
  let s := femRest (setTx s x 0 none) x
  let s := wakeUnsure (rxLeave s x 0) x
  let r := s.radio x
  let s := s.setRadio x { r with outQ := [], report := [], cal := none, due := [], await := [], busyTo := 0, nav := 0, kept := none,
                                 undo := none, stock := [], exEnd := none, tun := none, blankOut := {},
                                 chains := r.chains.map (fun e => (e.1, { e.2 with
                                   blind := false, searching := false, txEn := {}, paEn := {}, rxEn := {}, byp := {} })) }
  let s := s.setAirOf x { s.airOf x with edcaAc := none, txop := none }
  let l := sentOf s x
  let s := unacked (setSent s x []) l
  let s := forfeitPlay s x 0
  setSyn (egressLost s (66 + x)) x 0

/-- A port loses what its buffers hold (R490). -/
def losePort (s : State) (p : Nat) : State := macIslandReset (egressLost s p) p

/-- The uplinks lose frames in flight (R490); a frame partly written to a receive ring is dropped under R368. -/
def loseUl (s : State) : State :=
  let s := losePort (losePort s 64) 65
  s.each (List.range 2) (fun u t => t.setUplink u { t.uplink u with dir := none, hold := false })

/-- TP loses the records in its tap pounds (R490): a checkpoint being taken has a gap (R501), and a replay ends. -/
def loseTp (s : State) : State :=
  let s := match s.tp.taking with
    | none => s
    | some m => s.setFld (Reg.tpMarkStat m) 0 2 3
  let s := (s.setBit Reg.tpMarkCmdStat 0 false).setBit Reg.tpRpStat 0 false
  { s.setBit Reg.tpTpStat 3 false with tp := { s.tp with taking := none, ckpt := none, play := none } }

/-- What island `i` loses at a reset or a switch-off (R490). -/
def loseIsland (s : State) (i : Nat) : State :=
  match i with
  | 3 => loseTs s
  | 4 => losePp s
  | 5 => loseTm s
  | 6 => loseGen s
  | 7 => mcIslandReset s
  | 8 => loseRadio s 0
  | 9 => loseRadio s 1
  | 10 => loseRadio s 2
  | 19 => loseUl s
  | 20 => loseTp s
  | _ =>
    if 11 ≤ i ∧ i < 19 then
      phyIslandReset (s.each ((List.range 8).map (fun j => 8 * (i - 11) + j)) (fun p t => losePort t p)) (i - 11)
    else s

/-- The ports whose player lies in island `i`. -/
def islandPorts (i : Nat) : List Nat :=
  if i = 19 then [64, 65] else if 11 ≤ i ∧ i < 19 then (List.range 8).map (fun j => 8 * (i - 11) + j) else []

/-- PLAY_STAT of the players of island `i`, and of all of them for GEN (R54). -/
def playersOf (s : State) (i : Nat) : State :=
  let s := s.each (if i = 6 then List.range 66 else islandPorts i) (fun p t => playWired t p)
  if 8 ≤ i ∧ i < 11 then setPlay s (i - 8) (s.airOf (i - 8)).play else s

/-- The present clock of an island as its register shows it when it runs; CC's follows CLK_SEL. -/
def clockMhz (s : State) (i : Nat) : Nat :=
  if i = 2 then 400 * (s.fld (Reg.topIslCtrl 2) 4 2 + 1)
  else if i = 7 then speedMhz (s.reg (Reg.mcGeom (bnat (decide (mcState s 0 = 0) && decide (mcState s 1 ≠ 0)))))
  else (regReset (Reg.topIslClk i)).toNat % 65536

/-- The island's clock stopped or running (ISL_STAT.CLK_RUN, ISL_CLK). -/
def setClock (s : State) (i : Nat) (run : Bool) : State :=
  (s.setBit (Reg.topIslStat i) 1 run).setFld (Reg.topIslClk i) 0 16 (if run then clockMhz s i else 0)

/-- The island's reset asserted (R37 to R39): its pounds close and what R490 does not keep is lost. -/
def resetIsland (s : State) (i : Nat) : State :=
  let s := if s.bit (Reg.topIslStat i) 3 then s else closePounds (loseIsland s i) i
  playersOf (setClock (s.setFlds (Reg.topIslStat i) [(2, 1, 0), (3, 1, 1), (4, 1, 1), (8, 2, 0)]) i false) i

/-- The island's reset released (R37): its clock runs and it initialises. -/
def releaseIsland (s : State) (i : Nat) : State := setClock s i true

/-- The island switched off (R531): its links fall with its lines. -/
def powerOff (s : State) (i : Nat) : State :=
  let s := resetIsland s i
  let s := s.setFlds (Reg.topIslStat i) [(0, 1, 0), (8, 2, 3)]
  if i = 19 then ulDown (ulDown s 0 .sync) 1 .sync else s.each (islandPorts i) (fun p t => spDown t p)

/-- The island switched on again (R531): it initialises, or stays in reset while RST_HOLD is 1. -/
def powerOn (s : State) (i : Nat) : State :=
  let s := s.setFlds (Reg.topIslStat i) [(0, 1, 1), (8, 2, 0)]
  if s.bit (Reg.topIslCtrl i) 0 then s else releaseIsland s i

/-- What becomes of an island's work once it is ready (R54, R153, R492): every bucket of TM starts at its cap, GEN fixes a missed swap anew, and a radio's synthesiser
starts from WARM. -/
def readyWork (s : State) (i : Nat) : State :=
  if i = 5 then { s with tm := { s.tm with bkts := [] } }
  else if i = 6 then genReady s else if 8 ≤ i ∧ i < 11 then setSyn s (i - 8) 1 else s

/-- The island's pounds reopen and its players rejoin (R37, R41, R54). -/
def reopen (s : State) (i : Nat) : State :=
  (playersOf (openPounds (s.setBit (Reg.topIslStat i) 4 false) i) i).each
    (if i = 6 then List.range 3 else if 8 ≤ i ∧ i < 11 then [i - 8] else []) (fun x t => airRejoin t x)

/-- Bits of ISL_CTRL that a write sets (R17, R18). -/
def islCtrlMask (i : Nat) : Nat := if i = 21 then 0 else if i < 2 then 4 else if i = 2 then 0x34 else 7

/-- The effect of a write to ISL_CTRL[i] (R17, R18, R37, R41, R531): FORCE_OFF first, then RST_HOLD, then GRAFT. -/
def islCtrlWrite (s : State) (i : Nat) (d : Word) : State :=
  let old := s.reg (Reg.topIslCtrl i)
  let s := s.setReg (Reg.topIslCtrl i) (mergeMask old d (islCtrlMask i))
  let new := s.reg (Reg.topIslCtrl i)
  let rise := fun b => bitOf new b && !bitOf old b
  let fall := fun b => bitOf old b && !bitOf new b
  let s := if i = 2 then setClock s 2 true else s
  let s := if rise 1 then powerOff s i else if fall 1 then powerOn s i else s
  let s := if bitOf new 1 then s
    else if rise 0 then resetIsland s i
    else if fall 0 && !fall 1 then
      releaseIsland (s.setHangMon i { s.hangMon i with esc := false, resetAt := none }) i
    else s
  if fall 2 && s.bit (Reg.topIslStat i) 2 && s.bit (Reg.topIslStat i) 4 then reopen s i else s

/-- The word of ISL_CTRL[i] with one bit changed. -/
def islCtrlWith (s : State) (i b : Nat) (v : Bool) : Word := putBit (s.reg (Reg.topIslCtrl i)) b v

/-- ISLAND_RESET_HOLD (R37). -/
def execIslandResetHold (time : Nat) (init : Init) (i : Fin 22) (s : State) : Host.Outcome State Fault Refusal :=
  let t := s.at time
  let d := islCtrlWith t i 0 true
  done s (busDo t init (Reg.topIslCtrl i) 4 (some d) (fun t => islCtrlWrite t i d))

/-- ISLAND_RESET_RELEASE (R37). -/
def execIslandResetRelease (time : Nat) (init : Init) (i : Fin 22) (s : State) : Host.Outcome State Fault Refusal :=
  let t := s.at time
  let d := islCtrlWith t i 0 false
  done s (busDo t init (Reg.topIslCtrl i) 4 (some d) (fun t => islCtrlWrite t i d))

/-- ISLAND_FORCE_OFF (R531). -/
def execIslandForceOff (time : Nat) (init : Init) (i : Fin 22) (s : State) : Host.Outcome State Fault Refusal :=
  let t := s.at time
  let d := islCtrlWith t i 1 true
  done s (busDo t init (Reg.topIslCtrl i) 4 (some d) (fun t => islCtrlWrite t i d))

/-- ISLAND_POWER_UP (R531). -/
def execIslandPowerUp (time : Nat) (init : Init) (i : Fin 22) (s : State) : Host.Outcome State Fault Refusal :=
  let t := s.at time
  let d := islCtrlWith t i 1 false
  done s (busDo t init (Reg.topIslCtrl i) 4 (some d) (fun t => islCtrlWrite t i d))

/-- GRAFT_CLEAR (R41, R54). -/
def execGraftClear (time : Nat) (init : Init) (i : Fin 22) (s : State) : Host.Outcome State Fault Refusal :=
  let t := s.at time
  let d := islCtrlWith t i 2 false
  done s (busDo t init (Reg.topIslCtrl i) 4 (some d) (fun t => islCtrlWrite t i d))

/-- An island whose reset is released has initialised (R37, R41, R487). -/
def islandReady (s : State) (i : Nat) : State :=
  let graft := s.bit (Reg.topIslCtrl i) 2
  let s := s.setFlds (Reg.topIslStat i) [(2, 1, 1), (3, 1, 0), (5, 1, 0)]
  let s := (s.incWrap (Reg.topIslRstcnt i)).raise Reg.topIrqRaw 1
  let s := s.setHangMon i { s.hangMon i with readyAt := s.dt, resetAt := none }
  let s := readyWork s i
  if graft then s else reopen s i

/-- ISLAND_READY (R37, R41). -/
def execIslandReady (time : Nat) (i : Fin 22) (s : State) : Host.Outcome State Fault Refusal :=
  let t := s.at time
  done s (if islPowered t i && islInReset t i && t.bit (Reg.topIslStat i) 1 && decide (i.val ≠ 21) then islandReady t i else t)

/-- HANG_US in ns; values below 10 act as 10. -/
def hangNs (s : State) : Nat := 1000 * max 10 (s.fld Reg.fltHangUs 0 16)

/-- The monitor of island `i` runs (R487): it is powered, running, not asleep and not held, and HANG_US has passed since its
last progress. -/
def hangDue (s : State) (i : Nat) : Bool :=
  let m := s.hangMon i
  decide (3 ≤ i) && decide (i ≤ 20) && islUp s i && decide (s.fld (Reg.topIslStat i) 8 2 = 0) && !s.ao.held &&
    m.resetAt.isNone && !m.esc && !s.bit (Reg.topIslCtrl i) 0 && !s.bit (Reg.topIslCtrl i) 1 &&
    decide (m.decls.foldl max m.readyAt + hangNs s ≤ s.dt)

/-- A hang declared (R487 to R489, R491): with HANG_ACT the island is reset, or for MC its scheduler restarted; the third
declaration within 1 s escalates. -/
def hangDeclare (s : State) (i : Nat) : State :=
  let m := s.hangMon i
  let l := (m.decls ++ [s.dt]).filter (fun d => decide (s.dt ≤ d + 1000000000))
  let act := s.bit Reg.fltFltCtrl 0
  let third := decide (3 ≤ l.length)
  let s := (s.setBit (Reg.topIslStat i) 5 true).raise Reg.topIrqRaw 1
  if !act then raiseFault (s.setHangMon i { m with decls := l }) 1 i .none 0
  else
    let s := s.setHangMon i { m with decls := if third then [] else l,
                                     resetAt := if i = 7 && third then none else some s.dt, esc := third }
    let s := raiseFault s 1 i (if third then .escalated else .reset) 0
    if i = 7 then s else resetIsland s i

/-- HANG_DETECT (R487). -/
def execHangDetect (time : Nat) (i : Fin 22) (s : State) : Host.Outcome State Fault Refusal :=
  let t := s.at time
  done s (if hangDue t i then hangDeclare t i else t)

/-- HANG_RESET_RELEASE (R488): 1 µs after the device's reset, unless it escalated or firmware holds the island. -/
def execHangResetRelease (time : Nat) (i : Fin 22) (s : State) : Host.Outcome State Fault Refusal :=
  let t := s.at time
  let m := t.hangMon i
  done s (match m.resetAt with
    | none => t
    | some a =>
      if i.val ≠ 7 ∧ a + 1000 ≤ t.dt ∧ m.esc = false ∧ t.bit (Reg.topIslCtrl i) 0 = false ∧ islPowered t i = true then
        releaseIsland (t.setHangMon i { m with resetAt := none }) i
      else t)

/-- MC_SCHED_RESTART_DONE (R491): every queued request issues afresh in its original order, and HANG clears. -/
def execMcSchedRestartDone (time : Nat) (s : State) : Host.Outcome State Fault Refusal :=
  let t := s.at time
  done s (match (t.hangMon 7).resetAt with
    | none => t
    | some _ =>
      let t := t.each (List.range 2) (fun c u =>
        let x := u.chan c
        u.setChan c { x with lines := ((x.flight ++ x.lines).mergeSort (fun a b => decide (a.id < b.id) ||
            (decide (a.id = b.id) && decide (a.idx ≤ b.idx)))), flight := [], alertAt := none })
      (t.setBit (Reg.topIslStat 7) 5 false).setHangMon 7 { t.hangMon 7 with readyAt := t.dt, resetAt := none })

end Sys2Proof.Machine
end

