-- ==== Sys2Proof/Machine/Replay.lean ====
section
/-! DEFINITION. Damaged pages (R494, R495), GAP records (R498), mooring marks and checkpoints (R500 to R503), the recorder's
mode, and the start and end of a replay (R504, R505, R508). -/

namespace Sys2Proof.Machine

/-- PAGE_REFETCH (R494): an uncorrectable error found in a resident slot starts the refetch of its page. -/
def execPageRefetch (time : Nat) (slot : Fin 4) (page : Fin 768) (s : State) : Host.Outcome State Fault Refusal :=
  let t := s.at time
  done s (if islUp t 6 then damagePage t slot page else t)

/-- Every table of a slot's image that has a part in a page matches its CRC (R494). -/
def pageTablesOk (s : State) (k page : Nat) : Bool :=
  let g := slotImg s k
  (List.range (i16 g 0x0A)).all (fun i =>
    let t := iDir g i
    decide (t.len = 0) || decide (4096 * (page + 1) ≤ t.off) || decide (t.off + t.len ≤ 4096 * page) ||
      decide (crc32 (iBytes g t.off t.len) = i32 g (0x40 + 16 * i + 12)))

/-- PAGE_REFETCH_DONE (R494, R495): the page read again from the image in DRAM and its table's CRC checked; it stays damaged
with ESCALATED on an error response or a wrong CRC. -/
def execPageRefetchDone (time : Nat) (slot : Fin 4) (page : Fin 768) (dramError : Bool) (s : State) :
    Host.Outcome State Fault Refusal :=
  let t := s.at time
  done s (if t.gen.bad.contains (slot.val, page.val) = false then t
    else
      let u := { t with gen := { t.gen with bad := t.gen.bad.filter (fun b => decide (b ≠ (slot.val, page.val))) } }
      let lost := fun (v : State) => raiseFault { v with gen := { v.gen with lost := v.gen.lost ++ [(slot.val, page.val)] } }
        8 slot .escalated page
      let a := bankGet (fun _ => (0 : Nat)) t.gen.loadAt slot + 4096 * page.val
      let n := min 4096 (i32 (slotImg t slot) 0x10 - 4096 * page.val)
      match (slotPages t slot)[page.val]? with
      | none => u
      | some p =>
        let u := dmaUse u 7 a n false
        if dramError || !dmaGood t false a n false then lost u
        else
          let v := u.tsWrite (4096 * p) (dmaRead u a n ++ List.replicate (4096 - n) 0)
          if pageTablesOk v slot page then v else lost v)

/-- GAP_RECORD (R498): a tap pound has room again after discards. -/
def execGapRecord (time : Nat) (tap : Fin 3) (s : State) : Host.Outcome State Fault Refusal :=
  let t := s.at time
  done s (if recording t tap then tapGap t tap else t)

/-- The barges as a checkpoint keeps them: the captured bytes of each (R500). -/
def ckptBarge (s : State) (f : TmFrame) : TmFrame := { f with data := captured s f.data }

/-- The registers of the lock-keeper's task table. -/
def isTaskReg (a : Nat) : Bool :=
  (decide (Reg.tsTaskFlags 0 ≤ a) && decide (a < Reg.tsTaskFlags 4096)) ||
    (decide (Reg.tsTaskView 0 ≤ a) && decide (a < Reg.tsTaskView 4096))

/-- The checkpoint of the present state (R500). -/
def takeCkpt (s : State) : Ckpt :=
  { bkts := s.tm.bkts, deficit := s.tm.deficit, barges := s.tm.frames.map (ckptBarge s), sessions := s.pp.sessions,
    tasks := s.ts.tasks, taskRegs := bankKeep isTaskReg s.regs,
    slots := ((List.range 4).filter (fun k => decide (2 ≤ slotState s k))).map (fun k =>
      (slotTag s k, s.regN (Reg.genSlotSeq k))),
    cur := (curSlot s).map (fun k => s.regN (Reg.genSlotSeq k)), bdy := s.gen.bdy, idx := roundIdx s,
    loss := lossState s }

/-- A mark command ends with a RESULT. -/
def markEnd (s : State) (r : Nat) : State := s.setFlds Reg.tpMarkCmdStat [(0, 1, 0), (4, 3, r)]

/-- The MARK record of mark `m` written, and its checkpoint begun (R500). -/
def markBegin (s : State) (m : Fin 16) : State :=
  let at_ := s.regN Reg.tpWrPtr
  let c := takeCkpt s
  let s := ringWrite s 10 s.now48 m 0 []
  let s := (s.setFld (Reg.tpMarkStat m) 0 2 1).setNat (Reg.tpMarkPtr m) at_
  markEnd { s.setPair (Reg.tpMarkDtLo m) s.now48 with tp := { s.tp with taking := some m, ckpt := some c } } 0

/-- SET (R500, R501, R503). -/
def markSetDo (s : State) (m : Fin 16) : State :=
  if s.tp.taking.isSome then markEnd s 1
  else if s.fld Reg.tpTpCtrl 0 2 ≠ 1 ∨ ringUnits s = 0 then markEnd s 2
  else if markState s m ≠ 0 then markEnd s 3
  else
    let s := gapWrite (tapDrain s)
    if s.bit Reg.tpTpCtrl 2 && (liveMarks s).any (fun k => decide (roomBefore s k < 1)) then markEnd s 1
    else markBegin s m

/-- RELEASE (R501, R503): a VALID or LOST mark becomes FREE. -/
def markReleaseDo (s : State) (m : Nat) : State :=
  if markState s m = 2 ∨ markState s m = 3 then markEnd (s.setFld (Reg.tpMarkStat m) 0 2 0) 0 else markEnd s 4

/-- The effect of a write to MARK_CMD. -/
def markCmd (s : State) (d : Word) : State :=
  if s.bit Reg.tpMarkCmdStat 0 then s
  else match bitsOf d 8 2 with
    | 1 => markSetDo s (Fin.ofNat 16 (bitsOf d 0 4))
    | 2 => markReleaseDo s (bitsOf d 0 4)
    | _ => s

/-- MARK_SET (R500, R501). -/
def execMarkSet (time : Nat) (init : Init) (m : Fin 16) (s : State) : Host.Outcome State Fault Refusal :=
  let t := s.at time
  let d := BitVec.ofNat 32 (m + 256)
  done s (busDo t init Reg.tpMarkCmd 4 (some d) (fun t => markCmd t d))

/-- MARK_RELEASE (R501). -/
def execMarkRelease (time : Nat) (init : Init) (m : Fin 16) (s : State) : Host.Outcome State Fault Refusal :=
  let t := s.at time
  let d := BitVec.ofNat 32 (m + 512)
  done s (busDo t init Reg.tpMarkCmd 4 (some d) (fun t => markCmd t d))

/-- The records of a checkpoint written while its mark is being taken. -/
def ckptWrite (s : State) (l : List (Nat × Nat × List Byte)) : State :=
  s.each l (fun i t => if t.tp.taking.isSome then ringWrite t 11 t.now48 i.1 i.2.1 (i.2.2.take 4064) else t)

/-- CKPT_END (R500): the checkpoint completes and its mark becomes VALID. -/
def execCkptEnd (time : Nat) (s : State) : Host.Outcome State Fault Refusal :=
  let t := s.at time
  done s (match t.tp.taking, t.tp.ckpt with
    | some m, some c =>
      if islUp t 20 = false ∨ t.fld Reg.tpTpCtrl 0 2 ≠ 1 then t
      else
        let l := Config.ckptItems c
        let t := ckptWrite t l
        let t := if t.tp.taking.isSome then ringWrite t 12 t.now48 m l.length [] else t
        if t.tp.taking.isSome then
          { (t.setFld (Reg.tpMarkStat m) 0 2 2).raise Reg.tpIrqRaw 1 with tp := { t.tp with taking := none, ckpt := none } }
        else { t with tp := { t.tp with ckpt := none } }
    | _, _ => t)

/-- A replay ends with a RESULT (R508). -/
def replayEnd (s : State) (r : Nat) : State :=
  let s := (s.setFlds Reg.tpRpStat [(0, 1, 0), (4, 3, r)]).setBit Reg.tpTpStat 3 false
  { s.raise Reg.tpIrqRaw 5 with tp := { s.tp with play := none } }

/-- The mode that TP_CTRL.MODE acts as: 3 acts as 0. -/
def tpMode (w : Word) : Nat := if bitsOf w 0 2 = 3 then 0 else bitsOf w 0 2

/-- The effect of a write to TP_CTRL: changes between RECORD and REPLAY are ignored; a mark being taken is lost when
recording ends, and a replay stops when MODE leaves REPLAY. -/
def tpCtrlSet (s : State) (d : Word) : State :=
  let old := s.reg Reg.tpTpCtrl
  let s := plainWrite s Reg.tpTpCtrl d
  let s := if tpMode old + tpMode d = 3 then s.setFld Reg.tpTpCtrl 0 2 (bitsOf old 0 2) else s
  let m := tpMode (s.reg Reg.tpTpCtrl)
  let s := s.setBit Reg.tpTpStat 0 (decide (m = 1))
  let s := match s.tp.taking with
    | none => s
    | some k => if m = 1 then s else { s.setFld (Reg.tpMarkStat k) 0 2 3 with tp := { s.tp with taking := none, ckpt := none } }
  if m ≠ 2 ∧ replaying s = true then replayEnd s 7 else s

/-- TP_MODE_WRITE (R498). -/
def execTpModeWrite (time : Nat) (init : Init) (data : Word) (s : State) : Host.Outcome State Fault Refusal :=
  let t := s.at time
  done s (busDo t init Reg.tpTpCtrl 4 (some data) (fun t => tpCtrlSet t data))

/-- A record of a ring (R499): where it lies, and its fields. -/
structure RpRec where
  pos : Nat
  len : Nat
  kind : Nat
  rseq : Nat
  dt : Nat
  arg0 : Nat
  arg1 : Nat
  payload : List Byte
deriving DecidableEq, Repr

/-- `n` units of a ring from unit `u` on, in the order of the ring. -/
def rpBytes (s : State) (base units u : Nat) : Nat → List Byte
  | 0 => []
  | n + 1 => s.dramRead (base + 16 * (u % max 1 units)) 16 ++ rpBytes s base units (u + 1) n

/-- The record at unit `u` of a ring; its payload is read when it is played. -/
def rpAt (s : State) (base units u : Nat) (payload : Bool) : RpRec :=
  let h := rpBytes s base units u 1
  let n := leAt h 0 1
  { pos := u % max 1 units, len := n, kind := nbits (leAt h 0 4) 8 4, rseq := leAt h 2 2,
    dt := leAt h 4 4 + 2 ^ 32 * leAt h 8 2, arg0 := leAt h 10 2, arg1 := leAt h 12 4,
    payload := if payload then rpBytes s base units (u + 1) (n - 1) else [] }

/-- The records from unit `u` on, while they continue RSEQ, in a span of `left` units; and whether they end because RSEQ
breaks. A record of LEN16 0 is the last. -/
def rpScan (s : State) (base units : Nat) : Nat → Nat → Nat → Option Nat → List RpRec × Bool
  | 0, _, _, _ => ([], false)
  | n + 1, u, left, want =>
    if left = 0 then ([], false)
    else
      let r := rpAt s base units u false
      if want.isSome && want ≠ some r.rseq then ([], true)
      else if r.len = 0 then ([r], false)
      else
        let (l, b) := rpScan s base units n (u + r.len) (left - r.len) (some ((r.rseq + 1) % 65536))
        (r :: l, b)

/-- The length of the replay ring in units. -/
def rpUnits (s : State) : Nat := min (s.fld Reg.tpRpSize 0 13) 4096 * 65536

/-- The offset of the replay ring in DRAM. -/
def rpBase (s : State) : Nat := s.regN Reg.tpRpBaseLo + 2 ^ 32 * s.fld Reg.tpRpBaseHi 0 8 - 0x800000000

/-- The units from the mark to RP_END_PTR; the whole ring where the two are equal. -/
def rpSpan (s : State) : Nat :=
  let u := max 1 (rpUnits s)
  let d := (s.regN Reg.tpRpEndPtr + u - s.regN Reg.tpRpMarkPtr % u) % u
  if d = 0 then u else d

/-- The replay runs to the end of the records (RP_END_PTR). -/
def rpToEnd (s : State) : Bool := decide (s.regN Reg.tpRpEndPtr = s.regN Reg.tpRpMarkPtr)

/-- The READY slot that holds an image of a SEQ. -/
def readySeq (s : State) (seq : Nat) : Option Nat :=
  (List.range 4).find? (fun k => decide (slotState s k = 2) && decide (s.regN (Reg.genSlotSeq k) = seq))

/-- The mark at RP_MARK_PTR is LOST on this device (R502, R504). -/
def rpMarkLost (s : State) : Bool :=
  decide (rpBase s = ringOff s 0) && (List.range 16).any (fun m =>
    decide (markState s m = 3) && decide (s.regN (Reg.tpMarkPtr m) = s.regN Reg.tpRpMarkPtr))

/-- The records before CKPT_END, and whether there is one. -/
def beforeEnd (l : List RpRec) : List RpRec × Bool := (l.takeWhile (fun r => decide (r.kind ≠ 12)), l.any (fun r => decide (r.kind = 12)))

/-- The checkpoint that some records hold. -/
def rpCkpt (s : State) (l : List RpRec) : Option Ckpt :=
  Config.ckptOf (((beforeEnd l).1.filter (fun r => decide (r.kind = 11))).map (fun r =>
    (r.arg0, r.arg1, (rpAt s (rpBase s) (rpUnits s) r.pos true).payload)))

/-- The SEQ of the SWAP records of a list. -/
def swapSeqs (l : List RpRec) : List Nat := (l.filter (fun r => decide (r.kind = 6))).map (·.arg1)

/-- The first reason for which a replay does not start (R504), or the checkpoint it starts from. -/
def rpCheck (s : State) : Nat ⊕ (Ckpt × List RpRec) :=
  if (curSlot s).isSome ∨ s.fld Reg.tpTpCtrl 0 2 ≠ 2 then .inl 1
  else
    let (l, _) := rpScan s (rpBase s) (rpUnits s) (rpSpan s) (s.regN Reg.tpRpMarkPtr) (rpSpan s) none
    let l := if rpToEnd s && decide (1 < l.length) then l.filter (fun r => decide (r.len ≠ 0)) else l
    if (match l with
      | [] => true
      | r :: _ => decide (r.kind ≠ 10)) || rpMarkLost s || !(beforeEnd l).2 then .inl 2
    else if l.any (fun r => decide (r.kind = 13)) then .inl 3
    else match rpCkpt s l with
      | none => .inl 5
      | some c =>
        if (c.cur.toList ++ swapSeqs l).any (fun v => (readySeq s v).isNone) then .inl 4
        else if l.any (fun r => decide (13 < r.kind) || decide (r.len = 0)) then .inl 5
        else .inr (c, l)

/-- A checkpoint restored into TM, PP and TS, with DT and the generation (R505). -/
def rpRestore (s : State) (c : Ckpt) (dt : Nat) : State :=
  let s := { s with dt := dt }
  let s := match c.cur with
    | none => s
    | some q => match readySeq s q with
      | none => s
      | some k => swapTo s k c.bdy c.idx
  let s := { s with tm := { nextFid := (c.barges.map (fun (f : TmFrame) => f.fid + 1)).foldl max s.tm.nextFid, frames := c.barges, bkts := c.bkts,
                            deficit := c.deficit, fqEnq := s.tm.fqEnq, fqDrop := s.tm.fqDrop },
                    pp := { s.pp with sessions := c.sessions },
                    ts := { s.ts with tasks := c.tasks } }
  let s := (s.setFld Reg.ppNatCount 0 17 c.sessions.length).each c.barges (fun f t => refTag t f.tag 1)
  let s := { s with regs := bankKeep (fun a => !isTaskReg a) s.regs }
  let s := s.each c.taskRegs (fun e t => t.setReg e.1 e.2)
  fallbackNow (s.setFld Reg.staLossState 0 16 c.loss)

/-- The generation of the next SWAP record armed for its boundary (R505). -/
def rpArm (s : State) (l : List RpRec) : State :=
  match l.find? (fun r => decide (r.kind = 6)) with
  | none => s
  | some r => match readySeq s r.arg1 with
    | none => s
    | some k =>
      let s := (setSlotState s k 3).setFlds Reg.genArmStat [(0, 3, 0), (4, 1, 0), (8, 1, 1)]
      let idx := leAt (rpAt s (rpBase s) (rpUnits s) r.pos true).payload 0 8
      { s with gen := { s.gen with armLead := armLead s, tgtDt := r.dt, armDt := r.dt - armLead s } }.setPair Reg.genArmTgtLo idx

/-- The effect of RP_CMD START (R504, R505). -/
def replayBegin (s : State) : State :=
  if replaying s then s
  else match rpCheck s with
    | .inl r => s.setFld Reg.tpRpStat 4 3 r
    | .inr (c, l) =>
      match l with
      | [] => s
      | m :: rest =>
        let s := rpArm (rpRestore s c m.dt) rest
        let s := (s.setFlds Reg.tpRpStat [(0, 1, 1), (4, 3, 0)]).setFlds Reg.tpTpStat [(3, 1, 1), (4, 1, 0)]
        let run : ReplayRun :=
          { base := rpBase s, units := rpUnits s, pos := (m.pos + m.len) % max 1 (rpUnits s), left := rpSpan s - m.len,
            rseq := (m.rseq + 1) % 65536, toEnd := rpToEnd s,
            irqs := (List.range 768).filter (ownLevel s) }
        { s.setNat Reg.tpRpPos run.pos with tp := { s.tp with play := some run } }

/-- The effect of a write to RP_CMD: 1 START, 2 STOP. -/
def rpCmd (s : State) (d : Word) : State :=
  match bitsOf d 0 2 with
  | 1 => replayBegin s
  | 2 => if replaying s then replayEnd s 7 else s
  | _ => s

/-- REPLAY_START (R504). -/
def execReplayStart (time : Nat) (init : Init) (s : State) : Host.Outcome State Fault Refusal :=
  let t := s.at time
  done s (busDo t init Reg.tpRpCmd 4 (some 1) (fun t => rpCmd t 1))

/-- REPLAY_STOP (R508). -/
def execReplayStop (time : Nat) (init : Init) (s : State) : Host.Outcome State Fault Refusal :=
  let t := s.at time
  done s (busDo t init Reg.tpRpCmd 4 (some 2) (fun t => rpCmd t 2))

end Sys2Proof.Machine
end

