-- ==== Sys2Proof/Machine/Power.lean ====
section
/-! DEFINITION. Chip resets (R452, R453, R513, R514, R516), the supply monitors, the power states (R471 to R479), the
real-time alarm, and the second's pulse (R522). -/

namespace Sys2Proof.Machine

/-- The power state shown (PM_STAT.STATE). -/
def pmState (s : State) : Nat := s.fld Reg.aoPmStat 0 3

/-- AO's counters brought up to the present DT: RTC, and RES of the present power state. -/
def aoAccount (s : State) : State :=
  let n := pmState s
  let ns := bankGet (fun _ => (0 : Nat)) s.ao.res n + (s.dt - s.ao.resAt)
  { s with ao := { s.ao with rtcBase := s.ao.rtcBase + (s.dt - s.ao.rtcAt) * 32768, rtcAt := s.dt,
                             res := bankSet (fun _ => 0) s.ao.res n ns, resAt := s.dt } }

/-- The registers that lie outside the reach of TOP: the gauge house's, and what TOP shows of it (R17). -/
def isGhReg (a : Nat) : Bool :=
  (decide (0x43000000 ≤ a) && decide (a < 0x43001000)) || decide (0x10040000000 ≤ a) || decide (a = Reg.topIslStat 21) ||
    decide (a = Reg.topIslClk 21)

/-- The limit of a band record, which the ledger holds (R218, R223). -/
def isBandLimit (a : Nat) : Bool := (List.range 16).any (fun b => decide (a = Reg.dutyBandLimit b))

/-- The device with everything lost but what a chip reset and P4 both keep: device time, the gauge house with the packets that
wait for it in PD32 (R17, R38), the OTP, the duty ledger (R223), AO's counters, the pin states, and the registers that `keep`
names. -/
def wiped (s : State) (keep : Nat → Bool) : State :=
  let s := s.each (List.range 3) (fun x t => loseRadio t x)
  let s := cutWriter s 32
  let t : State := {
    dt := s.dt, freeCtr := s.freeCtr, resp := s.resp, pending := s.pending, podlFlt := s.podlFlt, podl := { en := s.podl.en, dis := s.podl.dis }, gh := s.gh,
    sec := { otp := s.sec.otp }, duty := s.duty, ao := s.ao, slu := s.slu,
    regs := bankKeep (fun a => isGhReg a || keep a) s.regs }
  t.setPound 32 (s.pound 32)

/-- Islands 0 to 20 shown with some fields of ISL_STAT and their clocks stopped. -/
def islandsAs (s : State) (from_ : Nat) (stat : Nat) : State :=
  s.each ((List.range 21).drop from_) (fun i t => (t.setNat (Reg.topIslStat i) stat).setFld (Reg.topIslClk i) 0 16 0)

/-- Every pound shown closed, as both ends of each but those of the gauge house are. -/
def poundsShut (s : State) : State := s.each (List.range 54) (fun p t => t.setBit (Reg.topPndStat p) 17 true)

/-- A chip reset by the code of RST_CAUSE (0 POR, 1 PIN, 2 WDOG, 3 SOFT, 4 SUPPLY, 5 THERM, 6 REF_LOSS), which holds the
device until its release (R452, R453, R516). -/
def chipReset (s : State) (cause : Nat) : State :=
  let s := aoAccount s
  let t := wiped s (fun a => decide (cause ≠ 0) && (decide (a = Reg.aoWakeCause) || isBandLimit a))
  let t := if cause = 0 then { t with duty := {}, podl := {}, ao := { rtcAt := s.dt, resAt := s.dt, held := true } }
    else { t with ao := { rtcBase := s.ao.rtcBase, rtcAt := s.dt, res := s.ao.res, resAt := s.dt, held := true } }
  let t := poundsShut (islandsAs t 0 0x19)
  (t.setNat Reg.topRstCause (2 ^ cause)).answer .none

/-- POR (R452). -/
def execPor (time : Nat) (s : State) : Host.Outcome State Fault Refusal :=
  let t := s.at time
  done s (chipReset t 0)

/-- SYS_RST_N (R452). -/
def execSysRstN (time : Nat) (s : State) : Host.Outcome State Fault Refusal :=
  let t := s.at time
  done s (chipReset t 1)

/-- AO_WDOG_EXPIRE (R452). -/
def execAoWdogExpire (time : Nat) (s : State) : Host.Outcome State Fault Refusal :=
  let t := s.at time
  let ms := t.fld Reg.aoAoWdog 0 16
  done s (if ms ≠ 0 ∧ t.ao.wdogAt + ms * 1000000 ≤ t.dt ∧ t.ao.held = false then chipReset t 2 else t)

/-- A write to AO_WDOG restarts the watchdog. -/
def aoWdogSet (s : State) (d : Word) : State :=
  let s := plainWrite s Reg.aoAoWdog d
  { s with ao := { s.ao with wdogAt := s.dt } }

/-- AO_WDOG_WRITE (R452). -/
def execAoWdogWrite (time : Nat) (init : Init) (data : Word) (s : State) : Host.Outcome State Fault Refusal :=
  let t := s.at time
  done s (busDo t init Reg.aoAoWdog 4 (some data) (fun t => aoWdogSet t data))

/-- The effect of a write to CHIP_RST. -/
def chipRstSet (s : State) (d : Word) : State := if d = 0x0000D0C5 then chipReset s 3 else s

/-- CHIP_RST (R452). -/
def execChipRst (time : Nat) (init : Init) (data : Word) (s : State) : Host.Outcome State Fault Refusal :=
  let t := s.at time
  done s (busDo t init Reg.topChipRst 4 (some data) (fun t => chipRstSet t data))

/-- SUPPLY_RESET (R452, R513): VDD_AO below its reset threshold is a power-on reset. -/
def execSupplyReset (time : Nat) (rail : Fin 11) (s : State) : Host.Outcome State Fault Refusal :=
  let t := s.at time
  done s (chipReset t (if rail.val = 1 then 0 else 4))

/-- THERM_RESET (R514). -/
def execThermReset (time : Nat) (s : State) : Host.Outcome State Fault Refusal :=
  let t := s.at time
  done s (chipReset t 5)

/-- REF_LOSS (R516): the reference stopped while the device is running. -/
def execRefLoss (time : Nat) (s : State) : Host.Outcome State Fault Refusal :=
  let t := s.at time
  done s (if t.ao.held then t else chipReset t 6)

/-- The registers that show islands and pounds as they stand, which return to their reset values when a chip reset is
released. -/
def isShown (a : Nat) : Bool :=
  (List.range 21).any (fun i => decide (a = Reg.topIslStat i) || decide (a = Reg.topIslClk i)) ||
    (List.range 54).any (fun p => decide (p ≠ 32) && decide (a = Reg.topPndStat p))

/-- The pounds of the gauge house shown closed while it is (R517). -/
def ghPounds (s : State) : State :=
  let c := s.bit (Reg.topIslStat 21) 4
  (s.setBit (Reg.topPndStat 31) 17 c).setBit (Reg.topPndStat 32) 17 c

/-- The release of a chip reset (R452, R453, R516): DT restarts at 0, and what OTP holds is read. The ledger's seconds count
on (R223). -/
def resetReleased (s : State) : State :=
  let s := { s with regs := bankKeep (fun a => !isShown a) s.regs, duty := { s.duty with base := dutySec s s.dt + 1 },
                    ao := { s.ao with rtcBase := s.ao.rtcBase + (s.dt - s.ao.rtcAt) * 32768, rtcAt := 0, resAt := 0,
                                      held := false, booting := true } }
  otpLoad (decide (s.regN Reg.topRstCause = 1)) (ghPounds { s with dt := 0, dtFrac := 0 })

/-- RESET_RELEASE (R516): 1 ms after every rail is good and a reference detected, so no sooner after the reset. -/
def execResetRelease (time : Nat) (s : State) : Host.Outcome State Fault Refusal :=
  let t := s.at time
  done s (if t.ao.held && decide (t.ao.resAt + 1000000 ≤ t.dt) then resetReleased t else t)

/-- The bit of SUPPLY_STAT for a rail or for the die sensors. -/
def supplyBit : SupplyBit → Nat
  | .low r => r
  | .thermWarn => 16

/-- SUPPLY_LOW (R513, R514): each rising edge sets SUPPLY_WARN. -/
def execSupplyLow (time : Nat) (bit : SupplyBit) (s : State) : Host.Outcome State Fault Refusal :=
  let t := s.at time
  let b := supplyBit bit
  done s (if t.bit Reg.aoSupplyStat b then t else (t.setBit Reg.aoSupplyStat b true).raise Reg.aoIrqRaw 2)

/-- SUPPLY_RETURN (R513, R514). -/
def execSupplyReturn (time : Nat) (bit : SupplyBit) (s : State) : Host.Outcome State Fault Refusal :=
  let t := s.at time
  done s (t.setBit Reg.aoSupplyStat (supplyBit bit) false)

/-! ### Power states -/

/-- The wake latency of a power state in µs (R471). -/
def wakeUs (n : Nat) : Nat :=
  match n with
  | 0 => 0
  | 1 => 10
  | 2 => 250
  | 3 => 3000
  | _ => 80000

/-- An island moved to a power mode by the power manager (R19, R471): an island that is off or in reset stays as it is. -/
def pmMode (s : State) (i mode : Nat) (run : Bool) : State :=
  if islPowered s i && !islInReset s i then setClock (s.setFld (Reg.topIslStat i) 8 2 mode) i run else s

/-- Whether core `c` waits in WFI is for its program to say: a free bit, and 0 in reset (notes/assumptions/6.md). -/
def wfiSample (s : State) : State :=
  s.each (List.range 8) (fun c t =>
    if t.bit (Reg.ccCoreStat c) 0 then t
    else let w := t.drawNat; w.2.setBit (Reg.ccCoreStat c) 1 (decide (w.1 % 2 = 1)))

/-- Every core enabled in CORE_EN is in WFI, and the interrupt controller notifies neither of its contexts (R472); in P3 and P4
the cores are off. -/
def coresIdle (s : State) : Bool :=
  decide (3 ≤ pmState s) || (List.range 8).all (fun c =>
    !s.bit Reg.tsCoreEn c || (s.bit (Reg.ccCoreStat c) 1 && !plicNotify s (2 * c) && !plicNotify s (2 * c + 1)))

/-- A SEC or OTP command is in progress. -/
def secBusy (s : State) : Bool := s.bit Reg.secLcResult 0 || s.bit Reg.secOtpStat 0 || s.bit Reg.secHmacStat 0

/-- The P3 conditions other than the cores do not hold (R472). -/
def pmBusy (s : State) : Bool :=
  (List.range 8).any (fun c => (holdOfCore s c).isSome || s.bit (Reg.tsWDisp c) 31) || !s.cc.txs.isEmpty ||
    decide ((s.pound 27).level ≠ 0) || secBusy s

/-- The first reason that keeps the device out of a power state, by the codes of PM_STAT.BLOCK; 0 where it may enter it
(R472, R480). -/
def pmReason (s : State) (n : Nat) : Nat :=
  if !s.bit Reg.aoPmCtrl n then 4
  else if s.regN Reg.aoLtol < wakeUs n then 1
  else if 3 ≤ n ∧ s.fld Reg.secDbgStat 0 2 = 2 then 3
  else if !coresIdle s then 2
  else if decide (3 ≤ n) && pmBusy s then 5
  else 0

/-- The deepest state that R472 permits; P4 is never chosen by the power manager alone. -/
def pmDeepest (s : State) : Nat :=
  if pmReason s 3 = 0 then 3 else if pmReason s 2 = 0 then 2 else if pmReason s 1 = 0 then 1 else 0

/-- LIMIT and BLOCK as the choice found them. -/
def pmShow (s : State) (n : Nat) : State :=
  s.setFlds Reg.aoPmStat [(4, 3, n), (8, 3, if n < 3 then pmReason s (n + 1) else 0)]

/-- A radio wakes: its island runs again and its synthesiser warms up (R269, R473). -/
def wakeRadio (s : State) (x : Nat) : State := setSyn (pmMode s (8 + x) 0 true) x 1

/-- A stall octet wakes, and frames that waited in its receive buffers go on (R474). -/
def wakeOctet (s : State) (k : Nat) : State := rxDrainAll (pmMode s (11 + k) 0 true) k

/-- Island `i` sleeps (R473, R474). -/
def asleep (s : State) (i : Nat) : Bool :=
  islUp s i && (decide (s.fld (Reg.topIslStat i) 8 2 = 1) || decide (s.fld (Reg.topIslStat i) 8 2 = 2))

/-- Every sleeping radio and octet wakes. -/
def wakeAll (s : State) : State :=
  let s := s.each (List.range 3) (fun x t => if asleep t (8 + x) then wakeRadio t x else t)
  s.each (List.range 8) (fun k t => if asleep t (11 + k) then wakeOctet t k else t)

/-- P3 entered (R471): DRAM in self-refresh, the cores and TP off. -/
def enterP3 (s : State) : State :=
  let s := pmMode (enterSelfRefresh (enterSelfRefresh s 0) 1) 7 1 false
  let s := pmMode (s.each (List.range 8) (fun c t => coreDown t c false)) 2 2 false
  if islPowered s 20 then
    (closePounds (loseTp s) 20).setFlds (Reg.topIslStat 20) [(0, 1, 0), (1, 1, 0), (2, 1, 0), (3, 1, 1), (4, 1, 1), (8, 2, 3)]
      |>.setFld (Reg.topIslClk 20) 0 16 0
  else s

/-- A core restarts at CORE_BOOT unless firmware or its loss holds it in reset (R407, R409, R476). -/
def coreRestart (s : State) (c : Nat) : State :=
  if s.bit (Reg.ccCoreCtrl c) 0 || s.bit (Reg.ccCoreStat c) 4 then s
  else s.setFlds (Reg.ccCoreStat c) [(0, 1, 0), (1, 1, 0), (2, 2, 3)]

/-- An island switched on again by the power manager, without counting a reset (R19): FORCE_OFF keeps it off, RST_HOLD in
reset. -/
def pmPowerOn (s : State) (i : Nat) : State :=
  if s.bit (Reg.topIslCtrl i) 1 then s
  else
    let s := s.setFlds (Reg.topIslStat i) [(0, 1, 1), (8, 2, 0)]
    if s.bit (Reg.topIslCtrl i) 0 then s
    else
      let s := setClock (s.setFlds (Reg.topIslStat i) [(2, 1, 1), (3, 1, 0)]) i true
      if s.bit (Reg.topIslCtrl i) 2 then s else reopen s i

/-- P3 left (R476): MC and CC run, the cores restart, and TP is on again. -/
def leaveP3 (s : State) : State :=
  let s := pmMode (pmMode s 7 0 true) 2 0 true
  pmPowerOn (s.each (List.range 8) (fun c t => coreRestart t c)) 20

/-- The device moved to one of the states P0 to P3 (R472): STATE_CHANGE, and the residency of the state left counted. -/
def pmEnter (s : State) (n : Nat) : State :=
  let old := pmState s
  if n = old then s
  else
    let s := aoAccount s
    let s := if old = 3 then leaveP3 s else s
    let s := if n < 2 then wakeAll s else s
    let s := if n = 3 then enterP3 s else s.setFld (Reg.topIslStat 2) 8 2 (min n 1)
    let s := (s.setFld Reg.aoPmStat 0 3 n).raise Reg.aoIrqRaw 0
    { s with ao := { s.ao with pmAt := some s.dt } }

/-- The last change of state lies 10 µs back (R472). -/
def pmRested (s : State) : Bool :=
  match s.ao.pmAt with
  | none => true
  | some a => decide (a + 10000 ≤ s.dt)

/-- PM_STATE_CHANGE (R472): not with a SEC command in progress (R479), and never out of P4. -/
def execPmStateChange (time : Nat) (s : State) : Host.Outcome State Fault Refusal :=
  let t := s.at time
  done s (if t.ao.held || inP4 t || secBusy t || !pmRested t then t
    else
      let t := wfiSample t
      pmEnter (pmShow t (pmDeepest t)) (pmDeepest t))

/-- P4 entered (R477): every transmission ends, every link falls, and all is lost but what P4 keeps. -/
def enterP4 (s : State) : State :=
  let s := aoAccount s
  let t := wiped s (fun a => decide (a < 0x40020000) || inSec a || isBandLimit a)
  let t := { t with sec := { s.sec with hmac := none }, ao := { s.ao with pmAt := some s.dt, ppsAt := none } }
  let t := poundsShut (islandsAs { t with regs := bankKeep (fun a => isGhReg a || !isShown a) t.regs } 1 0x318)
  debugNone ((t.setFld Reg.aoPmStat 0 3 4).raise Reg.aoIrqRaw 0)

/-- PM_CMD STANDBY (R477): refused with the BLOCK cause where the conditions of P4 do not hold. -/
def standbyDo (s : State) : State :=
  if s.ao.held || inP4 s || secBusy s then s
  else
    let s := wfiSample s
    let r := pmReason s 4
    if r = 0 then enterP4 s else s.setFld Reg.aoPmStat 8 3 r

/-- The effect of a write to PM_CMD. -/
def pmCmd (s : State) (d : Word) : State := if bitsOf d 0 2 = 1 then standbyDo s else s

/-- STANDBY (R477). -/
def execStandby (time : Nat) (init : Init) (s : State) : Host.Outcome State Fault Refusal :=
  let t := s.at time
  done s (busDo t init Reg.aoPmCmd 4 (some 1) (fun t => pmCmd t 1))

/-- DT after P4 (R478): restarted from RTC to within 31 µs plus 20 ppm of the time spent in P4; where within, is free
(notes/assumptions/6.md). -/
def dtAfterP4 (s : State) : State :=
  let span := s.dt - s.ao.pmAt.getD s.dt
  let e := 31000 + span * 20 / 1000000
  let w := s.drawNat
  { w.2 with dt := s.dt - e + w.1 % (2 * e + 1) }

/-- P4 left (R478): the islands are on but for those that FORCE_OFF or RST_HOLD keep, the boot sequence is to run, and
WAKE_CAUSE.P4 is set; a lifecycle state that waits for a chip reset still does (R458). -/
def leaveP4 (s : State) : State :=
  let s := dtAfterP4 (aoAccount s)
  let s := { s with ao := { s.ao with rtcAt := s.dt, resAt := s.dt, pmAt := some s.dt, booting := true } }
  let off := (List.range 21).filter (fun i => s.bit (Reg.topIslCtrl i) 1)
  let hold := (List.range 21).filter (fun i => s.bit (Reg.topIslCtrl i) 0 && !s.bit (Reg.topIslCtrl i) 1)
  let s := { s with regs := bankKeep (fun a => !isShown a) s.regs }
  let s := s.each off (fun i t => powerOff t i)
  let s := s.each hold (fun i t => resetIsland t i)
  let s := ((s.setFld Reg.aoPmStat 0 3 0).setBit Reg.aoWakeCause 8 true).raise Reg.aoIrqRaw 0
  sluiceLoad false (ghPounds s)

/-- The bit of WAKE_CAUSE for a wake event. -/
def wakeBit : WakeCause → Nat
  | .rtcAlarm => 0
  | .wakeN => 1
  | .task => 2
  | .irq => 3
  | .debug => 4

/-- The alarm tick. -/
def rtcAlarmAt (s : State) : Nat := s.pair Reg.aoRtcAlarmLo

/-- A wake event that ends the present state (R476, R477): in P4 only the AO sources that WAKE_EN enables. -/
def wakes (s : State) (c : WakeCause) : Bool :=
  match c with
  | .rtcAlarm => decide (3 ≤ pmState s) && s.bit Reg.aoWakeEn 0 && decide (rtcAlarmAt s ≤ rtcNow s)
  | .wakeN => decide (3 ≤ pmState s) && s.bit Reg.aoWakeEn 1
  | .task => inP3 s && (List.range 8).any (fun k => coreTakes s k && !(candidates s k).isEmpty)
  | .irq => inP3 s && (List.range 16).any (plicNotify s)
  | .debug => inP3 s && decide (s.fld Reg.secDbgStat 0 2 = 2)

/-- The device woken for P0 with its cause (R476, R478). -/
def wakeUp (s : State) (c : WakeCause) : State :=
  let s := if inP4 s then leaveP4 s else pmEnter s 0
  (s.setBit Reg.aoWakeCause (wakeBit c) true).raise Reg.aoIrqRaw 3

/-- PM_WAKE (R476). -/
def execPmWake (time : Nat) (cause : WakeCause) (s : State) : Host.Outcome State Fault Refusal :=
  let t := s.at time
  done s (if wakes t cause then wakeUp t cause else t)

/-- The alarm as the writes that wait in the present cycle leave it: the new value is compared (AO registers). -/
def alarmWritten (s : State) : Nat :=
  rtcAlarmAt (s.each (sameCycle s) (fun c t => match c with
    | .registerWrite _ _ _ a d => if a = Reg.aoRtcAlarmLo ∨ a = Reg.aoRtcAlarmHi then plainWrite t a d else t
    | _ => t))

/-- RTC_ALARM (R476): the alarm fires when RTC reaches it. -/
def execRtcAlarm (time : Nat) (s : State) : Host.Outcome State Fault Refusal :=
  let t := s.at time
  done s (if t.ao.held || decide (rtcNow t ≠ alarmWritten t) then t
    else
      let w := wakes t .rtcAlarm
      let t := t.raise Reg.aoIrqRaw 1
      if w then wakeUp t .rtcAlarm else t)

/-- WAKE_N (R477). -/
def execWakeN (time : Nat) (s : State) : Host.Outcome State Fault Refusal :=
  let t := s.at time
  done s (if !t.ao.held && wakes t .wakeN then wakeUp t .wakeN else t)

/-- Some entry of radio `x` that fires in one of `n` rounds from `idx` on, the first at DT `bdy`, covers part of the time from
`a` to `b`; entries of rounds at `lim` or later do not count. -/
def airCovers (g : Img) (x idx bdy ns n lim a b : Nat) : Bool :=
  decide ((airTbl g x).count ≠ 0) && (List.range n).any (fun i => decide (bdy + i * ns < lim) && (List.range (airTbl g x).count).any (fun e =>
    let o := bdy + i * ns + airFld g x e 1 0 32
    airFires g x e (idx + i) && decide (o < b) && decide (a < o + airFld g x e 2 0 32)))

/-- A firing entry of radio `x` covers part of the next `span` ns (R473), by the current image and from an armed swap on by the
next. -/
def entrySoon (s : State) (x span : Nat) : Bool :=
  let b := s.dt + span
  let n := span / max 1 (roundNs s) + 2
  match armedSlot s with
  | none => airCovers (curImg s) x (roundIdx s) s.gen.bdy (roundNs s) n (b + 1) s.dt b
  | some k =>
    airCovers (curImg s) x (roundIdx s) s.gen.bdy (roundNs s) n s.gen.tgtDt s.dt b ||
      airCovers (slotImg s k) x (s.pair Reg.genArmTgtLo) s.gen.tgtDt (max 1 (slotRound s k)) (span / max 1 (slotRound s k) + 2)
        (b + 1) s.dt b

/-- RADIO_SLEEP (R473): an interval of 100 µs without an entry begins. -/
def execRadioSleep (time : Nat) (x : Radio) (s : State) : Host.Outcome State Fault Refusal :=
  let t := s.at time
  let i := rIdx x
  let go : Bool := (decide (pmState t = 2) || decide (pmState t = 3)) && islUp t (8 + i) && !asleep t (8 + i) &&
    decide (txState t i = 0) && (t.airOf i).play.isNone && (t.radio i).cal.isNone && !entrySoon t i 100000
  done s (if go then setSyn (pmMode (rxLeave t i 0) (8 + i) 2 false) i 0 else t)

/-- RADIO_WAKE (R473): 60 µs before the next firing entry, or out of P2 and P3. -/
def execRadioWake (time : Nat) (x : Radio) (s : State) : Host.Outcome State Fault Refusal :=
  let t := s.at time
  let i := rIdx x
  done s (if asleep t (8 + i) && (decide (pmState t < 2) || entrySoon t i 60000) then wakeRadio t i else t)

/-- A port has every gate closed for the next `span` ns (R474): the entry that plays opens none and lasts so long, or the next
entries open none either. -/
def shutFrom (g : Img) (p span : Nat) : Nat → Nat → Nat → Bool
  | 0, _, _ => true
  | n + 1, e, left =>
    decide (lockGates g p e % 256 = 0) &&
      (decide (span ≤ left) || shutFrom g p span n ((e + 1) % max 1 (lockEntries g p))
        (left + lockInterval g p ((e + 1) % max 1 (lockEntries g p))))

/-- Port `p` may sleep through the next `span` ns. -/
def portShut (s : State) (p span : Nat) : Bool :=
  match (s.player p).slot with
  | none => true
  | some k =>
    let (e, left) := nowEntry s p
    shutFrom (slotImg s k) p span (lockEntries (slotImg s k) p) e left

/-- OCTET_SLEEP (R474). -/
def execOctetSleep (time : Nat) (k : Fin 8) (s : State) : Host.Outcome State Fault Refusal :=
  let t := s.at time
  let go : Bool := (decide (pmState t = 2) || decide (pmState t = 3)) && islUp t (11 + k) && !asleep t (11 + k) &&
    decide ((t.pound (8 + k)).level = 0) && (List.range 8).all (fun j => portShut t (8 * k + j) 20000)
  done s (if go then pmMode t (11 + k) 1 false else t)

/-- A sleeping octet is to wake (R474): P2 and P3 are left, a gate opens within 2 µs, a frame stands in the egress pound or one
from the line waits in a receive buffer. -/
def octetDue (s : State) (k : Nat) : Bool :=
  decide (pmState s < 2) || decide ((s.pound (8 + k)).level ≠ 0) || (List.range 8).any (fun j =>
    !portShut s (8 * k + j) 2000 || !(s.mac (8 * k + j)).rxq.isEmpty)

/-- OCTET_WAKE (R474): 2 µs before a gate opening, or within 2 µs on a frame from the line. -/
def execOctetWake (time : Nat) (k : Fin 8) (s : State) : Host.Outcome State Fault Refusal :=
  let t := s.at time
  done s (if asleep t (11 + k) && octetDue t k then wakeOctet t k else t)

/-- PPS_OUT is high (R522): for 100 ms from each whole second of DT; low until a chip reset has been released. -/
def ppsOut (s : State) : Bool :=
  match s.ao.ppsAt with
  | none => false
  | some a => decide (s.dt < a + 100000000)

/-- PPS_PULSE (R522): PPS_OUT rises at a whole second of DT, in P0 to P3. -/
def execPpsPulse (time : Nat) (s : State) : Host.Outcome State Fault Refusal :=
  let t := s.at time
  done s (if decide (t.dt % 1000000000 = 0) && !t.ao.held && !inP4 t then { t with ao := { t.ao with ppsAt := some t.dt } } else t)

end Sys2Proof.Machine
end

