-- ==== Sys2Proof/Machine/BusWrite.lean ====
section
/-! DEFINITION. REGISTER_WRITE (R6): what a write to each register does; what a read of each register returns, with the reads
that have an effect, COUNTER_LO_READ (R9) and RC_READ (R12). A register that a command of its own covers has here the effect of that command. -/

namespace Sys2Proof.Machine

/-- The index of an address in a series of registers. -/
def hit (n : Nat) (f : Nat → Nat) (a : Nat) : Option Nat := (List.range n).find? (fun i => decide (f i = a))

/-- The effect that a list of registers names for an address, and the plain effect elsewhere. -/
def oneOf (l : List (Nat × (State → State))) (s : State) (a : Nat) (d : Word) : State :=
  match l.find? (fun e => decide (e.1 = a)) with
  | some e => e.2 s
  | none => plainWrite s a d

/-- A write in TOP; ISL_RSTCNT[21] stays 0 (R17). -/
def topWrite (s : State) (a : Nat) (d : Word) : State :=
  if a = Reg.topIslRstcnt 21 then s
  else match hit 22 Reg.topIslCtrl a, hit 54 Reg.topPndCfg a with
  | some i, _ => islCtrlWrite s i d
  | none, some p => markWrite s p d
  | none, none => oneOf [(Reg.topChipRst, fun t => chipRstSet t d)] s a d

/-- A write in AO. -/
def aoWrite (s : State) (a : Nat) (d : Word) : State :=
  oneOf [(Reg.aoPmCmd, fun t => pmCmd t d), (Reg.aoAoWdog, fun t => aoWdogSet t d)] s a d

/-- A command of SEC written as a register: whether the OTP words it programs pass their verify is free
(notes/assumptions/6.md). -/
def burnFree (s : State) (f : State → Bool → State) : State :=
  let w := s.drawNat
  f w.2 (decide (w.1 % 2 = 1))

/-- A write in SEC. -/
def secWrite (s : State) (a : Nat) (d : Word) : State :=
  oneOf [(Reg.secLcCmd, fun t => burnFree t (fun u ok => lcCmd u d ok)), (Reg.secOtpCmd, fun t => burnFree t (fun u ok => otpCmd u d ok)),
    (Reg.secSvnCmd, fun t => burnFree t (fun u ok => svnRaise u d ok)),
    (Reg.secSecureBase, fun t => secureRangeSet t a d), (Reg.secSecureLimit, fun t => secureRangeSet t a d),
    (Reg.secSecureLock, fun t => secureLockSet t d), (Reg.secHmacCmd, fun t => hmacBegin t d),
    (Reg.secDbgRevoke, fun t => dbgRevokeSet t d)] s a d

/-- The effect of STG_CMD (R414, R415). -/
def stgCmd (s : State) (w : Nat) (d : Word) : State :=
  match bitsOf d 0 2 with
  | 1 => stagedWrite s w
  | 2 => stagedRead s w
  | 3 => stagedClear s w
  | _ => s

/-- A write in TS; window 8 is the debug module's and has no DONE (R421). -/
def tsWriteReg (s : State) (a : Nat) (d : Word) : State :=
  match hit 9 Reg.tsWStgCmd a, hit 9 Reg.tsWFlagSet a, hit 8 Reg.tsWDone a with
  | some w, _, _ => stgCmd s w d
  | none, some _, _ => flagSetWord s d
  | none, none, some w => doneWrite s w d
  | none, none, none => oneOf [(Reg.tsTsCtrl, fun t => reviewAffinity (plainWrite t a d)),
      (Reg.tsCoreEn, fun t => coreEnSet t d)] s a d

/-- A write of the recording ring's place, which takes effect only while MODE is 0. -/
def ringSet (s : State) (a : Nat) (d : Word) : State := if s.fld Reg.tpTpCtrl 0 2 = 0 then plainWrite s a d else s

/-- A write in TP. -/
def tpWrite (s : State) (a : Nat) (d : Word) : State :=
  oneOf [(Reg.tpTpCtrl, fun t => tpCtrlSet t d), (Reg.tpMarkCmd, fun t => markCmd t d), (Reg.tpRpCmd, fun t => rpCmd t d),
    (Reg.tpRingBaseLo, fun t => ringSet t a d), (Reg.tpRingBaseHi, fun t => ringSet t a d),
    (Reg.tpRingSize, fun t => ringSet t a d)] s a d

/-- The effect of a write to MC_CTRL (R395): the modes, then EN, then INIT. -/
def mcCtrlSet (s : State) (c : Nat) (d : Word) : State :=
  let s := s.setReg (Reg.mcMcCtrl c) (mergeMask (s.reg (Reg.mcMcCtrl c)) d 0xE)
  let s := if bitOf d 0 then mcEnter s c else mcLeave s c
  if bitOf d 4 then mcStartInit s c else s

/-- The effect of a write to PORT_CFG: a port that raises no panic has no marks. -/
def portCfgSet (s : State) (c q : Nat) (d : Word) : State :=
  let m := if q = 2 ∨ q = 3 ∨ q = 4 ∨ q = 7 then 0xFFFF07 else 7
  s.setReg (Reg.mcPortCfg c q) (mergeMask (s.reg (Reg.mcPortCfg c q)) d m)

/-- A write in the registers of channel `c`. -/
def mcWrite (s : State) (c a : Nat) (d : Word) : State :=
  match hit 8 (Reg.mcPortCfg c) a, hit 5 (Reg.mcLaneDly c) a with
  | some q, _ => portCfgSet s c q d
  | none, some l => laneDlySet s c l d
  | none, none =>
    oneOf [(Reg.mcMcCtrl c, fun t => mcCtrlSet t c d), (Reg.mcGeom c, fun t => geomWrite t c d),
      (Reg.mcAddrMap c, fun t => addrMapSet t c d), (Reg.mcTrainCmd c, fun t => trainCmd t c d)] s a d

/-- A write in PP. -/
def ppWrite (s : State) (a : Nat) (d : Word) : State :=
  oneOf [(Reg.ppNatCmd, fun t => natCmdWrite t (bitsOf d 0 2)), (Reg.ppNatExpTail, fun t => natTailWrite t d),
    (Reg.ppNatSeed, fun t => natSeedSet t d)] s a d

/-- A write in TM. -/
def tmWriteReg (s : State) (a : Nat) (d : Word) : State :=
  oneOf [(Reg.tmSpillBaseLo, fun t => spillSet t a d), (Reg.tmSpillBaseHi, fun t => spillSet t a d),
    (Reg.tmSpillSize, fun t => spillSet t a d), (Reg.tmTmCtrl, fun t => reviewGhStall (plainWrite t a d)), (Reg.tmFqSel, fun t => reviewTm (plainWrite t a d))] s a d

/-- A write in STA. -/
def staWriteReg (s : State) (a : Nat) (d : Word) : State :=
  match hit 8 Reg.staKeyData a, hit 3 Reg.staBssidLo a, hit 3 Reg.staBssidHi a with
  | some _, _, _ => s.setReg a d
  | none, some _, _ => whenNoSta s a d
  | none, none, some _ => whenNoSta s a d
  | none, none, none =>
    oneOf [(Reg.staStaCmd, fun t => staCmd t d), (Reg.staKeyCmd, fun t => keyCmd t d),
      (Reg.staAddrSeed, fun t => whenNoSta t a d), (Reg.staMldAddrLo, fun t => whenNoSta t a d),
      (Reg.staMldAddrHi, fun t => whenNoSta t a d), (Reg.staRoBaseLo, fun t => roSet t a d),
      (Reg.staRoBaseHi, fun t => roSet t a d), (Reg.staRoSize, fun t => roSet t a d),
      (Reg.staLossState, fun t => parentLossClear t d), (Reg.staLossSw, fun t => lossSwSet t d),
      (Reg.staMeshCtrl, fun t => meshSet t d)] s a d

/-- A write in GEN, with STA, DUTY and AIR. -/
def genWrite (s : State) (a : Nat) (d : Word) : State :=
  if 0x40210000 ≤ a ∧ a < 0x40220000 then staWriteReg s a d
  else match hit 16 Reg.dutyBandLimit a, hit 3 Reg.airAsrCmd a with
    | some b, _ => bandLimitSet s b d
    | none, some x => asrCmd s x d
    | none, none => oneOf [(Reg.genLoadCmd, fun t => loadCmd t d), (Reg.genArmCmd, fun t => armCmd t d)] s a d

/-- A write in the registers of stall port `n`. -/
def spWrite (s : State) (n a : Nat) (d : Word) : State :=
  oneOf [(Reg.spPhyCtrl n, fun t => phyCtrlSet t n d), (Reg.spAdaptCtrl n, fun t => adaptSet t n d),
    (Reg.spFenceCfg n, fun t => fenceCfgSet t n d), (Reg.spTdrCmd n, fun t => if bitOf d 0 then tdrBegin t n else t),
    (Reg.spPodlCtrl n, fun t => podlSet t n d)] s a d

/-- A write in the registers of uplink `u`. -/
def ulWrite (s : State) (u a : Nat) (d : Word) : State :=
  match hit 8 (Reg.ulSecKeyData u) a with
  | some _ => s.setReg a d
  | none =>
    if (ringGuard a).isSome then ringConfigSet s a d
    else oneOf [(Reg.ulUlCtrl u, fun t => ulCtrlSet t u d), (Reg.ulSerdesTx u, fun t => serdesSet t u d),
      (Reg.ulSerdesRx u, fun t => serdesRxSet t u d),
      (Reg.ulSecTxSa u, fun t => secTxSaSet t u d), (Reg.ulSecSaCmd u, fun t => if d = 1 then secCmd t u else t)] s a d

/-- A write in the registers of radio `x`: TUNE_EN is Radio L's, and the detector conversion is fixed once the sluice is
sealed (R295). -/
def rdWrite (s : State) (x a : Nat) (d : Word) : State :=
  match hit 2 (Reg.rdTuner x) a, hit 4 (Reg.rdPdetCal x) a with
  | some c, _ => tunerSet s x c d
  | none, some _ => if sluSealed s then s else plainWrite s a d
  | none, none =>
    oneOf [(Reg.rdRdCtrl x, fun t => plainWrite t a (if x = 2 then d else putBit d 2 false)),
      (Reg.rdFemTiming x, fun t => femTimingSet t x d), (Reg.rdPwrLimit x, fun t => ceilingWrite t x a d),
      (Reg.rdChainEn x, fun t => ceilingWrite t x a d)] s a d

/-- A write in CC. -/
def ccWrite (s : State) (a : Nat) (d : Word) : State :=
  match hit 8 Reg.ccCoreCtrl a, hit 8 Reg.ccCoreWdog a with
  | some c, _ => coreCtrlWrite s c d
  | none, some c => coreWdogSet s c d
  | none, none =>
    if (ringGuard a).isSome then ringConfigSet s a d else oneOf [(Reg.ccL2Cfg, fun t => l2CfgSet t d)] s a d

/-- A write to the interrupt controller: a completion, or a register; source 0, which there is not, cannot be enabled. -/
def plicWrite (s : State) (a : Nat) (d : Word) : State :=
  match hit 16 Reg.plicClaim a, hit 16 (fun c => Reg.plicEn c 0) a with
  | some c, _ => plicComplete s c d.toNat
  | none, some _ => plainWrite s a (putBit d 0 false)
  | none, none => plainWrite s a d

/-- The effect of a write of `d` to the register at `a` (R6), by its block. -/
def regWrite (s : State) (a : Nat) (d : Word) : State :=
  if a < 0x40010000 then topWrite s a d
  else if a < 0x40020000 then aoWrite s a d
  else if a < 0x40030000 then plainWrite s a d
  else if a < 0x40040000 then secWrite s a d
  else if a < 0x40050000 then tsWriteReg s a d
  else if a < 0x40060000 then oneOf [(Reg.pmuBwCtrl, fun t => bwCtrlWrite t d)] s a d
  else if a < 0x40070000 then tpWrite s a d
  else if a < 0x40080000 then plainWrite s a d
  else if a < 0x40090000 then mcWrite s ((a - 0x40080000) / 0x8000) a d
  else if a < 0x40180000 then ppWrite s a d
  else if a < 0x40200000 then tmWriteReg s a d
  else if a < 0x40300000 then genWrite s a d
  else if a < 0x41100000 then spWrite s ((a - 0x41000000) / 0x4000) a d
  else if a < 0x41220000 then ulWrite s ((a - 0x41200000) / 0x10000) a d
  else if a < 0x42300000 then rdWrite s ((a - 0x42000000) / 0x100000) a d
  else if a < 0x44000000 then plainWrite s a d
  else if a < 0x44400000 then plicWrite s a d
  else ccWrite s a d

/-- REGISTER_WRITE's memory side: bytes written to the L2 window or, over memory port 0, to DRAM, little-endian. -/
def memBusWrite (s : State) (a size : Nat) (d : Word) : State :=
  match regionOf a with
  | .l2 => { s with l2 := memWrite s.l2 (a - 0x10000000) (leBytes size d.toNat) }
  | .dram => dramUse (s.dramWrite (a - 0x800000000) (leBytes size d.toNat)) 0 (a - 0x800000000) size true
  | _ => s

/-- REGISTER_WRITE (R4 to R6, R42 to R45): a write that no check refuses, to a register, to the L2 window or to DRAM. -/
def execRegisterWrite (time : Nat) (init : Init) (size addr : Nat) (data : Word) (s : State) :
    Host.Outcome State Fault Refusal :=
  let t := s.at time
  done s (busDo t init addr size (some data) (fun t =>
    match regionOf addr with
    | .regs => regWrite t addr data
    | _ => memBusWrite t addr size data))

/-- W1C_CLEAR (R31): clearing a parent bit of LOSS_STATE has the effect of a restoration (R256), unless hardware sets the bit in
the same cycle. -/
def execW1cClear (time : Nat) (init : Init) (addr : Nat) (data hw : Word) (s : State) :
    Host.Outcome State Fault Refusal :=
  let t := s.at time
  done s (busDo t init addr 4 (some data) (fun t =>
    if addr = Reg.staLossState then (parentLossClear t (data &&& ~~~hw)).orReg addr (hw &&& 0xC)
    else w1cWrite t addr data hw))

/-- The sluice window: 144 words (R294). -/
def inSluice (a : Nat) : Bool := decide (0x40230800 ≤ a) && decide (a < 0x40230A40)

/-- The cells queued under a port. -/
def portCells (s : State) (p : Nat) : Nat :=
  ((s.tm.frames.filter (fun f => decide (fqPort s f.fq = p))).map (·.cells)).sum

/-- The present value of a 48-bit pair: RTC, RES and the next boundary follow the state (R9, R93). -/
def pairShown (s : State) (a : Nat) : Nat :=
  if a = Reg.genNextBdyLo then (if (curSlot s).isSome then nextBdy s else 0) % 2 ^ 48 else pairNow s a

/-- What a register shows that follows the state rather than being stored. -/
def shownView (s : State) (a : Nat) : Option Word :=
  if inSluice a then some (BitVec.ofNat 32 (sluWord s ((a - 0x40230800) / 4)))
  else if a = Reg.topPndIrqRaw0 then some (pndRaw s 0)
  else if a = Reg.topPndIrqRaw1 then some (pndRaw s 1)
  else if a = Reg.genPageLoc then some (pageLoc s)
  else if a = Reg.tmFqStat then some (putBit (s.reg a) 25 (fqReady s (s.fld Reg.tmFqSel 0 15)))
  else if a = Reg.tmBktLevel then some (bktShown s)
  else if a = Reg.ccMtimeLo then some (BitVec.ofNat 32 s.dt)
  else if Reg.plicPend 0 ≤ a ∧ a < Reg.plicPend 32 ∧ a % 4 = 0 then some (plicWord s ((a - Reg.plicPend 0) / 4))
  else match hit 16 Reg.plicClaim a with
  | some c => some (BitVec.ofNat 32 (plicTop s c))
  | none =>
    match hit 72 Reg.tmPortCells a, hit 16 Reg.dutyBandUsed a, hit 16 Reg.dutyBandRsv a, hit 2 Reg.mcPortStat a with
    | some p, _, _, _ => some (BitVec.ofNat 32 (portCells s p))
    | none, some b, _, _ => some (BitVec.ofNat 32 (bandUsed s b))
    | none, none, some b, _ => some (BitVec.ofNat 32 (bandRsv s b))
    | none, none, none, some c => some (portStat s c)
    | none, none, none, none =>
      match hit 3 Reg.rdRdStat a, hit 66 (fun p => portReg p Reg.spTsqPop Reg.ulTsqPop) a with
      | some _, _ => some (putBit (s.reg a) 18 (!sluSealed s))
      | none, some p => some (tsqWord s p)
      | none, none =>
        match hit 64 Reg.spMse a, hit 2 Reg.ulSerdesRx a with
        | some n, _ => some (mseShown s n)
        | none, some u => some (serdesShown s u)
        | none, none => none

/-- An IRQ_RAW register, one that stands before an enable and an IRQ_STAT register. -/
def isRaw (a : Nat) : Bool :=
  match regRow (a + 8) with
  | none => false
  | some r => decide (r.kind = .stat)

/-- What a read of the register at `a` returns (R5 to R12): a reserved bit and an unassigned offset read as 0, a write-only
register reads as 0, and the HI half of a counter reads its snapshot. -/
def readReg (s : State) (a : Nat) : Word :=
  if 0x43000000 ≤ a ∧ a < 0x43001000 then ghShown s a
  else match shownView s a with
    | some w => w
    | none =>
      match regRow a with
      | none => 0
      | some r =>
        match r.kind with
        | .wo => 0
        | .stat => statOf s (a - 8)
        | .pstat => pndStat s ((a - Reg.topPndIrqStat0) / 4)
        | .lo | .loRo => BitVec.ofNat 32 (pairShown s a)
        | .hi | .hiRo => BitVec.setWidth 32 (s.snapOf (a - 4))
        | .rc => s.reg a
        | .reg => if isRaw a then rawOf s a else otpShown s a

/-- What a read at an address that no check refuses returns: a register's word, or four bytes of a memory; the table-store
window shows the physical pages (R97, R535). -/
def readAt (s : State) (a : Nat) : Word :=
  match regionOf a with
  | .boot => BitVec.ofNat 32 (leAt [Config.bootRom a, Config.bootRom (a + 1), Config.bootRom (a + 2), Config.bootRom (a + 3)] 0 4)
  | .l2 => BitVec.ofNat 32 (leAt (memRead s.l2 (a - 0x10000000) 4) 0 4)
  | .tstore => BitVec.ofNat 32 (leAt (s.tsRead (a - 0x20000000) 4) 0 4)
  | .dram => BitVec.ofNat 32 (leAt (s.dramRead (a - 0x800000000) 4) 0 4)
  | .ghWindow => readReg s a
  | .regs => readReg s a
  | .gap => 0

/-- COUNTER_LO_READ (R9, R10): the read returns bits [31:0] and latches bits [47:32] into the snapshot; events counted
in the same cycle are applied after it. MTIME_LO latches MTIME_HI (R408). -/
def execCounterLoRead (time : Nat) (init : Init) (addr inc : Nat) (s : State) : Host.Outcome State Fault Refusal :=
  let t := s.at time
  let lo : Bool := match regRow addr with
    | none => false
    | some r => decide (r.kind = .lo) || decide (r.kind = .loRo)
  let u := busRead t init addr (readAt t addr) (fun t =>
    if addr = Reg.ccMtimeLo then t.setNat Reg.ccMtimeHi (t.dt / 2 ^ 32)
    else if lo then t.setSnap addr (BitVec.ofNat 16 (pairShown t addr / 2 ^ 32)) else t)
  done s (if lo = true ∧ inc ≠ 0 then counterAdd u addr inc else u)

/-- RC_READ (R12): the read returns the value and clears the register; an event counted in the same cycle is counted in
the next interval. TSQ_POP and DISP clear as R351 and R421 lay down, and a read of a claim register of the interrupt controller
claims (notes/assumptions/190.md). -/
def execRcRead (time : Nat) (init : Init) (addr inc : Nat) (s : State) : Host.Outcome State Fault Refusal :=
  let t := s.at time
  match hit 66 (fun p => portReg p Reg.spTsqPop Reg.ulTsqPop) addr, hit 8 Reg.tsWDisp addr, hit 16 Reg.plicClaim addr with
  | some p, _, _ => done s (busRead t init addr (readAt t addr) (fun t => tsqRemove t p))
  | none, some c, _ => done s (busRead t init addr (readAt t addr) (fun t => t.setReg (Reg.tsWDisp c) 0))
  | none, none, some c => done s (busRead t init addr (readAt t addr) (fun t => plicClaim t c))
  | none, none, none =>
    let rc : Bool := match regRow addr with
      | none => false
      | some r => decide (r.kind = .rc)
    let u := busRead t init addr (readAt t addr) (fun t => if rc then t.setReg addr 0 else t)
    done s (if rc then u.addRc addr inc else u)

end Sys2Proof.Machine
end

