-- ==== Sys2Proof/Machine/Dsp.lean ====
section
/-! DEFINITION. The modem's arithmetic (R300, R308 to R311), in exact numbers: channel estimates, noise variance, MMSE detection,
pilot tracking, and the iterations of the decoder. -/

namespace Sys2Proof.Machine

/-- A sum. -/
def cAdd (a b : Cplx) : Cplx := ⟨a.re + b.re, a.im + b.im⟩

/-- A difference. -/
def cSub (a b : Cplx) : Cplx := ⟨a.re - b.re, a.im - b.im⟩

/-- A product. -/
def cMul (a b : Cplx) : Cplx := ⟨a.re * b.re - a.im * b.im, a.re * b.im + a.im * b.re⟩

/-- The conjugate. -/
def cConj (a : Cplx) : Cplx := ⟨a.re, -a.im⟩

/-- The square of the magnitude. -/
def cNorm (a : Cplx) : Rat := a.re * a.re + a.im * a.im

/-- A number scaled. -/
def cScale (k : Rat) (a : Cplx) : Cplx := ⟨k * a.re, k * a.im⟩

/-- Zero. -/
def cZero : Cplx := ⟨0, 0⟩

/-- The sum of a list. -/
def cSum (l : List Cplx) : Cplx := l.foldl cAdd cZero

/-- The sum of products of two vectors. -/
def cDot (a b : List Cplx) : Cplx := cSum ((a.zip b).map (fun p => cMul p.1 p.2))

/-- The conjugate transpose of a matrix of rows with `n` columns. -/
def cAdj (n : Nat) (m : List (List Cplx)) : List (List Cplx) := (List.range n).map (fun j => m.map (fun r => cConj (r.getD j cZero)))

/-- A product of matrices, the second with `n` columns. -/
def cMat (n : Nat) (a b : List (List Cplx)) : List (List Cplx) :=
  a.map (fun r => (List.range n).map (fun j => cDot r (b.map (fun q => q.getD j cZero))))

/-- A matrix applied to a vector. -/
def cApply (m : List (List Cplx)) (v : List Cplx) : List Cplx := m.map (fun r => cDot r v)

/-- One step of Gauss-Jordan elimination on rows of a matrix with the identity behind it: column `j` cleared by the first row at or below
`j` that has an entry there. -/
def elimStep (m : List (List Cplx)) (j : Nat) : Option (List (List Cplx)) :=
  match (List.range m.length).find? (fun i => decide (j ≤ i) && decide (cNorm ((m.getD i []).getD j cZero) ≠ 0)) with
  | none => none
  | some i =>
    let p := m.getD i []
    let d := p.getD j cZero
    let inv := cScale (1 / cNorm d) (cConj d)
    let p := p.map (cMul inv)
    let m := (m.set i (m.getD j [])).set j p
    some ((List.range m.length).map (fun k =>
      let r := m.getD k []
      if k = j then r else List.zipWith (fun a b => cSub a (cMul (r.getD j cZero) b)) r p))

/-- The inverse of a square matrix, none where it has none. -/
def cInv (m : List (List Cplx)) : Option (List (List Cplx)) :=
  let n := m.length
  let one := fun (i : Nat) => (List.range n).map (fun j => if i = j then (⟨1, 0⟩ : Cplx) else cZero)
  let wide := (List.range n).map (fun i => m.getD i [] ++ one i)
  ((List.range n).foldl (fun o j => o.bind (fun w => elimStep w j)) (some wide)).map (fun w => w.map (·.drop n))

/-- The coefficient of a chain and stream from a sub-carrier's long training symbols, by their orthogonal mapping (R308). -/
def ltfCoef (format nss stream : Nat) (l : List Cplx) : Cplx :=
  cScale (1 / (max 1 l.length : Nat)) (cSum ((List.range l.length).map (fun n =>
    cMul (l.getD n cZero) (Config.ltfMap format nss stream n))))

/-- The coefficients of a sub-carrier by chain and stream; a blanked chain has none but zeros (R300, R308). -/
def toneEst (g : SigInfo) (blind : List Nat) (t : LtfTone) : List (List Cplx) :=
  (List.range t.ltf.length).map (fun r => (List.range (g.nss + 1)).map (fun i =>
    if blind.contains r then cZero else ltfCoef g.format g.nss i (t.ltf.getD r [])))

/-- A coefficient averaged with its neighbours on either side. -/
def smoothAt (h : List (List (List Cplx))) (k r i : Nat) : Cplx :=
  let at_ := fun (n : Nat) => ((h.getD n []).getD r []).getD i cZero
  cScale (1 / 3) (cAdd (at_ (k - 1)) (cAdd (at_ k) (at_ (k + 1))))

/-- SMOOTH (R308): every coefficient of a unit but those of its edges averaged. -/
def smoothUnit (h : List (List (List Cplx))) : List (List (List Cplx)) :=
  (List.range h.length).map (fun k =>
    let m := h.getD k []
    if k = 0 ∨ h.length ≤ k + 1 then m
    else (List.range m.length).map (fun r => (List.range (m.getD r []).length).map (fun i => smoothAt h k r i)))

/-- The coefficients of a PPDU's resource units (R308); not smoothed in a beamformed PPDU. -/
def unitsEst (smooth : Bool) (g : SigInfo) (blind : List Nat) (o : LtfObs) : List UnitEst :=
  o.units.map (fun u =>
    let h := u.2.map (toneEst g blind)
    ⟨u.1, if smooth && !g.beamformed then smoothUnit h else h⟩)

/-- The noise variance of chain `r`: half the mean square of the difference between the two repeated symbols (R308). -/
def noiseVar (o : LtfObs) (r : Nat) : Rat :=
  let l := (o.units.flatMap (·.2)).filterMap (fun t => t.pair[r]?)
  (l.map (fun p => cNorm (cSub p.1 p.2))).sum / (2 * (max 1 l.length : Nat))

/-- The estimates of a PPDU from its long training fields (R308). -/
def chanEst (smooth : Bool) (g : SigInfo) (blind : List Nat) (o : LtfObs) : ChanEst :=
  let chains := (o.units.flatMap (·.2)).foldl (fun n t => max n t.ltf.length) 0
  { units := unitsEst smooth g blind o, var := (List.range chains).map (noiseVar o), cfo := o.cfo }

/-- The σ² of R309: the mean of the noise variances of the chains that are not blanked (notes/assumptions/214.md). -/
def sigma2 (e : ChanEst) (blind : List Nat) : Rat :=
  let l := (List.range e.var.length).filterMap (fun r => if blind.contains r then none else e.var[r]?)
  l.sum / (max 1 l.length : Nat)

/-- The MMSE estimate of one sub-carrier's `ns` streams and the SINR of each (R309), from its coefficients and its received vector. -/
def mmse (ns : Nat) (sig : Rat) (h : List (List Cplx)) (y : List Cplx) : Detected :=
  let a := cAdj ns h
  let m := cMat ns a h
  let m := (List.range ns).map (fun i => (List.range ns).map (fun j =>
    let v := (m.getD i []).getD j cZero
    if i = j then cAdd v ⟨sig, 0⟩ else v))
  match cInv m with
  | none => let f := Config.openFit h y; ⟨f.1, f.2⟩
  | some v =>
    { x := cApply (cMat h.length v a) y,
      sinr := if sig = 0 then (Config.openFit h y).2
        else (List.range ns).map (fun i => 1 / (sig * ((v.getD i []).getD i cZero).re) - 1) }

/-- The soft bits of a stream and sub-carrier scaled by its SINR before decoding (R309). -/
def softScale (sinr : Rat) (bits : List Rat) : List Rat := bits.map (fun b => sinr * b)

/-- A TB PPDU, whose users are tracked apart (R310). -/
def isTb (format : Nat) : Bool := decide (format = 6) || decide (format = 8)

/-- The coefficients of sub-carrier `k` of a unit. -/
def coefAt (u : UnitEst) (k : Nat) : List (List Cplx) := if k < u.first then [] else u.h.getD (k - u.first) []

/-- The pilots of a unit with their coefficients. -/
def unitPilots (u : UnitEst) (p : List (Nat × List Cplx)) : List (Nat × List Cplx × List (List Cplx)) :=
  p.map (fun q => (q.1, q.2, coefAt u q.1))

/-- Common phase error and slope of a symbol for each unit (R310): from the unit's pilots alone in a TB PPDU, from all of them
otherwise. -/
def symFits (tb : Bool) (us : List UnitEst) (o : SymObs) : List (Rat × Rat) :=
  let l := (List.range us.length).map (fun i => match us[i]? with
    | none => []
    | some u => unitPilots u (o.pilots.getD i []))
  if tb then l.map Config.pilotFit else us.map (fun _ => Config.pilotFit l.flatten)

/-- The timing drift smoothed with a gain of 1/8, from none at the long training fields (R310, notes/assumptions/214.md). -/
def driftNext (d slope : Rat) : Rat := d + (slope - d) / 8

/-- A received vector corrected by the phase at its sub-carrier (R310). -/
def phaseFix (phase drift : Rat) (k : Nat) (y : List Cplx) : List Cplx := y.map (cMul (cConj (Config.unit (phase + drift * (k : Nat)))))

/-- One data symbol tracked and detected (R308 to R310): the estimates after it, and by unit what each data sub-carrier gives. -/
def symStep (smooth : Bool) (g : SigInfo) (blind : List Nat) (e : ChanEst) (o : SymObs) : ChanEst × List (List Detected) :=
  let e := match o.midamble with
    | none => e
    | some m => { e with units := unitsEst smooth g blind m }
  let fits := symFits (isTb g.format) e.units o
  let drift := (List.range fits.length).map (fun i => driftNext (e.drift.getD i 0) (fits.getD i (0, 0)).2)
  let det := (List.range e.units.length).map (fun i => match e.units[i]? with
    | none => []
    | some u => (o.data.getD i []).map (fun d =>
      mmse (g.nss + 1) (sigma2 e blind) (coefAt u d.1) (phaseFix (fits.getD i (0, 0)).1 (drift.getD i 0) d.1 d.2)))
  ({ e with drift := drift,
            phases := (List.range fits.length).map (fun i => e.phases.getD i [] ++ [(fits.getD i (0, 0)).1]) }, det)

/-- Every data symbol of a PPDU in order. -/
def symRun (smooth : Bool) (g : SigInfo) (blind : List Nat) : List SymObs → ChanEst → ChanEst × List (List (List Detected))
  | [], e => (e, [])
  | o :: r, e =>
    let (e, d) := symStep smooth g blind e o
    let (e, l) := symRun smooth g blind r e
    (e, d :: l)

/-- The carrier offset that a PPDU's report gives, in 0.01 ppm (R310, R312): the LTF estimate and the residual accumulated by the end. -/
def cfoOf (e : ChanEst) : Int := e.cfo + Config.residual e.phases

/-- The iterations of a codeword that meets every parity check after `need` of them (R311): DEC_CTRL.ITER_MAX stops it, and 0 acts as 1. -/
def ldpcIters (iterMax need : Nat) : Nat := min need (max 1 iterMax)

end Sys2Proof.Machine
end

