-- ==== Sys2Proof/Machine/Modem.lean ====
section
/-! DEFINITION. The modem's receive states (R299 to R315, R319, R320) and what a received PPDU does: the report and PEER_Q, hits,
peers' links and power save, control frames, the NAV, the responses due and the MPDUs' way to the pipeline (R233 to R241, R251,
R252). -/

namespace Sys2Proof.Machine

/-- The detection window in ns (R301): 8 µs on Radio L, for restart and capture too (R320). -/
def detWindow (x : Nat) : Nat := if x = 2 then 8000 else 1600

/-- A power in 0.25 dBm reaches PD_THR. -/
def overPd (s : State) (x : Nat) (power : BitVec 12) : Bool := decide (4 * signed 8 (s.fld (Reg.mdmDetThr x) 0 8) ≤ power.toInt)

/-- A preamble whose short training has persisted since `since` at a power over the window is detected (R301). -/
def detected (s : State) (x since : Nat) (power : BitVec 12) : Bool := decide (since + detWindow x ≤ s.dt) && overPd s x power

/-- Each enabled chain's AGC set from the first part of the short training field; a blanked chain's stays frozen (R274). Its setting and the
LNA bypass it chooses are open. -/
def agcSet (s : State) (x : Nat) : State :=
  s.each (enabledChains s x) (fun c t =>
    let ch := rdChain t x c
    if ch.blind then t
    else
      let (n, t) := t.drawNat
      setRdChain t x c { ch with agc := n, byp := wireTo t ch.byp (decide (n % 2 = 1)) t.dt })

/-- A detection (R301, R303): DETECT, with REF, whose fraction of a dBm MDM_STAT leaves out by a rounding that is open. -/
def detect (s : State) (x : Nat) (power : BitVec 12) : State :=
  let s := agcSet (edcaFreeze s x) x
  let (n, s) := s.drawNat
  let v := power.toInt
  let q := if v % 4 = 0 then v / 4 else v / 4 + ((n % 2 : Nat) : Int)
  let (q, s) := fitOr s 8 (decide (-128 ≤ q) && decide (q < 128)) (unsigned 8 q)
  let s := (s.setFld (Reg.mdmStat x) 0 3 1).setFld (Reg.mdmStat x) 8 8 q
  let r : RxRun := { since := s.dt, ts := s.dt, thresh := s.reg (Reg.mdmThresh x), ctrl := s.reg (Reg.mdmCtrl x), ref := v }
  reviewRadios (s.setRadio x { s.radio x with rx := some r })

/-- MODEM_ARM (R303): 1 µs after the receive path enters LISTEN, or once the receiver is ready after a transmission (R274). -/
def execModemArm (time : Nat) (x : Radio) (s : State) : Host.Outcome State Fault Refusal :=
  let t := s.at time
  let i := rIdx x
  done s (if rxState t i = 1 ∧ mdmState t i = 5 ∧ (t.radio i).armAt ≤ t.dt then reviewRdStat (setMdm t i 0) i else t)

/-- PREAMBLE_DETECT (R301, R303). -/
def execPreambleDetect (time : Nat) (x : Radio) (found : Preamble) (s : State) :
    Host.Outcome State Fault Refusal :=
  let t := s.at time
  let i := rIdx x
  done s (if mdmState t i = 0 ∧ detected t i found.since found.power = true then detect ((mdmMark t i).inc (Reg.mdmPdCnt i)) i found.power else t)

/-- LTF_TIMING (R303, R306): the timestamp is the arrival at the ADC less RX_DELAY_NS; the chains that are blanked now contribute
nothing (R300). -/
def execLtfTiming (time : Nat) (x : Radio) (found : LtfFound) (s : State) : Host.Outcome State Fault Refusal :=
  let t := s.at time
  let i := rIdx x
  done s (match (t.radio i).rx with
    | none => t
    | some r =>
      if mdmState t i ≠ 1 then t
      else
        let t := mdmMark t i
        let l := enabledChains t i
        let blind := (List.range l.length).filter (fun k => (l[k]?).elim false (fun c => (rdChain t i c).blind))
        setMdm (t.setRadio i { t.radio i with rx := some { r with
          ts := found.arrival - t.fld (Reg.mdmRxDelayNs i) 0 12, ltf := some found.ltf, blind := blind } }) i 2)

/-- A reception ends without a PPDU: the modem is idle. -/
def rxNone (s : State) (x : Nat) : State := reviewRadios (setMdm (rxOver s x) x 0)

/-- DETECT_TIMEOUT (R303): no LTF timing within 16 µs, or 360 µs on Radio L. -/
def execDetectTimeout (time : Nat) (x : Radio) (s : State) : Host.Outcome State Fault Refusal :=
  let t := s.at time
  let i := rIdx x
  done s (match (t.radio i).rx with
    | none => t
    | some r =>
      if mdmState t i = 1 ∧ r.since + (if i = 2 then 360000 else 16000) ≤ t.dt then
        reviewRadios (setMdm ((mdmMark t i).inc (Reg.mdmPdFalse i)) i 0)
      else t)

/-- What a valid SIG announces is among what the modem receives (R299, R319): a format, width, MCS and stream count of the table on the
channel in use, in BCC or LDPC, and without an excluded feature. -/
def supported (s : State) (x : Nat) (g : SigInfo) : Bool :=
  inTable s x g.format g.bw g.mcs g.nss && decide (g.coding ≠ .other) && !g.excluded

/-- A SIG check ends (R302, R303, R308): a valid SIG announces its duration; from a supported one on the channel is estimated and R291
applies, which refuses a start that the partner still has in LEAD. -/
def sigEnd (s : State) (x : Nat) (out : SigOutcome) : State :=
  match (s.radio x).rx with
  | none => s
  | some r =>
    if mdmState s x ≠ 2 then s
    else
      let s := mdmMark s x
      match out with
      | .fail => rxNone (s.inc (Reg.mdmSigFail x)) x
      | .valid g =>
        let q := s.radio x
        let s := s.setRadio x { q with busyTo := max q.busyTo (r.ts + g.lenNs) }
        if supported s x g = false then rxNone (s.inc (Reg.mdmUnsupp x)) x
        else
          let e := r.ltf.map (chanEst (bitOf r.ctrl 2) g r.blind)
          let s := setMdm (s.setRadio x { s.radio x with rx := some { r with stop := r.ts + g.lenNs, sig := some g, est := e } }) x 3
          let s := reviewRadios s
          if x < 2 ∧ partnerReceives s (1 - x) = true then leadBlanked s (1 - x) else s

/-- SIG_CHECK (R303). -/
def execSigCheck (time : Nat) (x : Radio) (out : SigOutcome) (s : State) : Host.Outcome State Fault Refusal :=
  done s (sigEnd (s.at time) (rIdx x) out)

/-- A reception confirmed (R304). -/
def confirm (s : State) (x : Nat) : State := if mdmState s x = 3 then setMdm (mdmMark s x) x 4 else s

/-- RX_CONFIRM (R304). -/
def execRxConfirm (time : Nat) (x : Radio) (s : State) : Host.Outcome State Fault Refusal :=
  done s (confirm (s.at time) (rIdx x))

/-- The report of a PPDU that reached its end (R312): format, width, MCS and streams from its SIG, in a TB PPDU MCS and streams of the first
user; the carrier offset under R310. -/
def mdmReport (g : SigInfo) (r : RxReport) (ts : Nat) (cfo : Int) (peer : Option Nat) : List Word :=
  let u := if isTb g.format then r.users.head? else none
  let mcs := (u.map (·.mcs.toNat)).getD (g.mcs % 16)
  let nss := (u.map (·.nss.toNat)).getD (g.nss % 4)
  [BitVec.ofNat 32 (r.rssi.toNat + 2 ^ 16 * r.evm.toNat + 2 ^ 24 * (g.format % 16)),
   BitVec.ofNat 32 (mcs + 2 ^ 4 * nss + 2 ^ 6 * (g.bw % 8) + 2 ^ 16 * peer.getD 0 + 2 ^ 31 * bnat peer.isSome),
   BitVec.ofNat 32 (ts % 2 ^ 32), BitVec.ofNat 32 (ts / 2 ^ 32 % 2 ^ 16), BitVec.ofNat 32 (unsigned 16 cfo)]

/-- The figures that a transmitter's MPDU came with (R313): its user's in a TB PPDU, otherwise the PPDU's own. -/
def userFigures (g : SigInfo) (r : RxReport) (m : Mpdu) : RxUser :=
  let own : RxUser := ⟨r.rssi, r.evm, BitVec.ofNat 4 g.mcs, BitVec.ofNat 2 g.nss⟩
  if isTb g.format then r.users.getD m.user own else own

/-- PEER_Q of an association index written (R313). -/
def peerQ (s : State) (x a : Nat) (u : RxUser) : State :=
  s.setNat (Reg.mdmPeerQ x a)
    (rssiDbm u.rssi.toNat + 2 ^ 8 * u.evm.toNat + 2 ^ 16 * u.mcs.toNat + 2 ^ 20 * u.nss.toNat + 2 ^ 24)

/-- The transmitter of an MPDU under R229; an Ack names none. -/
def mpduPeer (s : State) (x : Nat) (m : Mpdu) : Option Nat :=
  match m.kind with
  | .ctrl .ack => none
  | _ => lookupTa s x m.ta.toNat

/-- The BSSID of a radio (R262). -/
def bssidOf (s : State) (x : Nat) : Nat := s.regN (Reg.staBssidLo x) + 2 ^ 32 * s.fld (Reg.staBssidHi x) 0 16

/-- An MPDU is addressed to the device: its receiver address is the BSSID of the radio that received it (R237). -/
def toDevice (s : State) (x : Nat) (m : Mpdu) : Bool := decide (m.ra.toNat = bssidOf s x)

/-- A valid frame from a peer on a link (R251, R252): LAST_RX, FAIL, LINK_UP and PS. -/
def peerSeen (s : State) (x a : Nat) (m : Mpdu) : State :=
  let s := putStaFld (putStaFld s a 9 0 32 (s.now48 % 2 ^ 32)) a 10 0 16 (s.now48 / 2 ^ 32)
  let s := putStaFld s a 11 (8 * x) 8 0
  let s := if staKind s a < 2 ∧ staLink s a x = true ∧ staUp s a x = false then staEvent (linkBack s a x) 1 x a else s
  putStaFld s a 0 (13 + x) 1 (bnat m.pm)

/-- The key under which a report of all TIDs at once is held. -/
def ulAll : Nat := 15

/-- A station's reported queue sizes with one more report (R196): of a TID, beside those of the other TIDs, or of all of them. -/
def ulReport (b : Bank Nat) (a : Nat) (tid : Nat) (q : QueueReport) : Bank Nat :=
  match q with
  | .qos n => bankSet (fun _ => 0) (bankSet (fun _ => 0) b (16 * a + ulAll) 0) (16 * a + tid) n
  | .bsr n => bankSet (fun _ => 0) ((List.range 8).foldl (fun b t => bankSet (fun _ => 0) b (16 * a + t) 0) b) (16 * a + ulAll) n

/-- What a station last reported, summed over TIDs. -/
def ulSum (b : Bank Nat) (a : Nat) : Nat := ((List.range 16).map (fun t => bankGet (fun _ => (0 : Nat)) b (16 * a + t))).sum

/-- UL_BUF updated from a station's report, on both radios for a multi-link device (R196). -/
def ulBufSet (s : State) (x a tid : Nat) (q : QueueReport) : State :=
  s.each (if staKind s a = 0 then [x] else [0, 1]) (fun y t =>
    let b := ulReport (t.airOf y).ulTid a tid q
    let t := t.setAirOf y { t.airOf y with ulTid := b }
    let (v, t) := fitOr t 16 (decide (ulSum b a < 0xFFFF)) (ulSum b a)
    t.setFld (Reg.airAsrAux y a) 16 16 v)

/-- A response came for the last PPDU to a peer (R203, R241). -/
def answered (s : State) (x a : Nat) : State :=
  let s := s.setRadio x { s.radio x with await := (s.radio x).await.erase a }
  match (s.airOf x).edcaAc with
  | none => s
  | some ac => edcaFresh (s.setAirOf x { s.airOf x with edcaAc := none }) x ac

/-- An Ack (R237): the MPDUs on the air to the one peer awaited are delivered; it confirms no wake-timing frame, which a block
acknowledgement does (R213). -/
def rxAck (s : State) (x : Nat) : State :=
  match (s.radio x).await with
  | [a] =>
    let s := setSent s x ((sentOf s x).filter (fun m => decide (m.sta ≠ a)))
    let s := if staValid s a then putStaFld s a 11 (8 * x) 8 0 else s
    let s := match (s.airOf x).wake with
      | none => s
      | some w => if w.sta = a then wakeUnsure s x else s
    answered s x a
  | _ => s

/-- The bit of a sequence number in a block acknowledgement. -/
def baBit (r : BaRec) (sn : Nat) : Bool := r.bits.getD (snDist r.ssn.toNat sn) false

/-- The transmit window of a space: that of its agreement, or a single MPDU. -/
def txWindow (s : State) (a sp : Nat) : Nat := if txAgreed s a sp then windowOf (staFld s a 8 (3 * sp) 3) else 1

/-- A block acknowledgement reports a starting sequence number outside the transmit window (R241). -/
def baOutside (s : State) (a : Nat) (r : BaRec) : Bool :=
  match txStart s a r.space with
  | none => false
  | some b => decide (txWindow s a r.space ≤ snDist b r.ssn.toNat)

/-- One space of a BlockAck (R237, R248): the MPDUs whose bit is 1 are delivered, whichever link carried them; the others sent on this link
stay for retransmission. -/
def baSpace (s : State) (x a : Nat) (r : BaRec) : State :=
  let s := dropTx s (fun m => decide (m.sta = a) && decide (m.space = r.space.val) && baBit r m.sn)
  let mine := fun (m : TxMpdu) => decide (m.sta = a) && decide (m.space = r.space.val)
  let l := sentOf s x
  unacked (setSent s x (l.filter (fun m => !mine m))) (l.filter mine)

/-- A BlockAck of a peer (R237, R241, R213): one that comes after the timeout is ignored, and of one in time every space whose start lies
outside the transmit window. A wake-timing frame is confirmed by its bit in the space MGMT. -/
def rxBlockAck (s : State) (x a : Nat) (recs : List BaRec) : State :=
  let l := recs.filter (fun r => !baOutside s a r)
  if (s.radio x).await.contains a = false ∨ l.isEmpty = true then s
  else
    let s := s.each l (fun r t => baSpace t x a r)
    let s := match (s.airOf x).wake with
      | none => s
      | some w =>
        if w.sta = a then
          if l.any (fun r => decide (r.space.val = 9) && baBit r w.sn) then wakeConfirmed s x else wakeUnsure s x
        else s
    answered s x a

/-- The NAV set to the later of its end and the end a frame announces (R240). -/
def navSet (s : State) (x d : Nat) : State := s.setRadio x { s.radio x with nav := max (s.radio x).nav (s.dt + d) }

/-- The earlier of two sequence numbers in the order of a window. -/
def snFirst (a b : Nat) : Nat := if snDist a b < 2048 then a else b

/-- A response due beside those noted already (R238): BlockAcks of one space to one peer become one, from the earliest number on. -/
def dueAdd (l : List Due) (d : Due) : List Due :=
  match d.kind with
  | .ba sp ssn heard =>
    let same := fun (e : Due) => decide (e.addr = d.addr) && (match e.kind with
      | .ba p _ _ => decide (p = sp)
      | _ => false)
    (match l.find? same with
    | some ⟨_, _, .ba _ n h⟩ => l.map (fun e => if same e then ⟨d.sta, d.addr, .ba sp (snFirst n ssn) (h ++ heard)⟩ else e)
    | _ => l ++ [d])
  | _ => if l.contains d then l else l ++ [d]

/-- A PPDU that solicits a response from the device was received. -/
def solicit (s : State) (x : Nat) (a : Option Nat) (m : Mpdu) (k : DueKind) : State :=
  s.setRadio x { s.radio x with due := dueAdd (s.radio x).due ⟨a, m.ta.toNat, k⟩ }

/-- What an MPDU addressed to the device asks for (R238): a compressed BlockAck in an A-MPDU and for a TID with an agreement, an Ack for any
other single MPDU and for a management frame. -/
def mpduDue (s : State) (a : Option Nat) (agg : Bool) (m : Mpdu) : DueKind :=
  let sp := mpduSpace m
  let w := (a.map (fun a => spaceWindow s a sp)).getD 0
  if sp = 9 ∨ (agg = false ∧ w = 0) then .ack else .ba sp m.sn.toNat [m.sn.toNat]

/-- A control frame addressed to the device (R237). -/
def rxControl (s : State) (x : Nat) (peer : Option Nat) (m : Mpdu) (k : CtrlKind) : State :=
  match k, peer with
  | .ack, _ => rxAck s x
  | .blockAck recs, some a => rxBlockAck s x a recs
  | .bar tid ssn, some a =>
    if rxWindow s a tid = 0 then s else solicit (rxBar s x a tid ssn.toNat) x (some a) m (.ba tid ssn.toNat [])
  | .rts, some a => if (s.radio x).nav ≤ s.dt then solicit s x (some a) m .cts else s
  | .psPoll, some a =>
    if staPs s a x then
      solicit { s with sta := { s.sta with polls := (s.sta.polls ++ [(x, a)]).eraseDups } } x (some a) m .ack
    else s
  | .trigger, _ => navSet s x m.durationNs
  | .other, _ => navSet s x m.durationNs
  | _, _ => s

/-- One MPDU with a valid FCS handed to the MAC (R233, R237, R238, R240, R251, R252): every one that is no control frame takes the steps of
R233. -/
def macMpdu (x ts rssi : Nat) (agg : Bool) (m : Mpdu) (s : State) : State :=
  let peer := mpduPeer s x m
  let mine := toDevice s x m
  let s := match peer with
    | none => s
    | some a => peerSeen s x a m
  let s := match peer, m.queueSize with
    | some a, some q => ulBufSet s x a m.tid q
    | _, _ => s
  match m.kind with
  | .ctrl .cfEnd => s.setRadio x { s.radio x with nav := 0 }
  | .ctrl k => if mine then rxControl s x peer m k else navSet s x m.durationNs
  | k =>
    let s := if mine then (if m.noAck then s else solicit s x peer m (mpduDue s peer agg m)) else navSet s x m.durationNs
    let s := match k, meshParent s with
      | .beacon t i, some p => if peer = some p then parentBeacon s p x ts t i else s
      | _, _ => s
    receiveMpdu s x ts rssi m

/-- A PPDU that began in the window of a LISTEN entry and carries the station's address is a hit (R211). -/
def hitOf (s : State) (x ts : Nat) (ok : List Mpdu) : Option Listen :=
  match (s.airOf x).listen with
  | none => none
  | some l =>
    if l.opened && decide (l.opn ≤ ts) && decide (ts < l.cls) && ok.any (fun m => decide (mpduPeer s x m = some l.sta))
    then some l else none

/-- The indexed transmitters of MPDUs, in order (R312, R313). -/
def rxPeers (s : State) (x : Nat) (ok : List Mpdu) : List Nat := (ok.filterMap (mpduPeer s x)).eraseDups

/-- The MPDUs of a PPDU counted, and PEER_Q of their transmitters written (R313). -/
def rxCounts (s : State) (x : Nat) (g : SigInfo) (rep : RxReport) (mpdus : List Mpdu) : State :=
  let ok := mpdus.filter (·.fcsOk)
  let s := s.addPair (Reg.mdmRxMpduLo x) ok.length
  let s := (s.addRc (Reg.mdmFcsErr x) (mpdus.length - ok.length)).addRc (Reg.mdmDelimErr x) rep.delimErr
  s.each (ok.filterMap (fun m => (mpduPeer s x m).map (fun a => (a, m)))) (fun e t => peerQ t x e.1 (userFigures g rep e.2))

/-- The stations that a Trigger frame allocated units to and that sent in the PPDU that answers it (R196, R241). -/
def triggerAnswers (s : State) (x : Nat) (ok : List Mpdu) : List Nat :=
  match (s.radio x).air with
  | some a => (match a.frame with
    | .trigger _ _ _ _ _ => (rxPeers s x ok).filter (fun p => (s.radio x).await.contains p)
    | _ => [])
  | none => []

/-- What a PPDU that ended leaves of the responses awaited (R241): the peers that did not answer in it are unanswered, and an exchange that
was answered ends with it. -/
def awaitEnd (s : State) (x stop : Nat) (was : List Nat) : State :=
  if was.isEmpty then s
  else
    let left := (s.radio x).await
    let s := s.each left (fun a t => unanswered t x a false)
    if left.length < was.length ∧ (s.radio x).due.isEmpty = true then
      awaitDone (s.setRadio x { s.radio x with exEnd := some stop }) x
    else s

/-- A PPDU ends as its SIG announced (R303, R310 to R313): its report, the hit it may be, its MPDUs to the MAC, and the responses it asks
for or brings. -/
def ppduEnd (s : State) (x : Nat) (r : RxRun) (g : SigInfo) (rep : RxReport) (mpdus : List Mpdu) : State :=
  let ok := mpdus.filter (·.fcsOk)
  let iter := s.fld (Reg.mdmDecCtrl x) 0 5
  let (e, det) := symRun (bitOf r.ctrl 2) g r.blind rep.syms (r.est.getD { units := [], var := [], cfo := 0 })
  let peers := rxPeers s x ok
  let s := rxCounts s x g rep mpdus
  let was := (s.radio x).await
  let s := s.setRadio x { s.radio x with report := mdmReport g rep r.ts (cfoOf e) peers.head?, due := [], dueAt := r.stop, dueSig := some g,
                                         det := det, iters := rep.words.map (ldpcIters iter), rxDone := s.dt, undo := none }
  let s := setMdm s x 0
  let s := match hitOf s x r.ts ok with
    | none => s
    | some l => listenHit s x l r.ts
  let s := s.each (triggerAnswers s x ok) (fun a t => answered t x a)
  let s := s.each ok (macMpdu x r.ts rep.rssi.toNat rep.aggregated)
  reviewRadios (awaitEnd s x r.stop was)

/-- The MPDUs that a reception dropped or lost had passed, handed over (R305): no response is sent, and their timestamp, which
the reception does not leave (R307), is open. -/
def keptEnd (s : State) (x : Nat) (g : SigInfo) (rep : RxReport) (mpdus : List Mpdu) : State :=
  let due := (s.radio x).due
  let (ts, s) := s.drawNat
  let s := rxCounts (s.setRadio x { s.radio x with kept := none }) x g rep mpdus
  let s := s.each (mpdus.filter (·.fcsOk)) (macMpdu x (ts % 2 ^ 48) rep.rssi.toNat rep.aggregated)
  reviewRadios (s.setRadio x { s.radio x with due := due })

/-- The reception of radio `x` that ends now as its SIG announced. -/
def rxEnding (s : State) (x : Nat) : Option (RxRun × SigInfo) :=
  match (s.radio x).rx with
  | none => none
  | some r => if (mdmState s x = 3 ∨ mdmState s x = 4) ∧ r.stop ≤ s.dt then r.sig.map (fun g => (r, g)) else none

/-- The end of the reception in progress, or else what the last one that was dropped kept. -/
def rxEnd (s : State) (x : Nat) (rep : RxReport) (mpdus : List Mpdu) : State :=
  match rxEnding s x with
  | some (r, g) => ppduEnd s x r g rep mpdus
  | none => match (s.radio x).kept with
    | some g => keptEnd s x g rep mpdus
    | none => s

/-- Copies that end in one cycle are taken from Radio H first (R244): the ends of its receptions that wait in this cycle. -/
def rxFirst (s : State) (x : Nat) : State :=
  if x = 0 then s
  else s.each (sameCycle s) (fun c t => match c with
    | .ppduRxEnd _ .h rep l => rxEnd t 0 rep l
    | _ => t)

/-- PPDU_RX_END (R303, R305, R312). -/
def execPpduRxEnd (time : Nat) (x : Radio) (rep : RxReport) (mpdus : List Mpdu) (s : State) :
    Host.Outcome State Fault Refusal :=
  done s (rxEnd (rxFirst (s.at time) (rIdx x)) (rIdx x) rep mpdus)

/-- What a fresh preamble with a rise, in 0.25 dB, does to a reception (R303): the counter of its kind, none where the
reception goes on. -/
def freshKind (st : Nat) (r : RxRun) (rise : Int) (x : Nat) : Option Nat :=
  let restart := bitsOf r.thresh 0 8
  let capture := bitsOf r.thresh 8 8
  let u := decide (((min restart capture : Nat) : Int) ≤ rise) && bitOf r.ctrl 0
  if st = 1 ∨ st = 2 then if u then some (Reg.mdmRestartCnt x) else none
  else if st = 3 then if u then some (Reg.mdmFalseSig x) else none
  else if (capture : Int) ≤ rise ∧ bitOf r.ctrl 1 = true then some (Reg.mdmCaptureCnt x) else none

/-- What the receive table takes before a fresh preamble of the same cycle (R305): a SIG check, a confirmation, the end of the
PPDU. -/
def freshFirst (s : State) (x : Nat) : State :=
  s.each (sameCycle s) (fun c t => match c with
    | .sigCheck _ y out => if rIdx y = x then sigEnd t x out else t
    | .rxConfirm _ y => if rIdx y = x then confirm t x else t
    | .ppduRxEnd _ y rep l => if rIdx y = x ∧ (rxEnding t x).isSome = true then rxEnd t x rep l else t
    | _ => t)

/-- FRESH_PREAMBLE (R303, R305, R320): the second detector finds a preamble; its rise is the power over the window above REF. -/
def execFreshPreamble (time : Nat) (x : Radio) (since : Nat) (power : BitVec 12) (s : State) :
    Host.Outcome State Fault Refusal :=
  let t := s.at time
  let i := rIdx x
  done s (if detected t i since power = false ∨ mdmState t i = 5 then t
    else
      let t := freshFirst t i
      if mdmState t i = 5 then t
      else
        let t := (mdmMark t i).inc (Reg.mdmPdCnt i)
        match (t.radio i).rx with
        | none => detect t i power
        | some r =>
          match freshKind (mdmState t i) r (power.toInt - r.ref) i with
          | none => t
          | some reg =>
            let t := t.inc reg
            detect (if 3 ≤ mdmState t i then dropReport t i else t) i power)

/-- The latest report written to the LAST registers, as a read of LAST_Q0 latches it (R312). -/
def latchReport (s : State) (x : Nat) : State :=
  match (s.radio x).report with
  | [a, b, c, d, e] =>
    ((((s.setReg (Reg.mdmLastQ0 x) a).setReg (Reg.mdmLastQ1 x) b).setReg (Reg.mdmLastTsLo x) c).setReg
      (Reg.mdmLastTsHi x) d).setReg (Reg.mdmLastCfo x) e
  | _ => s

/-- LAST_Q0_READ (R312). -/
def execLastQ0Read (time : Nat) (init : Init) (x : Radio) (s : State) : Host.Outcome State Fault Refusal :=
  let t := s.at time
  let i := rIdx x
  done s (busRead t init (Reg.mdmLastQ0 i) ((latchReport t i).reg (Reg.mdmLastQ0 i)) (fun t => latchReport t i))

/-- NF_PERIOD_END (R315): each chain's noise floor, or STALE where less than 1 ms of idle samples was collected. -/
def execNfPeriodEnd (time : Nat) (x : Radio) (idleUs : Nat) (levels : List (BitVec 12)) (s : State) :
    Host.Outcome State Fault Refusal :=
  let t := s.at time
  let i := rIdx x
  done s (if islUp t (8 + i) = false then t
    else t.each (enabledChains t i) (fun c t =>
      match levels[c]? with
      | some v => if 1000 ≤ idleUs then t.setNat (Reg.mdmNf i c) v.toNat else t.setBit (Reg.mdmNf i c) 16 true
      | none => t.setBit (Reg.mdmNf i c) 16 true))

end Sys2Proof.Machine
end

