-- ==== Sys2Proof/Machine/ReplayRun.lean ====
section
/-! DEFINITION. The replay of records (R505 to R508). -/

namespace Sys2Proof.Machine

/-- A divergence (R507): counted; the first is latched with its record, its port (bit 16 for a REGWR), what was recorded and what
was replayed, and with STOP_ON_DIV it ends the replay. -/
def diverge (s : State) (ptr port want got : Nat) : State :=
  let s := s.inc Reg.tpDivCnt
  if s.bit Reg.tpTpStat 4 then s
  else
    let s := (((s.setNat Reg.tpDivPtr ptr).setNat Reg.tpDivPort port).setNat Reg.tpDivExp want).setNat Reg.tpDivAct got
    let s := (s.setNat Reg.tpDivDtLo (s.now48 % 2 ^ 32)).setNat Reg.tpDivDtHi (s.now48 / 2 ^ 32)
    let s := (s.setBit Reg.tpTpStat 4 true).raise Reg.tpIrqRaw 4
    if s.bit Reg.tpTpCtrl 3 then replayEnd s 6 else s

/-- The words of a port's oldest whole packet, taken from the words of its pound, and those left, over at most `n` packets; none
without one. -/
def takePort (sub : Nat) : Nat → List PWord → Option (List PWord × List PWord)
  | 0, _ => none
  | n + 1, ws =>
    match splitPacket ws with
    | none => none
    | some (a, r) =>
      if (wordsMeta a).egSub = sub then some (a, r)
      else match takePort sub n r with
        | none => none
        | some (b, c) => some (b, a ++ c)

/-- The engine drains a port's oldest frame from its egress pound, with the credits of its words and its note (R505, R537). -/
def drainPort (s : State) (p : Nat) : Option (List Byte × State) :=
  match egressPound p with
  | none => none
  | some q =>
    let x := s.pound q
    match takePort (if p < 64 then p % 8 else 0) (x.taken ++ x.ready).length (x.taken ++ x.ready) with
    | none => none
    | some (ws, rest) =>
      let t := s.setPound q { x with taken := [], ready := rest }
      let t := if p < 64 then t.setMac p { t.mac p with spent := (t.mac p).spent - ws.length } else t
      let t := if p < 66 then dropNote t p else t
      some (wordsData ws, feedPound t q)

/-- A FRAME record played (R505): the frame enters the pipeline by its port, with the bytes captured of it and free bytes in the
place of the others; a recirculated frame is the device's own. -/
def playFrame (s : State) (r : RpRec) : State :=
  let p := r.arg0 % 128
  if p = 70 then acceptRecirc s
  else
    let n := r.arg1 % 16384
    let have_ := (r.payload.take (16 * (r.len - 1))).take n
    let w := s.drawBytes (n - have_.length)
    let m : Meta := { len := n, inPort := p, inDt := r.dt, staIdx := nbits r.arg1 16 12, tid := nbits r.arg1 28 4 }
    admitFrame (w.2.addPair Reg.ppRxLo 1) 0 p p 0 (curTag s) false m (have_ ++ w.1) true

/-- An EGRESS record played (R505, R507): the frame drained at its DT is compared by its digest. -/
def playEgress (s : State) (r : RpRec) : State :=
  let p := r.arg0 % 128
  match drainPort s p with
  | none => diverge s r.pos p r.arg1 0
  | some (b, t) =>
    let c := crc32 (captured t b)
    if c = r.arg1 then t else diverge t r.pos p r.arg1 c

/-- A RETURN record played: the reserved frame of a radio's port and flow queue goes back to its queue (R175). -/
def playReturn (s : State) (r : RpRec) : State :=
  match s.tm.frames.find? (fun f => f.resv.isSome && !f.started && decide (f.fq = r.arg1 % 32768) &&
      decide (f.resv.map (· + 66) = some (r.arg0 % 128))) with
  | none => s
  | some f => putBarge s { f with resv := none }

/-- A LOSS record played: LOSS_STATE as recorded, and the fallback table with it. -/
def playLoss (s : State) (v : Nat) : State := fallbackNow (s.setFld Reg.staLossState 0 16 v)

/-- An IRQ record played with CC_MODE = 1: the level driven (R506). -/
def playIrq (s : State) (id level : Nat) : State :=
  match s.tp.play with
  | none => s
  | some run =>
    let l := run.irqs.filter (fun i => decide (i ≠ id))
    { s with tp := { s.tp with play := some { run with irqs := if level = 0 then l else l ++ [id] } } }

/-- One record played (R505, R506); `rest` are the records after it. -/
def playRecord (s : State) (r : RpRec) (rest : List RpRec) : State :=
  let cc := s.bit Reg.tpTpCtrl 4
  match r.kind with
  | 0 => playFrame s r
  | 1 => playEgress s r
  | 2 => playReturn s r
  | 4 => if cc then s else regWrite s (leAt r.payload 0 8) (BitVec.ofNat 32 r.arg1)
  | 5 => if cc then playIrq s r.arg0 (r.arg1 % 2) else s
  | 6 => rpArm s rest
  | 7 => if cc then placeTask s (leAt r.payload 0 4 % 8) (r.arg0 % 4096) else s
  | 8 => playLoss s r.arg0
  | 9 => ghTake s (r.payload.take r.arg0)
  | _ => s

/-- The engine moves past a record, which it has read over memory port 6. -/
def rpAdvance (s : State) (run : ReplayRun) (r : RpRec) : State :=
  let s := dramUse s 6 (run.base + 16 * run.pos) (16 * r.len) false
  let run := { run with pos := (run.pos + r.len) % max 1 run.units, left := run.left - r.len, rseq := (run.rseq + 1) % 65536 }
  { s.setNat Reg.tpRpPos run.pos with tp := { s.tp with play := some run } }

/-- The records from the engine's place on. -/
def rpRest (s : State) : List RpRec :=
  match s.tp.play with
  | none => []
  | some run => (rpScan s run.base run.units run.left run.pos run.left none).1

/-- The next record played once its DT has come; at the end of the span or of the records, or at an RSEQ break, the replay ends
(R505, R508). -/
def rpNext (s : State) (run : ReplayRun) : State :=
  if run.left = 0 then replayEnd s 0
  else
    let r := rpAt s run.base run.units run.pos true
    if r.len = 0 then replayEnd s 0
    else if r.rseq ≠ run.rseq then replayEnd s (if run.toEnd then 0 else 2)
    else if dt48diff s.now48 r.dt < 0 then s
    else
      let s := rpAdvance s run r
      playRecord s r (rpRest s)

/-- A frame drained with no EGRESS record due (R507). -/
def rpLoose (s : State) (run : ReplayRun) (p : Nat) (b : List Byte) : State :=
  match drainPort s p with
  | none => s
  | some (d, t) => if d = b then diverge t run.pos p 0 (crc32 (captured t d)) else s

/-- A write of firmware's own compared with its REGWR record, with CC_MODE = 1 (R506, R507). -/
def rpCompare (s : State) (run : ReplayRun) (a : Nat) (d : Word) : State :=
  let r := rpAt s run.base run.units run.pos true
  if !s.bit Reg.tpTpCtrl 4 || !recordedRegion a then s
  else if run.left ≠ 0 ∧ r.len ≠ 0 ∧ r.rseq = run.rseq ∧ r.kind = 4 then
    let s := rpAdvance s run r
    if leAt r.payload 0 8 = a ∧ r.arg1 = d.toNat then s else diverge s r.pos 65536 r.arg1 d.toNat
  else diverge s run.pos 65536 0 d.toNat

/-- REPLAY_RECORD (R505 to R508). -/
def execReplayRecord (time : Nat) (drain : Option Drain) (s : State) : Host.Outcome State Fault Refusal :=
  let t := s.at time
  done s (match t.tp.play with
    | none => t
    | some run =>
      if islUp t 20 = false then t
      else match drain with
        | none => rpNext t run
        | some (.frame p b) => rpLoose t run p b
        | some (.write a d) => rpCompare t run a d)

end Sys2Proof.Machine
end

