-- ==== Sys2Proof/Machine/Dispatch.lean ====
section
/-! DEFINITION. The dispatcher: one arm per command, each one call of its meaning. -/

namespace Sys2Proof.Machine

def exec (i : Instr) (s : State) : Host.Outcome State Fault Refusal :=
  match i with
  | .registerWrite time init size addr data => Sys2Proof.Machine.execRegisterWrite time init size addr data s
  | .w1cClear time init addr data hw => Sys2Proof.Machine.execW1cClear time init addr data hw s
  | .counterLoRead time init addr inc => Sys2Proof.Machine.execCounterLoRead time init addr inc s
  | .counterHiWrite time init addr data => Sys2Proof.Machine.execCounterHiWrite time init addr data s
  | .counterLoWrite time init addr data inc => Sys2Proof.Machine.execCounterLoWrite time init addr data inc s
  | .rcRead time init addr inc => Sys2Proof.Machine.execRcRead time init addr inc s
  | .islandResetHold time init isl => Sys2Proof.Machine.execIslandResetHold time init isl s
  | .islandResetRelease time init isl => Sys2Proof.Machine.execIslandResetRelease time init isl s
  | .islandReady time isl => Sys2Proof.Machine.execIslandReady time isl s
  | .islandForceOff time init isl => Sys2Proof.Machine.execIslandForceOff time init isl s
  | .islandPowerUp time init isl => Sys2Proof.Machine.execIslandPowerUp time init isl s
  | .graftClear time init isl => Sys2Proof.Machine.execGraftClear time init isl s
  | .poundWordWrite time p w => Sys2Proof.Machine.execPoundWordWrite time p w s
  | .poundWordReadable time p => Sys2Proof.Machine.execPoundWordReadable time p s
  | .poundWordRead time p => Sys2Proof.Machine.execPoundWordRead time p s
  | .pndMarkWrite time init p data => Sys2Proof.Machine.execPndMarkWrite time init p data s
  | .collectorAccept time c => Sys2Proof.Machine.execCollectorAccept time c s
  | .loadCmdStart time init => Sys2Proof.Machine.execLoadCmdStart time init s
  | .loadDone time => Sys2Proof.Machine.execLoadDone time s
  | .loadDramError time => Sys2Proof.Machine.execLoadDramError time s
  | .loadAbort time init => Sys2Proof.Machine.execLoadAbort time init s
  | .arm time init slot next => Sys2Proof.Machine.execArm time init slot next s
  | .disarm time init slot => Sys2Proof.Machine.execDisarm time init slot s
  | .discard time init slot => Sys2Proof.Machine.execDiscard time init slot s
  | .armingTime time tableError => Sys2Proof.Machine.execArmingTime time tableError s
  | .boundaryAnnounce time => Sys2Proof.Machine.execBoundaryAnnounce time s
  | .roundBoundary time => Sys2Proof.Machine.execRoundBoundary time s
  | .lockHandover time p => Sys2Proof.Machine.execLockHandover time p s
  | .freed time slot => Sys2Proof.Machine.execFreed time slot s
  | .gateIntervalStart time p => Sys2Proof.Machine.execGateIntervalStart time p s
  | .pageQry time init data => Sys2Proof.Machine.execPageQry time init data s
  | .tableScrubPass time err => Sys2Proof.Machine.execTableScrubPass time err s
  | .ingressAccept time => Sys2Proof.Machine.execIngressAccept time s
  | .engineDispatch time => Sys2Proof.Machine.execEngineDispatch time s
  | .parseDone time e => Sys2Proof.Machine.execParseDone time e s
  | .classifyDone time e => Sys2Proof.Machine.execClassifyDone time e s
  | .reorderRelease time => Sys2Proof.Machine.execReorderRelease time s
  | .pipelineHandoff time => Sys2Proof.Machine.execPipelineHandoff time s
  | .lateContradiction time fid c => Sys2Proof.Machine.execLateContradiction time fid c s
  | .natInsert time init => Sys2Proof.Machine.execNatInsert time init s
  | .natRemove time init => Sys2Proof.Machine.execNatRemove time init s
  | .natRead time init => Sys2Proof.Machine.execNatRead time init s
  | .natDone time => Sys2Proof.Machine.execNatDone time s
  | .natAgeVisit time ses => Sys2Proof.Machine.execNatAgeVisit time ses s
  | .natExpTailWrite time init data => Sys2Proof.Machine.execNatExpTailWrite time init data s
  | .natSeedWrite time init data => Sys2Proof.Machine.execNatSeedWrite time init data s
  | .tmAdmit time => Sys2Proof.Machine.execTmAdmit time s
  | .tmEndWord time fid => Sys2Proof.Machine.execTmEndWord time fid s
  | .ghRecordTake time => Sys2Proof.Machine.execGhRecordTake time s
  | .spillWriteDone time fid => Sys2Proof.Machine.execSpillWriteDone time fid s
  | .spillFetch time fq => Sys2Proof.Machine.execSpillFetch time fq s
  | .spillFetchDone time fid ok => Sys2Proof.Machine.execSpillFetchDone time fid ok s
  | .portSelect time p => Sys2Proof.Machine.execPortSelect time p s
  | .frameEgressComplete time p => Sys2Proof.Machine.execFrameEgressComplete time p s
  | .tmRequest time x sta limit => Sys2Proof.Machine.execTmRequest time x sta limit s
  | .bktLevelRead time init => Sys2Proof.Machine.execBktLevelRead time init s
  | .spillConfigWrite time init r data => Sys2Proof.Machine.execSpillConfigWrite time init r data s
  | .airEntryFire time x entry => Sys2Proof.Machine.execAirEntryFire time x entry s
  | .airEntryEnd time x => Sys2Proof.Machine.execAirEntryEnd time x s
  | .exchangeStart time x air => Sys2Proof.Machine.execExchangeStart time x air s
  | .rawSlotStart time slot air => Sys2Proof.Machine.execRawSlotStart time slot air s
  | .edcaAccess time x ac air => Sys2Proof.Machine.execEdcaAccess time x ac air s
  | .calStepEnd time x => Sys2Proof.Machine.execCalStepEnd time x s
  | .listenWindowOpen time x => Sys2Proof.Machine.execListenWindowOpen time x s
  | .listenMiss time x => Sys2Proof.Machine.execListenMiss time x s
  | .asrWrite time init x a => Sys2Proof.Machine.execAsrWrite time init x a s
  | .asrReset time init x a => Sys2Proof.Machine.execAsrReset time init x a s
  | .asrRead time init x a => Sys2Proof.Machine.execAsrRead time init x a s
  | .asrCmdDeferredApply time x => Sys2Proof.Machine.execAsrCmdDeferredApply time x s
  | .dutyBinRoll time => Sys2Proof.Machine.execDutyBinRoll time s
  | .bandLimitWrite time init b data => Sys2Proof.Machine.execBandLimitWrite time init b data s
  | .staWrite time init a => Sys2Proof.Machine.execStaWrite time init a s
  | .staRemove time init a => Sys2Proof.Machine.execStaRemove time init a s
  | .staRead time init a => Sys2Proof.Machine.execStaRead time init a s
  | .staReadTid time init a space kid => Sys2Proof.Machine.execStaReadTid time init a space kid s
  | .addrSeedWrite time init data => Sys2Proof.Machine.execAddrSeedWrite time init data s
  | .mldBssidWrite time init r data => Sys2Proof.Machine.execMldBssidWrite time init r data s
  | .reorderTimeout time a tid => Sys2Proof.Machine.execReorderTimeout time a tid s
  | .roRegionWrite time init r data => Sys2Proof.Machine.execRoRegionWrite time init r data s
  | .immediateResponse time x air => Sys2Proof.Machine.execImmediateResponse time x air s
  | .responseTimeout time x a => Sys2Proof.Machine.execResponseTimeout time x a s
  | .keyCmd time init data => Sys2Proof.Machine.execKeyCmd time init data s
  | .parentTbttDeadline time x => Sys2Proof.Machine.execParentTbttDeadline time x s
  | .parentLossClear time init data => Sys2Proof.Machine.execParentLossClear time init data s
  | .lossSwWrite time init data => Sys2Proof.Machine.execLossSwWrite time init data s
  | .uplinkRestoreTimer time u => Sys2Proof.Machine.execUplinkRestoreTimer time u s
  | .fallbackEval time => Sys2Proof.Machine.execFallbackEval time s
  | .synthTuneRequest time x chan => Sys2Proof.Machine.execSynthTuneRequest time x chan s
  | .synthWarmDone time x => Sys2Proof.Machine.execSynthWarmDone time x s
  | .synthLock time x => Sys2Proof.Machine.execSynthLock time x s
  | .synthSettleTimeout time x => Sys2Proof.Machine.execSynthSettleTimeout time x s
  | .synthUnlock time x => Sys2Proof.Machine.execSynthUnlock time x s
  | .synthFaultRestart time x => Sys2Proof.Machine.execSynthFaultRestart time x s
  | .bgCalStepStart time x chain => Sys2Proof.Machine.execBgCalStepStart time x chain s
  | .txRequest time x src air => Sys2Proof.Machine.execTxRequest time x src air s
  | .txHoldExpire time x => Sys2Proof.Machine.execTxHoldExpire time x s
  | .femLeadIn time x line => Sys2Proof.Machine.execFemLeadIn time x line s
  | .txStart time x => Sys2Proof.Machine.execTxStart time x s
  | .txLastSample time x codes => Sys2Proof.Machine.execTxLastSample time x codes s
  | .txTimeout time x => Sys2Proof.Machine.execTxTimeout time x s
  | .txTailEnd time x => Sys2Proof.Machine.execTxTailEnd time x s
  | .tunerWrite time c => Sys2Proof.Machine.execTunerWrite time c s
  | .tunerRegWrite time init x c data => Sys2Proof.Machine.execTunerRegWrite time init x c data s
  | .tempSample time x temp => Sys2Proof.Machine.execTempSample time x temp s
  | .femTimingWrite time init x data => Sys2Proof.Machine.execFemTimingWrite time init x data s
  | .blankInAssert time pin => Sys2Proof.Machine.execBlankInAssert time pin s
  | .blankInRelease time fall => Sys2Proof.Machine.execBlankInRelease time fall s
  | .blankWindowFire time w => Sys2Proof.Machine.execBlankWindowFire time w s
  | .modemArm time x => Sys2Proof.Machine.execModemArm time x s
  | .preambleDetect time x found => Sys2Proof.Machine.execPreambleDetect time x found s
  | .ltfTiming time x found => Sys2Proof.Machine.execLtfTiming time x found s
  | .detectTimeout time x => Sys2Proof.Machine.execDetectTimeout time x s
  | .sigCheck time x out => Sys2Proof.Machine.execSigCheck time x out s
  | .rxConfirm time x => Sys2Proof.Machine.execRxConfirm time x s
  | .freshPreamble time x since power => Sys2Proof.Machine.execFreshPreamble time x since power s
  | .ppduRxEnd time x rep mpdus => Sys2Proof.Machine.execPpduRxEnd time x rep mpdus s
  | .lastQ0Read time init x => Sys2Proof.Machine.execLastQ0Read time init x s
  | .nfPeriodEnd time x idleUs levels => Sys2Proof.Machine.execNfPeriodEnd time x idleUs levels s
  | .anRestart time init n data => Sys2Proof.Machine.execAnRestart time init n data s
  | .anResolved time n mode amp24 leader partner => Sys2Proof.Machine.execAnResolved time n mode amp24 leader partner s
  | .stallLinkUp time n => Sys2Proof.Machine.execStallLinkUp time n s
  | .stallLinkDown time down => Sys2Proof.Machine.execStallLinkDown time down s
  | .fenceSenseAssert time pin => Sys2Proof.Machine.execFenceSenseAssert time pin s
  | .impulseDetect time imp => Sys2Proof.Machine.execImpulseDetect time imp s
  | .fenceTriggerEnd time rest => Sys2Proof.Machine.execFenceTriggerEnd time rest s
  | .fenceStuck time n => Sys2Proof.Machine.execFenceStuck time n s
  | .fenceStuckClear time rest => Sys2Proof.Machine.execFenceStuckClear time rest s
  | .fencePredWindowOpen time n => Sys2Proof.Machine.execFencePredWindowOpen time n s
  | .fencePredWindowEnd time n => Sys2Proof.Machine.execFencePredWindowEnd time n s
  | .portNfPeriodEnd time n quietUs level peak => Sys2Proof.Machine.execPortNfPeriodEnd time n quietUs level peak s
  | .tdrStart time init n => Sys2Proof.Machine.execTdrStart time init n s
  | .tdrDone time n fenceHit refl => Sys2Proof.Machine.execTdrDone time n fenceHit refl s
  | .podlEnable time init n => Sys2Proof.Machine.execPodlEnable time init n s
  | .podlDisable time init n => Sys2Proof.Machine.execPodlDisable time init n s
  | .podlDetectDone time n valid => Sys2Proof.Machine.execPodlDetectDone time n valid s
  | .podlClassRead time n cls => Sys2Proof.Machine.execPodlClassRead time n cls s
  | .podlPgTimeout time n => Sys2Proof.Machine.execPodlPgTimeout time n s
  | .podlRetry time n => Sys2Proof.Machine.execPodlRetry time n s
  | .podlBusFrame time flt pg => Sys2Proof.Machine.execPodlBusFrame time flt pg s
  | .podlFltNFall time => Sys2Proof.Machine.execPodlFltNFall time s
  | .macRxFrame time p bytes phyErr err => Sys2Proof.Machine.execMacRxFrame time p bytes phyErr err s
  | .macTxStart time p => Sys2Proof.Machine.execMacTxStart time p s
  | .txUnderrun time p => Sys2Proof.Machine.execTxUnderrun time p s
  | .macTxEnd time p err => Sys2Proof.Machine.execMacTxEnd time p err s
  | .tsqPop time init p => Sys2Proof.Machine.execTsqPop time init p s
  | .uplinkLinkDown time down => Sys2Proof.Machine.execUplinkLinkDown time down s
  | .uplinkLinkUp time u => Sys2Proof.Machine.execUplinkLinkUp time u s
  | .sgmiiLinkWord time u linkUp speed => Sys2Proof.Machine.execSgmiiLinkWord time u linkUp speed s
  | .serdesTxWrite time init u data => Sys2Proof.Machine.execSerdesTxWrite time init u data s
  | .secSaInstall time init u => Sys2Proof.Machine.execSecSaInstall time init u s
  | .secSaRemove time init u => Sys2Proof.Machine.execSecSaRemove time init u s
  | .dirTxTailWrite time init u data => Sys2Proof.Machine.execDirTxTailWrite time init u data s
  | .dirTxFetch time u dmaError => Sys2Proof.Machine.execDirTxFetch time u dmaError s
  | .ringConfigWrite time init addr data => Sys2Proof.Machine.execRingConfigWrite time init addr data s
  | .dramRequestAccept time => Sys2Proof.Machine.execDramRequestAccept time s
  | .writeQueueDrain time c => Sys2Proof.Machine.execWriteQueueDrain time c s
  | .dramIssue time c => Sys2Proof.Machine.execDramIssue time c s
  | .dramReadReturn time c ecc => Sys2Proof.Machine.execDramReadReturn time c ecc s
  | .refreshDue time c rank => Sys2Proof.Machine.execRefreshDue time c rank s
  | .zqcsDue time c => Sys2Proof.Machine.execZqcsDue time c s
  | .scrubRead time c line ecc => Sys2Proof.Machine.execScrubRead time c line ecc s
  | .alertNFall time c => Sys2Proof.Machine.execAlertNFall time c s
  | .alertNRise time c => Sys2Proof.Machine.execAlertNRise time c s
  | .reportWriteResponse time c => Sys2Proof.Machine.execReportWriteResponse time c s
  | .mcInit time init c => Sys2Proof.Machine.execMcInit time init c s
  | .mcInitDone time c => Sys2Proof.Machine.execMcInitDone time c s
  | .mcEnable time init c => Sys2Proof.Machine.execMcEnable time init c s
  | .mcDisable time init c => Sys2Proof.Machine.execMcDisable time init c s
  | .addrMapWrite time init c data => Sys2Proof.Machine.execAddrMapWrite time init c data s
  | .trainMrs time init c rank mr => Sys2Proof.Machine.execTrainMrs time init c rank mr s
  | .trainWlevel time init c rank => Sys2Proof.Machine.execTrainWlevel time init c rank s
  | .trainGate time init c rank => Sys2Proof.Machine.execTrainGate time init c rank s
  | .trainMprRead time init c rank => Sys2Proof.Machine.execTrainMprRead time init c rank s
  | .trainPatWrite time init c rank => Sys2Proof.Machine.execTrainPatWrite time init c rank s
  | .trainPatRead time init c rank => Sys2Proof.Machine.execTrainPatRead time init c rank s
  | .trainZqcl time init c rank => Sys2Proof.Machine.execTrainZqcl time init c rank s
  | .trainDone time c timeout cmp0 cmp1 => Sys2Proof.Machine.execTrainDone time c timeout cmp0 cmp1 s
  | .driftTrack time c moves => Sys2Proof.Machine.execDriftTrack time c moves s
  | .laneDlyWrite time init c lane data => Sys2Proof.Machine.execLaneDlyWrite time init c lane data s
  | .selfRefreshEnter time c => Sys2Proof.Machine.execSelfRefreshEnter time c s
  | .selfRefreshExit time c => Sys2Proof.Machine.execSelfRefreshExit time c s
  | .mcIdleSelfRefresh time => Sys2Proof.Machine.execMcIdleSelfRefresh time s
  | .l2CfgWrite time init data => Sys2Proof.Machine.execL2CfgWrite time init data s
  | .coreRelease time init c => Sys2Proof.Machine.execCoreRelease time init c s
  | .coreReset time init c => Sys2Proof.Machine.execCoreReset time init c s
  | .mtimerExpire time c => Sys2Proof.Machine.execMtimerExpire time c s
  | .coreWdogWrite time init c data => Sys2Proof.Machine.execCoreWdogWrite time init c data s
  | .coreWdogExpire time c l1Lost => Sys2Proof.Machine.execCoreWdogExpire time c l1Lost s
  | .cpuTxTailWrite time init data => Sys2Proof.Machine.execCpuTxTailWrite time init data s
  | .cpuTxFetch time dmaError => Sys2Proof.Machine.execCpuTxFetch time dmaError s
  | .cpuTxComplete time cookie fate => Sys2Proof.Machine.execCpuTxComplete time cookie fate s
  | .cpuRxFrame time dmaError => Sys2Proof.Machine.execCpuRxFrame time dmaError s
  | .taskWrite time w => Sys2Proof.Machine.execTaskWrite time w s
  | .taskRead time w => Sys2Proof.Machine.execTaskRead time w s
  | .taskClear time w => Sys2Proof.Machine.execTaskClear time w s
  | .flagSet time w data => Sys2Proof.Machine.execFlagSet time w data s
  | .taskTimerExpire time t => Sys2Proof.Machine.execTaskTimerExpire time t s
  | .taskDispatch time c => Sys2Proof.Machine.execTaskDispatch time c s
  | .dispRead time init c => Sys2Proof.Machine.execDispRead time init c s
  | .taskDone time c => Sys2Proof.Machine.execTaskDone time c s
  | .taskDoneDisable time c => Sys2Proof.Machine.execTaskDoneDisable time c s
  | .deadlineMiss time t => Sys2Proof.Machine.execDeadlineMiss time t s
  | .recoveryEnd time => Sys2Proof.Machine.execRecoveryEnd time s
  | .pmuCounterWrap time k n init priv pc => Sys2Proof.Machine.execPmuCounterWrap time k n init priv pc s
  | .bwWindowEnd time => Sys2Proof.Machine.execBwWindowEnd time s
  | .bwRdRead time init q => Sys2Proof.Machine.execBwRdRead time init q s
  | .bwWinWrite time init data => Sys2Proof.Machine.execBwWinWrite time init data s
  | .ghPowerGood time => Sys2Proof.Machine.execGhPowerGood time s
  | .ghStartDone time img => Sys2Proof.Machine.execGhStartDone time img s
  | .ghFault time cause => Sys2Proof.Machine.execGhFault time cause s
  | .ghSupplyWarning time => Sys2Proof.Machine.execGhSupplyWarning time s
  | .ghReset time watchdog => Sys2Proof.Machine.execGhReset time watchdog s
  | .ghPowerLoss loss => Sys2Proof.Machine.execGhPowerLoss loss s
  | .adjModeChange time low => Sys2Proof.Machine.execAdjModeChange time low s
  | .ghInboxTake time => Sys2Proof.Machine.execGhInboxTake time s
  | .ghRecordCheck time => Sys2Proof.Machine.execGhRecordCheck time s
  | .logRead time => Sys2Proof.Machine.execLogRead time s
  | .keyInstall time => Sys2Proof.Machine.execKeyInstall time s
  | .keyRemove time => Sys2Proof.Machine.execKeyRemove time s
  | .paramCmd time => Sys2Proof.Machine.execParamCmd time s
  | .fwChunk time => Sys2Proof.Machine.execFwChunk time s
  | .fwCommit time => Sys2Proof.Machine.execFwCommit time s
  | .sealCmd time => Sys2Proof.Machine.execSealCmd time s
  | .logCommit time => Sys2Proof.Machine.execLogCommit time s
  | .logExport time => Sys2Proof.Machine.execLogExport time s
  | .appCmdGo time body data => Sys2Proof.Machine.execAppCmdGo time body data s
  | .lcResult time c input sense rail => Sys2Proof.Machine.execLcResult time c input sense rail s
  | .lcCfgWrite time c data => Sys2Proof.Machine.execLcCfgWrite time c data s
  | .ghWdogWrite time data => Sys2Proof.Machine.execGhWdogWrite time data s
  | .por time => Sys2Proof.Machine.execPor time s
  | .sysRstN time => Sys2Proof.Machine.execSysRstN time s
  | .aoWdogExpire time => Sys2Proof.Machine.execAoWdogExpire time s
  | .aoWdogWrite time init data => Sys2Proof.Machine.execAoWdogWrite time init data s
  | .chipRst time init data => Sys2Proof.Machine.execChipRst time init data s
  | .supplyReset time rail => Sys2Proof.Machine.execSupplyReset time rail s
  | .thermReset time => Sys2Proof.Machine.execThermReset time s
  | .refLoss time => Sys2Proof.Machine.execRefLoss time s
  | .resetRelease time => Sys2Proof.Machine.execResetRelease time s
  | .supplyLow time bit => Sys2Proof.Machine.execSupplyLow time bit s
  | .bootCopy time a b => Sys2Proof.Machine.execBootCopy time a b s
  | .provision time write => Sys2Proof.Machine.execProvision time write s
  | .lcSeal time write => Sys2Proof.Machine.execLcSeal time write s
  | .returnCmd time write => Sys2Proof.Machine.execReturnCmd time write s
  | .otpProgram time init verifyOk => Sys2Proof.Machine.execOtpProgram time init verifyOk s
  | .otpRead time init => Sys2Proof.Machine.execOtpRead time init s
  | .svnCmd time write data => Sys2Proof.Machine.execSvnCmd time write data s
  | .secureLock time init data => Sys2Proof.Machine.execSecureLock time init data s
  | .hmacStart time init => Sys2Proof.Machine.execHmacStart time init s
  | .hmacDone time dramError => Sys2Proof.Machine.execHmacDone time dramError s
  | .dbgChal time => Sys2Proof.Machine.execDbgChal time s
  | .dbgResp time level sig => Sys2Proof.Machine.execDbgResp time level sig s
  | .dbgBackoffEnd time => Sys2Proof.Machine.execDbgBackoffEnd time s
  | .dbgRevoke time init data => Sys2Proof.Machine.execDbgRevoke time init data s
  | .pmStateChange time => Sys2Proof.Machine.execPmStateChange time s
  | .pmWake time cause => Sys2Proof.Machine.execPmWake time cause s
  | .standby time init => Sys2Proof.Machine.execStandby time init s
  | .rtcAlarm time => Sys2Proof.Machine.execRtcAlarm time s
  | .wakeN time => Sys2Proof.Machine.execWakeN time s
  | .radioSleep time x => Sys2Proof.Machine.execRadioSleep time x s
  | .radioWake time x => Sys2Proof.Machine.execRadioWake time x s
  | .octetSleep time k => Sys2Proof.Machine.execOctetSleep time k s
  | .octetWake time k => Sys2Proof.Machine.execOctetWake time k s
  | .hangDetect time isl => Sys2Proof.Machine.execHangDetect time isl s
  | .hangResetRelease time isl => Sys2Proof.Machine.execHangResetRelease time isl s
  | .mcSchedRestartDone time => Sys2Proof.Machine.execMcSchedRestartDone time s
  | .pageRefetch time slot page => Sys2Proof.Machine.execPageRefetch time slot page s
  | .pageRefetchDone time slot page dramError => Sys2Proof.Machine.execPageRefetchDone time slot page dramError s
  | .gapRecord time tap => Sys2Proof.Machine.execGapRecord time tap s
  | .markSet time init m => Sys2Proof.Machine.execMarkSet time init m s
  | .markRelease time init m => Sys2Proof.Machine.execMarkRelease time init m s
  | .ckptEnd time => Sys2Proof.Machine.execCkptEnd time s
  | .tpModeWrite time init data => Sys2Proof.Machine.execTpModeWrite time init data s
  | .replayStart time init => Sys2Proof.Machine.execReplayStart time init s
  | .replayStop time init => Sys2Proof.Machine.execReplayStop time init s
  | .replayRecord time drain => Sys2Proof.Machine.execReplayRecord time drain s
  | .ppsPulse time => Sys2Proof.Machine.execPpsPulse time s
  | .podlFreezeEnd time n => Sys2Proof.Machine.execPodlFreezeEnd time n s
  | .podlDischargeEnd time n => Sys2Proof.Machine.execPodlDischargeEnd time n s
  | .exportWait time => Sys2Proof.Machine.execExportWait time s
  | .supplyReturn time bit => Sys2Proof.Machine.execSupplyReturn time bit s

end Sys2Proof.Machine
end

