-- ==== Sys2Proof/Machine/Step.lean ====
section
/-! DEFINITION. The step of the device: it takes the command at the front of its queue. -/

namespace Sys2Proof.Machine

/-- One step. The command at the front of the queue acts on the device with the queue's rest; with no command waiting the
device idles (DESIGN CHOICE, notes/assumptions/3.md: everything that time drives is a command of the table). -/
def step (s : State) : Host.Outcome State Fault Refusal :=
  match s.pending with
  | [] => .next s
  | i :: rest => exec i { s with pending := rest }

/-- The state with the command that a word of the table's bits spells put at the front of the queue; no word spells one. -/
def State.withFetchWord (s : State) (nbits w : Nat) : State :=
  match decodeTableWord nbits w with
  | some i => { s with pending := i :: s.pending }
  | none => s

end Sys2Proof.Machine
end

