-- ==== Sys2Proof/WellFormed.lean ====
section
/-! DEFINITION. Well-formed commands: what a sender can put on a pin, a bus or a frame. The checks are on the operands
alone; a command that fails one could not be sent to the device. -/

namespace Sys2Proof

/-- A device time in whole ns fits 64 bits (R13). -/
def isDt (t : Nat) : Bool := decide (t < 2 ^ 64)

/-- An address on the bus has 40 bits: it reaches past the end of DRAM at 0x0A_0000_0000 (R43). -/
def isAddr (a : Nat) : Bool := decide (a < 2 ^ 40)

/-- The access sizes of the bus, in bytes (R4, R42). -/
def isSize (n : Nat) : Bool := n == 1 || n == 2 || n == 4 || n == 8

/-- A count of events within one command fits the widest counter (R8). -/
def isCount (n : Nat) : Bool := decide (n < 2 ^ 48)

/-- The bytes of a word of a pound (R33). -/
def poundBytes (p : Nat) : Nat :=
  if p < 16 ∨ p = 31 ∨ p = 32 then 32 else if p = 29 ∨ p = 30 ∨ p = 52 ∨ p = 53 then 16 else 64

/-- The fields of META fit their widths (R24). -/
def Meta.wf (m : Meta) : Bool :=
  decide (m.len < 2 ^ 14) && decide (m.tag < 2 ^ 4) && decide (m.inPort < 2 ^ 7) && decide (m.fq < 2 ^ 15) &&
    decide (m.inDt < 2 ^ 48) && decide (m.staIdx < 2 ^ 12) && decide (m.tid < 2 ^ 4) && decide (m.cause < 2 ^ 8) &&
    decide (m.cookie < 2 ^ 16) && decide (m.egSub < 2 ^ 3)

/-- A word of a pound of `width` bytes: at least one byte and all of them unless it is the end word, ABORT only in an end
word, META only in a first word (R23). -/
def PWord.wf (width : Nat) (w : PWord) : Bool :=
  decide (1 ≤ w.data.length) && decide (w.data.length ≤ width) && (w.last || decide (w.data.length = width)) &&
    (w.last || !w.abort) && (w.first || decide (w.info = {})) && w.info.wf

/-- A length of a PPDU or of a gap: at most a second. -/
def isAir (n : Nat) : Bool := decide (n ≤ 1000000000)

/-- The lengths of a PPDU do not fall as it carries more MPDUs. -/
def risingLens : List Nat → Bool
  | a :: b :: r => decide (a ≤ b) && risingLens (b :: r)
  | _ => true

/-- What the air gives an exchange: lengths of PPDUs, each list rising, and a DT. -/
def Airtime.wf (a : Airtime) : Bool :=
  a.lens.all (fun l => l.all isAir && risingLens l) && isAir a.resp && isDt a.edFrom && isAir a.tsOff &&
    decide (a.format < 16) && decide (a.bw < 5) && decide (a.mcs < 16) && decide (a.nss < 4) &&
    (match a.later with
     | none => true
     | some p => isAir p.1 && isAir p.2)

/-- What a SIG announces lasts at most a second. -/
def SigOutcome.wf : SigOutcome → Bool
  | .valid g => isAir g.lenNs
  | .fail => true

/-- A carrier offset fits the field that reports it (R312). -/
def LtfObs.wf (o : LtfObs) : Bool := decide (-32768 ≤ o.cfo) && decide (o.cfo < 32768)

/-- The delimiter errors of a PPDU fit their field (R312). -/
def RxReport.wf (r : RxReport) : Bool := decide (r.delimErr < 2 ^ 16)

/-- An MPDU: a packet number of 48 bits, at most 1,024 sequence numbers in a bitmap, and a payload of a frame. -/
def Mpdu.wf (m : Mpdu) : Bool :=
  decide (m.pn < 2 ^ 48) && decide (m.payload.length < 65536) &&
    (match m.kind with
     | .ctrl (.blockAck l) => l.all (fun r => decide (r.bits.length ≤ 1024))
     | _ => true)

/-- The gauge-house image carries a signature of 64 bytes (R434). -/
def GhImage.wf (g : GhImage) : Bool :=
  decide (g.sig.length = 64) && decide (g.logCap < 2 ^ 19) &&
    (match g.keys with
      | some (m, k) => decide (m.length = 64) && decide (k.length = 32)
      | none => true) &&
    (match g.page with
      | some p => decide (p.length = 256)
      | none => true)

/-- A flash copy has a 256-byte header (R455). -/
def FlashCopy.wf (f : FlashCopy) : Bool := decide (f.header.length = 256)

/-- What the replay engine drains is a frame of an egress pound or a write within the address space. -/
def drainWf : Option Drain → Bool
  | none => true
  | some (.frame _ b) => decide (b.length < 65536)
  | some (.write a _) => isAddr a

/-- A command whose operands fit what carries them. -/
def Instr.wf : Instr → Bool
  | .registerWrite time _ size addr _ => isDt time && isAddr addr && isSize size
  | .w1cClear time _ addr _ _ => isDt time && isAddr addr
  | .counterLoRead time _ addr inc => isDt time && isAddr addr && isCount inc
  | .counterHiWrite time _ addr _ => isDt time && isAddr addr
  | .counterLoWrite time _ addr _ inc => isDt time && isAddr addr && isCount inc
  | .rcRead time _ addr inc => isDt time && isAddr addr && isCount inc
  | .islandResetHold time _ _ => isDt time
  | .islandResetRelease time _ _ => isDt time
  | .islandReady time _ => isDt time
  | .islandForceOff time _ _ => isDt time
  | .islandPowerUp time _ _ => isDt time
  | .graftClear time _ _ => isDt time
  | .poundWordWrite time p w => isDt time && w.wf (poundBytes p)
  | .poundWordReadable time _ => isDt time
  | .poundWordRead time _ => isDt time
  | .pndMarkWrite time _ _ _ => isDt time
  | .collectorAccept time _ => isDt time
  | .loadCmdStart time _ => isDt time
  | .loadDone time => isDt time
  | .loadDramError time => isDt time
  | .loadAbort time _ => isDt time
  | .arm time _ _ _ => isDt time
  | .disarm time _ _ => isDt time
  | .discard time _ _ => isDt time
  | .armingTime time _ => isDt time
  | .boundaryAnnounce time => isDt time
  | .roundBoundary time => isDt time
  | .lockHandover time _ => isDt time
  | .freed time _ => isDt time
  | .gateIntervalStart time _ => isDt time
  | .pageQry time _ _ => isDt time
  | .tableScrubPass time _ => isDt time
  | .ingressAccept time => isDt time
  | .engineDispatch time => isDt time
  | .parseDone time _ => isDt time
  | .classifyDone time _ => isDt time
  | .reorderRelease time => isDt time
  | .pipelineHandoff time => isDt time
  | .lateContradiction time _ _ => isDt time
  | .natInsert time _ => isDt time
  | .natRemove time _ => isDt time
  | .natRead time _ => isDt time
  | .natDone time => isDt time
  | .natAgeVisit time _ => isDt time
  | .natExpTailWrite time _ _ => isDt time
  | .natSeedWrite time _ _ => isDt time
  | .tmAdmit time => isDt time
  | .tmEndWord time _ => isDt time
  | .ghRecordTake time => isDt time
  | .spillWriteDone time _ => isDt time
  | .spillFetch time _ => isDt time
  | .spillFetchDone time _ _ => isDt time
  | .portSelect time _ => isDt time
  | .frameEgressComplete time _ => isDt time
  | .tmRequest time _ _ limit => isDt time && decide (limit < 2 ^ 32)
  | .bktLevelRead time _ => isDt time
  | .spillConfigWrite time _ _ _ => isDt time
  | .airEntryFire time _ _ => isDt time
  | .airEntryEnd time _ => isDt time
  | .exchangeStart time _ air => isDt time && air.wf
  | .rawSlotStart time slot air => isDt time && decide (slot < 65536) && air.wf
  | .edcaAccess time _ _ air => isDt time && air.wf
  | .calStepEnd time _ => isDt time
  | .listenWindowOpen time _ => isDt time
  | .listenMiss time _ => isDt time
  | .asrWrite time _ _ _ => isDt time
  | .asrReset time _ _ _ => isDt time
  | .asrRead time _ _ _ => isDt time
  | .asrCmdDeferredApply time _ => isDt time
  | .dutyBinRoll time => isDt time
  | .bandLimitWrite time _ _ _ => isDt time
  | .staWrite time _ _ => isDt time
  | .staRemove time _ _ => isDt time
  | .staRead time _ _ => isDt time
  | .staReadTid time _ _ _ _ => isDt time
  | .addrSeedWrite time _ _ => isDt time
  | .mldBssidWrite time _ _ _ => isDt time
  | .reorderTimeout time _ _ => isDt time
  | .roRegionWrite time _ _ _ => isDt time
  | .immediateResponse time _ air => isDt time && air.wf
  | .responseTimeout time _ _ => isDt time
  | .keyCmd time _ _ => isDt time
  | .parentTbttDeadline time _ => isDt time
  | .parentLossClear time _ _ => isDt time
  | .lossSwWrite time _ _ => isDt time
  | .uplinkRestoreTimer time _ => isDt time
  | .fallbackEval time => isDt time
  | .synthTuneRequest time _ _ => isDt time
  | .synthWarmDone time _ => isDt time
  | .synthLock time _ => isDt time
  | .synthSettleTimeout time _ => isDt time
  | .synthUnlock time _ => isDt time
  | .synthFaultRestart time _ => isDt time
  | .bgCalStepStart time _ _ => isDt time
  | .txRequest time _ _ air => isDt time && air.wf
  | .txHoldExpire time _ => isDt time
  | .femLeadIn time _ _ => isDt time
  | .txStart time _ => isDt time
  | .txLastSample time _ codes => isDt time && decide (codes.length ≤ 4) && codes.all (fun p => decide (p.1 < 65536) && decide (p.2 < 65536))
  | .txTimeout time _ => isDt time
  | .txTailEnd time _ => isDt time
  | .tunerWrite time _ => isDt time
  | .tunerRegWrite time _ _ _ _ => isDt time
  | .tempSample time _ _ => isDt time
  | .femTimingWrite time _ _ _ => isDt time
  | .blankInAssert time _ => isDt time
  | .blankInRelease time fall => isDt time && isDt fall.fell
  | .blankWindowFire time _ => isDt time
  | .modemArm time _ => isDt time
  | .preambleDetect time _ found => isDt time && isDt found.since
  | .ltfTiming time _ found => isDt time && isDt found.arrival && found.ltf.wf
  | .detectTimeout time _ => isDt time
  | .sigCheck time _ out => isDt time && out.wf
  | .rxConfirm time _ => isDt time
  | .freshPreamble time _ since _ => isDt time && isDt since
  | .ppduRxEnd time _ rep mpdus => isDt time && rep.wf && mpdus.all Mpdu.wf
  | .lastQ0Read time _ _ => isDt time
  | .nfPeriodEnd time _ idleUs levels => isDt time && decide (idleUs < 2 ^ 32) && decide (levels.length ≤ 4)
  | .anRestart time _ _ _ => isDt time
  | .anResolved time _ _ _ _ _ => isDt time
  | .stallLinkUp time _ => isDt time
  | .stallLinkDown time down => isDt time && down.lost.all isDt
  | .fenceSenseAssert time _ => isDt time
  | .impulseDetect time imp => isDt time && decide (0 ≤ imp.err)
  | .fenceTriggerEnd time rest => isDt time && isDt rest.quiet
  | .fenceStuck time _ => isDt time
  | .fenceStuckClear time rest => isDt time && isDt rest.quiet
  | .fencePredWindowOpen time _ => isDt time
  | .fencePredWindowEnd time _ => isDt time
  | .portNfPeriodEnd time _ quietUs _ _ => isDt time && decide (quietUs < 2 ^ 32)
  | .tdrStart time _ _ => isDt time
  | .tdrDone time _ _ refl => isDt time && decide (refl.length ≤ 255)
  | .podlEnable time _ _ => isDt time
  | .podlDisable time _ _ => isDt time
  | .podlDetectDone time _ _ => isDt time
  | .podlClassRead time _ _ => isDt time
  | .podlPgTimeout time _ => isDt time
  | .podlRetry time _ => isDt time
  | .podlBusFrame time _ _ => isDt time
  | .podlFltNFall time => isDt time
  | .macRxFrame time _ bytes _ _ => isDt time && decide (bytes.length < 65536)
  | .macTxStart time _ => isDt time
  | .txUnderrun time _ => isDt time
  | .macTxEnd time _ _ => isDt time
  | .tsqPop time _ _ => isDt time
  | .uplinkLinkDown time down => isDt time && isDt down.lost
  | .uplinkLinkUp time _ => isDt time
  | .sgmiiLinkWord time _ _ _ => isDt time
  | .serdesTxWrite time _ _ _ => isDt time
  | .secSaInstall time _ _ => isDt time
  | .secSaRemove time _ _ => isDt time
  | .dirTxTailWrite time _ _ _ => isDt time
  | .dirTxFetch time _ _ => isDt time
  | .ringConfigWrite time _ addr _ => isDt time && isAddr addr
  | .dramRequestAccept time => isDt time
  | .writeQueueDrain time _ => isDt time
  | .dramIssue time _ => isDt time
  | .dramReadReturn time _ _ => isDt time
  | .refreshDue time _ _ => isDt time
  | .zqcsDue time _ => isDt time
  | .scrubRead time _ line _ => isDt time && decide (line < 2 ^ 27)
  | .alertNFall time _ => isDt time
  | .alertNRise time _ => isDt time
  | .reportWriteResponse time _ => isDt time
  | .mcInit time _ _ => isDt time
  | .mcInitDone time _ => isDt time
  | .mcEnable time _ _ => isDt time
  | .mcDisable time _ _ => isDt time
  | .addrMapWrite time _ _ _ => isDt time
  | .trainMrs time _ _ _ _ => isDt time
  | .trainWlevel time _ _ _ => isDt time
  | .trainGate time _ _ _ => isDt time
  | .trainMprRead time _ _ _ => isDt time
  | .trainPatWrite time _ _ _ => isDt time
  | .trainPatRead time _ _ _ => isDt time
  | .trainZqcl time _ _ _ => isDt time
  | .trainDone time _ _ _ _ => isDt time
  | .driftTrack time _ moves => isDt time && decide (moves.length ≤ 5)
  | .laneDlyWrite time _ _ _ _ => isDt time
  | .selfRefreshEnter time _ => isDt time
  | .selfRefreshExit time _ => isDt time
  | .mcIdleSelfRefresh time => isDt time
  | .l2CfgWrite time _ _ => isDt time
  | .coreRelease time _ _ => isDt time
  | .coreReset time _ _ => isDt time
  | .mtimerExpire time _ => isDt time
  | .coreWdogWrite time _ _ _ => isDt time
  | .coreWdogExpire time _ _ => isDt time
  | .cpuTxTailWrite time _ _ => isDt time
  | .cpuTxFetch time _ => isDt time
  | .cpuTxComplete time _ _ => isDt time
  | .cpuRxFrame time _ => isDt time
  | .taskWrite time _ => isDt time
  | .taskRead time _ => isDt time
  | .taskClear time _ => isDt time
  | .flagSet time _ _ => isDt time
  | .taskTimerExpire time _ => isDt time
  | .taskDispatch time _ => isDt time
  | .dispRead time _ _ => isDt time
  | .taskDone time _ => isDt time
  | .taskDoneDisable time _ => isDt time
  | .deadlineMiss time _ => isDt time
  | .recoveryEnd time => isDt time
  | .pmuCounterWrap time _ n _ _ _ => isDt time && isCount n
  | .bwWindowEnd time => isDt time
  | .bwRdRead time _ _ => isDt time
  | .bwWinWrite time _ _ => isDt time
  | .ghPowerGood time => isDt time
  | .ghStartDone time img => isDt time && img.wf
  | .ghFault time _ => isDt time
  | .ghSupplyWarning time => isDt time
  | .ghReset time _ => isDt time
  | .ghPowerLoss loss => isDt loss.time
  | .adjModeChange time _ => isDt time
  | .ghInboxTake time => isDt time
  | .ghRecordCheck time => isDt time
  | .logRead time => isDt time
  | .keyInstall time => isDt time
  | .keyRemove time => isDt time
  | .paramCmd time => isDt time
  | .fwChunk time => isDt time
  | .fwCommit time => isDt time
  | .sealCmd time => isDt time
  | .logCommit time => isDt time
  | .logExport time => isDt time
  | .appCmdGo time body _ => isDt time && decide (body.length ≤ 32)
  | .lcResult time _ _ _ _ => isDt time
  | .lcCfgWrite time _ _ => isDt time
  | .ghWdogWrite time _ => isDt time
  | .por time => isDt time
  | .sysRstN time => isDt time
  | .aoWdogExpire time => isDt time
  | .aoWdogWrite time _ _ => isDt time
  | .chipRst time _ _ => isDt time
  | .supplyReset time _ => isDt time
  | .thermReset time => isDt time
  | .refLoss time => isDt time
  | .resetRelease time => isDt time
  | .supplyLow time _ => isDt time
  | .bootCopy time a b => isDt time && a.wf && b.wf
  | .provision time _ => isDt time
  | .lcSeal time _ => isDt time
  | .returnCmd time _ => isDt time
  | .otpProgram time _ _ => isDt time
  | .otpRead time _ => isDt time
  | .svnCmd time _ _ => isDt time
  | .secureLock time _ _ => isDt time
  | .hmacStart time _ => isDt time
  | .hmacDone time _ => isDt time
  | .dbgChal time => isDt time
  | .dbgResp time _ sig => isDt time && decide (sig.length = 64)
  | .dbgBackoffEnd time => isDt time
  | .dbgRevoke time _ _ => isDt time
  | .pmStateChange time => isDt time
  | .pmWake time _ => isDt time
  | .standby time _ => isDt time
  | .rtcAlarm time => isDt time
  | .wakeN time => isDt time
  | .radioSleep time _ => isDt time
  | .radioWake time _ => isDt time
  | .octetSleep time _ => isDt time
  | .octetWake time _ => isDt time
  | .hangDetect time _ => isDt time
  | .hangResetRelease time _ => isDt time
  | .mcSchedRestartDone time => isDt time
  | .pageRefetch time _ _ => isDt time
  | .pageRefetchDone time _ _ _ => isDt time
  | .gapRecord time _ => isDt time
  | .markSet time _ _ => isDt time
  | .markRelease time _ _ => isDt time
  | .ckptEnd time => isDt time
  | .tpModeWrite time _ _ => isDt time
  | .replayStart time _ => isDt time
  | .replayStop time _ => isDt time
  | .replayRecord time drain => isDt time && drainWf drain
  | .ppsPulse time => isDt time
  | .podlFreezeEnd time _ => isDt time
  | .podlDischargeEnd time _ => isDt time
  | .exportWait time => isDt time
  | .supplyReturn time _ => isDt time

end Sys2Proof
end

