-- ==== Sys2Proof/Safety.lean ====
section
/-! DEFINITION. The terms that statements about the device use: a command that runs, an access that the bus carries out, and
the canonical form of the memories. -/

namespace Sys2Proof.Machine

/-- Command `i` answers a next state, and `P` holds of it. -/
def Runs (i : Instr) (s : State) (P : State → Prop) : Prop := ∃ t, exec i s = .next t ∧ P t

/-- The bus carries out a 32-bit register access of an initiator: no chip reset holds the device, a debugger has the level
that the access needs (R468), and no error response meets it (R43 to R45). -/
def accepts (s : State) (init a : Nat) (write : Bool) : Bool :=
  !s.ao.held && debugMay s init write && decide (busCause s init a 4 write = none)

/-- The canonical form of a memory. -/
def Memory.wf (m : Bank Byte) : Bool := bankWf memDefault m

/-- The canonical form of every addressed store: DRAM, the L2, the table store, the registers and OTP. -/
def State.wf (s : State) : Bool :=
  Memory.wf s.dram && Memory.wf s.l2 && Memory.wf s.tstore && bankWf regReset s.regs && bankWf (fun _ => 0) s.sec.otp

/-- MIN_SVN's OTP words hold a thermometer code (R460): exactly the lowest of their 63 bits are 1. -/
def svnCode (s : State) : Bool :=
  (List.range 63).all (fun i => bitOf (otpWord s (5 + i / 32)) (i % 32) == decide (i < minSvn s))

/-- What every step keeps: the canonical form of the stores, numbers of the traffic manager's frames below the next one, and the
thermometer code of MIN_SVN. -/
def State.inv (s : State) : Bool := s.wf && s.tm.frames.all (fun f => decide (f.fid < s.tm.nextFid)) && svnCode s

/-- The registers that the event map writes after a command (R416): the lock-keeper's TASK_VIEW and TASK_FLAGS, and the
count of READY tasks in TS_STAT; and what the passage of a task command leaves of PD52 (R33). -/
def mapReg (a : Nat) : Bool :=
  decide (a = Reg.tsTsStat) || (decide (Reg.tsTaskView 0 ≤ a) && decide (a < Reg.tsTaskView 4096)) ||
    (decide (Reg.tsTaskFlags 0 ≤ a) && decide (a < Reg.tsTaskFlags 4096)) ||
    [Reg.topPndStat 52, Reg.topPndXcnt 52, Reg.topPndTotLo 52, Reg.topPndTotHi 52].contains a

/-- The registers that a record on its way into a tap pound writes (R27, R498, R501). -/
def tapReg (a : Nat) : Bool :=
  decide (a = Reg.tpTpStat) || decide (a = Reg.tpLost) || decide (a = Reg.tpIrqRaw) ||
    (decide (Reg.tpMarkStat 0 ≤ a) && decide (a < Reg.tpMarkStat 16) && decide (a % 16 = 0)) ||
    [33, 34, 35].any (fun p => decide (a = Reg.topPndStat p) || decide (a = Reg.topPndXcnt p) || decide (a = Reg.topPndPkts p))

/-- A tap pound, into which the towpath's taps write their records (R33). -/
def isTap (p : Nat) : Bool := decide (33 ≤ p) && decide (p < 36)

/-- No tap records. -/
def tapsOff (s : State) : Bool := !(recording s 0 || recording s 1 || recording s 2)

/-- The registers that a command may write beside its own effect: through the event map and the towpath's records. -/
def noteReg (a : Nat) : Bool := mapReg a || tapReg a

/-- A register that only a command's own effect writes: no TASK_VIEW or TASK_FLAGS, and one of the recorder's own only while
it does not record. -/
def calm (s : State) (a : Nat) : Bool := !mapReg a && (!tapReg a || tapsOff s)

/-- An offset of DRAM outside the capture ring. -/
def outRing (s : State) (o : Nat) : Bool := decide (o < ringOff s 0) || decide (ringOff s 0 + 16 * ringUnits s ≤ o)

/-- The transmit path of radio `x` is idle and ready for checks 5 to 8 (R181, R270): the radio on with TX_EN and a sound sluice, no
mandatory calibration, the synthesiser LOCKED, no background step, no replay, and no lower radio's request of the same cycle to be
tested anew (R222). -/
def txReady (s : State) (x : Nat) : Bool :=
  islUp s (8 + x) && s.bit (Reg.rdRdCtrl x) 0 && !sluBad s && !mandPending s x (radioChan s x) && decide (synState s x = 3) &&
    !bgRunning s x && !replaying s && decide (txState s x = 0) && (leadBelow s x).isEmpty

/-- The receive path of radio `x` is in LISTEN and stays there whatever the modem does (R185, R274): the radio on and LOCKED, its transmit
path short of LEAD, the partner silent, and the entry in play open to reception. -/
def listens (s : State) (x : Nat) : Bool :=
  decide (rxState s x = 1) && islUp s (8 + x) && decide (synState s x = 3) && decide (txState s x < 3) && !partnerSends s x &&
    (s.airOf x).play.all (fun p => if p.ty = 3 then listenOpen s x || (s.airOf x).wake.isSome else rxAllowed s x)

/-- A run that has entered LEAD in state `s` with its airtime reserved (R221). -/
def ledRun (s : State) (r : TxRun) : TxRun :=
  { r with resSec := if r.reserved then r.resSec else dutySec s s.dt, reserved := true, since := s.dt, paAt := none }

/-- Command `i` asks the ready transmit path of radio `x` for run `r`, with checks 5 to 8 made in state `v` (R181, R182, R221, R270): where
they hold, the path enters LEAD with the exchange's airtime reserved in every band of its channel; where one fails, the path stays IDLE
and the refusal counts in the register that `cnt` gives for its cause; and while the medium is not known to become idle, nothing is
asked. -/
def Judged (i : Instr) (s v : State) (x : Nat) (r : TxRun) (cnt : Nat → Nat) : Prop :=
  (∀ q : TxRun, txJudge v x r = .go q → Runs i s fun t => txState t x = 3 ∧ (t.radio x).run = some (ledRun v q) ∧
    ∀ b, b < 16 → b ∈ radioBands v x → r.reserved = false → bandRsv t b = bandRsv v b + planUs v x q.rest) ∧
  (∀ c : Nat, txJudge v x r = .refuse c → Runs i s fun t => txState t x = 0 ∧ (t.radio x).run = none ∧
    t.regN (cnt c) = min (v.regN (cnt c) + 1) 0xFFFFFFFF) ∧
  (txJudge v x r = .wait → Runs i s fun t => txState t x = 0 ∧ ∀ c, c < 8 → t.reg (cnt c) = v.reg (cnt c))

end Sys2Proof.Machine
end

