-- ==== Sys2Proof/Certificates/Slice0/Obligations.lean ====
section
/-! DEFINITION. The statements about the model. `Runs i s P` says that command `i` answers a next state for which `P` holds;
`accepts` says that the bus carries out a register access; `noteReg` names the registers that the event map and the towpath's
records may write after any command, and `calm` a register that they leave alone. -/

open Sys2Proof Sys2Proof.Machine


/-- A step of a state whose queue begins with command c is exec of c on that state with the queue's rest, and a step on an empty
queue answers the state itself (the idling is the model's own choice, log entry 3). -/
def Obligations.StepTakesTheFrontCommand : Prop :=
  (∀ (c : Instr) (r : List Instr) (s : State), step { s with pending := c :: r } = exec c { s with pending := r }) ∧
  (∀ s : State, s.pending = [] → step s = .next s)

/-- For every command and state, exec answers a next state, and its queue is the queue it was given: a step takes exactly the
front command away. -/
def Obligations.CommandsKeepTheQueue : Prop :=
  ∀ (c : Instr) (s : State), Runs c s fun t => t.pending = s.pending

/-- State.reset has DT 0, CHIP_ID, ISL_PRESENT, the mark and the depth of PD0 and the PM_CTRL at the values of their field tables,
no slot resident, the stores empty, the invariant State.inv (canonical stores among it), and an empty queue. -/
def Obligations.ResetLeavesTheStatedValues : Prop :=
  State.reset.dt = 0 ∧ State.reset.reg Reg.topChipId = 0x640356A1 ∧ State.reset.reg Reg.topIslPresent = 0x3FFFFF ∧
  State.reset.reg (Reg.topPndGeom 0) = 0x200040 ∧ State.reset.reg (Reg.topPndStat 0) = 0x10000 ∧
  State.reset.reg Reg.aoPmCtrl = 6 ∧ (∀ k, k < 4 → slotState State.reset k = 0) ∧ State.reset.inv = true ∧
  State.reset.pending = []

/-- COUNTER_LO_READ of a counter that the bus carries out answers bits [31:0], latches bits [47:32] into the snapshot (a read of
the debug module latches nothing), and counts the events of the same cycle after it. COUNTER_HI_WRITE loads the holding register
and leaves the counter. COUNTER_LO_WRITE writes all 48 bits from the data and the holding register, applies the increments of the
same cycle to the written value, and resets the holding register to 0. A counter of the recorder is covered while nothing is
recorded (calm). -/
def Obligations.CounterReadsAndWrites : Prop :=
  (∀ (time : Nat) (init : Init) (a n : Nat) (s : State) (r : RegRow), regRow a = some r → r.kind = .lo ∨ r.kind = .loRo →
    accepts s init a false = true → calm s a = true → calm s (a + 4) = true →
    Runs (.counterLoRead time init a n) s fun t =>
      t.resp = .data (BitVec.ofNat 32 (pairNow (s.at time) a)) ∧
      t.snapOf a = (if init = 10 then s.snapOf a else BitVec.ofNat 16 (pairNow (s.at time) a / 2 ^ 32)) ∧
      t.pair a = (s.pair a + n) % 2 ^ 48) ∧
  (∀ (time : Nat) (init : Init) (a : Nat) (d : Word) (s : State) (r : RegRow), regRow a = some r → r.kind = .hi →
    accepts s init a true = true → calm s a = true → calm s (a - 4) = true →
    Runs (.counterHiWrite time init a d) s fun t =>
      t.resp = .ok ∧ t.holdOf (a - 4) = BitVec.ofNat 16 d.toNat ∧ t.reg a = s.reg a ∧ t.reg (a - 4) = s.reg (a - 4)) ∧
  (∀ (time : Nat) (init : Init) (a : Nat) (d : Word) (n : Nat) (s : State) (r : RegRow), regRow a = some r → r.kind = .lo →
    accepts s init a true = true → calm s a = true → calm s (a + 4) = true →
    Runs (.counterLoWrite time init a d n) s fun t =>
      t.resp = .ok ∧ t.pair a = (d.toNat + 2 ^ 32 * (s.holdOf a).toNat + n) % 2 ^ 48 ∧ t.holdOf a = 0)

/-- RC_READ of a clear-on-read register answers its value and clears it, and what was counted in the same cycle stands in it
afterwards; the debug module's read clears nothing. The reads of TSQ_POP and DISP, which take the next entry of a queue, have
statements of their own. -/
def Obligations.ClearOnReadCountsIntoTheNextInterval : Prop :=
  ∀ (time : Nat) (init : Init) (a n : Nat) (s : State) (r : RegRow), regRow a = some r → r.kind = .rc →
    (∀ p, p < 66 → a ≠ portReg p Reg.spTsqPop Reg.ulTsqPop) → (∀ c, c < 8 → a ≠ Reg.tsWDisp c) →
    accepts s init a false = true → calm s a = true →
    Runs (.rcRead time init a n) s fun t =>
      t.resp = .data (s.reg a) ∧ t.regN a = min ((if init = 10 then s.regN a else 0) + n) 0xFFFFFFFF

/-- W1C_CLEAR (data d, hardware setting hw in the same cycle) at an IRQ_STAT register leaves each raw bit set that hw sets and
clears the other bits written 1, but for the bits that follow a condition; at PND_IRQ_STAT0 and PND_IRQ_STAT1 it does so for the
WM_NOTICE of each pound of that register; at every other register with W1C bits it does so for those bits. BUSERR of TOP.IRQ_STAT,
BUSERR_INFO.VALID and the parent bits of LOSS_STATE, whose clearing has further effects, are left to the fourth clause and to
statements of their own: clearing VALID clears MORE with it, unless hardware sets VALID again. -/
def Obligations.FlagsClearUnlessSetAgain : Prop :=
  (∀ (time : Nat) (init : Init) (raw : Nat) (d hw : Word) (s : State) (r : RegRow), regRow (raw + 8) = some r →
    r.kind = .stat → raw ≠ Reg.topIrqRaw → accepts s init (raw + 8) true = true → calm s raw = true →
    Runs (.w1cClear time init (raw + 8) d hw) s fun t => t.resp = .ok ∧
      ∀ i, i < 32 → bitOf (t.reg raw) i =
        (bitOf hw i || (bitOf (s.reg raw) i && !(bitOf d i && !bitOf (followMask raw) i)))) ∧
  (∀ (time : Nat) (init : Init) (d hw : Word) (s : State) (w i : Nat), i < 32 → 32 * w + i < 54 →
    accepts s init (Reg.topPndIrqStat0 + 4 * w) true = true →
    Runs (.w1cClear time init (Reg.topPndIrqStat0 + 4 * w) d hw) s fun t =>
      t.bit (Reg.topPndStat (32 * w + i)) 24 =
        (bitOf hw i || (s.bit (Reg.topPndStat (32 * w + i)) 24 && !bitOf d i))) ∧
  (∀ (time : Nat) (init : Init) (a : Nat) (d hw : Word) (s : State) (r : RegRow), regRow a = some r → r.kind = .reg →
    a ≠ Reg.topBuserrInfo → a ≠ Reg.staLossState → accepts s init a true = true → calm s a = true →
    Runs (.w1cClear time init a d hw) s fun t => t.resp = .ok ∧
      ∀ i, i < 32 → r.w1c.testBit i = true →
        bitOf (t.reg a) i = (bitOf hw i || (bitOf (s.reg a) i && !bitOf d i))) ∧
  (∀ (time : Nat) (init : Init) (d hw : Word) (s : State), accepts s init Reg.topBuserrInfo true = true → bitOf d 31 = true →
    Runs (.w1cClear time init Reg.topBuserrInfo d hw) s fun t => t.resp = .ok ∧
      (bitOf hw 31 = true → t.reg Reg.topBuserrInfo = s.reg Reg.topBuserrInfo) ∧
      (bitOf hw 31 = false → t.bit Reg.topBuserrInfo 31 = false ∧ t.fld Reg.topBuserrInfo 16 8 = 0))

/-- REGISTER_WRITE that meets an error response of cause c answers it. While VALID is 0 the address, the initiator, the direction
and the cause are latched and VALID is set; while VALID is 1 the latch stays and MORE counts, saturating at 255. No register
outside TOP's latch, PMU and SEC's violation flag, no memory byte outside the capture ring, and no 48-bit counter's holding
register changes. -/
def Obligations.BusErrorsAreLatchedOnce : Prop :=
  ∀ (time : Nat) (init : Init) (size a : Nat) (d : Word) (c : Nat) (s : State), s.ao.held = false →
    debugMay s init true = true → busCause s init a size true = some c → a < 2 ^ 40 →
    Runs (.registerWrite time init size a d) s fun t =>
      t.resp = .error c ∧ t.bit Reg.topBuserrInfo 31 = true ∧
      (s.bit Reg.topBuserrInfo 31 = false →
        t.regN Reg.topBuserrAddrLo = a % 2 ^ 32 ∧ t.regN Reg.topBuserrAddrHi = a / 2 ^ 32 ∧
        t.fld Reg.topBuserrInfo 0 4 = init ∧ t.bit Reg.topBuserrInfo 4 = true ∧ t.fld Reg.topBuserrInfo 8 3 = c ∧
        t.fld Reg.topBuserrInfo 16 8 = 0) ∧
      (s.bit Reg.topBuserrInfo 31 = true →
        t.reg Reg.topBuserrAddrLo = s.reg Reg.topBuserrAddrLo ∧ t.reg Reg.topBuserrAddrHi = s.reg Reg.topBuserrAddrHi ∧
        t.fld Reg.topBuserrInfo 0 16 = s.fld Reg.topBuserrInfo 0 16 ∧
        t.fld Reg.topBuserrInfo 16 8 = min (s.fld Reg.topBuserrInfo 16 8 + 1) 255) ∧
      (∀ q, noteReg q = false → q ≠ Reg.topBuserrAddrLo → q ≠ Reg.topBuserrAddrHi → q ≠ Reg.topBuserrInfo →
        q ≠ Reg.secIrqRaw → ¬(0x40050000 ≤ q ∧ q < 0x40060000) → t.reg q = s.reg q) ∧
      t.l2 = s.l2 ∧ t.tstore = s.tstore ∧ t.hold = s.hold ∧
      ∀ o, outRing s o = true → memGet t.dram o = memGet s.dram o

/-- A 32-bit REGISTER_WRITE that the bus carries out sets exactly the RW bits of each register listed (one of every block whose
plain registers have no effect of their own), and no other register but those the event map and the recorder write. A write to an
unassigned offset of the register region is ignored. A write to DRAM or to the L2 window stores its bytes, least significant
first, and no other byte outside the capture ring. -/
def Obligations.RegisterWritesSetRwFields : Prop :=
  (∀ (time : Nat) (init : Init) (a : Nat) (d : Word) (s : State),
    a ∈ [Reg.topIrqEn, Reg.topPndIrqEn0, Reg.aoWakeEn, Reg.secIrqEn, Reg.tsIrqEn, Reg.pmuPmuCtrl, Reg.tpIrqEn, Reg.fltHangUs,
      Reg.mcIrqEn 0, Reg.ppIrqEn, Reg.tmIrqEn, Reg.genArmLead, Reg.staRetryLim, Reg.airGuardNs 0, Reg.spMacIrqEn 0,
      Reg.ulIrqEn 0, Reg.rdIrqEn 0, Reg.mdmDetThr 0, Reg.ccCcIrqEn] →
    accepts s init a true = true →
    Runs (.registerWrite time init 4 a d) s fun t => t.resp = .ok ∧
      (∃ r, regRow a = some r ∧ r.rw ≠ 0 ∧ t.reg a = mergeMask (s.reg a) d r.rw) ∧
      (∀ q, q ≠ a → noteReg q = false → t.reg q = s.reg q) ∧ t.l2 = s.l2 ∧ t.tstore = s.tstore ∧
      ∀ o, outRing s o = true → memGet t.dram o = memGet s.dram o) ∧
  (∀ (time : Nat) (init : Init) (a : Nat) (d : Word) (s : State), regionOf a = .regs → regRow a = none → inSluice a = false →
    accepts s init a true = true →
    Runs (.registerWrite time init 4 a d) s fun t => t.resp = .ok ∧ ∀ q, noteReg q = false → t.reg q = s.reg q) ∧
  (∀ (time : Nat) (init : Init) (size a : Nat) (d : Word) (s : State), isSize size = true → s.ao.held = false →
    debugMay s init true = true → busCause s init a size true = none →
    (regionOf a = .dram → Runs (.registerWrite time init size a d) s fun t => t.resp = .ok ∧ t.l2 = s.l2 ∧
      ∀ o, outRing s o = true → memGet t.dram o =
        if a - 0x800000000 ≤ o ∧ o < a - 0x800000000 + size then (leBytes size d.toNat).getD (o - (a - 0x800000000)) 0
        else memGet s.dram o) ∧
    (regionOf a = .l2 → Runs (.registerWrite time init size a d) s fun t => t.resp = .ok ∧
      (∀ o, outRing s o = true → memGet t.dram o = memGet s.dram o) ∧
      ∀ o, memGet t.l2 o =
        if a - 0x10000000 ≤ o ∧ o < a - 0x10000000 + size then (leBytes size d.toNat).getD (o - (a - 0x10000000)) 0
        else memGet s.l2 o))

/-- For an island i within TOP's reach (3 to 20), not yet in the state asked for: ISLAND_RESET_HOLD leaves CLOSED = 1, IN_RESET =
1, READY = 0, the clock stopped and every pound with an end in i closed. ISLAND_RESET_RELEASE starts the clock and leaves
IN_RESET. ISLAND_READY sets READY, clears IN_RESET and HANG, increments ISL_RSTCNT and sets ISL_EVENT; CLOSED clears unless GRAFT
is 1. ISLAND_FORCE_OFF leaves the island unpowered with PWR_MODE off, in reset. ISLAND_POWER_UP powers it, and starts its clock
unless RST_HOLD is 1. GRAFT_CLEAR after ready clears CLOSED and reopens each pound of the island whose other end is not closed. -/
def Obligations.IslandResetsFollowTheTimeline : Prop :=
  ∀ (time : Nat) (init : Init) (i : Fin 22) (s : State), 3 ≤ i.val → i.val ≤ 20 →
    (accepts s init (Reg.topIslCtrl i) true = true → s.bit (Reg.topIslCtrl i) 0 = false → s.bit (Reg.topIslCtrl i) 1 = false →
      islInReset s i = false →
      Runs (.islandResetHold time init i) s fun t =>
        t.bit (Reg.topIslStat i) 4 = true ∧ islInReset t i = true ∧ t.bit (Reg.topIslStat i) 2 = false ∧
        t.bit (Reg.topIslStat i) 1 = false ∧
        ∀ p, p < 54 → (poundEnds p).1 = i.val ∨ (poundEnds p).2 = i.val → poundClosed t p = true) ∧
    (accepts s init (Reg.topIslCtrl i) true = true → s.bit (Reg.topIslCtrl i) 0 = true → s.bit (Reg.topIslCtrl i) 1 = false →
      Runs (.islandResetRelease time init i) s fun t =>
        t.bit (Reg.topIslCtrl i) 0 = false ∧ t.bit (Reg.topIslStat i) 1 = true ∧ islInReset t i = islInReset s i) ∧
    (islPowered s i = true → islInReset s i = true → s.bit (Reg.topIslStat i) 1 = true →
      Runs (.islandReady time i) s fun t =>
        t.bit (Reg.topIslStat i) 2 = true ∧ islInReset t i = false ∧ t.bit (Reg.topIslStat i) 5 = false ∧
        t.reg (Reg.topIslRstcnt i) = s.reg (Reg.topIslRstcnt i) + 1 ∧ t.bit Reg.topIrqRaw 1 = true ∧
        t.bit (Reg.topIslStat i) 4 = (s.bit (Reg.topIslStat i) 4 && s.bit (Reg.topIslCtrl i) 2)) ∧
    (accepts s init (Reg.topIslCtrl i) true = true → s.bit (Reg.topIslCtrl i) 1 = false →
      Runs (.islandForceOff time init i) s fun t =>
        islPowered t i = false ∧ t.fld (Reg.topIslStat i) 8 2 = 3 ∧ islInReset t i = true) ∧
    (accepts s init (Reg.topIslCtrl i) true = true → s.bit (Reg.topIslCtrl i) 1 = true →
      Runs (.islandPowerUp time init i) s fun t =>
        islPowered t i = true ∧ t.fld (Reg.topIslStat i) 8 2 = 0 ∧ t.bit (Reg.topIslCtrl i) 1 = false ∧
        (s.bit (Reg.topIslCtrl i) 0 = false → t.bit (Reg.topIslStat i) 1 = true)) ∧
    (accepts s init (Reg.topIslCtrl i) true = true → s.bit (Reg.topIslCtrl i) 2 = true → s.bit (Reg.topIslStat i) 2 = true →
      s.bit (Reg.topIslStat i) 4 = true →
      Runs (.graftClear time init i) s fun t =>
        t.bit (Reg.topIslStat i) 4 = false ∧
        ∀ p, p < 54 → (poundEnds p).1 = i.val ∨ (poundEnds p).2 = i.val →
          s.bit (Reg.topIslStat (if (poundEnds p).1 = i.val then (poundEnds p).2 else (poundEnds p).1)) 4 = false →
          poundClosed t p = false)

/-- POUND_WORD_WRITE into a pound with room (the first word exactly where no packet is in progress) appends the word, raises LEVEL
by one and leaves every other pound. POUND_WORD_READABLE makes the oldest written word readable, for every pound that no port
reads without pause. POUND_WORD_READ of a pound whose reader takes whole packets, as R26 lets it begin one (PD29 to PD53, and PD23
to PD25 and PD27 outside a replay), takes the oldest readable word: an end word with ABORT = 0 counts in PND_TOT; one with ABORT =
1 discards the packet's words taken before and counts in PND_ABORT. A tap pound may get a record besides (R498), so for PD33 to
PD35 it is said while no tap records. -/
def Obligations.PoundsTakeAndGiveWords : Prop :=
  (∀ (time : Nat) (p : Fin 54) (w : PWord) (s : State), poundRoom s p = true → w.first = !(s.pound p).midW →
    isTap p = false ∨ tapsOff s = true →
    Runs (.poundWordWrite time p w) s fun t =>
      t.pound p = { s.pound p with flight := (s.pound p).flight ++ [w], midW := !w.last } ∧
      t.fld (Reg.topPndStat p) 0 10 = ((s.pound p).level + 1) % 1024 ∧
      (∀ q, q ≠ p.val → isTap q = false ∨ tapsOff s = true → t.pound q = s.pound q) ∧ t.l2 = s.l2 ∧ t.tstore = s.tstore) ∧
  (∀ (time : Nat) (p : Fin 54) (s : State) (w : PWord) (r : List PWord), (s.pound p).flight = w :: r →
    (∀ k, k < 72 → egressPound k ≠ some p.val) → isTap p = false ∨ tapsOff s = true →
    Runs (.poundWordReadable time p) s fun t =>
      t.pound p = { s.pound p with flight := r, ready := (s.pound p).ready ++ [w] } ∧
      t.regN (Reg.topPndPkts p) = (((s.pound p).ready ++ [w]).filter (·.last)).length % 2 ^ 32 ∧
      (∀ q, q ≠ p.val → isTap q = false ∨ tapsOff s = true → t.pound q = s.pound q)) ∧
  (∀ (time : Nat) (p : Fin 54) (s : State) (w : PWord) (r : List PWord), (s.pound p).ready = w :: r →
    29 ≤ p.val ∨ (23 ≤ p.val ∧ p.val < 28 ∧ p.val ≠ 26 ∧ replaying s = false) → mayStart s p = true →
    isTap p = false ∨ tapsOff s = true → islUp s (poundEnds p).2 = true →
    let gives := fun t : State => (t.pound p).ready = r ∧ ∀ q, q ≠ p.val → isTap q = false ∨ tapsOff s = true → t.pound q = s.pound q
    (29 ≤ p.val → Runs (.poundWordRead time p) s fun t => gives t ∧ (t.pound p).flight = (s.pound p).flight) ∧
    ((w.last && w.abort) = false → Runs (.poundWordRead time p) s fun t => gives t ∧ (t.pound p).taken = (s.pound p).taken ++ [w] ∧
        t.pair (Reg.topPndTotLo p) = (s.pair (Reg.topPndTotLo p) + bnat w.last) % 2 ^ 48 ∧
        t.reg (Reg.topPndAbort p) = s.reg (Reg.topPndAbort p)) ∧
    ((w.last && w.abort) = true → Runs (.poundWordRead time p) s fun t => gives t ∧ (t.pound p).taken = dropOpen (s.pound p).taken ∧
        t.regN (Reg.topPndAbort p) = min (s.regN (Reg.topPndAbort p) + 1) 0xFFFFFFFF ∧
        t.pair (Reg.topPndTotLo p) = s.pair (Reg.topPndTotLo p)))

/-- PND_MARK_WRITE sets MARK to the data's low ten bits and WM_LIVE to the comparison of the level with it (1 for MARK = 0, 0 for
a MARK above the depth), and leaves WM_NOTICE and PND_XCNT. A change of a pound's level with MARK = 0 or with MARK above the depth
never crosses; with MARK equal to the depth it crosses exactly when the level rises to the depth. -/
def Obligations.WritingTheMarkIsNoCrossing : Prop :=
  (∀ (time : Nat) (init : Init) (p : Fin 54) (d : Word) (s : State), accepts s init (Reg.topPndCfg p) true = true →
    Runs (.pndMarkWrite time init p d) s fun t =>
      t.fld (Reg.topPndCfg p) 0 10 = bitsOf d 0 10 ∧
      t.bit (Reg.topPndStat p) 16 = (decide (bitsOf d 0 10 ≤ (s.pound p).level) && decide (bitsOf d 0 10 ≤ poundDepth s p)) ∧
      t.bit (Reg.topPndStat p) 24 = s.bit (Reg.topPndStat p) 24 ∧ t.reg (Reg.topPndXcnt p) = s.reg (Reg.topPndXcnt p) ∧
      t.pounds = s.pounds) ∧
  (∀ (p : Fin 54) (q : Pound) (s : State),
    let mark := s.fld (Reg.topPndCfg p) 0 10
    let t := s.setPound p q
    ((mark = 0 ∨ poundDepth s p < mark) →
      t.bit (Reg.topPndStat p) 24 = s.bit (Reg.topPndStat p) 24 ∧ t.reg (Reg.topPndXcnt p) = s.reg (Reg.topPndXcnt p)) ∧
    (mark = poundDepth s p → mark ≠ 0 → (s.pound p).level < mark → q.level = mark →
      t.bit (Reg.topPndStat p) 24 = true ∧ t.reg (Reg.topPndXcnt p) = s.reg (Reg.topPndXcnt p) + 1) ∧
    (mark = poundDepth s p → q.level < mark ∨ mark ≤ (s.pound p).level →
      t.bit (Reg.topPndStat p) 24 = s.bit (Reg.topPndStat p) 24 ∧ t.reg (Reg.topPndXcnt p) = s.reg (Reg.topPndXcnt p)))

/-- COLLECTOR_ACCEPT, with the collector's island up, takes a waiting source: the reorder collector frees the next engine of the
rotation whose result is ready; the completion collector takes the oldest DONE word of the next core that has one, which then
holds no task; the tap collector takes a whole record, and without HOLD the recorder writes it to the ring. The source is the
first that waits after the one accepted last (of tap records with one DT the lowest source), and the others keep what they hold.
The ingress and the command collector have statements of their own (INGRESS_ACCEPT, DRAM_REQUEST_ACCEPT), and COLLECTOR_ACCEPT
does for them what those commands do. -/
def Obligations.CollectorsAcceptInRotation : Prop :=
  (∀ (time : Nat) (s : State) (e : Nat), rotPick 8 s.pp.outRot (fun k => match engFrame s k with
      | none => false
      | some g => resultReady g) = some e → ∀ f : PpFrame, engFrame s e = some f → islUp s 4 = true →
    Runs (.collectorAccept time .reorder) s fun t =>
      t.pp.outRot = e ∧ t.bit Reg.ppPpStat e = false ∧ t.pp.frames = s.pp.frames.map (fun g =>
        if g.fid = f.fid then { f with eng := none, collected := true } else g)) ∧
  (∀ (time : Nat) (s : State) (c : Nat) (w : Word) (r : List Word), rotPick 8 s.ts.rot (fun k => !(doneOf s k).isEmpty) = some c →
    doneOf s c = w :: r → islUp s 3 = true →
    Runs (.collectorAccept time .completion) s fun t =>
      t.ts.rot = c ∧ doneOf t c = r ∧ holdOfCore t c = none ∧
      ∀ k, k ≠ c → doneOf t k = doneOf s k ∧ holdOfCore t k = holdOfCore s k) ∧
  (∀ (time : Nat) (s : State) (k : Nat), tapPick s = some k → (s.pound (33 + k)).taken = [] →
    ∀ q : List PWord × List PWord, splitPacket (s.pound (33 + k)).ready = some q → q.1.all (fun w => !w.abort) = true → islUp s 20 = true →
    ringUnits s ≠ 0 → s.bit Reg.tpTpCtrl 2 = false → gapOf s 3 = 0 →
    Runs (.collectorAccept time .tap) s fun t =>
      t.tp.rot = k ∧ t.tp.rseq = (s.tp.rseq + 1) % 65536 ∧ (t.pound (33 + k)).ready = q.2 ∧
      t.regN Reg.tpWrPtr = (s.regN Reg.tpWrPtr + (wordsData q.1).length / 16) % ringUnits s ∧
      ∀ j, j < 3 → j ≠ k → (t.pound (33 + j)).ready = (s.pound (33 + j)).ready) ∧
  (∀ (time : Nat) (s : State),
    exec (.collectorAccept time .ingress) s = exec (.ingressAccept time) s ∧
    (islUp s 7 = true → exec (.collectorAccept time .command) s = exec (.dramRequestAccept time) s)) ∧
  (∀ (n last : Nat) (ready : Nat → Bool), n ≤ 64 → last < n → ∀ k : Nat, rotPick n last ready = some k →
    k < n ∧ ready k = true ∧ ∀ j, j < (k + n - last - 1) % n → ready ((last + 1 + j) % n) = false)

/-- After every command, while the control cluster's island is up, every level source that is asserted is pending at the interrupt
controller, or was claimed and is not yet completed. RC_READ of a context's claim register answers the pending and enabled source
of the highest priority, whose request is then claimed. A completion ends the claim, and a source that is still asserted becomes
pending again. The controller's registers are the presumed ones of log entry 190. -/
def Obligations.InterruptRequestsWaitForTheirClaim : Prop :=
  (∀ (c : Instr) (s : State), Runs c s fun t => islUp t 2 = true →
    ∀ id, id ∈ irqIds → srcLevel t id = true → plicPend t id = true ∨ plicServed t id = true) ∧
  (∀ (s : State) (c id : Nat), 0 < id → plicPend s id = true → plicEnabled s c id = true → s.fld (Reg.plicPrio id) 0 3 ≠ 0 →
    plicPend s (plicTop s c) = true ∧ plicEnabled s c (plicTop s c) = true ∧
    s.fld (Reg.plicPrio id) 0 3 ≤ s.fld (Reg.plicPrio (plicTop s c)) 0 3) ∧
  (∀ (time : Nat) (init : Init) (c n : Nat) (s : State), c < 16 → init ≠ 10 → accepts s init (Reg.plicClaim c) false = true →
    plicTop s c ≠ 0 → Runs (.rcRead time init (Reg.plicClaim c) n) s fun t =>
      t.resp = .data (BitVec.ofNat 32 (plicTop s c)) ∧ plicPend t (plicTop s c) = false ∧ plicServed t (plicTop s c) = true ∧
      (∀ id, id ≠ plicTop s c → plicPend s id = true → plicPend t id = true) ∧
      ∀ id, id ≠ plicTop s c → plicServed t id = plicServed s id) ∧
  (∀ (time : Nat) (init : Init) (c : Nat) (d : Word) (s : State), c < 16 → accepts s init (Reg.plicClaim c) true = true →
    islUp s 2 = true → d.toNat ∈ irqIds → plicEnabled s c d.toNat = true → plicServed s d.toNat = true →
    Runs (.registerWrite time init 4 (Reg.plicClaim c) d) s fun t =>
      plicServed t d.toNat = false ∧ plicPend t d.toNat = (plicPend s d.toNat || srcLevel s d.toNat))

/-- LOAD_CMD start with no load in progress, no slot LOADING, READY or ARMED, an aligned address and a length in range, a FREE
slot and enough free pages, puts the lowest FREE slot into LOADING with its pages (which FREE slot and which free pages are taken
is the model's choice, log entry 18); with a slot LOADING, READY or ARMED it ends with error 1. LOAD_DONE makes the slot READY
with LOAD_DONE where every check passes, and FREE with LOAD_ERR and the first failing check's code otherwise; LOAD_DRAM_ERROR ends
the load with 22 and LOAD_ABORT with 23, the slot FREE. -/
def Obligations.LoadsTakeASlotAndEndReadyOrFree : Prop :=
  (∀ (time : Nat) (init : Init) (s : State), accepts s init Reg.genLoadCmd true = true → s.bit Reg.genLoadStat 0 = false →
    (∀ k, k < 4 → slotState s k = 0 ∨ slotState s k = 4 ∨ slotState s k = 5) → loadAddr s % 64 = 0 →
    256 ≤ s.regN Reg.genLoadLen → s.regN Reg.genLoadLen ≤ 3145728 →
    ceilDiv (s.regN Reg.genLoadLen) 4096 ≤ (freePages s).length → ∀ k : Nat, freeSlotNo s = some k →
    Runs (.loadCmdStart time init) s fun t =>
      slotState t k = 1 ∧ t.bit Reg.genLoadStat 0 = true ∧ t.fld Reg.genLoadStat 4 2 = k ∧
      t.gen.load = some (k, loadAddr s, s.regN Reg.genLoadLen) ∧
      slotPages t k = (freePages s).take (ceilDiv (s.regN Reg.genLoadLen) 4096) ∧
      (∀ j, j < 4 → j ≠ k → slotState t j = slotState s j ∧ slotPages t j = slotPages s j) ∧ t.tstore = s.tstore) ∧
  (∀ (time : Nat) (init : Init) (s : State) (k : Fin 4), accepts s init Reg.genLoadCmd true = true →
    s.bit Reg.genLoadStat 0 = false → 1 ≤ slotState s k → slotState s k ≤ 3 →
    Runs (.loadCmdStart time init) s fun t =>
      t.fld Reg.genLoadStat 8 8 = 1 ∧ t.bit Reg.genIrqRaw 4 = true ∧ slotState t k = slotState s k) ∧
  (∀ (time : Nat) (s : State) (l : Nat × Nat × Nat), s.gen.load = some l → l.1 < 4 →
    (loadError (s.at time) l.2.1 l.2.2 = none → Runs (.loadDone time) s fun t =>
      t.gen.load = none ∧ t.bit Reg.genLoadStat 0 = false ∧ slotState t l.1 = 2 ∧ t.fld Reg.genLoadStat 8 8 = 0 ∧
      t.bit Reg.genIrqRaw 3 = true ∧ slotTag t l.1 = i8 (dramImg s l.2.1 l.2.2) 8 % 16 ∧
      t.regN (Reg.genSlotSeq l.1) = i32 (dramImg s l.2.1 l.2.2) 0x14) ∧
    (∀ e : Nat, loadError (s.at time) l.2.1 l.2.2 = some e → Runs (.loadDone time) s fun t =>
      t.gen.load = none ∧ t.bit Reg.genLoadStat 0 = false ∧ slotState t l.1 = 0 ∧ t.fld Reg.genLoadStat 8 8 = e % 256 ∧
      t.bit Reg.genIrqRaw 4 = true ∧ slotPages t l.1 = [] ∧ t.tstore = s.tstore) ∧
    (Runs (.loadDramError time) s fun t =>
      t.gen.load = none ∧ t.bit Reg.genLoadStat 0 = false ∧ slotState t l.1 = 0 ∧ t.fld Reg.genLoadStat 8 8 = 22 ∧
      t.bit Reg.genIrqRaw 4 = true ∧ t.tstore = s.tstore) ∧
    (∀ init : Init, accepts s init Reg.genLoadCmd true = true →
      Runs (.loadAbort time init) s fun t =>
        t.gen.load = none ∧ t.bit Reg.genLoadStat 0 = false ∧ slotState t l.1 = 0 ∧ t.fld Reg.genLoadStat 8 8 = 23 ∧
        t.bit Reg.genIrqRaw 4 = true ∧ t.tstore = s.tstore))

/-- ARM of a READY slot with no slot ARMED makes it ARMED, takes ARM_LEAD, and fixes a target boundary whose arming time (the
target less ARM_LEAD) is not in the past. DISARM of the ARMED slot before its arming time returns it to READY, DISCARD frees it;
from the arming time on both end with LOCKED and leave it ARMED. DISCARD of a READY slot frees it. ARMING_TIME locks the ARMED
slot, or with a table-store error frees it, sets IRQ_RAW bit 7 and raises fault class 8. -/
def Obligations.ArmingFixesALaterBoundary : Prop :=
  ∀ (time : Nat) (init : Init) (k : Fin 4) (s : State), accepts s init Reg.genArmCmd true = true →
    (∀ next : Bool, slotState s k = 2 → (∀ j, j < 4 → slotState s j ≠ 3) → (curSlot s).isSome = false ∨ 0 < roundNs s →
      Runs (.arm time init k next) s fun t =>
        slotState t k = 3 ∧ t.fld Reg.genArmStat 0 3 = 0 ∧ t.bit Reg.genArmStat 8 = true ∧ t.bit Reg.genArmStat 4 = false ∧
        t.gen.armLead = armLead s ∧ t.gen.armDt = t.gen.tgtDt - armLead s ∧ (s.at time).dt + armLead s ≤ t.gen.tgtDt ∧
        (∀ j, j < 4 → j ≠ k.val → slotState t j = slotState s j) ∧ t.tstore = s.tstore) ∧
    (slotState s k = 3 → (s.at time).dt < s.gen.armDt →
      (Runs (.disarm time init k) s fun t =>
        slotState t k = 2 ∧ t.fld Reg.genArmStat 0 3 = 0 ∧ t.bit Reg.genArmStat 8 = false ∧ t.gen = s.gen) ∧
      (Runs (.discard time init k) s fun t =>
        slotState t k = 0 ∧ t.fld Reg.genArmStat 0 3 = 0 ∧ t.bit Reg.genArmStat 8 = false ∧ slotPages t k = [])) ∧
    (slotState s k = 3 → s.gen.armDt ≤ (s.at time).dt →
      (Runs (.disarm time init k) s fun t => slotState t k = 3 ∧ t.fld Reg.genArmStat 0 3 = 3 ∧ t.gen = s.gen) ∧
      (Runs (.discard time init k) s fun t => slotState t k = 3 ∧ t.fld Reg.genArmStat 0 3 = 3 ∧ t.gen = s.gen)) ∧
    (slotState s k = 2 → Runs (.discard time init k) s fun t =>
      slotState t k = 0 ∧ t.fld Reg.genArmStat 0 3 = 0 ∧ slotPages t k = []) ∧
    (armedSlot s = some k.val → islUp s 6 = true → s.gen.armDt ≤ (s.at time).dt → s.bit Reg.genArmStat 4 = false →
      ((s.gen.bad ++ s.gen.lost).any (fun b => decide (b.1 = k.val)) = false →
        Runs (.armingTime time false) s fun t => slotState t k = 3 ∧ t.bit Reg.genArmStat 4 = true ∧ t.gen = s.gen) ∧
      (Runs (.armingTime time true) s fun t =>
        slotState t k = 0 ∧ t.bit Reg.genArmStat 8 = false ∧ t.bit Reg.genIrqRaw 7 = true ∧ t.bit Reg.fltFltStat 8 = true))

/-- BOUNDARY_ANNOUNCE within 1 µs of the next boundary of the current generation records the announce and changes nothing else of
GEN. ROUND_BOUNDARY at or after that boundary moves the boundary to it, increments ROUND_IDX and clears the names; with no slot
ARMED the current slot stays. With a slot ARMED whose target is due and GEN up, that slot becomes CURRENT, the slot before it
DRAINING, and the names are clear. With no generation current, ROUND_BOUNDARY at an ARMED slot's target makes it CURRENT. -/
def Obligations.RoundBoundariesMoveTheRound : Prop :=
  (∀ (time : Nat) (s : State) (c : Nat), curSlot s = some c → nextBdy s ≤ (s.at time).dt + 1000 →
    Runs (.boundaryAnnounce time) s fun t => t.gen = { s.gen with announced := true } ∧
      ∀ q, noteReg q = false → t.reg q = s.reg q) ∧
  (∀ (time : Nat) (s : State) (c : Nat), curSlot s = some c → nextBdy s ≤ (s.at time).dt →
    let onward := fun t : State =>
      t.gen.bdy = nextBdy s ∧ roundIdx t = (roundIdx s + 1) % 2 ^ 48 ∧ t.gen.names = [] ∧ t.gen.announced = false
    (Runs (.roundBoundary time) s onward) ∧
    (armedSlot s = none → Runs (.roundBoundary time) s fun t =>
      onward t ∧ curSlot t = some c ∧ ∀ j, j < 4 → slotState t j = slotState s j) ∧
    (∀ k : Nat, armedSlot s = some k → s.gen.tgtDt ≤ nextBdy s → islUp s 6 = true → c ≠ k → Runs (.roundBoundary time) s fun t =>
      onward t ∧ curSlot t = some k ∧ slotState t k = 4 ∧ slotState t c = 5 ∧
      t.reg Reg.genSwapCnt = s.reg Reg.genSwapCnt + 1 ∧ t.bit Reg.genIrqRaw 0 = true)) ∧
  (∀ (time : Nat) (s : State) (k : Nat), armedSlot s = some k → curSlot s = none → s.gen.tgtDt ≤ (s.at time).dt →
    s.gen.missed = false → islUp s 6 = true →
    Runs (.roundBoundary time) s fun t => curSlot t = some k ∧ slotState t k = 4 ∧ t.gen.bdy = s.gen.tgtDt)

/-- LOCK_HANDOVER at a port's hand-over instant starts the current slot's schedule there. GATE_INTERVAL_START opens exactly the
gates of the entry that covers DT, and none where no schedule plays. FREED frees a DRAINING slot without references that no player
holds, and sets IRQ_RAW bit 5. PAGE_QRY names a page, and PAGE_LOC gives its place with VALID, or 0 where there is none.
TABLE_SCRUB_PASS with SCRUB_EN and an error in a page of a resident slot marks the page damaged and raises fault class 8; without
an error it changes no register and nothing of GEN. -/
def Obligations.PlayersFollowTheLockSchedule : Prop :=
  (∀ (time : Nat) (p : Fin 66) (s : State) (h : Nat), (s.player p).hand = some h → ∀ k : Nat, curSlot s = some k →
    h ≤ (s.at time).dt →
    Runs (.lockHandover time p) s fun t =>
      (t.player p).slot = some k ∧ (t.player p).base = h ∧ (t.player p).hand = none ∧
      ∀ q, q ≠ p.val → t.player q = s.player q) ∧
  (∀ (time : Nat) (p : Fin 66) (s : State), islUp s (portIsland p) = true → islUp s 6 = true →
    Runs (.gateIntervalStart time p) s fun t =>
      (t.player p).slot = (s.player p).slot ∧
      (t.player p).gates = (match (s.player p).slot with
        | none => 0
        | some k => lockGates (slotImg s k) p (nowEntry (s.at time) p).1) ∧
      (∀ q, q ≠ p.val → t.player q = s.player q) ∧ t.tstore = s.tstore) ∧
  (∀ (time : Nat) (k : Fin 4) (s : State), islUp s 6 = true → slotState s k = 5 → s.regN (Reg.genSlotRef k) = 0 →
    s.bit (Reg.genSlotStat k) 16 = false →
    Runs (.freed time k) s fun t =>
      slotState t k = 0 ∧ slotPages t k = [] ∧ t.bit Reg.genIrqRaw 5 = true ∧
      ∀ j, j < 4 → j ≠ k.val → slotState t j = slotState s j ∧ slotPages t j = slotPages s j) ∧
  (∀ (time : Nat) (init : Init) (d : Word) (s : State), accepts s init Reg.genPageQry true = true →
    Runs (.pageQry time init d) s fun t => t.gen = s.gen ∧
      pageLoc t = (if slotState s (bitsOf d 0 2) = 0 then 0
        else match (slotPages s (bitsOf d 0 2))[bitsOf d 8 12]? with
          | none => 0
          | some p => BitVec.ofNat 32 (p + 2 ^ 31))) ∧
  (∀ (time : Nat) (k : Fin 4) (p : Fin 768) (s : State), s.bit Reg.genGenCtrl 0 = true → islUp s 6 = true →
    2 ≤ slotState s k → p.val < (slotPages s k).length → (s.gen.bad ++ s.gen.lost).contains (k.val, p.val) = false →
    Runs (.tableScrubPass time (some (k, p))) s fun t =>
      t.gen = { s.gen with bad := s.gen.bad ++ [(k.val, p.val)] } ∧ t.bit Reg.fltFltStat 8 = true ∧
      slotState t k = slotState s k) ∧
  (∀ (time : Nat) (s : State), Runs (.tableScrubPass time none) s fun t => t.gen = s.gen ∧
    ∀ q, noteReg q = false → t.reg q = s.reg q)

/-- INGRESS_ACCEPT takes the next source of the rotation that has a frame ready. From a pound, a packet without ABORT is accepted:
with a generation current it enters the pipeline with its port's next sequence number, the current tag and its reference, and with
none current it is dropped, NOGEN_DROP counts and NO_GEN is raised. ENGINE_DISPATCH gives the oldest frame without an engine to
the engine after the one used last, and waits while that one is busy. -/
def Obligations.FramesEnterInRotation : Prop :=
  (∀ (time : Nat) (s : State) (i : Nat), rotPick 15 s.pp.inRot (ingressReady s) = some i → islUp s 4 = true → i ≠ 14 →
    (headWords s (ingressPound i)).1.getLast?.any (fun w => w.last && w.abort) = false →
    let ws := (headWords s (ingressPound i)).1
    let whole := (headWords s (ingressPound i)).2
    let taken := fun t : State =>
      t.pp.inRot = i ∧ t.pair Reg.ppRxLo = (s.pair Reg.ppRxLo + 1) % 2 ^ 48 ∧ t.pp.nextFid = s.pp.nextFid + bnat ((curSlot s).isSome || !whole)
    (∀ k : Nat, curSlot s = some k → Runs (.ingressAccept time) s fun t => taken t ∧
        t.pp.frames = s.pp.frames ++ [
          { fid := s.pp.nextFid, src := i, port := sourcePort i (wordsMeta ws),
            seq := bankGet (fun _ => 0) s.pp.seqs (sourcePort i (wordsMeta ws)), tag := curTag s, second := false,
            inPort := sourcePort i (wordsMeta ws), tunnel := 0, info := wordsMeta ws, dt := (s.at time).now48,
            data := wordsData ws, wholeAt := whole, whole := whole }] ∧
        (∀ j : Nat, tagSlot s (curTag s) = some j → t.regN (Reg.genSlotRef j) = (s.regN (Reg.genSlotRef j) + 1) % 2 ^ 32)) ∧
    (curSlot s = none → Runs (.ingressAccept time) s fun t =>
      taken t ∧ t.pp.frames = s.pp.frames ∧ t.bit Reg.genIrqRaw 8 = true ∧
        t.regN Reg.genNogenDrop = min (s.regN Reg.genNogenDrop + 1) 0xFFFFFFFF)) ∧
  (∀ (time : Nat) (s : State) (f : PpFrame), s.pp.frames.find? (fun f => f.eng.isNone && !f.collected) = some f →
    let e := (s.pp.engRot + 1) % 8
    (islUp s 4 = true → s.bit Reg.ppPpStat e = false →
      Runs (.engineDispatch time) s fun t =>
        t.pp.engRot = e ∧ t.bit Reg.ppPpStat e = true ∧ (∀ k, k < 32 → k ≠ e → t.bit Reg.ppPpStat k = s.bit Reg.ppPpStat k) ∧
        t.pp.frames = s.pp.frames.map (fun g => if g.fid = f.fid then { f with eng := some e } else g)) ∧
    (s.bit Reg.ppPpStat e = true → Runs (.engineDispatch time) s fun t => t.pp = s.pp ∧ t.reg Reg.ppPpStat = s.reg Reg.ppPpStat))

/-- PARSE_DONE of the frame that engine e holds, whose tag is resident, stores the parse of its bytes under its own generation: a
MALFORMED frame counts at its cause with MALFORMED raised, and is dropped, its engine freed, where MALF_MODE is 0; a DEEP one
counts with DEEP raised. CLASSIFY_DONE of a frame with verdict OK or DEEP stores the action that the decision tables give its key.
No image byte they read lies in a damaged page. -/
def Obligations.EnginesParseAndClassify : Prop :=
  (∀ (time : Nat) (e : Fin 8) (s : State) (f : PpFrame), engFrame s e = some f → f.parsed = none → islUp s 4 = true →
    ∀ k : Nat, tagSlot s f.tag = some k →
    let g := slotImg s k
    let p := parseFrame g f.data f.whole f.second f.inPort f.tunnel f.info.staIdx f.info.tid
    touchesBad s k p.touched = false →
    (p.verdict = 2 → Runs (.parseDone time e) s fun t =>
      t.regN (Reg.ppMalfCnt p.cause) = min (s.regN (Reg.ppMalfCnt p.cause) + 1) 0xFFFFFFFF ∧ t.bit Reg.ppIrqRaw 0 = true) ∧
    (p.verdict = 1 → Runs (.parseDone time e) s fun t =>
      t.regN Reg.ppDeepCnt = min (s.regN Reg.ppDeepCnt + 1) 0xFFFFFFFF ∧ t.bit Reg.ppIrqRaw 1 = true) ∧
    (p.verdict ≠ 2 ∨ malfMode g = true → Runs (.parseDone time e) s fun t =>
      t.pp.frames = s.pp.frames.map (fun x => if x.fid = f.fid then { f with parsed := some p } else x)) ∧
    (p.verdict = 2 → malfMode g = false → Runs (.parseDone time e) s fun t =>
        t.pp.frames = s.pp.frames.filter (fun x => decide (x.fid ≠ f.fid)) ∧ t.bit Reg.ppPpStat e = false)) ∧
  (∀ (time : Nat) (e : Fin 8) (s : State) (f : PpFrame), engFrame s e = some f → ∀ p : Parsed, f.parsed = some p →
    ∀ k : Nat, tagSlot s f.tag = some k → f.act = none → p.verdict ≠ 2 → islUp s 4 = true → islUp s 6 = true →
    touchesBad s k ((classify (slotImg s k) p).2 ++ [(actOff (slotImg s k) (classify (slotImg s k) p).1, 16)]) = false →
    Runs (.classifyDone time e) s fun t =>
      t.pp.frames = s.pp.frames.map (fun x =>
        if x.fid = f.fid then { f with act := some (classify (slotImg s k) p).1 } else x) ∧
      ∀ q, noteReg q = false → t.reg q = s.reg q)

/-- REORDER_RELEASE takes the results that wait and releases the oldest frame that keeps its port's order: an action without
effect drops it and counts DROP_CLASS, a plain forward without stream filter, rewrite or copy gives it one packet for its flow
queue, and a frame without an action goes to the exception queue and counts EXC_CNT. PIPELINE_HANDOFF with nothing waiting writes
the packets of the oldest released whole frame behind what PD28 holds and takes the frame out; its GAUGE copy goes to PD32, or is
dropped alone with DROP_GH for lack of room. LATE_CONTRADICTION takes the frame out, ends every packet of it with ABORT, and
counts a contradiction of the IP length among the MALFORMED causes. -/
def Obligations.FramesLeaveInOrder : Prop :=
  (∀ (time : Nat) (s : State),
    let u := collectAll (s.at time) 8
    ∀ f : PpFrame, releasable u.pp.frames [] = some f → ∀ k : Nat, tagSlot s f.tag = some k → islUp s 4 = true →
    let a := actOff (slotImg s k) (f.act.getD 0)
    (f.parsed.isSome = true → f.act.isSome = true → iFld (slotImg s k) (a + 8) 15 1 = 0 → iFld (slotImg s k) a 0 4 = 0 →
      Runs (.reorderRelease time) s fun t =>
        t.pp.frames = u.pp.frames.filter (fun x => decide (x.fid ≠ f.fid)) ∧
        t.regN Reg.ppDropClass = min (s.regN Reg.ppDropClass + 1) 0xFFFFFFFF) ∧
    (f.parsed.isSome = true → f.act.isSome = true → iFld (slotImg s k) (a + 8) 15 1 = 0 → iFld (slotImg s k) a 0 4 = 1 →
      iFld (slotImg s k) (a + 8) 31 1 = 0 → iFld (slotImg s k) (a + 4) 16 16 = 0 → Runs (.reorderRelease time) s fun t =>
        t.pp.frames = u.pp.frames.map (fun x => if x.fid = f.fid then
          { f with fate := some { outs := [outOf f f.data (iFld (slotImg s k) (a + 4) 0 15) 0 false true 0] } } else x)) ∧
    (f.parsed.isSome = true → f.act = none → Runs (.reorderRelease time) s fun t => t.regN Reg.ppExcCnt = min (s.regN Reg.ppExcCnt + 1) 0xFFFFFFFF ∧
        t.pp.frames = u.pp.frames.map (fun x => if x.fid = f.fid then
          { f with fate := some { outs := [divertOut (slotImg s k) f 0] } } else x))) ∧
  (∀ (time : Nat) (s : State) (f : PpFrame), s.pp.frames.find? (fun f => match f.fate with
      | none => false
      | some x => (f.whole && (lateCauses s f).isEmpty) || (!x.outs.isEmpty && x.recirc.isNone)) = some f →
    ∀ x : PpFate, f.fate = some x → islUp s 4 = true → f.whole = true → lateCauses s f = [] → s.pp.outQ = [] →
    s.pp.frames.any (·.streaming) = false → poundRoom s 28 = true → x.recirc = none →
    let gone := fun t : State => t.pp.frames = s.pp.frames.filter (fun g => decide (g.fid ≠ f.fid)) ∧
      (t.pound 28).flight ++ t.pp.outQ = (s.pound 28).flight ++ x.outs.flatMap (outWords s false)
    let copy := packetOf s 32 { len := if f.data.length ≤ 16383 then f.data.length else 0 } f.data
    (Runs (.pipelineHandoff time) s gone) ∧
    (x.gauge = false → Runs (.pipelineHandoff time) s fun t => t.pound 32 = s.pound 32) ∧
    (x.gauge = true → poundClosed s 32 = true ∨ poundDepth s 32 - (s.pound 32).level < copy.length → Runs (.pipelineHandoff time) s fun t =>
        t.pound 32 = s.pound 32 ∧ t.regN Reg.ppDropGh = min (s.regN Reg.ppDropGh + 1) 0xFFFFFFFF ∧ t.bit Reg.ppIrqRaw 7 = true) ∧
    (x.gauge = true → poundClosed s 32 = false → copy.length ≤ poundDepth s 32 - (s.pound 32).level → Runs (.pipelineHandoff time) s fun t =>
        (t.pound 32).flight = (s.pound 32).flight ++ copy)) ∧
  (∀ (time fid : Nat) (c : LateCause) (s : State) (f : PpFrame), s.pp.frames.find? (fun f => decide (f.fid = fid)) = some f →
    ∀ x : PpFate, f.fate = some x → islUp s 4 = true → (lateCauses s f).contains c = true → f.streaming = false → x.gauge = false →
    Runs (.lateContradiction time fid c) s fun t =>
      t.pp.frames = s.pp.frames.filter (fun g => decide (g.fid ≠ f.fid)) ∧ t.pp.recirc = s.pp.recirc ∧
      (t.pound 28).flight ++ t.pp.outQ = (s.pound 28).flight ++ s.pp.outQ ++ x.outs.flatMap (outWords s true) ∧
      t.regN (Reg.ppMalfCnt 7) = min (s.regN (Reg.ppMalfCnt 7) + bnat ((lateCauses s f).contains .ipLen)) 0xFFFFFFFF ∧
      (t.bit Reg.ppIrqRaw 0 = true ∨ (lateCauses s f).contains .ipLen = false))

/-- NAT_INSERT, NAT_REMOVE and NAT_READ, while no session command is in progress, set BUSY and hold the command with the session
number and the staged entry; while one is in progress they change nothing. NAT_DONE ends the command with NAT_DONE raised and its
RESULT: INSERT enters the session only with RESULT 0 and no other changes, REMOVE empties it, READ copies it to NAT_KEY0 to 3 and
NAT_XLT0 to 1, and both end with RESULT 4 where it is not installed. -/
def Obligations.SessionCommandsTakeEffect : Prop :=
  (∀ (time : Nat) (init : Init) (s : State), accepts s init Reg.ppNatCmd true = true →
    (s.bit Reg.ppNatCmdStat 0 = false →
      (Runs (.natInsert time init) s fun t => t.bit Reg.ppNatCmdStat 0 = true ∧ t.pp.sessions = s.pp.sessions ∧
        t.pp.cmd = some ⟨1, s.fld Reg.ppNatSes 0 16,
          { inside := s.regN Reg.ppNatKey0, remote := s.regN Reg.ppNatKey1, iport := s.fld Reg.ppNatKey2 0 16,
            rport := s.fld Reg.ppNatKey2 16 16, proto := s.fld Reg.ppNatKey3 0 8, outside := s.regN Reg.ppNatXlt0,
            oport := s.fld Reg.ppNatXlt1 0 16, idle := s.fld Reg.ppNatSes 16 16, last := (s.at time).dt / 10 ^ 9 }⟩) ∧
      (Runs (.natRemove time init) s fun t => t.bit Reg.ppNatCmdStat 0 = true ∧ t.pp.sessions = s.pp.sessions ∧
        t.pp.cmd.map (fun c => (c.op, c.ses)) = some (2, s.fld Reg.ppNatSes 0 16)) ∧
      (Runs (.natRead time init) s fun t => t.bit Reg.ppNatCmdStat 0 = true ∧ t.pp.sessions = s.pp.sessions ∧
        t.pp.cmd.map (fun c => (c.op, c.ses)) = some (3, s.fld Reg.ppNatSes 0 16))) ∧
    (s.bit Reg.ppNatCmdStat 0 = true → Runs (.natInsert time init) s fun t => t.pp = s.pp)) ∧
  (∀ (time : Nat) (s : State) (c : NatCmd), s.pp.cmd = some c → islUp s 4 = true →
    let ends := fun t : State => t.pp.cmd = none ∧ t.bit Reg.ppNatCmdStat 0 = false ∧ t.bit Reg.ppIrqRaw 5 = true ∧
      ∀ j, j ≠ c.ses → session t j = session s j
    (Runs (.natDone time) s ends) ∧
    (c.op = 1 → Runs (.natDone time) s fun t => t.fld Reg.ppNatCmdStat 4 3 = insertResult s c.ses c.entry ∧
        session t c.ses = (if insertResult s c.ses c.entry = 0 then some c.entry else session s c.ses)) ∧
    (c.op ≠ 1 → session s c.ses = none → Runs (.natDone time) s fun t => t.fld Reg.ppNatCmdStat 4 3 = 4 ∧ session t c.ses = none) ∧
    (∀ x : Session, session s c.ses = some x →
        (c.op = 2 → Runs (.natDone time) s fun t => t.fld Reg.ppNatCmdStat 4 3 = 0 ∧ session t c.ses = none) ∧
        (c.op = 3 → Runs (.natDone time) s fun t => t.fld Reg.ppNatCmdStat 4 3 = 0 ∧ session t c.ses = some x ∧ t.regN Reg.ppNatKey0 = x.inside % 2 ^ 32 ∧
          t.regN Reg.ppNatKey1 = x.remote % 2 ^ 32 ∧ t.regN Reg.ppNatKey2 = (x.iport + 65536 * x.rport) % 2 ^ 32 ∧
          t.regN Reg.ppNatKey3 = x.proto % 2 ^ 32 ∧ t.regN Reg.ppNatXlt0 = x.outside % 2 ^ 32 ∧
          t.regN Reg.ppNatXlt1 = x.oport % 2 ^ 32)))

/-- NAT_AGE_VISIT with AGE_EN and a full ring (NAT_EXP_HEAD + 1 = NAT_EXP_TAIL modulo 256) changes no session and no ring entry,
and sets AGE_STALL in PP_STAT and so in IRQ_RAW. With room, a session idle for IDLE_S leaves into the ring at the head, which
advances. NAT_EXP_TAIL_WRITE sets the tail, and AGE_STALL then stands exactly where the ring is full. -/
def Obligations.AgeingPausesWhileTheRingIsFull : Prop :=
  (∀ (time : Nat) (ses : Fin 65536) (s : State), islUp s 4 = true → s.bit Reg.ppPpCtrl 0 = true →
    (s.fld Reg.ppNatExpTail 0 8 = (s.fld Reg.ppNatExpHead 0 8 + 1) % 256 →
      Runs (.natAgeVisit time ses) s fun t =>
        t.pp = s.pp ∧ t.bit Reg.ppPpStat 9 = true ∧ bitOf (rawOf t Reg.ppIrqRaw) 4 = true ∧
        t.reg Reg.ppNatExpHead = s.reg Reg.ppNatExpHead ∧ ∀ k, k < 256 → t.reg (Reg.ppNatExpData k) = s.reg (Reg.ppNatExpData k)) ∧
    (s.fld Reg.ppNatExpTail 0 8 ≠ (s.fld Reg.ppNatExpHead 0 8 + 1) % 256 → ∀ x : Session, session s ses = some x →
      x.idle ≤ (s.at time).dt / 10 ^ 9 - x.last →
      Runs (.natAgeVisit time ses) s fun t =>
        session t ses = none ∧ (∀ j, j ≠ ses.val → session t j = session s j) ∧
        t.regN (Reg.ppNatExpData (s.fld Reg.ppNatExpHead 0 8)) = ses.val ∧
        t.fld Reg.ppNatExpHead 0 8 = (s.fld Reg.ppNatExpHead 0 8 + 1) % 256)) ∧
  (∀ (time : Nat) (init : Init) (d : Word) (s : State), accepts s init Reg.ppNatExpTail true = true →
    Runs (.natExpTailWrite time init d) s fun t =>
      t.fld Reg.ppNatExpTail 0 8 = bitsOf d 0 8 ∧ t.reg Reg.ppNatExpHead = s.reg Reg.ppNatExpHead ∧
      t.bit Reg.ppPpStat 9 = decide (bitsOf d 0 8 = (s.fld Reg.ppNatExpHead 0 8 + 1) % 256) ∧
      bitOf (rawOf t Reg.ppIrqRaw) 4 = decide (bitsOf d 0 8 = (s.fld Reg.ppNatExpHead 0 8 + 1) % 256) ∧ t.pp = s.pp)

/-- NAT_SEED is written only while NAT_COUNT is 0; ADDR_SEED, MLD_ADDR and BSSID only while VALID_COUNT is 0; RO_BASE and RO_SIZE
only while RO_USED is 0; SPILL_BASE and SPILL_SIZE only while SPILL_USED is 0, a size above 4,096 MiB storing 4,096; a ring's
base, SIZE and BUF_LEN only while its enable is 0; ADDR_MAP only while no channel is in RUN and only at MC[0]; SERDES_TX only with
PRE + POST at most MAIN; FEM_TIMING only with its leads in order; BAND_LIMIT stores at most BAND_CAP. A write that is turned away
leaves the register. -/
def Obligations.GuardedWritesAreIgnored : Prop :=
  (∀ (time : Nat) (init : Init) (d : Word) (s : State), accepts s init Reg.ppNatSeed true = true →
    Runs (.natSeedWrite time init d) s fun t =>
      t.reg Reg.ppNatSeed = if s.fld Reg.ppNatCount 0 17 = 0 then d else s.reg Reg.ppNatSeed) ∧
  (∀ (time : Nat) (init : Init) (d : Word) (s : State), accepts s init Reg.staAddrSeed true = true →
    Runs (.addrSeedWrite time init d) s fun t =>
      t.reg Reg.staAddrSeed = if s.fld Reg.staStaStat 0 13 = 0 then d else s.reg Reg.staAddrSeed) ∧
  (∀ (time : Nat) (init : Init) (r : MldReg) (d : Word) (s : State), accepts s init (mldReg r) true = true →
    (s.fld Reg.staStaStat 0 13 ≠ 0 → Runs (.mldBssidWrite time init r d) s fun t => t.reg (mldReg r) = s.reg (mldReg r)) ∧
    (s.fld Reg.staStaStat 0 13 = 0 → Runs (.mldBssidWrite time init r d) s fun t => t.fld (mldReg r) 0 16 = bitsOf d 0 16)) ∧
  (∀ (time : Nat) (init : Init) (r : RoReg) (d : Word) (s : State), accepts s init (roReg r) true = true →
    (s.fld Reg.staRoUsed 0 24 ≠ 0 → Runs (.roRegionWrite time init r d) s fun t => t.reg (roReg r) = s.reg (roReg r)) ∧
    (s.fld Reg.staRoUsed 0 24 = 0 → Runs (.roRegionWrite time init r d) s fun t =>
      ∃ w, regRow (roReg r) = some w ∧ t.reg (roReg r) = mergeMask (s.reg (roReg r)) d w.rw)) ∧
  (∀ (time : Nat) (init : Init) (r : SpillReg) (d : Word) (s : State), accepts s init (spillReg r) true = true →
    (s.fld Reg.tmSpillUsed 0 25 ≠ 0 → Runs (.spillConfigWrite time init r d) s fun t => t.reg (spillReg r) = s.reg (spillReg r)) ∧
    (s.fld Reg.tmSpillUsed 0 25 = 0 → r = .size → Runs (.spillConfigWrite time init r d) s fun t =>
      t.fld Reg.tmSpillSize 0 13 = min 4096 d.toNat) ∧
    (s.fld Reg.tmSpillUsed 0 25 = 0 → r ≠ .size → Runs (.spillConfigWrite time init r d) s fun t =>
        ∃ w, regRow (spillReg r) = some w ∧ t.reg (spillReg r) = mergeMask (s.reg (spillReg r)) d w.rw)) ∧
  (∀ (time : Nat) (init : Init) (a : Nat) (d : Word) (s : State) (g : Nat × Nat), ringGuard a = some g →
    accepts s init a true = true →
    (s.bit g.1 g.2 = true → Runs (.ringConfigWrite time init a d) s fun t => t.reg a = s.reg a) ∧
    (s.bit g.1 g.2 = false → Runs (.ringConfigWrite time init a d) s fun t => ∃ w, regRow a = some w ∧ t.reg a = mergeMask (s.reg a) d w.rw)) ∧
  (∀ (time : Nat) (init : Init) (c : Fin 2) (d : Word) (s : State), accepts s init (Reg.mcAddrMap c) true = true →
    Runs (.addrMapWrite time init c d) s fun t =>
      t.reg (Reg.mcAddrMap 0) = (if c = 0 ∧ mcRun s 0 = false ∧ mcRun s 1 = false then BitVec.ofNat 32 (bitsOf d 0 2)
        else s.reg (Reg.mcAddrMap 0))) ∧
  (∀ (time : Nat) (init : Init) (u : Fin 2) (d : Word) (s : State), accepts s init (Reg.ulSerdesTx u) true = true →
    (bitsOf d 16 6 < bitsOf d 0 5 + bitsOf d 8 5 → Runs (.serdesTxWrite time init u d) s fun t =>
      t.reg (Reg.ulSerdesTx u) = s.reg (Reg.ulSerdesTx u)) ∧
    (bitsOf d 0 5 + bitsOf d 8 5 ≤ bitsOf d 16 6 → Runs (.serdesTxWrite time init u d) s fun t => t.fld (Reg.ulSerdesTx u) 0 5 = bitsOf d 0 5 ∧
        t.fld (Reg.ulSerdesTx u) 8 5 = bitsOf d 8 5 ∧ t.fld (Reg.ulSerdesTx u) 16 6 = bitsOf d 16 6)) ∧
  (∀ (time : Nat) (init : Init) (x : Radio) (d : Word) (s : State), accepts s init (Reg.rdFemTiming (rIdx x)) true = true →
    let ok := decide (bitsOf d 8 6 ≤ bitsOf d 16 6) && decide (bitsOf d 0 6 + 2 ≤ bitsOf d 8 6) && decide (2 ≤ bitsOf d 0 6)
    (ok = false → Runs (.femTimingWrite time init x d) s fun t => t.reg (Reg.rdFemTiming (rIdx x)) = s.reg (Reg.rdFemTiming (rIdx x))) ∧
    (ok = true → Runs (.femTimingWrite time init x d) s fun t => ∀ k, k < 3 → t.fld (Reg.rdFemTiming (rIdx x)) (8 * k) 6 = bitsOf d (8 * k) 6)) ∧
  (∀ (time : Nat) (init : Init) (b : Fin 16) (d : Word) (s : State), accepts s init (Reg.dutyBandLimit b) true = true →
    Runs (.bandLimitWrite time init b d) s fun t =>
      t.regN (Reg.dutyBandLimit b) = min d.toNat (s.regN (Reg.dutyBandCap b)) ∧ t.duty = s.duty)

/-- TM_ADMIT of the frame at the head of PD28: with a retired tag or a failed condition of admission it queues nothing, and counts
at RETIRED or at the register of the first failed condition; else ENQ counts, and a frame of one word stands last in its queue
with its reservation, on chip or spilled. TM_END_WORD with the end word readable makes the frame whole and returns the cells it
did not need, on chip and in the spill region; an ABORT discards a frame of which no word has left, and marks one that is leaving.
GH_RECORD_TAKE takes a whole record that could be admitted, with P71 and its reference counted, and leaves one that could not,
with GH_STALL. -/
def Obligations.AdmissionPlacesOrDropsFrames : Prop :=
  (∀ (time : Nat) (s : State) (w : PWord) (r : List PWord), (s.pound 28).ready = w :: r → islUp s 5 = true → s.tm.openFid = none →
    let res := reservation w.info.len
    let place := admitPlace s w.info.fq res
    (tagSlot s w.info.tag = none → Runs (.tmAdmit time) s fun t =>
      t.tm.nextFid = s.tm.nextFid + 1 ∧ t.tm.frames = s.tm.frames ∧
      t.pair Reg.genRetiredLo = (s.pair Reg.genRetiredLo + 1) % 2 ^ 48 ∧ t.pair Reg.tmEnqLo = s.pair Reg.tmEnqLo) ∧
    (tagSlot s w.info.tag ≠ none → ∀ q ∈ [Reg.tmDropDisabled, Reg.tmDropNobarge, Reg.tmDropQlim, Reg.tmDropNobuf,
        Reg.tmDropNospill], place = .drop q → barge s s.tm.nextFid = none → Runs (.tmAdmit time) s fun t =>
      t.tm.nextFid = s.tm.nextFid + 1 ∧ t.tm.frames = s.tm.frames ∧ t.regN q = min (s.regN q + 1) 0xFFFFFFFF ∧
      t.pair Reg.tmEnqLo = s.pair Reg.tmEnqLo) ∧
    (tagSlot s w.info.tag ≠ none → place = .chip ∨ place = .spill → Runs (.tmAdmit time) s fun t =>
      t.tm.nextFid = s.tm.nextFid + 1 ∧ t.tm.openFid = some s.tm.nextFid ∧ t.pair Reg.tmEnqLo = (s.pair Reg.tmEnqLo + 1) % 2 ^ 48) ∧
    (tagSlot s w.info.tag ≠ none → place = .chip ∨ place = .spill → w.last = true → Runs (.tmAdmit time) s fun t =>
      t.tm.frames.length = s.tm.frames.length + 1 ∧
      (t.tm.frames.getLast?.map fun f => (f.fid, f.fq, f.tag, f.cells, f.spilled)) =
        some (s.tm.nextFid, w.info.fq, w.info.tag, res, decide (place = .spill)))) ∧
  (∀ (time : Nat) (s : State) (f : TmFrame), s.tm.frames.find? (fun f => decide (s.tm.openFid = some f.fid)) = some f →
    ∀ (w : PWord) (r : List PWord), (s.pound 28).ready = w :: r → islUp s 5 = true → w.last = true → f.aborted = false →
    f.data.length + w.data.length ≤ 16383 →
    let n := min f.cells (max 1 (ceilDiv (f.data.length + w.data.length) 256))
    (w.abort = false → Runs (.tmEndWord time f.fid) s fun t => t.tm.openFid = none ∧
      t.tm.frames = s.tm.frames.map (fun x => if x.fid = f.fid then
        { f with data := f.data ++ w.data, whole := true, cells := n, spillAt := f.spillAt.take n } else x)) ∧
    (w.abort = true → f.started = false ∨ f.sent = 0 → Runs (.tmEndWord time f.fid) s fun t => t.tm.openFid = none ∧
      t.tm.frames = s.tm.frames.filter (fun x => decide (x.fid ≠ f.fid)) ∧
      t.regN Reg.tmDropAbort = min (s.regN Reg.tmDropAbort + 1) 0xFFFFFFFF) ∧
    (w.abort = true → f.started = true → f.sent ≠ 0 → Runs (.tmEndWord time f.fid) s fun t => t.tm.openFid = none ∧
      t.regN Reg.tmTxAbort = min (s.regN Reg.tmTxAbort + 1) 0xFFFFFFFF ∧ t.bit Reg.tmIrqRaw 5 = true ∧
      (barge t f.fid).any (fun g => g.whole && g.aborted && decide (g.data = f.data ++ w.data)) = true)) ∧
  (∀ (time : Nat) (s : State) (p : List PWord × List PWord), splitPacket (s.pound 31).ready = some p → (s.pound 31).taken = [] →
    islUp s 5 = true → replaying s = false →
    (ghBlocked s = false → ∀ k : Nat, curSlot s = some k → p.1.getLast?.any (·.abort) = false →
      Runs (.ghRecordTake time) s fun t =>
        t.tm.frames.length = s.tm.frames.length + 1 ∧ t.pair Reg.tmEnqLo = (s.pair Reg.tmEnqLo + 1) % 2 ^ 48 ∧
        t.pair (Reg.tmPortTxLo 71) = (s.pair (Reg.tmPortTxLo 71) + 1) % 2 ^ 48 ∧
        t.pair (Reg.tmPortTxbLo 71) = (s.pair (Reg.tmPortTxbLo 71) + (wordsData p.1).length) % 2 ^ 48 ∧
        (∀ j, j < 4 → tagSlot s (curTag s) = some j → t.regN (Reg.genSlotRef j) = (s.regN (Reg.genSlotRef j) + 1) % 2 ^ 32)) ∧
    (ghBlocked s = true → Runs (.ghRecordTake time) s fun t =>
      t.tm = { s.tm with ghStall := true } ∧ t.pound 31 = s.pound 31 ∧ bitOf (rawOf t Reg.tmIrqRaw) 4 = true))

/-- SPILL_WRITE_DONE stores a whole spilled frame's bytes in its spill cells and keeps the cells it needs. SPILL_FETCH begins the
fetch of the first spilled frame, written and not yet fetched, among the first four of its queue where the fetch pool has room for
it, and does nothing where it has not. SPILL_FETCH_DONE makes the frame complete with the bytes its cells hold, which are given
up; with an error response the frame is dropped, DROP_DRAM counts, and SPILL_DRAM is raised. -/
def Obligations.SpilledFramesComeBack : Prop :=
  (∀ (time fid : Nat) (s : State) (f : TmFrame), barge s fid = some f → islUp s 5 = true →
    let bad := fun (c : Nat) (write : Bool) => (dramFault (s.at time) (spillOff s c) 256 write).isSome
    (f.spilled = true → f.whole = true → f.written = false →
      (Runs (.spillWriteDone time fid) s fun t =>
        t.tm.frames = s.tm.frames.map (fun x => if x.fid = f.fid then { f with written := true, spillAt := f.spillAt.take f.cells } else x) ∧
        (∀ o, outRing s o = true → (∀ c ∈ f.spillAt, ¬(spillOff s c ≤ o ∧ o < spillOff s c + 256)) →
          memGet t.dram o = memGet s.dram o)) ∧
      (∀ c : Nat, f.spillAt = [c] → bad c true = false → Runs (.spillWriteDone time fid) s fun t =>
        ∀ i, i < f.data.length → i < 256 → outRing s (spillOff s c + i) = true →
          memGet t.dram (spillOff s c + i) = f.data.getD i 0)) ∧
    (f.fetch = 1 →
      (∀ ok : Bool, ok = false ∨ f.spillAt.any (fun c => bad c false) = true → Runs (.spillFetchDone time fid ok) s fun t =>
        t.tm.frames = s.tm.frames.filter (fun x => decide (x.fid ≠ f.fid)) ∧
        t.regN Reg.tmDropDram = min (s.regN Reg.tmDropDram + 1) 0xFFFFFFFF ∧ t.bit Reg.tmIrqRaw 3 = true) ∧
      (f.spillAt.any (fun c => bad c false) = false → Runs (.spillFetchDone time fid true) s fun t =>
        t.tm.frames = s.tm.frames.map (fun x => if x.fid = f.fid then
          { f with data := spillLoad s f.spillAt f.data.length, fetch := 2, spillAt := [] } else x)))) ∧
  (∀ (time : Nat) (fq : Fin 32768) (s : State) (f : TmFrame),
    ((fqFrames s fq).take 4).find? (fun f => f.spilled && f.written && decide (f.fetch = 0)) = some f → islUp s 5 = true →
    let free := 2048 - (s.tm.frames.map (fun f => if f.fetch = 0 then 0 else f.cells)).sum
    (f.cells ≤ free → Runs (.spillFetch time fq) s fun t =>
      t.tm.frames = s.tm.frames.map (fun x => if x.fid = f.fid then { f with fetch := 1 } else x)) ∧
    (free < f.cells → Runs (.spillFetch time fq) s fun t => t.tm = s.tm))

/-- PORT_SELECT at a wired port or the CPU port without a frame under way, whose pound has room and none of whose heads must be
dropped, starts the head of the queue that the subtree chooses, where a wired port may select; at a radio port a reserved frame of
the run it builds; with no room it selects nothing. FRAME_EGRESS_COMPLETE of a frame whose last word has room ends it: the frame
leaves, DEQ and the port's counters count it, its reference is released, and the buckets of its flow queue are charged with its
length and OVH. TM_REQUEST, 20 ns after the one before, makes the request that the player owes for the earliest start: EMPTY,
counted, for a station without subscriber, and else the bytes reserved, never above the limit; that of a hit comes first.
BKT_LEVEL_READ answers the selected bucket's level refilled to DT. -/
def Obligations.PortsSelectAndChargeFrames : Prop :=
  (∀ (time : Nat) (p : Fin 72) (s : State) (q : Nat), egressPound p = some q → islUp s 5 = true →
    let now := s.at time
    let ready := fun k => if p.val < 66 then wiredReady now p k else (match fqHead now k with
      | none => false
      | some f => storedReady f && pathEligible now k p)
    (selFrame s p = none → egressRoom s p q = false ∨ (p.val < 66 ∧ maySelect now p = false) →
      Runs (.portSelect time p) s fun t => t.tm = s.tm ∧ t.pound q = s.pound q) ∧
    (selFrame s p = none → egressRoom s p q = true → p.val < 66 ∨ p.val = 69 → (p.val < 66 → maySelect now p = true) →
      (∀ k ∈ portFqs s p, dropHead s p k = none) → ∀ k : Nat, (pick now 4 p ((portFqs s p).filter ready)).1 = some k →
      ∀ f : TmFrame, fqHead s k = some f → Runs (.portSelect time p) s fun t =>
        bankGet (fun _ => none) t.tm.sel p = some f.fid ∧ (barge t f.fid).any (·.started) = true ∧
        ∀ j, j ≠ q → isTap j = false ∨ tapsOff s = true → t.pound j = s.pound j) ∧
    (∀ f : TmFrame, selFrame s p = some f → f.whole = true → f.aborted = false → f.data.length - f.sent ≤ wordWidth s q →
      egressRoom s p q = true →
      let len : Int := f.data.length + portOvh s p
      Runs (.frameEgressComplete time p) s fun t =>
        t.tm.frames = s.tm.frames.filter (fun x => decide (x.fid ≠ f.fid)) ∧ bankGet (fun _ => none) t.tm.sel p = none ∧
        t.pair Reg.tmDeqLo = (s.pair Reg.tmDeqLo + 1) % 2 ^ 48 ∧
        t.pair (Reg.tmPortTxLo p) = (s.pair (Reg.tmPortTxLo p) + 1) % 2 ^ 48 ∧
        t.pair (Reg.tmPortTxbLo p) = (s.pair (Reg.tmPortTxbLo p) + f.data.length) % 2 ^ 48 ∧
        (t.pound q).flight = (s.pound q).flight ++ [egressWord p (wordWidth s q) f true] ∧
        (∀ k, k < 4 → tagSlot s f.tag = some k → tagRetired s f.tag = false →
          t.regN (Reg.genSlotRef k) = (s.regN (Reg.genSlotRef k) + 2 ^ 32 - 1) % 2 ^ 32 ∨ s.regN (Reg.genSlotRef k) = 0) ∧
        (nodeLive s 0 f.fq = true → 0 ≤ len → ∀ pk, pk < 2 → bktUnshaped s 0 f.fq pk = false →
          bktLevel t 0 f.fq pk t.dt = bktLevel now 0 f.fq pk now.dt - len * 8000000))) ∧
  (∀ (time : Nat) (x : Radio) (s : State) (e : Nat × TmFrame), reservedNext s (rIdx x) = some e → islUp s 5 = true →
    selFrame s (radioPort (rIdx x)) = none → tagSlot s e.2.tag ≠ none → ∀ (p : Fin 72) (q : Nat), egressPound p = some q →
    p.val = radioPort (rIdx x) → egressRoom s p q = true →
    Runs (.portSelect time p) s fun t =>
      bankGet (fun _ => none) t.tm.sel p = some e.2.fid ∧
      (barge t e.2.fid).any (fun f => f.started && decide (f.info.staIdx = e.1)) = true) ∧
  (∀ (time : Nat) (x : Radio) (sta : Fin 4096) (limit : Nat) (s : State),
    let i := rIdx x
    let u := askAbove (s.at time) i
    ((u.airOf i).asks.any (fun k => decide (u.dt < k.last + 20)) = true → Runs (.tmRequest time x sta limit) s fun t => t.tm = u.tm) ∧
    (islUp u 5 = true → (u.airOf i).asks.any (fun k => decide (u.dt < k.last + 20)) = false →
    (∀ w : Wake, (u.airOf i).wake = some w → w.asked = false → w.sta = sta → staKind u w.sta ≠ 2 → Runs (.tmRequest time x sta limit) s fun t =>
      (t.tm.ans.drop u.tm.ans.length).map (fun a => (a.radio, a.start, a.user, a.sta)) = [(i, w.hitAt, 0, w.sta)] ∧
      (t.airOf i).wake = some { w with asked := true }) ∧
    ((u.airOf i).wake.all (·.asked) = true → ∀ o : OwedAsk, firstOwed u i = some o → ∀ v : AirUser, o.users[o.count]? = some v →
      v.sta = sta → v.limit = limit → staKind u v.sta ≠ 2 →
      (Runs (.tmRequest time x sta limit) s fun t => asked t i o.start = asked u i o.start + 1) ∧
      (staSub u v.sta = none → Runs (.tmRequest time x sta limit) s fun t =>
        t.tm.ans = u.tm.ans ++ [⟨i, o.start, o.count, v.sta, none, []⟩] ∧ t.tm.frames = u.tm.frames ∧
        t.regN (Reg.tmPortEmpty (radioPort i)) = min (u.regN (Reg.tmPortEmpty (radioPort i)) + 1) 0xFFFFFFFF) ∧
      (∀ sub : Nat, staSub u v.sta = some sub → mayDraw u i sub = true →
        (subReady (dropRetiredOf sub (askCount u i o.start)) i sub).isEmpty = false → linkDown u v.sta i = false →
        nstrHeld u v.sta i = false → pnSpent u v.sta = false →
        let r := reserveMore i sub v.limit u.tm.frames.length 0 [] (askCount u i o.start)
        Runs (.tmRequest time x sta limit) s fun t =>
          t.tm.ans = u.tm.ans ++ [⟨i, o.start, o.count, v.sta, some r.1, r.2.1⟩] ∧ r.1 ≤ v.limit)))) ∧
  (∀ (time : Nat) (init : Init) (s : State), accepts s init Reg.tmBktLevel false = true →
    Runs (.bktLevelRead time init) s fun t =>
      let lvl := if 4 < s.fld Reg.tmBktSel 16 3 then 0 else s.fld Reg.tmBktSel 16 3
      t.resp = .data (if nodeLive s lvl (s.fld Reg.tmBktSel 0 15) = false then 0
        else if bktUnshaped s lvl (s.fld Reg.tmBktSel 0 15) (s.fld Reg.tmBktSel 20 1) then 0x7FFFFFFF
        else BitVec.ofInt 32 (bktLevel s lvl (s.fld Reg.tmBktSel 0 15) (s.fld Reg.tmBktSel 20 1) (s.at time).dt / 8000000)))

/-- AIR_ENTRY_FIRE of an entry that is due, with no entry in play, once the radios above it have named the stations of their own
firings of the cycle, makes checks 1 to 4 in order: an entry that passes them is in play; the first that fails counts at
FORFEIT_CNT of its cause with FORFEIT raised. A LISTEN entry has its window computed and the checks left to the window's opening,
and one that an entry listed earlier overlaps waits for its forfeit without play. AIR_ENTRY_END at the end of the entry takes it
out of play, and of the answers to the radio's requests it keeps only those for a later start or for a hit. DUTY_BIN_ROLL keeps
exactly the bins of the last 3,600 seconds, and the ledger's use does not change. -/
def Obligations.AirEntriesFireOrAreForfeited : Prop :=
  (∀ (time : Nat) (x : Radio) (e : Fin 4096) (s : State), fireDue (s.at time) (rIdx x) e = true →
    let i := rIdx x
    let u := namesFirst (s.at time) i
    let p := playOf u i e
    let lapped := overlapped (curImg u) i e (roundIdx u)
    let off := radioOff u i
    let names := nameStations u (entryNames (curImg u) p.ty p.arg)
    let tunes := decide (u.dt = p.start) && decide (synState u i = 3)
    (u.airOf i).play = none →
    (p.ty ≠ 3 → off = false → lapped = false → names.isSome = true → 5 ≤ p.ty ∨ synthNotReady u i p.chan = false →
      Runs (.airEntryFire time x e) s fun t => e.val ∈ (t.airOf i).fired ∧
        ((t.airOf i).play.map fun q => (q.entry, q.start, q.stop, q.forfeit)) = some (e.val, p.start, p.stop, false)) ∧
    (p.ty = 3 → lapped = false → Runs (.airEntryFire time x e) s fun t =>
      e.val ∈ (t.airOf i).fired ∧ ((t.airOf i).play.map fun q => (q.entry, q.forfeit)) = some (e.val, false) ∧
      ((t.airOf i).listen.map fun l => (l.sta, l.entry, l.named, l.opened)) =
        some (p.arg, e.val, (nameStations u [p.arg]).isSome, false)) ∧
    (p.ty = 3 → lapped = true → Runs (.airEntryFire time x e) s fun t =>
      e.val ∈ (t.airOf i).fired ∧ (t.airOf i).play = none ∧ (t.airOf i).lapped.length = (u.airOf i).lapped.length + 1 ∧
      ((t.airOf i).lapped.getLast?.map fun l => (l.sta, l.entry, l.opened)) = some (p.arg, e.val, false)) ∧
    ∀ c : Nat, p.ty ≠ 3 →
      (if off then some 0 else if lapped then some 1 else if names.isNone then some 2
        else if p.ty < 5 ∧ tunes = false ∧ synthNotReady u i p.chan = true then some 3 else none) = some c →
      Runs (.airEntryFire time x e) s fun t =>
        e.val ∈ (t.airOf i).fired ∧ t.regN (Reg.airForfeitCnt i c) = min (u.regN (Reg.airForfeitCnt i c) + 1) 0xFFFFFFFF ∧
        t.bit (Reg.airIrqRaw i) 0 = true ∧ (t.airOf i).play.all (·.forfeit) = true) ∧
  (∀ (time : Nat) (x : Radio) (s : State) (p : AirPlay), (s.airOf (rIdx x)).play = some p → p.stop ≤ (s.at time).dt →
    Runs (.airEntryEnd time x) s fun t =>
      (t.airOf (rIdx x)).play = none ∧ (t.airOf (rIdx x)).fired = (s.airOf (rIdx x)).fired ∧
      ∀ a ∈ t.tm.ans, a.radio = rIdx x → p.stop ≤ a.start ∨ (s.airOf (rIdx x)).wake.map (·.hitAt) = some a.start) ∧
  (∀ (time : Nat) (s : State), Runs (.dutyBinRoll time) s fun t =>
    t.duty.rsv = s.duty.rsv ∧ (∀ b, b < 16 → bandUsed t b = bandUsed (s.at time) b) ∧
    (∀ k : Nat, bankGet (fun _ => 0) t.duty.bins k =
      if dutySec s (s.at time).dt < k / 16 + 3600 then bankGet (fun _ => 0) s.duty.bins k else 0))

/-- For a transmit path that is ready, each of these asks for a run with checks 5 to 8 made (Judged): EXCHANGE_START and
TX_REQUEST of the player, for the beacon of a BCN entry, the Trigger frame or the multi-user PPDU of a TRIG entry, and the next
station with something to get of an SP entry; RAW_SLOT_START, for the station of a slot of a restricted access window; EDCA_ACCESS
and TX_REQUEST of an EDCA function, in a CONTEND entry, for a function that has counted down with none of higher priority ready,
and its TXOP; IMMEDIATE_RESPONSE and TX_REQUEST of the MAC, for the responses due of a PPDU, which are then due no more. -/
def Obligations.ExchangesPassTheirChecks : Prop :=
  (∀ (time : Nat) (x : Radio) (air : Airtime) (s : State),
    ∀ cw ∈ [(Instr.exchangeStart time x air, namesFirst (s.at time) (rIdx x)), (Instr.txRequest time x .player air, s.at time)],
    let i := rIdx x
    let u := fillEntry (stockAll cw.2 i) i
    let v := dropRest u i
    ∀ p : AirPlay, (u.airOf i).play = some p → p.forfeit = false → u.dt < p.stop → mayExchange u i = true → txReady v i = true →
    let us := playUsers u i p
    (p.ty = 0 → p.begun = false →
      Judged cw.1 s v i (runOf u i .beacon [{ user := { sta := 0 }, want := 1, held := 1 }] air p.stop false) (Reg.airForfeitCnt i)) ∧
    (p.ty = 1 → p.begun = false → p.filled = true → p.flags % 2 = 1 → us ≠ [] →
      Judged cw.1 s v i (runOf u i .trigger us air p.stop false) (Reg.airForfeitCnt i)) ∧
    (p.ty = 1 → p.begun = false → p.filled = true → p.flags % 2 = 0 → us.filter (fun k => decide (k.want ≠ 0)) ≠ [] →
      Judged cw.1 s v i (runOf u i .mu (us.filter (fun k => decide (k.want ≠ 0))) air p.stop false) (Reg.airForfeitCnt i)) ∧
    (p.ty = 2 → p.filled = true → ∀ k : TxUser, us.find? (fun k => decide (k.want ≠ 0)) = some k →
      Judged cw.1 s v i (runOf u i .sp [k] air p.stop true) (Reg.airForfeitCnt i))) ∧
  (∀ (time slot : Nat) (air : Airtime) (s : State),
    let u := stockAll (s.at time) 2
    let v := dropRest u 2
    ∀ p : AirPlay, (u.airOf 2).play = some p → p.ty = 2 → p.forfeit = false → nbits p.flags 1 1 = 1 → mayExchange u 2 = true →
    txReady v 2 = true →
    let l := listEntries (curImg u) p.arg
    let us := (p.stop - p.start) / (1000 * max 1 l.length)
    let a := p.start + 1000 * us * slot
    let k := txUserOf u 2 (userOf (curImg u) (l.getD slot 0)) (answerOf u 2 a 0)
    slot < l.length → a ≤ u.dt → u.dt < a + 1000 * us → p.slots.contains slot = false → asked u 2 a ≠ 0 → k.want ≠ 0 →
    Judged (.rawSlotStart time slot air) s v 2 (runOf u 2 .raw [k] air (a + 1000 * us) false) (Reg.airForfeitCnt 2)) ∧
  (∀ (time : Nat) (x : Radio) (ac : Fin 4) (air : Airtime) (s : State),
    ∀ c ∈ [Instr.edcaAccess time x ac air, Instr.txRequest time x (.edca ac) air],
    let i := rIdx x
    let u := stockAll (s.at time) i
    let v := dropRest u i
    ∀ p : AirPlay, (u.airOf i).play = some p → ∀ set : Nat, (u.airOf i).edcaSet = some set → ∀ a : Nat, acPeer u i ac = some a →
    p.ty = 4 → p.forfeit = false → u.dt < p.stop → mayExchange u i = true → edcaOpen u i ac air.edFrom = true →
    (∀ b, b < 4 → [1, 0, 2, 3].getD ac 0 < [1, 0, 2, 3].getD b 0 → edcaOpen u i b air.edFrom = false ∨ acPeer u i b = none) →
    txReady v i = true →
    let n := edcaFld u set ac 16 12
    let z := if n = 0 then p.stop else min p.stop (u.dt + 32000 * n)
    Judged c s v i { runOf u i .edca [acUser u i a] air z false with ac := ac } (Reg.airForfeitCnt i)) ∧
  (∀ (time : Nat) (x : Radio) (air : Airtime) (s : State),
    ∀ c ∈ [Instr.immediateResponse time x air, Instr.txRequest time x .mac air],
    let i := rIdx x
    let u := stockAll (s.at time) i
    let l := respDue u i
    ∀ p : AirPlay, (u.airOf i).play = some p → l ≠ [] → dueNow u i = true → respSilent u i = false → p.forfeit = false →
    let r := respRun u i l p.stop air
    let w := u.setRadio i { u.radio i with due := [] }
    let v := if r.kind = .multi then w else dropRest w i
    (txReady v i = true → Judged c s v i r (fun _ => Reg.rdRespRefused i)) ∧
    (txState u i ≠ 0 → Runs c s fun t => txState t i = txState s i ∧
      t.regN (Reg.rdRespRefused i) = min (s.regN (Reg.rdRespRefused i) + 1) 0xFFFFFFFF)) ∧
  (∀ (time : Nat) (x : Radio) (air : Airtime) (s : State),
    ∀ c ∈ [Instr.immediateResponse time x air, Instr.txRequest time x .mac air],
    Runs c s fun t => (t.radio (rIdx x)).due = [])

/-- LISTEN_WINDOW_OPEN makes checks 1, 3 and 4: the window opens, or the first failed check counts as a forfeit and the window is
gone; an overlapped window that is due is forfeited beside the entry in play. LISTEN_MISS of a closed window without a reception
counts a miss and, with DRIFT_EN, adds S to SPAN, and the third miss of a TRACK record puts it into REACQ. ASR_WRITE, ASR_RESET
and ASR_READ, while no command is in progress, act on the record at once, or are deferred while the station's window is open or
its hit is not settled. ASR_CMD_DEFERRED_APPLY then ends the command. A record outside the ranges is not written, with its error.
-/
def Obligations.ListenWindowsAndStationRecords : Prop :=
  (∀ (time : Nat) (x : Radio) (s : State) (l : Listen), (s.airOf (rIdx x)).listen = some l →
    ∀ p : AirPlay, (s.airOf (rIdx x)).play = some p → (s.airOf (rIdx x)).lapped = [] → l.opened = false → l.opn ≤ (s.at time).dt →
    let i := rIdx x
    let fails : Option Nat := if radioOff s i then some 0 else if l.named = false then some 2
      else if synthNotReady (s.at time) i p.chan then some 3 else none
    (fails = none → Runs (.listenWindowOpen time x) s fun t =>
      (t.airOf i).listen = some { l with opened := true, since := (s.at time).dt } ∧ (t.airOf i).play = some p) ∧
    (∀ c : Nat, fails = some c → Runs (.listenWindowOpen time x) s fun t =>
      (t.airOf i).listen = none ∧ (t.airOf i).play = some { p with forfeit := true } ∧
      t.regN (Reg.airForfeitCnt i c) = min (s.regN (Reg.airForfeitCnt i c) + 1) 0xFFFFFFFF ∧
      (driftOn s i = true → l.sta < 4096 → asrSpan t i l.sta = min (asrSpan s i l.sta + stationS s i l) 0xFFFFFFFF))) ∧
  (∀ (time : Nat) (x : Radio) (s : State) (l : Listen), (s.airOf (rIdx x)).lapped = [l] → (s.airOf (rIdx x)).listen = none →
    l.opn ≤ (s.at time).dt →
    let i := rIdx x
    let c := if radioOff s i then 0 else 1
    Runs (.listenWindowOpen time x) s fun t => (t.airOf i).lapped = [] ∧ (t.airOf i).listen = none ∧
      (t.airOf i).play = (s.airOf i).play ∧
      t.regN (Reg.airForfeitCnt i c) = min (s.regN (Reg.airForfeitCnt i c) + 1) 0xFFFFFFFF ∧ t.bit (Reg.airIrqRaw i) 0 = true ∧
      (driftOn s i = true → l.sta < 4096 → asrSpan t i l.sta = min (asrSpan s i l.sta + stationS s i l) 0xFFFFFFFF)) ∧
  (∀ (time : Nat) (x : Radio) (s : State) (l : Listen), (s.airOf (rIdx x)).listen = some l → l.opened = true →
    l.cls ≤ (s.at time).dt → windowReception s (rIdx x) l = false →
    let i := rIdx x
    Runs (.listenMiss time x) s fun t =>
      (t.airOf i).listen = none ∧ t.regN (Reg.airMissCnt i) = min (s.regN (Reg.airMissCnt i) + 1) 0xFFFFFFFF ∧
      (driftOn s i = false → ∀ k, k < 8 → t.reg (Reg.airAsrD i l.sta + 4 * k) = s.reg (Reg.airAsrD i l.sta + 4 * k)) ∧
      (driftOn s i = true → l.sta < 4096 → asrSpan t i l.sta = min (asrSpan s i l.sta + stationS s i l) 0xFFFFFFFF) ∧
      (driftOn s i = true → l.sta < 4096 → asrState s i l.sta = 1 → s.fld (Reg.airAsrStat i l.sta) 4 2 = 2 →
        asrState t i l.sta = 0 ∧ t.regN (Reg.airReacqCnt i) = min (s.regN (Reg.airReacqCnt i) + 1) 0xFFFFFFFF)) ∧
  (∀ (time : Nat) (init : Init) (x : Radio) (a : Fin 4096) (s : State), accepts s init (Reg.airAsrCmd (rIdx x)) true = true →
    s.bit (Reg.airAsrCmdStat (rIdx x)) 0 = false →
    let i := rIdx x
    let w := fun k => s.reg (Reg.airAsrStage i k)
    let bad := decide (s.fld (Reg.airDMax i) 0 20 < (signed 24 (w 0).toNat).natAbs ∨
      s.fld (Reg.airGMax i) 0 16 < (signed 16 (w 1).toNat).natAbs)
    (∀ oc ∈ [(1, Instr.asrWrite time init x a), (2, Instr.asrReset time init x a), (3, Instr.asrRead time init x a)],
      asrHeld (s.at time) i a = true → Runs oc.2 s fun t =>
      t.bit (Reg.airAsrCmdStat i) 0 = true ∧ t.bit (Reg.airAsrCmdStat i) 1 = true ∧
      (t.airOf i).cmd = some ⟨oc.1, a, (List.range 8).map w⟩ ∧
      ∀ k, k < 8 → t.reg (Reg.airAsrD i a + 4 * k) = s.reg (Reg.airAsrD i a + 4 * k)) ∧
    (asrHeld (s.at time) i a = false → bitsOf (w 3) 0 2 = 3 ∨ bad = true → Runs (.asrWrite time init x a) s fun t =>
      t.fld (Reg.airAsrCmdStat i) 4 3 = (if bitsOf (w 3) 0 2 = 3 then 1 else 2) ∧
      ∀ k, k < 8 → t.reg (Reg.airAsrD i a + 4 * k) = s.reg (Reg.airAsrD i a + 4 * k)) ∧
    (asrHeld (s.at time) i a = false → bitsOf (w 3) 0 2 ≠ 3 → bad = false → Runs (.asrWrite time init x a) s fun t =>
      t.fld (Reg.airAsrCmdStat i) 4 3 = 0 ∧ asrD t i a = signed 24 (w 0).toNat ∧ asrG t i a = signed 16 (w 1).toNat ∧
      asrV t i a = bitsOf (w 2) 0 16 ∧ t.reg (Reg.airAsrAnchLo i a) = w 4 ∧ t.reg (Reg.airAsrSpan i a) = w 6) ∧
    (asrHeld (s.at time) i a = false → Runs (.asrReset time init x a) s fun t => t.fld (Reg.airAsrCmdStat i) 4 3 = 0 ∧
      t.fld (Reg.airAsrD i a) 0 24 = s.fld (Reg.airPriorD i) 0 24 ∧ asrG t i a = 0 ∧
      asrV t i a = s.fld (Reg.airPriorV i) 0 16 ∧ asrState t i a = 0 ∧ asrSpan t i a = 0) ∧
    (asrHeld (s.at time) i a = false → Runs (.asrRead time init x a) s fun t => t.fld (Reg.airAsrCmdStat i) 4 3 = 0 ∧
      ∀ k, k < 8 → t.reg (Reg.airAsrStage i k) = s.reg (Reg.airAsrD i a + 4 * k))) ∧
  (∀ (time : Nat) (x : Radio) (s : State) (c : AsrCmd), (s.airOf (rIdx x)).cmd = some c → asrHeld (s.at time) (rIdx x) c.sta = false →
    Runs (.asrCmdDeferredApply time x) s fun t =>
      (t.airOf (rIdx x)).cmd = none ∧ t.bit (Reg.airAsrCmdStat (rIdx x)) 0 = false ∧ t.bit (Reg.airAsrCmdStat (rIdx x)) 1 = false ∧
      (c.op = 3 → c.sta < 4096 → ∀ k, k < 8 → t.reg (Reg.airAsrStage (rIdx x) k) = s.reg (Reg.airAsrD (rIdx x) c.sta + 4 * k)))

/-- While no command is in progress, STA_WRITE of VALID = 0 and STA_REMOVE empty the entry, its windows, its key slots and its
addresses, with RESULT 0 or NOT_VALID; STA_WRITE of VALID = 1 ends with BAD_FIELD or AID_CLASH and no change, or with an error of
the index and the entry removed, or installs the entry with LINK_UP equal to LINKS and every address findable. STA_READ and
STA_READ_TID show an entry and a sequence space. KEY_CMD installs or empties the slot that KEY_CTRL names where its result is OK,
changes no slot otherwise, and clears KEY_DATA. -/
def Obligations.StationCommandsKeepTheTable : Prop :=
  (∀ (time : Nat) (init : Init) (a : Fin 4096) (s : State), accepts s init Reg.staStaCmd true = true →
    s.bit Reg.staStaCmdStat 0 = false →
    let w := fun k => s.regN (Reg.staStaStage k)
    let emptied := fun (t : State) => staValid t a = false ∧
      pairKey t a 0 = {} ∧ pairKey t a 1 = {} ∧ (∀ sp, sp < 10 → spaceOf t a sp = {}) ∧
      t.sta.index.all (fun e => decide (e.2.map (·.2) ≠ some a.val)) = true ∧ (∀ b, b < 4096 → b ≠ a.val → staEntry t b = staEntry s b)
    let gone := fun (t : State) => t.fld Reg.staStaCmdStat 4 3 = (if staValid s a then 0 else 5) ∧ emptied t
    (w 0 % 2 = 0 → Runs (.staWrite time init a) s fun t => gone t) ∧
    (Runs (.staRemove time init a) s fun t => gone t) ∧
    (w 0 % 2 = 1 → badField w = true → Runs (.staWrite time init a) s fun t =>
      t.fld Reg.staStaCmdStat 4 3 = 4 ∧ t.sta = s.sta) ∧
    (w 0 % 2 = 1 → badField w = false → aidClash s a w = true → Runs (.staWrite time init a) s fun t =>
      t.fld Reg.staStaCmdStat 4 3 = 3 ∧ t.sta = s.sta) ∧
    (w 0 % 2 = 1 → badField w = false → aidClash s a w = false →
      (staValid s a = true → sameIdentity s a w = true → Runs (.staWrite time init a) s fun t =>
        t.fld Reg.staStaCmdStat 4 3 = 0 ∧ staEntry t a = entryOf w (staWord s a) ∧ t.sta.index = s.sta.index) ∧
      (staValid s a = false ∨ sameIdentity s a w = false →
        let r := (indexAll w a (entryRadios w) (removeEntry (s.at time) a)).1
        (r = 0 → Runs (.staWrite time init a) s fun t =>
          t.fld Reg.staStaCmdStat 4 3 = 0 ∧ staValid t a = true ∧ staFld t a 0 6 3 = nbits (w 0) 3 3 ∧
          staFld t a 0 3 3 = nbits (w 0) 3 3 ∧ staKind t a = nbits (w 0) 1 2 ∧
          (staValid s a = false → t.fld Reg.staStaStat 0 13 = (s.fld Reg.staStaStat 0 13 + 1) % 2 ^ 13) ∧
          ∀ x ∈ entryRadios w, lookupTa t x (txAddrOf w x) = some a.val)) ∧
      (staValid s a = false ∨ sameIdentity s a w = false →
        let r := (indexAll w a (entryRadios w) (removeEntry (s.at time) a)).1
        r ≠ 0 → Runs (.staWrite time init a) s fun t => t.fld Reg.staStaCmdStat 4 3 = r ∧ emptied t)) ∧
    (Runs (.staRead time init a) s fun t => t.fld Reg.staStaCmdStat 4 3 = (if staValid s a then 0 else 5) ∧ t.sta = s.sta ∧
      ∀ k, k < 16 → t.regN (Reg.staStaStage k) = staWord s a k) ∧
    (∀ (sp : Fin 16) (kid : Bool), Runs (.staReadTid time init a sp kid) s fun t =>
      t.fld Reg.staStaCmdStat 4 3 = (if staValid s a then 0 else 5) ∧ t.sta = s.sta ∧
      t.regN (Reg.staTidStage 0) = ((spaceOf s a sp).ws.getD 0 + 65536 * (spaceOf s a sp).txSn) % 2 ^ 32 ∧
      t.regN (Reg.staTidStage 3) = (spaceOf s a sp).held.length % 2 ^ 32)) ∧
  (∀ (time : Nat) (init : Init) (s : State), accepts s init Reg.staKeyCmd true = true → s.bit Reg.staKeyStat 0 = false →
    let ix := s.fld Reg.staKeyCtrl 0 12
    let kid := s.fld Reg.staKeyCtrl 12 3
    let suite := s.fld Reg.staKeyCtrl 18 2
    let r := keyResult s (s.bit Reg.staKeyCtrl 15) (s.bit Reg.staKeyCtrl 16) ix kid suite
    Runs (.keyCmd time init 1) s fun t =>
      t.fld Reg.staKeyStat 4 3 = r ∧ (∀ k, k < 8 → t.reg (Reg.staKeyData k) = 0) ∧ (r ≠ 0 → t.sta = s.sta) ∧
      (r = 0 → s.bit Reg.staKeyCtrl 15 = false → pairKey t ix kid =
        if suite = 0 then {} else { stagedKey s suite with tx := s.regN Reg.staKeyPnLo + 2 ^ 32 * s.fld Reg.staKeyPnHi 0 16 }) ∧
      (r = 0 → s.bit Reg.staKeyCtrl 15 = true → s.bit Reg.staKeyCtrl 16 = false → suite ≠ 0 →
        bankGet (fun _ => {}) t.sta.group (ix % 4 * 8 + kid) =
          { stagedKey s suite with tx := s.regN Reg.staKeyPnLo + 2 ^ 32 * s.fld Reg.staKeyPnHi 0 16 }))

/-- REORDER_TIMEOUT with the oldest held frame waiting for RO_TO, ahead of the window start: it is held no longer, nor is any
frame before it, the window start leaves every frame it passed, nothing received stands at the new one, and each hole skipped
counts under FLUSH. RESPONSE_TIMEOUT of a peer that owes an answer on a radio that receives nothing, once the time for it has
passed: its MPDUs on the air await retransmission while RETRY_LIM allows, what was lost under an agreement asks for a BlockAckReq,
and the peer owes that answer no more; FAIL of the link rises where no PPDU has started since, and at LINK_FAIL.N the link goes
down. Before that time the command has no effect. -/
def Obligations.HeldAndUnansweredMpdusTimeOut : Prop :=
  (∀ (time : Nat) (a : Fin 4096) (tid : Fin 8) (s : State) (h : Held) (r : List Held),
    (spaceOf s a tid).held.mergeSort (fun h k => decide (h.since ≤ k.since)) = h :: r →
    h.since + 1000000 * staFld s a 8 24 8 ≤ (s.at time).dt → ∀ ws : Nat, (spaceOf s a tid).ws = some ws →
    let w := spaceOf s a tid
    let n := snDist ws h.m.sn.toNat
    n < 2048 → w.held.all (fun k => decide (k.x < 3)) = true →
    Runs (.reorderTimeout time a tid) s fun t =>
      (∀ k ∈ (spaceOf t a tid).held, k ∈ w.held ∧ k.m.sn ≠ h.m.sn ∧ n < snDist ws k.m.sn.toNat) ∧
      (∃ v, (spaceOf t a tid).ws = some v ∧ (spaceOf t a tid).got.contains v = false) ∧
      t.regN (Reg.staRxCnt h.x 7) =
        min (s.regN (Reg.staRxCnt h.x 7) + (n + 1 - (w.got.filter (fun g => decide (snDist ws g ≤ n))).length)) 0xFFFFFFFF) ∧
  (∀ (time : Nat) (x : Radio) (a : Fin 4096) (s : State), (s.radio (rIdx x)).await.contains a.val = true →
    (s.radio (rIdx x)).awaitTo ≤ (s.at time).dt → receiving s (rIdx x) = false →
    let lim := max 1 (s.fld Reg.staRetryLim 0 5)
    let mine := (sentOf s (rIdx x)).filter (fun m => decide (m.sta = a.val))
    let fails := min 255 (staFld s a 11 (8 * rIdx x) 8 + 1)
    (Runs (.responseTimeout time x a) s fun t =>
      sentOf t (rIdx x) = (sentOf s (rIdx x)).filter (fun m => !decide (m.sta = a.val)) ∧
      t.sta.retry = s.sta.retry ++ mine.filter (fun m => decide (m.tries < lim)) ∧
      (∀ m ∈ mine, lim ≤ m.tries → txAgreed s m.sta m.space = true → (m.sta, m.space) ∈ t.sta.bars) ∧
      (t.radio (rIdx x)).await = (s.radio (rIdx x)).await.erase a.val) ∧
    (staValid s a = true → staKind s a < 2 → ppduSince s (rIdx x) = false →
      Runs (.responseTimeout time x a) s fun t => staFld t a 11 (8 * rIdx x) 8 = fails ∧
        (max 1 (s.fld Reg.staLinkFail 0 8) ≤ fails → staUp t a (rIdx x) = false)) ∧
    (ppduSince s (rIdx x) = true → Runs (.responseTimeout time x a) s fun t => staEntry t a = staEntry s a)) ∧
  (∀ (time : Nat) (x : Radio) (a : Fin 4096) (s : State), (s.at time).dt < (s.radio (rIdx x)).awaitTo →
    Runs (.responseTimeout time x a) s fun t => t.rd = s.rd ∧ t.sta = s.sta ∧ t.air = s.air)

/-- PARENT_TBTT_DEADLINE past an unmet TBTT of the parent moves to the next TBTT; where the radio was receiving at the TBTT it is
a miss, MISS_RUN rises, and the third declares the link lost: LOST and its bit of LOSS_STATE are set and LINK_UP is clear.
PARENT_LOSS_CLEAR clears the bits written 1 and LOST of their radios. LOSS_SW_WRITE sets the software bits of LOSS_STATE.
UPLINK_RESTORE_TIMER clears an uplink's bit after RESTORE.UL_MS. FALLBACK_EVAL that is due takes LOSS_STATE as the vector of the
table. -/
def Obligations.LossesFollowTheParentAndTheUplinks : Prop :=
  (∀ (time : Nat) (x : Radio) (s : State) (p : Nat), meshParent s = some p → ∀ l : ParentLink, parentLink s (rIdx x) = some l →
    rIdx x < 2 → staLink s p (rIdx x) = true → parentDt l (l.tbtt + s.fld Reg.staPbcnLate 0 16) < ((s.at time).dt : Int) →
    let seen := wasReceiving s (rIdx x) (parentDt l l.tbtt)
    let n := min 3 (s.fld (parentStat (rIdx x)) 0 2 + 1)
    (Runs (.parentTbttDeadline time x) s fun t => parentLink t (rIdx x) = some { l with tbtt := l.tbtt + max 1 l.interval }) ∧
    (seen = false → Runs (.parentTbttDeadline time x) s fun t =>
      t.reg (parentStat (rIdx x)) = s.reg (parentStat (rIdx x)) ∧ lossState t = lossState s) ∧
    (seen = true → Runs (.parentTbttDeadline time x) s fun t => t.fld (parentStat (rIdx x)) 0 2 = n) ∧
    (seen = true → n = 3 → s.bit (parentStat (rIdx x)) 4 = false → Runs (.parentTbttDeadline time x) s fun t =>
      t.bit (parentStat (rIdx x)) 4 = true ∧ t.bit Reg.staLossState (2 + rIdx x) = true ∧ staUp t p (rIdx x) = false) ∧
    (seen = true → n ≠ 3 → Runs (.parentTbttDeadline time x) s fun t =>
      t.bit (parentStat (rIdx x)) 4 = s.bit (parentStat (rIdx x)) 4 ∧ lossState t = lossState s)) ∧
  (∀ (time : Nat) (init : Init) (d : Word) (s : State), accepts s init Reg.staLossState true = true →
    Runs (.parentLossClear time init d) s fun t =>
      (∀ x, x < 2 → t.bit Reg.staLossState (2 + x) = (s.bit Reg.staLossState (2 + x) && !bitOf d (2 + x))) ∧
      (∀ x, x < 2 → s.bit Reg.staLossState (2 + x) = true → bitOf d (2 + x) = true → t.bit (parentStat x) 4 = false) ∧
      ∀ i, i < 2 → t.bit Reg.staLossState i = s.bit Reg.staLossState i) ∧
  (∀ (time : Nat) (init : Init) (d : Word) (s : State), accepts s init Reg.staLossSw true = true →
    Runs (.lossSwWrite time init d) s fun t =>
      t.fld Reg.staLossState 8 8 = bitsOf d 8 8 ∧ t.fld Reg.staLossState 0 4 = s.fld Reg.staLossState 0 4 ∧ t.sta.fbDue = true) ∧
  (∀ (time : Nat) (u : Fin 2) (s : State) (d : Nat), bankGet (fun _ => none) s.sta.ulUp u = some d →
    s.bit Reg.staLossState u = true → d + 1000000 * max 1 (s.fld Reg.staRestore 0 16) ≤ (s.at time).dt →
    Runs (.uplinkRestoreTimer time u) s fun t =>
      t.bit Reg.staLossState u = false ∧ t.sta.fbDue = true ∧
      ∀ i, i < 4 → i ≠ u.val → t.bit Reg.staLossState i = s.bit Reg.staLossState i) ∧
  (∀ (time : Nat) (s : State), s.sta.fbDue = true → Runs (.fallbackEval time) s fun t =>
    t.sta = { s.sta with fbVec := lossState s, fbDue := false })

/-- SYNTH_TUNE_REQUEST that is due (the radio up, no entry in play, the next entry on the channel and no more than the maximum
settle time ahead) warms the synthesiser up from OFF for the channel, moves the channel of a warm-up, and settles a LOCKED one
anew on another channel. SYNTH_WARM_DONE after 8 µs leads to SETTLE, SYNTH_LOCK to LOCKED, from which a request held goes on and a
CAL entry may begin its step; SYNTH_SETTLE_TIMEOUT after 100 µs to FAULT with SYNTH_UNLOCK and its fault, SYNTH_UNLOCK in LOCKED
to SETTLE with SYNTH_UNLOCK and a PPDU in ON ended, and SYNTH_FAULT_RESTART after 10 µs to WARM. RD_STAT.LOCKED follows the state,
and in WARM every FEM line is low. -/
def Obligations.SynthesisersFollowTheirStates : Prop :=
  (∀ (time : Nat) (x : Radio) (c : Fin 16) (s : State), tuneDue (s.at time) (rIdx x) c = true →
    (synState s (rIdx x) = 0 → Runs (.synthTuneRequest time x c) s fun t =>
      synState t (rIdx x) = 1 ∧ radioChan t (rIdx x) = c.val ∧ (t.radio (rIdx x)).synAt = (s.at time).dt) ∧
    (synState s (rIdx x) = 1 → Runs (.synthTuneRequest time x c) s fun t =>
      synState t (rIdx x) = 1 ∧ radioChan t (rIdx x) = c.val) ∧
    (synState s (rIdx x) = 3 → radioChan s (rIdx x) ≠ c.val → Runs (.synthTuneRequest time x c) s fun t =>
      synState t (rIdx x) = 2 ∧ radioChan t (rIdx x) = c.val ∧ t.bit (Reg.rdRdStat (rIdx x)) 16 = false)) ∧
  (∀ (time : Nat) (x : Radio) (s : State), synState s (rIdx x) = 1 → (s.radio (rIdx x)).synAt + 8000 ≤ (s.at time).dt →
    Runs (.synthWarmDone time x) s fun t => synState t (rIdx x) = 2 ∧ (t.radio (rIdx x)).synAt = (s.at time).dt) ∧
  (∀ (time : Nat) (x : Radio) (s : State), synState s (rIdx x) = 2 →
    ((s.airOf (rIdx x)).play.all (fun p => decide (p.ty ≠ 6)) = true → Runs (.synthLock time x) s fun t =>
      synState t (rIdx x) = 3 ∧ t.bit (Reg.rdRdStat (rIdx x)) 16 = true) ∧
    (txState s (rIdx x) = 1 → (s.radio (rIdx x)).run ≠ none → Runs (.synthLock time x) s fun t =>
      synState t (rIdx x) = 3 ∧ txState t (rIdx x) ≠ 1) ∧
    (Runs (.synthLock time x) s fun t =>
      synState t (rIdx x) = 3 ∨ (synState t (rIdx x) = 4 ∧ (t.radio (rIdx x)).cal ≠ none)) ∧
    ((s.radio (rIdx x)).synAt + 100000 ≤ (s.at time).dt → Runs (.synthSettleTimeout time x) s fun t =>
      synState t (rIdx x) = 5 ∧ t.bit (Reg.rdIrqRaw (rIdx x)) 0 = true ∧ t.bit (Reg.rdRdStat (rIdx x)) 16 = false ∧
      t.regN (Reg.rdSynUnlock (rIdx x)) = min (s.regN (Reg.rdSynUnlock (rIdx x)) + 1) 0xFFFFFFFF ∧
      t.bit Reg.fltFltStat 2 = true)) ∧
  (∀ (time : Nat) (x : Radio) (s : State), synState s (rIdx x) = 3 →
    (Runs (.synthUnlock time x) s fun t =>
      synState t (rIdx x) = 2 ∧ t.bit (Reg.rdIrqRaw (rIdx x)) 0 = true ∧
      t.regN (Reg.rdSynUnlock (rIdx x)) = min (s.regN (Reg.rdSynUnlock (rIdx x)) + 1) 0xFFFFFFFF) ∧
    (txState s (rIdx x) = 4 → (s.radio (rIdx x)).run ≠ none → Runs (.synthUnlock time x) s fun t => txState t (rIdx x) = 5)) ∧
  (∀ (time : Nat) (x : Radio) (s : State), synState s (rIdx x) = 5 → (s.radio (rIdx x)).synAt + 10000 ≤ (s.at time).dt →
    Runs (.synthFaultRestart time x) s fun t => synState t (rIdx x) = 1 ∧ (t.radio (rIdx x)).blankOut = {} ∧
      ∀ c, c < chainCount (rIdx x) → (rdChain t (rIdx x) c).txEn = {} ∧ (rdChain t (rIdx x) c).paEn = {} ∧
        (rdChain t (rIdx x) c).rxEn = {})

/-- CAL_STEP_END of a step that has run its length, of which 4 µs may be left for the settle back, records the completion of a
chain's last step (TXGAIN not on a chain with SLOPE 0); a background step unblinds its chain and moves its position on; a step of
a set moves the set's position on, beginning anew after the last; one of a mandatory kind moves that kind's position, and its last
clears the kind, and MAND with the last kind. BG_CAL_STEP_START, where every condition of R278 holds, starts the next RXDC step in
chain order, and its chain alone is blanked. TEMP_SAMPLE stores the temperature, and on Radios H and M makes TXIQ and DPD
mandatory on a calibrated channel whose temperature moved by more than TEMP_THR from the one recorded for a kind that is not yet
pending. -/
def Obligations.CalibrationStepsRunInTheirOrder : Prop :=
  (∀ (time : Nat) (x : Radio) (s : State) (c : CalStep), (s.radio (rIdx x)).cal = some c →
    let i := rIdx x
    let n := radioChan s i
    c.stop ≤ (s.at time).dt + (if synState s i = 4 then 4000 else 0) →
    (c.last = true → c.kind < 6 → c.chain < 4 → c.kind ≠ 4 ∨ s.fld (Reg.rdPdetCal i c.chain) 16 16 ≠ 0 →
      Runs (.calStepEnd time x) s fun t => nbits (bankGet (fun _ => 0) (t.radio i).calDone n) (4 * c.kind + c.chain) 1 = 1) ∧
    (c.bg = true → Runs (.calStepEnd time x) s fun t =>
      (t.radio i).cal = none ∧ (rdChain t i c.chain).blind = false ∧ (t.radio i).bgPos = (s.radio i).bgPos + 1) ∧
    (c.bg = false → (s.airOf i).play = none → Runs (.calStepEnd time x) s fun t => (t.radio i).cal = none) ∧
    (c.bg = false → synState s i = 4 → Runs (.calStepEnd time x) s fun t => synState t i = 2) ∧
    (c.bg = false → c.mand = false → Runs (.calStepEnd time x) s fun t =>
      calPosOf t i c.set = if (setSteps s i c.set).length ≤ c.pos + 1 then 0 else c.pos + 1) ∧
    (c.bg = false → c.mand = true → c.kind < 6 → c.pos + 1 < (kindSteps i c.kind).length → Runs (.calStepEnd time x) s fun t =>
      mandAt t i n c.kind = c.pos + 1) ∧
    (c.bg = false → c.mand = true → c.kind < 6 → (kindSteps i c.kind).length ≤ c.pos + 1 →
      bankGet (fun _ => none) (s.radio i).calCeil n = some (chanCeiling s i n) → Runs (.calStepEnd time x) s fun t =>
        mandAt t i n c.kind = 0 ∧ nbits (mandKinds t i n) c.kind 1 = 0 ∧
        (∀ k, k < 6 → k ≠ c.kind → nbits (mandKinds t i n) k 1 = nbits (mandKinds s i n) k 1) ∧
        mandPending t i n = decide (mandKinds t i n ≠ 0))) ∧
  (∀ (time : Nat) (x : Radio) (s : State) (p : AirPlay), (s.airOf (rIdx x)).play = some p →
    let i := rIdx x
    let k := (s.radio i).bgPos
    ∀ c : Fin 4, (enabledChains s i)[k / 2 % max 1 (enabledChains s i).length]? = some c.val →
    p.ty = 4 → p.forfeit = false → s.bit (Reg.rdBgCal i) 0 = true → (s.radio i).cal = none → synState s i = 3 → txState s i = 0 →
    (mediumIdleFrom (s.at time) i 0).any (fun a => decide (a + 1000 * s.fld (Reg.rdBgCal i) 16 16 ≤ (s.at time).dt)) = true →
    radioReady (s.at time) i = false → (s.at time).dt + 4000 ≤ p.stop →
    Runs (.bgCalStepStart time x c) s fun t =>
      (rdChain t i c).blind = true ∧ wireNow t (rdChain t i c).byp = true ∧
      (∀ d, d < 4 → d ≠ c.val → rdChain t i d = rdChain s i d) ∧ synState t i = 3 ∧
      (t.radio i).cal = some ⟨0, c, decide (k % 2 = 1), (s.at time).dt + 4000, true, false, k, 0⟩) ∧
  (∀ (time : Nat) (x : Radio) (v : BitVec 12) (s : State), islUp s (8 + rIdx x) = true →
    let i := rIdx x
    let thr : Nat := 8 * max 1 (s.fld (Reg.rdTempThr i) 0 8)
    let far := fun (n k j : Nat) => (bankGet (fun _ => none) (s.radio i).calTemp j).any (fun w =>
      decide (nbits (mandKinds s i n) k 1 = 0) && decide (thr < (signed 12 v.toNat - w).natAbs))
    let moved := fun n => far n 3 (2 * n) || far n 5 (2 * n + 1)
    (Runs (.tempSample time x v) s fun t => t.fld (Reg.rdTemp i) 0 12 = v.toNat) ∧
    (∀ n, n < 16 → i < 2 → s.bit (Reg.rdCalStat i) (16 + n) = true → moved n = true → Runs (.tempSample time x v) s fun t =>
      mandKinds t i n = mandKinds s i n ||| 40 ∧ mandPending t i n = true ∧ t.bit (Reg.rdIrqRaw i) 5 = true) ∧
    (∀ n, n < 16 → i = 2 ∨ s.bit (Reg.rdCalStat i) (16 + n) = false ∨ moved n = false → Runs (.tempSample time x v) s fun t =>
      mandKinds t i n = mandKinds s i n))

/-- TX_HOLD_EXPIRE of a request held for HOLD_NS, or past its entry, without a lock in its cycle, counts HOLD_FAIL and forfeits
the entry. FEM_LEAD_IN in LEAD moves the line it names once its instant before T0 has come, with the synthesiser out of OFF and
WARM. TX_START at T0, with nothing blanking the radio in that cycle, enters ON with the PPDU built and the FEM lines set for
transmission; a source that blanks it refuses the start with BLANK_DEFER. TX_LAST_SAMPLE enters TAIL: PA enable falls 0.2, TXEN
0.4 and BLANK_OUT 1.6 µs later, PA_US of every enabled chain is charged, and the peers whose response the PPDU solicits are
awaited. TX_TIMEOUT at MAX_TX_US, unless the last sample comes in its cycle, ends the PPDU, counts TX_TIMEOUT and leaves no MPDU
on the air. TX_TAIL_END 1.6 µs after the last sample returns to IDLE, and keeps the run while PPDUs are left. -/
def Obligations.TransmitPathsFollowTheirStates : Prop :=
  ∀ (time : Nat) (x : Radio) (s : State) (r : TxRun), (s.radio (rIdx x)).run = some r →
    let i := rIdx x
    let now := s.at time
    let stops := pinBlanks now i || partnerReceives now i || sigSoon now i || pinSoon now i
    (txState s i = 1 → (∀ d, Instr.synthLock d x ∉ sameCycle now) → (s.airOf i).play.all (fun p => decide (p.stop ≤ now.dt)) = true ∨
        r.since + s.fld (Reg.rdHoldNs i) 0 16 ≤ now.dt →
      Runs (.txHoldExpire time x) s fun t =>
        txState t i = 0 ∧ (t.radio i).run = none ∧ (t.airOf i).play.all (·.forfeit) = true ∧
        t.regN (Reg.rdHoldFail i) = min (s.regN (Reg.rdHoldFail i) + 1) 0xFFFFFFFF) ∧
    (txState s i = 3 → 2 ≤ synState s i → ∀ l : FemLine, txT0 s i r.start - femLead s i l ≤ now.dt →
      (l = .blankOut → Runs (.femLeadIn time x l) s fun t => wireNow t (t.radio i).blankOut = true) ∧
      (l = .rxOff → rxState s i ≠ 3 → Runs (.femLeadIn time x l) s fun t =>
        ∀ c ∈ enabledChains s i, wireNow t (rdChain t i c).rxEn = false) ∧
      (l = .txEn → Runs (.femLeadIn time x l) s fun t => ∀ c ∈ enabledChains s i, wireNow t (rdChain t i c).txEn = true) ∧
      (l = .paEn → Runs (.femLeadIn time x l) s fun t => ∀ c ∈ enabledChains s i, wireNow t (rdChain t i c).paEn = true) ∧
      (Runs (.femLeadIn time x l) s fun t => txState t i = 3 ∧ (t.radio i).run = some r ∧
        (l ≠ .blankOut → (t.radio i).blankOut = (s.radio i).blankOut) ∧
        ∀ c, (l ≠ .txEn → (rdChain t i c).txEn = (rdChain s i c).txEn) ∧ (l ≠ .paEn → (rdChain t i c).paEn = (rdChain s i c).paEn))) ∧
    (txState s i = 3 → txT0 s i r.start ≤ now.dt → stops = false →
      (Runs (.txStart time x) s fun t => txState t i = 4 ∧ (t.radio i).air ≠ none ∧ ((t.radio i).run.map (·.rest)) = some r.rest) ∧
      (2 ≤ synState s i → Runs (.txStart time x) s fun t => wireNow t (t.radio i).blankOut = true ∧
        ∀ c ∈ enabledChains s i, wireNow t (rdChain t i c).txEn = true ∧ wireNow t (rdChain t i c).paEn = true ∧
          (rxState s i ≠ 3 → wireNow t (rdChain t i c).rxEn = false)) ∧
      (respKind r.kind = false → Runs (.txStart time x) s fun t => (t.airOf i).play.all (·.begun) = true)) ∧
    (txState s i = 3 → txT0 s i r.start ≤ now.dt → stops = true → Runs (.txStart time x) s fun t =>
      txState t i = 0 ∧ (t.radio i).run = none ∧ t.regN (Reg.rdBlankDefer i) = min (s.regN (Reg.rdBlankDefer i) + 1) 0xFFFFFFFF) ∧
    (txState s i = 4 →
      (∀ codes : List (Nat × Nat), (Runs (.txLastSample time x codes) s fun t =>
          txState t i = 5 ∧ ((t.radio i).run.map (·.rest)) = some (r.rest.drop 1) ∧
          wireNow { t with dt := now.dt + 1600 } (t.radio i).blankOut = false ∧
          (∀ c ∈ enabledChains s i, wireNow { t with dt := now.dt + 200 } (rdChain t i c).paEn = false ∧
            wireNow { t with dt := now.dt + 400 } (rdChain t i c).txEn = false) ∧
          t.pair (Reg.rdPaUsLo i) = (s.pair (Reg.rdPaUsLo i) +
            ceilDiv (now.dt + 200 - r.paAt.getD r.since) 1000 * (enabledChains s i).length) % 2 ^ 48) ∧
        (∀ a : AirPpdu, (s.radio i).air = some a → respKind r.kind = false ∨ r.kind = .wake →
          Runs (.txLastSample time x codes) s fun t => (t.radio i).await = soughtBy a (sentOf s i))) ∧
      (∀ m : Nat, maxTxUs s (curImg s) i (radioChan s i) = some m → r.paAt.getD r.since + 1000 * m ≤ now.dt →
        (∀ d l, Instr.txLastSample d x l ∉ sameCycle now) →
        Runs (.txTimeout time x) s fun t =>
          txState t i = 5 ∧ (∀ c ∈ enabledChains s i, wireNow t (rdChain t i c).paEn = false) ∧ sentOf t i = [] ∧
          t.bit (Reg.rdIrqRaw i) 1 = true ∧ t.regN (Reg.rdTxTimeout i) = min (s.regN (Reg.rdTxTimeout i) + 1) 0xFFFFFFFF)) ∧
    (txState s i = 5 → r.since + 1600 ≤ now.dt →
      Runs (.txTailEnd time x) s fun t => txState t i = 0 ∧ (t.radio i).run = if r.rest.isEmpty then none else some r)

/-- BLANK_IN_ASSERT shows the pin on every radio; on a radio that it is routed to and where it was not shown, a start still in
LEAD is refused with BLANK_DEFER, and in ABORT mode a PPDU in ON ends with BLANK_ABORT. BLANK_IN_RELEASE clears the pin of a radio
once 100 ns and its hold-off have passed since it fell, and keeps it until then. BLANK_WINDOW_FIRE of a window that covers DT
refuses a start in LEAD on the radios it names. TUNER_WRITE of a chain that waits, in an opportunity with the bus free, shifts out
its codes: LE of the chain is low, and 16 bits, the most significant first, follow at 0.1 µs each with the rising edge of CLK in
the middle. TUNER_REG_WRITE stores the codes of Radio L, to be applied, and ends the search; Radios H and M ignore it. -/
def Obligations.BlankingStopsStartsAndTunersAreWritten : Prop :=
  (∀ (time : Nat) (pin : Fin 4) (s : State) (x : Nat), x < 3 →
    let hit := pinRouted s pin x && !s.bit (Reg.rdBlankStat x) pin
    (Runs (.blankInAssert time pin) s fun t => t.bit (Reg.rdBlankStat x) pin = true) ∧
    (hit = false → Runs (.blankInAssert time pin) s fun t => txState t x = txState s x) ∧
    (hit = true → txState s x = 3 → (s.radio x).run ≠ none → Runs (.blankInAssert time pin) s fun t => txState t x = 0 ∧
      t.regN (Reg.rdBlankDefer x) = min (s.regN (Reg.rdBlankDefer x) + 1) 0xFFFFFFFF) ∧
    (hit = true → txState s x = 4 → nbits (pinWord s pin) 4 1 = 1 → (s.radio x).run ≠ none → Runs (.blankInAssert time pin) s fun t =>
      txState t x = 5 ∧ t.bit (Reg.rdIrqRaw x) 6 = true ∧
      t.regN (Reg.rdBlankAbort x) = min (s.regN (Reg.rdBlankAbort x) + 1) 0xFFFFFFFF)) ∧
  (∀ (time : Nat) (pin : Fin 4) (fell : Nat) (s : State) (x : Nat), x < 3 →
    let since := (bankGet (fun _ => none) (s.radio x).fell pin).getD (min fell (s.at time).dt)
    (Runs (.blankInRelease time ⟨pin, fell⟩) s fun t => txState t x = txState s x ∧
      ∀ q, q < 4 → q ≠ pin.val → t.bit (Reg.rdBlankStat x) q = s.bit (Reg.rdBlankStat x) q) ∧
    (s.bit (Reg.rdBlankStat x) pin = true → since + 100 + s.fld (Reg.rdBlankCtrl x) 0 16 ≤ (s.at time).dt →
      Runs (.blankInRelease time ⟨pin, fell⟩) s fun t => t.bit (Reg.rdBlankStat x) pin = false) ∧
    (s.bit (Reg.rdBlankStat x) pin = true → (s.at time).dt < since + 100 + s.fld (Reg.rdBlankCtrl x) 0 16 →
      Runs (.blankInRelease time ⟨pin, fell⟩) s fun t => t.bit (Reg.rdBlankStat x) pin = true ∧
        bankGet (fun _ => none) (t.radio x).fell pin = some since)) ∧
  (∀ (time : Nat) (w : Fin 64) (s : State) (x : Nat), x < 3 → (curSlot s).isSome = true → w.val < (iTbl (curImg s) 0x12).count →
    let o := (iTbl (curImg s) 0x12).off + 64 + 16 * w.val
    s.gen.bdy + i32 (curImg s) (o + 4) ≤ (s.at time).dt →
    (s.at time).dt < s.gen.bdy + i32 (curImg s) (o + 4) + i32 (curImg s) (o + 8) →
    (blankWindow (curImg s) x w (roundIdx s) = true → txState s x = 3 → (s.radio x).run ≠ none →
      Runs (.blankWindowFire time w) s fun t => txState t x = 0 ∧
        t.regN (Reg.rdBlankDefer x) = min (s.regN (Reg.rdBlankDefer x) + 1) 0xFFFFFFFF) ∧
    (blankWindow (curImg s) x w (roundIdx s) = false → Runs (.blankWindowFire time w) s fun t => txState t x = txState s x)) ∧
  (∀ (time : Nat) (c : Fin 2) (s : State), (rdChain s 2 c).pend = true → islUp s 10 = true → receiving s 2 = false →
    txState s 2 ≠ 3 → txState s 2 ≠ 4 → (s.radio 2).tun.all (fun u => decide (u.2.2 + 1800 ≤ (s.at time).dt)) = true →
    let w := s.fld (Reg.rdTuner 2 c) 0 11
    Runs (.tunerWrite time c) s fun t =>
      rdChain t 2 c = { rdChain s 2 c with pend := false, shown := w } ∧ t.reg (Reg.rdTuner 2 c) = s.reg (Reg.rdTuner 2 c) ∧
      ∀ k d : Nat, k < 16 → d < 100 →
        let l := tunerLines { t with dt := (s.at time).dt + 100 + 100 * k + d }
        l.1 c = false ∧ l.2.1 = decide (nbits w (15 - k) 1 = 1) ∧ l.2.2 = decide (50 ≤ d)) ∧
  (∀ (time : Nat) (init : Init) (x : Radio) (c : Fin 2) (d : Word) (s : State), accepts s init (Reg.rdTuner (rIdx x) c) true = true →
    (x = .l → Runs (.tunerRegWrite time init x c d) s fun t =>
      t.fld (Reg.rdTuner 2 c) 0 10 = bitsOf d 0 10 ∧ (rdChain t 2 c).pend = true ∧ (rdChain t 2 c).searching = false) ∧
    (x ≠ .l → Runs (.tunerRegWrite time init x c d) s fun t => t.reg (Reg.rdTuner (rIdx x) c) = s.reg (Reg.rdTuner (rIdx x) c)))

/-- While the receive path stays in LISTEN: MODEM_ARM, once the modem may be armed, leads to IDLE. PREAMBLE_DETECT of a preamble
that has persisted for the window at or above PD_THR leads to DETECT with REF and counts PD_CNT; otherwise nothing happens.
LTF_TIMING fixes the timestamp, less RX_DELAY_NS, and leads to SIG; DETECT_TIMEOUT counts PD_FALSE and returns to IDLE. SIG_CHECK
of a valid SIG keeps the medium busy for what it announces, and leads to UNCONF with the channel estimated where the modem
supports the PPDU, and otherwise counts UNSUPP and returns to IDLE; one that fails counts SIG_FAIL. RX_CONFIRM leads to DATA.
FRESH_PREAMBLE, after what comes first in its cycle, counts PD_CNT, and where its rise reaches the threshold of the reception's
state it counts the kind of drop and detects anew. -/
def Obligations.ReceptionsFollowTheModem : Prop :=
  (∀ (time : Nat) (x : Radio) (s : State), rxState s (rIdx x) = 1 → mdmState s (rIdx x) = 5 →
    (s.radio (rIdx x)).armAt ≤ (s.at time).dt →
    Runs (.modemArm time x) s fun t => mdmState t (rIdx x) = 0 ∧ rxState t (rIdx x) = 1) ∧
  (∀ (time : Nat) (x : Radio) (since : Nat) (p : BitVec 12) (s : State), mdmState s (rIdx x) = 0 →
    (detected (s.at time) (rIdx x) since p = true → listens (s.at time) (rIdx x) = true →
      (Runs (.preambleDetect time x ⟨since, p⟩) s fun t =>
        mdmState t (rIdx x) = 1 ∧ t.bit (Reg.mdmStat (rIdx x)) 16 = true ∧
        t.regN (Reg.mdmPdCnt (rIdx x)) = min (s.regN (Reg.mdmPdCnt (rIdx x)) + 1) 0xFFFFFFFF ∧
        ((t.radio (rIdx x)).rx.map fun r => (r.since, r.ref)) = some ((s.at time).dt, p.toInt)) ∧
      (p.toInt % 4 = 0 → -512 ≤ p.toInt → p.toInt < 512 → Runs (.preambleDetect time x ⟨since, p⟩) s fun t =>
        signed 8 (t.fld (Reg.mdmStat (rIdx x)) 8 8) = p.toInt / 4)) ∧
    (detected (s.at time) (rIdx x) since p = false → Runs (.preambleDetect time x ⟨since, p⟩) s fun t =>
      mdmState t (rIdx x) = 0 ∧ t.reg (Reg.mdmPdCnt (rIdx x)) = s.reg (Reg.mdmPdCnt (rIdx x)) ∧ t.rd = s.rd)) ∧
  (∀ (time : Nat) (x : Radio) (arrival : Nat) (ltf : LtfObs) (s : State) (r : RxRun), (s.radio (rIdx x)).rx = some r →
    mdmState s (rIdx x) = 1 →
    (Runs (.ltfTiming time x ⟨arrival, ltf⟩) s fun t =>
      mdmState t (rIdx x) = 2 ∧ ((t.radio (rIdx x)).rx.map fun q => (q.ts, q.ltf, q.ref)) =
        some (arrival - s.fld (Reg.mdmRxDelayNs (rIdx x)) 0 12, some ltf, r.ref)) ∧
    (r.since + (if x = .l then 360000 else 16000) ≤ (s.at time).dt → listens (s.at time) (rIdx x) = true →
      Runs (.detectTimeout time x) s fun t =>
        mdmState t (rIdx x) = 0 ∧ (t.radio (rIdx x)).rx = none ∧
        t.regN (Reg.mdmPdFalse (rIdx x)) = min (s.regN (Reg.mdmPdFalse (rIdx x)) + 1) 0xFFFFFFFF)) ∧
  (∀ (time : Nat) (x : Radio) (g : SigInfo) (s : State) (r : RxRun), (s.radio (rIdx x)).rx = some r → mdmState s (rIdx x) = 2 →
    listens (s.at time) (rIdx x) = true →
    let i := rIdx x
    (Runs (.sigCheck time x (.valid g)) s fun t => (t.radio i).busyTo = max (s.radio i).busyTo (r.ts + g.lenNs)) ∧
    (supported s i g = true → Runs (.sigCheck time x (.valid g)) s fun t => mdmState t i = 3 ∧
      (t.radio i).rx = some { r with stop := r.ts + g.lenNs, sig := some g, est := r.ltf.map (chanEst (bitOf r.ctrl 2) g r.blind) }) ∧
    (supported s i g = false → Runs (.sigCheck time x (.valid g)) s fun t => mdmState t i = 0 ∧ (t.radio i).rx = none ∧
      t.regN (Reg.mdmUnsupp i) = min (s.regN (Reg.mdmUnsupp i) + 1) 0xFFFFFFFF) ∧
    (Runs (.sigCheck time x .fail) s fun t => mdmState t i = 0 ∧ (t.radio i).rx = none ∧
      t.regN (Reg.mdmSigFail i) = min (s.regN (Reg.mdmSigFail i) + 1) 0xFFFFFFFF)) ∧
  (∀ (time : Nat) (x : Radio) (s : State), mdmState s (rIdx x) = 3 →
    Runs (.rxConfirm time x) s fun t => mdmState t (rIdx x) = 4 ∧ (t.radio (rIdx x)).rx = (s.radio (rIdx x)).rx) ∧
  (∀ (time : Nat) (x : Radio) (since : Nat) (p : BitVec 12) (s : State), mdmState s (rIdx x) ≠ 5 →
    detected (s.at time) (rIdx x) since p = true →
    let i := rIdx x
    let u := freshFirst (s.at time) i
    ∀ r : RxRun, (u.radio i).rx = some r → mdmState u i ≠ 5 →
    (freshKind (mdmState u i) r (p.toInt - r.ref) i = none → Runs (.freshPreamble time x since p) s fun t =>
      mdmState t i = mdmState u i ∧ (t.radio i).rx = some r ∧ t.regN (Reg.mdmPdCnt i) = min (u.regN (Reg.mdmPdCnt i) + 1) 0xFFFFFFFF) ∧
    (∀ q : Nat, freshKind (mdmState u i) r (p.toInt - r.ref) i = some q → listens u i = true →
      Runs (.freshPreamble time x since p) s fun t =>
        t.regN q = min (u.regN q + 1) 0xFFFFFFFF ∧ t.regN (Reg.mdmPdCnt i) = min (u.regN (Reg.mdmPdCnt i) + 1) 0xFFFFFFFF ∧
        mdmState t i = 1 ∧ ((t.radio i).rx.map fun q => (q.since, q.ref)) = some ((s.at time).dt, p.toInt)))

/-- PPDU_RX_END at the end that SIG announced, after those of Radio H in its cycle, counts the MPDUs with a good FCS, those with a
bad one and the delimiter errors, holds the report of the PPDU with the carrier offset of its tracking, the detected symbols and
each code word's iterations, and writes PEER_Q of each transmitter it knows; with no reception at its end, it hands over what a
dropped reception kept, for which no response falls due. LAST_Q0_READ answers the report's first word and latches the whole report
into LAST_Q1, LAST_TS and LAST_CFO, but for the debug module. NF_PERIOD_END writes the noise floor of each enabled chain with at
least 1 ms of idle samples, and else sets STALE. -/
def Obligations.PpdusAreReportedAtTheirEnd : Prop :=
  (∀ (time : Nat) (x : Radio) (rep : RxReport) (ms : List Mpdu) (s : State),
    let i := rIdx x
    let u := rxFirst (s.at time) i
    ∀ r : RxRun, (u.radio i).rx = some r → mdmState u i = 3 ∨ mdmState u i = 4 → r.stop ≤ u.dt → ∀ g : SigInfo, r.sig = some g →
    let ok := ms.filter (·.fcsOk)
    let peers := (ok.filterMap (mpduPeer u i)).eraseDups
    let run := symRun (bitOf r.ctrl 2) g r.blind rep.syms (r.est.getD { units := [], var := [], cfo := 0 })
    Runs (.ppduRxEnd time x rep ms) s fun t =>
      t.pair (Reg.mdmRxMpduLo i) = (u.pair (Reg.mdmRxMpduLo i) + ok.length) % 2 ^ 48 ∧
      t.regN (Reg.mdmFcsErr i) = min (u.regN (Reg.mdmFcsErr i) + (ms.length - ok.length)) 0xFFFFFFFF ∧
      t.regN (Reg.mdmDelimErr i) = min (u.regN (Reg.mdmDelimErr i) + rep.delimErr) 0xFFFFFFFF ∧
      (t.radio i).report = mdmReport g rep r.ts (cfoOf run.1) peers.head? ∧ (t.radio i).rx = none ∧ (t.radio i).det = run.2 ∧
      (t.radio i).iters = rep.words.map (ldpcIters (s.fld (Reg.mdmDecCtrl i) 0 5)) ∧
      (∀ a ∈ peers, a < 4096 → t.bit (Reg.mdmPeerQ i a) 24 = true)) ∧
  (∀ (time : Nat) (x : Radio) (rep : RxReport) (ms : List Mpdu) (s : State),
    let i := rIdx x
    let u := rxFirst (s.at time) i
    rxEnding u i = none → ∀ g : SigInfo, (u.radio i).kept = some g →
    let n := (ms.filter (·.fcsOk)).length
    Runs (.ppduRxEnd time x rep ms) s fun t =>
      t.pair (Reg.mdmRxMpduLo i) = (u.pair (Reg.mdmRxMpduLo i) + n) % 2 ^ 48 ∧
      t.regN (Reg.mdmFcsErr i) = min (u.regN (Reg.mdmFcsErr i) + (ms.length - n)) 0xFFFFFFFF ∧
      (t.radio i).due = (u.radio i).due) ∧
  (∀ (time : Nat) (init : Init) (x : Radio) (s : State), accepts s init (Reg.mdmLastQ0 (rIdx x)) false = true →
    let l := (s.radio (rIdx x)).report
    l.length = 5 →
    (init ≠ 10 → Runs (.lastQ0Read time init x) s fun t =>
      t.resp = .data (l.getD 0 0) ∧ t.reg (Reg.mdmLastQ1 (rIdx x)) = l.getD 1 0 ∧ t.reg (Reg.mdmLastTsLo (rIdx x)) = l.getD 2 0 ∧
      t.reg (Reg.mdmLastTsHi (rIdx x)) = l.getD 3 0 ∧ t.reg (Reg.mdmLastCfo (rIdx x)) = l.getD 4 0 ∧ t.rd = s.rd) ∧
    (init = 10 → Runs (.lastQ0Read time init x) s fun t =>
      t.resp = .data (l.getD 0 0) ∧ t.reg (Reg.mdmLastQ1 (rIdx x)) = s.reg (Reg.mdmLastQ1 (rIdx x)) ∧ t.rd = s.rd)) ∧
  (∀ (time : Nat) (x : Radio) (us : Nat) (ls : List (BitVec 12)) (s : State), islUp s (8 + rIdx x) = true →
    Runs (.nfPeriodEnd time x us ls) s fun t =>
      (∀ c ∈ enabledChains s (rIdx x), t.reg (Reg.mdmNf (rIdx x) c) =
        if 1000 ≤ us ∧ c < ls.length then BitVec.ofNat 32 (ls.getD c 0).toNat
        else putBit (s.reg (Reg.mdmNf (rIdx x) c)) 16 true) ∧
      ∀ c, c < 4 → c ∉ enabledChains s (rIdx x) → t.reg (Reg.mdmNf (rIdx x) c) = s.reg (Reg.mdmNf (rIdx x) c))

/-- AN_RESTART leaves no mode in use and the link down. AN_RESOLVED with what both ends advertise puts the mode, amplitude and
role in use with AN_DONE, and has no effect otherwise. STALL_LINK_UP sets LINK with LINK_CHG; STALL_LINK_DOWN, of the link monitor
or of a receiver out of lock for LINK_DOWN_US, clears it and counts LINK_DOWN. PORT_NF_PERIOD_END at the end of a period stores
the noise floor where at least 10 ms were quiet, and else sets STALE. TDR_START begins a measurement, or is refused with LINK_UP
or POWERED. TDR_DONE shows up to four reflections in order of distance; a run that a fence trigger hit is repeated, and the third
ends NOISY. -/
def Obligations.StallLinksFollowTheirPhys : Prop :=
  (∀ (time : Nat) (init : Init) (n : Fin 64) (d : Word) (s : State), accepts s init (Reg.spPhyCtrl n) true = true →
    Runs (.anRestart time init n d) s fun t =>
      t.bit (Reg.spPhyCtrl n) 5 = true ∧ t.fld (Reg.spPhyStat n) 1 2 = 0 ∧ t.bit (Reg.spPhyStat n) 5 = false ∧
      spLink t n = false ∧ t.regN (Reg.spLinkDownCnt n) = min (s.regN (Reg.spLinkDownCnt n) + bnat (spLink s n)) 0xFFFFFFFF) ∧
  (∀ (time : Nat) (n : Fin 64) (mode : Fin 3) (amp leader : Bool) (lp : BitVec 5) (s : State), octetOn s n = true →
    phyMode s n ≠ 0 → s.bit (Reg.spPhyCtrl n) 5 = true → s.bit (Reg.spPhyStat n) 5 = false →
    (anAgreed s n mode amp lp = true → Runs (.anResolved time n mode amp leader lp) s fun t =>
      t.fld (Reg.spPhyStat n) 1 2 = mode.val ∧ t.bit (Reg.spPhyStat n) 3 = amp ∧ t.bit (Reg.spPhyStat n) 4 = leader ∧
      t.bit (Reg.spPhyStat n) 5 = true ∧ t.regN (Reg.spAnLp n) = lp.toNat ∧ t.regN (Reg.spPhyLat n) = spLat mode) ∧
    (anAgreed s n mode amp lp = false → Runs (.anResolved time n mode amp leader lp) s fun t =>
      t.reg (Reg.spPhyStat n) = s.reg (Reg.spPhyStat n) ∧ t.reg (Reg.spAnLp n) = s.reg (Reg.spAnLp n))) ∧
  (∀ (time : Nat) (n : Fin 64) (s : State), octetOn s n = true →
    (spLink s n = false → s.fld (Reg.spPhyStat n) 1 2 ≠ 0 → s.bit (Reg.spPhyCtrl n) 6 = false → s.bit (Reg.spTdrStat n) 0 = false →
      Runs (.stallLinkUp time n) s fun t =>
        spLink t n = true ∧ t.bit (Reg.spPhyIrqRaw n) 0 = true ∧ t.bit (Reg.spMse n) 16 = true ∧
        t.fld (Reg.spPhyStat n) 1 2 = s.fld (Reg.spPhyStat n) 1 2) ∧
    (∀ lost : Option Nat, spLink s n = true → lost.all (fun d => decide (spDownNs s n ≤ d)) = true →
      Runs (.stallLinkDown time ⟨n, lost⟩) s fun t =>
        spLink t n = false ∧ t.bit (Reg.spPhyIrqRaw n) 0 = true ∧ t.bit (Reg.spMse n) 16 = false ∧
        t.regN (Reg.spLinkDownCnt n) = min (s.regN (Reg.spLinkDownCnt n) + 1) 0xFFFFFFFF) ∧
    (∀ (us : Nat) (l p : BitVec 12), (s.phy n).nfAt + 1000000 * max 1 (s.fld (Reg.spNfCtrl n) 0 16) ≤ (s.at time).dt →
      let quiet := if spLink s n && decide ((s.phy n).upAt ≤ (s.phy n).nfAt) then 0 else us
      Runs (.portNfPeriodEnd time n us l p) s fun t => (t.phy n).nfAt = (s.at time).dt ∧
        t.reg (Reg.spNf n) = if 10000 ≤ quiet then BitVec.ofNat 32 (l.toNat + 4096 * p.toNat) else putBit (s.reg (Reg.spNf n)) 31 true)) ∧
  (∀ (time : Nat) (init : Init) (n : Fin 64) (s : State), accepts s init (Reg.spTdrCmd n) true = true → s.bit (Reg.spTdrStat n) 0 = false →
    let up := spLink s n && !s.bit (Reg.spPhyCtrl n) 6
    let on := (s.phy n).en || s.podl.en.getLsbD n
    (up = true → Runs (.tdrStart time init n) s fun t => t.bit (Reg.spTdrStat n) 0 = false ∧ t.fld (Reg.spTdrStat n) 1 3 = 1) ∧
    (up = false → on = true → Runs (.tdrStart time init n) s fun t =>
      t.bit (Reg.spTdrStat n) 0 = false ∧ t.fld (Reg.spTdrStat n) 1 3 = 2) ∧
    (up = false → on = false → Runs (.tdrStart time init n) s fun t => t.bit (Reg.spTdrStat n) 0 = true)) ∧
  (∀ (time : Nat) (n : Fin 64) (l : List Reflection) (s : State), s.bit (Reg.spTdrStat n) 0 = true →
    let noisy := tdrHit (s.phy n)
    let shown := (l.mergeSort (fun a b => decide (a.dist.toNat ≤ b.dist.toNat))).take 4
    (noisy = true → (s.phy n).tdrHits < 2 → Runs (.tdrDone time n noisy l) s fun t =>
      t.bit (Reg.spTdrStat n) 0 = true ∧ (t.phy n).tdrHits = (s.phy n).tdrHits + 1) ∧
    (noisy = true → 2 ≤ (s.phy n).tdrHits → Runs (.tdrDone time n noisy l) s fun t =>
      t.bit (Reg.spTdrStat n) 0 = false ∧ t.fld (Reg.spTdrStat n) 1 3 = 3 ∧ t.fld (Reg.spTdrStat n) 4 3 = 0) ∧
    (noisy = false → Runs (.tdrDone time n noisy l) s fun t =>
      t.bit (Reg.spTdrStat n) 0 = false ∧ t.fld (Reg.spTdrStat n) 1 3 = 0 ∧ t.bit (Reg.spPhyIrqRaw n) 3 = true ∧
      t.fld (Reg.spTdrStat n) 4 3 = shown.length ∧
      ∀ e, e < shown.length → t.regN (Reg.spTdrEvt n e) = ((shown[e]?.map reflWord).getD 0) % 2 ^ 32))

/-- FENCE_SENSE_ASSERT starts a trigger at every powered stall port that selects the pin and has none, and IMPULSE_DETECT above
the threshold at its port: the port is FROZEN with FENCE_STAT.ACTIVE; a source that was ignored has been inactive and is ignored
no more. FENCE_TRIGGER_END, POST_US after the DT since when no source is active, ends the trigger, and FREEZE_CNT counts where no
other source freezes. FENCE_STUCK after FREEZE_MAX ends it, ignores its sources and sets STUCK, which FENCE_STUCK_CLEAR undoes
after 1 ms without them. FENCE_PRED_WINDOW_OPEN from PRE_US before the predicted start opens the window; FENCE_PRED_WINDOW_END
after it closes it, and the second miss in a row unlocks. -/
def Obligations.FenceTriggersFreezeAndLearn : Prop :=
  (∀ (time : Nat) (pin : Fin 4) (s : State) (n : Nat), n < 64 →
    (s.bit (Reg.spFenceCfg n) pin = true → octetOn s n = true → (s.phy n).trig = none → Runs (.fenceSenseAssert time pin) s fun t =>
      (t.phy n).trig = some (s.at time).dt ∧ (t.phy n).src = [pin.val] ∧ t.bit (Reg.spFenceStat n) 0 = true ∧
      t.bit (Reg.spPhyStat n) 6 = true ∧ pin.val ∉ (t.phy n).ign) ∧
    (s.bit (Reg.spFenceCfg n) pin = true → octetOn s n = true → (s.phy n).trig ≠ none → Runs (.fenceSenseAssert time pin) s fun t =>
      (t.phy n).trig = (s.phy n).trig ∧ pin.val ∈ (t.phy n).src ∧ (t.phy n).srcAt = (s.at time).dt) ∧
    (s.bit (Reg.spFenceCfg n) pin = false → Runs (.fenceSenseAssert time pin) s fun t => t.phy n = s.phy n)) ∧
  (∀ (time : Nat) (n : Fin 64) (err : Rat) (s : State), s.bit (Reg.spFenceCfg n) 4 = true → octetOn s n = true → (s.phy n).trig = none →
    (((s.fld (Reg.spFenceCfg n) 8 8 : Nat) : Rat) < 256 * err → Runs (.impulseDetect time ⟨n, err⟩) s fun t =>
      (t.phy n).trig = some (s.at time).dt ∧ (t.phy n).src = [4] ∧ t.bit (Reg.spPhyStat n) 6 = true ∧
      ∀ m, m < 64 → m ≠ n.val → t.phy m = s.phy m) ∧
    (256 * err ≤ ((s.fld (Reg.spFenceCfg n) 8 8 : Nat) : Rat) → Runs (.impulseDetect time ⟨n, err⟩) s fun t => t.sp = s.sp)) ∧
  (∀ (time : Nat) (n : Fin 64) (s : State) (d : Nat), (s.phy n).trig = some d →
    let others := s.bit (Reg.spAdaptCtrl n) 0 || (s.phy n).win || (s.phy n).pwr.isSome
    (∀ quiet : Nat, (s.phy n).srcAt ≤ quiet → quiet + 1000 * s.fld (Reg.spFenceTim n) 0 16 ≤ (s.at time).dt →
      (Runs (.fenceTriggerEnd time ⟨n, quiet⟩) s fun t => (t.phy n).trig = none ∧ (t.phy n).src = [] ∧
        (t.phy n).trigEnd = (s.at time).dt ∧ t.bit (Reg.spPhyStat n) 6 = others) ∧
      (s.bit (Reg.spPhyStat n) 6 = true → others = false → Runs (.fenceTriggerEnd time ⟨n, quiet⟩) s fun t =>
        t.regN (Reg.spFreezeCnt n) = min (s.regN (Reg.spFreezeCnt n) + 1) 0xFFFFFFFF)) ∧
    (d + 1000000 * max 1 (s.fld (Reg.spAdaptCtrl n) 16 16) ≤ (s.at time).dt →
      Runs (.fenceStuck time n) s fun t =>
        (t.phy n).trig = none ∧ t.bit (Reg.spFenceStat n) 2 = true ∧ t.bit (Reg.spPhyIrqRaw n) 1 = true ∧
        ∀ k ∈ (s.phy n).src, k ∈ (t.phy n).ign)) ∧
  (∀ (time : Nat) (n : Fin 64) (quiet : Nat) (s : State), s.bit (Reg.spFenceStat n) 2 = true → (s.phy n).stuckAt ≤ quiet →
    quiet + 1000000 ≤ (s.at time).dt →
    Runs (.fenceStuckClear time ⟨n, quiet⟩) s fun t => t.bit (Reg.spFenceStat n) 2 = false ∧ (t.phy n).ign = []) ∧
  (∀ (time : Nat) (n : Fin 64) (s : State) (p : FencePer), (s.phy n).per = some p →
    let u := 2 ^ p.exp
    let pre := 1000 * s.fld (Reg.spFenceTim n) 16 16
    ((s.phy n).win = false → p.last + p.mean ≤ ((s.at time).dt + pre) * u → (s.at time).dt * u < p.last + p.mean + pre * u →
      Runs (.fencePredWindowOpen time n) s fun t =>
        (t.phy n).win = true ∧ t.bit (Reg.spPhyStat n) 6 = true ∧ t.bit (Reg.spFenceStat n) 0 = true) ∧
    ((s.phy n).win = true → p.last + p.mean + pre * u ≤ (s.at time).dt * u →
      (p.misses = 0 → Runs (.fencePredWindowEnd time n) s fun t => (t.phy n).win = false ∧
        (t.phy n).per = some { p with last := p.last + p.mean, misses := 1 }) ∧
      (1 ≤ p.misses → Runs (.fencePredWindowEnd time n) s fun t => (t.phy n).win = false ∧
        (t.phy n).per = none ∧ t.bit (Reg.spFenceStat n) 1 = false)))

/-- PODL_ENABLE in OFF leads to DETECT; PODL_DISABLE leads to OFF with EN off and DIS on. PODL_DETECT_DONE leads to CLASS, or
waits with NO_PD; PODL_CLASS_READ leads to POWER_UP for an allowed class, or waits. PODL_PG_TIMEOUT after 100 ms leads to FAULT
with NO_PG; PODL_RETRY 1 s after FAULT leads to DETECT again, and ends a wait. PODL_BUS_FRAME, when a frame may end, latches EN
and DIS as the frame's beginning found them, EN as 0 for an octet that is not up, captures the pins for the next frame, and with
the bits that this one brought moves a PSE in POWER_UP with PG to ON, and one in ON with FLT or without PG to FAULT.
PODL_FLT_N_FALL makes the frames run back to back, PODL_FREEZE_END ends the freeze of a power change, and PODL_DISCHARGE_END drops
DIS after 100 ms. -/
def Obligations.PsesFollowTheirStates : Prop :=
  (∀ (time : Nat) (init : Init) (n : Fin 64) (s : State), accepts s init (Reg.spPodlCtrl n) true = true →
    (pseState s n = 0 → Runs (.podlEnable time init n) s fun t => pseState t n = 1 ∧ t.bit (Reg.spPodlCtrl n) 0 = true) ∧
    (pseState s n ≠ 0 → Runs (.podlDisable time init n) s fun t =>
      pseState t n = 0 ∧ t.bit (Reg.spPodlCtrl n) 0 = false ∧ (t.phy n).en = false ∧ (t.phy n).dis = true ∧
      (t.phy n).disAt = some (s.at time).dt)) ∧
  (∀ (time : Nat) (n : Fin 64) (s : State), octetUp s n = true →
    (pseState s n = 1 → (s.phy n).wait = false →
      (Runs (.podlDetectDone time n true) s fun t => pseState t n = 2) ∧
      (Runs (.podlDetectDone time n false) s fun t => pseState t n = 1 ∧ (t.phy n).wait = true ∧ t.fld (Reg.spPodlStat n) 8 3 = 1)) ∧
    (pseState s n = 2 → Runs (.podlClassRead time n none) s fun t => pseState t n = 1 ∧ (t.phy n).wait = true ∧
      t.fld (Reg.spPodlStat n) 8 3 = 2) ∧
    (∀ c : Fin 16, pseState s n = 2 →
      (s.bit (Reg.spPodlCtrl n) (16 + c) = true → Runs (.podlClassRead time n (some c)) s fun t =>
        t.fld (Reg.spPodlStat n) 4 4 = c.val ∧ pseState t n = 3 ∧ (t.phy n).en = true ∧ (t.phy n).dis = false) ∧
      (s.bit (Reg.spPodlCtrl n) (16 + c) = false → Runs (.podlClassRead time n (some c)) s fun t =>
        t.fld (Reg.spPodlStat n) 4 4 = c.val ∧ pseState t n = 1 ∧ (t.phy n).en = false ∧ t.fld (Reg.spPodlStat n) 8 3 = 3)) ∧
    (pseState s n = 3 → (s.phy n).pseAt + 100000000 ≤ (s.at time).dt → Runs (.podlPgTimeout time n) s fun t =>
      pseState t n = 5 ∧ t.fld (Reg.spPodlStat n) 8 3 = 4 ∧ (t.phy n).en = false ∧ (t.phy n).dis = true ∧
      t.regN (Reg.spPodlFaults n) = min (s.regN (Reg.spPodlFaults n) + 1) 0xFFFFFFFF ∧ t.bit (Reg.spPhyIrqRaw n) 2 = true) ∧
    ((s.phy n).pseAt + 1000000000 ≤ (s.at time).dt →
      (pseState s n = 5 → s.bit (Reg.spPodlCtrl n) 0 = true → Runs (.podlRetry time n) s fun t =>
        pseState t n = 1 ∧ (t.phy n).dis = false ∧ (t.phy n).wait = false) ∧
      (pseState s n = 1 → (s.phy n).wait = true → Runs (.podlRetry time n) s fun t => pseState t n = 1 ∧ (t.phy n).wait = false))) ∧
  (∀ (time : Nat) (flt pg : BitVec 64) (s : State),
    let now := s.at time
    (podlMay now = false → Runs (.podlBusFrame time flt pg) s fun t => t.podl = s.podl ∧ t.sp = s.sp) ∧
    (podlMay now = true →
      (Runs (.podlBusFrame time flt pg) s fun t => t.podlFlt = (flt != 0) ∧ t.podl.ldAt = some now.dt ∧ t.podl.flt = flt ∧
        t.podl.pg = pg ∧ ∀ n, n < 64 → t.podl.en.getLsbD n = ((shiftedOuts now.dt (s.phy n)).1 && octetUp s n) ∧
          t.podl.dis.getLsbD n = (shiftedOuts now.dt (s.phy n)).2) ∧
      (s.podl.ldAt ≠ none → ∀ n, n < 64 → octetUp s n = true →
        let f := s.podl.flt.getLsbD n
        let g := s.podl.pg.getLsbD n
        (pseState s n = 3 → g = true → Runs (.podlBusFrame time flt pg) s fun t => pseState t n = 4 ∧ t.fld (Reg.spPodlStat n) 8 3 = 0) ∧
        (pseState s n = 4 → f = true ∨ g = false → Runs (.podlBusFrame time flt pg) s fun t => pseState t n = 5 ∧
          (t.phy n).en = false ∧ (t.phy n).dis = true ∧ t.fld (Reg.spPodlStat n) 8 3 = if f then 5 else 6) ∧
        (pseState s n = 4 → f = false → g = true → Runs (.podlBusFrame time flt pg) s fun t => pseState t n = 4)))) ∧
  (∀ (time : Nat) (s : State), Runs (.podlFltNFall time) s fun t => t.podlFlt = true ∧ t.sp = s.sp) ∧
  (∀ (time : Nat) (n : Fin 64) (s : State) (d : Nat), (s.phy n).pwr = some d → d ≤ (s.at time).dt →
    Runs (.podlFreezeEnd time n) s fun t => (t.phy n).pwr = none ∧ t.bit (Reg.spPhyStat n) 6 = frozen t n) ∧
  (∀ (time : Nat) (n : Fin 64) (s : State) (d : Nat), (s.phy n).disAt = some d → d + 100000000 ≤ (s.at time).dt →
    Runs (.podlDischargeEnd time n) s fun t => (t.phy n).dis = false ∧ (t.phy n).disAt = none ∧ (t.phy n).en = (s.phy n).en)

/-- MAC_RX_FRAME counts a frame once, in the first case that applies, and a good one with its bytes; with the link down or RX_EN =
0 nothing is counted or buffered. MAC_TX_START, once the gap after the frame before has passed, takes the whole packet at the head
of the port's queue as the frame in hand, counts TX_LINKDOWN where the link is down, or takes the ready frame of an uplink's ring.
MAC_TX_END, when its last bit has left, counts the frame, or TX_INV_FCS for an aborted one, and stores a timed frame's timestamp
and posts its completion. TX_UNDERRUN ends the frame with an inverted FCS, counts it in TX_UNDERRUN and TX_INV_FCS, and discards
the rest. -/
def Obligations.PortsReceiveAndSendFrames : Prop :=
  (∀ (s : State) (time : Nat) (p : Fin 66) (b : List Byte) (bad : Bool) (err : Int),
    let on := islUp s (portIsland p) && portLink s p && s.bit (portReg p Reg.spMacCtrl Reg.ulMacCtrl) 0
    let plain := p.val < 64 ∨ (s.bit (Reg.ulUlCtrl (p - 64)) 7 = false ∧ s.bit (Reg.ulDirCtrl (p - 64)) 1 = false)
    let clear := on = true ∧ (s.mac p).rxq = [] ∧ min b.length (maxLen s p + 1) ≤ rxBuffer p ∧ plain
    let counts := fun (a : Nat) => Runs (.macRxFrame time p b bad err) s fun t => t.regN a = min (s.regN a + 1) 0xFFFFFFFF ∧
      t.pair (portReg p Reg.spRxFramesLo Reg.ulRxFramesLo) = s.pair (portReg p Reg.spRxFramesLo Reg.ulRxFramesLo)
    let cases := fun (sp ul : Nat → Nat) => counts (portReg p sp ul)
    (on = false → Runs (.macRxFrame time p b bad err) s fun t => t.port = s.port ∧ (t.pound (inPound p)) = s.pound (inPound p) ∧
      t.pair (portReg p Reg.spRxFramesLo Reg.ulRxFramesLo) = s.pair (portReg p Reg.spRxFramesLo Reg.ulRxFramesLo)) ∧
    (clear → b.length < 64 → cases Reg.spRxRunt Reg.ulRxRunt) ∧
    (clear → 64 ≤ b.length → maxLen s p < b.length → cases Reg.spRxOversize Reg.ulRxOversize) ∧
    (clear → 64 ≤ b.length → b.length ≤ maxLen s p → bad = true → cases Reg.spRxPhyErr Reg.ulRxPhyErr) ∧
    (clear → 64 ≤ b.length → b.length ≤ maxLen s p → bad = false → fcsOk b = false → cases Reg.spRxFcsErr Reg.ulRxFcsErr) ∧
    (clear → 64 ≤ b.length → b.length ≤ maxLen s p → bad = false → fcsOk b = true →
      Runs (.macRxFrame time p b bad err) s fun t =>
        t.pair (portReg p Reg.spRxFramesLo Reg.ulRxFramesLo) = (s.pair (portReg p Reg.spRxFramesLo Reg.ulRxFramesLo) + 1) % 2 ^ 48 ∧
        t.pair (portReg p Reg.spRxBytesLo Reg.ulRxBytesLo) = (s.pair (portReg p Reg.spRxBytesLo Reg.ulRxBytesLo) + b.length) % 2 ^ 48)) ∧
  (∀ (s : State) (time : Nat) (p : Fin 66), islUp s (portIsland p) = true → replaying s = false → (s.mac p).tx = none →
    (s.mac p).idleAt ≤ (s.at time).dt → (p.val < 64 ∨ ((s.uplink (p - 64)).hold = false ∧ s.bit (Reg.ulUlCtrl (p - 64)) 7 = false)) →
    (∀ (q : List PWord × List PWord), splitPacket (txQueue s p) = some q → (s.mac p).notes = [] →
      (p.val < 64 → (s.pound (outPound p)).ready = []) → (64 ≤ p.val → (s.uplink (p - 64)).dir = none) →
      (maySend s p = true → (q.1.getLast?.map (·.abort)) = some false → Runs (.macTxStart time p) s fun t =>
        (t.mac p).tx = some { info := wordsMeta q.1, data := wordsData q.1, whole := true, start := (s.at time).dt } ∧ txQueue t p = q.2) ∧
      (maySend s p = true → (q.1.getLast?.map (·.abort)) = some true → Runs (.macTxStart time p) s fun t =>
        (t.mac p).tx = none ∧ txQueue t p = q.2) ∧
      (maySend s p = false → holds s p = false → Runs (.macTxStart time p) s fun t => (t.mac p).tx = none ∧ txQueue t p = q.2 ∧
        t.regN (portReg p Reg.spTxLinkdown Reg.ulTxLinkdown) = min (s.regN (portReg p Reg.spTxLinkdown Reg.ulTxLinkdown) + 1) 0xFFFFFFFF) ∧
      (maySend s p = false → holds s p = true → Runs (.macTxStart time p) s fun t => (t.mac p).tx = none ∧ txQueue t p = txQueue s p)) ∧
    (∀ d : DirFrame, (s.uplink (p - 64)).dir = some d → ∀ (b : List Byte) (r : List (List Byte)), d.segs = b :: r → 64 ≤ p.val →
      curSlot s = none → maySend s p = true →
      Runs (.macTxStart time p) s fun t =>
        (t.mac p).tx = some { info := { len := b.length, tsReq := d.tsReq, cookie := d.cookie }, data := b, whole := true, ring := true,
                              clear := d.clear, start := (s.at time).dt } ∧
        (t.uplink (p - 64)).dir = some { d with segs := r } ∧ (t.uplink (p - 64)).hold = true)) ∧
  (∀ (s : State) (time : Nat) (p : Fin 66) (f : TxFrame), (s.mac p).tx = some f → islUp s (portIsland p) = true → f.drop = false →
    (∀ err : Int, f.whole = true → f.ring = false →
      let now := s.at time
      let stamp := txStamp now p f err
      let sent := (wireBytes now p f f.aborted stamp).1
      txEndAt now p f sent.length ≤ now.dt →
      (f.aborted = false → Runs (.macTxEnd time p err) s fun t => (t.mac p).tx = none ∧ (t.mac p).wire = sent ∧
        t.pair (portReg p Reg.spTxFramesLo Reg.ulTxFramesLo) = (s.pair (portReg p Reg.spTxFramesLo Reg.ulTxFramesLo) + 1) % 2 ^ 48 ∧
        t.pair (portReg p Reg.spTxBytesLo Reg.ulTxBytesLo) = (s.pair (portReg p Reg.spTxBytesLo Reg.ulTxBytesLo) + sent.length) % 2 ^ 48) ∧
      (f.aborted = false → f.sa = none → tcPort s f.info.inPort p = none → sent = sealFcs f.data false) ∧
      (f.aborted = false → f.info.tsReq = true → (s.mac p).tsq.length < 16 → Runs (.macTxEnd time p err) s fun t =>
        (t.mac p).tsq = (s.mac p).tsq ++ [(f.info.cookie, stamp % 2 ^ 48)] ∧ t.cc.posts = s.cc.posts ++ [(f.info.cookie, .sent)]) ∧
      (f.aborted = false → f.info.tsReq = true → 16 ≤ (s.mac p).tsq.length → popComes now p = false → Runs (.macTxEnd time p err) s fun t =>
        (t.mac p).tsq = (s.mac p).tsq ∧ t.cc.posts = s.cc.posts ++ [(f.info.cookie, .tsLost)] ∧
        t.regN (portReg p Reg.spTsqLost Reg.ulTsqLost) = min (s.regN (portReg p Reg.spTsqLost Reg.ulTsqLost) + 1) 0xFFFFFFFF) ∧
      (f.aborted = true → Runs (.macTxEnd time p err) s fun t => (t.mac p).tx = none ∧ (t.mac p).tsq = (s.mac p).tsq ∧
        t.regN (portReg p Reg.spTxInvFcs Reg.ulTxInvFcs) = min (s.regN (portReg p Reg.spTxInvFcs Reg.ulTxInvFcs) + 1) 0xFFFFFFFF)) ∧
    (f.whole = false → txQueue s p = [] → txEndAt s p f f.data.length ≤ (s.at time).dt →
      (Runs (.txUnderrun time p) s fun t =>
        (t.mac p).tx = some { info := f.info, drop := true } ∧ (t.mac p).tsq = (s.mac p).tsq ∧
        t.regN (portReg p Reg.spTxUnderrun Reg.ulTxUnderrun) = min (s.regN (portReg p Reg.spTxUnderrun Reg.ulTxUnderrun) + 1) 0xFFFFFFFF ∧
        t.regN (portReg p Reg.spTxInvFcs Reg.ulTxInvFcs) = min (s.regN (portReg p Reg.spTxInvFcs Reg.ulTxInvFcs) + 1) 0xFFFFFFFF) ∧
      (f.sa = none → f.ring = false → tcPort s f.info.inPort p = none → Runs (.txUnderrun time p) s fun t =>
        (t.mac p).wire = sealFcs f.data true)))

/-- A read of TSQ_POP answers the COOKIE of the oldest entry with VALID = 1, latches that entry's timestamp into TSQ_DT_LO and
TSQ_DT_HI, and removes the entry. A read while the queue is empty answers VALID = 0 and leaves TSQ_DT unchanged. An entry pushed
in the cycle of the read is not yet in the queue for it, since the pop comes first (R353). -/
def Obligations.TsqPopReturnsTheOldestStamp : Prop :=
  ∀ (s : State) (time : Nat) (init : Init) (p : Fin 66), accepts s init (portReg p Reg.spTsqPop Reg.ulTsqPop) false = true →
    let fresh := (s.mac p).pushAt = some (s.at time).dt
    (∀ (e : Nat × Nat) (r : List (Nat × Nat)), (s.mac p).tsq = e :: r → (fresh → r ≠ []) → Runs (.tsqPop time init p) s fun t =>
      t.resp = .data (BitVec.ofNat 32 (e.1 % 65536 + 2 ^ 31)) ∧ (t.mac p).tsq = r ∧
      t.regN (portReg p Reg.spTsqDtLo Reg.ulTsqDtLo) = e.2 % 2 ^ 32 ∧
      t.regN (portReg p Reg.spTsqDtHi Reg.ulTsqDtHi) = e.2 / 2 ^ 32 % 2 ^ 32 ∧
      t.fld (portReg p Reg.spTsqStat Reg.ulTsqStat) 0 5 = r.length % 32) ∧
    ((s.mac p).tsq = [] ∨ (fresh ∧ (s.mac p).tsq.length = 1) → Runs (.tsqPop time init p) s fun t =>
      t.resp = .data 0 ∧ (t.mac p).tsq = (s.mac p).tsq ∧
      t.reg (portReg p Reg.spTsqDtLo Reg.ulTsqDtLo) = s.reg (portReg p Reg.spTsqDtLo Reg.ulTsqDtLo) ∧
      t.reg (portReg p Reg.spTsqDtHi Reg.ulTsqDtHi) = s.reg (portReg p Reg.spTsqDtHi Reg.ulTsqDtHi))

/-- UPLINK_LINK_DOWN clears LINK, sets LOSS_STATE.ULu and counts LINK_DOWN; UPLINK_LINK_UP sets LINK. SGMII_LINK_WORD sets the
speed in use. SEC_SA_INSTALL installs the SA that SEC_SA_CTRL names with its key and PN, after which SEC_KEY_DATA reads 0;
SEC_SA_REMOVE empties it, and fails with IN_USE for the transmit SA CUR_AN. DIR_TX_TAIL_WRITE stores TX_TAIL and changes nothing
else. DIR_TX_FETCH keeps a frame whose checks pass, to be sent, and drops one that fails a check whole: HEAD moves past its
descriptors and DESC_ERR or DMA_ERR counts. -/
def Obligations.UplinksLinkSecureAndFetch : Prop :=
  (∀ (s : State) (time : Nat) (u : Fin 2), islPowered s 19 = true →
    (∀ (c : UlLoss) (lost : Nat), s.bit (Reg.ulUlStat u) 0 = true → ulLost (s.at time) u c lost = true →
      Runs (.uplinkLinkDown time ⟨u, c, lost⟩) s fun t =>
        t.bit (Reg.ulUlStat u) 0 = false ∧ t.bit Reg.staLossState u = true ∧ t.bit (Reg.ulIrqRaw u) 0 = true ∧
        t.regN (Reg.ulLinkDownCnt u) = min (s.regN (Reg.ulLinkDownCnt u) + 1) 0xFFFFFFFF) ∧
    (s.bit (Reg.ulUlStat u) 0 = false → ulMode s u ≠ 0 → (ulMode s u = 4 → (s.uplink u).lwDown = none) →
      Runs (.uplinkLinkUp time u) s fun t =>
        t.bit (Reg.ulUlStat u) 0 = true ∧ t.bit (Reg.ulIrqRaw u) 0 = true ∧ t.fld (Reg.ulUlStat u) 4 2 = s.fld (Reg.ulUlStat u) 4 2 ∧
        t.bit (Reg.ulUlStat u) 1 = decide (ulMode s u ≤ 2) ∧ t.bit (Reg.ulUlStat u) 2 = false) ∧
    (∀ (up : Bool) (v : Fin 3),
      (ulMode s u = 4 → Runs (.sgmiiLinkWord time u up v) s fun t => t.fld (Reg.ulUlStat u) 4 2 = v.val ∧
        t.bit (Reg.ulUlStat u) 3 = up ∧ t.regN (Reg.ulPhyLat u) = ulLat t u ∧
        (t.uplink u).lwDown = if up then none else some ((s.uplink u).lwDown.getD (s.at time).dt)) ∧
      (ulMode s u ≠ 4 → Runs (.sgmiiLinkWord time u up v) s fun t => t.reg (Reg.ulUlStat u) = s.reg (Reg.ulUlStat u)))) ∧
  (∀ (s : State) (time : Nat) (init : Init) (u : Fin 2), accepts s init (Reg.ulSecSaCmd u) true = true →
    let an := s.fld (Reg.ulSecSaCtrl u) 0 2
    let k := 4 * s.fld (Reg.ulSecSaCtrl u) 2 2 + an
    let rx := s.bit (Reg.ulSecSaCtrl u) 4
    let key := (List.range 8).flatMap fun j => leBytes 4 (s.regN (Reg.ulSecKeyData u j))
    let txOf := fun (t : State) (n : Nat) => bankGet (fun _ => none) (t.uplink u).txSa n
    let rxOf := fun (t : State) (n : Nat) => bankGet (fun _ => none) (t.uplink u).rxSa n
    (s.bit (Reg.ulSecSaCtrl u) 5 = false →
      (rx = false → Runs (.secSaInstall time init u) s fun t =>
        (∀ j, j < 8 → t.reg (Reg.ulSecKeyData u j) = 0) ∧ t.regN (Reg.ulSecSaStat u) = 0 ∧
        txOf t an = some ⟨key, s.regN (Reg.ulSecSaPn u)⟩ ∧ ∀ j, j ≠ an → txOf t j = txOf s j) ∧
      (rx = true → Runs (.secSaInstall time init u) s fun t =>
        (∀ j, j < 8 → t.reg (Reg.ulSecKeyData u j) = 0) ∧ t.regN (Reg.ulSecSaStat u) = 0 ∧
        rxOf t k = some ⟨key, s.regN (Reg.ulSecSaPn u) + s.regN (Reg.ulSecWindow u)⟩ ∧ ∀ j, j ≠ k → rxOf t j = rxOf s j)) ∧
    (s.bit (Reg.ulSecSaCtrl u) 5 = true →
      (rx = true → Runs (.secSaRemove time init u) s fun t => rxOf t k = none ∧ t.regN (Reg.ulSecSaStat u) = 0) ∧
      (rx = false → s.fld (Reg.ulSecTxSa u) 0 2 ≠ an → Runs (.secSaRemove time init u) s fun t =>
        txOf t an = none ∧ t.regN (Reg.ulSecSaStat u) = 0) ∧
      (rx = false → s.fld (Reg.ulSecTxSa u) 0 2 = an → Runs (.secSaRemove time init u) s fun t =>
        t.ul = s.ul ∧ t.bit (Reg.ulSecSaStat u) 4 = true))) ∧
  (∀ (s : State) (time : Nat) (init : Init) (u : Fin 2) (d : Word), accepts s init (Reg.ulTxTail u) true = true →
    Runs (.dirTxTailWrite time init u d) s fun t =>
      t.fld (Reg.ulTxTail u) 0 12 = d.toNat % 4096 ∧ t.ul = s.ul ∧ t.dram = s.dram ∧
      ∀ a, a ≠ Reg.ulTxTail u → noteReg a = false → t.reg a = s.reg a) ∧
  (∀ (s : State) (time : Nat) (u : Fin 2) (err : Bool) (r : List Nat × Nat × DirFrame),
    txFetch s (ulTxRing s u) false (maxLen s (64 + u)) err = some r → islUp s 19 = true → s.bit (Reg.ulDirCtrl u) 0 = true →
    (s.uplink u).dir = none →
    (r.2.1 = 0 → Runs (.dirTxFetch time u err) s fun t =>
      (t.uplink u).dir = some r.2.2 ∧ t.reg (Reg.ulTxHead u) = s.reg (Reg.ulTxHead u)) ∧
    (r.2.1 = 8 → Runs (.dirTxFetch time u err) s fun t => (t.uplink u).dir = none ∧ t.bit (Reg.ulIrqRaw u) 10 = true ∧
      t.regN (Reg.ulTxHead u) = (s.fld (Reg.ulTxHead u) 0 12 + r.1.length) % max 1 (s.fld (Reg.ulTxRingSize u) 0 13) ∧
      t.regN (Reg.ulDmaErr u) = min (s.regN (Reg.ulDmaErr u) + 1) 0xFFFFFFFF ∧ t.bit (Reg.ulIrqRaw u) 7 = true) ∧
    (r.2.1 ≠ 0 → r.2.1 ≠ 8 → Runs (.dirTxFetch time u err) s fun t => (t.uplink u).dir = none ∧ t.bit (Reg.ulIrqRaw u) 10 = true ∧
      t.regN (Reg.ulTxHead u) = (s.fld (Reg.ulTxHead u) 0 12 + r.1.length) % max 1 (s.fld (Reg.ulTxRingSize u) 0 13) ∧
      t.regN (Reg.ulDescErr u) = min (s.regN (Reg.ulDescErr u) + 1) 0xFFFFFFFF ∧ t.bit (Reg.ulIrqRaw u) 6 = true))

/-- DRAM_REQUEST_ACCEPT takes the rotation's next request: one outside the configured capacity touches no channel; a write stores
exactly its masked bytes; a read sees those stored now, forwarded from a whole queued line, held behind a part-written one, or
pending. WRITE_QUEUE_DRAIN takes the entry a read waits for, else the oldest. DRAM_ISSUE issues a line that is the oldest aged one
where one has waited AGE_NS. DRAM_READ_RETURN returns the oldest line in flight, counts a CE with its address, and counts a UE and
keeps its line bad. REPORT_WRITE_RESPONSE answers ALERT_WIN after the write's last command. -/
def Obligations.DramRequestsKeepTheirOrder : Prop :=
  (∀ (s : State) (time q : Nat), rotPick 8 s.mc.rot (portAcceptable s) = some q →
    ∀ p : List PWord × State, readPacket s (36 + 2 * q) = some p → mcState s 0 ≠ 5 → mcState s 1 ≠ 5 →
    let r := decodeReq p.1
    let off := r.addr - 0x800000000
    let c := (dramChan s off).1
    let line := (dramChan s off).2 / 64
    let inside := 0x800000000 ≤ r.addr ∧ off + 64 * r.lines ≤ dramCap s ∧ r.lines = 1
    (Runs (.dramRequestAccept time) s fun t =>
      t.mc.rot = q ∧ t.mc.nextId = s.mc.nextId + 1 ∧ t.mc.lastReq = (s.at time).dt) ∧
    (r.addr < 0x800000000 ∨ dramCap s < off + 64 * r.lines → Runs (.dramRequestAccept time) s fun t => t.mc.ch = s.mc.ch ∧
      ∀ o, outRing s o = true → memGet t.dram o = memGet s.dram o) ∧
    (inside → r.write = true → Runs (.dramRequestAccept time) s fun t =>
      (∀ i, i < 64 → outRing s (off + i) = true →
        memGet t.dram (off + i) = if r.mask.testBit i then r.data.getD i 0 else memGet s.dram (off + i)) ∧
      ∀ o, outRing s o = true → o < off ∨ off + 64 ≤ o → memGet t.dram o = memGet s.dram o) ∧
    (inside → r.write = false → (s.chan c).wq.find? (fun e => decide (e.line = line)) = none →
      (s.chan c).drained.all (fun d => decide (d.1 ≠ (s.at time).dt)) = true → (∀ i, i < 64 → outRing s (off + i) = true) →
      Runs (.dramRequestAccept time) s fun t => (t.chan c).lines.length = (s.chan c).lines.length + 1 ∧
        (t.chan c).lines.getLast?.map (fun l => (l.port, l.write, l.line, l.data)) = some (q, false, line, s.dramRead off 64)) ∧
    (inside → r.write = false → ∀ e : WqEntry, (s.chan c).wq.find? (fun e => decide (e.line = line)) = some e →
      (e.mask = fullMask → Runs (.dramRequestAccept time) s fun t =>
        t.regN (Reg.mcFwdCnt c) = min (s.regN (Reg.mcFwdCnt c) + 1) 0xFFFFFFFF ∧ (t.chan c).lines = (s.chan c).lines) ∧
      (e.mask ≠ fullMask → Runs (.dramRequestAccept time) s fun t =>
        t.regN (Reg.mcRawWaitCnt c) = min (s.regN (Reg.mcRawWaitCnt c) + 1) 0xFFFFFFFF ∧
        (t.chan c).lines.length = (s.chan c).lines.length + 1))) ∧
  (∀ (s : State) (time : Nat) (c : Fin 2), mcRun s c = true → (s.chan c).alertAt = none →
    let rest := fun (e : WqEntry) => if e.lateAt = some (s.at time).dt ∧ e.early ≠ 0 then
        [{ e with mask := e.late, early := 0, rush := false }] else []
    (∀ (e : WqEntry) (l : List WqEntry), (s.chan c).wq = e :: l → (s.chan c).lines.any (fun l => !l.write || l.rmw) = false →
      (s.chan c).wq.find? (·.rush) = none → Runs (.writeQueueDrain time c) s fun t => (t.chan c).wq = l ++ rest e) ∧
    (∀ e : WqEntry, (s.chan c).wq.find? (·.rush) = some e →
      Runs (.writeQueueDrain time c) s fun t => (t.chan c).wq = (s.chan c).wq.erase e ++ rest e) ∧
    (∀ l : DramLine, issuePick (s.at time) c = some l → (s.chan c).drainMode = false →
      let heads := (List.range 8).filterMap (portHead (s.chan c))
      (heads.any (lineAged (s.at time) c) = true → lineAged (s.at time) c l = true) ∧
      (∀ m ∈ heads, lineAged (s.at time) c m = true → l.id ≤ m.id) ∧
      (Runs (.dramIssue time c) s fun t => (t.chan c).lines = (s.chan c).lines.erase l ∧ (t.chan c).issueRot = l.port) ∧
      (l.write = false ∨ l.rmw = true → Runs (.dramIssue time c) s fun t =>
        (t.chan c).flight = (s.chan c).flight ++ [{ l with issued := (s.at time).dt }]) ∧
      (l.write = true → l.rmw = false → Runs (.dramIssue time c) s fun t =>
        (t.chan c).reportW = (s.chan c).reportW ++ [{ l with issued := (s.at time).dt }]))) ∧
  (∀ (s : State) (time : Nat) (c : Fin 2) (e : Ecc) (l : DramLine) (r : List DramLine), (s.chan c).flight = l :: r →
    let known := lineBad (s.chan c) l.line
    (Runs (.dramReadReturn time c e) s fun t => (t.chan c).flight = r) ∧
    (known = false → Runs (.dramReadReturn time c .ok) s fun t => t.reg (Reg.mcCeCnt c) = s.reg (Reg.mcCeCnt c) ∧
      t.reg (Reg.mcUeCnt c) = s.reg (Reg.mcUeCnt c) ∧ (t.chan c).bad = (s.chan c).bad) ∧
    (known = false → ∀ b : Fin 40, Runs (.dramReadReturn time c (.ce b)) s fun t =>
      t.regN (Reg.mcCeCnt c) = min (s.regN (Reg.mcCeCnt c) + 1) 0xFFFFFFFF ∧ t.bit (Reg.mcIrqRaw c) 0 = true ∧
      t.regN (Reg.mcCeAddr c) = l.line * 64 % 2 ^ 32 ∧ t.regN (Reg.mcCeInfo c) = b.val) ∧
    (known = true ∨ e = .ue → Runs (.dramReadReturn time c e) s fun t =>
      t.regN (Reg.mcUeCnt c) = min (s.regN (Reg.mcUeCnt c) + 1) 0xFFFFFFFF ∧ t.bit (Reg.mcIrqRaw c) 1 = true ∧
      (t.chan c).bad.contains l.line = true)) ∧
  (∀ (s : State) (time : Nat) (c : Fin 2) (l : DramLine) (r : List DramLine), (s.chan c).reportW = l :: r → (s.chan c).alertAt = none →
    l.issued + alertWin s c ≤ (s.at time).dt →
    Runs (.reportWriteResponse time c) s fun t => (t.chan c).reportW = r ∧
      ∀ o ∈ t.mc.opens, o.id = l.id → ∃ p ∈ s.mc.opens, o.id = p.id ∧ o.left = p.left - 1)

/-- REFRESH_DUE issues every owed refresh of the rank, or postpones one more in panic while fewer than four are owed; ZQCS_DUE
moves on by ZQ_MS. SCRUB_READ reads the lines in turn, counts a CE, and counts a UE with SCRUB_UE, without a fault or a response.
ALERT_N_FALL counts CA_PAR and in RUN stops issue; REPLAY_MAX consecutive ones within ALERT_WIN of a reissue put the channel in
FAIL, where nothing is held; in self-refresh it is ignored. ALERT_N_RISE reissues the buffered commands that are not report-class,
and counts a refused report-class request once. DRIFT_TRACK, every 1 ms, moves each lane one step unless it stands at its limit;
LANE_DLY_WRITE stores the word and resets the lane's count. SELF_REFRESH_ENTER completes everything held; SELF_REFRESH_EXIT and
MC_IDLE_SELF_REFRESH leave and return. -/
def Obligations.ChannelsRefreshScrubRetryAndSleep : Prop :=
  (∀ (s : State) (time : Nat) (c : Fin 2),
    (∀ k : Fin 2, (mcState s c = 2 ∨ mcState s c = 3) → k.val < s.fld (Reg.mcGeom c) 3 2 →
      byRank (s.chan c).refAt k + refInterval s c ≤ (s.at time).dt →
      let due := byRank (s.chan c).refAt k + refInterval s c
      (panicNow s c = true → byRank (s.chan c).owed k < 4 → Runs (.refreshDue time c k) s fun t =>
        byRank (t.chan c).refAt k = due ∧ byRank (t.chan c).owed k = byRank (s.chan c).owed k + 1) ∧
      (panicNow s c = false ∨ 4 ≤ byRank (s.chan c).owed k → Runs (.refreshDue time c k) s fun t =>
        byRank (t.chan c).refAt k = due ∧ byRank (t.chan c).owed k = 0)) ∧
    (mcRun s c = true → (s.chan c).zqAt + max 1 (s.fld (Reg.mcDriftCtrl c) 0 16) * 1000000 ≤ (s.at time).dt →
      Runs (.zqcsDue time c) s fun t => (t.chan c).zqAt = (s.chan c).zqAt + max 1 (s.fld (Reg.mcDriftCtrl c) 0 16) * 1000000) ∧
    (∀ e : Ecc, mcRun s c = true → s.bit (Reg.mcMcCtrl c) 2 = true → scrubLines s c ≠ 0 →
      (s.chan c).scrubAt + scrubGap s c ≤ (s.at time).dt →
      let line := (s.chan c).scrubLine % scrubLines s c
      (Runs (.scrubRead time c line e) s fun t => (t.chan c).scrubLine = (line + 1) % scrubLines s c ∧ (t.chan c).scrubAt = (s.at time).dt ∧
        t.reg Reg.fltFltStat = s.reg Reg.fltFltStat ∧ t.mc.opens = s.mc.opens) ∧
      (lineBad (s.chan c) line = true ∨ e = .ue → Runs (.scrubRead time c line e) s fun t => (t.chan c).bad.contains line = true ∧
        t.bit (Reg.mcIrqRaw c) 7 = true ∧ t.regN (Reg.mcUeCnt c) = min (s.regN (Reg.mcUeCnt c) + 1) 0xFFFFFFFF) ∧
      (lineBad (s.chan c) line = false → ∀ b : Fin 40, Runs (.scrubRead time c line (.ce b)) s fun t =>
        t.bit (Reg.mcCeInfo c) 8 = true ∧ t.regN (Reg.mcCeCnt c) = min (s.regN (Reg.mcCeCnt c) + 1) 0xFFFFFFFF))) ∧
  (∀ (s : State) (time : Nat) (c : Fin 2),
    let near := match (s.chan c).reissueAt with
      | none => false
      | some r => decide ((s.at time).dt ≤ r + alertWin s c)
    let n := if near then (s.chan c).consec + 1 else 0
    let fails := near && decide (max 1 (s.fld (Reg.mcReplayMax c) 0 4) ≤ n)
    let counted := fun (t : State) => t.regN (Reg.mcCaParCnt c) = min (s.regN (Reg.mcCaParCnt c) + 1) 0xFFFFFFFF ∧
      t.bit (Reg.mcIrqRaw c) 2 = true
    (mcState s c = 2 → Runs (.alertNFall time c) s fun t => counted t ∧ t.mc = s.mc) ∧
    (mcState s c = 3 → (s.chan c).alertAt = none → fails = false → Runs (.alertNFall time c) s fun t => counted t ∧
      t.bit Reg.fltFltStat 3 = true ∧ mcState t c = 3 ∧ (t.chan c).alertAt = some (s.at time).dt ∧ (t.chan c).consec = n) ∧
    (mcState s c = 3 → (s.chan c).alertAt = none → fails = true → Runs (.alertNFall time c) s fun t => counted t ∧
      t.bit Reg.fltFltStat 3 = true ∧ mcState t c = 5 ∧ t.bit (Reg.mcIrqRaw c) 4 = true ∧ (t.chan c).wq = [] ∧ (t.chan c).lines = [] ∧
      (t.chan c).flight = [] ∧ (t.chan c).reportW = []) ∧
    (mcState s c = 4 → Runs (.alertNFall time c) s fun t => t.mc = s.mc ∧
      t.reg (Reg.mcCaParCnt c) = s.reg (Reg.mcCaParCnt c) ∧ t.reg (Reg.mcIrqRaw c) = s.reg (Reg.mcIrqRaw c)) ∧
    (∀ f : Nat, (s.chan c).alertAt = some f →
      let recent := (s.chan c).retry.filter fun l => decide (f ≤ l.issued + alertWin s c)
      let again := recent.filter fun l => !l.report
      let refused := recent.filter fun l => l.report && s.mc.opens.any (fun o => decide (o.id = l.id))
      (Runs (.alertNRise time c) s fun t => (t.chan c).alertAt = none ∧ (t.chan c).rows = (s.chan c).shut ∧
        (t.chan c).retry = again.map (fun l => { l with issued := (s.at time).dt }) ∧
        t.regN (Reg.mcReplayCnt c) = min (s.regN (Reg.mcReplayCnt c) + again.length) 0xFFFFFFFF ∧
        s.regN (Reg.mcReportCnt c) ≤ t.regN (Reg.mcReportCnt c) ∧
        t.regN (Reg.mcReportCnt c) ≤ min (s.regN (Reg.mcReportCnt c) + refused.length) 0xFFFFFFFF) ∧
      (refused = [] → Runs (.alertNRise time c) s fun t => t.reg (Reg.mcReportCnt c) = s.reg (Reg.mcReportCnt c)) ∧
      (refused.length = 1 → (∀ l ∈ refused, ∀ o ∈ s.mc.opens, o.id = l.id → o.status ≠ 2) → Runs (.alertNRise time c) s fun t =>
        t.regN (Reg.mcReportCnt c) = min (s.regN (Reg.mcReportCnt c) + 1) 0xFFFFFFFF ∧ t.bit (Reg.mcIrqRaw c) 3 = true))) ∧
  (∀ (s : State) (time : Nat) (c : Fin 2) (m : List LaneMove), mcRun s c = true → (s.chan c).driftAt + 1000000 ≤ (s.at time).dt →
    ∀ l, l < 5 → let v := s.fld (Reg.mcLaneDly c l) 16 8
      (s.bit (Reg.mcDriftStat c) l = true ∨ m.getD l .stay = .stay → Runs (.driftTrack time c m) s fun t =>
        t.reg (Reg.mcLaneDly c l) = s.reg (Reg.mcLaneDly c l)) ∧
      (s.bit (Reg.mcDriftStat c) l = false → m.getD l .stay = .up → Runs (.driftTrack time c m) s fun t =>
        t.fld (Reg.mcLaneDly c l) 16 8 = min 255 (v + 1)) ∧
      (s.bit (Reg.mcDriftStat c) l = false → m.getD l .stay = .down → Runs (.driftTrack time c m) s fun t =>
        t.fld (Reg.mcLaneDly c l) 16 8 = v - 1)) ∧
  (∀ (s : State) (time : Nat) (init : Init) (c : Fin 2) (l : Fin 5) (d : Word), accepts s init (Reg.mcLaneDly c l) true = true →
    Runs (.laneDlyWrite time init c l d) s fun t => t.reg (Reg.mcLaneDly c l) = d ∧ t.bit (Reg.mcDriftStat c) l = false ∧
      (t.chan c).drift = (s.chan c).drift.set l 0) ∧
  (∀ (s : State) (time : Nat) (c : Fin 2),
    (mcState s c = 3 → s.bit (Reg.mcSrCtrl c) 0 = true ∨ inP3 s = true → Runs (.selfRefreshEnter time c) s fun t =>
      mcState t c = 4 ∧ (t.chan c).wq = [] ∧ (t.chan c).lines = [] ∧ (t.chan c).flight = [] ∧ (t.chan c).reportW = []) ∧
    (mcState s c = 4 → requestWaits s = true ∨ (s.bit (Reg.mcSrCtrl c) 0 = false ∧ inP3 s = false) →
      Runs (.selfRefreshExit time c) s fun t => mcState t c = 3 ∧ t.mc.lastReq = (s.at time).dt) ∧
    (mcState s c = 3 → inP3 s = true → s.mc.lastReq + 100000 ≤ (s.at time).dt → requestWaits s = false →
      Runs (.mcIdleSelfRefresh time) s fun t => mcState t c = 4 ∧ (t.chan c).lines = []))

/-- MC_INIT with a geometry that can be configured leads from RESET or FAIL to INIT; MC_INIT_DONE leads to TRAIN with TRAIN_DONE;
MC_ENABLE leads from TRAIN to RUN, and MC_DISABLE back with everything held completed. A training operation in TRAIN sets BUSY,
and outside TRAIN ends at once with BAD_STATE, as an MRS of mode register 7 does; one written while BUSY is 1 is ignored.
TRAIN_MRS stores MRS_DATA in the mode register. TRAIN_DONE clears BUSY with its result, sets TRAIN_DONE, and sets CMP_RES for an
operation that samples or compares. -/
def Obligations.ChannelsInitialiseAndTrain : Prop :=
  (∀ (s : State) (time : Nat) (init : Init) (c : Fin 2), accepts s init (Reg.mcMcCtrl c) true = true →
    (mcState s c = 0 ∨ mcState s c = 5 → geomCap (s.reg (Reg.mcGeom c)) ≠ 0 → Runs (.mcInit time init c) s fun t =>
      mcState t c = 1 ∧ (t.chan c).bad = []) ∧
    (mcState s c = 0 → geomCap (s.reg (Reg.mcGeom c)) = 0 → Runs (.mcInit time init c) s fun t => mcState t c = 0) ∧
    (mcState s c = 2 → Runs (.mcEnable time init c) s fun t => mcState t c = 3 ∧ (t.chan c).zqAt = (s.at time).dt) ∧
    (mcState s c = 3 → Runs (.mcDisable time init c) s fun t => mcState t c = 2 ∧ (t.chan c).wq = [] ∧ (t.chan c).lines = [] ∧
      (t.chan c).flight = [] ∧ (t.chan c).reportW = [])) ∧
  (∀ (s : State) (time : Nat) (c : Fin 2), mcState s c = 1 → Runs (.mcInitDone time c) s fun t =>
    mcState t c = 2 ∧ t.bit (Reg.mcIrqRaw c) 6 = true ∧ (t.chan c).refAt = ((s.at time).dt, (s.at time).dt)) ∧
  (∀ (s : State) (time : Nat) (init : Init) (c : Fin 2) (rank : Bool) (mr : Fin 8), accepts s init (Reg.mcTrainCmd c) true = true →
    let op := fun (i : Instr) (n : Nat) =>
      (s.bit (Reg.mcTrainStat c) 0 = true → Runs i s fun t => t.chan c = s.chan c ∧ t.reg (Reg.mcTrainStat c) = s.reg (Reg.mcTrainStat c)) ∧
      (s.bit (Reg.mcTrainStat c) 0 = false → mcState s c = 2 → (n = 1 → mr ≠ 7) → Runs i s fun t =>
        t.bit (Reg.mcTrainStat c) 0 = true ∧ (t.chan c).op = some n) ∧
      (s.bit (Reg.mcTrainStat c) 0 = false → mcState s c ≠ 2 ∨ (n = 1 ∧ mr = 7) → Runs i s fun t =>
        t.bit (Reg.mcTrainStat c) 0 = false ∧ t.fld (Reg.mcTrainStat c) 4 2 = 1 ∧ t.bit (Reg.mcIrqRaw c) 6 = true)
    op (.trainMrs time init c rank mr) 1 ∧ op (.trainWlevel time init c rank) 2 ∧ op (.trainGate time init c rank) 3 ∧
    op (.trainMprRead time init c rank) 4 ∧ op (.trainPatWrite time init c rank) 5 ∧ op (.trainPatRead time init c rank) 6 ∧
    op (.trainZqcl time init c rank) 7 ∧
    (s.bit (Reg.mcTrainStat c) 0 = false → mcState s c = 2 → mr ≠ 7 → Runs (.trainMrs time init c rank mr) s fun t =>
      bankGet (fun _ => 0) (t.chan c).modeRegs (8 * bnat rank + mr) = s.reg (Reg.mcMrsData c))) ∧
  (∀ (s : State) (time : Nat) (c : Fin 2) (timeout : Bool) (a : Word) (b : BitVec 8) (op : Nat), (s.chan c).op = some op →
    Runs (.trainDone time c timeout a b) s fun t =>
      t.bit (Reg.mcTrainStat c) 0 = false ∧ t.fld (Reg.mcTrainStat c) 4 2 = (if timeout then 2 else 0) ∧ t.bit (Reg.mcIrqRaw c) 6 = true ∧
      (t.chan c).op = none ∧ t.reg (Reg.mcCmpRes0 c) = (if op ∈ [2, 3, 4, 6] then a else s.reg (Reg.mcCmpRes0 c)) ∧
      t.regN (Reg.mcCmpRes1 c) = if op ∈ [2, 3, 4, 6] then b.toNat else s.regN (Reg.mcCmpRes1 c))

/-- TASK_WRITE applies the staged configuration: refused with no core allowed, held while the task runs, OFF with EN = 0, WAIT
from OFF, else WAIT or READY by its flags. TASK_READ copies a configuration to the staging registers; TASK_CLEAR clears flags, and
a FLAG_SET word or TASK_TIMER_EXPIRE sets one, after which a waiting or ready task is READY just when it is ready. DEADLINE_MISS
sets LATE, counts DL_MISS and names the task, once per activation. What holds of a flag word as a whole is said for an event map
without entries, which could set further flags. -/
def Obligations.TaskCommandsFollowTheStateTable : Prop :=
  (∀ (s : State) (time : Nat) (w : Fin 9), accepts s w (Reg.tsWStgCmd w) true = true →
    let k := s.fld (Reg.tsWStgIdx w) 0 12
    let c := stagedCfg s w
    let bad := bitOf c.cfg 0 && decide (bitsOf c.cfg 16 8 = 0)
    let still := evtMap s = [] ∨ tapsOff s = true
    (bad = true → Runs (.taskWrite time w) s fun t => t.fld (Reg.tsWStgStat w) 4 3 = 1 ∧ t.task k = s.task k) ∧
    (bad = true → still → Runs (.taskWrite time w) s fun t => t.ts = s.ts ∧ taskState t k = taskState s k) ∧
    (bad = false → Runs (.taskWrite time w) s fun t => t.fld (Reg.tsWStgStat w) 4 3 = 0) ∧
    (bad = false → still → Runs (.taskWrite time w) s fun t => ∀ j, j ≠ k → t.task j = s.task j) ∧
    (bad = false → taskState s k = 3 → Runs (.taskWrite time w) s fun t => taskState t k = 3 ∧ t.task k = { s.task k with held := some c }) ∧
    (bad = false → taskState s k ≠ 3 → Runs (.taskWrite time w) s fun t => (t.task k).c = c ∧ (t.task k).held = none) ∧
    (bad = false → taskState s k ≠ 3 → bitOf c.cfg 0 = false → Runs (.taskWrite time w) s fun t => taskState t k = 0) ∧
    (bad = false → taskState s k = 0 → bitOf c.cfg 0 = true → still → Runs (.taskWrite time w) s fun t => taskState t k = 1) ∧
    (bad = false → taskState s k = 1 ∨ taskState s k = 2 → bitOf c.cfg 0 = true → Runs (.taskWrite time w) s fun t =>
      taskState t k = if taskReady t k then 2 else 1) ∧
    (Runs (.taskRead time w) s fun t =>
      t.reg (Reg.tsWStgMask w) = (s.task k).c.mask ∧ t.reg (Reg.tsWStgCfg w) = (s.task k).c.cfg ∧
      t.regN (Reg.tsWStgDlLo w) = (s.task k).c.dl % 2 ^ 32 ∧ t.regN (Reg.tsWStgTmrLo w) = (s.task k).c.tmr % 2 ^ 32 ∧
      t.regN (Reg.tsWStgDlHi w) = (s.task k).c.dl / 2 ^ 32 % 2 ^ 32 ∧ t.regN (Reg.tsWStgTmrHi w) = (s.task k).c.tmr / 2 ^ 32 % 2 ^ 32 ∧
      t.fld (Reg.tsWStgStat w) 4 3 = 0) ∧
    (still → Runs (.taskRead time w) s fun t => t.ts = s.ts) ∧
    (still → Runs (.taskClear time w) s fun t => t.fld (Reg.tsWStgStat w) 4 3 = 0 ∧
      t.reg (Reg.tsTaskFlags k) = s.reg (Reg.tsTaskFlags k) &&& ~~~(s.reg (Reg.tsWStgArg w) &&& ~~~(freshMask (s.at time) k))) ∧
    (taskState s k = 0 ∨ taskState s k = 3 → Runs (.taskClear time w) s fun t => taskState t k = taskState s k) ∧
    (taskState s k = 1 ∨ taskState s k = 2 → Runs (.taskClear time w) s fun t => taskState t k = if taskReady t k then 2 else 1)) ∧
  (∀ (s : State) (time : Nat) (w : Fin 9) (d : Word), accepts s w (Reg.tsWFlagSet w) true = true →
    let k := bitsOf d 0 12
    (Runs (.flagSet time w d) s fun t => t.bit (Reg.tsTaskFlags k) (bitsOf d 16 5) = true) ∧
    (evtMap s = [] ∨ tapsOff s = true → Runs (.flagSet time w d) s fun t =>
      t.reg (Reg.tsTaskFlags k) = putBit (s.reg (Reg.tsTaskFlags k)) (bitsOf d 16 5) true ∧
      freshMask t k = putBit (freshMask (s.at time) k) (bitsOf d 16 5) true) ∧
    (taskState s k = 0 ∨ taskState s k = 3 → Runs (.flagSet time w d) s fun t => taskState t k = taskState s k) ∧
    (taskState s k = 1 ∨ taskState s k = 2 → Runs (.flagSet time w d) s fun t => taskState t k = if taskReady t k then 2 else 1)) ∧
  (∀ (s : State) (time : Nat) (k : Fin 4096), islUp s 3 = true →
    (bitOf (s.task k).c.cfg 25 = true → 0 ≤ dt48diff (s.at time).now48 (s.task k).c.tmr →
      (Runs (.taskTimerExpire time k) s fun t => t.bit (Reg.tsTaskFlags k) 31 = true ∧ bitOf (t.task k).c.cfg 25 = false) ∧
      (evtMap s = [] → Runs (.taskTimerExpire time k) s fun t =>
        t.reg (Reg.tsTaskFlags k) = putBit (s.reg (Reg.tsTaskFlags k)) 31 true) ∧
      (taskState s k = 1 ∨ taskState s k = 2 → Runs (.taskTimerExpire time k) s fun t =>
        taskState t k = if taskReady t k then 2 else 1)) ∧
    (taskState s k = 2 ∨ taskState s k = 3 → bitOf (s.task k).c.cfg 24 = false → 0 < dt48diff (s.at time).now48 (s.task k).c.dl →
      (s.bit (Reg.tsTaskView k) 9 = false → Runs (.deadlineMiss time k) s fun t => t.bit (Reg.tsTaskView k) 9 = true ∧
        t.regN Reg.tsDlMiss = min (s.regN Reg.tsDlMiss + 1) 0xFFFFFFFF ∧ t.regN Reg.tsMissTask = k.val ∧ t.bit Reg.tsIrqRaw 0 = true) ∧
      (s.bit (Reg.tsTaskView k) 9 = true → Runs (.deadlineMiss time k) s fun t => t.bit (Reg.tsTaskView k) 9 = true ∧
        t.reg Reg.tsDlMiss = s.reg Reg.tsDlMiss)))

/-- TASK_DISPATCH gives a free, enabled core that is not LOST, in its turn, the first candidate, with its fired flags handed over.
DISP_READ empties the slot and keeps the holding. TASK_DONE frees the core and leads to WAIT or READY, a held WRITE applied,
TASK_DONE_DISABLE to OFF; a DONE of a core without a task is ignored. CORE_RESET returns the core's task, CORE_RELEASE clears
RST_HOLD and LOST. CORE_WDOG_WRITE restarts a watchdog; CORE_WDOG_EXPIRE sets WDOG and, with WDOG_LOSS, loses the core.
RECOVERY_END leaves affinity to MODE. MTIMER_EXPIRE asserts the timer interrupt. L2_CFG_WRITE keeps the bytes of the ways that
stay SRAM. -/
def Obligations.CoresTakeAndReturnTasks : Prop :=
  (∀ (s : State) (time : Nat) (c : Fin 8), islUp s 3 = true → coreTakes s c = true → holdOfCore s c = none → s.fld Reg.aoPmStat 0 3 ≠ 3 →
    coreTurn (s.at time) c = true →
    (∀ k : Nat, firstTask (s.at time) (candidates (s.at time) c) = some k →
      k ∈ candidates (s.at time) c ∧ (candidates (s.at time) c).all (fun j => !before (s.at time) j k) = true ∧
      (Runs (.taskDispatch time c) s fun t =>
        holdOfCore t c = some k ∧ taskState t k = 3 ∧ t.regN (Reg.tsWDisp c) = k + 2 ^ 31 ∧
        t.reg (Reg.tsWFired c) = handed (s.at time) k ∧ t.fld (Reg.tsTaskView k) 4 3 = c.val ∧ t.bit (Reg.tsTaskView k) 7 = true ∧
        t.bit (Reg.tsTaskView k) 8 = false ∧ t.pair Reg.tsDispLo = (s.pair Reg.tsDispLo + 1) % 2 ^ 48 ∧ t.ts.lastCore = c.val) ∧
      (evtMap s = [] → Runs (.taskDispatch time c) s fun t =>
        t.reg (Reg.tsTaskFlags k) = s.reg (Reg.tsTaskFlags k) &&& ~~~(handed (s.at time) k))) ∧
    (candidates (s.at time) c = [] → Runs (.taskDispatch time c) s fun t =>
      holdOfCore t c = none ∧ t.reg (Reg.tsWDisp c) = s.reg (Reg.tsWDisp c))) ∧
  (∀ (s : State) (time : Nat) (init : Init) (c : Fin 8), accepts s init (Reg.tsWDisp c) false = true →
    Runs (.dispRead time init c) s fun t =>
      t.resp = .data (s.reg (Reg.tsWDisp c)) ∧ t.reg (Reg.tsWDisp c) = 0 ∧ holdOfCore t c = holdOfCore s c) ∧
  (∀ (s : State) (time : Nat) (c : Fin 8), accepts s c (Reg.tsWDone c) true = true → doneOf s c = [] →
    (∀ k : Nat, holdOfCore s c = some k → k < 4096 → (∀ d, d < 8 → d ≠ c.val → doneOf s d = [] ∨ holdOfCore s d ≠ some k) →
      (∀ h : TaskCfg, (s.task k).held = some h →
        (bitOf h.cfg 0 = false → Runs (.taskDone time c) s fun t => holdOfCore t c = none ∧ t.bit (Reg.tsTaskView k) 9 = false ∧
          (t.task k).held = none ∧ (t.task k).c = h ∧ taskState t k = 0) ∧
        (bitOf h.cfg 0 = true → Runs (.taskDone time c) s fun t => holdOfCore t c = none ∧ t.bit (Reg.tsTaskView k) 9 = false ∧
          (t.task k).held = none ∧ (t.task k).c = h ∧ taskState t k = if taskReady t k then 2 else 1)) ∧
      ((s.task k).held = none → Runs (.taskDone time c) s fun t => holdOfCore t c = none ∧ t.bit (Reg.tsTaskView k) 9 = false ∧
        (t.task k).c = (s.task k).c ∧ taskState t k = if taskReady t k then 2 else 1) ∧
      (Runs (.taskDoneDisable time c) s fun t => holdOfCore t c = none ∧ taskState t k = 0 ∧ t.bit (Reg.tsTaskView k) 9 = false ∧
        freeAt t c = (s.at time).dt)) ∧
    (holdOfCore s c = none → (List.range 8).all (fun d => (doneOf s d).isEmpty) = true → evtMap s = [] ∨ tapsOff s = true →
      (Runs (.taskDone time c) s fun t => t.ts.tasks = s.ts.tasks ∧ t.ts.holds = s.ts.holds) ∧
      (Runs (.taskDoneDisable time c) s fun t => t.ts.tasks = s.ts.tasks ∧ t.ts.holds = s.ts.holds))) ∧
  (∀ (s : State) (time : Nat) (init : Init) (c : Fin 8),
    (accepts s init (Reg.ccCoreCtrl c) true = true →
      (Runs (.coreRelease time init c) s fun t => t.bit (Reg.ccCoreCtrl c) 0 = false ∧ t.bit (Reg.ccCoreStat c) 0 = false ∧
        t.bit (Reg.ccCoreStat c) 4 = false) ∧
      (Runs (.coreReset time init c) s fun t => t.bit (Reg.ccCoreCtrl c) 0 = true ∧ t.bit (Reg.ccCoreStat c) 0 = true ∧
        holdOfCore t c = none ∧ doneOf t c = []) ∧
      (∀ k : Nat, holdOfCore s c = some k → k < 4096 → doneOf s c = [] →
        (Runs (.coreReset time init c) s fun t => t.bit (Reg.tsTaskView k) 8 = true ∧ t.reg (Reg.tsWDisp c) = 0 ∧
          taskState t k = (if taskReady t k then 2 else 1) ∧ t.regN Reg.tsRestartCnt = min (s.regN Reg.tsRestartCnt + 1) 0xFFFFFFFF) ∧
        (evtMap s = [] → Runs (.coreReset time init c) s fun t =>
          t.reg (Reg.tsTaskFlags k) = s.reg (Reg.tsTaskFlags k) ||| s.reg (Reg.tsWFired c)))) ∧
    (∀ d : Word, accepts s init (Reg.ccCoreWdog c) true = true → Runs (.coreWdogWrite time init c d) s fun t =>
      t.fld (Reg.ccCoreWdog c) 0 24 = bitsOf d 0 24 ∧ coreWdogAt t c = some (s.at time).dt) ∧
    (∀ (lost : Bool) (a : Nat), coreWdogAt s c = some a → s.fld (Reg.ccCoreWdog c) 0 24 ≠ 0 →
      a + s.fld (Reg.ccCoreWdog c) 0 24 * 1000 ≤ (s.at time).dt →
      (s.bit (Reg.ccCoreCtrl c) 1 = true → Runs (.coreWdogExpire time c lost) s fun t =>
        t.bit Reg.ccCcIrqRaw (8 + c) = true ∧ coreWdogAt t c = none ∧ t.bit (Reg.ccCoreStat c) 4 = true ∧
        t.bit (Reg.ccCoreStat c) 0 = true ∧ holdOfCore t c = none ∧ t.bit Reg.fltFltStat 0 = true ∧
        (s.fld Reg.tsRecovUs 0 16 ≠ 0 → t.bit Reg.tsTsStat 0 = true)) ∧
      (s.bit (Reg.ccCoreCtrl c) 1 = false → Runs (.coreWdogExpire time c lost) s fun t =>
        t.bit Reg.ccCcIrqRaw (8 + c) = true ∧ coreWdogAt t c = none ∧
        t.reg (Reg.ccCoreStat c) = s.reg (Reg.ccCoreStat c) ∧ holdOfCore t c = holdOfCore s c)) ∧
    (timerIrq (s.at time) c = true → Runs (.mtimerExpire time c) s fun t => timerIrq t c = true ∧ t.bit (Reg.ccCoreStat c) 1 = false)) ∧
  (∀ (s : State) (time : Nat), s.bit Reg.tsTsStat 1 = true → s.ts.recovEnd ≤ (s.at time).dt → Runs (.recoveryEnd time) s fun t =>
    t.bit Reg.tsTsStat 1 = false ∧ t.bit Reg.tsTsStat 0 = s.bit Reg.tsTsCtrl 0) ∧
  (∀ (s : State) (time : Nat) (init : Init) (d : Word), accepts s init Reg.ccL2Cfg true = true → Runs (.l2CfgWrite time init d) s fun t =>
    t.fld Reg.ccL2Cfg 0 5 = bitsOf d 0 5 ∧ ∀ a, (a < l2Size t → memGet t.l2 a = memGet s.l2 a) ∧ (l2Size t ≤ a → memGet t.l2 a = memDefault a))

/-- CPU_TX_TAIL_WRITE stores TX_TAIL and changes nothing else. CPU_TX_FETCH moves a frame whose checks pass into PD26, a timed one
kept until its fate is known, and drops one that fails, its descriptors returned and the error counted. CPU_TX_COMPLETE returns
the descriptors of the oldest timed frame with the cookie and those finished behind it. CPU_RX_FRAME fills receive buffers and
moves RX_HEAD, waits, or drops the frame. PMU_COUNTER_WRAP adds to a running counter, and a wrap sets its OVF bit and takes a
sample. BW_WINDOW_END takes the window's totals, BW_RD_READ latches BW_WR, and BW_WIN_WRITE starts at the next multiple. -/
def Obligations.CpuRingsAndCountersMove : Prop :=
  (∀ (s : State) (time : Nat) (init : Init) (d : Word), accepts s init Reg.ccTxTail true = true →
    Runs (.cpuTxTailWrite time init d) s fun t => t.fld Reg.ccTxTail 0 12 = d.toNat % 4096 ∧ t.cc = s.cc ∧
      ∀ a, a ≠ Reg.ccTxTail → noteReg a = false → t.reg a = s.reg a) ∧
  (∀ (s : State) (time : Nat) (err : Bool) (p : List Nat × Nat × DirFrame),
    txFetch s { cpuTxRing s with head := (cpuTxRing s).head + (s.cc.txs.map (·.count)).sum } true 16383 err = some p →
    s.ao.held = false → s.bit Reg.ccCpuCtrl 0 = true → s.cc.txs.any (fun x => !x.words.isEmpty) = false →
    (p.2.1 = 0 → poundRoom s 26 = true → Runs (.cpuTxFetch time err) s fun t => (s.pound 26).level < (t.pound 26).level) ∧
    (p.2.1 = 0 → p.2.2.tsReq = true → Runs (.cpuTxFetch time err) s fun t => t.cc.txs.length = s.cc.txs.length + 1 ∧
      (t.cc.txs.getLast?.map fun x => (x.cookie, x.timed, x.count)) = some (p.2.2.cookie, true, p.1.length)) ∧
    (p.2.1 ≠ 0 → Runs (.cpuTxFetch time err) s fun t => t.pound 26 = s.pound 26 ∧ t.bit Reg.ccCcIrqRaw 1 = true) ∧
    (p.2.1 ≠ 0 → s.cc.txs = [] → Runs (.cpuTxFetch time err) s fun t => t.cc.txs = [] ∧
      t.regN Reg.ccTxHead = (s.fld Reg.ccTxHead 0 12 + p.1.length) % max 1 (s.fld Reg.ccTxRingSize 0 13)) ∧
    (p.2.1 = 8 → Runs (.cpuTxFetch time err) s fun t => t.regN Reg.ccDmaErr = min (s.regN Reg.ccDmaErr + 1) 0xFFFFFFFF ∧
      t.bit Reg.ccCcIrqRaw 4 = true ∧ t.bit Reg.topBuserrInfo 31 = true) ∧
    (p.2.1 ≠ 0 → p.2.1 ≠ 8 → Runs (.cpuTxFetch time err) s fun t =>
      t.regN Reg.ccDescErr = min (s.regN Reg.ccDescErr + 1) 0xFFFFFFFF ∧ t.bit Reg.ccCcIrqRaw 2 = true)) ∧
  (∀ (s : State) (time : Nat) (f : TxFate) (x : CpuTx) (r : List CpuTx), s.cc.txs = x :: r → x.timed = true → x.status = none → x.words = [] →
    x.cookie < 65536 → postFits s x.cookie f = true →
    Runs (.cpuTxComplete time (BitVec.ofNat 16 x.cookie) f) s fun t =>
      t.cc.txs = (txRetired r).2 ∧ t.bit Reg.ccCcIrqRaw 1 = true ∧
      t.regN Reg.ccTxHead = (s.fld Reg.ccTxHead 0 12 + x.count + (txRetired r).1) % max 1 (s.fld Reg.ccTxRingSize 0 13)) ∧
  (∀ (s : State) (time : Nat) (err : Bool) (p : List PWord × State), readPacket s 27 = some p → s.ao.held = false →
    s.bit Reg.ccCpuCtrl 1 = true → replaying s = false →
    let r := cpuRxRing s
    let parts := rxNeed r ((wordsData p.1).take ((wordsData p.1).length - 4))
    let short := ownedRx s r parts.length r.head < parts.length
    (short → s.bit Reg.ccCpuCtrl 2 = true → Runs (.cpuRxFrame time err) s fun t =>
      t.reg Reg.ccRxHead = s.reg Reg.ccRxHead ∧ t.pound 27 = s.pound 27) ∧
    (short → s.bit Reg.ccCpuCtrl 2 = false → Runs (.cpuRxFrame time err) s fun t => t.reg Reg.ccRxHead = s.reg Reg.ccRxHead ∧
      t.bit Reg.ccCcIrqRaw 3 = true ∧ t.regN Reg.ccRxRingOvf = min (s.regN Reg.ccRxRingOvf + 1) 0xFFFFFFFF) ∧
    (¬short → err = true → Runs (.cpuRxFrame time err) s fun t => t.reg Reg.ccRxHead = s.reg Reg.ccRxHead ∧
      t.regN Reg.ccDmaErr = min (s.regN Reg.ccDmaErr + 1) 0xFFFFFFFF ∧ t.bit Reg.ccCcIrqRaw 4 = true ∧ t.bit Reg.topBuserrInfo 31 = true) ∧
    (¬short → err = false → (rxFill p.2 r r.head parts).1 = true → Runs (.cpuRxFrame time err) s fun t =>
      t.regN Reg.ccRxHead = (r.head + parts.length) % max 1 r.size ∧ t.bit Reg.ccCcIrqRaw 0 = true)) ∧
  (∀ (s : State) (time : Nat) (k : Fin 16) (n : Nat) (init : Init) (priv : Fin 4) (pc : Option (BitVec 64)),
    let v := s.pair (Reg.pmuCntLo k) + n
    let full := decide ((s.fld Reg.pmuSmpHead 0 6 + 1) % 64 = s.fld Reg.pmuSmpTail 0 6)
    let on := pmuOn s k && pmuOutside s k init priv
    (on = false → Runs (.pmuCounterWrap time k n init priv pc) s fun t => t.pair (Reg.pmuCntLo k) = s.pair (Reg.pmuCntLo k)) ∧
    (on = true → Runs (.pmuCounterWrap time k n init priv pc) s fun t => t.pair (Reg.pmuCntLo k) = v % 2 ^ 48) ∧
    (on = true → 2 ^ 48 ≤ v → Runs (.pmuCounterWrap time k n init priv pc) s fun t =>
      t.bit Reg.pmuPmuOvf k = true ∧ t.bit Reg.pmuIrqRaw 0 = true) ∧
    (on = true → 2 ^ 48 ≤ v → s.bit (Reg.pmuEvt k) 12 = true → full = false → Runs (.pmuCounterWrap time k n init priv pc) s fun t =>
      t.regN Reg.pmuSmpHead = (s.fld Reg.pmuSmpHead 0 6 + 1) % 64) ∧
    (on = true → 2 ^ 48 ≤ v → s.bit (Reg.pmuEvt k) 12 = true → full = true → Runs (.pmuCounterWrap time k n init priv pc) s fun t =>
      t.bit Reg.pmuIrqRaw 2 = true ∧ t.regN Reg.pmuSmpLost = min (s.regN Reg.pmuSmpLost + 1) 0xFFFFFFFF)) ∧
  (∀ (s : State) (time : Nat), s.bit Reg.pmuBwCtrl 16 = true → s.pmu.winStart < (s.at time).dt / bwWinNs s * bwWinNs s →
    Runs (.bwWindowEnd time) s fun t =>
      (∀ q, q < 8 → t.regN (Reg.pmuBwRd q) = bankGet (fun _ => 0) s.pmu.rd q % 2 ^ 32 ∧
        t.regN (Reg.pmuBwPeak q) = max (s.regN (Reg.pmuBwPeak q)) ((bankGet (fun _ => 0) s.pmu.rd q + bankGet (fun _ => 0) s.pmu.wr q) % 2 ^ 32)) ∧
      t.pmu = { rd := [], wr := [], wrLast := s.pmu.wr, winStart := (s.at time).dt / bwWinNs s * bwWinNs s }) ∧
  (∀ (s : State) (time : Nat) (init : Init) (q : Fin 8), accepts s init (Reg.pmuBwRd q) false = true →
    let u := bwEnd (s.at time)
    Runs (.bwRdRead time init q) s fun t =>
      t.resp = .data (u.reg (Reg.pmuBwRd q)) ∧ t.regN (Reg.pmuBwWr q) = bankGet (fun _ => 0) u.pmu.wrLast q % 2 ^ 32) ∧
  (∀ (s : State) (time : Nat) (init : Init) (d : Word), accepts s init Reg.pmuBwCtrl true = true → Runs (.bwWinWrite time init d) s fun t =>
    t.fld Reg.pmuBwCtrl 0 16 = bitsOf d 0 16 ∧ t.pmu.rd = [] ∧ t.pmu.wr = [] ∧ t.pmu.winStart % bwWinNs t = 0 ∧
    (s.at time).dt ≤ t.pmu.winStart ∧ t.pmu.winStart < (s.at time).dt + bwWinNs t)

/-- GH_POWER_GOOD leads from OFF to START, with log and seal kept. GH_START_DONE leads to RUN with a START entry where the
signature verifies, and to FAULT with CAUSE 1, or for a wrong OTP CRC or layout. GH_FAULT leads from RUN to FAULT with its cause,
GH_SUPPLY_WARNING to HOLD with the entry in progress completed, GH_RESET from either to START, GH_POWER_LOSS to OFF.
ADJ_MODE_CHANGE shows the pin, which two changes within 10 ms do not. LC_RESULT writes the code of the measured voltages, clamped,
with its status; LC_CFG_WRITE marks three results SETTLING, and is ignored after the seal. GH_WDOG_WRITE restarts the watchdog;
APP_CMD_GO stores the words written to APP_BODY and queues a WEIGH request or ends with BAD_LEN; EXPORT_WAIT asserts 739 just when
the entry next to export has waited over 1 s. -/
def Obligations.TheGaugeHouseMovesByItsTable : Prop :=
  (∀ (s : State) (time : Nat), ghSt s = 0 → Runs (.ghPowerGood time) s fun t =>
    ghSt t = 1 ∧ t.gh.log = s.gh.log ∧ t.gh.sealed = s.gh.sealed ∧ t.regN Reg.ghLogHead = s.regN Reg.ghLogHead) ∧
  (∀ (s : State) (time : Nat) (img : GhImage), ghSt s = 1 →
    let keyed := (ghKeys s img.keys).gh
    let a := s.gh.active.getD (img.image, img.sig)
    let good := Config.ecdsaVerify keyed.maker (Config.sha256 a.1) a.2
    let cap := if s.gh.sealed then s.regN Reg.ghLogCap else img.logCap
    let sound := img.otpCrcOk = true ∧ img.layoutOk = true ∧ 4096 ≤ cap ∧ cap ≤ 262144
    let kept := bnat (img.page.any (pageKept s))
    (good = true → sound → Runs (.ghStartDone time img) s fun t => ghSt t = 2 ∧ t.regN Reg.ghLogCap = cap ∧
      t.gh.maker = keyed.maker ∧ t.gh.transport = keyed.transport ∧ t.gh.sealed = s.gh.sealed) ∧
    (good = true → sound → img.page = none ∨ s.gh.signKey ≠ [] →
      s.regN Reg.ghLogHead + kept < 16 * ((s.regN Reg.ghOutNext + cap) / 16 - 2) → Runs (.ghStartDone time img) s fun t =>
        t.regN Reg.ghLogHead = (s.regN Reg.ghLogHead + kept + 1) % 2 ^ 32) ∧
    (good = false → Runs (.ghStartDone time img) s fun t => ghSt t = 4 ∧ t.fld Reg.ghGhStat 8 4 = 1 ∧ t.bit Reg.fltFltStat 9 = true ∧
      t.gh.log = s.gh.log) ∧
    (good = true → img.otpCrcOk = false → Runs (.ghStartDone time img) s fun t => ghSt t = 4 ∧ t.fld Reg.ghGhStat 8 4 = 2 ∧
      t.bit Reg.fltFltStat 9 = true ∧ t.gh.log = s.gh.log) ∧
    (good = true → img.otpCrcOk = true → ¬sound → Runs (.ghStartDone time img) s fun t => ghSt t = 4 ∧ t.fld Reg.ghGhStat 8 4 = 3 ∧
      t.bit Reg.fltFltStat 9 = true ∧ t.gh.log = s.gh.log)) ∧
  (∀ (s : State) (time : Nat), ghSt s = 2 →
    (∀ c : GhCause, Runs (.ghFault time c) s fun t =>
      ghSt t = 4 ∧ t.fld Reg.ghGhStat 8 4 = ghCauseCode c ∧ t.bit Reg.fltFltStat 9 = true ∧ t.gh = s.gh) ∧
    (Runs (.ghSupplyWarning time) s fun t => ghSt t = 3 ∧ t.bit Reg.fltFltStat 9 = true) ∧
    (s.gh.items = [] → Runs (.ghSupplyWarning time) s fun t => t.gh.log = s.gh.log ∧ t.reg Reg.ghLogHead = s.reg Reg.ghLogHead) ∧
    (∀ (i : GhItem) (r : List GhItem), s.gh.items = i :: r → i.act = .none → logFree s ≠ 0 → Runs (.ghSupplyWarning time) s fun t =>
      t.gh.items = r ∧ t.regN Reg.ghLogHead = (s.regN Reg.ghLogHead + 1) % 2 ^ 32) ∧
    (∀ (ws : List Word) (d : Word), bitOf d 31 = true → s.bit Reg.ghcAppStat 0 = false →
      let body := fun (k : Nat) => if k < ws.length then (ws.getD k 0).toNat else s.regN (Reg.ghcAppBody k)
      (1 ≤ bitsOf d 0 8 → bitsOf d 0 8 ≤ 128 → Runs (.appCmdGo time ws d) s fun t => t.bit Reg.ghcAppStat 0 = true ∧
        (∀ k, k < 32 → t.regN (Reg.ghcAppBody k) = body k) ∧ t.gh.work = s.gh.work ++
          [.weigh (((List.range 32).flatMap (fun k => leBytes 4 (body k))).take (bitsOf d 0 8)) (s.at time).dt]) ∧
      (bitsOf d 0 8 = 0 ∨ 128 < bitsOf d 0 8 → Runs (.appCmdGo time ws d) s fun t => t.fld Reg.ghcAppStat 4 3 = 2 ∧ t.gh.work = s.gh.work))) ∧
  (∀ (s : State) (time : Nat), ghSt s = 3 ∨ ghSt s = 4 →
    (Runs (.ghReset time false) s fun t => ghSt t = 1 ∧ t.fld Reg.ghGhStat 8 4 = 0 ∧ t.gh.log = s.gh.log) ∧
    (s.fld Reg.ghcGhWdog 0 16 ≠ 0 → s.gh.wdogAt + 1000000 * s.fld Reg.ghcGhWdog 0 16 ≤ (s.at time).dt →
      Runs (.ghReset time true) s fun t => ghSt t = 1 ∧ t.fld Reg.ghGhStat 8 4 = 7 ∧ t.gh.log = s.gh.log)) ∧
  (∀ (s : State) (time : Nat),
    (∀ absent : Bool, Runs (.ghPowerLoss ⟨time, absent⟩) s fun t => ghSt t = 0 ∧ t.gh.log = s.gh.log ∧ t.gh.sealed = s.gh.sealed ∧
      t.gh.vdd = !absent ∧ t.regN (Reg.topIslStat 21) = if absent then 0x310 else 0x19) ∧
    (∀ b : Bool, ghSt s ≠ 0 →
      (s.gh.adjAt.all (fun d => decide (d + 10000000 ≤ (s.at time).dt)) = true → Runs (.adjModeChange time b) s fun t =>
        t.bit Reg.ghGhStat 4 = b ∧ ghSt t = ghSt s ∧ t.gh = { s.gh with adjAt := some (s.at time).dt }) ∧
      (s.gh.adjAt.all (fun d => decide (d + 10000000 ≤ (s.at time).dt)) = false → Runs (.adjModeChange time b) s fun t =>
        t.reg Reg.ghGhStat = s.reg Reg.ghGhStat ∧ t.gh = s.gh)) ∧
    (∀ d : Word, ghSt s ≠ 0 → ghSt s ≠ 1 → Runs (.ghWdogWrite time d) s fun t =>
      t.gh.wdogAt = (s.at time).dt ∧ t.regN Reg.ghcGhWdog = d.toNat % 65536) ∧
    (Runs (.exportWait time) s fun t => t.gh.waiting = (decide (s.regN Reg.ghOutNext < s.regN Reg.ghLogHead) &&
      decide (bankGet (fun _ => 0) s.gh.commitAt (s.regN Reg.ghOutNext) + 1000000000 < (s.at time).dt)))) ∧
  (∀ (s : State) (time : Nat) (c : Fin 4), 2 ≤ ghSt s →
    (∀ (i e : LcPair) (v : Int), s.bit (Reg.ghcLcCfg c) 0 = true →
      let code := (lcCode c i e (s.at time)).1
      let x := clampInt (-8388607) 8388607 code
      let ref := e.p - e.n
      let gain : Int := (2 ^ s.fld (Reg.ghcLcCfg c) 1 3 : Nat)
      (Runs (.lcResult time c i e v) s fun t => t.regN (Reg.ghcLcData c) = unsigned 24 x + 2 ^ 24 ∧
        t.bit (Reg.ghcLcStat c) 0 = decide (x ≠ code) ∧ t.bit (Reg.ghcLcStat c) 1 = decide (ref < 500000000) ∧
        t.bit (Reg.ghcLcStat c) 2 = lcOutside i v ∧ t.bit (Reg.ghcLcStat c) 3 = decide (bankGet (fun _ => 0) s.gh.settle c ≠ 0) ∧
        t.bit (Reg.ghcLcStat c) 4 = (ghTime (s.at time)).2 ∧ t.reg (Reg.ghLcRes c) = t.reg (Reg.ghcLcData c) ∧
        t.regN (Reg.ghcLcDtLo c) = (ghTime (s.at time)).1 % 2 ^ 32 ∧
        bankGet (fun _ => 0) t.gh.settle c = bankGet (fun _ => 0) s.gh.settle c - 1) ∧
      (1000000000 ≤ ref → ref ≤ 5500000000 → 2 * (code * ref - 8388608 * gain * (i.p - i.n)) ≤ ref ∧
        -ref ≤ 2 * (code * ref - 8388608 * gain * (i.p - i.n)))) ∧
    (∀ d : Word,
      (s.gh.sealed = false → Runs (.lcCfgWrite time c d) s fun t =>
        t.reg (Reg.ghcLcCfg c) = d &&& 0xFF ∧ bankGet (fun _ => 0) t.gh.settle c = 3) ∧
      (s.gh.sealed = true → Runs (.lcCfgWrite time c d) s fun t => t.reg (Reg.ghcLcCfg c) = s.reg (Reg.ghcLcCfg c) ∧ t.gh = s.gh)))

/-- In RUN: GH_INBOX_TAKE moves a whole frame that fits into the inbox and discards an aborted one. GH_RECORD_CHECK rejects the
frame at the head with the first cause that applies, or accepts a meter record with its GAP or keeps a control record in hand.
LOG_READ sets the entries to repeat. KEY_INSTALL, KEY_REMOVE, PARAM, FW_CHUNK and FW_COMMIT queue an AUDIT entry that carries the
change, and after the seal count it. SEAL sets SEAL, and the log starts again with one entry. LOG_COMMIT, at most once per 10 ms,
commits the entry that comes next, and its change takes effect; without a free entry a WEIGH request ends with LOG_FULL.
LOG_EXPORT writes the next entry into PD31 where it has room, or a repeat while no new entry waits. -/
def Obligations.RecordsAreCheckedCommittedAndExported : Prop :=
  (∀ (s : State) (time : Nat) (q : List PWord × List PWord), splitPacket ((s.pound 32).taken ++ (s.pound 32).ready) = some q → ghSt s = 2 →
    let cut := decide ((q.1.getLast?.map (·.abort)) = some true)
    (cut = true → Runs (.ghInboxTake time) s fun t => t.gh = s.gh) ∧
    (cut = false → inboxFill s + (wordsData q.1).length ≤ 32768 → Runs (.ghInboxTake time) s fun t =>
      t.gh.work = frameIn (s.at time).dt s.gh.work (.frame (wordsData q.1) (ghTime (s.at time)).1 (ghTime (s.at time)).2)) ∧
    (cut = false → 32768 < inboxFill s + (wordsData q.1).length → Runs (.ghInboxTake time) s fun t =>
      t.gh = s.gh ∧ t.pound 32 = s.pound 32)) ∧
  (∀ (s : State) (time : Nat) (f : List Byte × Nat × Bool), (match s.gh.work with
      | .frame b n l :: _ => some (b, n, l)
      | _ => none) = some f → ghSt s = 2 → s.gh.ctl = none → s.gh.items = [] →
    let adj := s.bit Reg.ghGhStat 4
    let rej := fun (c : Nat) => Runs (.ghRecordCheck time) s fun t => t.gh.work = s.gh.work.drop 1 ∧ t.gh.log = s.gh.log ∧
      t.regN (Reg.ghRejCnt c) = (s.regN (Reg.ghRejCnt c) + 1) % 2 ^ 32 ∧ t.gh.items = [] ∧ t.gh.ctl = none
    (recordPayload s f.1 = none → rej 0) ∧
    (∀ d : List Byte, recordPayload s f.1 = some d →
      (isCtl d = false → meterFormed d = false → rej 1) ∧
      (isCtl d = true → ctlFormed d = false → rej 1) ∧
      (isCtl d = true → ctlFormed d = true → logFree s = 0 → rej 5) ∧
      (isCtl d = true → ctlFormed d = true → logFree s ≠ 0 → ctlAllowed s (ctlOp d) adj = false → rej 6) ∧
      (isCtl d = true → ctlFormed d = true → logFree s ≠ 0 → ctlAllowed s (ctlOp d) adj = true →
        (ctlInOrder s d = false → rej 7) ∧
        (ctlInOrder s d = true → Runs (.ghRecordCheck time) s fun t => t.gh.work = s.gh.work.drop 1 ∧ t.gh.ctl = some (d, adj))) ∧
      (isCtl d = false → meterFormed d = true →
        (bankGet (fun _ => none) s.gh.meters (leAt d 4 4) = none → rej 2) ∧
        (∀ m : Meter, bankGet (fun _ => none) s.gh.meters (leAt d 4 4) = some m →
          let own := decide (Config.hmac m.key (d.take 46) = d.drop 46)
          (own = false → rej 3) ∧
          (own = true → leAt d 8 4 ≤ m.last → rej 4) ∧
          (own = true → m.last < leAt d 8 4 → logFree s = 0 → rej 5) ∧
          (own = true → m.last < leAt d 8 4 → logFree s ≠ 0 → Runs (.ghRecordCheck time) s fun t =>
            t.gh.work = s.gh.work.drop 1 ∧
            (t.gh.items.map fun i => (i.ty, i.gap, i.body)) = [(1, leAt d 8 4 - m.last - 1, d)] ∧
            bankGet (fun _ => none) t.gh.meters (leAt d 4 4) = some { m with last := leAt d 8 4 } ∧
            t.regN Reg.ghAccCnt = (s.regN Reg.ghAccCnt + 1) % 2 ^ 32))))) ∧
  (∀ (s : State) (time : Nat) (x : List Byte × Bool), s.gh.ctl = some x → ghSt s = 2 →
    let b := ctlBody x.1
    let audit := fun (t : State) (a : List GhAct) => t.gh.ctl = none ∧ t.gh.log = s.gh.log ∧ t.gh.meters = s.gh.meters ∧ t.gh.params = s.gh.params ∧
      t.gh.items.map (fun i => (i.ty, i.act)) = s.gh.items.map (fun i => (i.ty, i.act)) ++ a.map (fun a => (3, a)) ∧
      t.fld Reg.ghAuditCnt 0 14 = if s.gh.sealed && !a.isEmpty then min 16383 (s.fld Reg.ghAuditCnt 0 14 + 1) else s.fld Reg.ghAuditCnt 0 14
    (ctlOp x.1 = 1 → Runs (.logRead time) s fun t => t.gh.ctl = none ∧ t.gh.again = some (leAt b 0 4, leAt b 0 4 + leAt b 4 2)) ∧
    (ctlOp x.1 = 2 → Runs (.keyInstall time) s fun t =>
      audit t (match Config.keyUnwrap s.gh.transport (b.drop 4) with
        | none => []
        | some k => [.install (leAt b 0 4) k])) ∧
    (ctlOp x.1 = 3 → Runs (.keyRemove time) s fun t => audit t [.remove (leAt b 0 4)]) ∧
    (ctlOp x.1 = 4 → Runs (.paramCmd time) s fun t => audit t [.param (leAt b 0 2) (b.drop 4)]) ∧
    (ctlOp x.1 = 5 → Runs (.fwChunk time) s fun t => audit t [.chunk (leAt b 0 4) (b.drop 4)]) ∧
    (ctlOp x.1 = 6 → Runs (.fwCommit time) s fun t => audit t [.activate (memRead s.gh.stage 0 (leAt b 0 4)) (sliceB b 4 64)]) ∧
    (ctlOp x.1 = 7 → ghPaced (s.at time) = true → Runs (.sealCmd time) s fun t => t.gh.ctl = none ∧ t.gh.sealed = true ∧ t.bit Reg.ghGhStat 3 = true ∧
      t.regN Reg.ghLogHead = 1 ∧ t.gh.log.length ≤ 1 ∧ t.gh.log.all (fun e => decide (e.1 = 0)) = true)) ∧
  (∀ (s : State) (time : Nat), ghSt s = 2 →
    (∀ (i : GhItem) (r : List GhItem), s.gh.items = i :: r → ghPaced (s.at time) = true →
      (logFree s = 0 → i.act ≠ .app → Runs (.logCommit time) s fun t => t.gh = s.gh) ∧
      (logFree s ≠ 0 → Runs (.logCommit time) s fun t => t.gh.items = r ∧
        t.regN Reg.ghLogHead = (s.regN Reg.ghLogHead + 1) % 2 ^ 32 ∧ t.gh.torn = false ∧ t.gh.commitDt = some (s.at time).dt ∧
        bankGet (fun _ => 0) t.gh.commitAt (s.regN Reg.ghLogHead) = (s.at time).dt) ∧
      (∀ p : Nat × List Byte, (match i.act with
          | .install m k => some (m, k)
          | _ => none) = some p → logFree s ≠ 0 → Runs (.logCommit time) s fun t =>
        bankGet (fun _ => none) t.gh.meters p.1 = some { key := p.2 }) ∧
      (∀ p : Nat × List Byte, (match i.act with
          | .param o d => some (o, d)
          | _ => none) = some p → logFree s ≠ 0 → Runs (.logCommit time) s fun t => t.gh.params = memWrite s.gh.params p.1 p.2)) ∧
    (ghPaced (s.at time) = false → Runs (.logCommit time) s fun t => t.gh = s.gh ∧ t.reg Reg.ghLogHead = s.reg Reg.ghLogHead) ∧
    (∀ p : List Byte, (match s.gh.items, s.gh.work with
        | [], .weigh b _ :: _ => some b
        | _, _ => none) = some p → s.gh.ctl = none → ghPaced (s.at time) = true →
      (logFree s = 0 → Runs (.logCommit time) s fun t => t.gh.work = s.gh.work.drop 1 ∧ t.bit Reg.ghcAppStat 0 = false ∧
        t.fld Reg.ghcAppStat 4 3 = 1 ∧ t.gh.log = s.gh.log) ∧
      (logFree s ≠ 0 → Runs (.logCommit time) s fun t => t.gh.work = s.gh.work.drop 1 ∧ t.bit Reg.ghcAppStat 0 = false ∧
        t.fld Reg.ghcAppStat 4 3 = 0 ∧ t.regN Reg.ghWeighCnt = (s.regN Reg.ghWeighCnt + 1) % 2 ^ 32 ∧
        t.regN Reg.ghLogHead = (s.regN Reg.ghLogHead + 1) % 2 ^ 32)) ∧
    (s.regN Reg.ghOutNext < s.regN Reg.ghLogHead →
      let room := (exportPush (s.at time) false (bankGet (fun _ => []) s.gh.log (s.regN Reg.ghOutNext))).isSome
      (room = true → Runs (.logExport time) s fun t =>
        t.regN Reg.ghOutNext = s.regN Reg.ghOutNext + 1 ∧ (s.pound 31).level < (t.pound 31).level) ∧
      (room = false → Runs (.logExport time) s fun t => t.reg Reg.ghOutNext = s.reg Reg.ghOutNext ∧ t.gh.log = s.gh.log)) ∧
    (s.regN Reg.ghLogHead ≤ s.regN Reg.ghOutNext → ∀ p : Nat × Nat, repeatNext s = some p →
      (exportPush (s.at time) true (bankGet (fun _ => []) s.gh.log p.1)).isSome = true →
      Runs (.logExport time) s fun t => t.gh.again = some (p.1 + 1, p.2) ∧ t.reg Reg.ghOutNext = s.reg Reg.ghOutNext))

/-- Each chip-reset source leaves the device held with its bit alone in RST_CAUSE, the OTP and the gauge house as they were, DRAM
and the queues empty; all but POR keep the duty ledger, RTC and WAKE_CAUSE. A write of AO_WDOG restarts the watchdog, and CHIP_RST
resets for 0x0000_D0C5 only. RESET_RELEASE starts DT at 0 with islands 0 to 20 running, the lifecycle state as OTP holds it, and a
boot to come. BOOT_COPY jumps to copy A where its checks pass, else to copy B, else leaves CC0 in WFI with both results.
SUPPLY_LOW and SUPPLY_RETURN move their bit, the first with SUPPLY_WARN on a rise; PPS_PULSE raises PPS_OUT. -/
def Obligations.ChipResetsKeepWhatTheyMust : Prop :=
  (∀ (s : State) (time : Nat),
    let done := fun (c : Nat) (t : State) =>
      t.ao.held = true ∧ t.regN Reg.topRstCause = 2 ^ c ∧ t.sec.otp = s.sec.otp ∧ t.gh = s.gh ∧ t.dram = [] ∧ t.l2 = [] ∧ t.tstore = [] ∧
      t.tm.frames = [] ∧ t.dt = (s.at time).dt ∧ ghSt t = ghSt s ∧
      (c ≠ 0 → t.reg Reg.aoWakeCause = s.reg Reg.aoWakeCause ∧ rtcNow t = rtcNow (s.at time)) ∧
      (c ≠ 0 → (s.radio 0).run = none → (s.radio 1).run = none → (s.radio 2).run = none → t.duty = { s.duty with rsv := [] }) ∧
      (c = 0 → t.duty = {} ∧ t.regN Reg.aoWakeCause = 0 ∧ rtcNow t = 0)
    (Runs (.por time) s (done 0)) ∧ (Runs (.sysRstN time) s (done 1)) ∧ (Runs (.thermReset time) s (done 5)) ∧
    (∀ r : Fin 11, Runs (.supplyReset time r) s (done (if r.val = 1 then 0 else 4))) ∧
    (s.ao.held = false → Runs (.refLoss time) s (done 6)) ∧
    (s.ao.held = false → s.fld Reg.aoAoWdog 0 16 ≠ 0 → s.ao.wdogAt + s.fld Reg.aoAoWdog 0 16 * 1000000 ≤ (s.at time).dt →
      Runs (.aoWdogExpire time) s (done 2)) ∧
    (∀ init : Init, accepts s init Reg.topChipRst true = true → (Runs (.chipRst time init 0x0000D0C5) s (done 3)) ∧
      ∀ d : Word, d ≠ 0x0000D0C5 → Runs (.chipRst time init d) s fun t => t.ao.held = false ∧ t.dram = s.dram ∧
        t.reg Reg.topRstCause = s.reg Reg.topRstCause) ∧
    (∀ (init : Init) (d : Word), accepts s init Reg.aoAoWdog true = true → Runs (.aoWdogWrite time init d) s fun t =>
      t.ao.wdogAt = (s.at time).dt ∧ t.fld Reg.aoAoWdog 0 16 = bitsOf d 0 16) ∧
    (s.ao.held = true → s.ao.resAt + 1000000 ≤ (s.at time).dt → Runs (.resetRelease time) s fun t =>
      t.ao.held = false ∧ t.ao.booting = true ∧ t.dt = 0 ∧ lcState t = otpLc s ∧ rtcNow t = rtcNow (s.at time) ∧ ∀ i, i < 21 → islUp t i = true)) ∧
  (∀ (s : State) (time : Nat) (a b : FlashCopy), s.ao.booting = true → s.ao.held = false → inP4 s = false →
    let works := fun (c : FlashCopy) => decide (bootHeader s c = 0) && decide (fwLen c.header ≤ c.fw.length) &&
      decide (Config.sha256 (c.fw.take (fwLen c.header)) = sliceB c.header 0x20 32)
    (Runs (.bootCopy time a b) s fun t => t.ao.booting = false ∧ t.bit Reg.secBootStat 0 = (works a || works b)) ∧
    (works a = true → Runs (.bootCopy time a b) s fun t => t.bit Reg.secBootStat 1 = false ∧
      t.regN Reg.secBootSvn = leAt a.header 8 4 % 64 ∧ ∀ i, i < fwLen a.header → memGet t.l2 i = a.fw.getD i 0) ∧
    (works a = false → works b = true → Runs (.bootCopy time a b) s fun t => t.bit Reg.secBootStat 1 = true ∧
      t.regN Reg.secBootSvn = leAt b.header 8 4 % 64 ∧ ∀ i, i < fwLen b.header → memGet t.l2 i = b.fw.getD i 0) ∧
    (works a = true ∨ works b = true → Runs (.bootCopy time a b) s fun t => t.fld Reg.ccL2Cfg 0 5 = 16 ∧
      t.regN Reg.secSecureLimit < t.regN Reg.secSecureBase ∧ t.bit Reg.tsTsCtrl 0 = true ∧ t.bit (Reg.ccCoreStat 0) 0 = false) ∧
    (works a = false → works b = false → Runs (.bootCopy time a b) s fun t => t.bit (Reg.ccCoreStat 0) 1 = true ∧
      (bootHeader s a ≠ 0 → t.fld Reg.secBootStat 4 4 = bootHeader s a) ∧ (bootHeader s b ≠ 0 → t.fld Reg.secBootStat 8 4 = bootHeader s b))) ∧
  (∀ (s : State) (time : Nat) (b : SupplyBit),
    (s.bit Reg.aoSupplyStat (supplyBit b) = false → Runs (.supplyLow time b) s fun t =>
      t.bit Reg.aoSupplyStat (supplyBit b) = true ∧ t.bit Reg.aoIrqRaw 2 = true) ∧
    (Runs (.supplyReturn time b) s fun t => t.reg Reg.aoSupplyStat = putBit (s.reg Reg.aoSupplyStat) (supplyBit b) false ∧
      t.reg Reg.aoIrqRaw = s.reg Reg.aoIrqRaw) ∧
    ((s.at time).dt % 1000000000 = 0 → s.ao.held = false → inP4 s = false → Runs (.ppsPulse time) s fun t =>
      t.ao.ppsAt = some (s.at time).dt ∧ ppsOut t = true))

/-- PROVISION in OPEN with both keys and a right KEY_CRC programs PROVISIONED, pending until the next reset; SEAL in PROVISIONED
with the sluice sealed programs SEALED; RETURN moves to RETURNED at once with DEV_SECRET overwritten and the debug level NONE,
where a signature must verify in PROVISIONED and SEALED. What is not allowed ends with its RESULT and programs nothing. A word
that fails its verify is programmed in part, with RESULT OTP_FAIL. OTP_PROGRAM programs a word that the state allows and that
clears no bit; a failed verify leaves the old bits set. OTP_READ answers the word, and 0 with SECRET for DEV_SECRET. SVN_CMD
raises MIN_SVN to the value written when that value is above MIN_SVN and no higher than BOOT_SVN, and else MIN_SVN stays and
RESULT is NOT_ALLOWED (1). The MIN_SVN words hold a thermometer code, an invariant that StepsKeepTheInvariant states. -/
def Obligations.LifecycleCommandsProgramOtp : Prop :=
  (∀ (s : State) (time : Nat) (init : Init), accepts s init Reg.secLcCmd true = true → s.bit Reg.secLcResult 0 = false →
    let fails := fun (i : Instr) (r : Nat) => Runs i s fun t => t.fld Reg.secLcResult 4 3 = r ∧ t.bit Reg.secLcResult 0 = false ∧
      t.sec.otp = s.sec.otp ∧ lcState t = lcState s
    let partly := fun (i : Instr) (l : List (Nat × Word)) => Runs i s fun t => t.fld Reg.secLcResult 4 3 = 5 ∧
      t.bit Reg.secLcResult 0 = false ∧ lcState t = lcState s ∧ t.fld Reg.secLcStat 2 2 = otpLc t ∧
      (∀ e ∈ l, otpWord s e.1 &&& ~~~(otpWord t e.1) = 0 ∧ otpWord t e.1 &&& ~~~(otpWord s e.1 ||| e.2) = 0) ∧
      ∀ j, j ∉ l.map (·.1) → otpWord t j = otpWord s j
    let next := fun (i : Instr) (w : Word) => Runs i s fun t => t.fld Reg.secLcResult 4 3 = 0 ∧ t.bit Reg.secLcResult 0 = false ∧
      otpWord t 0 = otpWord s 0 ||| w ∧ lcState t = lcState s ∧ t.fld Reg.secLcStat 2 2 = otpLc t ∧
      ∀ j, j ≠ 0 → otpWord t j = otpWord s j
    let ready := (pubKey s 16).isSome && (pubKey s 48).isSome && keysOk s
    let signed := sigOk (pubKey s 48) ([0x52, 0x45, 0x54, 0x55, 0x52, 0x4E] ++ otpBytes s 1 2) (returnSig s)
    let free := lcState s = 0 || signed
    (lcState s = 0 → ready = true → next (.provision time ⟨init, true⟩) 1 ∧ partly (.provision time ⟨init, false⟩) [(0, 1)]) ∧
    (lcState s = 1 → otpSluSealed s = true → next (.lcSeal time ⟨init, true⟩) 3 ∧ partly (.lcSeal time ⟨init, false⟩) [(0, 3)]) ∧
    (lcState s ≠ 3 → free = true →
      (Runs (.returnCmd time ⟨init, true⟩) s fun t => t.fld Reg.secLcResult 4 3 = 0 ∧ t.bit Reg.secLcResult 0 = false ∧ lcState t = 3 ∧
        t.fld Reg.secDbgStat 0 2 = 0 ∧ otpWord t 0 = otpWord s 0 ||| 7 ∧ (∀ k, k < 8 → otpWord t (8 + k) = 0xFFFFFFFF) ∧
        ∀ j, j ≠ 0 → (j < 8 ∨ 16 ≤ j) → otpWord t j = otpWord s j) ∧
      partly (.returnCmd time ⟨init, false⟩) ((0, 7) :: (List.range 8).map (fun k => (8 + k, 0xFFFFFFFF)))) ∧
    (∀ ok : Bool,
      (lcState s = 0 → ready = false → fails (.provision time ⟨init, ok⟩) 2) ∧ (lcState s ≠ 0 → fails (.provision time ⟨init, ok⟩) 1) ∧
      (lcState s = 1 → otpSluSealed s = false → fails (.lcSeal time ⟨init, ok⟩) 3) ∧ (lcState s ≠ 1 → fails (.lcSeal time ⟨init, ok⟩) 1) ∧
      (lcState s = 3 → fails (.returnCmd time ⟨init, ok⟩) 1) ∧ (lcState s ≠ 3 → free = false → fails (.returnCmd time ⟨init, ok⟩) 4))) ∧
  (∀ (s : State) (time : Nat) (init : Init), accepts s init Reg.secOtpCmd true = true →
    let i := s.fld Reg.secOtpAddr 0 9
    let d := s.reg Reg.secOtpData
    let may := otpWritable s i && (otpWord s i &&& ~~~d == 0)
    let ends := fun (i : Instr) (r : Nat) (w : Word) => Runs i s fun t => t.bit Reg.secIrqRaw 3 = true ∧ t.fld Reg.secOtpStat 4 3 = r ∧
      t.sec.otp = s.sec.otp ∧ t.reg Reg.secOtpData = w
    (may = true → Runs (.otpProgram time init true) s fun t => t.bit Reg.secIrqRaw 3 = true ∧ otpWord t i = d ∧
      t.fld Reg.secOtpStat 4 3 = 0 ∧ ∀ j, j ≠ i → otpWord t j = otpWord s j) ∧
    (may = true → Runs (.otpProgram time init false) s fun t => t.bit Reg.secIrqRaw 3 = true ∧ t.fld Reg.secOtpStat 4 3 = 3 ∧
      otpWord s i &&& ~~~(otpWord t i) = 0 ∧ otpWord t i &&& ~~~d = 0 ∧ ∀ j, j ≠ i → otpWord t j = otpWord s j) ∧
    (∀ ok : Bool, may = false → ends (.otpProgram time init ok) 1 d) ∧
    (8 ≤ i → i ≤ 15 → ends (.otpRead time init) 2 0) ∧
    (i < 8 ∨ 15 < i → ends (.otpRead time init) 0 (otpWord s i))) ∧
  (∀ (s : State) (time : Nat) (init : Init) (d : Word), accepts s init Reg.secSvnCmd true = true → svnCode s = true →
    let v := bitsOf d 0 6
    (minSvn s < v → v ≤ s.fld Reg.secBootSvn 0 6 →
      (Runs (.svnCmd time ⟨init, true⟩ d) s fun t => minSvn t = v ∧ t.fld Reg.secLcResult 4 3 = 0) ∧
      (Runs (.svnCmd time ⟨init, false⟩ d) s fun t => t.fld Reg.secLcResult 4 3 = 5 ∧
        ∀ k ∈ [5, 6], otpWord s k &&& ~~~(otpWord t k) = 0)) ∧
    (∀ ok : Bool, v ≤ minSvn s ∨ s.fld Reg.secBootSvn 0 6 < v → Runs (.svnCmd time ⟨init, ok⟩ d) s fun t =>
      minSvn t = minSvn s ∧ t.sec.otp = s.sec.otp ∧ t.fld Reg.secLcResult 4 3 = 1))

/-- SECURE_LOCK can only be set. HMAC_START ends at once with NO_KEY in RETURNED or BAD_LEN for a wrong length, and else begins.
HMAC_DONE writes the result directly after the bytes, or on an error response writes nothing and ends with DRAM. DBG_CHAL draws a
fresh NONCE unless a failure withholds it; DBG_RESP uses it up and grants its level, or fails with its RESULT and withholds the
next NONCE, which DBG_BACKOFF_END ends after 1 s. DBG_REVOKE with 1 returns the level to NONE. -/
def Obligations.SignaturesAndDebugLevelsAreGranted : Prop :=
  (∀ (s : State) (time : Nat) (init : Init) (d : Word), accepts s init Reg.secSecureLock true = true →
    Runs (.secureLock time init d) s fun t => t.bit Reg.secSecureLock 0 = (s.bit Reg.secSecureLock 0 || bitOf d 0)) ∧
  (∀ (s : State) (time : Nat) (init : Init), accepts s init Reg.secHmacCmd true = true → s.bit Reg.secHmacStat 0 = false →
    let n := s.fld Reg.secHmacLen 0 22
    let fit := decide (n % 64 = 0) && decide (256 ≤ n) && decide (n ≤ 3145664)
    (lcState s = 3 → Runs (.hmacStart time init) s fun t =>
      t.fld Reg.secHmacStat 4 3 = 3 ∧ t.bit Reg.secHmacStat 0 = false ∧ t.bit Reg.secIrqRaw 2 = true) ∧
    (lcState s ≠ 3 → fit = false → Runs (.hmacStart time init) s fun t =>
      t.fld Reg.secHmacStat 4 3 = 1 ∧ t.bit Reg.secHmacStat 0 = false ∧ t.bit Reg.secIrqRaw 2 = true) ∧
    (lcState s ≠ 3 → fit = true → Runs (.hmacStart time init) s fun t => t.bit Reg.secHmacStat 0 = true ∧
      t.sec.hmac = some (s.regN Reg.secHmacAddrLo / 64 * 64 + 2 ^ 32 * s.fld Reg.secHmacAddrHi 0 8, n, genKey s))) ∧
  (∀ (s : State) (time : Nat) (err : Bool) (h : Nat × Nat × List Byte), s.sec.hmac = some h →
    let o := h.1 - 0x800000000
    let out := Config.hmac h.2.2 (s.dramRead o h.2.1)
    let bad := err || decide (h.1 < 0x800000000) || decide (0x800000000 + dramCap s < h.1 + h.2.1 + 32) ||
      (dramFault s o h.2.1 false).isSome
    (Runs (.hmacDone time err) s fun t => t.sec.hmac = none ∧ t.bit Reg.secHmacStat 0 = false ∧ t.bit Reg.secIrqRaw 2 = true ∧
      t.fld Reg.secHmacStat 4 3 = if bad then 2 else 0) ∧
    (bad = true → Runs (.hmacDone time err) s fun t => ∀ a, outRing s a = true → memGet t.dram a = memGet s.dram a) ∧
    (bad = false → Runs (.hmacDone time err) s fun t =>
      (∀ i, i < out.length → outRing s (o + h.2.1 + i) = true → memGet t.dram (o + h.2.1 + i) = out.getD i 0) ∧
      ∀ a, outRing s a = true → a < o + h.2.1 ∨ o + h.2.1 + out.length ≤ a → memGet t.dram a = memGet s.dram a)) ∧
  (∀ (s : State) (time : Nat), dbgServes s = true →
    (dbgBackoff (s.at time) = false → Runs (.dbgChal time) s fun t => t.sec.nonce = some (Config.freeBytes s.freeCtr 16) ∧
      t.sec.chal = chalBytes s (Config.freeBytes s.freeCtr 16) ∧ s.freeCtr < t.freeCtr ∧ t.sec.backoff = none) ∧
    (dbgBackoff (s.at time) = true → Runs (.dbgChal time) s fun t => t.sec = s.sec) ∧
    (∀ (level : BitVec 8) (sig : List Byte),
      let r := dbgResult (s.at time) level sig
      (r = 0 → Runs (.dbgResp time level sig) s fun t => t.sec.nonce = none ∧ t.fld Reg.secDbgStat 0 2 = level.toNat ∧
        t.fld Reg.secDbgStat 4 3 = 0 ∧ t.bit Reg.secIrqRaw 0 = true) ∧
      (r ≠ 0 → Runs (.dbgResp time level sig) s fun t => t.sec.nonce = none ∧ t.fld Reg.secDbgStat 0 2 = s.fld Reg.secDbgStat 0 2 ∧
        t.fld Reg.secDbgStat 4 3 = r ∧ t.bit Reg.secIrqRaw 1 = true ∧ t.sec.backoff = some (s.at time).dt))) ∧
  (∀ (s : State) (time a : Nat), s.sec.backoff = some a →
    (a + 1000000000 ≤ (s.at time).dt → Runs (.dbgBackoffEnd time) s fun t => t.sec.backoff = none) ∧
    ((s.at time).dt < a + 1000000000 → Runs (.dbgBackoffEnd time) s fun t => t.sec = s.sec)) ∧
  (∀ (s : State) (time : Nat) (init : Init) (d : Word), accepts s init Reg.secDbgRevoke true = true → Runs (.dbgRevoke time init d) s fun t =>
    t.fld Reg.secDbgStat 0 2 = if bitOf d 0 then 0 else s.fld Reg.secDbgStat 0 2)

/-- PM_STATE_CHANGE moves the device to the deepest permitted state of P0 to P3, raising STATE_CHANGE where it changes. STANDBY
enters P4, where DRAM and the queues are lost, or is refused with its BLOCK cause. PM_WAKE, WAKE_N and RTC_ALARM lead to P0 with
their WAKE_CAUSE bit, out of P4 with WAKE_CAUSE.P4 and a boot to come. A radio or stall octet in P2 or P3 sleeps through an
interval without work, the radio's synthesiser off, and wakes before its next firing entry, warm again, or for a gate or a frame.
Whether a core waits in WFI is a free value (notes/assumptions/6.md). -/
def Obligations.PowerStatesAreEnteredAndLeft : Prop :=
  (∀ (s : State) (time : Nat), s.ao.held = false → inP4 s = false → secBusy s = false →
    let u := wfiSample (s.at time)
    (pmRested (s.at time) = true → Runs (.pmStateChange time) s fun t => pmState t = pmDeepest u ∧
      t.bit Reg.aoIrqRaw 0 = (s.bit Reg.aoIrqRaw 0 || decide (pmState t ≠ pmState s)) ∧
      t.ao.pmAt = if pmState t = pmState s then s.ao.pmAt else some (s.at time).dt) ∧
    (pmRested (s.at time) = true → s.fld Reg.aoPmCtrl 1 3 = 0 → Runs (.pmStateChange time) s fun t => pmState t = 0) ∧
    (∀ init : Init, accepts s init Reg.aoPmCmd true = true →
      (pmReason u 4 = 0 → Runs (.standby time init) s fun t => pmState t = 4 ∧ t.bit Reg.aoIrqRaw 0 = true ∧ t.dram = [] ∧ t.l2 = [] ∧
        t.tm.frames = [] ∧ t.gh = s.gh ∧ t.sec.otp = s.sec.otp ∧ t.fld Reg.secDbgStat 0 2 = 0) ∧
      (pmReason u 4 ≠ 0 → Runs (.standby time init) s fun t => pmState t = pmState s ∧
        t.fld Reg.aoPmStat 8 3 = pmReason u 4 ∧ t.dram = s.dram))) ∧
  (∀ (s : State) (time : Nat),
    let woken := fun (i : Instr) (c : WakeCause) =>
      (Runs i s fun t => pmState t = 0 ∧ t.bit Reg.aoWakeCause (wakeBit c) = true ∧ t.bit Reg.aoIrqRaw 3 = true) ∧
      (inP4 s = true → Runs i s fun t => t.bit Reg.aoWakeCause 8 = true ∧ t.ao.booting = true ∧
        t.reg Reg.topRstCause = s.reg Reg.topRstCause)
    (∀ c : WakeCause, wakes (s.at time) c = true → woken (.pmWake time c) c) ∧
    (wakes (s.at time) .wakeN = true → s.ao.held = false → woken (.wakeN time) .wakeN) ∧
    (rtcNow (s.at time) = alarmWritten (s.at time) → s.ao.held = false →
      (wakes (s.at time) .rtcAlarm = true → woken (.rtcAlarm time) .rtcAlarm) ∧
      (wakes (s.at time) .rtcAlarm = false → Runs (.rtcAlarm time) s fun t => t.bit Reg.aoIrqRaw 1 = true ∧ pmState t = pmState s))) ∧
  (∀ (s : State) (time : Nat) (r : Radio),
    let x := rIdx r
    (pmState s = 2 ∨ pmState s = 3 → islUp s (8 + x) = true → asleep s (8 + x) = false → txState s x = 0 → (s.airOf x).play = none →
      (s.radio x).cal = none → entrySoon (s.at time) x 100000 = false →
      Runs (.radioSleep time r) s fun t => asleep t (8 + x) = true ∧ synState t x = 0 ∧ (s.bit (Reg.topIslCtrl (8 + x)) 1 = false → islPowered t (8 + x) = true)) ∧
    (asleep s (8 + x) = true → pmState s < 2 ∨ entrySoon (s.at time) x 60000 = true →
      Runs (.radioWake time r) s fun t => asleep t (8 + x) = false ∧ islUp t (8 + x) = true ∧ synState t x = 1)) ∧
  (∀ (s : State) (time : Nat) (k : Fin 8),
    (pmState s = 2 ∨ pmState s = 3 → islUp s (11 + k) = true → asleep s (11 + k) = false → (s.pound (8 + k)).level = 0 →
      (List.range 8).all (fun j => portShut (s.at time) (8 * k + j) 20000) = true →
      Runs (.octetSleep time k) s fun t => asleep t (11 + k) = true ∧ islUp t (11 + k) = true) ∧
    (asleep s (11 + k) = true → octetDue (s.at time) k = true → Runs (.octetWake time k) s fun t => asleep t (11 + k) = false ∧ islUp t (11 + k) = true))

/-- HANG_DETECT of a due monitor sets HANG and raises ISLAND_HANG; with HANG_ACT the island is reset, or for MC its scheduler
restarts, and the third declaration within 1 s escalates; without it the island runs on. HANG_RESET_RELEASE starts the island's
clock 1 µs later, unless it escalated. MC_SCHED_RESTART_DONE reissues every queued request in its original order and clears HANG.
PAGE_REFETCH marks a resident page; PAGE_REFETCH_DONE writes it again from the image, and it stays damaged, with a fault, on an
error response or a wrong CRC. GAP_RECORD puts a record of a tap's discards into the tap's pound once it has room. -/
def Obligations.HangsAndDamagedPagesAreRepaired : Prop :=
  (∀ (s : State) (time : Nat) (i : Fin 22), hangDue (s.at time) i = true →
    let l := ((s.hangMon i).decls ++ [(s.at time).dt]).filter (fun d => decide ((s.at time).dt ≤ d + 1000000000))
    let third := decide (3 ≤ l.length)
    Runs (.hangDetect time i) s (fun t =>
      t.bit (Reg.topIslStat i) 5 = true ∧ t.bit Reg.topIrqRaw 1 = true ∧ t.bit Reg.fltFltStat 1 = true ∧
      t.regN (Reg.fltFltCnt 1) = min (s.regN (Reg.fltFltCnt 1) + 1) 0xFFFFFFFF) ∧
    (s.bit Reg.fltFltCtrl 0 = false → Runs (.hangDetect time i) s fun t => islUp t i = true ∧ (t.hangMon i).decls = l) ∧
    (s.bit Reg.fltFltCtrl 0 = true → i.val ≠ 7 → Runs (.hangDetect time i) s fun t =>
      islUp t i = false ∧ islInReset t i = true ∧ (t.hangMon i).esc = third ∧ (t.hangMon i).resetAt = some (s.at time).dt) ∧
    (s.bit Reg.fltFltCtrl 0 = true → i.val = 7 → Runs (.hangDetect time i) s fun t =>
      t.mc = s.mc ∧ t.dram = s.dram ∧ (t.hangMon i).esc = third ∧ (t.hangMon i).resetAt = if third then none else some (s.at time).dt)) ∧
  (∀ (s : State) (time : Nat) (i : Fin 22) (a : Nat), (s.hangMon i).resetAt = some a → i.val ≠ 7 → a + 1000 ≤ (s.at time).dt →
    s.bit (Reg.topIslCtrl i) 0 = false → islPowered s i = true →
    ((s.hangMon i).esc = false → Runs (.hangResetRelease time i) s fun t =>
      t.bit (Reg.topIslStat i) 1 = true ∧ (t.hangMon i).resetAt = none) ∧
    ((s.hangMon i).esc = true → Runs (.hangResetRelease time i) s fun t =>
      t.reg (Reg.topIslStat i) = s.reg (Reg.topIslStat i) ∧ t.hangMon i = s.hangMon i)) ∧
  (∀ (s : State) (time a : Nat), (s.hangMon 7).resetAt = some a → Runs (.mcSchedRestartDone time) s fun t =>
    t.bit (Reg.topIslStat 7) 5 = false ∧ (t.hangMon 7).resetAt = none ∧ (t.hangMon 7).readyAt = (s.at time).dt ∧
    t.mc.opens = s.mc.opens ∧ t.dram = s.dram ∧
    ∀ c, c < 2 → (t.chan c).flight = [] ∧ (t.chan c).lines.length = (s.chan c).flight.length + (s.chan c).lines.length ∧
      (t.chan c).wq = (s.chan c).wq ∧ (t.chan c).alertAt = none ∧
      (t.chan c).lines.map (·.id) = (((s.chan c).flight ++ (s.chan c).lines).map (·.id)).mergeSort (fun a b => decide (a ≤ b))) ∧
  (∀ (s : State) (time : Nat) (k : Fin 4) (p : Fin 768), islUp s 6 = true →
    (2 ≤ slotState s k → p.val < (slotPages s k).length → (s.gen.bad ++ s.gen.lost).contains (k.val, p.val) = false →
      Runs (.pageRefetch time k p) s fun t => t.gen.bad = s.gen.bad ++ [(k.val, p.val)] ∧ t.bit Reg.fltFltStat 8 = true ∧ t.tstore = s.tstore) ∧
    (slotState s k < 2 → Runs (.pageRefetch time k p) s fun t => t.gen = s.gen)) ∧
  (∀ (s : State) (time : Nat) (k : Fin 4) (p : Fin 768), s.gen.bad.contains (k.val, p.val) = true →
    let a := bankGet (fun _ => (0 : Nat)) s.gen.loadAt k + 4096 * p.val
    let n := min 4096 (i32 (slotImg s k) 0x10 - 4096 * p.val)
    (∀ err : Bool, p.val < (slotPages s k).length → err = true ∨ dmaGood s false a n false = false → Runs (.pageRefetchDone time k p err) s fun t =>
      t.gen.bad.contains (k.val, p.val) = false ∧ t.gen.lost = s.gen.lost ++ [(k.val, p.val)] ∧ t.bit Reg.fltFltStat 8 = true ∧ t.tstore = s.tstore) ∧
    (∀ q : Nat, (slotPages s k)[p.val]? = some q → dmaGood s false a n false = true → Runs (.pageRefetchDone time k p false) s fun t =>
      t.gen.bad.contains (k.val, p.val) = false ∧
      (∀ i, i < n → memGet t.tstore (4096 * q + i) = (dmaRead s a n).getD i 0) ∧
      (∀ o, o < 4096 * q ∨ 4096 * q + 4096 ≤ o → memGet t.tstore o = memGet s.tstore o) ∧
      t.gen.lost = if pageTablesOk t k p then s.gen.lost else s.gen.lost ++ [(k.val, p.val)])) ∧
  (∀ (s : State) (time : Nat) (k : Fin 3), recording s k = true → gapOf s k ≠ 0 →
    (tapRoom s k 1 = true → Runs (.gapRecord time k) s fun t => gapOf t k = 0 ∧ t.bit Reg.tpIrqRaw 0 = true ∧
      (s.pound (33 + k)).flight ++ tapWords (s.at time) k 13 3 (s.at time).now48 0 (min (gapOf s k) 0xFFFFFFFF) [] <+: (t.pound (33 + k)).flight) ∧
    (tapRoom s k 1 = false → Runs (.gapRecord time k) s fun t => gapOf s k ≤ gapOf t k))

/-- MARK_SET begins the mark's checkpoint behind the records of the tap pounds, or ends with BUSY, NOT_RECORDING or IN_USE;
CKPT_END makes the mark VALID, or LOST where a record of the checkpoint was lost; MARK_RELEASE returns a VALID or LOST mark to
FREE, and refuses others. TP_MODE_WRITE changes the mode but for a direct change between RECORD and REPLAY, and stops a replay
whose mode it leaves. REPLAY_START is refused with its RESULT or restores the checkpoint at its DT; REPLAY_STOP ends a replay.
REPLAY_RECORD plays the next record once its DT has come, ends the replay where the records end, and counts each divergence, the
first latched with its place. The clauses on marks are for a recorder whose CC tap is off. -/
def Obligations.MarksAreTakenAndRecordsReplayed : Prop :=
  (∀ (s : State) (time : Nat) (init : Init) (m : Fin 16), accepts s init Reg.tpMarkCmd true = true → s.bit Reg.tpMarkCmdStat 0 = false →
    s.bit Reg.tpTpCtrl 18 = false →
    let ends := fun (t : State) (r : Nat) => t.fld Reg.tpMarkCmdStat 4 3 = r
    let recs := decide (s.fld Reg.tpTpCtrl 0 2 = 1) && decide (ringUnits s ≠ 0)
    let u := gapWrite (tapDrain (s.at time))
    let fits := !u.bit Reg.tpTpCtrl 2 || (liveMarks u).all (fun k => decide (1 ≤ roomBefore u k))
    (s.tp.taking ≠ none → Runs (.markSet time init m) s fun t => ends t 1 ∧ t.tp = s.tp ∧ markState t m = markState s m) ∧
    (s.tp.taking = none → recs = false → Runs (.markSet time init m) s fun t => ends t 2 ∧ t.tp = s.tp) ∧
    (s.tp.taking = none → recs = true → markState s m ≠ 0 → Runs (.markSet time init m) s fun t => ends t 3 ∧ markState t m = markState s m) ∧
    (s.tp.taking = none → recs = true → markState s m = 0 → fits = false → Runs (.markSet time init m) s fun t => ends t 1 ∧ markState t m = 0) ∧
    (s.tp.taking = none → recs = true → markState s m = 0 → fits = true → Runs (.markSet time init m) s fun t =>
      ends t 0 ∧ markState t m = 1 ∧ t.tp.taking = some m ∧ t.tp.ckpt = some (takeCkpt u) ∧
      t.regN (Reg.tpMarkPtr m) = u.regN Reg.tpWrPtr ∧ t.pair (Reg.tpMarkDtLo m) = (s.at time).now48) ∧
    (markState s m = 2 ∨ markState s m = 3 → Runs (.markRelease time init m) s fun t => ends t 0 ∧ markState t m = 0) ∧
    (markState s m = 0 ∨ markState s m = 1 → Runs (.markRelease time init m) s fun t => ends t 4 ∧ markState t m = markState s m)) ∧
  (∀ (s : State) (time : Nat) (m : Fin 16) (c : Ckpt), s.tp.ckpt = some c → s.tp.taking = some m → islUp s 20 = true →
    s.fld Reg.tpTpCtrl 0 2 = 1 → s.bit Reg.tpTpCtrl 18 = false →
    Runs (.ckptEnd time) s fun t => t.tp.taking = none ∧ t.tp.ckpt = none ∧
      ((markState t m = 2 ∧ t.bit Reg.tpIrqRaw 1 = true) ∨ markState t m = 3)) ∧
  (∀ (s : State) (time : Nat) (init : Init) (d : Word), accepts s init Reg.tpTpCtrl true = true →
    let o := tpMode (s.reg Reg.tpTpCtrl)
    let n := if o + tpMode d = 3 then o else tpMode d
    (Runs (.tpModeWrite time init d) s fun t => tpMode (t.reg Reg.tpTpCtrl) = n ∧ t.bit Reg.tpTpStat 0 = decide (n = 1)) ∧
    (replaying s = true → n ≠ 2 → Runs (.tpModeWrite time init d) s fun t => replaying t = false ∧ t.fld Reg.tpRpStat 4 3 = 7)) ∧
  (∀ (s : State) (time : Nat) (init : Init), accepts s init Reg.tpRpCmd true = true →
    (∀ r : Nat, (rpCheck s).getLeft? = some r → replaying s = false → Runs (.replayStart time init) s fun t =>
      t.fld Reg.tpRpStat 4 3 = r % 8 ∧ replaying t = false ∧ t.tm = s.tm) ∧
    (∀ c : Ckpt × List RpRec, (rpCheck s).getRight? = some c → replaying s = false → Runs (.replayStart time init) s fun t =>
      replaying t = true ∧ t.fld Reg.tpRpStat 4 3 = 0 ∧ t.tm.bkts = c.1.bkts ∧ t.pp.sessions = c.1.sessions ∧
      c.2.head?.map (·.dt) = some t.dt ∧ t.bit Reg.tpTpStat 3 = true) ∧
    (replaying s = true → Runs (.replayStop time init) s fun t => replaying t = false ∧ t.fld Reg.tpRpStat 4 3 = 7 ∧ t.tp.play = none ∧
      t.bit Reg.tpIrqRaw 5 = true)) ∧
  (∀ (s : State) (time : Nat) (r : ReplayRun), s.tp.play = some r → islUp s 20 = true →
    let x := rpAt s r.base r.units r.pos true
    let due := decide (r.left ≠ 0) && decide (x.len ≠ 0) && decide (x.rseq = r.rseq)
    let ready := due && decide (0 ≤ dt48diff (s.at time).now48 x.dt)
    let moved := fun t : State => t.regN Reg.tpRpPos = (r.pos + x.len) % max 1 r.units % 2 ^ 32
    let diverged := fun t : State => t.regN Reg.tpDivCnt = min (s.regN Reg.tpDivCnt + 1) 0xFFFFFFFF
    (r.left = 0 ∨ x.len = 0 → Runs (.replayRecord time none) s fun t =>
      replaying t = false ∧ t.fld Reg.tpRpStat 4 3 = 0 ∧ t.tp.play = none ∧ t.bit Reg.tpIrqRaw 5 = true) ∧
    (r.left ≠ 0 → x.len ≠ 0 → x.rseq ≠ r.rseq → Runs (.replayRecord time none) s fun t =>
      replaying t = false ∧ t.fld Reg.tpRpStat 4 3 = if r.toEnd then 0 else 2) ∧
    (due = true → dt48diff (s.at time).now48 x.dt < 0 → Runs (.replayRecord time none) s fun t => t.tp = s.tp ∧ t.reg Reg.tpRpPos = s.reg Reg.tpRpPos) ∧
    (ready = true → Runs (.replayRecord time none) s moved) ∧
    (ready = true → x.kind = 8 → Runs (.replayRecord time none) s fun t => lossState t = x.arg0 % 2 ^ 16) ∧
    (ready = true → x.kind = 1 → (drainPort s (x.arg0 % 128)).isNone = true → Runs (.replayRecord time none) s diverged) ∧
    (ready = true → x.kind = 1 → (drainPort s (x.arg0 % 128)).isNone = true → s.bit Reg.tpTpStat 4 = false → Runs (.replayRecord time none) s fun t =>
      t.bit Reg.tpTpStat 4 = true ∧ t.regN Reg.tpDivPtr = x.pos % 2 ^ 32 ∧ t.bit Reg.tpIrqRaw 4 = true ∧
      (replaying t = false ∧ t.fld Reg.tpRpStat 4 3 = 6 ∨ s.bit Reg.tpTpCtrl 3 = false)) ∧
    (∀ p : Fin 72, ∀ d : List Byte × State, drainPort s p = some d → Runs (.replayRecord time (some (.frame p d.1))) s diverged) ∧
    (∀ (a : Nat) (d : Word), s.bit Reg.tpTpCtrl 4 = true → recordedRegion a = true →
      let reg := due && decide (x.kind = 4)
      let same := decide (leAt x.payload 0 8 = a) && decide (x.arg1 = d.toNat)
      (reg = true → Runs (.replayRecord time (some (.write a d))) s moved) ∧
      (reg = true → same = true → Runs (.replayRecord time (some (.write a d))) s fun t => t.reg Reg.tpDivCnt = s.reg Reg.tpDivCnt) ∧
      ((reg && same) = false → Runs (.replayRecord time (some (.write a d))) s diverged)))

/-- For every state that meets the invariant State.inv, a step that answers a next state answers one that meets it: DRAM, the L2,
the table store, the registers and OTP stay in canonical form, every frame of the traffic manager has a number below the next one,
and MIN_SVN's OTP words hold a thermometer code. The frames' numbers are the model's own. -/
def Obligations.StepsKeepTheInvariant : Prop :=
  ∀ s t : State, s.inv = true → step s = .next t → t.inv = true

/-- An OTP bit can only change from 0 to 1: for every state and every command at the front of its queue, each bit of each OTP word
that is 1 before the step is 1 after it. -/
def Obligations.OtpBitsAreNeverCleared : Prop :=
  ∀ (s t : State) (w : Nat), step s = .next t → otpWord s w &&& ~~~(otpWord t w) = 0
end

