-- ==== Sys2Proof/Laws/Bank.lean ====
section
/-! SUPPORT. Sparse stores: a read after a write, the canonical form that every operation keeps, and memories as stores of
bytes. -/

namespace Sys2Proof.Machine

variable {α : Type}

theorem bankGet_del (d : Nat → α) (b : Bank α) (k q : Nat) :
    bankGet d (bankDel b k) q = if q = k then d k else bankGet d b q := by
  induction b with
  | nil => by_cases h : q = k <;> simp [bankDel, bankGet, h]
  | cons e r ih =>
    obtain ⟨j, v⟩ := e
    by_cases h : k = j
    · subst h
      by_cases hq : q = k <;> simp_all [bankDel, bankGet]
    · by_cases hq : q = j
      · subst hq; simp [bankDel, bankGet, h, Ne.symm h]
      · simp [bankDel, bankGet, h, hq, ih]

theorem bankGet_put_same (d : Nat → α) (b : Bank α) (k : Nat) (v : α) :
    bankGet d (bankPut (bankDel b k) k v) k = v := by
  induction b with
  | nil => simp [bankDel, bankPut, bankGet]
  | cons e r ih =>
    obtain ⟨j, u⟩ := e
    by_cases h : k = j
    · simpa [bankDel, h] using (h ▸ ih)
    · by_cases hl : k < j <;> simp [bankDel, bankPut, bankGet, h, hl, ih]

theorem bankGet_put_ne (d : Nat → α) (b : Bank α) {k q : Nat} (v : α) (hq : q ≠ k) :
    bankGet d (bankPut b k v) q = bankGet d b q := by
  induction b with
  | nil => simp [bankPut, bankGet, hq]
  | cons e r ih =>
    obtain ⟨j, u⟩ := e
    by_cases hl : k < j
    · simp [bankPut, bankGet, hl, hq]
    · by_cases h : q = j <;> simp [bankPut, bankGet, hl, h, ih]

/-- What any key reads as after a write. -/
theorem bankGet_bankSet [DecidableEq α] (d : Nat → α) (b : Bank α) (k q : Nat) (v : α) :
    bankGet d (bankSet d b k v) q = if q = k then v else bankGet d b q := by
  unfold bankSet
  by_cases hv : v = d k
  · simp [hv, bankGet_del]
  · by_cases hq : q = k
    · subst hq; simp [hv, bankGet_put_same]
    · simp [hv, hq, bankGet_put_ne, bankGet_del]

@[simp] theorem bankGet_bankSet_same [DecidableEq α] (d : Nat → α) (b : Bank α) (k : Nat) (v : α) :
    bankGet d (bankSet d b k v) k = v := by simp [bankGet_bankSet]

theorem bankGet_bankSet_ne [DecidableEq α] (d : Nat → α) (b : Bank α) {k q : Nat} (v : α) (h : q ≠ k) :
    bankGet d (bankSet d b k v) q = bankGet d b q := by simp [bankGet_bankSet, h]

@[simp] theorem bankGet_nil (d : Nat → α) (k : Nat) : bankGet d [] k = d k := rfl

/-! ### The canonical form -/

variable [DecidableEq α]

theorem bankWfFrom_mono (d : Nat → α) {lo lo' : Nat} (b : Bank α) (h : bankWfFrom d lo b = true) (hl : lo' ≤ lo) :
    bankWfFrom d lo' b = true := by
  cases b with
  | nil => rfl
  | cons e r =>
    simp only [bankWfFrom, Bool.and_eq_true, decide_eq_true_eq] at h ⊢
    exact ⟨⟨hl.trans h.1.1, h.1.2⟩, h.2⟩

theorem bankWfFrom_del (d : Nat → α) (b : Bank α) (k lo : Nat) (h : bankWfFrom d lo b = true) :
    bankWfFrom d lo (bankDel b k) = true := by
  induction b generalizing lo with
  | nil => rfl
  | cons e r ih =>
    simp only [bankWfFrom, Bool.and_eq_true, decide_eq_true_eq] at h
    by_cases hk : k = e.1
    · rw [bankDel, if_pos hk]
      exact bankWfFrom_mono d _ (ih _ h.2) (by omega)
    · rw [bankDel, if_neg hk]
      simp only [bankWfFrom, Bool.and_eq_true, decide_eq_true_eq]
      exact ⟨h.1, ih _ h.2⟩

theorem bankWfFrom_put (d : Nat → α) (b : Bank α) (k lo : Nat) (v : α) (h : bankWfFrom d lo b = true) (hl : lo ≤ k)
    (hv : v ≠ d k) (hf : ∀ e ∈ b, e.1 ≠ k) : bankWfFrom d lo (bankPut b k v) = true := by
  induction b generalizing lo with
  | nil => simp [bankPut, bankWfFrom, hl, hv]
  | cons e r ih =>
    have h0 := h
    simp only [bankWfFrom, Bool.and_eq_true, decide_eq_true_eq] at h
    have hne : e.1 ≠ k := hf e (by simp)
    by_cases hk : k < e.1
    · rw [bankPut, if_pos hk]
      simp only [bankWfFrom, Bool.and_eq_true, decide_eq_true_eq]
      exact ⟨⟨hl, hv⟩, ⟨⟨by omega, h.1.2⟩, h.2⟩⟩
    · rw [bankPut, if_neg hk]
      simp only [bankWfFrom, Bool.and_eq_true, decide_eq_true_eq]
      exact ⟨h.1, ih _ h.2 (by omega) (fun x hx => hf x (by simp [hx]))⟩

omit [DecidableEq α] in
theorem bankDel_free (b : Bank α) (k : Nat) : ∀ e ∈ bankDel b k, e.1 ≠ k := by
  induction b with
  | nil => simp [bankDel]
  | cons e r ih =>
    by_cases hk : k = e.1
    · rw [bankDel, if_pos hk]; exact ih
    · rw [bankDel, if_neg hk]
      intro x hx
      rcases List.mem_cons.1 hx with rfl | hx
      · exact fun h => hk h.symm
      · exact ih x hx

/-- A write keeps the canonical form. -/
theorem bankWf_bankSet (d : Nat → α) (b : Bank α) (k : Nat) (v : α) (h : bankWf d b = true) :
    bankWf d (bankSet d b k v) = true := by
  unfold bankSet bankWf at *
  have hd := bankWfFrom_del d b k 0 h
  split
  · exact hd
  · next hv => exact bankWfFrom_put d _ k 0 v hd (Nat.zero_le k) hv (bankDel_free b k)

theorem bankWfFrom_keep (d : Nat → α) (p : Nat → Bool) (b : Bank α) (lo : Nat) (h : bankWfFrom d lo b = true) :
    bankWfFrom d lo (bankKeep p b) = true := by
  induction b generalizing lo with
  | nil => rfl
  | cons e r ih =>
    simp only [bankWfFrom, Bool.and_eq_true, decide_eq_true_eq] at h
    by_cases hp : p e.1 = true
    · simp only [bankKeep, hp, if_true, bankWfFrom, Bool.and_eq_true, decide_eq_true_eq]
      exact ⟨h.1, ih _ h.2⟩
    · simp only [bankKeep, hp, Bool.false_eq_true, if_false]
      exact bankWfFrom_mono d _ (ih _ h.2) (by omega)

/-- Keeping some keys keeps the canonical form. -/
theorem bankWf_bankKeep (d : Nat → α) (p : Nat → Bool) (b : Bank α) (h : bankWf d b = true) :
    bankWf d (bankKeep p b) = true := bankWfFrom_keep d p b 0 h

omit [DecidableEq α] in
/-- What a key reads as after only some keys were kept. -/
theorem bankGet_bankKeep (d : Nat → α) (p : Nat → Bool) (b : Bank α) (k : Nat) :
    bankGet d (bankKeep p b) k = if p k then bankGet d b k else d k := by
  induction b with
  | nil => simp [bankKeep]
  | cons e r ih =>
    obtain ⟨j, v⟩ := e
    by_cases hp : p j = true
    · by_cases hk : k = j
      · subst hk; simp [bankKeep, bankGet, hp]
      · simp [bankKeep, bankGet, hp, hk, ih]
    · by_cases hk : k = j
      · subst hk; simp [bankKeep, hp, ih]
      · simp [bankKeep, bankGet, hp, hk, ih]

@[simp] theorem bankWf_nil (d : Nat → α) : bankWf d [] = true := rfl

/-! ### Memories -/

/-- A write of bytes changes the bytes written and no other. -/
theorem memGet_memWrite (m : Bank Byte) (a : Nat) (bs : List Byte) (q : Nat) :
    memGet (memWrite m a bs) q = if a ≤ q ∧ q < a + bs.length then bs.getD (q - a) 0 else memGet m q := by
  induction bs generalizing m a with
  | nil => simp [memWrite]
  | cons b bs ih =>
    rw [memWrite, ih]
    by_cases h0 : q = a
    · subst h0; simp [memGet]
    · have hs : memGet (bankSet memDefault m a b) q = memGet m q := by
        simp [memGet, bankGet_bankSet, h0]
      by_cases h1 : a + 1 ≤ q ∧ q < a + 1 + bs.length
      · rw [if_pos h1, if_pos (by simp; omega)]
        obtain ⟨n, hn⟩ : ∃ n, q - a = n + 1 := ⟨q - a - 1, by omega⟩
        rw [hn, List.getD_cons_succ]
        congr 1; omega
      · rw [if_neg h1, if_neg (by simp; omega), hs]

/-- A write of bytes leaves every byte outside it. -/
theorem memGet_memWrite_out (m : Bank Byte) (a : Nat) (bs : List Byte) (q : Nat) (h : q < a ∨ a + bs.length ≤ q) :
    memGet (memWrite m a bs) q = memGet m q := by
  rw [memGet_memWrite, if_neg (by omega)]

/-- A write of bytes keeps the canonical form. -/
theorem bankWf_memWrite (m : Bank Byte) (a : Nat) (bs : List Byte) (h : bankWf memDefault m = true) :
    bankWf memDefault (memWrite m a bs) = true := by
  induction bs generalizing m a with
  | nil => exact h
  | cons b bs ih => exact ih _ _ (bankWf_bankSet memDefault m a b h)

theorem length_memRead (m : Bank Byte) (a n : Nat) : (memRead m a n).length = n := by
  induction n generalizing a with
  | zero => rfl
  | succ n ih => simp [memRead, ih]

end Sys2Proof.Machine
end

