-- ==== Sys2Proof/Laws/Bits.lean ====
section
/-! SUPPORT. Bit fields: what a field or a bit reads as after a field or a bit was replaced. -/

namespace Sys2Proof.Machine

theorem nbits_lt (v lo len : Nat) : nbits v lo len < 2 ^ len := Nat.mod_lt _ (by positivity)

theorem testBit_nbits (v lo len i : Nat) : (nbits v lo len).testBit i = (decide (i < len) && v.testBit (lo + i)) := by
  simp [nbits, Nat.testBit_mod_two_pow, Nat.testBit_shiftRight]

theorem testBit_bitsOf (w : Word) (lo len i : Nat) :
    (bitsOf w lo len).testBit i = (decide (i < len) && w.getLsbD (lo + i)) := by
  simp [bitsOf, testBit_nbits, BitVec.testBit_toNat]

theorem getLsbD_maskOf (lo len i : Nat) : (maskOf lo len).getLsbD i = (decide (i < 32) && decide (lo ≤ i) && decide (i < lo + len)) := by
  simp only [maskOf, BitVec.getLsbD_ofNat, Nat.testBit_shiftLeft, Nat.testBit_two_pow_sub_one]
  by_cases h : lo ≤ i
  · have : (i - lo < len) = (i < lo + len) := by simp only [eq_iff_iff]; omega
    simp [h, this]
  · simp [h]

/-- Every bit of a word with one field replaced. -/
theorem getLsbD_putBits (w : Word) (lo len v i : Nat) :
    (putBits w lo len v).getLsbD i =
      if lo ≤ i ∧ i < lo + len then decide (i < 32) && v.testBit (i - lo) else w.getLsbD i := by
  unfold putBits
  by_cases h32 : i < 32
  · simp only [BitVec.getLsbD_or, BitVec.getLsbD_and, BitVec.getLsbD_not, getLsbD_maskOf, BitVec.getLsbD_ofNat,
      Nat.testBit_shiftLeft, Nat.testBit_mod_two_pow, h32]
    by_cases h1 : lo ≤ i
    · have e : (i - lo < len) = (i < lo + len) := by simp only [eq_iff_iff]; omega
      by_cases h2 : i < lo + len <;> simp [h1, h2, e]
    · simp [h1]
  · rw [BitVec.getLsbD_of_ge _ _ (by omega), BitVec.getLsbD_of_ge _ _ (by omega)]
    simp [h32]

/-- A bit of a word with one field replaced, outside the field. -/
theorem bitOf_putBits_out (w : Word) (lo len v i : Nat) (h : i < lo ∨ lo + len ≤ i) :
    bitOf (putBits w lo len v) i = bitOf w i := by
  rw [bitOf, getLsbD_putBits, if_neg (by omega), bitOf]

/-- A bit of a word with one field replaced, within the field. -/
theorem bitOf_putBits_in (w : Word) (lo len v i : Nat) (h : lo ≤ i ∧ i < lo + len) (h32 : i < 32) :
    bitOf (putBits w lo len v) i = v.testBit (i - lo) := by
  rw [bitOf, getLsbD_putBits, if_pos h]; simp [h32]

/-- A bit replaced reads as it was set. -/
theorem bitOf_putBit_same (w : Word) (i : Nat) (b : Bool) (h : i < 32) : bitOf (putBit w i b) i = b := by
  rw [putBit, bitOf_putBits_in _ _ _ _ _ (by omega) h]; cases b <;> simp

/-- Another bit is as it was. -/
theorem bitOf_putBit_ne (w : Word) {i j : Nat} (b : Bool) (h : j ≠ i) : bitOf (putBit w i b) j = bitOf w j :=
  bitOf_putBits_out _ _ _ _ _ (by omega)

/-- A field replaced reads as the value, narrowed to the field. -/
theorem bitsOf_putBits_same (w : Word) (lo len v : Nat) (h : lo + len ≤ 32) :
    bitsOf (putBits w lo len v) lo len = v % 2 ^ len := by
  apply Nat.eq_of_testBit_eq
  intro i
  rw [testBit_bitsOf, getLsbD_putBits, Nat.testBit_mod_two_pow]
  by_cases hi : i < len
  · rw [if_pos (by omega)]
    have : lo + i - lo = i := by omega
    simp [hi, this, show lo + i < 32 by omega]
  · simp [hi]

/-- A field apart from the one replaced is as it was. -/
theorem bitsOf_putBits_out (w : Word) (lo len v lo' len' : Nat) (h : lo' + len' ≤ lo ∨ lo + len ≤ lo') :
    bitsOf (putBits w lo len v) lo' len' = bitsOf w lo' len' := by
  apply Nat.eq_of_testBit_eq
  intro i
  rw [testBit_bitsOf, testBit_bitsOf, getLsbD_putBits]
  by_cases hi : i < len'
  · rw [if_neg (by omega)]
  · simp [hi]

/-- A field apart from the bit replaced is as it was. -/
theorem bitsOf_putBit_out (w : Word) (i : Nat) (b : Bool) (lo len : Nat) (h : lo + len ≤ i ∨ i + 1 ≤ lo) :
    bitsOf (putBit w i b) lo len = bitsOf w lo len := bitsOf_putBits_out _ _ _ _ _ _ h

/-- A bit after a merge through a mask. -/
theorem getLsbD_mergeMask (a b : Word) (m i : Nat) :
    (mergeMask a b m).getLsbD i = if decide (i < 32) && m.testBit i then b.getLsbD i else a.getLsbD i := by
  unfold mergeMask
  by_cases h : i < 32
  · simp only [BitVec.getLsbD_or, BitVec.getLsbD_and, BitVec.getLsbD_not, BitVec.getLsbD_ofNat, h]
    cases m.testBit i <;> simp
  · rw [BitVec.getLsbD_of_ge _ _ (by omega), BitVec.getLsbD_of_ge a _ (by omega)]
    simp [h]

theorem mergeMask_all (a b : Word) : mergeMask a b 0xFFFFFFFF = b := by
  apply BitVec.eq_of_getLsbD_eq
  intro i hi
  rw [getLsbD_mergeMask, show (0xFFFFFFFF : Nat) = 2 ^ 32 - 1 from rfl, Nat.testBit_two_pow_sub_one]
  simp [hi]

theorem length_leBytes (n v : Nat) : (leBytes n v).length = n := by
  induction n generalizing v with
  | zero => rfl
  | succ n ih => simp [leBytes, ih]

end Sys2Proof.Machine
end

