-- ==== Sys2Proof/Laws/State.lean ====
section
/-! SUPPORT. The state's fields under each update of Machine/Ops.lean, and registers after a write. -/

namespace Sys2Proof.Machine

variable (s : State)

/-! ### at -/

@[simp] theorem at_dtFrac (n : Nat) : (s.at n).dtFrac = s.dtFrac := rfl
@[simp] theorem at_freeCtr (n : Nat) : (s.at n).freeCtr = s.freeCtr := rfl
@[simp] theorem at_resp (n : Nat) : (s.at n).resp = s.resp := rfl
@[simp] theorem at_regs (n : Nat) : (s.at n).regs = s.regs := rfl
@[simp] theorem at_snap (n : Nat) : (s.at n).snap = s.snap := rfl
@[simp] theorem at_hold (n : Nat) : (s.at n).hold = s.hold := rfl
@[simp] theorem at_dram (n : Nat) : (s.at n).dram = s.dram := rfl
@[simp] theorem at_l2 (n : Nat) : (s.at n).l2 = s.l2 := rfl
@[simp] theorem at_tstore (n : Nat) : (s.at n).tstore = s.tstore := rfl
@[simp] theorem at_pounds (n : Nat) : (s.at n).pounds = s.pounds := rfl
@[simp] theorem at_gen (n : Nat) : (s.at n).gen = s.gen := rfl
@[simp] theorem at_pp (n : Nat) : (s.at n).pp = s.pp := rfl
@[simp] theorem at_tm (n : Nat) : (s.at n).tm = s.tm := rfl
@[simp] theorem at_air (n : Nat) : (s.at n).air = s.air := rfl
@[simp] theorem at_duty (n : Nat) : (s.at n).duty = s.duty := rfl
@[simp] theorem at_sta (n : Nat) : (s.at n).sta = s.sta := rfl
@[simp] theorem at_rd (n : Nat) : (s.at n).rd = s.rd := rfl
@[simp] theorem at_slu (n : Nat) : (s.at n).slu = s.slu := rfl
@[simp] theorem at_port (n : Nat) : (s.at n).port = s.port := rfl
@[simp] theorem at_spoSub (n : Nat) : (s.at n).spoSub = s.spoSub := rfl
@[simp] theorem at_sp (n : Nat) : (s.at n).sp = s.sp := rfl
@[simp] theorem at_ul (n : Nat) : (s.at n).ul = s.ul := rfl
@[simp] theorem at_podlFlt (n : Nat) : (s.at n).podlFlt = s.podlFlt := rfl
@[simp] theorem at_podl (n : Nat) : (s.at n).podl = s.podl := rfl
@[simp] theorem at_gh (n : Nat) : (s.at n).gh = s.gh := rfl
@[simp] theorem at_sec (n : Nat) : (s.at n).sec = s.sec := rfl
@[simp] theorem at_ao (n : Nat) : (s.at n).ao = s.ao := rfl
@[simp] theorem at_mc (n : Nat) : (s.at n).mc = s.mc := rfl
@[simp] theorem at_cc (n : Nat) : (s.at n).cc = s.cc := rfl
@[simp] theorem at_ts (n : Nat) : (s.at n).ts = s.ts := rfl
@[simp] theorem at_plic (n : Nat) : (s.at n).plic = s.plic := rfl
@[simp] theorem at_pmu (n : Nat) : (s.at n).pmu = s.pmu := rfl
@[simp] theorem at_tp (n : Nat) : (s.at n).tp = s.tp := rfl
@[simp] theorem at_flt (n : Nat) : (s.at n).flt = s.flt := rfl
@[simp] theorem at_pending (n : Nat) : (s.at n).pending = s.pending := rfl

/-! ### setReg -/

@[simp] theorem setReg_dt (a : Nat) (v : Word) : (s.setReg a v).dt = s.dt := rfl
@[simp] theorem setReg_dtFrac (a : Nat) (v : Word) : (s.setReg a v).dtFrac = s.dtFrac := rfl
@[simp] theorem setReg_freeCtr (a : Nat) (v : Word) : (s.setReg a v).freeCtr = s.freeCtr := rfl
@[simp] theorem setReg_resp (a : Nat) (v : Word) : (s.setReg a v).resp = s.resp := rfl
@[simp] theorem setReg_snap (a : Nat) (v : Word) : (s.setReg a v).snap = s.snap := rfl
@[simp] theorem setReg_hold (a : Nat) (v : Word) : (s.setReg a v).hold = s.hold := rfl
@[simp] theorem setReg_dram (a : Nat) (v : Word) : (s.setReg a v).dram = s.dram := rfl
@[simp] theorem setReg_l2 (a : Nat) (v : Word) : (s.setReg a v).l2 = s.l2 := rfl
@[simp] theorem setReg_tstore (a : Nat) (v : Word) : (s.setReg a v).tstore = s.tstore := rfl
@[simp] theorem setReg_pounds (a : Nat) (v : Word) : (s.setReg a v).pounds = s.pounds := rfl
@[simp] theorem setReg_gen (a : Nat) (v : Word) : (s.setReg a v).gen = s.gen := rfl
@[simp] theorem setReg_pp (a : Nat) (v : Word) : (s.setReg a v).pp = s.pp := rfl
@[simp] theorem setReg_tm (a : Nat) (v : Word) : (s.setReg a v).tm = s.tm := rfl
@[simp] theorem setReg_air (a : Nat) (v : Word) : (s.setReg a v).air = s.air := rfl
@[simp] theorem setReg_duty (a : Nat) (v : Word) : (s.setReg a v).duty = s.duty := rfl
@[simp] theorem setReg_sta (a : Nat) (v : Word) : (s.setReg a v).sta = s.sta := rfl
@[simp] theorem setReg_rd (a : Nat) (v : Word) : (s.setReg a v).rd = s.rd := rfl
@[simp] theorem setReg_slu (a : Nat) (v : Word) : (s.setReg a v).slu = s.slu := rfl
@[simp] theorem setReg_port (a : Nat) (v : Word) : (s.setReg a v).port = s.port := rfl
@[simp] theorem setReg_spoSub (a : Nat) (v : Word) : (s.setReg a v).spoSub = s.spoSub := rfl
@[simp] theorem setReg_sp (a : Nat) (v : Word) : (s.setReg a v).sp = s.sp := rfl
@[simp] theorem setReg_ul (a : Nat) (v : Word) : (s.setReg a v).ul = s.ul := rfl
@[simp] theorem setReg_podlFlt (a : Nat) (v : Word) : (s.setReg a v).podlFlt = s.podlFlt := rfl
@[simp] theorem setReg_podl (a : Nat) (v : Word) : (s.setReg a v).podl = s.podl := rfl
@[simp] theorem setReg_gh (a : Nat) (v : Word) : (s.setReg a v).gh = s.gh := rfl
@[simp] theorem setReg_sec (a : Nat) (v : Word) : (s.setReg a v).sec = s.sec := rfl
@[simp] theorem setReg_ao (a : Nat) (v : Word) : (s.setReg a v).ao = s.ao := rfl
@[simp] theorem setReg_mc (a : Nat) (v : Word) : (s.setReg a v).mc = s.mc := rfl
@[simp] theorem setReg_cc (a : Nat) (v : Word) : (s.setReg a v).cc = s.cc := rfl
@[simp] theorem setReg_ts (a : Nat) (v : Word) : (s.setReg a v).ts = s.ts := rfl
@[simp] theorem setReg_plic (a : Nat) (v : Word) : (s.setReg a v).plic = s.plic := rfl
@[simp] theorem setReg_pmu (a : Nat) (v : Word) : (s.setReg a v).pmu = s.pmu := rfl
@[simp] theorem setReg_tp (a : Nat) (v : Word) : (s.setReg a v).tp = s.tp := rfl
@[simp] theorem setReg_flt (a : Nat) (v : Word) : (s.setReg a v).flt = s.flt := rfl
@[simp] theorem setReg_pending (a : Nat) (v : Word) : (s.setReg a v).pending = s.pending := rfl

/-! ### setSnap -/

@[simp] theorem setSnap_dt (a : Nat) (v : BitVec 16) : (s.setSnap a v).dt = s.dt := rfl
@[simp] theorem setSnap_dtFrac (a : Nat) (v : BitVec 16) : (s.setSnap a v).dtFrac = s.dtFrac := rfl
@[simp] theorem setSnap_freeCtr (a : Nat) (v : BitVec 16) : (s.setSnap a v).freeCtr = s.freeCtr := rfl
@[simp] theorem setSnap_resp (a : Nat) (v : BitVec 16) : (s.setSnap a v).resp = s.resp := rfl
@[simp] theorem setSnap_regs (a : Nat) (v : BitVec 16) : (s.setSnap a v).regs = s.regs := rfl
@[simp] theorem setSnap_hold (a : Nat) (v : BitVec 16) : (s.setSnap a v).hold = s.hold := rfl
@[simp] theorem setSnap_dram (a : Nat) (v : BitVec 16) : (s.setSnap a v).dram = s.dram := rfl
@[simp] theorem setSnap_l2 (a : Nat) (v : BitVec 16) : (s.setSnap a v).l2 = s.l2 := rfl
@[simp] theorem setSnap_tstore (a : Nat) (v : BitVec 16) : (s.setSnap a v).tstore = s.tstore := rfl
@[simp] theorem setSnap_pounds (a : Nat) (v : BitVec 16) : (s.setSnap a v).pounds = s.pounds := rfl
@[simp] theorem setSnap_gen (a : Nat) (v : BitVec 16) : (s.setSnap a v).gen = s.gen := rfl
@[simp] theorem setSnap_pp (a : Nat) (v : BitVec 16) : (s.setSnap a v).pp = s.pp := rfl
@[simp] theorem setSnap_tm (a : Nat) (v : BitVec 16) : (s.setSnap a v).tm = s.tm := rfl
@[simp] theorem setSnap_air (a : Nat) (v : BitVec 16) : (s.setSnap a v).air = s.air := rfl
@[simp] theorem setSnap_duty (a : Nat) (v : BitVec 16) : (s.setSnap a v).duty = s.duty := rfl
@[simp] theorem setSnap_sta (a : Nat) (v : BitVec 16) : (s.setSnap a v).sta = s.sta := rfl
@[simp] theorem setSnap_rd (a : Nat) (v : BitVec 16) : (s.setSnap a v).rd = s.rd := rfl
@[simp] theorem setSnap_slu (a : Nat) (v : BitVec 16) : (s.setSnap a v).slu = s.slu := rfl
@[simp] theorem setSnap_port (a : Nat) (v : BitVec 16) : (s.setSnap a v).port = s.port := rfl
@[simp] theorem setSnap_spoSub (a : Nat) (v : BitVec 16) : (s.setSnap a v).spoSub = s.spoSub := rfl
@[simp] theorem setSnap_sp (a : Nat) (v : BitVec 16) : (s.setSnap a v).sp = s.sp := rfl
@[simp] theorem setSnap_ul (a : Nat) (v : BitVec 16) : (s.setSnap a v).ul = s.ul := rfl
@[simp] theorem setSnap_podlFlt (a : Nat) (v : BitVec 16) : (s.setSnap a v).podlFlt = s.podlFlt := rfl
@[simp] theorem setSnap_podl (a : Nat) (v : BitVec 16) : (s.setSnap a v).podl = s.podl := rfl
@[simp] theorem setSnap_gh (a : Nat) (v : BitVec 16) : (s.setSnap a v).gh = s.gh := rfl
@[simp] theorem setSnap_sec (a : Nat) (v : BitVec 16) : (s.setSnap a v).sec = s.sec := rfl
@[simp] theorem setSnap_ao (a : Nat) (v : BitVec 16) : (s.setSnap a v).ao = s.ao := rfl
@[simp] theorem setSnap_mc (a : Nat) (v : BitVec 16) : (s.setSnap a v).mc = s.mc := rfl
@[simp] theorem setSnap_cc (a : Nat) (v : BitVec 16) : (s.setSnap a v).cc = s.cc := rfl
@[simp] theorem setSnap_ts (a : Nat) (v : BitVec 16) : (s.setSnap a v).ts = s.ts := rfl
@[simp] theorem setSnap_plic (a : Nat) (v : BitVec 16) : (s.setSnap a v).plic = s.plic := rfl
@[simp] theorem setSnap_pmu (a : Nat) (v : BitVec 16) : (s.setSnap a v).pmu = s.pmu := rfl
@[simp] theorem setSnap_tp (a : Nat) (v : BitVec 16) : (s.setSnap a v).tp = s.tp := rfl
@[simp] theorem setSnap_flt (a : Nat) (v : BitVec 16) : (s.setSnap a v).flt = s.flt := rfl
@[simp] theorem setSnap_pending (a : Nat) (v : BitVec 16) : (s.setSnap a v).pending = s.pending := rfl

/-! ### setHold -/

@[simp] theorem setHold_dt (a : Nat) (v : BitVec 16) : (s.setHold a v).dt = s.dt := rfl
@[simp] theorem setHold_dtFrac (a : Nat) (v : BitVec 16) : (s.setHold a v).dtFrac = s.dtFrac := rfl
@[simp] theorem setHold_freeCtr (a : Nat) (v : BitVec 16) : (s.setHold a v).freeCtr = s.freeCtr := rfl
@[simp] theorem setHold_resp (a : Nat) (v : BitVec 16) : (s.setHold a v).resp = s.resp := rfl
@[simp] theorem setHold_regs (a : Nat) (v : BitVec 16) : (s.setHold a v).regs = s.regs := rfl
@[simp] theorem setHold_snap (a : Nat) (v : BitVec 16) : (s.setHold a v).snap = s.snap := rfl
@[simp] theorem setHold_dram (a : Nat) (v : BitVec 16) : (s.setHold a v).dram = s.dram := rfl
@[simp] theorem setHold_l2 (a : Nat) (v : BitVec 16) : (s.setHold a v).l2 = s.l2 := rfl
@[simp] theorem setHold_tstore (a : Nat) (v : BitVec 16) : (s.setHold a v).tstore = s.tstore := rfl
@[simp] theorem setHold_pounds (a : Nat) (v : BitVec 16) : (s.setHold a v).pounds = s.pounds := rfl
@[simp] theorem setHold_gen (a : Nat) (v : BitVec 16) : (s.setHold a v).gen = s.gen := rfl
@[simp] theorem setHold_pp (a : Nat) (v : BitVec 16) : (s.setHold a v).pp = s.pp := rfl
@[simp] theorem setHold_tm (a : Nat) (v : BitVec 16) : (s.setHold a v).tm = s.tm := rfl
@[simp] theorem setHold_air (a : Nat) (v : BitVec 16) : (s.setHold a v).air = s.air := rfl
@[simp] theorem setHold_duty (a : Nat) (v : BitVec 16) : (s.setHold a v).duty = s.duty := rfl
@[simp] theorem setHold_sta (a : Nat) (v : BitVec 16) : (s.setHold a v).sta = s.sta := rfl
@[simp] theorem setHold_rd (a : Nat) (v : BitVec 16) : (s.setHold a v).rd = s.rd := rfl
@[simp] theorem setHold_slu (a : Nat) (v : BitVec 16) : (s.setHold a v).slu = s.slu := rfl
@[simp] theorem setHold_port (a : Nat) (v : BitVec 16) : (s.setHold a v).port = s.port := rfl
@[simp] theorem setHold_spoSub (a : Nat) (v : BitVec 16) : (s.setHold a v).spoSub = s.spoSub := rfl
@[simp] theorem setHold_sp (a : Nat) (v : BitVec 16) : (s.setHold a v).sp = s.sp := rfl
@[simp] theorem setHold_ul (a : Nat) (v : BitVec 16) : (s.setHold a v).ul = s.ul := rfl
@[simp] theorem setHold_podlFlt (a : Nat) (v : BitVec 16) : (s.setHold a v).podlFlt = s.podlFlt := rfl
@[simp] theorem setHold_podl (a : Nat) (v : BitVec 16) : (s.setHold a v).podl = s.podl := rfl
@[simp] theorem setHold_gh (a : Nat) (v : BitVec 16) : (s.setHold a v).gh = s.gh := rfl
@[simp] theorem setHold_sec (a : Nat) (v : BitVec 16) : (s.setHold a v).sec = s.sec := rfl
@[simp] theorem setHold_ao (a : Nat) (v : BitVec 16) : (s.setHold a v).ao = s.ao := rfl
@[simp] theorem setHold_mc (a : Nat) (v : BitVec 16) : (s.setHold a v).mc = s.mc := rfl
@[simp] theorem setHold_cc (a : Nat) (v : BitVec 16) : (s.setHold a v).cc = s.cc := rfl
@[simp] theorem setHold_ts (a : Nat) (v : BitVec 16) : (s.setHold a v).ts = s.ts := rfl
@[simp] theorem setHold_plic (a : Nat) (v : BitVec 16) : (s.setHold a v).plic = s.plic := rfl
@[simp] theorem setHold_pmu (a : Nat) (v : BitVec 16) : (s.setHold a v).pmu = s.pmu := rfl
@[simp] theorem setHold_tp (a : Nat) (v : BitVec 16) : (s.setHold a v).tp = s.tp := rfl
@[simp] theorem setHold_flt (a : Nat) (v : BitVec 16) : (s.setHold a v).flt = s.flt := rfl
@[simp] theorem setHold_pending (a : Nat) (v : BitVec 16) : (s.setHold a v).pending = s.pending := rfl

/-! ### dramWrite -/

@[simp] theorem dramWrite_dt (o : Nat) (b : List Byte) : (s.dramWrite o b).dt = s.dt := rfl
@[simp] theorem dramWrite_dtFrac (o : Nat) (b : List Byte) : (s.dramWrite o b).dtFrac = s.dtFrac := rfl
@[simp] theorem dramWrite_freeCtr (o : Nat) (b : List Byte) : (s.dramWrite o b).freeCtr = s.freeCtr := rfl
@[simp] theorem dramWrite_resp (o : Nat) (b : List Byte) : (s.dramWrite o b).resp = s.resp := rfl
@[simp] theorem dramWrite_regs (o : Nat) (b : List Byte) : (s.dramWrite o b).regs = s.regs := rfl
@[simp] theorem dramWrite_snap (o : Nat) (b : List Byte) : (s.dramWrite o b).snap = s.snap := rfl
@[simp] theorem dramWrite_hold (o : Nat) (b : List Byte) : (s.dramWrite o b).hold = s.hold := rfl
@[simp] theorem dramWrite_l2 (o : Nat) (b : List Byte) : (s.dramWrite o b).l2 = s.l2 := rfl
@[simp] theorem dramWrite_tstore (o : Nat) (b : List Byte) : (s.dramWrite o b).tstore = s.tstore := rfl
@[simp] theorem dramWrite_pounds (o : Nat) (b : List Byte) : (s.dramWrite o b).pounds = s.pounds := rfl
@[simp] theorem dramWrite_gen (o : Nat) (b : List Byte) : (s.dramWrite o b).gen = s.gen := rfl
@[simp] theorem dramWrite_pp (o : Nat) (b : List Byte) : (s.dramWrite o b).pp = s.pp := rfl
@[simp] theorem dramWrite_tm (o : Nat) (b : List Byte) : (s.dramWrite o b).tm = s.tm := rfl
@[simp] theorem dramWrite_air (o : Nat) (b : List Byte) : (s.dramWrite o b).air = s.air := rfl
@[simp] theorem dramWrite_duty (o : Nat) (b : List Byte) : (s.dramWrite o b).duty = s.duty := rfl
@[simp] theorem dramWrite_sta (o : Nat) (b : List Byte) : (s.dramWrite o b).sta = s.sta := rfl
@[simp] theorem dramWrite_rd (o : Nat) (b : List Byte) : (s.dramWrite o b).rd = s.rd := rfl
@[simp] theorem dramWrite_slu (o : Nat) (b : List Byte) : (s.dramWrite o b).slu = s.slu := rfl
@[simp] theorem dramWrite_port (o : Nat) (b : List Byte) : (s.dramWrite o b).port = s.port := rfl
@[simp] theorem dramWrite_spoSub (o : Nat) (b : List Byte) : (s.dramWrite o b).spoSub = s.spoSub := rfl
@[simp] theorem dramWrite_sp (o : Nat) (b : List Byte) : (s.dramWrite o b).sp = s.sp := rfl
@[simp] theorem dramWrite_ul (o : Nat) (b : List Byte) : (s.dramWrite o b).ul = s.ul := rfl
@[simp] theorem dramWrite_podlFlt (o : Nat) (b : List Byte) : (s.dramWrite o b).podlFlt = s.podlFlt := rfl
@[simp] theorem dramWrite_podl (o : Nat) (b : List Byte) : (s.dramWrite o b).podl = s.podl := rfl
@[simp] theorem dramWrite_gh (o : Nat) (b : List Byte) : (s.dramWrite o b).gh = s.gh := rfl
@[simp] theorem dramWrite_sec (o : Nat) (b : List Byte) : (s.dramWrite o b).sec = s.sec := rfl
@[simp] theorem dramWrite_ao (o : Nat) (b : List Byte) : (s.dramWrite o b).ao = s.ao := rfl
@[simp] theorem dramWrite_mc (o : Nat) (b : List Byte) : (s.dramWrite o b).mc = s.mc := rfl
@[simp] theorem dramWrite_cc (o : Nat) (b : List Byte) : (s.dramWrite o b).cc = s.cc := rfl
@[simp] theorem dramWrite_ts (o : Nat) (b : List Byte) : (s.dramWrite o b).ts = s.ts := rfl
@[simp] theorem dramWrite_plic (o : Nat) (b : List Byte) : (s.dramWrite o b).plic = s.plic := rfl
@[simp] theorem dramWrite_pmu (o : Nat) (b : List Byte) : (s.dramWrite o b).pmu = s.pmu := rfl
@[simp] theorem dramWrite_tp (o : Nat) (b : List Byte) : (s.dramWrite o b).tp = s.tp := rfl
@[simp] theorem dramWrite_flt (o : Nat) (b : List Byte) : (s.dramWrite o b).flt = s.flt := rfl
@[simp] theorem dramWrite_pending (o : Nat) (b : List Byte) : (s.dramWrite o b).pending = s.pending := rfl

/-! ### tsWrite -/

@[simp] theorem tsWrite_dt (o : Nat) (b : List Byte) : (s.tsWrite o b).dt = s.dt := rfl
@[simp] theorem tsWrite_dtFrac (o : Nat) (b : List Byte) : (s.tsWrite o b).dtFrac = s.dtFrac := rfl
@[simp] theorem tsWrite_freeCtr (o : Nat) (b : List Byte) : (s.tsWrite o b).freeCtr = s.freeCtr := rfl
@[simp] theorem tsWrite_resp (o : Nat) (b : List Byte) : (s.tsWrite o b).resp = s.resp := rfl
@[simp] theorem tsWrite_regs (o : Nat) (b : List Byte) : (s.tsWrite o b).regs = s.regs := rfl
@[simp] theorem tsWrite_snap (o : Nat) (b : List Byte) : (s.tsWrite o b).snap = s.snap := rfl
@[simp] theorem tsWrite_hold (o : Nat) (b : List Byte) : (s.tsWrite o b).hold = s.hold := rfl
@[simp] theorem tsWrite_dram (o : Nat) (b : List Byte) : (s.tsWrite o b).dram = s.dram := rfl
@[simp] theorem tsWrite_l2 (o : Nat) (b : List Byte) : (s.tsWrite o b).l2 = s.l2 := rfl
@[simp] theorem tsWrite_pounds (o : Nat) (b : List Byte) : (s.tsWrite o b).pounds = s.pounds := rfl
@[simp] theorem tsWrite_gen (o : Nat) (b : List Byte) : (s.tsWrite o b).gen = s.gen := rfl
@[simp] theorem tsWrite_pp (o : Nat) (b : List Byte) : (s.tsWrite o b).pp = s.pp := rfl
@[simp] theorem tsWrite_tm (o : Nat) (b : List Byte) : (s.tsWrite o b).tm = s.tm := rfl
@[simp] theorem tsWrite_air (o : Nat) (b : List Byte) : (s.tsWrite o b).air = s.air := rfl
@[simp] theorem tsWrite_duty (o : Nat) (b : List Byte) : (s.tsWrite o b).duty = s.duty := rfl
@[simp] theorem tsWrite_sta (o : Nat) (b : List Byte) : (s.tsWrite o b).sta = s.sta := rfl
@[simp] theorem tsWrite_rd (o : Nat) (b : List Byte) : (s.tsWrite o b).rd = s.rd := rfl
@[simp] theorem tsWrite_slu (o : Nat) (b : List Byte) : (s.tsWrite o b).slu = s.slu := rfl
@[simp] theorem tsWrite_port (o : Nat) (b : List Byte) : (s.tsWrite o b).port = s.port := rfl
@[simp] theorem tsWrite_spoSub (o : Nat) (b : List Byte) : (s.tsWrite o b).spoSub = s.spoSub := rfl
@[simp] theorem tsWrite_sp (o : Nat) (b : List Byte) : (s.tsWrite o b).sp = s.sp := rfl
@[simp] theorem tsWrite_ul (o : Nat) (b : List Byte) : (s.tsWrite o b).ul = s.ul := rfl
@[simp] theorem tsWrite_podlFlt (o : Nat) (b : List Byte) : (s.tsWrite o b).podlFlt = s.podlFlt := rfl
@[simp] theorem tsWrite_podl (o : Nat) (b : List Byte) : (s.tsWrite o b).podl = s.podl := rfl
@[simp] theorem tsWrite_gh (o : Nat) (b : List Byte) : (s.tsWrite o b).gh = s.gh := rfl
@[simp] theorem tsWrite_sec (o : Nat) (b : List Byte) : (s.tsWrite o b).sec = s.sec := rfl
@[simp] theorem tsWrite_ao (o : Nat) (b : List Byte) : (s.tsWrite o b).ao = s.ao := rfl
@[simp] theorem tsWrite_mc (o : Nat) (b : List Byte) : (s.tsWrite o b).mc = s.mc := rfl
@[simp] theorem tsWrite_cc (o : Nat) (b : List Byte) : (s.tsWrite o b).cc = s.cc := rfl
@[simp] theorem tsWrite_ts (o : Nat) (b : List Byte) : (s.tsWrite o b).ts = s.ts := rfl
@[simp] theorem tsWrite_plic (o : Nat) (b : List Byte) : (s.tsWrite o b).plic = s.plic := rfl
@[simp] theorem tsWrite_pmu (o : Nat) (b : List Byte) : (s.tsWrite o b).pmu = s.pmu := rfl
@[simp] theorem tsWrite_tp (o : Nat) (b : List Byte) : (s.tsWrite o b).tp = s.tp := rfl
@[simp] theorem tsWrite_flt (o : Nat) (b : List Byte) : (s.tsWrite o b).flt = s.flt := rfl
@[simp] theorem tsWrite_pending (o : Nat) (b : List Byte) : (s.tsWrite o b).pending = s.pending := rfl

/-! ### answer -/

@[simp] theorem answer_dt (r : Resp) : (s.answer r).dt = s.dt := rfl
@[simp] theorem answer_dtFrac (r : Resp) : (s.answer r).dtFrac = s.dtFrac := rfl
@[simp] theorem answer_freeCtr (r : Resp) : (s.answer r).freeCtr = s.freeCtr := rfl
@[simp] theorem answer_regs (r : Resp) : (s.answer r).regs = s.regs := rfl
@[simp] theorem answer_snap (r : Resp) : (s.answer r).snap = s.snap := rfl
@[simp] theorem answer_hold (r : Resp) : (s.answer r).hold = s.hold := rfl
@[simp] theorem answer_dram (r : Resp) : (s.answer r).dram = s.dram := rfl
@[simp] theorem answer_l2 (r : Resp) : (s.answer r).l2 = s.l2 := rfl
@[simp] theorem answer_tstore (r : Resp) : (s.answer r).tstore = s.tstore := rfl
@[simp] theorem answer_pounds (r : Resp) : (s.answer r).pounds = s.pounds := rfl
@[simp] theorem answer_gen (r : Resp) : (s.answer r).gen = s.gen := rfl
@[simp] theorem answer_pp (r : Resp) : (s.answer r).pp = s.pp := rfl
@[simp] theorem answer_tm (r : Resp) : (s.answer r).tm = s.tm := rfl
@[simp] theorem answer_air (r : Resp) : (s.answer r).air = s.air := rfl
@[simp] theorem answer_duty (r : Resp) : (s.answer r).duty = s.duty := rfl
@[simp] theorem answer_sta (r : Resp) : (s.answer r).sta = s.sta := rfl
@[simp] theorem answer_rd (r : Resp) : (s.answer r).rd = s.rd := rfl
@[simp] theorem answer_slu (r : Resp) : (s.answer r).slu = s.slu := rfl
@[simp] theorem answer_port (r : Resp) : (s.answer r).port = s.port := rfl
@[simp] theorem answer_spoSub (r : Resp) : (s.answer r).spoSub = s.spoSub := rfl
@[simp] theorem answer_sp (r : Resp) : (s.answer r).sp = s.sp := rfl
@[simp] theorem answer_ul (r : Resp) : (s.answer r).ul = s.ul := rfl
@[simp] theorem answer_podlFlt (r : Resp) : (s.answer r).podlFlt = s.podlFlt := rfl
@[simp] theorem answer_podl (r : Resp) : (s.answer r).podl = s.podl := rfl
@[simp] theorem answer_gh (r : Resp) : (s.answer r).gh = s.gh := rfl
@[simp] theorem answer_sec (r : Resp) : (s.answer r).sec = s.sec := rfl
@[simp] theorem answer_ao (r : Resp) : (s.answer r).ao = s.ao := rfl
@[simp] theorem answer_mc (r : Resp) : (s.answer r).mc = s.mc := rfl
@[simp] theorem answer_cc (r : Resp) : (s.answer r).cc = s.cc := rfl
@[simp] theorem answer_ts (r : Resp) : (s.answer r).ts = s.ts := rfl
@[simp] theorem answer_plic (r : Resp) : (s.answer r).plic = s.plic := rfl
@[simp] theorem answer_pmu (r : Resp) : (s.answer r).pmu = s.pmu := rfl
@[simp] theorem answer_tp (r : Resp) : (s.answer r).tp = s.tp := rfl
@[simp] theorem answer_flt (r : Resp) : (s.answer r).flt = s.flt := rfl
@[simp] theorem answer_pending (r : Resp) : (s.answer r).pending = s.pending := rfl

/-! ### setNat -/

@[simp] theorem setNat_dt (a v : Nat) : (s.setNat a v).dt = s.dt := rfl
@[simp] theorem setNat_dtFrac (a v : Nat) : (s.setNat a v).dtFrac = s.dtFrac := rfl
@[simp] theorem setNat_freeCtr (a v : Nat) : (s.setNat a v).freeCtr = s.freeCtr := rfl
@[simp] theorem setNat_resp (a v : Nat) : (s.setNat a v).resp = s.resp := rfl
@[simp] theorem setNat_snap (a v : Nat) : (s.setNat a v).snap = s.snap := rfl
@[simp] theorem setNat_hold (a v : Nat) : (s.setNat a v).hold = s.hold := rfl
@[simp] theorem setNat_dram (a v : Nat) : (s.setNat a v).dram = s.dram := rfl
@[simp] theorem setNat_l2 (a v : Nat) : (s.setNat a v).l2 = s.l2 := rfl
@[simp] theorem setNat_tstore (a v : Nat) : (s.setNat a v).tstore = s.tstore := rfl
@[simp] theorem setNat_pounds (a v : Nat) : (s.setNat a v).pounds = s.pounds := rfl
@[simp] theorem setNat_gen (a v : Nat) : (s.setNat a v).gen = s.gen := rfl
@[simp] theorem setNat_pp (a v : Nat) : (s.setNat a v).pp = s.pp := rfl
@[simp] theorem setNat_tm (a v : Nat) : (s.setNat a v).tm = s.tm := rfl
@[simp] theorem setNat_air (a v : Nat) : (s.setNat a v).air = s.air := rfl
@[simp] theorem setNat_duty (a v : Nat) : (s.setNat a v).duty = s.duty := rfl
@[simp] theorem setNat_sta (a v : Nat) : (s.setNat a v).sta = s.sta := rfl
@[simp] theorem setNat_rd (a v : Nat) : (s.setNat a v).rd = s.rd := rfl
@[simp] theorem setNat_slu (a v : Nat) : (s.setNat a v).slu = s.slu := rfl
@[simp] theorem setNat_port (a v : Nat) : (s.setNat a v).port = s.port := rfl
@[simp] theorem setNat_spoSub (a v : Nat) : (s.setNat a v).spoSub = s.spoSub := rfl
@[simp] theorem setNat_sp (a v : Nat) : (s.setNat a v).sp = s.sp := rfl
@[simp] theorem setNat_ul (a v : Nat) : (s.setNat a v).ul = s.ul := rfl
@[simp] theorem setNat_podlFlt (a v : Nat) : (s.setNat a v).podlFlt = s.podlFlt := rfl
@[simp] theorem setNat_podl (a v : Nat) : (s.setNat a v).podl = s.podl := rfl
@[simp] theorem setNat_gh (a v : Nat) : (s.setNat a v).gh = s.gh := rfl
@[simp] theorem setNat_sec (a v : Nat) : (s.setNat a v).sec = s.sec := rfl
@[simp] theorem setNat_ao (a v : Nat) : (s.setNat a v).ao = s.ao := rfl
@[simp] theorem setNat_mc (a v : Nat) : (s.setNat a v).mc = s.mc := rfl
@[simp] theorem setNat_cc (a v : Nat) : (s.setNat a v).cc = s.cc := rfl
@[simp] theorem setNat_ts (a v : Nat) : (s.setNat a v).ts = s.ts := rfl
@[simp] theorem setNat_plic (a v : Nat) : (s.setNat a v).plic = s.plic := rfl
@[simp] theorem setNat_pmu (a v : Nat) : (s.setNat a v).pmu = s.pmu := rfl
@[simp] theorem setNat_tp (a v : Nat) : (s.setNat a v).tp = s.tp := rfl
@[simp] theorem setNat_flt (a v : Nat) : (s.setNat a v).flt = s.flt := rfl
@[simp] theorem setNat_pending (a v : Nat) : (s.setNat a v).pending = s.pending := rfl

/-! ### setFld -/

@[simp] theorem setFld_dt (a lo len v : Nat) : (s.setFld a lo len v).dt = s.dt := rfl
@[simp] theorem setFld_dtFrac (a lo len v : Nat) : (s.setFld a lo len v).dtFrac = s.dtFrac := rfl
@[simp] theorem setFld_freeCtr (a lo len v : Nat) : (s.setFld a lo len v).freeCtr = s.freeCtr := rfl
@[simp] theorem setFld_resp (a lo len v : Nat) : (s.setFld a lo len v).resp = s.resp := rfl
@[simp] theorem setFld_snap (a lo len v : Nat) : (s.setFld a lo len v).snap = s.snap := rfl
@[simp] theorem setFld_hold (a lo len v : Nat) : (s.setFld a lo len v).hold = s.hold := rfl
@[simp] theorem setFld_dram (a lo len v : Nat) : (s.setFld a lo len v).dram = s.dram := rfl
@[simp] theorem setFld_l2 (a lo len v : Nat) : (s.setFld a lo len v).l2 = s.l2 := rfl
@[simp] theorem setFld_tstore (a lo len v : Nat) : (s.setFld a lo len v).tstore = s.tstore := rfl
@[simp] theorem setFld_pounds (a lo len v : Nat) : (s.setFld a lo len v).pounds = s.pounds := rfl
@[simp] theorem setFld_gen (a lo len v : Nat) : (s.setFld a lo len v).gen = s.gen := rfl
@[simp] theorem setFld_pp (a lo len v : Nat) : (s.setFld a lo len v).pp = s.pp := rfl
@[simp] theorem setFld_tm (a lo len v : Nat) : (s.setFld a lo len v).tm = s.tm := rfl
@[simp] theorem setFld_air (a lo len v : Nat) : (s.setFld a lo len v).air = s.air := rfl
@[simp] theorem setFld_duty (a lo len v : Nat) : (s.setFld a lo len v).duty = s.duty := rfl
@[simp] theorem setFld_sta (a lo len v : Nat) : (s.setFld a lo len v).sta = s.sta := rfl
@[simp] theorem setFld_rd (a lo len v : Nat) : (s.setFld a lo len v).rd = s.rd := rfl
@[simp] theorem setFld_slu (a lo len v : Nat) : (s.setFld a lo len v).slu = s.slu := rfl
@[simp] theorem setFld_port (a lo len v : Nat) : (s.setFld a lo len v).port = s.port := rfl
@[simp] theorem setFld_spoSub (a lo len v : Nat) : (s.setFld a lo len v).spoSub = s.spoSub := rfl
@[simp] theorem setFld_sp (a lo len v : Nat) : (s.setFld a lo len v).sp = s.sp := rfl
@[simp] theorem setFld_ul (a lo len v : Nat) : (s.setFld a lo len v).ul = s.ul := rfl
@[simp] theorem setFld_podlFlt (a lo len v : Nat) : (s.setFld a lo len v).podlFlt = s.podlFlt := rfl
@[simp] theorem setFld_podl (a lo len v : Nat) : (s.setFld a lo len v).podl = s.podl := rfl
@[simp] theorem setFld_gh (a lo len v : Nat) : (s.setFld a lo len v).gh = s.gh := rfl
@[simp] theorem setFld_sec (a lo len v : Nat) : (s.setFld a lo len v).sec = s.sec := rfl
@[simp] theorem setFld_ao (a lo len v : Nat) : (s.setFld a lo len v).ao = s.ao := rfl
@[simp] theorem setFld_mc (a lo len v : Nat) : (s.setFld a lo len v).mc = s.mc := rfl
@[simp] theorem setFld_cc (a lo len v : Nat) : (s.setFld a lo len v).cc = s.cc := rfl
@[simp] theorem setFld_ts (a lo len v : Nat) : (s.setFld a lo len v).ts = s.ts := rfl
@[simp] theorem setFld_plic (a lo len v : Nat) : (s.setFld a lo len v).plic = s.plic := rfl
@[simp] theorem setFld_pmu (a lo len v : Nat) : (s.setFld a lo len v).pmu = s.pmu := rfl
@[simp] theorem setFld_tp (a lo len v : Nat) : (s.setFld a lo len v).tp = s.tp := rfl
@[simp] theorem setFld_flt (a lo len v : Nat) : (s.setFld a lo len v).flt = s.flt := rfl
@[simp] theorem setFld_pending (a lo len v : Nat) : (s.setFld a lo len v).pending = s.pending := rfl

/-! ### setBit -/

@[simp] theorem setBit_dt (a i : Nat) (b : Bool) : (s.setBit a i b).dt = s.dt := rfl
@[simp] theorem setBit_dtFrac (a i : Nat) (b : Bool) : (s.setBit a i b).dtFrac = s.dtFrac := rfl
@[simp] theorem setBit_freeCtr (a i : Nat) (b : Bool) : (s.setBit a i b).freeCtr = s.freeCtr := rfl
@[simp] theorem setBit_resp (a i : Nat) (b : Bool) : (s.setBit a i b).resp = s.resp := rfl
@[simp] theorem setBit_snap (a i : Nat) (b : Bool) : (s.setBit a i b).snap = s.snap := rfl
@[simp] theorem setBit_hold (a i : Nat) (b : Bool) : (s.setBit a i b).hold = s.hold := rfl
@[simp] theorem setBit_dram (a i : Nat) (b : Bool) : (s.setBit a i b).dram = s.dram := rfl
@[simp] theorem setBit_l2 (a i : Nat) (b : Bool) : (s.setBit a i b).l2 = s.l2 := rfl
@[simp] theorem setBit_tstore (a i : Nat) (b : Bool) : (s.setBit a i b).tstore = s.tstore := rfl
@[simp] theorem setBit_pounds (a i : Nat) (b : Bool) : (s.setBit a i b).pounds = s.pounds := rfl
@[simp] theorem setBit_gen (a i : Nat) (b : Bool) : (s.setBit a i b).gen = s.gen := rfl
@[simp] theorem setBit_pp (a i : Nat) (b : Bool) : (s.setBit a i b).pp = s.pp := rfl
@[simp] theorem setBit_tm (a i : Nat) (b : Bool) : (s.setBit a i b).tm = s.tm := rfl
@[simp] theorem setBit_air (a i : Nat) (b : Bool) : (s.setBit a i b).air = s.air := rfl
@[simp] theorem setBit_duty (a i : Nat) (b : Bool) : (s.setBit a i b).duty = s.duty := rfl
@[simp] theorem setBit_sta (a i : Nat) (b : Bool) : (s.setBit a i b).sta = s.sta := rfl
@[simp] theorem setBit_rd (a i : Nat) (b : Bool) : (s.setBit a i b).rd = s.rd := rfl
@[simp] theorem setBit_slu (a i : Nat) (b : Bool) : (s.setBit a i b).slu = s.slu := rfl
@[simp] theorem setBit_port (a i : Nat) (b : Bool) : (s.setBit a i b).port = s.port := rfl
@[simp] theorem setBit_spoSub (a i : Nat) (b : Bool) : (s.setBit a i b).spoSub = s.spoSub := rfl
@[simp] theorem setBit_sp (a i : Nat) (b : Bool) : (s.setBit a i b).sp = s.sp := rfl
@[simp] theorem setBit_ul (a i : Nat) (b : Bool) : (s.setBit a i b).ul = s.ul := rfl
@[simp] theorem setBit_podlFlt (a i : Nat) (b : Bool) : (s.setBit a i b).podlFlt = s.podlFlt := rfl
@[simp] theorem setBit_podl (a i : Nat) (b : Bool) : (s.setBit a i b).podl = s.podl := rfl
@[simp] theorem setBit_gh (a i : Nat) (b : Bool) : (s.setBit a i b).gh = s.gh := rfl
@[simp] theorem setBit_sec (a i : Nat) (b : Bool) : (s.setBit a i b).sec = s.sec := rfl
@[simp] theorem setBit_ao (a i : Nat) (b : Bool) : (s.setBit a i b).ao = s.ao := rfl
@[simp] theorem setBit_mc (a i : Nat) (b : Bool) : (s.setBit a i b).mc = s.mc := rfl
@[simp] theorem setBit_cc (a i : Nat) (b : Bool) : (s.setBit a i b).cc = s.cc := rfl
@[simp] theorem setBit_ts (a i : Nat) (b : Bool) : (s.setBit a i b).ts = s.ts := rfl
@[simp] theorem setBit_plic (a i : Nat) (b : Bool) : (s.setBit a i b).plic = s.plic := rfl
@[simp] theorem setBit_pmu (a i : Nat) (b : Bool) : (s.setBit a i b).pmu = s.pmu := rfl
@[simp] theorem setBit_tp (a i : Nat) (b : Bool) : (s.setBit a i b).tp = s.tp := rfl
@[simp] theorem setBit_flt (a i : Nat) (b : Bool) : (s.setBit a i b).flt = s.flt := rfl
@[simp] theorem setBit_pending (a i : Nat) (b : Bool) : (s.setBit a i b).pending = s.pending := rfl

/-! ### raise -/

@[simp] theorem raise_dt (a i : Nat) : (s.raise a i).dt = s.dt := rfl
@[simp] theorem raise_dtFrac (a i : Nat) : (s.raise a i).dtFrac = s.dtFrac := rfl
@[simp] theorem raise_freeCtr (a i : Nat) : (s.raise a i).freeCtr = s.freeCtr := rfl
@[simp] theorem raise_resp (a i : Nat) : (s.raise a i).resp = s.resp := rfl
@[simp] theorem raise_snap (a i : Nat) : (s.raise a i).snap = s.snap := rfl
@[simp] theorem raise_hold (a i : Nat) : (s.raise a i).hold = s.hold := rfl
@[simp] theorem raise_dram (a i : Nat) : (s.raise a i).dram = s.dram := rfl
@[simp] theorem raise_l2 (a i : Nat) : (s.raise a i).l2 = s.l2 := rfl
@[simp] theorem raise_tstore (a i : Nat) : (s.raise a i).tstore = s.tstore := rfl
@[simp] theorem raise_pounds (a i : Nat) : (s.raise a i).pounds = s.pounds := rfl
@[simp] theorem raise_gen (a i : Nat) : (s.raise a i).gen = s.gen := rfl
@[simp] theorem raise_pp (a i : Nat) : (s.raise a i).pp = s.pp := rfl
@[simp] theorem raise_tm (a i : Nat) : (s.raise a i).tm = s.tm := rfl
@[simp] theorem raise_air (a i : Nat) : (s.raise a i).air = s.air := rfl
@[simp] theorem raise_duty (a i : Nat) : (s.raise a i).duty = s.duty := rfl
@[simp] theorem raise_sta (a i : Nat) : (s.raise a i).sta = s.sta := rfl
@[simp] theorem raise_rd (a i : Nat) : (s.raise a i).rd = s.rd := rfl
@[simp] theorem raise_slu (a i : Nat) : (s.raise a i).slu = s.slu := rfl
@[simp] theorem raise_port (a i : Nat) : (s.raise a i).port = s.port := rfl
@[simp] theorem raise_spoSub (a i : Nat) : (s.raise a i).spoSub = s.spoSub := rfl
@[simp] theorem raise_sp (a i : Nat) : (s.raise a i).sp = s.sp := rfl
@[simp] theorem raise_ul (a i : Nat) : (s.raise a i).ul = s.ul := rfl
@[simp] theorem raise_podlFlt (a i : Nat) : (s.raise a i).podlFlt = s.podlFlt := rfl
@[simp] theorem raise_podl (a i : Nat) : (s.raise a i).podl = s.podl := rfl
@[simp] theorem raise_gh (a i : Nat) : (s.raise a i).gh = s.gh := rfl
@[simp] theorem raise_sec (a i : Nat) : (s.raise a i).sec = s.sec := rfl
@[simp] theorem raise_ao (a i : Nat) : (s.raise a i).ao = s.ao := rfl
@[simp] theorem raise_mc (a i : Nat) : (s.raise a i).mc = s.mc := rfl
@[simp] theorem raise_cc (a i : Nat) : (s.raise a i).cc = s.cc := rfl
@[simp] theorem raise_ts (a i : Nat) : (s.raise a i).ts = s.ts := rfl
@[simp] theorem raise_plic (a i : Nat) : (s.raise a i).plic = s.plic := rfl
@[simp] theorem raise_pmu (a i : Nat) : (s.raise a i).pmu = s.pmu := rfl
@[simp] theorem raise_tp (a i : Nat) : (s.raise a i).tp = s.tp := rfl
@[simp] theorem raise_flt (a i : Nat) : (s.raise a i).flt = s.flt := rfl
@[simp] theorem raise_pending (a i : Nat) : (s.raise a i).pending = s.pending := rfl

/-! ### orReg -/

@[simp] theorem orReg_dt (a : Nat) (m : Word) : (s.orReg a m).dt = s.dt := rfl
@[simp] theorem orReg_dtFrac (a : Nat) (m : Word) : (s.orReg a m).dtFrac = s.dtFrac := rfl
@[simp] theorem orReg_freeCtr (a : Nat) (m : Word) : (s.orReg a m).freeCtr = s.freeCtr := rfl
@[simp] theorem orReg_resp (a : Nat) (m : Word) : (s.orReg a m).resp = s.resp := rfl
@[simp] theorem orReg_snap (a : Nat) (m : Word) : (s.orReg a m).snap = s.snap := rfl
@[simp] theorem orReg_hold (a : Nat) (m : Word) : (s.orReg a m).hold = s.hold := rfl
@[simp] theorem orReg_dram (a : Nat) (m : Word) : (s.orReg a m).dram = s.dram := rfl
@[simp] theorem orReg_l2 (a : Nat) (m : Word) : (s.orReg a m).l2 = s.l2 := rfl
@[simp] theorem orReg_tstore (a : Nat) (m : Word) : (s.orReg a m).tstore = s.tstore := rfl
@[simp] theorem orReg_pounds (a : Nat) (m : Word) : (s.orReg a m).pounds = s.pounds := rfl
@[simp] theorem orReg_gen (a : Nat) (m : Word) : (s.orReg a m).gen = s.gen := rfl
@[simp] theorem orReg_pp (a : Nat) (m : Word) : (s.orReg a m).pp = s.pp := rfl
@[simp] theorem orReg_tm (a : Nat) (m : Word) : (s.orReg a m).tm = s.tm := rfl
@[simp] theorem orReg_air (a : Nat) (m : Word) : (s.orReg a m).air = s.air := rfl
@[simp] theorem orReg_duty (a : Nat) (m : Word) : (s.orReg a m).duty = s.duty := rfl
@[simp] theorem orReg_sta (a : Nat) (m : Word) : (s.orReg a m).sta = s.sta := rfl
@[simp] theorem orReg_rd (a : Nat) (m : Word) : (s.orReg a m).rd = s.rd := rfl
@[simp] theorem orReg_slu (a : Nat) (m : Word) : (s.orReg a m).slu = s.slu := rfl
@[simp] theorem orReg_port (a : Nat) (m : Word) : (s.orReg a m).port = s.port := rfl
@[simp] theorem orReg_spoSub (a : Nat) (m : Word) : (s.orReg a m).spoSub = s.spoSub := rfl
@[simp] theorem orReg_sp (a : Nat) (m : Word) : (s.orReg a m).sp = s.sp := rfl
@[simp] theorem orReg_ul (a : Nat) (m : Word) : (s.orReg a m).ul = s.ul := rfl
@[simp] theorem orReg_podlFlt (a : Nat) (m : Word) : (s.orReg a m).podlFlt = s.podlFlt := rfl
@[simp] theorem orReg_podl (a : Nat) (m : Word) : (s.orReg a m).podl = s.podl := rfl
@[simp] theorem orReg_gh (a : Nat) (m : Word) : (s.orReg a m).gh = s.gh := rfl
@[simp] theorem orReg_sec (a : Nat) (m : Word) : (s.orReg a m).sec = s.sec := rfl
@[simp] theorem orReg_ao (a : Nat) (m : Word) : (s.orReg a m).ao = s.ao := rfl
@[simp] theorem orReg_mc (a : Nat) (m : Word) : (s.orReg a m).mc = s.mc := rfl
@[simp] theorem orReg_cc (a : Nat) (m : Word) : (s.orReg a m).cc = s.cc := rfl
@[simp] theorem orReg_ts (a : Nat) (m : Word) : (s.orReg a m).ts = s.ts := rfl
@[simp] theorem orReg_plic (a : Nat) (m : Word) : (s.orReg a m).plic = s.plic := rfl
@[simp] theorem orReg_pmu (a : Nat) (m : Word) : (s.orReg a m).pmu = s.pmu := rfl
@[simp] theorem orReg_tp (a : Nat) (m : Word) : (s.orReg a m).tp = s.tp := rfl
@[simp] theorem orReg_flt (a : Nat) (m : Word) : (s.orReg a m).flt = s.flt := rfl
@[simp] theorem orReg_pending (a : Nat) (m : Word) : (s.orReg a m).pending = s.pending := rfl

/-! ### clrReg -/

@[simp] theorem clrReg_dt (a : Nat) (m : Word) : (s.clrReg a m).dt = s.dt := rfl
@[simp] theorem clrReg_dtFrac (a : Nat) (m : Word) : (s.clrReg a m).dtFrac = s.dtFrac := rfl
@[simp] theorem clrReg_freeCtr (a : Nat) (m : Word) : (s.clrReg a m).freeCtr = s.freeCtr := rfl
@[simp] theorem clrReg_resp (a : Nat) (m : Word) : (s.clrReg a m).resp = s.resp := rfl
@[simp] theorem clrReg_snap (a : Nat) (m : Word) : (s.clrReg a m).snap = s.snap := rfl
@[simp] theorem clrReg_hold (a : Nat) (m : Word) : (s.clrReg a m).hold = s.hold := rfl
@[simp] theorem clrReg_dram (a : Nat) (m : Word) : (s.clrReg a m).dram = s.dram := rfl
@[simp] theorem clrReg_l2 (a : Nat) (m : Word) : (s.clrReg a m).l2 = s.l2 := rfl
@[simp] theorem clrReg_tstore (a : Nat) (m : Word) : (s.clrReg a m).tstore = s.tstore := rfl
@[simp] theorem clrReg_pounds (a : Nat) (m : Word) : (s.clrReg a m).pounds = s.pounds := rfl
@[simp] theorem clrReg_gen (a : Nat) (m : Word) : (s.clrReg a m).gen = s.gen := rfl
@[simp] theorem clrReg_pp (a : Nat) (m : Word) : (s.clrReg a m).pp = s.pp := rfl
@[simp] theorem clrReg_tm (a : Nat) (m : Word) : (s.clrReg a m).tm = s.tm := rfl
@[simp] theorem clrReg_air (a : Nat) (m : Word) : (s.clrReg a m).air = s.air := rfl
@[simp] theorem clrReg_duty (a : Nat) (m : Word) : (s.clrReg a m).duty = s.duty := rfl
@[simp] theorem clrReg_sta (a : Nat) (m : Word) : (s.clrReg a m).sta = s.sta := rfl
@[simp] theorem clrReg_rd (a : Nat) (m : Word) : (s.clrReg a m).rd = s.rd := rfl
@[simp] theorem clrReg_slu (a : Nat) (m : Word) : (s.clrReg a m).slu = s.slu := rfl
@[simp] theorem clrReg_port (a : Nat) (m : Word) : (s.clrReg a m).port = s.port := rfl
@[simp] theorem clrReg_spoSub (a : Nat) (m : Word) : (s.clrReg a m).spoSub = s.spoSub := rfl
@[simp] theorem clrReg_sp (a : Nat) (m : Word) : (s.clrReg a m).sp = s.sp := rfl
@[simp] theorem clrReg_ul (a : Nat) (m : Word) : (s.clrReg a m).ul = s.ul := rfl
@[simp] theorem clrReg_podlFlt (a : Nat) (m : Word) : (s.clrReg a m).podlFlt = s.podlFlt := rfl
@[simp] theorem clrReg_podl (a : Nat) (m : Word) : (s.clrReg a m).podl = s.podl := rfl
@[simp] theorem clrReg_gh (a : Nat) (m : Word) : (s.clrReg a m).gh = s.gh := rfl
@[simp] theorem clrReg_sec (a : Nat) (m : Word) : (s.clrReg a m).sec = s.sec := rfl
@[simp] theorem clrReg_ao (a : Nat) (m : Word) : (s.clrReg a m).ao = s.ao := rfl
@[simp] theorem clrReg_mc (a : Nat) (m : Word) : (s.clrReg a m).mc = s.mc := rfl
@[simp] theorem clrReg_cc (a : Nat) (m : Word) : (s.clrReg a m).cc = s.cc := rfl
@[simp] theorem clrReg_ts (a : Nat) (m : Word) : (s.clrReg a m).ts = s.ts := rfl
@[simp] theorem clrReg_plic (a : Nat) (m : Word) : (s.clrReg a m).plic = s.plic := rfl
@[simp] theorem clrReg_pmu (a : Nat) (m : Word) : (s.clrReg a m).pmu = s.pmu := rfl
@[simp] theorem clrReg_tp (a : Nat) (m : Word) : (s.clrReg a m).tp = s.tp := rfl
@[simp] theorem clrReg_flt (a : Nat) (m : Word) : (s.clrReg a m).flt = s.flt := rfl
@[simp] theorem clrReg_pending (a : Nat) (m : Word) : (s.clrReg a m).pending = s.pending := rfl

/-! ### addRc -/

@[simp] theorem addRc_dt (a n : Nat) : (s.addRc a n).dt = s.dt := rfl
@[simp] theorem addRc_dtFrac (a n : Nat) : (s.addRc a n).dtFrac = s.dtFrac := rfl
@[simp] theorem addRc_freeCtr (a n : Nat) : (s.addRc a n).freeCtr = s.freeCtr := rfl
@[simp] theorem addRc_resp (a n : Nat) : (s.addRc a n).resp = s.resp := rfl
@[simp] theorem addRc_snap (a n : Nat) : (s.addRc a n).snap = s.snap := rfl
@[simp] theorem addRc_hold (a n : Nat) : (s.addRc a n).hold = s.hold := rfl
@[simp] theorem addRc_dram (a n : Nat) : (s.addRc a n).dram = s.dram := rfl
@[simp] theorem addRc_l2 (a n : Nat) : (s.addRc a n).l2 = s.l2 := rfl
@[simp] theorem addRc_tstore (a n : Nat) : (s.addRc a n).tstore = s.tstore := rfl
@[simp] theorem addRc_pounds (a n : Nat) : (s.addRc a n).pounds = s.pounds := rfl
@[simp] theorem addRc_gen (a n : Nat) : (s.addRc a n).gen = s.gen := rfl
@[simp] theorem addRc_pp (a n : Nat) : (s.addRc a n).pp = s.pp := rfl
@[simp] theorem addRc_tm (a n : Nat) : (s.addRc a n).tm = s.tm := rfl
@[simp] theorem addRc_air (a n : Nat) : (s.addRc a n).air = s.air := rfl
@[simp] theorem addRc_duty (a n : Nat) : (s.addRc a n).duty = s.duty := rfl
@[simp] theorem addRc_sta (a n : Nat) : (s.addRc a n).sta = s.sta := rfl
@[simp] theorem addRc_rd (a n : Nat) : (s.addRc a n).rd = s.rd := rfl
@[simp] theorem addRc_slu (a n : Nat) : (s.addRc a n).slu = s.slu := rfl
@[simp] theorem addRc_port (a n : Nat) : (s.addRc a n).port = s.port := rfl
@[simp] theorem addRc_spoSub (a n : Nat) : (s.addRc a n).spoSub = s.spoSub := rfl
@[simp] theorem addRc_sp (a n : Nat) : (s.addRc a n).sp = s.sp := rfl
@[simp] theorem addRc_ul (a n : Nat) : (s.addRc a n).ul = s.ul := rfl
@[simp] theorem addRc_podlFlt (a n : Nat) : (s.addRc a n).podlFlt = s.podlFlt := rfl
@[simp] theorem addRc_podl (a n : Nat) : (s.addRc a n).podl = s.podl := rfl
@[simp] theorem addRc_gh (a n : Nat) : (s.addRc a n).gh = s.gh := rfl
@[simp] theorem addRc_sec (a n : Nat) : (s.addRc a n).sec = s.sec := rfl
@[simp] theorem addRc_ao (a n : Nat) : (s.addRc a n).ao = s.ao := rfl
@[simp] theorem addRc_mc (a n : Nat) : (s.addRc a n).mc = s.mc := rfl
@[simp] theorem addRc_cc (a n : Nat) : (s.addRc a n).cc = s.cc := rfl
@[simp] theorem addRc_ts (a n : Nat) : (s.addRc a n).ts = s.ts := rfl
@[simp] theorem addRc_plic (a n : Nat) : (s.addRc a n).plic = s.plic := rfl
@[simp] theorem addRc_pmu (a n : Nat) : (s.addRc a n).pmu = s.pmu := rfl
@[simp] theorem addRc_tp (a n : Nat) : (s.addRc a n).tp = s.tp := rfl
@[simp] theorem addRc_flt (a n : Nat) : (s.addRc a n).flt = s.flt := rfl
@[simp] theorem addRc_pending (a n : Nat) : (s.addRc a n).pending = s.pending := rfl

/-! ### inc -/

@[simp] theorem inc_dt (a : Nat) : (s.inc a).dt = s.dt := rfl
@[simp] theorem inc_dtFrac (a : Nat) : (s.inc a).dtFrac = s.dtFrac := rfl
@[simp] theorem inc_freeCtr (a : Nat) : (s.inc a).freeCtr = s.freeCtr := rfl
@[simp] theorem inc_resp (a : Nat) : (s.inc a).resp = s.resp := rfl
@[simp] theorem inc_snap (a : Nat) : (s.inc a).snap = s.snap := rfl
@[simp] theorem inc_hold (a : Nat) : (s.inc a).hold = s.hold := rfl
@[simp] theorem inc_dram (a : Nat) : (s.inc a).dram = s.dram := rfl
@[simp] theorem inc_l2 (a : Nat) : (s.inc a).l2 = s.l2 := rfl
@[simp] theorem inc_tstore (a : Nat) : (s.inc a).tstore = s.tstore := rfl
@[simp] theorem inc_pounds (a : Nat) : (s.inc a).pounds = s.pounds := rfl
@[simp] theorem inc_gen (a : Nat) : (s.inc a).gen = s.gen := rfl
@[simp] theorem inc_pp (a : Nat) : (s.inc a).pp = s.pp := rfl
@[simp] theorem inc_tm (a : Nat) : (s.inc a).tm = s.tm := rfl
@[simp] theorem inc_air (a : Nat) : (s.inc a).air = s.air := rfl
@[simp] theorem inc_duty (a : Nat) : (s.inc a).duty = s.duty := rfl
@[simp] theorem inc_sta (a : Nat) : (s.inc a).sta = s.sta := rfl
@[simp] theorem inc_rd (a : Nat) : (s.inc a).rd = s.rd := rfl
@[simp] theorem inc_slu (a : Nat) : (s.inc a).slu = s.slu := rfl
@[simp] theorem inc_port (a : Nat) : (s.inc a).port = s.port := rfl
@[simp] theorem inc_spoSub (a : Nat) : (s.inc a).spoSub = s.spoSub := rfl
@[simp] theorem inc_sp (a : Nat) : (s.inc a).sp = s.sp := rfl
@[simp] theorem inc_ul (a : Nat) : (s.inc a).ul = s.ul := rfl
@[simp] theorem inc_podlFlt (a : Nat) : (s.inc a).podlFlt = s.podlFlt := rfl
@[simp] theorem inc_podl (a : Nat) : (s.inc a).podl = s.podl := rfl
@[simp] theorem inc_gh (a : Nat) : (s.inc a).gh = s.gh := rfl
@[simp] theorem inc_sec (a : Nat) : (s.inc a).sec = s.sec := rfl
@[simp] theorem inc_ao (a : Nat) : (s.inc a).ao = s.ao := rfl
@[simp] theorem inc_mc (a : Nat) : (s.inc a).mc = s.mc := rfl
@[simp] theorem inc_cc (a : Nat) : (s.inc a).cc = s.cc := rfl
@[simp] theorem inc_ts (a : Nat) : (s.inc a).ts = s.ts := rfl
@[simp] theorem inc_plic (a : Nat) : (s.inc a).plic = s.plic := rfl
@[simp] theorem inc_pmu (a : Nat) : (s.inc a).pmu = s.pmu := rfl
@[simp] theorem inc_tp (a : Nat) : (s.inc a).tp = s.tp := rfl
@[simp] theorem inc_flt (a : Nat) : (s.inc a).flt = s.flt := rfl
@[simp] theorem inc_pending (a : Nat) : (s.inc a).pending = s.pending := rfl

/-! ### incWrap -/

@[simp] theorem incWrap_dt (a : Nat) : (s.incWrap a).dt = s.dt := rfl
@[simp] theorem incWrap_dtFrac (a : Nat) : (s.incWrap a).dtFrac = s.dtFrac := rfl
@[simp] theorem incWrap_freeCtr (a : Nat) : (s.incWrap a).freeCtr = s.freeCtr := rfl
@[simp] theorem incWrap_resp (a : Nat) : (s.incWrap a).resp = s.resp := rfl
@[simp] theorem incWrap_snap (a : Nat) : (s.incWrap a).snap = s.snap := rfl
@[simp] theorem incWrap_hold (a : Nat) : (s.incWrap a).hold = s.hold := rfl
@[simp] theorem incWrap_dram (a : Nat) : (s.incWrap a).dram = s.dram := rfl
@[simp] theorem incWrap_l2 (a : Nat) : (s.incWrap a).l2 = s.l2 := rfl
@[simp] theorem incWrap_tstore (a : Nat) : (s.incWrap a).tstore = s.tstore := rfl
@[simp] theorem incWrap_pounds (a : Nat) : (s.incWrap a).pounds = s.pounds := rfl
@[simp] theorem incWrap_gen (a : Nat) : (s.incWrap a).gen = s.gen := rfl
@[simp] theorem incWrap_pp (a : Nat) : (s.incWrap a).pp = s.pp := rfl
@[simp] theorem incWrap_tm (a : Nat) : (s.incWrap a).tm = s.tm := rfl
@[simp] theorem incWrap_air (a : Nat) : (s.incWrap a).air = s.air := rfl
@[simp] theorem incWrap_duty (a : Nat) : (s.incWrap a).duty = s.duty := rfl
@[simp] theorem incWrap_sta (a : Nat) : (s.incWrap a).sta = s.sta := rfl
@[simp] theorem incWrap_rd (a : Nat) : (s.incWrap a).rd = s.rd := rfl
@[simp] theorem incWrap_slu (a : Nat) : (s.incWrap a).slu = s.slu := rfl
@[simp] theorem incWrap_port (a : Nat) : (s.incWrap a).port = s.port := rfl
@[simp] theorem incWrap_spoSub (a : Nat) : (s.incWrap a).spoSub = s.spoSub := rfl
@[simp] theorem incWrap_sp (a : Nat) : (s.incWrap a).sp = s.sp := rfl
@[simp] theorem incWrap_ul (a : Nat) : (s.incWrap a).ul = s.ul := rfl
@[simp] theorem incWrap_podlFlt (a : Nat) : (s.incWrap a).podlFlt = s.podlFlt := rfl
@[simp] theorem incWrap_podl (a : Nat) : (s.incWrap a).podl = s.podl := rfl
@[simp] theorem incWrap_gh (a : Nat) : (s.incWrap a).gh = s.gh := rfl
@[simp] theorem incWrap_sec (a : Nat) : (s.incWrap a).sec = s.sec := rfl
@[simp] theorem incWrap_ao (a : Nat) : (s.incWrap a).ao = s.ao := rfl
@[simp] theorem incWrap_mc (a : Nat) : (s.incWrap a).mc = s.mc := rfl
@[simp] theorem incWrap_cc (a : Nat) : (s.incWrap a).cc = s.cc := rfl
@[simp] theorem incWrap_ts (a : Nat) : (s.incWrap a).ts = s.ts := rfl
@[simp] theorem incWrap_plic (a : Nat) : (s.incWrap a).plic = s.plic := rfl
@[simp] theorem incWrap_pmu (a : Nat) : (s.incWrap a).pmu = s.pmu := rfl
@[simp] theorem incWrap_tp (a : Nat) : (s.incWrap a).tp = s.tp := rfl
@[simp] theorem incWrap_flt (a : Nat) : (s.incWrap a).flt = s.flt := rfl
@[simp] theorem incWrap_pending (a : Nat) : (s.incWrap a).pending = s.pending := rfl

/-! ### setPair -/

@[simp] theorem setPair_dt (a v : Nat) : (s.setPair a v).dt = s.dt := rfl
@[simp] theorem setPair_dtFrac (a v : Nat) : (s.setPair a v).dtFrac = s.dtFrac := rfl
@[simp] theorem setPair_freeCtr (a v : Nat) : (s.setPair a v).freeCtr = s.freeCtr := rfl
@[simp] theorem setPair_resp (a v : Nat) : (s.setPair a v).resp = s.resp := rfl
@[simp] theorem setPair_snap (a v : Nat) : (s.setPair a v).snap = s.snap := rfl
@[simp] theorem setPair_hold (a v : Nat) : (s.setPair a v).hold = s.hold := rfl
@[simp] theorem setPair_dram (a v : Nat) : (s.setPair a v).dram = s.dram := rfl
@[simp] theorem setPair_l2 (a v : Nat) : (s.setPair a v).l2 = s.l2 := rfl
@[simp] theorem setPair_tstore (a v : Nat) : (s.setPair a v).tstore = s.tstore := rfl
@[simp] theorem setPair_pounds (a v : Nat) : (s.setPair a v).pounds = s.pounds := rfl
@[simp] theorem setPair_gen (a v : Nat) : (s.setPair a v).gen = s.gen := rfl
@[simp] theorem setPair_pp (a v : Nat) : (s.setPair a v).pp = s.pp := rfl
@[simp] theorem setPair_tm (a v : Nat) : (s.setPair a v).tm = s.tm := rfl
@[simp] theorem setPair_air (a v : Nat) : (s.setPair a v).air = s.air := rfl
@[simp] theorem setPair_duty (a v : Nat) : (s.setPair a v).duty = s.duty := rfl
@[simp] theorem setPair_sta (a v : Nat) : (s.setPair a v).sta = s.sta := rfl
@[simp] theorem setPair_rd (a v : Nat) : (s.setPair a v).rd = s.rd := rfl
@[simp] theorem setPair_slu (a v : Nat) : (s.setPair a v).slu = s.slu := rfl
@[simp] theorem setPair_port (a v : Nat) : (s.setPair a v).port = s.port := rfl
@[simp] theorem setPair_spoSub (a v : Nat) : (s.setPair a v).spoSub = s.spoSub := rfl
@[simp] theorem setPair_sp (a v : Nat) : (s.setPair a v).sp = s.sp := rfl
@[simp] theorem setPair_ul (a v : Nat) : (s.setPair a v).ul = s.ul := rfl
@[simp] theorem setPair_podlFlt (a v : Nat) : (s.setPair a v).podlFlt = s.podlFlt := rfl
@[simp] theorem setPair_podl (a v : Nat) : (s.setPair a v).podl = s.podl := rfl
@[simp] theorem setPair_gh (a v : Nat) : (s.setPair a v).gh = s.gh := rfl
@[simp] theorem setPair_sec (a v : Nat) : (s.setPair a v).sec = s.sec := rfl
@[simp] theorem setPair_ao (a v : Nat) : (s.setPair a v).ao = s.ao := rfl
@[simp] theorem setPair_mc (a v : Nat) : (s.setPair a v).mc = s.mc := rfl
@[simp] theorem setPair_cc (a v : Nat) : (s.setPair a v).cc = s.cc := rfl
@[simp] theorem setPair_ts (a v : Nat) : (s.setPair a v).ts = s.ts := rfl
@[simp] theorem setPair_plic (a v : Nat) : (s.setPair a v).plic = s.plic := rfl
@[simp] theorem setPair_pmu (a v : Nat) : (s.setPair a v).pmu = s.pmu := rfl
@[simp] theorem setPair_tp (a v : Nat) : (s.setPair a v).tp = s.tp := rfl
@[simp] theorem setPair_flt (a v : Nat) : (s.setPair a v).flt = s.flt := rfl
@[simp] theorem setPair_pending (a v : Nat) : (s.setPair a v).pending = s.pending := rfl

/-! ### addPair -/

@[simp] theorem addPair_dt (a n : Nat) : (s.addPair a n).dt = s.dt := rfl
@[simp] theorem addPair_dtFrac (a n : Nat) : (s.addPair a n).dtFrac = s.dtFrac := rfl
@[simp] theorem addPair_freeCtr (a n : Nat) : (s.addPair a n).freeCtr = s.freeCtr := rfl
@[simp] theorem addPair_resp (a n : Nat) : (s.addPair a n).resp = s.resp := rfl
@[simp] theorem addPair_snap (a n : Nat) : (s.addPair a n).snap = s.snap := rfl
@[simp] theorem addPair_hold (a n : Nat) : (s.addPair a n).hold = s.hold := rfl
@[simp] theorem addPair_dram (a n : Nat) : (s.addPair a n).dram = s.dram := rfl
@[simp] theorem addPair_l2 (a n : Nat) : (s.addPair a n).l2 = s.l2 := rfl
@[simp] theorem addPair_tstore (a n : Nat) : (s.addPair a n).tstore = s.tstore := rfl
@[simp] theorem addPair_pounds (a n : Nat) : (s.addPair a n).pounds = s.pounds := rfl
@[simp] theorem addPair_gen (a n : Nat) : (s.addPair a n).gen = s.gen := rfl
@[simp] theorem addPair_pp (a n : Nat) : (s.addPair a n).pp = s.pp := rfl
@[simp] theorem addPair_tm (a n : Nat) : (s.addPair a n).tm = s.tm := rfl
@[simp] theorem addPair_air (a n : Nat) : (s.addPair a n).air = s.air := rfl
@[simp] theorem addPair_duty (a n : Nat) : (s.addPair a n).duty = s.duty := rfl
@[simp] theorem addPair_sta (a n : Nat) : (s.addPair a n).sta = s.sta := rfl
@[simp] theorem addPair_rd (a n : Nat) : (s.addPair a n).rd = s.rd := rfl
@[simp] theorem addPair_slu (a n : Nat) : (s.addPair a n).slu = s.slu := rfl
@[simp] theorem addPair_port (a n : Nat) : (s.addPair a n).port = s.port := rfl
@[simp] theorem addPair_spoSub (a n : Nat) : (s.addPair a n).spoSub = s.spoSub := rfl
@[simp] theorem addPair_sp (a n : Nat) : (s.addPair a n).sp = s.sp := rfl
@[simp] theorem addPair_ul (a n : Nat) : (s.addPair a n).ul = s.ul := rfl
@[simp] theorem addPair_podlFlt (a n : Nat) : (s.addPair a n).podlFlt = s.podlFlt := rfl
@[simp] theorem addPair_podl (a n : Nat) : (s.addPair a n).podl = s.podl := rfl
@[simp] theorem addPair_gh (a n : Nat) : (s.addPair a n).gh = s.gh := rfl
@[simp] theorem addPair_sec (a n : Nat) : (s.addPair a n).sec = s.sec := rfl
@[simp] theorem addPair_ao (a n : Nat) : (s.addPair a n).ao = s.ao := rfl
@[simp] theorem addPair_mc (a n : Nat) : (s.addPair a n).mc = s.mc := rfl
@[simp] theorem addPair_cc (a n : Nat) : (s.addPair a n).cc = s.cc := rfl
@[simp] theorem addPair_ts (a n : Nat) : (s.addPair a n).ts = s.ts := rfl
@[simp] theorem addPair_plic (a n : Nat) : (s.addPair a n).plic = s.plic := rfl
@[simp] theorem addPair_pmu (a n : Nat) : (s.addPair a n).pmu = s.pmu := rfl
@[simp] theorem addPair_tp (a n : Nat) : (s.addPair a n).tp = s.tp := rfl
@[simp] theorem addPair_flt (a n : Nat) : (s.addPair a n).flt = s.flt := rfl
@[simp] theorem addPair_pending (a n : Nat) : (s.addPair a n).pending = s.pending := rfl

/-! ### setFlds -/

@[simp] theorem setFlds_dt (a : Nat) (l : List (Nat × Nat × Nat)) : (s.setFlds a l).dt = s.dt := rfl
@[simp] theorem setFlds_dtFrac (a : Nat) (l : List (Nat × Nat × Nat)) : (s.setFlds a l).dtFrac = s.dtFrac := rfl
@[simp] theorem setFlds_freeCtr (a : Nat) (l : List (Nat × Nat × Nat)) : (s.setFlds a l).freeCtr = s.freeCtr := rfl
@[simp] theorem setFlds_resp (a : Nat) (l : List (Nat × Nat × Nat)) : (s.setFlds a l).resp = s.resp := rfl
@[simp] theorem setFlds_snap (a : Nat) (l : List (Nat × Nat × Nat)) : (s.setFlds a l).snap = s.snap := rfl
@[simp] theorem setFlds_hold (a : Nat) (l : List (Nat × Nat × Nat)) : (s.setFlds a l).hold = s.hold := rfl
@[simp] theorem setFlds_dram (a : Nat) (l : List (Nat × Nat × Nat)) : (s.setFlds a l).dram = s.dram := rfl
@[simp] theorem setFlds_l2 (a : Nat) (l : List (Nat × Nat × Nat)) : (s.setFlds a l).l2 = s.l2 := rfl
@[simp] theorem setFlds_tstore (a : Nat) (l : List (Nat × Nat × Nat)) : (s.setFlds a l).tstore = s.tstore := rfl
@[simp] theorem setFlds_pounds (a : Nat) (l : List (Nat × Nat × Nat)) : (s.setFlds a l).pounds = s.pounds := rfl
@[simp] theorem setFlds_gen (a : Nat) (l : List (Nat × Nat × Nat)) : (s.setFlds a l).gen = s.gen := rfl
@[simp] theorem setFlds_pp (a : Nat) (l : List (Nat × Nat × Nat)) : (s.setFlds a l).pp = s.pp := rfl
@[simp] theorem setFlds_tm (a : Nat) (l : List (Nat × Nat × Nat)) : (s.setFlds a l).tm = s.tm := rfl
@[simp] theorem setFlds_air (a : Nat) (l : List (Nat × Nat × Nat)) : (s.setFlds a l).air = s.air := rfl
@[simp] theorem setFlds_duty (a : Nat) (l : List (Nat × Nat × Nat)) : (s.setFlds a l).duty = s.duty := rfl
@[simp] theorem setFlds_sta (a : Nat) (l : List (Nat × Nat × Nat)) : (s.setFlds a l).sta = s.sta := rfl
@[simp] theorem setFlds_rd (a : Nat) (l : List (Nat × Nat × Nat)) : (s.setFlds a l).rd = s.rd := rfl
@[simp] theorem setFlds_slu (a : Nat) (l : List (Nat × Nat × Nat)) : (s.setFlds a l).slu = s.slu := rfl
@[simp] theorem setFlds_port (a : Nat) (l : List (Nat × Nat × Nat)) : (s.setFlds a l).port = s.port := rfl
@[simp] theorem setFlds_spoSub (a : Nat) (l : List (Nat × Nat × Nat)) : (s.setFlds a l).spoSub = s.spoSub := rfl
@[simp] theorem setFlds_sp (a : Nat) (l : List (Nat × Nat × Nat)) : (s.setFlds a l).sp = s.sp := rfl
@[simp] theorem setFlds_ul (a : Nat) (l : List (Nat × Nat × Nat)) : (s.setFlds a l).ul = s.ul := rfl
@[simp] theorem setFlds_podlFlt (a : Nat) (l : List (Nat × Nat × Nat)) : (s.setFlds a l).podlFlt = s.podlFlt := rfl
@[simp] theorem setFlds_podl (a : Nat) (l : List (Nat × Nat × Nat)) : (s.setFlds a l).podl = s.podl := rfl
@[simp] theorem setFlds_gh (a : Nat) (l : List (Nat × Nat × Nat)) : (s.setFlds a l).gh = s.gh := rfl
@[simp] theorem setFlds_sec (a : Nat) (l : List (Nat × Nat × Nat)) : (s.setFlds a l).sec = s.sec := rfl
@[simp] theorem setFlds_ao (a : Nat) (l : List (Nat × Nat × Nat)) : (s.setFlds a l).ao = s.ao := rfl
@[simp] theorem setFlds_mc (a : Nat) (l : List (Nat × Nat × Nat)) : (s.setFlds a l).mc = s.mc := rfl
@[simp] theorem setFlds_cc (a : Nat) (l : List (Nat × Nat × Nat)) : (s.setFlds a l).cc = s.cc := rfl
@[simp] theorem setFlds_ts (a : Nat) (l : List (Nat × Nat × Nat)) : (s.setFlds a l).ts = s.ts := rfl
@[simp] theorem setFlds_plic (a : Nat) (l : List (Nat × Nat × Nat)) : (s.setFlds a l).plic = s.plic := rfl
@[simp] theorem setFlds_pmu (a : Nat) (l : List (Nat × Nat × Nat)) : (s.setFlds a l).pmu = s.pmu := rfl
@[simp] theorem setFlds_tp (a : Nat) (l : List (Nat × Nat × Nat)) : (s.setFlds a l).tp = s.tp := rfl
@[simp] theorem setFlds_flt (a : Nat) (l : List (Nat × Nat × Nat)) : (s.setFlds a l).flt = s.flt := rfl
@[simp] theorem setFlds_pending (a : Nat) (l : List (Nat × Nat × Nat)) : (s.setFlds a l).pending = s.pending := rfl

/-! ### Free values: drawing one moves the counter and nothing else -/

@[simp] theorem drawWord_dt  : (s.drawWord).2.dt = s.dt := rfl
@[simp] theorem drawWord_dtFrac  : (s.drawWord).2.dtFrac = s.dtFrac := rfl
@[simp] theorem drawWord_resp  : (s.drawWord).2.resp = s.resp := rfl
@[simp] theorem drawWord_regs  : (s.drawWord).2.regs = s.regs := rfl
@[simp] theorem drawWord_snap  : (s.drawWord).2.snap = s.snap := rfl
@[simp] theorem drawWord_hold  : (s.drawWord).2.hold = s.hold := rfl
@[simp] theorem drawWord_dram  : (s.drawWord).2.dram = s.dram := rfl
@[simp] theorem drawWord_l2  : (s.drawWord).2.l2 = s.l2 := rfl
@[simp] theorem drawWord_tstore  : (s.drawWord).2.tstore = s.tstore := rfl
@[simp] theorem drawWord_pounds  : (s.drawWord).2.pounds = s.pounds := rfl
@[simp] theorem drawWord_gen  : (s.drawWord).2.gen = s.gen := rfl
@[simp] theorem drawWord_pp  : (s.drawWord).2.pp = s.pp := rfl
@[simp] theorem drawWord_tm  : (s.drawWord).2.tm = s.tm := rfl
@[simp] theorem drawWord_air  : (s.drawWord).2.air = s.air := rfl
@[simp] theorem drawWord_duty  : (s.drawWord).2.duty = s.duty := rfl
@[simp] theorem drawWord_sta  : (s.drawWord).2.sta = s.sta := rfl
@[simp] theorem drawWord_rd  : (s.drawWord).2.rd = s.rd := rfl
@[simp] theorem drawWord_slu  : (s.drawWord).2.slu = s.slu := rfl
@[simp] theorem drawWord_port  : (s.drawWord).2.port = s.port := rfl
@[simp] theorem drawWord_spoSub  : (s.drawWord).2.spoSub = s.spoSub := rfl
@[simp] theorem drawWord_sp  : (s.drawWord).2.sp = s.sp := rfl
@[simp] theorem drawWord_ul  : (s.drawWord).2.ul = s.ul := rfl
@[simp] theorem drawWord_podlFlt  : (s.drawWord).2.podlFlt = s.podlFlt := rfl
@[simp] theorem drawWord_podl  : (s.drawWord).2.podl = s.podl := rfl
@[simp] theorem drawWord_gh  : (s.drawWord).2.gh = s.gh := rfl
@[simp] theorem drawWord_sec  : (s.drawWord).2.sec = s.sec := rfl
@[simp] theorem drawWord_ao  : (s.drawWord).2.ao = s.ao := rfl
@[simp] theorem drawWord_mc  : (s.drawWord).2.mc = s.mc := rfl
@[simp] theorem drawWord_cc  : (s.drawWord).2.cc = s.cc := rfl
@[simp] theorem drawWord_ts  : (s.drawWord).2.ts = s.ts := rfl
@[simp] theorem drawWord_plic  : (s.drawWord).2.plic = s.plic := rfl
@[simp] theorem drawWord_pmu  : (s.drawWord).2.pmu = s.pmu := rfl
@[simp] theorem drawWord_tp  : (s.drawWord).2.tp = s.tp := rfl
@[simp] theorem drawWord_flt  : (s.drawWord).2.flt = s.flt := rfl
@[simp] theorem drawWord_pending  : (s.drawWord).2.pending = s.pending := rfl
@[simp] theorem drawWord_freeCtr  : (s.drawWord).2.freeCtr = s.freeCtr + 1 := rfl
@[simp] theorem drawNat_dt  : (s.drawNat).2.dt = s.dt := rfl
@[simp] theorem drawNat_dtFrac  : (s.drawNat).2.dtFrac = s.dtFrac := rfl
@[simp] theorem drawNat_resp  : (s.drawNat).2.resp = s.resp := rfl
@[simp] theorem drawNat_regs  : (s.drawNat).2.regs = s.regs := rfl
@[simp] theorem drawNat_snap  : (s.drawNat).2.snap = s.snap := rfl
@[simp] theorem drawNat_hold  : (s.drawNat).2.hold = s.hold := rfl
@[simp] theorem drawNat_dram  : (s.drawNat).2.dram = s.dram := rfl
@[simp] theorem drawNat_l2  : (s.drawNat).2.l2 = s.l2 := rfl
@[simp] theorem drawNat_tstore  : (s.drawNat).2.tstore = s.tstore := rfl
@[simp] theorem drawNat_pounds  : (s.drawNat).2.pounds = s.pounds := rfl
@[simp] theorem drawNat_gen  : (s.drawNat).2.gen = s.gen := rfl
@[simp] theorem drawNat_pp  : (s.drawNat).2.pp = s.pp := rfl
@[simp] theorem drawNat_tm  : (s.drawNat).2.tm = s.tm := rfl
@[simp] theorem drawNat_air  : (s.drawNat).2.air = s.air := rfl
@[simp] theorem drawNat_duty  : (s.drawNat).2.duty = s.duty := rfl
@[simp] theorem drawNat_sta  : (s.drawNat).2.sta = s.sta := rfl
@[simp] theorem drawNat_rd  : (s.drawNat).2.rd = s.rd := rfl
@[simp] theorem drawNat_slu  : (s.drawNat).2.slu = s.slu := rfl
@[simp] theorem drawNat_port  : (s.drawNat).2.port = s.port := rfl
@[simp] theorem drawNat_spoSub  : (s.drawNat).2.spoSub = s.spoSub := rfl
@[simp] theorem drawNat_sp  : (s.drawNat).2.sp = s.sp := rfl
@[simp] theorem drawNat_ul  : (s.drawNat).2.ul = s.ul := rfl
@[simp] theorem drawNat_podlFlt  : (s.drawNat).2.podlFlt = s.podlFlt := rfl
@[simp] theorem drawNat_podl  : (s.drawNat).2.podl = s.podl := rfl
@[simp] theorem drawNat_gh  : (s.drawNat).2.gh = s.gh := rfl
@[simp] theorem drawNat_sec  : (s.drawNat).2.sec = s.sec := rfl
@[simp] theorem drawNat_ao  : (s.drawNat).2.ao = s.ao := rfl
@[simp] theorem drawNat_mc  : (s.drawNat).2.mc = s.mc := rfl
@[simp] theorem drawNat_cc  : (s.drawNat).2.cc = s.cc := rfl
@[simp] theorem drawNat_ts  : (s.drawNat).2.ts = s.ts := rfl
@[simp] theorem drawNat_plic  : (s.drawNat).2.plic = s.plic := rfl
@[simp] theorem drawNat_pmu  : (s.drawNat).2.pmu = s.pmu := rfl
@[simp] theorem drawNat_tp  : (s.drawNat).2.tp = s.tp := rfl
@[simp] theorem drawNat_flt  : (s.drawNat).2.flt = s.flt := rfl
@[simp] theorem drawNat_pending  : (s.drawNat).2.pending = s.pending := rfl
@[simp] theorem drawNat_freeCtr  : (s.drawNat).2.freeCtr = s.freeCtr + 1 := rfl
@[simp] theorem drawBytes_dt (n : Nat) : (s.drawBytes n).2.dt = s.dt := rfl
@[simp] theorem drawBytes_dtFrac (n : Nat) : (s.drawBytes n).2.dtFrac = s.dtFrac := rfl
@[simp] theorem drawBytes_resp (n : Nat) : (s.drawBytes n).2.resp = s.resp := rfl
@[simp] theorem drawBytes_regs (n : Nat) : (s.drawBytes n).2.regs = s.regs := rfl
@[simp] theorem drawBytes_snap (n : Nat) : (s.drawBytes n).2.snap = s.snap := rfl
@[simp] theorem drawBytes_hold (n : Nat) : (s.drawBytes n).2.hold = s.hold := rfl
@[simp] theorem drawBytes_dram (n : Nat) : (s.drawBytes n).2.dram = s.dram := rfl
@[simp] theorem drawBytes_l2 (n : Nat) : (s.drawBytes n).2.l2 = s.l2 := rfl
@[simp] theorem drawBytes_tstore (n : Nat) : (s.drawBytes n).2.tstore = s.tstore := rfl
@[simp] theorem drawBytes_pounds (n : Nat) : (s.drawBytes n).2.pounds = s.pounds := rfl
@[simp] theorem drawBytes_gen (n : Nat) : (s.drawBytes n).2.gen = s.gen := rfl
@[simp] theorem drawBytes_pp (n : Nat) : (s.drawBytes n).2.pp = s.pp := rfl
@[simp] theorem drawBytes_tm (n : Nat) : (s.drawBytes n).2.tm = s.tm := rfl
@[simp] theorem drawBytes_air (n : Nat) : (s.drawBytes n).2.air = s.air := rfl
@[simp] theorem drawBytes_duty (n : Nat) : (s.drawBytes n).2.duty = s.duty := rfl
@[simp] theorem drawBytes_sta (n : Nat) : (s.drawBytes n).2.sta = s.sta := rfl
@[simp] theorem drawBytes_rd (n : Nat) : (s.drawBytes n).2.rd = s.rd := rfl
@[simp] theorem drawBytes_slu (n : Nat) : (s.drawBytes n).2.slu = s.slu := rfl
@[simp] theorem drawBytes_port (n : Nat) : (s.drawBytes n).2.port = s.port := rfl
@[simp] theorem drawBytes_spoSub (n : Nat) : (s.drawBytes n).2.spoSub = s.spoSub := rfl
@[simp] theorem drawBytes_sp (n : Nat) : (s.drawBytes n).2.sp = s.sp := rfl
@[simp] theorem drawBytes_ul (n : Nat) : (s.drawBytes n).2.ul = s.ul := rfl
@[simp] theorem drawBytes_podlFlt (n : Nat) : (s.drawBytes n).2.podlFlt = s.podlFlt := rfl
@[simp] theorem drawBytes_podl (n : Nat) : (s.drawBytes n).2.podl = s.podl := rfl
@[simp] theorem drawBytes_gh (n : Nat) : (s.drawBytes n).2.gh = s.gh := rfl
@[simp] theorem drawBytes_sec (n : Nat) : (s.drawBytes n).2.sec = s.sec := rfl
@[simp] theorem drawBytes_ao (n : Nat) : (s.drawBytes n).2.ao = s.ao := rfl
@[simp] theorem drawBytes_mc (n : Nat) : (s.drawBytes n).2.mc = s.mc := rfl
@[simp] theorem drawBytes_cc (n : Nat) : (s.drawBytes n).2.cc = s.cc := rfl
@[simp] theorem drawBytes_ts (n : Nat) : (s.drawBytes n).2.ts = s.ts := rfl
@[simp] theorem drawBytes_plic (n : Nat) : (s.drawBytes n).2.plic = s.plic := rfl
@[simp] theorem drawBytes_pmu (n : Nat) : (s.drawBytes n).2.pmu = s.pmu := rfl
@[simp] theorem drawBytes_tp (n : Nat) : (s.drawBytes n).2.tp = s.tp := rfl
@[simp] theorem drawBytes_flt (n : Nat) : (s.drawBytes n).2.flt = s.flt := rfl
@[simp] theorem drawBytes_pending (n : Nat) : (s.drawBytes n).2.pending = s.pending := rfl
@[simp] theorem drawBytes_freeCtr (n : Nat) : (s.drawBytes n).2.freeCtr = s.freeCtr + 1 := rfl

/-! ### Registers -/

/-- A register after a write of a register. -/
theorem reg_setReg (a : Nat) (v : Word) (q : Nat) : (s.setReg a v).reg q = if q = a then v else s.reg q := by
  simp [State.reg, State.setReg, bankGet_bankSet]

@[simp] theorem reg_setReg_same (a : Nat) (v : Word) : (s.setReg a v).reg a = v := by simp [reg_setReg]

variable {q : Nat}

theorem reg_setReg_ne {a : Nat} (v : Word) (h : q ≠ a) : (s.setReg a v).reg q = s.reg q := by simp [reg_setReg, h]

theorem reg_setNat_ne (a v : Nat) (h : q ≠ a) : (s.setNat a v).reg q = s.reg q := by
  simp [State.setNat, reg_setReg, h]

theorem reg_setFld_ne (a lo len v : Nat) (h : q ≠ a) : (s.setFld a lo len v).reg q = s.reg q := by
  simp [State.setFld, reg_setReg, h]

theorem reg_setBit_ne (a i : Nat) (b : Bool) (h : q ≠ a) : (s.setBit a i b).reg q = s.reg q := by
  simp [State.setBit, reg_setReg, h]

theorem reg_raise_ne (a i : Nat) (h : q ≠ a) : (s.raise a i).reg q = s.reg q := by
  simp [State.raise, State.setBit, reg_setReg, h]

theorem reg_orReg_ne (a : Nat) (m : Word) (h : q ≠ a) : (s.orReg a m).reg q = s.reg q := by
  simp [State.orReg, reg_setReg, h]

theorem reg_clrReg_ne (a : Nat) (m : Word) (h : q ≠ a) : (s.clrReg a m).reg q = s.reg q := by
  simp [State.clrReg, reg_setReg, h]

theorem reg_addRc_ne (a n : Nat) (h : q ≠ a) : (s.addRc a n).reg q = s.reg q := by
  simp [State.addRc, State.setNat, reg_setReg, h]

theorem reg_inc_ne (a : Nat) (h : q ≠ a) : (s.inc a).reg q = s.reg q := by
  simp [State.inc, State.addRc, State.setNat, reg_setReg, h]

theorem reg_incWrap_ne (a : Nat) (h : q ≠ a) : (s.incWrap a).reg q = s.reg q := by
  simp [State.incWrap, State.setNat, reg_setReg, h]

theorem reg_setPair_ne (a v : Nat) (h : q ≠ a) (h4 : q ≠ a + 4) : (s.setPair a v).reg q = s.reg q := by
  simp [State.setPair, State.setNat, reg_setReg, h, h4]

theorem reg_addPair_ne (a n : Nat) (h : q ≠ a) (h4 : q ≠ a + 4) : (s.addPair a n).reg q = s.reg q := by
  simp [State.addPair, State.setPair, State.setNat, reg_setReg, h, h4]

theorem reg_setFlds_ne (a : Nat) (l : List (Nat × Nat × Nat)) (h : q ≠ a) : (s.setFlds a l).reg q = s.reg q := by
  simp [State.setFlds, reg_setReg, h]

@[simp] theorem reg_setNat_same (a v : Nat) : (s.setNat a v).reg a = BitVec.ofNat 32 v := by simp [State.setNat]

@[simp] theorem reg_setFld_same (a lo len v : Nat) : (s.setFld a lo len v).reg a = putBits (s.reg a) lo len v := by
  simp [State.setFld]

@[simp] theorem reg_setBit_same (a i : Nat) (b : Bool) : (s.setBit a i b).reg a = putBit (s.reg a) i b := by
  simp [State.setBit]

@[simp] theorem reg_raise_same (a i : Nat) : (s.raise a i).reg a = putBit (s.reg a) i true := by simp [State.raise]

@[simp] theorem reg_orReg_same (a : Nat) (m : Word) : (s.orReg a m).reg a = s.reg a ||| m := by simp [State.orReg]

@[simp] theorem reg_clrReg_same (a : Nat) (m : Word) : (s.clrReg a m).reg a = s.reg a &&& ~~~m := by simp [State.clrReg]

theorem regN_setNat_same (a v : Nat) : (s.setNat a v).regN a = v % 2 ^ 32 := by simp [State.regN]

theorem fld_setFld_same (a lo len v : Nat) (h : lo + len ≤ 32) : (s.setFld a lo len v).fld a lo len = v % 2 ^ len := by
  simp [State.fld, bitsOf_putBits_same _ _ _ _ h]

theorem bit_setBit_same (a i : Nat) (b : Bool) (h : i < 32) : (s.setBit a i b).bit a i = b := by
  simp [State.bit, bitOf_putBit_same _ _ _ h]

theorem bit_raise_same (a i : Nat) (h : i < 32) : (s.raise a i).bit a i = true := bit_setBit_same s a i true h

/-- A register depends on the register bank alone. -/
theorem reg_congr {t : State} (h : t.regs = s.regs) (a : Nat) : t.reg a = s.reg a := by simp [State.reg, h]

@[simp] theorem reg_at (n : Nat) (a : Nat) : (s.at n).reg a = s.reg a := rfl
@[simp] theorem reg_setSnap (b : Nat) (v : BitVec 16) (a : Nat) : (s.setSnap b v).reg a = s.reg a := rfl
@[simp] theorem reg_setHold (b : Nat) (v : BitVec 16) (a : Nat) : (s.setHold b v).reg a = s.reg a := rfl
@[simp] theorem reg_dramWrite (o : Nat) (b : List Byte) (a : Nat) : (s.dramWrite o b).reg a = s.reg a := rfl
@[simp] theorem reg_tsWrite (o : Nat) (b : List Byte) (a : Nat) : (s.tsWrite o b).reg a = s.reg a := rfl
@[simp] theorem reg_answer (r : Resp) (a : Nat) : (s.answer r).reg a = s.reg a := rfl

/-- A function applied for each element keeps what each application keeps. -/
theorem each_ind {α : Type} (P : State → Prop) (l : List α) (f : α → State → State) (h : P s)
    (hf : ∀ x ∈ l, ∀ t, P t → P (f x t)) : P (s.each l f) := by
  induction l generalizing s with
  | nil => exact h
  | cons x r ih =>
    exact ih (f x s) (hf x (by simp) s h) (fun y hy => hf y (by simp [hy]))

@[simp] theorem whenB_true (f : State → State) : s.whenB true f = f s := rfl

@[simp] theorem whenB_false (f : State → State) : s.whenB false f = s := rfl

end Sys2Proof.Machine
end

