-- ==== Sys2Proof/Laws/Finish.lean ====
section
/-! SUPPORT. What the event map, the towpath and the interrupt controller can do to a state after a command: they write
registers of the lock-keeper, the towpath and the tap pounds, their own records, the pending requests and the tap pounds, and
nothing else. -/

namespace Sys2Proof.Machine

/-- A state without what the event map and the towpath's records write. -/
def State.bare (s : State) : State := { s with regs := [], pounds := [], tp := {}, ts := {}, plic := {} }

/-- `t` differs from `s` by no more than what the event map and the towpath's records write. -/
structure Aside (s t : State) : Prop where
  regs : ∀ a, noteReg a = false → t.reg a = s.reg a
  bare : t.bare = s.bare
  pounds : ∀ p, isTap p = false → t.pound p = s.pound p
  regsWf : bankWf regReset s.regs = true → bankWf regReset t.regs = true
  poundsWf : bankWf (fun _ => ({} : Pound)) s.pounds = true → bankWf (fun _ => ({} : Pound)) t.pounds = true

theorem Aside.refl (s : State) : Aside s s := ⟨fun _ _ => rfl, rfl, fun _ _ => rfl, id, id⟩

theorem ringUnits_congr {s t : State} (h : t.reg Reg.tpRingSize = s.reg Reg.tpRingSize) : ringUnits t = ringUnits s := by
  simp [ringUnits, State.fld, h]

theorem Aside.ringUnits {s t : State} (h : Aside s t) : ringUnits t = ringUnits s :=
  ringUnits_congr (h.regs _ (by decide))

theorem Aside.ringOff {s t : State} (h : Aside s t) (u : Nat) : ringOff t u = ringOff s u := by
  simp only [Machine.ringOff, State.regN, State.fld, h.regs Reg.tpRingBaseLo (by decide),
    h.regs Reg.tpRingBaseHi (by decide)]

theorem Aside.outRing {s t : State} (h : Aside s t) (o : Nat) : outRing t o = outRing s o := by
  simp only [Machine.outRing, h.ringOff, h.ringUnits]

theorem Aside.trans {s t u : State} (h : Aside s t) (k : Aside t u) : Aside s u :=
  ⟨fun a ha => (k.regs a ha).trans (h.regs a ha), k.bare.trans h.bare,
   fun p hp => (k.pounds p hp).trans (h.pounds p hp), k.regsWf ∘ h.regsWf, k.poundsWf ∘ h.poundsWf⟩

theorem Aside.setReg {s t : State} (h : Aside s t) {a : Nat} (v : Word) (ha : noteReg a = true) :
    Aside s (t.setReg a v) :=
  h.trans ⟨fun q hq => reg_setReg_ne t v (fun e => by rw [e, ha] at hq; exact absurd hq (by decide)), rfl, fun _ _ => rfl,
    bankWf_bankSet _ _ _ _, id⟩

theorem Aside.setNat {s t : State} (h : Aside s t) {a : Nat} (v : Nat) (ha : noteReg a = true) : Aside s (t.setNat a v) :=
  h.setReg _ ha

theorem Aside.setFld {s t : State} (h : Aside s t) {a : Nat} (lo len v : Nat) (ha : noteReg a = true) :
    Aside s (t.setFld a lo len v) := h.setReg _ ha

theorem Aside.setBit {s t : State} (h : Aside s t) {a : Nat} (i : Nat) (b : Bool) (ha : noteReg a = true) :
    Aside s (t.setBit a i b) := h.setReg _ ha

theorem Aside.raise {s t : State} (h : Aside s t) {a : Nat} (i : Nat) (ha : noteReg a = true) : Aside s (t.raise a i) :=
  h.setReg _ ha

theorem Aside.inc {s t : State} (h : Aside s t) {a : Nat} (ha : noteReg a = true) : Aside s (t.inc a) := h.setReg _ ha

theorem Aside.incWrap {s t : State} (h : Aside s t) {a : Nat} (ha : noteReg a = true) : Aside s (t.incWrap a) :=
  h.setReg _ ha

theorem Aside.addPair {s t : State} (h : Aside s t) {a : Nat} (n : Nat) (ha : noteReg a = true)
    (h4 : noteReg (a + 4) = true) : Aside s (t.addPair a n) := (h.setReg _ ha).setReg _ h4

/-- A change of the lock-keeper's and the towpath's own records. -/
theorem Aside.own {s t : State} (h : Aside s t) (x : TpState) (y : TsState) : Aside s { t with tp := x, ts := y } :=
  h.trans ⟨fun _ _ => rfl, rfl, fun _ _ => rfl, id, id⟩

theorem Aside.each {α : Type} {s t : State} (h : Aside s t) (l : List α) (f : α → State → State)
    (hf : ∀ x ∈ l, ∀ u, Aside s u → Aside s (f x u)) : Aside s (t.each l f) :=
  each_ind t (fun u => Aside s u) l f h hf

/-! ### The event map -/

theorem noteReg_view {k : Nat} (h : k < 4096) : noteReg (Reg.tsTaskView k) = true := by
  simp only [noteReg, mapReg, Bool.or_eq_true, Bool.and_eq_true, decide_eq_true_eq]
  simp only [Reg.tsTaskView, Reg.tsTaskFlags]
  omega

theorem noteReg_flags {k : Nat} (h : k < 4096) : noteReg (Reg.tsTaskFlags k) = true := by
  simp only [noteReg, mapReg, Bool.or_eq_true, Bool.and_eq_true, decide_eq_true_eq]
  simp only [Reg.tsTaskView, Reg.tsTaskFlags]
  omega

theorem Aside.setTask {s t : State} (h : Aside s t) (k : Nat) (x : Task) : Aside s (t.setTask k x) :=
  h.own t.tp _

theorem Aside.setTaskState {s t : State} (h : Aside s t) {k : Nat} (st : Nat) (hk : k < 4096) :
    Aside s (t.setTaskState k st) := by
  have h1 : noteReg (Reg.tsTaskView k) = true := noteReg_view hk
  unfold State.setTaskState
  dsimp only
  split
  · exact ((h.setFld _ _ _ h1).setFld _ _ _ (by decide)).setTask _ _
  · exact (h.setFld _ _ _ h1).setFld _ _ _ (by decide)

theorem Aside.reviewTask {s t : State} (h : Aside s t) {k : Nat} (hk : k < 4096) : Aside s (t.reviewTask k) := by
  unfold State.reviewTask
  split
  · exact h.setTaskState _ hk
  · split
    · exact h.setTaskState _ hk
    · exact h

theorem Aside.setFlag {s t : State} (h : Aside s t) {k : Nat} (f : Nat) (hk : k < 4096) : Aside s (t.setFlag k f) :=
  ((h.own t.tp _).setBit f true (noteReg_flags hk)).reviewTask hk

theorem evtMap_task_lt (s : State) : ∀ e ∈ evtMap s, e.2.1 < 4096 := by
  intro e he
  simp only [evtMap, List.mem_map] at he
  obtain ⟨x, _, rfl⟩ := he
  exact nbits_lt _ 10 12

/-- The event map changes no more than the lock-keeper's registers and records. -/
theorem mapEdges_aside (s t : State) : Aside t (mapEdges s t) := by
  unfold mapEdges
  split
  · refine (Aside.refl t).each _ _ (fun e he u hu => ?_)
    split
    · exact hu.setFlag _ (evtMap_task_lt t e he)
    · exact hu
  · exact Aside.refl t

/-! ### The towpath's records -/

theorem Aside.setGap {s t : State} (h : Aside s t) (k n : Nat) : Aside s (setGap t k n) :=
  (h.own { t.tp with gap := bankSet (fun _ => 0) t.tp.gap k n } t.ts).setBit 2 _ (by decide)

theorem noteReg_markStat (m : Nat) (h : m < 16) : noteReg (Reg.tpMarkStat m) = true := by
  simp only [noteReg, tapReg, Bool.or_eq_true, Bool.and_eq_true, decide_eq_true_eq]
  simp only [Reg.tpMarkStat]
  omega

theorem Aside.discardRecord {s t : State} (h : Aside s t) (k : Nat) : Aside s (discardRecord t k) := by
  have h1 := (h.inc (a := Reg.tpLost) (by decide)).setGap k (gapOf t k + 1)
  unfold Machine.discardRecord
  dsimp only
  split
  · exact h1
  · next m _ => exact (h1.setFld 0 2 3 (noteReg_markStat m m.isLt)).own _ _

/-- A tap pound and its registers replaced. -/
theorem Aside.setPound {s t : State} (h : Aside s t) {p : Nat} (q : Pound) (hp : isTap p = true) : Aside s (t.setPound p q) := by
  have hr : noteReg (Reg.topPndStat p) = true ∧ noteReg (Reg.topPndPkts p) = true ∧ noteReg (Reg.topPndXcnt p) = true := by
    simp only [isTap, Bool.and_eq_true, decide_eq_true_eq] at hp
    obtain rfl | rfl | rfl : p = 33 ∨ p = 34 ∨ p = 35 := by omega
    all_goals decide
  have h1 : Aside s { t with pounds := bankSet (fun _ => ({} : Pound)) t.pounds p q } :=
    h.trans ⟨fun _ _ => rfl, rfl, fun k hk => by
      have hne : k ≠ p := fun e => by rw [e, hp] at hk; exact absurd hk (by decide)
      simp only [State.pound, bankGet_bankSet, if_neg hne], id, bankWf_bankSet _ _ _ _⟩
  have h2 := (Aside.setReg h1 ((([(0, 10, q.level),
      (16, 1, bnat (wmLive (t.fld (Reg.topPndCfg p) 0 10) (poundDepth t p) q.level))] : List (Nat × Nat × Nat)).foldl
        (fun w f => putBits w f.1 f.2.1 f.2.2) (State.reg { t with pounds := bankSet (fun _ => ({} : Pound)) t.pounds p q }
          (Reg.topPndStat p)))) hr.1).setNat q.packets hr.2.1
  unfold State.setPound
  dsimp only
  split
  · exact (h2.setBit _ _ hr.1).incWrap hr.2.2
  · exact h2

theorem Aside.pushAll {s : State} {p : Nat} (hp : isTap p = true) (ws : List PWord) : ∀ {t : State}, Aside s t →
    Aside s (pushAll t p ws) := by
  induction ws with
  | nil => intro t h; exact h
  | cons w r ih => intro t h; exact ih (h.setPound _ hp)

theorem Aside.tapGap {s t : State} (h : Aside s t) {k : Nat} (hk : k < 3) : Aside s (tapGap t k) := by
  have hp : isTap (33 + k) = true := by simp only [isTap, Bool.and_eq_true, decide_eq_true_eq]; omega
  unfold Machine.tapGap
  dsimp only
  split
  · exact h
  · exact ((h.pushAll hp _).setGap _ _).raise _ (by decide)

/-- A record of a tap changes no more than the towpath's registers and records and the tap pounds. -/
theorem Aside.tapRecord {s t : State} (h : Aside s t) {k : Nat} (hk : k < 3) (kind dt a0 a1 : Nat) (bs : List Byte) :
    Aside s (tapRecord t k kind dt a0 a1 bs) := by
  have hp : isTap (33 + k) = true := by simp only [isTap, Bool.and_eq_true, decide_eq_true_eq]; omega
  unfold Machine.tapRecord
  split
  · dsimp only
    split
    · exact (h.tapGap hk).pushAll hp _
    · exact (h.tapGap hk).discardRecord _
  · exact h

/-- The IRQ records change no more than that. -/
theorem recordIrqs_aside (s t : State) : Aside t (recordIrqs s t) := by
  unfold recordIrqs
  split
  · exact (Aside.refl t).each _ _ (fun i _ u hu => hu.tapRecord (by decide) _ _ _ _ _)
  · exact Aside.refl t

/-- A request set or cleared at the interrupt controller, and nothing else. -/
theorem plicPend_setPlicPend (s : State) (i j : Nat) (b : Bool) :
    plicPend (setPlicPend s i b) j = if j = i then b else plicPend s j := by
  simp only [plicPend, setPlicPend, bankGet_bankSet]

@[simp] theorem plicServed_setPlicPend (s : State) (i j : Nat) (b : Bool) :
    plicServed (setPlicPend s i b) j = plicServed s j := rfl

@[simp] theorem reg_setPlicPend (s : State) (i a : Nat) (b : Bool) : (setPlicPend s i b).reg a = s.reg a := rfl

/-- The interrupt controller's latch changes its pending requests alone. -/
theorem plicLatch_plic (s : State) : ∃ x, plicLatch s = { s with plic := x } := by
  unfold plicLatch
  split
  · refine each_ind s (fun u => ∃ x, u = { s with plic := x }) _ _ ⟨s.plic, rfl⟩ (fun i _ u hu => ?_)
    obtain ⟨x, rfl⟩ := hu
    exact ⟨_, rfl⟩
  · exact ⟨s.plic, rfl⟩

@[simp] theorem plicLatch_reg (s : State) (a : Nat) : (plicLatch s).reg a = s.reg a := by
  obtain ⟨x, h⟩ := plicLatch_plic s
  rw [h]; rfl

theorem plicLatch_aside (s : State) : Aside s (plicLatch s) := by
  obtain ⟨x, h⟩ := plicLatch_plic s
  rw [h]
  exact ⟨fun _ _ => rfl, rfl, fun _ _ => rfl, id, id⟩

/-- What every command leaves beside its own effect `t`. -/
theorem finish_aside (s t : State) : Aside t (finish s t) :=
  ((mapEdges_aside s t).trans (recordIrqs_aside s _)).trans (plicLatch_aside _)

/-- A register outside the lock-keeper and the towpath is as the command's own effect left it. -/
theorem finish_reg (s t : State) (a : Nat) (h : noteReg a = false) : (finish s t).reg a = t.reg a :=
  (finish_aside s t).regs a h

@[simp] theorem reg_setTask (s : State) (k : Nat) (x : Task) (a : Nat) : (s.setTask k x).reg a = s.reg a := rfl

theorem reg_setTaskState (s : State) (k st a : Nat) (hv : a ≠ Reg.tsTaskView k) (hs : a ≠ Reg.tsTsStat) :
    (s.setTaskState k st).reg a = s.reg a := by
  unfold State.setTaskState
  dsimp only
  split <;> simp only [reg_setTask, reg_setFld_ne _ _ _ _ _ hs, reg_setFld_ne _ _ _ _ _ hv]

theorem reg_reviewTask (s : State) (k a : Nat) (hv : a ≠ Reg.tsTaskView k) (hs : a ≠ Reg.tsTsStat) :
    (s.reviewTask k).reg a = s.reg a := by
  unfold State.reviewTask
  split
  · exact reg_setTaskState s k 2 a hv hs
  · split
    · exact reg_setTaskState s k 1 a hv hs
    · rfl

theorem reg_setFlag (s : State) (k f a : Nat) (hv : a ≠ Reg.tsTaskView k) (hf : a ≠ Reg.tsTaskFlags k)
    (hs : a ≠ Reg.tsTsStat) : (s.setFlag k f).reg a = s.reg a := by
  unfold State.setFlag
  rw [reg_reviewTask _ _ _ hv hs, reg_setBit_ne _ _ _ _ hf]
  rfl

theorem mapReg_ne {a : Nat} (h : mapReg a = false) : a ≠ Reg.tsTsStat ∧
    ∀ k, k < 4096 → a ≠ Reg.tsTaskView k ∧ a ≠ Reg.tsTaskFlags k := by
  simp only [mapReg, Bool.or_eq_false_iff, Bool.and_eq_false_iff, decide_eq_false_iff_not] at h
  refine ⟨h.1.1.1, fun k hk => ?_⟩
  simp only [Reg.tsTaskView, Reg.tsTaskFlags] at *
  omega

/-- The event map writes no register but TASK_VIEW, TASK_FLAGS and TS_STAT. -/
theorem mapEdges_reg (s t : State) (a : Nat) (h : mapReg a = false) : (mapEdges s t).reg a = t.reg a := by
  obtain ⟨hs, hv⟩ := mapReg_ne h
  unfold mapEdges
  split
  · refine each_ind t (fun u => u.reg a = t.reg a) _ _ rfl (fun e he u hu => ?_)
    have hk := hv _ (evtMap_task_lt t e he)
    split
    · rw [reg_setFlag _ _ _ _ hk.1 hk.2 hs, hu]
    · exact hu
  · rfl

/-- The event map leaves every pound alone. -/
theorem mapEdges_pounds (s t : State) : (mapEdges s t).pounds = t.pounds := by
  unfold mapEdges
  split
  · refine each_ind t (fun u => u.pounds = t.pounds) _ _ rfl (fun e _ u hu => ?_)
    split
    · rw [← hu]
      simp only [State.setFlag, State.reviewTask, State.setTaskState]
      repeat' split
      all_goals rfl
    · exact hu
  · rfl

theorem recording_congr {s t : State} (k : Nat) (h : t.reg Reg.tpTpCtrl = s.reg Reg.tpTpCtrl)
    (h' : t.reg (Reg.topIslStat 20) = s.reg (Reg.topIslStat 20)) : recording t k = recording s k := by
  unfold recording islPowered islInReset State.bit State.fld
  rw [h, h']

theorem calm_congr {s t : State} {a : Nat} (h : t.reg Reg.tpTpCtrl = s.reg Reg.tpTpCtrl)
    (h' : t.reg (Reg.topIslStat 20) = s.reg (Reg.topIslStat 20)) : calm t a = calm s a := by
  simp [calm, tapsOff, recording_congr _ h h']

/-- A calm register is as the command's own effect left it. -/
theorem finish_reg_calm (s t : State) (a : Nat) (h : calm t a = true) : (finish s t).reg a = t.reg a := by
  simp only [calm, tapsOff, Bool.and_eq_true, Bool.not_eq_true', Bool.or_eq_true, Bool.or_eq_false_iff] at h
  rcases h.2 with h2 | h2
  · exact finish_reg s t a (by simp [noteReg, h.1, h2])
  · have hr : recording (mapEdges s t) 2 = false := by
      rw [recording_congr (s := t) 2 (mapEdges_reg s t _ (by decide)) (mapEdges_reg s t _ (by decide))]; exact h2.2
    rw [finish, plicLatch_reg, recordIrqs, hr, if_neg (by simp)]
    exact mapEdges_reg s t a h.1

/-! ### The other fields after a command -/

@[simp] theorem finish_dt (s t : State) : (finish s t).dt = t.dt := congrArg (·.dt) (finish_aside s t).bare

@[simp] theorem finish_dtFrac (s t : State) : (finish s t).dtFrac = t.dtFrac := congrArg (·.dtFrac) (finish_aside s t).bare

@[simp] theorem finish_freeCtr (s t : State) : (finish s t).freeCtr = t.freeCtr := congrArg (·.freeCtr) (finish_aside s t).bare

@[simp] theorem finish_resp (s t : State) : (finish s t).resp = t.resp := congrArg (·.resp) (finish_aside s t).bare

@[simp] theorem finish_snap (s t : State) : (finish s t).snap = t.snap := congrArg (·.snap) (finish_aside s t).bare

@[simp] theorem finish_hold (s t : State) : (finish s t).hold = t.hold := congrArg (·.hold) (finish_aside s t).bare

@[simp] theorem finish_l2 (s t : State) : (finish s t).l2 = t.l2 := congrArg (·.l2) (finish_aside s t).bare

@[simp] theorem finish_tstore (s t : State) : (finish s t).tstore = t.tstore := congrArg (·.tstore) (finish_aside s t).bare

@[simp] theorem finish_dram (s t : State) : (finish s t).dram = t.dram := congrArg (·.dram) (finish_aside s t).bare

/-- A pound other than the tap pounds is as the command's own effect left it. -/
theorem finish_pound (s t : State) (p : Nat) (h : isTap p = false) : (finish s t).pound p = t.pound p :=
  (finish_aside s t).pounds p h

/-- While no tap records, every pound is. -/
theorem finish_pounds (s t : State) (h : tapsOff t = true) : (finish s t).pounds = t.pounds := by
  simp only [tapsOff, Bool.not_eq_true', Bool.or_eq_false_iff] at h
  have hr : recording (mapEdges s t) 2 = false := by
    rw [recording_congr (s := t) 2 (mapEdges_reg s t _ (by decide)) (mapEdges_reg s t _ (by decide))]; exact h.2
  obtain ⟨x, hx⟩ := plicLatch_plic (recordIrqs s (mapEdges s t))
  rw [finish, hx, recordIrqs, hr, if_neg (by simp)]
  exact mapEdges_pounds s t

@[simp] theorem finish_gen (s t : State) : (finish s t).gen = t.gen := congrArg (·.gen) (finish_aside s t).bare

@[simp] theorem finish_pp (s t : State) : (finish s t).pp = t.pp := congrArg (·.pp) (finish_aside s t).bare

@[simp] theorem finish_tm (s t : State) : (finish s t).tm = t.tm := congrArg (·.tm) (finish_aside s t).bare

@[simp] theorem finish_air (s t : State) : (finish s t).air = t.air := congrArg (·.air) (finish_aside s t).bare

@[simp] theorem finish_duty (s t : State) : (finish s t).duty = t.duty := congrArg (·.duty) (finish_aside s t).bare

@[simp] theorem finish_sta (s t : State) : (finish s t).sta = t.sta := congrArg (·.sta) (finish_aside s t).bare

@[simp] theorem finish_rd (s t : State) : (finish s t).rd = t.rd := congrArg (·.rd) (finish_aside s t).bare

@[simp] theorem finish_slu (s t : State) : (finish s t).slu = t.slu := congrArg (·.slu) (finish_aside s t).bare

@[simp] theorem finish_port (s t : State) : (finish s t).port = t.port := congrArg (·.port) (finish_aside s t).bare

@[simp] theorem finish_spoSub (s t : State) : (finish s t).spoSub = t.spoSub := congrArg (·.spoSub) (finish_aside s t).bare

@[simp] theorem finish_sp (s t : State) : (finish s t).sp = t.sp := congrArg (·.sp) (finish_aside s t).bare

@[simp] theorem finish_ul (s t : State) : (finish s t).ul = t.ul := congrArg (·.ul) (finish_aside s t).bare

@[simp] theorem finish_podlFlt (s t : State) : (finish s t).podlFlt = t.podlFlt := congrArg (·.podlFlt) (finish_aside s t).bare

@[simp] theorem finish_podl (s t : State) : (finish s t).podl = t.podl := congrArg (·.podl) (finish_aside s t).bare

@[simp] theorem finish_gh (s t : State) : (finish s t).gh = t.gh := congrArg (·.gh) (finish_aside s t).bare

@[simp] theorem finish_sec (s t : State) : (finish s t).sec = t.sec := congrArg (·.sec) (finish_aside s t).bare

@[simp] theorem finish_ao (s t : State) : (finish s t).ao = t.ao := congrArg (·.ao) (finish_aside s t).bare

@[simp] theorem finish_mc (s t : State) : (finish s t).mc = t.mc := congrArg (·.mc) (finish_aside s t).bare

@[simp] theorem finish_cc (s t : State) : (finish s t).cc = t.cc := congrArg (·.cc) (finish_aside s t).bare

@[simp] theorem finish_pmu (s t : State) : (finish s t).pmu = t.pmu := congrArg (·.pmu) (finish_aside s t).bare

@[simp] theorem finish_flt (s t : State) : (finish s t).flt = t.flt := congrArg (·.flt) (finish_aside s t).bare

@[simp] theorem finish_pending (s t : State) : (finish s t).pending = t.pending := congrArg (·.pending) (finish_aside s t).bare

end Sys2Proof.Machine
end

