-- ==== Sys2Proof/Laws/Bus.lean ====
section
/-! SUPPORT. Accesses that the bus carries out, and free values of the completion of a command. -/

namespace Sys2Proof.Machine

@[simp] theorem accepts_at (s : State) (n init a : Nat) (w : Bool) : accepts (s.at n) init a w = accepts s init a w := rfl

/-- What `accepts` says. -/
theorem accepts_iff (s : State) (init a : Nat) (w : Bool) : accepts s init a w = true ↔
    s.ao.held = false ∧ debugMay s init w = true ∧ busCause s init a 4 w = none := by
  simp [accepts, and_assoc]

theorem recordWrite_aside (s : State) (init a : Nat) (d : Word) : Aside s (recordWrite s init a d) := by
  unfold recordWrite
  split
  · exact (Aside.refl s).tapRecord (by decide) _ _ _ _ _
  · exact Aside.refl s

theorem taskWire_aside {s t : State} (h : Aside s t) (a : Nat) : Aside s (taskWire t a) := by
  unfold taskWire
  split
  · unfold transit
    dsimp only
    split
    · exact h
    · refine Aside.addPair ?_ _ (by decide) (by decide)
      split
      · exact (h.setBit _ _ (by decide)).setNat _ (by decide)
      · exact h
  · exact h

/-- An accepted write acts on a state that differs from the one before it by the answer, by a REGWR record and by the passage of PD52. -/
theorem busDo_write {s : State} {n init a : Nat} (h : accepts s init a true = true) (d : Word) (f : State → State) :
    ∃ u, Aside ((s.at n).answer .ok) u ∧ busDo (s.at n) init a 4 (some d) f = f u := by
  obtain ⟨h1, h2, h3⟩ := (accepts_iff (s.at n) init a true).1 h
  refine ⟨_, taskWire_aside (recordWrite_aside _ init a d) a, ?_⟩
  simp only [busDo, Option.isSome_some, h1, h2, h3, Bool.not_false, Bool.and_true, if_true]

/-- An accepted read with an effect. -/
theorem busRead_ok {s : State} {init a : Nat} (h : accepts s init a false = true) (v : Word) (f : State → State) :
    busRead s init a v f = (if init = 10 then s.answer .ok else f (s.answer .ok)).answer (.data v) := by
  obtain ⟨h1, h2, h3⟩ := (accepts_iff s init a false).1 h
  simp only [busRead, busDo, Option.isSome_none, h1, h2, h3, Bool.not_false, Bool.and_true, if_true]

/-- An access that meets an error response. -/
theorem busDo_fail {s : State} {init a size : Nat} {acc : Option Word} {c : Nat} (hh : s.ao.held = false)
    (hd : debugMay s init acc.isSome = true) (hc : busCause s init a size acc.isSome = some c) (f : State → State) :
    busDo s init a size acc f = busFail s init a acc.isSome c := by
  simp only [busDo, hh, hd, hc, Bool.not_false, Bool.and_true, if_true]

/-- The state before an accepted write's effect: its registers outside those the recorder writes. -/
theorem Aside.reg_ok {s u : State} {n : Nat} (h : Aside ((s.at n).answer .ok) u) {a : Nat} (ha : noteReg a = false) :
    u.reg a = s.reg a := h.regs a ha

end Sys2Proof.Machine
end

