-- ==== Sys2Proof/Laws/Parts.lean ====
section
/-! SUPPORT. The parts of the state that are kept by number (pounds, players, radios, MACs, PHYs, uplinks, channels, tasks,
monitors): what reading one gives after an update of one, and the state's fields under each update. -/

namespace Sys2Proof.Machine

variable (s : State)

/-! ### setPound -/

/-- The pounds after an update of one. -/
@[simp] theorem setPound_pounds (p : Nat) (q : Pound) : (s.setPound p q).pounds = bankSet (fun _ => {}) s.pounds p q := by
  unfold State.setPound; dsimp only; split <;> rfl

/-- Reading after an update. -/
theorem pound_setPound (p : Nat) (q : Pound) (j : Nat) : (s.setPound p q).pound j = if j = p then q else s.pound j := by
  simp [State.pound, bankGet_bankSet]

@[simp] theorem pound_setPound_same (p : Nat) (q : Pound) : (s.setPound p q).pound p = q := by simp [pound_setPound]

theorem pound_setPound_ne (p : Nat) (q : Pound) {j : Nat} (h : j ≠ p) : (s.setPound p q).pound j = s.pound j := by simp [pound_setPound, h]

@[simp] theorem setPound_dt (p : Nat) (q : Pound) : (s.setPound p q).dt = s.dt := by
  unfold State.setPound; dsimp only; split <;> rfl
@[simp] theorem setPound_dtFrac (p : Nat) (q : Pound) : (s.setPound p q).dtFrac = s.dtFrac := by
  unfold State.setPound; dsimp only; split <;> rfl
@[simp] theorem setPound_freeCtr (p : Nat) (q : Pound) : (s.setPound p q).freeCtr = s.freeCtr := by
  unfold State.setPound; dsimp only; split <;> rfl
@[simp] theorem setPound_resp (p : Nat) (q : Pound) : (s.setPound p q).resp = s.resp := by
  unfold State.setPound; dsimp only; split <;> rfl
@[simp] theorem setPound_snap (p : Nat) (q : Pound) : (s.setPound p q).snap = s.snap := by
  unfold State.setPound; dsimp only; split <;> rfl
@[simp] theorem setPound_hold (p : Nat) (q : Pound) : (s.setPound p q).hold = s.hold := by
  unfold State.setPound; dsimp only; split <;> rfl
@[simp] theorem setPound_dram (p : Nat) (q : Pound) : (s.setPound p q).dram = s.dram := by
  unfold State.setPound; dsimp only; split <;> rfl
@[simp] theorem setPound_l2 (p : Nat) (q : Pound) : (s.setPound p q).l2 = s.l2 := by
  unfold State.setPound; dsimp only; split <;> rfl
@[simp] theorem setPound_tstore (p : Nat) (q : Pound) : (s.setPound p q).tstore = s.tstore := by
  unfold State.setPound; dsimp only; split <;> rfl
@[simp] theorem setPound_gen (p : Nat) (q : Pound) : (s.setPound p q).gen = s.gen := by
  unfold State.setPound; dsimp only; split <;> rfl
@[simp] theorem setPound_pp (p : Nat) (q : Pound) : (s.setPound p q).pp = s.pp := by
  unfold State.setPound; dsimp only; split <;> rfl
@[simp] theorem setPound_tm (p : Nat) (q : Pound) : (s.setPound p q).tm = s.tm := by
  unfold State.setPound; dsimp only; split <;> rfl
@[simp] theorem setPound_air (p : Nat) (q : Pound) : (s.setPound p q).air = s.air := by
  unfold State.setPound; dsimp only; split <;> rfl
@[simp] theorem setPound_duty (p : Nat) (q : Pound) : (s.setPound p q).duty = s.duty := by
  unfold State.setPound; dsimp only; split <;> rfl
@[simp] theorem setPound_sta (p : Nat) (q : Pound) : (s.setPound p q).sta = s.sta := by
  unfold State.setPound; dsimp only; split <;> rfl
@[simp] theorem setPound_rd (p : Nat) (q : Pound) : (s.setPound p q).rd = s.rd := by
  unfold State.setPound; dsimp only; split <;> rfl
@[simp] theorem setPound_slu (p : Nat) (q : Pound) : (s.setPound p q).slu = s.slu := by
  unfold State.setPound; dsimp only; split <;> rfl
@[simp] theorem setPound_port (p : Nat) (q : Pound) : (s.setPound p q).port = s.port := by
  unfold State.setPound; dsimp only; split <;> rfl
@[simp] theorem setPound_spoSub (p : Nat) (q : Pound) : (s.setPound p q).spoSub = s.spoSub := by
  unfold State.setPound; dsimp only; split <;> rfl
@[simp] theorem setPound_sp (p : Nat) (q : Pound) : (s.setPound p q).sp = s.sp := by
  unfold State.setPound; dsimp only; split <;> rfl
@[simp] theorem setPound_ul (p : Nat) (q : Pound) : (s.setPound p q).ul = s.ul := by
  unfold State.setPound; dsimp only; split <;> rfl
@[simp] theorem setPound_podlFlt (p : Nat) (q : Pound) : (s.setPound p q).podlFlt = s.podlFlt := by
  unfold State.setPound; dsimp only; split <;> rfl
@[simp] theorem setPound_podl (p : Nat) (q : Pound) : (s.setPound p q).podl = s.podl := by
  unfold State.setPound; dsimp only; split <;> rfl
@[simp] theorem setPound_gh (p : Nat) (q : Pound) : (s.setPound p q).gh = s.gh := by
  unfold State.setPound; dsimp only; split <;> rfl
@[simp] theorem setPound_sec (p : Nat) (q : Pound) : (s.setPound p q).sec = s.sec := by
  unfold State.setPound; dsimp only; split <;> rfl
@[simp] theorem setPound_ao (p : Nat) (q : Pound) : (s.setPound p q).ao = s.ao := by
  unfold State.setPound; dsimp only; split <;> rfl
@[simp] theorem setPound_mc (p : Nat) (q : Pound) : (s.setPound p q).mc = s.mc := by
  unfold State.setPound; dsimp only; split <;> rfl
@[simp] theorem setPound_cc (p : Nat) (q : Pound) : (s.setPound p q).cc = s.cc := by
  unfold State.setPound; dsimp only; split <;> rfl
@[simp] theorem setPound_ts (p : Nat) (q : Pound) : (s.setPound p q).ts = s.ts := by
  unfold State.setPound; dsimp only; split <;> rfl
@[simp] theorem setPound_plic (p : Nat) (q : Pound) : (s.setPound p q).plic = s.plic := by
  unfold State.setPound; dsimp only; split <;> rfl
@[simp] theorem setPound_pmu (p : Nat) (q : Pound) : (s.setPound p q).pmu = s.pmu := by
  unfold State.setPound; dsimp only; split <;> rfl
@[simp] theorem setPound_tp (p : Nat) (q : Pound) : (s.setPound p q).tp = s.tp := by
  unfold State.setPound; dsimp only; split <;> rfl
@[simp] theorem setPound_flt (p : Nat) (q : Pound) : (s.setPound p q).flt = s.flt := by
  unfold State.setPound; dsimp only; split <;> rfl
@[simp] theorem setPound_pending (p : Nat) (q : Pound) : (s.setPound p q).pending = s.pending := by
  unfold State.setPound; dsimp only; split <;> rfl

/-! ### setPlayer -/

/-- Reading after an update. -/
theorem player_setPlayer (p : Nat) (x : Player) (j : Nat) : (s.setPlayer p x).player j = if j = p then x else s.player j := by
  simp [State.player, State.setPlayer, bankGet_bankSet]

@[simp] theorem player_setPlayer_same (p : Nat) (x : Player) : (s.setPlayer p x).player p = x := by simp [player_setPlayer]

theorem player_setPlayer_ne (p : Nat) (x : Player) {j : Nat} (h : j ≠ p) : (s.setPlayer p x).player j = s.player j := by simp [player_setPlayer, h]

@[simp] theorem setPlayer_dt (p : Nat) (x : Player) : (s.setPlayer p x).dt = s.dt := rfl
@[simp] theorem setPlayer_dtFrac (p : Nat) (x : Player) : (s.setPlayer p x).dtFrac = s.dtFrac := rfl
@[simp] theorem setPlayer_freeCtr (p : Nat) (x : Player) : (s.setPlayer p x).freeCtr = s.freeCtr := rfl
@[simp] theorem setPlayer_resp (p : Nat) (x : Player) : (s.setPlayer p x).resp = s.resp := rfl
@[simp] theorem setPlayer_regs (p : Nat) (x : Player) : (s.setPlayer p x).regs = s.regs := rfl
@[simp] theorem setPlayer_snap (p : Nat) (x : Player) : (s.setPlayer p x).snap = s.snap := rfl
@[simp] theorem setPlayer_hold (p : Nat) (x : Player) : (s.setPlayer p x).hold = s.hold := rfl
@[simp] theorem setPlayer_dram (p : Nat) (x : Player) : (s.setPlayer p x).dram = s.dram := rfl
@[simp] theorem setPlayer_l2 (p : Nat) (x : Player) : (s.setPlayer p x).l2 = s.l2 := rfl
@[simp] theorem setPlayer_tstore (p : Nat) (x : Player) : (s.setPlayer p x).tstore = s.tstore := rfl
@[simp] theorem setPlayer_pounds (p : Nat) (x : Player) : (s.setPlayer p x).pounds = s.pounds := rfl
@[simp] theorem setPlayer_pp (p : Nat) (x : Player) : (s.setPlayer p x).pp = s.pp := rfl
@[simp] theorem setPlayer_tm (p : Nat) (x : Player) : (s.setPlayer p x).tm = s.tm := rfl
@[simp] theorem setPlayer_air (p : Nat) (x : Player) : (s.setPlayer p x).air = s.air := rfl
@[simp] theorem setPlayer_duty (p : Nat) (x : Player) : (s.setPlayer p x).duty = s.duty := rfl
@[simp] theorem setPlayer_sta (p : Nat) (x : Player) : (s.setPlayer p x).sta = s.sta := rfl
@[simp] theorem setPlayer_rd (p : Nat) (x : Player) : (s.setPlayer p x).rd = s.rd := rfl
@[simp] theorem setPlayer_slu (p : Nat) (x : Player) : (s.setPlayer p x).slu = s.slu := rfl
@[simp] theorem setPlayer_port (p : Nat) (x : Player) : (s.setPlayer p x).port = s.port := rfl
@[simp] theorem setPlayer_spoSub (p : Nat) (x : Player) : (s.setPlayer p x).spoSub = s.spoSub := rfl
@[simp] theorem setPlayer_sp (p : Nat) (x : Player) : (s.setPlayer p x).sp = s.sp := rfl
@[simp] theorem setPlayer_ul (p : Nat) (x : Player) : (s.setPlayer p x).ul = s.ul := rfl
@[simp] theorem setPlayer_podlFlt (p : Nat) (x : Player) : (s.setPlayer p x).podlFlt = s.podlFlt := rfl
@[simp] theorem setPlayer_podl (p : Nat) (x : Player) : (s.setPlayer p x).podl = s.podl := rfl
@[simp] theorem setPlayer_gh (p : Nat) (x : Player) : (s.setPlayer p x).gh = s.gh := rfl
@[simp] theorem setPlayer_sec (p : Nat) (x : Player) : (s.setPlayer p x).sec = s.sec := rfl
@[simp] theorem setPlayer_ao (p : Nat) (x : Player) : (s.setPlayer p x).ao = s.ao := rfl
@[simp] theorem setPlayer_mc (p : Nat) (x : Player) : (s.setPlayer p x).mc = s.mc := rfl
@[simp] theorem setPlayer_cc (p : Nat) (x : Player) : (s.setPlayer p x).cc = s.cc := rfl
@[simp] theorem setPlayer_ts (p : Nat) (x : Player) : (s.setPlayer p x).ts = s.ts := rfl
@[simp] theorem setPlayer_plic (p : Nat) (x : Player) : (s.setPlayer p x).plic = s.plic := rfl
@[simp] theorem setPlayer_pmu (p : Nat) (x : Player) : (s.setPlayer p x).pmu = s.pmu := rfl
@[simp] theorem setPlayer_tp (p : Nat) (x : Player) : (s.setPlayer p x).tp = s.tp := rfl
@[simp] theorem setPlayer_flt (p : Nat) (x : Player) : (s.setPlayer p x).flt = s.flt := rfl
@[simp] theorem setPlayer_pending (p : Nat) (x : Player) : (s.setPlayer p x).pending = s.pending := rfl

/-! ### setAirOf -/

/-- Reading after an update. -/
theorem airOf_setAirOf (x : Nat) (a : AirRadio) (j : Nat) : (s.setAirOf x a).airOf j = if j = x then a else s.airOf j := by
  simp [State.airOf, State.setAirOf, bankGet_bankSet]

@[simp] theorem airOf_setAirOf_same (x : Nat) (a : AirRadio) : (s.setAirOf x a).airOf x = a := by simp [airOf_setAirOf]

theorem airOf_setAirOf_ne (x : Nat) (a : AirRadio) {j : Nat} (h : j ≠ x) : (s.setAirOf x a).airOf j = s.airOf j := by simp [airOf_setAirOf, h]

@[simp] theorem setAirOf_dt (x : Nat) (a : AirRadio) : (s.setAirOf x a).dt = s.dt := rfl
@[simp] theorem setAirOf_dtFrac (x : Nat) (a : AirRadio) : (s.setAirOf x a).dtFrac = s.dtFrac := rfl
@[simp] theorem setAirOf_freeCtr (x : Nat) (a : AirRadio) : (s.setAirOf x a).freeCtr = s.freeCtr := rfl
@[simp] theorem setAirOf_resp (x : Nat) (a : AirRadio) : (s.setAirOf x a).resp = s.resp := rfl
@[simp] theorem setAirOf_regs (x : Nat) (a : AirRadio) : (s.setAirOf x a).regs = s.regs := rfl
@[simp] theorem setAirOf_snap (x : Nat) (a : AirRadio) : (s.setAirOf x a).snap = s.snap := rfl
@[simp] theorem setAirOf_hold (x : Nat) (a : AirRadio) : (s.setAirOf x a).hold = s.hold := rfl
@[simp] theorem setAirOf_dram (x : Nat) (a : AirRadio) : (s.setAirOf x a).dram = s.dram := rfl
@[simp] theorem setAirOf_l2 (x : Nat) (a : AirRadio) : (s.setAirOf x a).l2 = s.l2 := rfl
@[simp] theorem setAirOf_tstore (x : Nat) (a : AirRadio) : (s.setAirOf x a).tstore = s.tstore := rfl
@[simp] theorem setAirOf_pounds (x : Nat) (a : AirRadio) : (s.setAirOf x a).pounds = s.pounds := rfl
@[simp] theorem setAirOf_gen (x : Nat) (a : AirRadio) : (s.setAirOf x a).gen = s.gen := rfl
@[simp] theorem setAirOf_pp (x : Nat) (a : AirRadio) : (s.setAirOf x a).pp = s.pp := rfl
@[simp] theorem setAirOf_tm (x : Nat) (a : AirRadio) : (s.setAirOf x a).tm = s.tm := rfl
@[simp] theorem setAirOf_duty (x : Nat) (a : AirRadio) : (s.setAirOf x a).duty = s.duty := rfl
@[simp] theorem setAirOf_sta (x : Nat) (a : AirRadio) : (s.setAirOf x a).sta = s.sta := rfl
@[simp] theorem setAirOf_rd (x : Nat) (a : AirRadio) : (s.setAirOf x a).rd = s.rd := rfl
@[simp] theorem setAirOf_slu (x : Nat) (a : AirRadio) : (s.setAirOf x a).slu = s.slu := rfl
@[simp] theorem setAirOf_port (x : Nat) (a : AirRadio) : (s.setAirOf x a).port = s.port := rfl
@[simp] theorem setAirOf_spoSub (x : Nat) (a : AirRadio) : (s.setAirOf x a).spoSub = s.spoSub := rfl
@[simp] theorem setAirOf_sp (x : Nat) (a : AirRadio) : (s.setAirOf x a).sp = s.sp := rfl
@[simp] theorem setAirOf_ul (x : Nat) (a : AirRadio) : (s.setAirOf x a).ul = s.ul := rfl
@[simp] theorem setAirOf_podlFlt (x : Nat) (a : AirRadio) : (s.setAirOf x a).podlFlt = s.podlFlt := rfl
@[simp] theorem setAirOf_podl (x : Nat) (a : AirRadio) : (s.setAirOf x a).podl = s.podl := rfl
@[simp] theorem setAirOf_gh (x : Nat) (a : AirRadio) : (s.setAirOf x a).gh = s.gh := rfl
@[simp] theorem setAirOf_sec (x : Nat) (a : AirRadio) : (s.setAirOf x a).sec = s.sec := rfl
@[simp] theorem setAirOf_ao (x : Nat) (a : AirRadio) : (s.setAirOf x a).ao = s.ao := rfl
@[simp] theorem setAirOf_mc (x : Nat) (a : AirRadio) : (s.setAirOf x a).mc = s.mc := rfl
@[simp] theorem setAirOf_cc (x : Nat) (a : AirRadio) : (s.setAirOf x a).cc = s.cc := rfl
@[simp] theorem setAirOf_ts (x : Nat) (a : AirRadio) : (s.setAirOf x a).ts = s.ts := rfl
@[simp] theorem setAirOf_plic (x : Nat) (a : AirRadio) : (s.setAirOf x a).plic = s.plic := rfl
@[simp] theorem setAirOf_pmu (x : Nat) (a : AirRadio) : (s.setAirOf x a).pmu = s.pmu := rfl
@[simp] theorem setAirOf_tp (x : Nat) (a : AirRadio) : (s.setAirOf x a).tp = s.tp := rfl
@[simp] theorem setAirOf_flt (x : Nat) (a : AirRadio) : (s.setAirOf x a).flt = s.flt := rfl
@[simp] theorem setAirOf_pending (x : Nat) (a : AirRadio) : (s.setAirOf x a).pending = s.pending := rfl

/-! ### setRadio -/

/-- Reading after an update. -/
theorem radio_setRadio (x : Nat) (r : RdState) (j : Nat) : (s.setRadio x r).radio j = if j = x then r else s.radio j := by
  simp [State.radio, State.setRadio, bankGet_bankSet]

@[simp] theorem radio_setRadio_same (x : Nat) (r : RdState) : (s.setRadio x r).radio x = r := by simp [radio_setRadio]

theorem radio_setRadio_ne (x : Nat) (r : RdState) {j : Nat} (h : j ≠ x) : (s.setRadio x r).radio j = s.radio j := by simp [radio_setRadio, h]

@[simp] theorem setRadio_dt (x : Nat) (r : RdState) : (s.setRadio x r).dt = s.dt := rfl
@[simp] theorem setRadio_dtFrac (x : Nat) (r : RdState) : (s.setRadio x r).dtFrac = s.dtFrac := rfl
@[simp] theorem setRadio_freeCtr (x : Nat) (r : RdState) : (s.setRadio x r).freeCtr = s.freeCtr := rfl
@[simp] theorem setRadio_resp (x : Nat) (r : RdState) : (s.setRadio x r).resp = s.resp := rfl
@[simp] theorem setRadio_regs (x : Nat) (r : RdState) : (s.setRadio x r).regs = s.regs := rfl
@[simp] theorem setRadio_snap (x : Nat) (r : RdState) : (s.setRadio x r).snap = s.snap := rfl
@[simp] theorem setRadio_hold (x : Nat) (r : RdState) : (s.setRadio x r).hold = s.hold := rfl
@[simp] theorem setRadio_dram (x : Nat) (r : RdState) : (s.setRadio x r).dram = s.dram := rfl
@[simp] theorem setRadio_l2 (x : Nat) (r : RdState) : (s.setRadio x r).l2 = s.l2 := rfl
@[simp] theorem setRadio_tstore (x : Nat) (r : RdState) : (s.setRadio x r).tstore = s.tstore := rfl
@[simp] theorem setRadio_pounds (x : Nat) (r : RdState) : (s.setRadio x r).pounds = s.pounds := rfl
@[simp] theorem setRadio_gen (x : Nat) (r : RdState) : (s.setRadio x r).gen = s.gen := rfl
@[simp] theorem setRadio_pp (x : Nat) (r : RdState) : (s.setRadio x r).pp = s.pp := rfl
@[simp] theorem setRadio_tm (x : Nat) (r : RdState) : (s.setRadio x r).tm = s.tm := rfl
@[simp] theorem setRadio_air (x : Nat) (r : RdState) : (s.setRadio x r).air = s.air := rfl
@[simp] theorem setRadio_duty (x : Nat) (r : RdState) : (s.setRadio x r).duty = s.duty := rfl
@[simp] theorem setRadio_sta (x : Nat) (r : RdState) : (s.setRadio x r).sta = s.sta := rfl
@[simp] theorem setRadio_slu (x : Nat) (r : RdState) : (s.setRadio x r).slu = s.slu := rfl
@[simp] theorem setRadio_port (x : Nat) (r : RdState) : (s.setRadio x r).port = s.port := rfl
@[simp] theorem setRadio_spoSub (x : Nat) (r : RdState) : (s.setRadio x r).spoSub = s.spoSub := rfl
@[simp] theorem setRadio_sp (x : Nat) (r : RdState) : (s.setRadio x r).sp = s.sp := rfl
@[simp] theorem setRadio_ul (x : Nat) (r : RdState) : (s.setRadio x r).ul = s.ul := rfl
@[simp] theorem setRadio_podlFlt (x : Nat) (r : RdState) : (s.setRadio x r).podlFlt = s.podlFlt := rfl
@[simp] theorem setRadio_podl (x : Nat) (r : RdState) : (s.setRadio x r).podl = s.podl := rfl
@[simp] theorem setRadio_gh (x : Nat) (r : RdState) : (s.setRadio x r).gh = s.gh := rfl
@[simp] theorem setRadio_sec (x : Nat) (r : RdState) : (s.setRadio x r).sec = s.sec := rfl
@[simp] theorem setRadio_ao (x : Nat) (r : RdState) : (s.setRadio x r).ao = s.ao := rfl
@[simp] theorem setRadio_mc (x : Nat) (r : RdState) : (s.setRadio x r).mc = s.mc := rfl
@[simp] theorem setRadio_cc (x : Nat) (r : RdState) : (s.setRadio x r).cc = s.cc := rfl
@[simp] theorem setRadio_ts (x : Nat) (r : RdState) : (s.setRadio x r).ts = s.ts := rfl
@[simp] theorem setRadio_plic (x : Nat) (r : RdState) : (s.setRadio x r).plic = s.plic := rfl
@[simp] theorem setRadio_pmu (x : Nat) (r : RdState) : (s.setRadio x r).pmu = s.pmu := rfl
@[simp] theorem setRadio_tp (x : Nat) (r : RdState) : (s.setRadio x r).tp = s.tp := rfl
@[simp] theorem setRadio_flt (x : Nat) (r : RdState) : (s.setRadio x r).flt = s.flt := rfl
@[simp] theorem setRadio_pending (x : Nat) (r : RdState) : (s.setRadio x r).pending = s.pending := rfl

/-! ### setMac -/

/-- Reading after an update. -/
theorem mac_setMac (p : Nat) (x : PortState) (j : Nat) : (s.setMac p x).mac j = if j = p then x else s.mac j := by
  simp [State.mac, State.setMac, bankGet_bankSet]

@[simp] theorem mac_setMac_same (p : Nat) (x : PortState) : (s.setMac p x).mac p = x := by simp [mac_setMac]

theorem mac_setMac_ne (p : Nat) (x : PortState) {j : Nat} (h : j ≠ p) : (s.setMac p x).mac j = s.mac j := by simp [mac_setMac, h]

@[simp] theorem setMac_dt (p : Nat) (x : PortState) : (s.setMac p x).dt = s.dt := rfl
@[simp] theorem setMac_dtFrac (p : Nat) (x : PortState) : (s.setMac p x).dtFrac = s.dtFrac := rfl
@[simp] theorem setMac_freeCtr (p : Nat) (x : PortState) : (s.setMac p x).freeCtr = s.freeCtr := rfl
@[simp] theorem setMac_resp (p : Nat) (x : PortState) : (s.setMac p x).resp = s.resp := rfl
@[simp] theorem setMac_regs (p : Nat) (x : PortState) : (s.setMac p x).regs = s.regs := rfl
@[simp] theorem setMac_snap (p : Nat) (x : PortState) : (s.setMac p x).snap = s.snap := rfl
@[simp] theorem setMac_hold (p : Nat) (x : PortState) : (s.setMac p x).hold = s.hold := rfl
@[simp] theorem setMac_dram (p : Nat) (x : PortState) : (s.setMac p x).dram = s.dram := rfl
@[simp] theorem setMac_l2 (p : Nat) (x : PortState) : (s.setMac p x).l2 = s.l2 := rfl
@[simp] theorem setMac_tstore (p : Nat) (x : PortState) : (s.setMac p x).tstore = s.tstore := rfl
@[simp] theorem setMac_pounds (p : Nat) (x : PortState) : (s.setMac p x).pounds = s.pounds := rfl
@[simp] theorem setMac_gen (p : Nat) (x : PortState) : (s.setMac p x).gen = s.gen := rfl
@[simp] theorem setMac_pp (p : Nat) (x : PortState) : (s.setMac p x).pp = s.pp := rfl
@[simp] theorem setMac_tm (p : Nat) (x : PortState) : (s.setMac p x).tm = s.tm := rfl
@[simp] theorem setMac_air (p : Nat) (x : PortState) : (s.setMac p x).air = s.air := rfl
@[simp] theorem setMac_duty (p : Nat) (x : PortState) : (s.setMac p x).duty = s.duty := rfl
@[simp] theorem setMac_sta (p : Nat) (x : PortState) : (s.setMac p x).sta = s.sta := rfl
@[simp] theorem setMac_rd (p : Nat) (x : PortState) : (s.setMac p x).rd = s.rd := rfl
@[simp] theorem setMac_slu (p : Nat) (x : PortState) : (s.setMac p x).slu = s.slu := rfl
@[simp] theorem setMac_spoSub (p : Nat) (x : PortState) : (s.setMac p x).spoSub = s.spoSub := rfl
@[simp] theorem setMac_sp (p : Nat) (x : PortState) : (s.setMac p x).sp = s.sp := rfl
@[simp] theorem setMac_ul (p : Nat) (x : PortState) : (s.setMac p x).ul = s.ul := rfl
@[simp] theorem setMac_podlFlt (p : Nat) (x : PortState) : (s.setMac p x).podlFlt = s.podlFlt := rfl
@[simp] theorem setMac_podl (p : Nat) (x : PortState) : (s.setMac p x).podl = s.podl := rfl
@[simp] theorem setMac_gh (p : Nat) (x : PortState) : (s.setMac p x).gh = s.gh := rfl
@[simp] theorem setMac_sec (p : Nat) (x : PortState) : (s.setMac p x).sec = s.sec := rfl
@[simp] theorem setMac_ao (p : Nat) (x : PortState) : (s.setMac p x).ao = s.ao := rfl
@[simp] theorem setMac_mc (p : Nat) (x : PortState) : (s.setMac p x).mc = s.mc := rfl
@[simp] theorem setMac_cc (p : Nat) (x : PortState) : (s.setMac p x).cc = s.cc := rfl
@[simp] theorem setMac_ts (p : Nat) (x : PortState) : (s.setMac p x).ts = s.ts := rfl
@[simp] theorem setMac_plic (p : Nat) (x : PortState) : (s.setMac p x).plic = s.plic := rfl
@[simp] theorem setMac_pmu (p : Nat) (x : PortState) : (s.setMac p x).pmu = s.pmu := rfl
@[simp] theorem setMac_tp (p : Nat) (x : PortState) : (s.setMac p x).tp = s.tp := rfl
@[simp] theorem setMac_flt (p : Nat) (x : PortState) : (s.setMac p x).flt = s.flt := rfl
@[simp] theorem setMac_pending (p : Nat) (x : PortState) : (s.setMac p x).pending = s.pending := rfl

/-! ### setPhy -/

/-- Reading after an update. -/
theorem phy_setPhy (n : Nat) (x : SpState) (j : Nat) : (s.setPhy n x).phy j = if j = n then x else s.phy j := by
  simp [State.phy, State.setPhy, bankGet_bankSet]

@[simp] theorem phy_setPhy_same (n : Nat) (x : SpState) : (s.setPhy n x).phy n = x := by simp [phy_setPhy]

theorem phy_setPhy_ne (n : Nat) (x : SpState) {j : Nat} (h : j ≠ n) : (s.setPhy n x).phy j = s.phy j := by simp [phy_setPhy, h]

@[simp] theorem setPhy_dt (n : Nat) (x : SpState) : (s.setPhy n x).dt = s.dt := rfl
@[simp] theorem setPhy_dtFrac (n : Nat) (x : SpState) : (s.setPhy n x).dtFrac = s.dtFrac := rfl
@[simp] theorem setPhy_freeCtr (n : Nat) (x : SpState) : (s.setPhy n x).freeCtr = s.freeCtr := rfl
@[simp] theorem setPhy_resp (n : Nat) (x : SpState) : (s.setPhy n x).resp = s.resp := rfl
@[simp] theorem setPhy_regs (n : Nat) (x : SpState) : (s.setPhy n x).regs = s.regs := rfl
@[simp] theorem setPhy_snap (n : Nat) (x : SpState) : (s.setPhy n x).snap = s.snap := rfl
@[simp] theorem setPhy_hold (n : Nat) (x : SpState) : (s.setPhy n x).hold = s.hold := rfl
@[simp] theorem setPhy_dram (n : Nat) (x : SpState) : (s.setPhy n x).dram = s.dram := rfl
@[simp] theorem setPhy_l2 (n : Nat) (x : SpState) : (s.setPhy n x).l2 = s.l2 := rfl
@[simp] theorem setPhy_tstore (n : Nat) (x : SpState) : (s.setPhy n x).tstore = s.tstore := rfl
@[simp] theorem setPhy_pounds (n : Nat) (x : SpState) : (s.setPhy n x).pounds = s.pounds := rfl
@[simp] theorem setPhy_gen (n : Nat) (x : SpState) : (s.setPhy n x).gen = s.gen := rfl
@[simp] theorem setPhy_pp (n : Nat) (x : SpState) : (s.setPhy n x).pp = s.pp := rfl
@[simp] theorem setPhy_tm (n : Nat) (x : SpState) : (s.setPhy n x).tm = s.tm := rfl
@[simp] theorem setPhy_air (n : Nat) (x : SpState) : (s.setPhy n x).air = s.air := rfl
@[simp] theorem setPhy_duty (n : Nat) (x : SpState) : (s.setPhy n x).duty = s.duty := rfl
@[simp] theorem setPhy_sta (n : Nat) (x : SpState) : (s.setPhy n x).sta = s.sta := rfl
@[simp] theorem setPhy_rd (n : Nat) (x : SpState) : (s.setPhy n x).rd = s.rd := rfl
@[simp] theorem setPhy_slu (n : Nat) (x : SpState) : (s.setPhy n x).slu = s.slu := rfl
@[simp] theorem setPhy_port (n : Nat) (x : SpState) : (s.setPhy n x).port = s.port := rfl
@[simp] theorem setPhy_spoSub (n : Nat) (x : SpState) : (s.setPhy n x).spoSub = s.spoSub := rfl
@[simp] theorem setPhy_ul (n : Nat) (x : SpState) : (s.setPhy n x).ul = s.ul := rfl
@[simp] theorem setPhy_podlFlt (n : Nat) (x : SpState) : (s.setPhy n x).podlFlt = s.podlFlt := rfl
@[simp] theorem setPhy_podl (n : Nat) (x : SpState) : (s.setPhy n x).podl = s.podl := rfl
@[simp] theorem setPhy_gh (n : Nat) (x : SpState) : (s.setPhy n x).gh = s.gh := rfl
@[simp] theorem setPhy_sec (n : Nat) (x : SpState) : (s.setPhy n x).sec = s.sec := rfl
@[simp] theorem setPhy_ao (n : Nat) (x : SpState) : (s.setPhy n x).ao = s.ao := rfl
@[simp] theorem setPhy_mc (n : Nat) (x : SpState) : (s.setPhy n x).mc = s.mc := rfl
@[simp] theorem setPhy_cc (n : Nat) (x : SpState) : (s.setPhy n x).cc = s.cc := rfl
@[simp] theorem setPhy_ts (n : Nat) (x : SpState) : (s.setPhy n x).ts = s.ts := rfl
@[simp] theorem setPhy_plic (n : Nat) (x : SpState) : (s.setPhy n x).plic = s.plic := rfl
@[simp] theorem setPhy_pmu (n : Nat) (x : SpState) : (s.setPhy n x).pmu = s.pmu := rfl
@[simp] theorem setPhy_tp (n : Nat) (x : SpState) : (s.setPhy n x).tp = s.tp := rfl
@[simp] theorem setPhy_flt (n : Nat) (x : SpState) : (s.setPhy n x).flt = s.flt := rfl
@[simp] theorem setPhy_pending (n : Nat) (x : SpState) : (s.setPhy n x).pending = s.pending := rfl

/-! ### setUplink -/

/-- Reading after an update. -/
theorem uplink_setUplink (u : Nat) (x : UlState) (j : Nat) : (s.setUplink u x).uplink j = if j = u then x else s.uplink j := by
  simp [State.uplink, State.setUplink, bankGet_bankSet]

@[simp] theorem uplink_setUplink_same (u : Nat) (x : UlState) : (s.setUplink u x).uplink u = x := by simp [uplink_setUplink]

theorem uplink_setUplink_ne (u : Nat) (x : UlState) {j : Nat} (h : j ≠ u) : (s.setUplink u x).uplink j = s.uplink j := by simp [uplink_setUplink, h]

@[simp] theorem setUplink_dt (u : Nat) (x : UlState) : (s.setUplink u x).dt = s.dt := rfl
@[simp] theorem setUplink_dtFrac (u : Nat) (x : UlState) : (s.setUplink u x).dtFrac = s.dtFrac := rfl
@[simp] theorem setUplink_freeCtr (u : Nat) (x : UlState) : (s.setUplink u x).freeCtr = s.freeCtr := rfl
@[simp] theorem setUplink_resp (u : Nat) (x : UlState) : (s.setUplink u x).resp = s.resp := rfl
@[simp] theorem setUplink_regs (u : Nat) (x : UlState) : (s.setUplink u x).regs = s.regs := rfl
@[simp] theorem setUplink_snap (u : Nat) (x : UlState) : (s.setUplink u x).snap = s.snap := rfl
@[simp] theorem setUplink_hold (u : Nat) (x : UlState) : (s.setUplink u x).hold = s.hold := rfl
@[simp] theorem setUplink_dram (u : Nat) (x : UlState) : (s.setUplink u x).dram = s.dram := rfl
@[simp] theorem setUplink_l2 (u : Nat) (x : UlState) : (s.setUplink u x).l2 = s.l2 := rfl
@[simp] theorem setUplink_tstore (u : Nat) (x : UlState) : (s.setUplink u x).tstore = s.tstore := rfl
@[simp] theorem setUplink_pounds (u : Nat) (x : UlState) : (s.setUplink u x).pounds = s.pounds := rfl
@[simp] theorem setUplink_gen (u : Nat) (x : UlState) : (s.setUplink u x).gen = s.gen := rfl
@[simp] theorem setUplink_pp (u : Nat) (x : UlState) : (s.setUplink u x).pp = s.pp := rfl
@[simp] theorem setUplink_tm (u : Nat) (x : UlState) : (s.setUplink u x).tm = s.tm := rfl
@[simp] theorem setUplink_air (u : Nat) (x : UlState) : (s.setUplink u x).air = s.air := rfl
@[simp] theorem setUplink_duty (u : Nat) (x : UlState) : (s.setUplink u x).duty = s.duty := rfl
@[simp] theorem setUplink_sta (u : Nat) (x : UlState) : (s.setUplink u x).sta = s.sta := rfl
@[simp] theorem setUplink_rd (u : Nat) (x : UlState) : (s.setUplink u x).rd = s.rd := rfl
@[simp] theorem setUplink_slu (u : Nat) (x : UlState) : (s.setUplink u x).slu = s.slu := rfl
@[simp] theorem setUplink_port (u : Nat) (x : UlState) : (s.setUplink u x).port = s.port := rfl
@[simp] theorem setUplink_spoSub (u : Nat) (x : UlState) : (s.setUplink u x).spoSub = s.spoSub := rfl
@[simp] theorem setUplink_sp (u : Nat) (x : UlState) : (s.setUplink u x).sp = s.sp := rfl
@[simp] theorem setUplink_podlFlt (u : Nat) (x : UlState) : (s.setUplink u x).podlFlt = s.podlFlt := rfl
@[simp] theorem setUplink_podl (u : Nat) (x : UlState) : (s.setUplink u x).podl = s.podl := rfl
@[simp] theorem setUplink_gh (u : Nat) (x : UlState) : (s.setUplink u x).gh = s.gh := rfl
@[simp] theorem setUplink_sec (u : Nat) (x : UlState) : (s.setUplink u x).sec = s.sec := rfl
@[simp] theorem setUplink_ao (u : Nat) (x : UlState) : (s.setUplink u x).ao = s.ao := rfl
@[simp] theorem setUplink_mc (u : Nat) (x : UlState) : (s.setUplink u x).mc = s.mc := rfl
@[simp] theorem setUplink_cc (u : Nat) (x : UlState) : (s.setUplink u x).cc = s.cc := rfl
@[simp] theorem setUplink_ts (u : Nat) (x : UlState) : (s.setUplink u x).ts = s.ts := rfl
@[simp] theorem setUplink_plic (u : Nat) (x : UlState) : (s.setUplink u x).plic = s.plic := rfl
@[simp] theorem setUplink_pmu (u : Nat) (x : UlState) : (s.setUplink u x).pmu = s.pmu := rfl
@[simp] theorem setUplink_tp (u : Nat) (x : UlState) : (s.setUplink u x).tp = s.tp := rfl
@[simp] theorem setUplink_flt (u : Nat) (x : UlState) : (s.setUplink u x).flt = s.flt := rfl
@[simp] theorem setUplink_pending (u : Nat) (x : UlState) : (s.setUplink u x).pending = s.pending := rfl

/-! ### setChan -/

/-- Reading after an update. -/
theorem chan_setChan (c : Nat) (x : McChan) (j : Nat) : (s.setChan c x).chan j = if j = c then x else s.chan j := by
  simp [State.chan, State.setChan, bankGet_bankSet]

@[simp] theorem chan_setChan_same (c : Nat) (x : McChan) : (s.setChan c x).chan c = x := by simp [chan_setChan]

theorem chan_setChan_ne (c : Nat) (x : McChan) {j : Nat} (h : j ≠ c) : (s.setChan c x).chan j = s.chan j := by simp [chan_setChan, h]

@[simp] theorem setChan_dt (c : Nat) (x : McChan) : (s.setChan c x).dt = s.dt := rfl
@[simp] theorem setChan_dtFrac (c : Nat) (x : McChan) : (s.setChan c x).dtFrac = s.dtFrac := rfl
@[simp] theorem setChan_freeCtr (c : Nat) (x : McChan) : (s.setChan c x).freeCtr = s.freeCtr := rfl
@[simp] theorem setChan_resp (c : Nat) (x : McChan) : (s.setChan c x).resp = s.resp := rfl
@[simp] theorem setChan_snap (c : Nat) (x : McChan) : (s.setChan c x).snap = s.snap := rfl
@[simp] theorem setChan_hold (c : Nat) (x : McChan) : (s.setChan c x).hold = s.hold := rfl
@[simp] theorem setChan_dram (c : Nat) (x : McChan) : (s.setChan c x).dram = s.dram := rfl
@[simp] theorem setChan_l2 (c : Nat) (x : McChan) : (s.setChan c x).l2 = s.l2 := rfl
@[simp] theorem setChan_tstore (c : Nat) (x : McChan) : (s.setChan c x).tstore = s.tstore := rfl
@[simp] theorem setChan_pounds (c : Nat) (x : McChan) : (s.setChan c x).pounds = s.pounds := rfl
@[simp] theorem setChan_gen (c : Nat) (x : McChan) : (s.setChan c x).gen = s.gen := rfl
@[simp] theorem setChan_pp (c : Nat) (x : McChan) : (s.setChan c x).pp = s.pp := rfl
@[simp] theorem setChan_tm (c : Nat) (x : McChan) : (s.setChan c x).tm = s.tm := rfl
@[simp] theorem setChan_air (c : Nat) (x : McChan) : (s.setChan c x).air = s.air := rfl
@[simp] theorem setChan_duty (c : Nat) (x : McChan) : (s.setChan c x).duty = s.duty := rfl
@[simp] theorem setChan_sta (c : Nat) (x : McChan) : (s.setChan c x).sta = s.sta := rfl
@[simp] theorem setChan_rd (c : Nat) (x : McChan) : (s.setChan c x).rd = s.rd := rfl
@[simp] theorem setChan_slu (c : Nat) (x : McChan) : (s.setChan c x).slu = s.slu := rfl
@[simp] theorem setChan_port (c : Nat) (x : McChan) : (s.setChan c x).port = s.port := rfl
@[simp] theorem setChan_spoSub (c : Nat) (x : McChan) : (s.setChan c x).spoSub = s.spoSub := rfl
@[simp] theorem setChan_sp (c : Nat) (x : McChan) : (s.setChan c x).sp = s.sp := rfl
@[simp] theorem setChan_ul (c : Nat) (x : McChan) : (s.setChan c x).ul = s.ul := rfl
@[simp] theorem setChan_podlFlt (c : Nat) (x : McChan) : (s.setChan c x).podlFlt = s.podlFlt := rfl
@[simp] theorem setChan_podl (c : Nat) (x : McChan) : (s.setChan c x).podl = s.podl := rfl
@[simp] theorem setChan_gh (c : Nat) (x : McChan) : (s.setChan c x).gh = s.gh := rfl
@[simp] theorem setChan_sec (c : Nat) (x : McChan) : (s.setChan c x).sec = s.sec := rfl
@[simp] theorem setChan_ao (c : Nat) (x : McChan) : (s.setChan c x).ao = s.ao := rfl
@[simp] theorem setChan_cc (c : Nat) (x : McChan) : (s.setChan c x).cc = s.cc := rfl
@[simp] theorem setChan_ts (c : Nat) (x : McChan) : (s.setChan c x).ts = s.ts := rfl
@[simp] theorem setChan_plic (c : Nat) (x : McChan) : (s.setChan c x).plic = s.plic := rfl
@[simp] theorem setChan_pmu (c : Nat) (x : McChan) : (s.setChan c x).pmu = s.pmu := rfl
@[simp] theorem setChan_tp (c : Nat) (x : McChan) : (s.setChan c x).tp = s.tp := rfl
@[simp] theorem setChan_flt (c : Nat) (x : McChan) : (s.setChan c x).flt = s.flt := rfl
@[simp] theorem setChan_pending (c : Nat) (x : McChan) : (s.setChan c x).pending = s.pending := rfl

/-! ### setTask -/

/-- Reading after an update. -/
theorem task_setTask (k : Nat) (x : Task) (j : Nat) : (s.setTask k x).task j = if j = k then x else s.task j := by
  simp [State.task, State.setTask, bankGet_bankSet]

@[simp] theorem task_setTask_same (k : Nat) (x : Task) : (s.setTask k x).task k = x := by simp [task_setTask]

theorem task_setTask_ne (k : Nat) (x : Task) {j : Nat} (h : j ≠ k) : (s.setTask k x).task j = s.task j := by simp [task_setTask, h]

@[simp] theorem setTask_dt (k : Nat) (x : Task) : (s.setTask k x).dt = s.dt := rfl
@[simp] theorem setTask_dtFrac (k : Nat) (x : Task) : (s.setTask k x).dtFrac = s.dtFrac := rfl
@[simp] theorem setTask_freeCtr (k : Nat) (x : Task) : (s.setTask k x).freeCtr = s.freeCtr := rfl
@[simp] theorem setTask_resp (k : Nat) (x : Task) : (s.setTask k x).resp = s.resp := rfl
@[simp] theorem setTask_regs (k : Nat) (x : Task) : (s.setTask k x).regs = s.regs := rfl
@[simp] theorem setTask_snap (k : Nat) (x : Task) : (s.setTask k x).snap = s.snap := rfl
@[simp] theorem setTask_hold (k : Nat) (x : Task) : (s.setTask k x).hold = s.hold := rfl
@[simp] theorem setTask_dram (k : Nat) (x : Task) : (s.setTask k x).dram = s.dram := rfl
@[simp] theorem setTask_l2 (k : Nat) (x : Task) : (s.setTask k x).l2 = s.l2 := rfl
@[simp] theorem setTask_tstore (k : Nat) (x : Task) : (s.setTask k x).tstore = s.tstore := rfl
@[simp] theorem setTask_pounds (k : Nat) (x : Task) : (s.setTask k x).pounds = s.pounds := rfl
@[simp] theorem setTask_gen (k : Nat) (x : Task) : (s.setTask k x).gen = s.gen := rfl
@[simp] theorem setTask_pp (k : Nat) (x : Task) : (s.setTask k x).pp = s.pp := rfl
@[simp] theorem setTask_tm (k : Nat) (x : Task) : (s.setTask k x).tm = s.tm := rfl
@[simp] theorem setTask_air (k : Nat) (x : Task) : (s.setTask k x).air = s.air := rfl
@[simp] theorem setTask_duty (k : Nat) (x : Task) : (s.setTask k x).duty = s.duty := rfl
@[simp] theorem setTask_sta (k : Nat) (x : Task) : (s.setTask k x).sta = s.sta := rfl
@[simp] theorem setTask_rd (k : Nat) (x : Task) : (s.setTask k x).rd = s.rd := rfl
@[simp] theorem setTask_slu (k : Nat) (x : Task) : (s.setTask k x).slu = s.slu := rfl
@[simp] theorem setTask_port (k : Nat) (x : Task) : (s.setTask k x).port = s.port := rfl
@[simp] theorem setTask_spoSub (k : Nat) (x : Task) : (s.setTask k x).spoSub = s.spoSub := rfl
@[simp] theorem setTask_sp (k : Nat) (x : Task) : (s.setTask k x).sp = s.sp := rfl
@[simp] theorem setTask_ul (k : Nat) (x : Task) : (s.setTask k x).ul = s.ul := rfl
@[simp] theorem setTask_podlFlt (k : Nat) (x : Task) : (s.setTask k x).podlFlt = s.podlFlt := rfl
@[simp] theorem setTask_podl (k : Nat) (x : Task) : (s.setTask k x).podl = s.podl := rfl
@[simp] theorem setTask_gh (k : Nat) (x : Task) : (s.setTask k x).gh = s.gh := rfl
@[simp] theorem setTask_sec (k : Nat) (x : Task) : (s.setTask k x).sec = s.sec := rfl
@[simp] theorem setTask_ao (k : Nat) (x : Task) : (s.setTask k x).ao = s.ao := rfl
@[simp] theorem setTask_mc (k : Nat) (x : Task) : (s.setTask k x).mc = s.mc := rfl
@[simp] theorem setTask_cc (k : Nat) (x : Task) : (s.setTask k x).cc = s.cc := rfl
@[simp] theorem setTask_plic (k : Nat) (x : Task) : (s.setTask k x).plic = s.plic := rfl
@[simp] theorem setTask_pmu (k : Nat) (x : Task) : (s.setTask k x).pmu = s.pmu := rfl
@[simp] theorem setTask_tp (k : Nat) (x : Task) : (s.setTask k x).tp = s.tp := rfl
@[simp] theorem setTask_flt (k : Nat) (x : Task) : (s.setTask k x).flt = s.flt := rfl
@[simp] theorem setTask_pending (k : Nat) (x : Task) : (s.setTask k x).pending = s.pending := rfl

/-! ### setHangMon -/

/-- Reading after an update. -/
theorem hangMon_setHangMon (i : Nat) (m : HangMon) (j : Nat) : (s.setHangMon i m).hangMon j = if j = i then m else s.hangMon j := by
  simp [State.hangMon, State.setHangMon, bankGet_bankSet]

@[simp] theorem hangMon_setHangMon_same (i : Nat) (m : HangMon) : (s.setHangMon i m).hangMon i = m := by simp [hangMon_setHangMon]

theorem hangMon_setHangMon_ne (i : Nat) (m : HangMon) {j : Nat} (h : j ≠ i) : (s.setHangMon i m).hangMon j = s.hangMon j := by simp [hangMon_setHangMon, h]

@[simp] theorem setHangMon_dt (i : Nat) (m : HangMon) : (s.setHangMon i m).dt = s.dt := rfl
@[simp] theorem setHangMon_dtFrac (i : Nat) (m : HangMon) : (s.setHangMon i m).dtFrac = s.dtFrac := rfl
@[simp] theorem setHangMon_freeCtr (i : Nat) (m : HangMon) : (s.setHangMon i m).freeCtr = s.freeCtr := rfl
@[simp] theorem setHangMon_resp (i : Nat) (m : HangMon) : (s.setHangMon i m).resp = s.resp := rfl
@[simp] theorem setHangMon_regs (i : Nat) (m : HangMon) : (s.setHangMon i m).regs = s.regs := rfl
@[simp] theorem setHangMon_snap (i : Nat) (m : HangMon) : (s.setHangMon i m).snap = s.snap := rfl
@[simp] theorem setHangMon_hold (i : Nat) (m : HangMon) : (s.setHangMon i m).hold = s.hold := rfl
@[simp] theorem setHangMon_dram (i : Nat) (m : HangMon) : (s.setHangMon i m).dram = s.dram := rfl
@[simp] theorem setHangMon_l2 (i : Nat) (m : HangMon) : (s.setHangMon i m).l2 = s.l2 := rfl
@[simp] theorem setHangMon_tstore (i : Nat) (m : HangMon) : (s.setHangMon i m).tstore = s.tstore := rfl
@[simp] theorem setHangMon_pounds (i : Nat) (m : HangMon) : (s.setHangMon i m).pounds = s.pounds := rfl
@[simp] theorem setHangMon_gen (i : Nat) (m : HangMon) : (s.setHangMon i m).gen = s.gen := rfl
@[simp] theorem setHangMon_pp (i : Nat) (m : HangMon) : (s.setHangMon i m).pp = s.pp := rfl
@[simp] theorem setHangMon_tm (i : Nat) (m : HangMon) : (s.setHangMon i m).tm = s.tm := rfl
@[simp] theorem setHangMon_air (i : Nat) (m : HangMon) : (s.setHangMon i m).air = s.air := rfl
@[simp] theorem setHangMon_duty (i : Nat) (m : HangMon) : (s.setHangMon i m).duty = s.duty := rfl
@[simp] theorem setHangMon_sta (i : Nat) (m : HangMon) : (s.setHangMon i m).sta = s.sta := rfl
@[simp] theorem setHangMon_rd (i : Nat) (m : HangMon) : (s.setHangMon i m).rd = s.rd := rfl
@[simp] theorem setHangMon_slu (i : Nat) (m : HangMon) : (s.setHangMon i m).slu = s.slu := rfl
@[simp] theorem setHangMon_port (i : Nat) (m : HangMon) : (s.setHangMon i m).port = s.port := rfl
@[simp] theorem setHangMon_spoSub (i : Nat) (m : HangMon) : (s.setHangMon i m).spoSub = s.spoSub := rfl
@[simp] theorem setHangMon_sp (i : Nat) (m : HangMon) : (s.setHangMon i m).sp = s.sp := rfl
@[simp] theorem setHangMon_ul (i : Nat) (m : HangMon) : (s.setHangMon i m).ul = s.ul := rfl
@[simp] theorem setHangMon_podlFlt (i : Nat) (m : HangMon) : (s.setHangMon i m).podlFlt = s.podlFlt := rfl
@[simp] theorem setHangMon_podl (i : Nat) (m : HangMon) : (s.setHangMon i m).podl = s.podl := rfl
@[simp] theorem setHangMon_gh (i : Nat) (m : HangMon) : (s.setHangMon i m).gh = s.gh := rfl
@[simp] theorem setHangMon_sec (i : Nat) (m : HangMon) : (s.setHangMon i m).sec = s.sec := rfl
@[simp] theorem setHangMon_ao (i : Nat) (m : HangMon) : (s.setHangMon i m).ao = s.ao := rfl
@[simp] theorem setHangMon_mc (i : Nat) (m : HangMon) : (s.setHangMon i m).mc = s.mc := rfl
@[simp] theorem setHangMon_cc (i : Nat) (m : HangMon) : (s.setHangMon i m).cc = s.cc := rfl
@[simp] theorem setHangMon_ts (i : Nat) (m : HangMon) : (s.setHangMon i m).ts = s.ts := rfl
@[simp] theorem setHangMon_plic (i : Nat) (m : HangMon) : (s.setHangMon i m).plic = s.plic := rfl
@[simp] theorem setHangMon_pmu (i : Nat) (m : HangMon) : (s.setHangMon i m).pmu = s.pmu := rfl
@[simp] theorem setHangMon_tp (i : Nat) (m : HangMon) : (s.setHangMon i m).tp = s.tp := rfl
@[simp] theorem setHangMon_pending (i : Nat) (m : HangMon) : (s.setHangMon i m).pending = s.pending := rfl

end Sys2Proof.Machine
end

