-- ==== Sys2Proof/Laws/Inv.lean ====
section
/-! SUPPORT. The shared operations of Machine/Ops.lean, the updates of the state's numbered parts, the pounds, the tasks and
interrupts and the fault log keep the invariant
`State.inv`: the memories and the register bank stay in canonical form, and what else it says depends on parts that they leave
alone. -/

namespace Sys2Proof.Machine

variable {s t : State}

/-- The invariant carries over to a state with the same traffic manager and security block whose stores keep their form. -/
theorem inv_mono (h : s.inv = true) (hd : Memory.wf s.dram = true → Memory.wf t.dram = true)
    (hl : Memory.wf s.l2 = true → Memory.wf t.l2 = true) (hs : Memory.wf s.tstore = true → Memory.wf t.tstore = true)
    (hr : bankWf regReset s.regs = true → bankWf regReset t.regs = true) (htm : t.tm = s.tm) (hsec : t.sec = s.sec) :
    t.inv = true := by
  simp only [State.inv, State.wf, svnCode, minSvn, otpWord, Bool.and_eq_true, htm, hsec] at h ⊢
  obtain ⟨⟨⟨⟨⟨⟨h1, h2⟩, h3⟩, h4⟩, h5⟩, h6⟩, h7⟩ := h
  exact ⟨⟨⟨⟨⟨⟨hd h1, hl h2⟩, hs h3⟩, hr h4⟩, h5⟩, h6⟩, h7⟩

/-- The invariant carries over to a state that differs in other parts alone. -/
theorem inv_same (h : s.inv = true) (hd : t.dram = s.dram) (hl : t.l2 = s.l2) (hs : t.tstore = s.tstore)
    (hr : t.regs = s.regs) (htm : t.tm = s.tm) (hsec : t.sec = s.sec) : t.inv = true :=
  inv_mono h (by simp [hd]) (by simp [hl]) (by simp [hs]) (by simp [hr]) htm hsec

/-- A write keeps the canonical form of a memory. -/
theorem wf_memWrite {m : Bank Byte} (h : Memory.wf m = true) (a : Nat) (bs : List Byte) : Memory.wf (memWrite m a bs) = true :=
  bankWf_memWrite m a bs h

theorem inv_ite {c : Prop} [Decidable c] {u : State} (h : t.inv = true) (k : u.inv = true) :
    (if c then t else u).inv = true := by
  split
  · exact h
  · exact k

theorem inv_at (h : s.inv = true) (n : Nat) : (s.at n).inv = true := inv_same h rfl rfl rfl rfl rfl rfl

theorem inv_setReg (h : s.inv = true) (a : Nat) (v : Word) : (s.setReg a v).inv = true :=
  inv_mono h id id id (bankWf_bankSet _ _ _ _) rfl rfl

theorem inv_setNat (h : s.inv = true) (a v : Nat) : (s.setNat a v).inv = true := inv_setReg h _ _

theorem inv_setFld (h : s.inv = true) (a lo len v : Nat) : (s.setFld a lo len v).inv = true := inv_setReg h _ _

theorem inv_setBit (h : s.inv = true) (a i : Nat) (b : Bool) : (s.setBit a i b).inv = true := inv_setReg h _ _

theorem inv_raise (h : s.inv = true) (a i : Nat) : (s.raise a i).inv = true := inv_setReg h _ _

theorem inv_orReg (h : s.inv = true) (a : Nat) (m : Word) : (s.orReg a m).inv = true := inv_setReg h _ _

theorem inv_clrReg (h : s.inv = true) (a : Nat) (m : Word) : (s.clrReg a m).inv = true := inv_setReg h _ _

theorem inv_addRc (h : s.inv = true) (a n : Nat) : (s.addRc a n).inv = true := inv_setReg h _ _

theorem inv_inc (h : s.inv = true) (a : Nat) : (s.inc a).inv = true := inv_setReg h _ _

theorem inv_incWrap (h : s.inv = true) (a : Nat) : (s.incWrap a).inv = true := inv_setReg h _ _

theorem inv_setFlds (h : s.inv = true) (a : Nat) (l : List (Nat × Nat × Nat)) : (s.setFlds a l).inv = true := inv_setReg h _ _

theorem inv_setPair (h : s.inv = true) (lo v : Nat) : (s.setPair lo v).inv = true := inv_setNat (inv_setNat h _ _) _ _

theorem inv_addPair (h : s.inv = true) (lo n : Nat) : (s.addPair lo n).inv = true := inv_setPair h _ _

theorem inv_setSnap (h : s.inv = true) (lo : Nat) (v : BitVec 16) : (s.setSnap lo v).inv = true := inv_same h rfl rfl rfl rfl rfl rfl

theorem inv_setHold (h : s.inv = true) (lo : Nat) (v : BitVec 16) : (s.setHold lo v).inv = true := inv_same h rfl rfl rfl rfl rfl rfl

theorem inv_answer (h : s.inv = true) (r : Resp) : (s.answer r).inv = true := inv_same h rfl rfl rfl rfl rfl rfl

theorem inv_drawWord (h : s.inv = true) : s.drawWord.2.inv = true := inv_same h rfl rfl rfl rfl rfl rfl

theorem inv_drawNat (h : s.inv = true) : s.drawNat.2.inv = true := inv_same h rfl rfl rfl rfl rfl rfl

theorem inv_drawBytes (h : s.inv = true) (n : Nat) : (s.drawBytes n).2.inv = true := inv_same h rfl rfl rfl rfl rfl rfl

theorem inv_dramWrite (h : s.inv = true) (o : Nat) (bs : List Byte) : (s.dramWrite o bs).inv = true :=
  inv_mono h (fun w => wf_memWrite w _ _) id id id rfl rfl

theorem inv_tsWrite (h : s.inv = true) (o : Nat) (bs : List Byte) : (s.tsWrite o bs).inv = true :=
  inv_mono h id id (fun w => wf_memWrite w _ _) id rfl rfl

theorem inv_each {α : Type} {l : List α} {f : α → State → State} (h : s.inv = true)
    (hf : ∀ x ∈ l, ∀ u, u.inv = true → (f x u).inv = true) : (s.each l f).inv = true :=
  each_ind s (fun u => u.inv = true) l f h hf

theorem inv_whenB {c : Bool} {f : State → State} (h : s.inv = true) (hf : s.inv = true → (f s).inv = true) :
    (s.whenB c f).inv = true := by
  cases c
  · exact h
  · exact hf h

theorem inv_setPound (h : s.inv = true) (p : Nat) (q : Pound) : (s.setPound p q).inv = true := by
  have k : ({ s with pounds := bankSet (fun _ => {}) s.pounds p q } : State).inv = true := inv_same h rfl rfl rfl rfl rfl rfl
  unfold State.setPound
  dsimp only
  split
  · exact inv_incWrap (inv_setBit (inv_setNat (inv_setFlds k _ _) _ _) _ _ _) _
  · exact inv_setNat (inv_setFlds k _ _) _ _

theorem inv_transit (h : s.inv = true) (p n k : Nat) : (transit s p n k).inv = true := by
  unfold transit
  dsimp only
  split
  · exact h
  · refine inv_addPair ?_ _ _
    split
    · exact inv_setNat (inv_setBit h _ _ _) _ _
    · exact h

theorem inv_setPlayer (h : s.inv = true) (p : Nat) (x : Player) : (s.setPlayer p x).inv = true := inv_same h rfl rfl rfl rfl rfl rfl

theorem inv_setAirOf (h : s.inv = true) (x : Nat) (a : AirRadio) : (s.setAirOf x a).inv = true := inv_same h rfl rfl rfl rfl rfl rfl

theorem inv_setRadio (h : s.inv = true) (x : Nat) (r : RdState) : (s.setRadio x r).inv = true := inv_same h rfl rfl rfl rfl rfl rfl

theorem inv_setMac (h : s.inv = true) (p : Nat) (x : PortState) : (s.setMac p x).inv = true := inv_same h rfl rfl rfl rfl rfl rfl

theorem inv_setPhy (h : s.inv = true) (n : Nat) (x : SpState) : (s.setPhy n x).inv = true := inv_same h rfl rfl rfl rfl rfl rfl

theorem inv_setUplink (h : s.inv = true) (u : Nat) (x : UlState) : (s.setUplink u x).inv = true := inv_same h rfl rfl rfl rfl rfl rfl

theorem inv_setTask (h : s.inv = true) (k : Nat) (x : Task) : (s.setTask k x).inv = true := inv_same h rfl rfl rfl rfl rfl rfl

theorem inv_setHangMon (h : s.inv = true) (i : Nat) (m : HangMon) : (s.setHangMon i m).inv = true := inv_same h rfl rfl rfl rfl rfl rfl

theorem inv_setChan (h : s.inv = true) (c : Nat) (x : McChan) : (s.setChan c x).inv = true :=
  inv_setFlds (inv_same h (t := { s with mc := { s.mc with ch := bankSet (fun _ => {}) s.mc.ch c x } }) rfl rfl rfl rfl rfl rfl) _ _

/-! ### Pounds -/

theorem inv_poundPush (h : s.inv = true) (p : Nat) (w : PWord) : (poundPush s p w).inv = true := inv_setPound h _ _

theorem inv_pushAll (h : s.inv = true) (p : Nat) (ws : List PWord) : (pushAll s p ws).inv = true := by
  induction ws generalizing s with
  | nil => exact h
  | cons w r ih => exact ih (inv_poundPush h p w)

theorem inv_poundShow (h : s.inv = true) (p : Nat) : (poundShow s p).inv = true := by
  unfold poundShow
  dsimp only
  split
  · exact h
  · exact inv_setPound h _ _

theorem inv_poundTake (h : s.inv = true) (p : Nat) : (poundTake s p).inv = true := by
  unfold poundTake
  dsimp only
  split
  · exact h
  · split
    · exact inv_inc (inv_setPound h _ _) _
    · split
      · exact inv_addPair (inv_setPound h _ _) _ _
      · exact inv_setPound h _ _

theorem inv_takePacketN (h : s.inv = true) (p n : Nat) : (takePacketN s p n).inv = true := by
  induction n generalizing s with
  | zero => exact h
  | succ n ih =>
    unfold takePacketN
    split
    · exact h
    · split
      · exact inv_poundTake h p
      · exact ih (inv_poundTake h p)

theorem inv_readPacket (h : s.inv = true) {p : Nat} {ws : List PWord} (e : readPacket s p = some (ws, t)) :
    t.inv = true := by
  unfold readPacket at e
  dsimp only at e
  have k : (match splitPacket (s.pound p).taken with
      | some _ => s
      | none => takePacketN s p ((s.pound p).ready.length)).inv = true := by
    split
    · exact h
    · exact inv_takePacketN h _ _
  split at e
  · cases e
  · simp only [Option.some.injEq, Prod.mk.injEq] at e
    exact e.2 ▸ inv_setPound k _ _

theorem inv_cutWriter (h : s.inv = true) (p : Nat) : (cutWriter s p).inv = true := by
  unfold cutWriter
  dsimp only
  split
  · exact inv_setPound h _ _
  · exact h

theorem inv_emptyReader (h : s.inv = true) (p : Nat) : (emptyReader s p).inv = true := inv_addRc (inv_setPound h _ _) _ _

/-! ### Tasks, interrupts and the fault log -/

theorem inv_setTaskState (h : s.inv = true) (k st : Nat) : (s.setTaskState k st).inv = true := by
  unfold State.setTaskState
  dsimp only
  split
  · exact inv_setTask (inv_setFld (inv_setFld h _ _ _ _) _ _ _ _) _ _
  · exact inv_setFld (inv_setFld h _ _ _ _) _ _ _ _

theorem inv_reviewTask (h : s.inv = true) (k : Nat) : (s.reviewTask k).inv = true := by
  unfold State.reviewTask
  split
  · exact inv_setTaskState h _ _
  · split
    · exact inv_setTaskState h _ _
    · exact h

theorem inv_setFlag (h : s.inv = true) (k f : Nat) : (s.setFlag k f).inv = true :=
  inv_reviewTask (inv_setBit (inv_same h (t := { s with ts := { s.ts with fresh := (s.dt, (k, f) :: freshFlags s) } })
    rfl rfl rfl rfl rfl rfl) _ _ _) _

theorem inv_mapEdges (h : t.inv = true) : (mapEdges s t).inv = true := by
  unfold mapEdges
  split
  · refine inv_each h fun e _ u hu => ?_
    split
    · exact inv_setFlag hu _ _
    · exact hu
  · exact h

theorem inv_setPlicPend (h : s.inv = true) (id : Nat) (b : Bool) : (setPlicPend s id b).inv = true :=
  inv_same h rfl rfl rfl rfl rfl rfl

theorem inv_plicLatch (h : s.inv = true) : (plicLatch s).inv = true := by
  unfold plicLatch
  split
  · exact inv_each h fun _ _ _ hu => inv_setPlicPend hu _ _
  · exact h

theorem inv_pulse (h : s.inv = true) (id : Nat) : (s.pulse id).inv = true := by
  unfold State.pulse
  extract_lets u
  have k : u.inv = true := inv_ite (inv_setPlicPend h _ _) h
  clear_value u
  refine inv_ite (inv_each k fun e _ v hv => ?_) k
  exact inv_ite (inv_setFlag hv _ _) hv

theorem inv_logShift (h : s.inv = true) (p : Nat) : (logShift s p).inv = true :=
  inv_setReg (inv_setReg (inv_setReg (inv_setReg h _ _) _ _) _ _) _ _

theorem inv_logWrite (h : s.inv = true) (p w0 info : Nat) : (logWrite s p w0 info).inv = true :=
  inv_setNat (inv_setNat (inv_setNat (inv_setNat h _ _) _ _) _ _) _ _

theorem inv_logInsert (h : s.inv = true) (w0 info : Nat) : (logInsert s w0 info).inv = true := by
  unfold logInsert
  extract_lets hd full p n u v
  have hu : u.inv = true := inv_each h fun _ _ _ k => inv_logShift k _
  have hv : v.inv = true := inv_ite hu (inv_logWrite hu _ _ _)
  clear_value v
  refine inv_ite ?_ ?_
  · exact inv_raise (inv_inc hv _) _ _
  · exact inv_setNat hv _ _

/-- Raising a fault keeps the invariant. -/
theorem inv_raiseFault (h : s.inv = true) (cls src : Nat) (act : FltAction) (info : Nat) :
    (raiseFault s cls src act info).inv = true := inv_logInsert (inv_raise (inv_inc (inv_orReg h _ _) _) _ _) _ _

/-! ### The end of a command -/

theorem Aside.inv (h : Aside s t) (k : s.inv = true) : t.inv = true :=
  inv_mono k (by rw [show t.dram = s.dram from congrArg (·.dram) h.bare]; exact id)
    (by rw [show t.l2 = s.l2 from congrArg (·.l2) h.bare]; exact id)
    (by rw [show t.tstore = s.tstore from congrArg (·.tstore) h.bare]; exact id) h.regsWf
    (congrArg (·.tm) h.bare) (congrArg (·.sec) h.bare)

/-- What every command leaves beside its own effect keeps the invariant, so that a command keeps it where its own effect does. -/
theorem inv_finish (h : t.inv = true) : (finish s t).inv = true := (finish_aside s t).inv h

theorem inv_done {u : State} (h : t.inv = true) (e : done s t = .next u) : u.inv = true := by
  cases e
  exact inv_finish h

end Sys2Proof.Machine
end

