-- ==== Sys2Proof/Tests/Slice0.lean ====
section
/-! SUPPORT. Tests: ill-formed commands that WellFormed refuses, and for each statement with hypotheses a state and operands that
meet them together. The states are the state after reset with some registers and records set. -/

namespace Sys2Proof.Tests

open Sys2Proof Sys2Proof.Machine

set_option Elab.async false

/-- A state with registers set. -/
def regsOf (l : List (Nat × Nat)) (s : State) : State := l.foldl (fun t e => t.setNat e.1 e.2) s

/-- The state after reset with registers set. -/
abbrev rst (l : List (Nat × Nat)) : State := regsOf l State.reset


/-- Slot 0 CURRENT with tag 5 and an image of three pages, whose bytes are given as (offset, length, value), little-endian. -/
def withImg (l : List (Nat × Nat × Nat)) (s : State) : State :=
  let s := regsOf [(Reg.genSlotStat 0, 0x504), (Reg.genGenStat, 0x10501)] s
  let s := { s with gen := { s.gen with pages := [(0, [0, 1, 2])] } }
  l.foldl (fun t e => t.tsWrite e.1 (leBytes e.2.1 e.2.2)) s

/-! ### Ill-formed commands -/

theorem test_wf_time : (Instr.loadDone (2 ^ 64)).wf = false ∧ (Instr.loadDone (2 ^ 64 - 1)).wf = true := by decide
theorem test_wf_size : (Instr.registerWrite 0 0 3 0x40000000 0).wf = false ∧ (Instr.registerWrite 0 0 4 0x40000000 0).wf = true := by decide
theorem test_wf_addr : (Instr.rcRead 0 0 (2 ^ 40) 0).wf = false ∧ (Instr.ringConfigWrite 0 0 (2 ^ 40) 0).wf = false := by decide
theorem test_wf_count : (Instr.counterLoRead 0 0 0x40000040 (2 ^ 48)).wf = false := by decide

/-- Words: too long for the pound, a short word that is not the end word, an ABORT before the end word, no byte, and META
on a later word. -/
theorem test_wf_word : (PWord.mk (List.replicate 33 0) true false true {}).wf (poundBytes 0) = false ∧
    (PWord.mk [1, 2] false false true {}).wf 64 = false ∧ (PWord.mk (List.replicate 64 0) false true true {}).wf 64 = false ∧
    (PWord.mk [] true false true {}).wf 64 = false ∧ (PWord.mk [1] true false false { cause := 1 }).wf 64 = false ∧
    (PWord.mk (List.replicate 16 0) false false true {}).wf (poundBytes 52) = true ∧
    (PWord.mk [1, 2] true true true { tag := 16 }).wf 64 = false ∧ (PWord.mk [1, 2] true true true {}).wf 64 = true := by decide +kernel

/-- What the air gives an exchange, with a list of lengths and the other operands 0. -/
def airOfLens (l : List Nat) : Airtime := ⟨[l], 0, none, 0, 0, 0, 0, 0, 0⟩

/-- Lengths that fall, a length past a second, and a width code that no SIG has. -/
theorem test_wf_airtime : (airOfLens [100, 50]).wf = false ∧ (airOfLens [1000000001]).wf = false ∧
    ({ airOfLens [100, 200] with bw := 5 } : Airtime).wf = false ∧ (Instr.exchangeStart 0 .h (airOfLens [100, 200])).wf = true := by
  decide

theorem test_wf_sig : (Instr.sigCheck 0 .h (.valid ⟨0, 0, 0, 0, .bcc, false, false, 1000000001⟩)).wf = false ∧
    (Instr.sigCheck 0 .h .fail).wf = true := by decide
theorem test_wf_report : (RxReport.mk 0 0 [] 65536 false [] []).wf = false ∧ (LtfObs.mk [] 32768).wf = false := by decide

/-- A received MPDU with a kind, a packet number and a payload. -/
def mpduOf (k : MpduKind) (pn : Nat) (b : List Byte) : Mpdu :=
  ⟨true, 0, k, 0, 0, 0, 0, true, false, true, 0, 0, false, false, false, false, 0, pn, true, false, false, 0, none, b⟩

theorem test_wf_mpdu_pn : (mpduOf .data (2 ^ 48) []).wf = false ∧ (mpduOf .data 1 []).wf = true := by decide
theorem test_wf_mpdu_payload : (mpduOf .data 0 (List.replicate 65536 0)).wf = false := by
  simp only [Mpdu.wf, mpduOf, List.length_replicate]; decide
theorem test_wf_mpdu_bitmap : (mpduOf (.ctrl (.blockAck [⟨0, 0, List.replicate 1025 true⟩])) 0 []).wf = false := by
  simp only [Mpdu.wf, mpduOf, List.all_cons, List.all_nil, List.length_replicate]; decide

theorem test_wf_gauge_image : (GhImage.mk [] (List.replicate 63 0) true true 0 none none).wf = false ∧
    (GhImage.mk [] (List.replicate 64 0) true true (2 ^ 19) none none).wf = false ∧
    (GhImage.mk [] (List.replicate 64 0) true true 0 none (some [0])).wf = false := by
  simp only [GhImage.wf, List.length_replicate]; decide
theorem test_wf_flash : (FlashCopy.mk true (List.replicate 255 0) []).wf = false := by
  simp only [FlashCopy.wf, List.length_replicate]; decide
theorem test_wf_drain : (Instr.replayRecord 0 (some (.write (2 ^ 40) 0))).wf = false ∧ (Instr.replayRecord 0 none).wf = true := by decide
theorem test_wf_drain_frame : (Instr.replayRecord 0 (some (.frame 0 (List.replicate 65536 0)))).wf = false := by
  simp only [Instr.wf, drainWf, List.length_replicate]; decide

/-- Operands longer or larger than what carries them. -/
theorem test_wf_fields : (Instr.rawSlotStart 0 65536 (airOfLens [])).wf = false ∧
    (Instr.txLastSample 0 .h [(0, 65536)]).wf = false ∧ (Instr.nfPeriodEnd 0 .h (2 ^ 32) []).wf = false ∧
    (Instr.nfPeriodEnd 0 .h 0 [0, 0, 0, 0, 0]).wf = false ∧ (Instr.portNfPeriodEnd 0 0 (2 ^ 32) 0 0).wf = false ∧
    (Instr.driftTrack 0 0 [.up, .up, .up, .up, .up, .up]).wf = false ∧ (Instr.blankInRelease 0 ⟨0, 2 ^ 64⟩).wf = false ∧
    (Instr.pmuCounterWrap 0 0 (2 ^ 48) 0 0 none).wf = false := by decide
theorem test_wf_lists : (Instr.dbgResp 0 1 (List.replicate 63 0)).wf = false ∧
    (Instr.tdrDone 0 0 false (List.replicate 256 ⟨0, 0, 0⟩)).wf = false := by
  simp only [Instr.wf, List.length_replicate]; decide

/-! ### Registers and islands -/

theorem witness_counters :
    (∃ r, regRow (Reg.pmuCntLo 0) = some r ∧ r.kind = .lo) ∧ (∃ r, regRow (Reg.pmuCntHi 0) = some r ∧ r.kind = .hi) ∧
    accepts State.reset 0 (Reg.pmuCntLo 0) false = true ∧ accepts State.reset 0 (Reg.pmuCntLo 0) true = true ∧
    accepts State.reset 0 (Reg.pmuCntHi 0) true = true ∧
    calm State.reset (Reg.pmuCntLo 0) = true ∧ calm State.reset (Reg.pmuCntHi 0) = true ∧
    (∃ r, regRow Reg.aoRtcLo = some r ∧ r.kind = .loRo) ∧ accepts State.reset 0 Reg.aoRtcLo false = true ∧
    calm State.reset Reg.aoRtcLo = true ∧ calm State.reset (Reg.aoRtcLo + 4) = true := by
  refine ⟨⟨_, rfl, ?_⟩, ⟨_, rfl, ?_⟩, ?_, ?_, ?_, ?_, ?_, ⟨_, rfl, ?_⟩, ?_, ?_, ?_⟩ <;> decide +kernel

theorem witness_rcRead : (∃ r, regRow Reg.ppDeepCnt = some r ∧ r.kind = .rc) ∧
    (∀ p, p < 66 → Reg.ppDeepCnt ≠ portReg p Reg.spTsqPop Reg.ulTsqPop) ∧ (∀ c, c < 8 → Reg.ppDeepCnt ≠ Reg.tsWDisp c) ∧
    accepts State.reset 0 Reg.ppDeepCnt false = true ∧ calm State.reset Reg.ppDeepCnt = true := by
  refine ⟨⟨_, rfl, ?_⟩, ?_⟩ <;> decide +kernel

theorem witness_w1c : (∃ r, regRow (Reg.genIrqRaw + 8) = some r ∧ r.kind = .stat) ∧ Reg.genIrqRaw ≠ Reg.topIrqRaw ∧
    accepts State.reset 0 (Reg.genIrqRaw + 8) true = true ∧ calm State.reset Reg.genIrqRaw = true ∧
    accepts State.reset 0 (Reg.topPndIrqStat0 + 4 * 1) true = true ∧
    (∃ r, regRow Reg.fltFltStat = some r ∧ r.kind = .reg ∧ r.w1c.testBit 8 = true) ∧ accepts State.reset 0 Reg.fltFltStat true = true ∧
    calm State.reset Reg.fltFltStat = true ∧ accepts State.reset 0 Reg.topBuserrInfo true = true := by
  refine ⟨⟨_, rfl, ?_⟩, ?_, ?_, ?_, ?_, ⟨_, rfl, ?_⟩, ?_, ?_, ?_⟩ <;> decide +kernel

/-- The latch free, and the latch full. -/
def wLatched : State := rst [(Reg.topBuserrInfo, 0x80FF0010)]

theorem witness_busError : ∀ s ∈ [State.reset, wLatched], s.ao.held = false ∧ debugMay s 0 true = true ∧
    busCause s 0 0x50000000 4 true = some 0 ∧ busCause s 0 Reg.topIrqEn 2 true = some 1 ∧
    busCause s 0 0x43000000 4 true = some 2 ∧ busCause s 0 0x800000000 4 true = some 3 := by decide +kernel

theorem witness_latch : State.reset.bit Reg.topBuserrInfo 31 = false ∧ wLatched.bit Reg.topBuserrInfo 31 = true := by
  decide +kernel

/-- Both channels of DRAM in RUN with 1 GiB each, and the L2 window open. -/
def wMem : State := rst [(Reg.mcMcStat 0, 3), (Reg.mcMcStat 1, 3), (Reg.mcCapMb 0, 1024), (Reg.mcCapMb 1, 1024), (Reg.ccL2Cfg, 16)]

theorem witness_registerWrite : (∀ a ∈ [Reg.topIrqEn, Reg.topPndIrqEn0, Reg.aoWakeEn, Reg.tsIrqEn, Reg.pmuPmuCtrl, Reg.tpIrqEn,
      Reg.fltHangUs, Reg.mcIrqEn 0, Reg.ppIrqEn, Reg.tmIrqEn, Reg.genArmLead, Reg.staRetryLim, Reg.airGuardNs 0, Reg.spMacIrqEn 0,
      Reg.ulIrqEn 0, Reg.rdIrqEn 0, Reg.mdmDetThr 0, Reg.ccCcIrqEn], accepts State.reset 0 a true = true) ∧
    accepts (rst [(Reg.ccCoreStat 0, 0xC)]) 0 Reg.secIrqEn true = true ∧
    (regionOf 0x40000800 = .regs ∧ regRow 0x40000800 = none ∧ inSluice 0x40000800 = false ∧
      accepts State.reset 0 0x40000800 true = true) ∧
    wMem.ao.held = false ∧ debugMay wMem 0 true = true ∧ busCause wMem 0 0x800000100 8 true = none ∧
    regionOf 0x800000100 = .dram ∧ outRing wMem 0x100 = true ∧ busCause wMem 0 0x10000040 4 true = none ∧
    regionOf 0x10000040 = .l2 := by decide +kernel

/-- Island 9 held in reset with its clock stopped, the same with the clock running, switched off, and waiting for GRAFT. -/
def wHeld : State := rst [(Reg.topIslCtrl 9, 1), (Reg.topIslStat 9, 0x19)]
def wInit : State := rst [(Reg.topIslStat 9, 0x1B)]
def wOff : State := rst [(Reg.topIslCtrl 9, 2), (Reg.topIslStat 9, 0x318)]
def wOffHeld : State := rst [(Reg.topIslCtrl 9, 3), (Reg.topIslStat 9, 0x318)]
def wGraft : State := rst [(Reg.topIslCtrl 9, 4), (Reg.topIslStat 9, 0x17)]
def wGraftInit : State := rst [(Reg.topIslCtrl 9, 4), (Reg.topIslStat 9, 0x1B)]

theorem witness_islands :
    (∀ s ∈ [State.reset, wHeld, wOff, wOffHeld, wGraft], accepts s 0 (Reg.topIslCtrl 9) true = true) ∧
    (State.reset.bit (Reg.topIslCtrl 9) 0 = false ∧ State.reset.bit (Reg.topIslCtrl 9) 1 = false ∧ islInReset State.reset 9 = false) ∧
    (wHeld.bit (Reg.topIslCtrl 9) 0 = true ∧ wHeld.bit (Reg.topIslCtrl 9) 1 = false) ∧
    (∀ s ∈ [wInit, wGraftInit], islPowered s 9 = true ∧ islInReset s 9 = true ∧ s.bit (Reg.topIslStat 9) 1 = true) ∧
    (wOff.bit (Reg.topIslCtrl 9) 1 = true ∧ wOff.bit (Reg.topIslCtrl 9) 0 = false ∧ wOffHeld.bit (Reg.topIslCtrl 9) 0 = true) ∧
    (wGraft.bit (Reg.topIslCtrl 9) 2 = true ∧ wGraft.bit (Reg.topIslStat 9) 2 = true ∧ wGraft.bit (Reg.topIslStat 9) 4 = true) ∧
    (poundEnds 21).1 = 9 ∧ wGraft.bit (Reg.topIslStat (poundEnds 21).2) 4 = false := by decide +kernel

/-- A word, an end word and an ABORT end word. -/
def wordA : PWord := ⟨List.replicate 64 1, false, false, true, {}⟩
def wordE : PWord := ⟨[2], true, false, false, {}⟩
def wordX : PWord := ⟨[0], true, true, false, {}⟩

/-- PD29 with a word written and not readable, and with readable words. -/
def wFlight : State := { State.reset with pounds := [(29, { flight := [wordA], midW := true })] }
def wReady : State := { State.reset with pounds := [(29, { ready := [wordA, wordE] })] }
def wReadyE : State := { State.reset with pounds := [(29, { ready := [wordE], taken := [wordA] })] }
def wReadyX : State := { State.reset with pounds := [(29, { ready := [wordX], taken := [wordA] })] }

theorem witness_pounds : poundRoom State.reset 29 = true ∧ wordA.first = !(State.reset.pound 29).midW ∧
    (wFlight.pound 29).flight = [wordA] ∧ (∀ k, k < 72 → egressPound k ≠ some 29) ∧
    (∀ s ∈ [wReady, wReadyE, wReadyX], islUp s (poundEnds 29).2 = true ∧ mayStart s 29 = true) ∧ (wReady.pound 29).ready = [wordA, wordE] ∧
    (wReadyE.pound 29).ready = [wordE] ∧ (wReadyX.pound 29).ready = [wordX] ∧ (wordA.last && wordA.abort) = false ∧
    (wordX.last && wordX.abort) = true := by decide +kernel

/-- PD29 with MARK 0, above its depth, and at its depth of 128. -/
def wMarkOver : State := rst [(Reg.topPndCfg 29, 200)]
def wMarkFull : State := { rst [(Reg.topPndCfg 29, 64)] with pounds := [(29, { ready := List.replicate 63 wordE })] }

theorem witness_mark : accepts State.reset 0 (Reg.topPndCfg 29) true = true ∧ State.reset.fld (Reg.topPndCfg 29) 0 10 = 0 ∧
    poundDepth wMarkOver 29 < wMarkOver.fld (Reg.topPndCfg 29) 0 10 ∧ poundDepth State.reset 45 = 64 := by decide +kernel

/-- PD45, 64 words deep, at its mark of 64 less one word. -/
def wMark45 : State := { rst [(Reg.topPndCfg 45, 64)] with pounds := [(45, { ready := List.replicate 63 wordE })] }

theorem witness_markFull : wMark45.fld (Reg.topPndCfg 45) 0 10 = poundDepth wMark45 45 ∧ wMark45.fld (Reg.topPndCfg 45) 0 10 ≠ 0 ∧
    (wMark45.pound 45).level < 64 ∧ (Pound.level { ready := List.replicate 64 wordE }) = 64 := by decide +kernel

/-- A frame in the pipeline, held by engine 3 with a result ready. -/
def frameA : PpFrame := { fid := 7, src := 0, port := 0, seq := 0, tag := 0, second := false, inPort := 0, tunnel := 0, info := {},
                          dt := 0, data := [1, 2, 3], wholeAt := true, whole := true, eng := some 3, act := some 0 }
def wEngine : State := { State.reset with pp := { State.reset.pp with frames := [frameA] } }

/-- A record in the pound of tap 1, with the recorder on and without HOLD. -/
def wTapRec : State := rst [(Reg.tpTpCtrl, 0x20001), (Reg.tpRingSize, 1)]
def wTapped : State := { wTapRec with pounds := [(34, { ready := tapWords wTapRec 1 8 1 0 3 0 [] })] }

theorem witness_tap : tapPick wTapped = some 1 ∧ (wTapped.pound 34).taken = [] ∧ splitPacket (wTapped.pound 34).ready = some ((wTapped.pound 34).ready, []) ∧
    (wTapped.pound 34).ready.all (fun w => !w.abort) = true ∧ islUp wTapped 20 = true ∧ ringUnits wTapped ≠ 0 ∧
    wTapped.bit Reg.tpTpCtrl 2 = false ∧ gapOf wTapped 3 = 0 := by decide +kernel

/-- Core 2's DONE word waits. -/
def wDoneWait : State := { State.reset with ts := { State.reset.ts with doneWait := [(2, [1])] } }

theorem witness_collectors : islUp wEngine 4 = true ∧
    rotPick 8 wEngine.pp.outRot (fun k => match engFrame wEngine k with
      | none => false
      | some g => resultReady g) = some 3 ∧ engFrame wEngine 3 = some frameA ∧ islUp wDoneWait 3 = true ∧
    rotPick 8 wDoneWait.ts.rot (fun k => !(doneOf wDoneWait k).isEmpty) = some 2 ∧
    islUp State.reset 7 = true ∧ rotPick 4 2 (fun k => k == 1) = some 1 := by decide +kernel

/-- The interrupt controller: sources 1 and 320 enabled for context 2 and pending, the second with the higher priority; then source
320 asserted and claimed. -/
def plicL : List (Nat × Nat) := [(Reg.plicPrio 1, 1), (Reg.plicPrio 320, 5), (Reg.plicEn 2 0, 2), (Reg.plicEn 2 10, 1),
  (Reg.genIrqRaw, 1), (Reg.genIrqRaw + 4, 1)]
def wPlic : State := { rst plicL with plic := { pend := [(1, true), (320, true)] } }
def wPlicServed : State := { rst plicL with plic := { served := [(320, true)] } }

theorem witness_plic : islUp wPlic 2 = true ∧ 320 ∈ irqIds ∧ srcLevel wPlic 320 = true ∧ plicPend wPlic 1 = true ∧
    plicEnabled wPlic 2 1 = true ∧ wPlic.fld (Reg.plicPrio 1) 0 3 ≠ 0 ∧ plicTop wPlic 2 = 320 ∧
    accepts wPlic 0 (Reg.plicClaim 2) false = true ∧ accepts wPlicServed 0 (Reg.plicClaim 2) true = true ∧
    islUp wPlicServed 2 = true ∧ plicEnabled wPlicServed 2 320 = true ∧ plicServed wPlicServed 320 = true := by decide +kernel
/-! ### Generations and the timetable -/

def wLoad : State := rst [(Reg.genLoadLen, 8192), (Reg.genLoadAddrHi, 8)]
def wLoadBusy : State := rst [(Reg.genSlotStat 1, 2), (Reg.genLoadLen, 8192)]
/-- A load in progress into slot 1, from DRAM that is not configured. -/
def wLoading : State := { rst [(Reg.genSlotStat 1, 1), (Reg.genLoadStat, 0x11)] with
  gen := { State.reset.gen with pages := [(1, [0, 1])], load := some (1, 0x800000000, 8192) } }

theorem witness_load : accepts wLoad 0 Reg.genLoadCmd true = true ∧ wLoad.bit Reg.genLoadStat 0 = false ∧
    (∀ k, k < 4 → slotState wLoad k = 0 ∨ slotState wLoad k = 4 ∨ slotState wLoad k = 5) ∧ loadAddr wLoad % 64 = 0 ∧
    256 ≤ wLoad.regN Reg.genLoadLen ∧ wLoad.regN Reg.genLoadLen ≤ 3145728 ∧ freeSlotNo wLoad = some 0 ∧
    accepts wLoadBusy 0 Reg.genLoadCmd true = true ∧ wLoadBusy.bit Reg.genLoadStat 0 = false ∧ 1 ≤ slotState wLoadBusy 1 ∧
    slotState wLoadBusy 1 ≤ 3 ∧ wLoading.gen.load = some (1, 0x800000000, 8192) ∧
    accepts wLoading 0 Reg.genLoadCmd true = true ∧ loadError (wLoading.at 0) 0x800000000 8192 = some 22 := by decide +kernel

theorem witness_loadPages : ceilDiv (wLoad.regN Reg.genLoadLen) 4096 ≤ (freePages wLoad).length := by decide +kernel

/-- Slot 2 READY with slot 0 CURRENT, whose round lasts 1 ms; and slot 2 ARMED for a boundary at 2 ms. -/
def wReadySlot : State := rst [(Reg.genSlotStat 0, 4), (Reg.genSlotStat 2, 2), (Reg.genGenStat, 0x50001), (Reg.genRoundNs, 1000000)]
def wArmed : State := { rst [(Reg.genSlotStat 0, 4), (Reg.genSlotStat 2, 3), (Reg.genGenStat, 0x50001), (Reg.genRoundNs, 1000000),
    (Reg.genArmStat, 0x100)] with
  gen := { State.reset.gen with bdy := 1000000, armLead := 2000, armDt := 1998000, tgtDt := 2000000, pages := [(2, [5])] } }
/-- Slot 2 ARMED with no generation current. -/
def wFirst : State := { rst [(Reg.genSlotStat 2, 3), (Reg.genArmStat, 0x100)] with
  gen := { State.reset.gen with armLead := 2000, armDt := 8000, tgtDt := 10000 } }

theorem witness_arm : (∀ s ∈ [wReadySlot, wArmed], accepts s 0 Reg.genArmCmd true = true) ∧ slotState wReadySlot 2 = 2 ∧
    (∀ j, j < 4 → slotState wReadySlot j ≠ 3) ∧ 0 < roundNs wReadySlot ∧ slotState wArmed 2 = 3 ∧
    (wArmed.at 0).dt < wArmed.gen.armDt ∧ wArmed.gen.armDt ≤ (wArmed.at 1998000).dt ∧ armedSlot wArmed = some 2 ∧
    islUp wArmed 6 = true ∧ wArmed.bit Reg.genArmStat 4 = false ∧
    (wArmed.gen.bad ++ wArmed.gen.lost).any (fun b => decide (b.1 = 2)) = false := by decide +kernel

theorem witness_round : curSlot wReadySlot = some 0 ∧ nextBdy wReadySlot ≤ (wReadySlot.at 999000).dt + 1000 ∧
    nextBdy wReadySlot ≤ (wReadySlot.at 1000000).dt ∧ armedSlot wReadySlot = none ∧
    curSlot wArmed = some 0 ∧ nextBdy wArmed ≤ (wArmed.at 2000000).dt ∧ armedSlot wArmed = some 2 ∧
    wArmed.gen.tgtDt ≤ nextBdy wArmed ∧ islUp wArmed 6 = true ∧
    armedSlot wFirst = some 2 ∧ curSlot wFirst = none ∧ wFirst.gen.tgtDt ≤ (wFirst.at 10000).dt ∧ wFirst.gen.missed = false ∧
    islUp wFirst 6 = true := by decide +kernel

def wHand : State := { wReadySlot with gen := { wReadySlot.gen with players := [(5, { slot := some 1, hand := some 3000 })] } }
def wDraining : State := rst [(Reg.genSlotStat 1, 5)]
def wScrub : State := { rst [(Reg.genSlotStat 0, 4), (Reg.genGenCtrl, 1)] with gen := { State.reset.gen with pages := [(0, [3, 4])] } }

theorem witness_players : (wHand.player 5).hand = some 3000 ∧ curSlot wHand = some 0 ∧ 3000 ≤ (wHand.at 3000).dt ∧
    islUp wHand (portIsland 5) = true ∧ islUp wHand 6 = true ∧
    islUp wDraining 6 = true ∧ slotState wDraining 1 = 5 ∧ wDraining.regN (Reg.genSlotRef 1) = 0 ∧
    wDraining.bit (Reg.genSlotStat 1) 16 = false ∧ accepts wScrub 0 Reg.genPageQry true = true ∧
    wScrub.bit Reg.genGenCtrl 0 = true ∧ islUp wScrub 6 = true ∧ 2 ≤ slotState wScrub 0 ∧ 1 < (slotPages wScrub 0).length ∧
    (wScrub.gen.bad ++ wScrub.gen.lost).contains (0, 1) = false := by decide +kernel

/-! ### The packet pipeline -/

/-- A generation current, and words of one frame in PD0: a whole frame, and the first half of a long one. -/
def wIngress : State := { withImg [] State.reset with pounds := [(0, { ready := [wordA, wordE] })] }
def wIngressOpen : State := { withImg [] State.reset with pounds := [(0, { ready := [wordA, wordA, wordA] })] }
def wIngressNoGen : State := { State.reset with pounds := [(0, { ready := [wordA, wordE] })] }
/-- A frame without an engine. -/
def frameB : PpFrame := { frameA with eng := none, act := none }
def wDispatch : State := { State.reset with pp := { State.reset.pp with frames := [frameB], engRot := 4 } }
def wDispatchBusy : State := { rst [(Reg.ppPpStat, 32)] with pp := { State.reset.pp with frames := [frameB], engRot := 4 } }

theorem witness_ingress : (∀ s ∈ [wIngress, wIngressOpen, wIngressNoGen], rotPick 15 s.pp.inRot (ingressReady s) = some 0 ∧
      islUp s 4 = true ∧ (headWords s (ingressPound 0)).1.getLast?.any (fun w => w.last && w.abort) = false) ∧
    curSlot wIngress = some 0 ∧ tagSlot wIngress (curTag wIngress) = some 0 ∧ curSlot wIngressNoGen = none ∧
    (∀ s ∈ [wDispatch, wDispatchBusy], s.pp.frames.find? (fun f => f.eng.isNone && !f.collected) = some frameB) ∧
    islUp wDispatch 4 = true ∧ wDispatch.bit Reg.ppPpStat 5 = false ∧ wDispatchBusy.bit Reg.ppPpStat 5 = true := by decide +kernel

/-- Images whose parse ends at once, goes past the window, and fails: with MALF_MODE 0 and 1. The decision table of the first has one
node of one bit and the action 0 behind it. -/
def imgOk : List (Nat × Nat × Nat) :=
  [(0x0A, 2, 2), (0x40, 1, 1), (0x44, 4, 0x100), (0x50, 1, 2), (0x54, 4, 0x200), (0x104, 4, 63),
   (0x208, 4, 0x80), (0x20C, 4, 0xC0), (0x210, 4, 0xC0), (0x214, 4, 0x40), (0x240, 4, 0x50), (0x248, 4, 0x60),
   (0x260, 4, 0x80000000), (0x264, 4, 0x80000000)]
def imgDeep : List (Nat × Nat × Nat) := [(0x0A, 2, 1), (0x40, 1, 1), (0x44, 4, 0x100), (0x110, 4, 0x4600)]
def imgBad : List (Nat × Nat × Nat) := [(0x0A, 2, 1), (0x40, 1, 2), (0x44, 4, 0x200), (0x201, 1, 1)]
/-- A frame of tag 5 in engine 3: to be parsed, parsed, and classified. -/
def frameP : PpFrame := { frameA with tag := 5, data := List.replicate 100 1, act := none }
def inEng (f : PpFrame) (s : State) : State := { s.setNat Reg.ppPpStat 8 with pp := { s.pp with frames := [f] } }
def wParse : State := inEng frameP (withImg imgOk State.reset)
def wParseDeep : State := inEng frameP (withImg imgDeep State.reset)
def wParseBad : State := inEng frameP (withImg imgBad State.reset)
def wParseDrop : State := inEng frameP (withImg [] State.reset)

theorem witness_parse : (∀ s ∈ [wParse, wParseDeep, wParseBad, wParseDrop], engFrame s 3 = some frameP ∧ islUp s 4 = true ∧
      tagSlot s 5 = some 0) ∧ frameP.parsed = none ∧
    (parseFrame (slotImg wParse 0) frameP.data true false 0 0 0 0).verdict = 0 ∧
    (parseFrame (slotImg wParseDeep 0) frameP.data true false 0 0 0 0).verdict = 1 ∧
    (parseFrame (slotImg wParseBad 0) frameP.data true false 0 0 0 0).verdict = 2 ∧ malfMode (slotImg wParseBad 0) = true ∧
    (parseFrame (slotImg wParseDrop 0) frameP.data true false 0 0 0 0).verdict = 2 ∧
    malfMode (slotImg wParseDrop 0) = false := by decide +kernel

def wClassify : State := inEng { frameP with parsed := some {} } (withImg imgOk State.reset)

theorem witness_classify : engFrame wClassify 3 = some { frameP with parsed := some {} } ∧ tagSlot wClassify 5 = some 0 ∧
    islUp wClassify 4 = true ∧ islUp wClassify 6 = true ∧
    touchesBad wClassify 0 ((classify (slotImg wClassify 0) {}).2 ++
      [(actOff (slotImg wClassify 0) (classify (slotImg wClassify 0) {}).1, 16)]) = false := by decide +kernel

/-- A collected frame with its result: an action without effect, a forward, and MALFORMED. -/
def wDropAct : State := inEng { frameP with parsed := some {}, act := some 0 } (withImg imgOk State.reset)
def wForward : State := inEng { frameP with parsed := some {}, act := some 0 } (withImg (imgOk ++ [(0x280, 4, 1)]) State.reset)
def wExcept : State := inEng { frameP with parsed := some { verdict := 2 } } (withImg imgOk State.reset)

theorem witness_release : (∀ s ∈ [wDropAct, wForward, wExcept], (releasable (collectAll (s.at 0) 8).pp.frames []).isSome = true ∧
      tagSlot s 5 = some 0 ∧ islUp s 4 = true) ∧ iFld (slotImg wDropAct 0) (actOff (slotImg wDropAct 0) 0) 0 4 = 0 ∧
    iFld (slotImg wForward 0) (actOff (slotImg wForward 0) 0) 0 4 = 1 ∧
    iFld (slotImg wForward 0) (actOff (slotImg wForward 0) 0 + 8) 15 1 = 0 ∧
    iFld (slotImg wForward 0) (actOff (slotImg wForward 0) 0 + 8) 31 1 = 0 ∧
    iFld (slotImg wForward 0) (actOff (slotImg wForward 0) 0 + 4) 16 16 = 0 := by decide +kernel

/-- A released frame with one packet, alone and with a GAUGE copy, and one with a bad FCS found at its end. -/
def fateA : PpFate := { outs := [{ data := List.replicate 100 1 }] }
def frameO (x : PpFate) : PpFrame := { frameP with eng := none, collected := true, parsed := some {}, act := some 0, fate := some x }
def wHandoff : State := { withImg imgOk State.reset with pp := { State.reset.pp with frames := [frameO fateA] } }
def wHandoffGh : State := { withImg imgOk State.reset with pp := { State.reset.pp with frames := [frameO { fateA with gauge := true }] } }
def wHandoffFull : State := { wHandoffGh with pounds := [(32, { ready := List.replicate 64 wordA })] }
/-- The parse window of 64 bytes is shorter than the frame, whose end shows a bad FCS, or an IP length beyond it. -/
def frameL : PpFrame := { frameO fateA with badFcs := true, wholeAt := false, parsed := some { need := 5000 } }
def wLate : State := { wHandoff with pp := { wHandoff.pp with frames := [frameL] } }

theorem witness_handoff : (∀ s ∈ [wHandoff, wHandoffGh, wHandoffFull], islUp s 4 = true ∧ s.pp.outQ = [] ∧
      s.pp.frames.any (·.streaming) = false ∧ poundRoom s 28 = true) ∧
    lateCauses wHandoff (frameO fateA) = [] ∧ lateCauses wHandoffGh (frameO { fateA with gauge := true }) = [] ∧
    poundClosed wHandoffGh 32 = false ∧ poundDepth wHandoffFull 32 - (wHandoffFull.pound 32).level = 0 ∧
    wLate.pp.frames.map (lateCauses wLate) = [[.ipLen, .badFcs]] := by decide +kernel

/-- A session command in progress. -/
def sesA : Session := ⟨1, 2, 3, 4, 6, 5, 7, 10, 0⟩
def withCmd (op : Nat) (l : Bank (Option Session)) : State :=
  { rst [(Reg.ppNatCmdStat, 1)] with pp := { State.reset.pp with cmd := some ⟨op, 9, sesA⟩, sessions := l } }
def wNatIns : State := withCmd 1 []
def wNatDup : State := withCmd 1 [(9, some sesA)]
def wNatRem : State := withCmd 2 [(9, some sesA)]
def wNatRead : State := withCmd 3 [(9, some sesA)]
def wNatNone : State := withCmd 3 []

theorem witness_nat : accepts State.reset 0 Reg.ppNatCmd true = true ∧ State.reset.bit Reg.ppNatCmdStat 0 = false ∧
    accepts wNatIns 0 Reg.ppNatCmd true = true ∧ wNatIns.bit Reg.ppNatCmdStat 0 = true ∧
    (∀ s ∈ [wNatIns, wNatDup, wNatRem, wNatRead, wNatNone], islUp s 4 = true) ∧ insertResult wNatIns 9 sesA = 0 ∧
    insertResult wNatDup 9 sesA = 3 ∧ session wNatRem 9 = some sesA ∧ session wNatNone 9 = none := by decide +kernel

/-- Session 9 idle for 10 s, with room in the expiry ring and with the ring full. -/
def wAge : State := { rst [(Reg.ppPpCtrl, 1)] with pp := { State.reset.pp with sessions := [(9, some sesA)] } }
def wAgeFull : State := { rst [(Reg.ppPpCtrl, 1), (Reg.ppNatExpTail, 1)] with pp := { State.reset.pp with sessions := [(9, some sesA)] } }

theorem witness_age : (∀ s ∈ [wAge, wAgeFull], islUp s 4 = true ∧ s.bit Reg.ppPpCtrl 0 = true ∧ session s 9 = some sesA) ∧
    wAgeFull.fld Reg.ppNatExpTail 0 8 = (wAgeFull.fld Reg.ppNatExpHead 0 8 + 1) % 256 ∧
    wAge.fld Reg.ppNatExpTail 0 8 ≠ (wAge.fld Reg.ppNatExpHead 0 8 + 1) % 256 ∧
    10 ≤ (wAge.at 10000000000).dt / 10 ^ 9 - 0 ∧ accepts wAge 0 Reg.ppNatExpTail true = true := by decide +kernel

/-- Something is in use everywhere, and band 0 has a cap. -/
def wInUse : State := rst [(Reg.ppNatCount, 1), (Reg.staStaStat, 1), (Reg.staRoUsed, 1), (Reg.tmSpillUsed, 1), (Reg.ulDirCtrl 0, 3),
  (Reg.mcMcStat 0, 3), (Reg.dutyBandCap 0, 5000)]

theorem witness_guards : (∀ s ∈ [State.reset, wInUse], accepts s 0 Reg.ppNatSeed true = true ∧
      accepts s 0 Reg.staAddrSeed true = true ∧ accepts s 0 (mldReg .mldHi) true = true ∧ accepts s 0 (roReg .size) true = true ∧
      accepts s 0 (spillReg .size) true = true ∧ accepts s 0 (Reg.ulTxRingLo 0) true = true ∧
      accepts s 0 (Reg.mcAddrMap 0) true = true ∧ accepts s 0 (Reg.ulSerdesTx 0) true = true ∧
      accepts s 0 (Reg.rdFemTiming 1) true = true ∧ accepts s 0 (Reg.dutyBandLimit 0) true = true) ∧
    ringGuard (Reg.ulTxRingLo 0) = some (Reg.ulDirCtrl 0, 0) ∧ wInUse.fld Reg.ppNatCount 0 17 ≠ 0 ∧
    wInUse.fld Reg.staStaStat 0 13 ≠ 0 ∧ wInUse.fld Reg.staRoUsed 0 24 ≠ 0 ∧ wInUse.fld Reg.tmSpillUsed 0 25 ≠ 0 ∧
    wInUse.bit (Reg.ulDirCtrl 0) 0 = true ∧ mcRun wInUse 0 = true := by decide +kernel

/-! ### The traffic manager -/

/-- A SHAPE table of two flow queues below subscriber 0, bearer 0, backhaul 0 and port 3: flow queue 0 is enabled and shaped, flow queue 1 is not enabled; station 5 has
subscriber 0. The lock schedule of port 3 keeps every gate open. -/
def imgTm : List (Nat × Nat × Nat) :=
  [(0x0A, 2, 2), (0x40, 1, 7), (0x42, 2, 2), (0x44, 4, 0x100), (0x48, 4, 0x2000), (0x50, 1, 8), (0x54, 4, 0x2200),
   (0x220C, 4, 0x200), (0x2400, 4, 1), (0x2404, 4, 1000000), (0x2410, 4, 255), (0x2414, 4, 1000000), (0x100, 2, 1), (0x102, 2, 1), (0x104, 1, 1),
   (0x108, 4, 0x40), (0x10C, 4, 0x80), (0x110, 4, 0xA0), (0x114, 4, 0xC0), (0x118, 4, 0xE0), (0x11C, 4, 0x1400),
   (0x140, 4, 0x1000000), (0x144, 4, 1000), (0x148, 4, 1000), (0x14C, 4, 5000), (0x150, 4, 5000), (0x15C, 4, 0xFFFF),
   (0x180, 4, 0), (0x184, 4, 0xFFFFFFFF), (0x188, 4, 0xFFFFFFFF), (0x1A4, 4, 0xFFFFFFFF), (0x1A8, 4, 0xFFFFFFFF),
   (0x1C0, 4, 3), (0x1C4, 4, 0xFFFFFFFF), (0x1C8, 4, 0xFFFFFFFF),
   (0x2A4, 4, 0xFFFFFFFF), (0x2A8, 4, 0xFFFFFFFF), (0x2C4, 4, 0xFFFFFFFF), (0x2C8, 4, 0xFFFFFFFF), (0x150A, 2, 0x8000)]
def tmOn : State := withImg imgTm State.reset
def tmWith (l : List TmFrame) (s : State) : State := { s with tm := { s.tm with frames := l, nextFid := 20 } }
def pd28 (l : List PWord) (s : State) : State := { s with pounds := [(28, { ready := l })] }

/-- One word of a frame of flow queue `fq`, with the tag of the current generation. -/
def wordT (fq tag : Nat) : PWord := ⟨[1, 2, 3], true, false, true, { fq := fq, tag := tag, len := 3 }⟩
def wAdmit : State := pd28 [wordT 0 5] tmOn
def wAdmitOff : State := pd28 [wordT 1 5] tmOn
def wAdmitRetired : State := pd28 [wordT 0 6] tmOn
def wAdmitSpill : State := pd28 [wordT 0 5] (regsOf [(Reg.tmTmCtrl, 1), (Reg.tmSpillSize, 4)] (withImg (imgTm ++ [(0x15C, 4, 0)]) State.reset))

theorem witness_admit : (∀ s ∈ [wAdmit, wAdmitOff, wAdmitRetired, wAdmitSpill], islUp s 5 = true ∧ s.tm.openFid = none) ∧
    admitPlace wAdmit 0 (reservation 3) = .chip ∧ admitPlace wAdmitOff 1 (reservation 3) = .drop Reg.tmDropDisabled ∧
    admitPlace wAdmitSpill 0 (reservation 3) = .spill ∧ tagSlot wAdmitRetired 6 = none ∧ tagSlot wAdmit 5 = some 0 ∧
    barge wAdmitOff wAdmitOff.tm.nextFid = none := by decide +kernel

/-- A frame of flow queue 0 of which 5 bytes have come, and the same after it began to leave. -/
def bargeA : TmFrame := { fid := 7, fq := 0, tag := 5, info := {}, data := [1, 2, 3, 4, 5], cells := 64 }
def endWith (f : TmFrame) (w : PWord) : State := let s := pd28 [w] (tmWith [f] tmOn); { s with tm := { s.tm with openFid := some 7 } }
def wTmEnd : State := endWith bargeA wordE
def wTmAbort : State := endWith bargeA wordX
def wTmAbortSent : State := endWith { bargeA with started := true, sent := 3 } wordX

theorem witness_tmEnd : (∀ s ∈ [wTmEnd, wTmAbort, wTmAbortSent], islUp s 5 = true ∧ (s.pound 28).ready.length = 1 ∧
      (s.tm.frames.find? (fun f => decide (s.tm.openFid = some f.fid))).isSome = true) ∧ wordE.last = true ∧
    wordX.last = true ∧ wordX.abort = true := by decide +kernel

/-- A record in PD31: GH_FQ 0 is admitted, GH_FQ 1 is not. -/
def wGh : State := { tmOn with pounds := [(31, { ready := [wordE] })] }
def wGhStall : State := { withImg (imgTm ++ [(0x106, 2, 1)]) State.reset with pounds := [(31, { ready := [wordE] })] }

theorem witness_gh : splitPacket (wGh.pound 31).ready = some ([wordE], []) ∧ islUp wGh 5 = true ∧ replaying wGh = false ∧
    ghBlocked wGh = false ∧ curSlot wGh = some 0 ∧ splitPacket (wGhStall.pound 31).ready = some ([wordE], []) ∧
    islUp wGhStall 5 = true ∧ replaying wGhStall = false ∧ ghBlocked wGhStall = true := by decide +kernel

/-- A spilled frame in spill cell 2: with its end word, written, and being fetched; DRAM of 64 MiB. -/
def spillS (f : TmFrame) : State := tmWith [f] (regsOf [(Reg.mcMcStat 0, 3), (Reg.mcCapMb 0, 64), (Reg.tmSpillBaseHi, 8),
  (Reg.tmSpillSize, 1)] tmOn)
def bargeS : TmFrame := { bargeA with spilled := true, spillAt := [2], whole := true }
def wSpillWrite : State := spillS bargeS
def wSpillFetch : State := spillS { bargeS with written := true, cells := 1 }
def wSpillWide : State := spillS { bargeS with written := true, cells := 3000 }
def wSpillDone : State := spillS { bargeS with written := true, fetch := 1 }

theorem witness_spill : (∀ s ∈ [wSpillWrite, wSpillFetch, wSpillWide, wSpillDone], islUp s 5 = true ∧ (barge s 7).isSome = true) ∧
    spillOff wSpillWrite 2 + 256 ≤ dramCap wSpillWrite ∧
    ((fqFrames wSpillFetch 0).take 4).find? (fun f => f.spilled && f.written && decide (f.fetch = 0)) =
      some { bargeS with written := true, cells := 1 } ∧
    ((fqFrames wSpillWide 0).take 4).find? (fun f => f.spilled && f.written && decide (f.fetch = 0)) =
      some { bargeS with written := true, cells := 3000 } := by decide +kernel

/-- A whole frame that port 3 may send, the same with the port's pound full, and one that port 3 sends. -/
def bargeW : TmFrame := { bargeA with whole := true, cells := 1 }
def wSelect : State := let s := tmWith [bargeW] tmOn
  { s with gen := { s.gen with players := [(3, { slot := some 0, gates := 255 })] } }
def wSelectFull : State := { wSelect with pounds := [(outPound 3, { ready := List.replicate 64 wordA })] }
def wSelectSent : State := { wSelect with tm := { wSelect.tm with frames := [{ bargeW with started := true }], sel := [(3, some 7)] } }
/-- The same frame reserved to Radio H by a request for station 5. -/
def wSelectRadio : State := let s := tmWith [{ bargeW with resv := some 0 }] tmOn
  let s := (s.setNat (Reg.rdRdStat 0) 0x33).setRadio 0 { s.radio 0 with run := some { kind := .mu, air := airOfLens [100000], start := 0, limit := 0, users := [{ user := { sta := 5 }, count := 1, fids := [7] }] } }
  { s with tm := { s.tm with ans := [⟨0, 0, 0, 5, some 5, [7]⟩] } }
/-- The same frame for the CPU port. -/
def wSelectCpu : State := tmWith [bargeW] (withImg (imgTm ++ [(0x1C0, 4, 69), (0x12AC, 4, 0xFFFFFFFF), (0x12B0, 4, 0xFFFFFFFF)]) State.reset)

theorem witness_select : egressPound 3 = some (outPound 3) ∧ (∀ s ∈ [wSelect, wSelectFull], islUp s 5 = true ∧ selFrame s 3 = none) ∧
    egressRoom wSelect 3 (outPound 3) = true ∧ maySelect (wSelect.at 0) 3 = true ∧ egressRoom wSelectFull 3 (outPound 3) = false ∧
    (∀ k ∈ portFqs wSelect 3, dropHead wSelect 3 k = none) ∧
    (pick (wSelect.at 0) 4 3 ((portFqs wSelect 3).filter (wiredReady (wSelect.at 0) 3))).1 = some 0 ∧
    fqHead wSelect 0 = some bargeW ∧ selFrame wSelectSent 3 = some { bargeW with started := true } ∧
    islUp wSelectSent 5 = true ∧ egressRoom wSelectSent 3 (outPound 3) = true ∧ bargeW.data.length ≤ wordWidth wSelectSent (outPound 3) ∧
    tagSlot wSelectSent 5 = some 0 ∧ tagRetired wSelectSent 5 = false ∧ nodeLive wSelectSent 0 0 = true ∧
    bktUnshaped wSelectSent 0 0 1 = false ∧ reservedNext wSelectRadio 0 = some (5, { bargeW with resv := some 0 }) ∧
    islUp wSelectRadio 5 = true ∧ egressRoom wSelectRadio 66 23 = true ∧ egressPound 66 = some 23 := by decide +kernel

/-- The subscriber of station 5 below Radio H's port, with a frame ready, and an SP entry of Radio H for stations 5 and 6 at 1 ms; with the
request for station 5 made; and a hit of station 5. -/
def imgRequest : List (Nat × Nat × Nat) := imgTm ++ [(0x0A, 2, 4), (0x1C0, 4, 66), (0x1264, 4, 0xFFFFFFFF), (0x1268, 4, 0xFFFFFFFF),
  (0x60, 1, 9), (0x62, 2, 1), (0x64, 4, 0x2800), (0x68, 4, 16), (0x70, 1, 15), (0x74, 4, 0x2900), (0x2800, 4, 2), (0x2804, 4, 1000000),
  (0x2808, 4, 1000000), (0x280C, 4, 1), (0x2900, 4, 8), (0x2908, 4, 2), (0x2910, 4, 5), (0x2914, 4, 5000), (0x2918, 4, 6), (0x291C, 4, 5000)]
def wRequest : State := tmWith [bargeW] (withImg imgRequest State.reset)
def wRequestNext : State := wRequest.setAirOf 0 { wRequest.airOf 0 with asks := [⟨1000000, 1, 0⟩] }
def wRequestHit : State := wRequest.setAirOf 0 { wRequest.airOf 0 with wake := some { sta := 5, entry := 0, sUs := 0, c := 0, reacq := false, limit := 0, hitAt := 7 } }

theorem witness_request : let u := askAbove (wRequest.at 996500) 0
    islUp u 5 = true ∧ (u.airOf 0).asks.any (fun k => decide (u.dt < k.last + 20)) = false ∧
    (u.airOf 0).wake = none ∧ (firstOwed u 0).map (fun o => (o.start, o.count, (o.users[o.count]?).map (fun v => (v.sta, v.limit)))) = some (1000000, 0, some (5, 5000)) ∧
    staKind u 5 ≠ 2 ∧ staSub u 5 = some 0 ∧ mayDraw u 0 0 = true ∧ (subReady (dropRetiredOf 0 (askCount u 0 1000000)) 0 0).isEmpty = false ∧
    linkDown u 5 0 = false ∧ nstrHeld u 5 0 = false ∧ pnSpent u 5 = false ∧ accepts wRequest 0 Reg.tmBktLevel false = true := by decide +kernel

theorem witness_request_next : let u := askAbove (wRequestNext.at 996500) 0
    (firstOwed u 0).map (fun o => (o.start, o.count, (o.users[o.count]?).map (fun v => (v.sta, v.limit)))) = some (1000000, 1, some (6, 5000)) ∧ staSub u 6 = none ∧
    staKind u 6 ≠ 2 ∧ ((askAbove (wRequestNext.at 10) 0).airOf 0).asks.any (fun k => decide (10 < k.last + 20)) = true ∧
    ((askAbove (wRequestHit.at 996500) 0).airOf 0).wake.any (fun w => !w.asked) = true := by decide +kernel


/-! ### Air scheduling and transmission -/

/-- Air tables of Radio H: entry 0 QUIET, entry 1 CONTEND, entry 2 LISTEN of station 3, entry 3 SP with station list 0 and RAW, entry 4 over entry 0, entry 5
CAL, entry 6 LISTEN over entry 2, each of 1 ms; the same table for Radio L. -/
def airRow (e ty flags arg start : Nat) : List (Nat × Nat × Nat) :=
  [(0x200 + 16 * e, 4, ty + 256 * flags + 65536 * arg), (0x204 + 16 * e, 4, start), (0x208 + 16 * e, 4, 1000000), (0x20C + 16 * e, 4, 1)]
def imgAir : List (Nat × Nat × Nat) :=
  [(0x0A, 2, 3), (0x40, 1, 9), (0x42, 2, 7), (0x44, 4, 0x200), (0x48, 4, 112), (0x50, 1, 11), (0x52, 2, 6), (0x54, 4, 0x200), (0x58, 4, 96),
   (0x60, 1, 15), (0x64, 4, 0x300), (0x300, 4, 8), (0x308, 4, 2), (0x310, 4, 7), (0x314, 4, 5000), (0x318, 4, 8)] ++
  airRow 0 5 0 0 0 ++ airRow 1 4 0 0 1000000 ++ airRow 2 3 0 3 2000000 ++ airRow 3 2 2 0 3000000 ++ airRow 4 5 0 0 500000 ++
  airRow 5 6 0 0 5000000 ++ airRow 6 3 0 3 2500000
def airOn : State := withImg imgAir (rst [(Reg.rdRdStat 0, 3), (Reg.rdRdStat 2, 3), (Reg.rdRdCtrl 0, 1), (Reg.rdRdCtrl 2, 1)])
def wAir : State := airOn
def wAirOff : State := regsOf [(Reg.topIslStat 8, 0)] airOn
def playing (x e ty flags : Nat) (s : State) : State :=
  let a := 1000000 * e
  s.setAirOf x { s.airOf x with play := some { entry := e, start := a, stop := a + 1000000, ty := ty, flags := flags, arg := 0, chan := 0 } }
def wAirEnd : State := tmWith [{ bargeW with resv := some 0 }] (playing 0 1 4 0 airOn)
def wDuty : State := { State.reset with duty := { bins := [(3, 5), (20, 7)], rsv := [(1, 4)] } }

theorem witness_air : (∀ s ∈ [wAir, wAirOff], (s.airOf 0).play = none) ∧ fireDue (wAir.at 1000500) 0 1 = true ∧
    fireDue (wAirOff.at 1000500) 0 1 = true ∧ fireDue (wAir.at 700000) 0 4 = true ∧ fireDue (wAir.at 2000000) 0 2 = true ∧
    radioOff wAirOff 0 = true ∧ radioOff wAir 0 = false ∧ overlapped (curImg wAir) 0 4 0 = true ∧ fireDue (wAir.at 2500000) 0 6 = true ∧ overlapped (curImg wAir) 0 6 0 = true ∧ (playOf (wAir.at 2500000) 0 6).ty = 3 ∧
    (playOf (wAir.at 2000000) 0 2).ty = 3 ∧ (wAirEnd.airOf 0).play.isSome = true ∧ 2000000 ≤ (wAirEnd.at 2000000).dt := by decide +kernel

/-- What the air gives an exchange: PPDUs of 100 µs for one MPDU, and for a Trigger frame a BlockAck of 50 µs after 200 µs; PPDUs of
5 ms. -/
def airA : Airtime := ⟨[[100000]], 0, some (200000, 50000), 0, 1, 0, 0, 0, 0⟩
def airLong : Airtime := { airA with lens := [[5000000]] }
/-- Entry `e` in play on radio `x` with some fields changed, and a frame for station 7 held by the radio. -/
def playAs (x e ty flags : Nat) (f : AirPlay → AirPlay) (s : State) : State :=
  let s := playing x e ty flags s
  let s := s.setAirOf x { s.airOf x with play := (s.airOf x).play.map f }
  s.setRadio x { s.radio x with stock := [({ staIdx := 7 }, List.replicate 60 0)] }
def usersA (p : AirPlay) : AirPlay := { p with filled := true, users := [(0, { sta := 7, limit := 5000 })], members := [7] }
def wBcn : State := playAs 0 1 0 0 id airOn
def wUl : State := playAs 0 1 1 1 usersA airOn
def wDl : State := playAs 0 1 1 0 usersA airOn
def wSp : State := playAs 0 1 2 0 usersA airOn
def wContend : State := let s := playAs 0 1 4 0 id airOn; s.setAirOf 0 { s.airOf 0 with edcaSet := some 0 }
def wRaw : State := let s := playAs 2 3 2 2 id airOn; s.setAirOf 2 { s.airOf 2 with asks := [⟨3000000, 1, 0⟩] }
def wResp : State := let s := wContend
  s.setRadio 0 { s.radio 0 with due := [⟨some 7, 0, .ack⟩], dueAt := 1400000 }
def wRespBusy : State := wResp.setFld (Reg.rdRdStat 0) 4 3 4

def goes : TxVerdict → Bool
  | .go _ => true
  | _ => false

/-- The hypotheses of a request of the player, for each kind of entry. -/
theorem witness_exchange : ∀ s ∈ [wBcn, wUl, wDl, wSp],
    let u := fillEntry (stockAll (namesFirst (s.at 1400000) 0) 0) 0
    let v := dropRest u 0
    (u.airOf 0).play = (s.airOf 0).play ∧ (u.airOf 0).play.any (fun p => !p.forfeit && decide (u.dt < p.stop)) = true ∧
      mayExchange u 0 = true ∧ txReady v 0 = true := by decide +kernel

theorem witness_runs : let u := fun (s : State) => fillEntry (stockAll (s.at 1400000) 0) 0
    goes (txJudge (dropRest (u wBcn) 0) 0 (runOf (u wBcn) 0 .beacon [{ user := { sta := 0 }, want := 1, held := 1 }] airA 2000000 false)) = true ∧
    txJudge (dropRest (u wBcn) 0) 0 (runOf (u wBcn) 0 .beacon [{ user := { sta := 0 }, want := 1, held := 1 }] airLong 2000000 false) = .refuse 5 ∧
    (wUl.airOf 0).play.map (fun p => goes (txJudge (dropRest (u wUl) 0) 0 (runOf (u wUl) 0 .trigger (playUsers (u wUl) 0 p) airA 2000000 false))) = some true ∧
    (wDl.airOf 0).play.map (fun p => goes (txJudge (dropRest (u wDl) 0) 0
      (runOf (u wDl) 0 .mu ((playUsers (u wDl) 0 p).filter (fun k => decide (k.want ≠ 0))) airA 2000000 false))) = some true ∧
    (wSp.airOf 0).play.map (fun p => ((playUsers (u wSp) 0 p).find? (fun k => decide (k.want ≠ 0))).map (fun k =>
      goes (txJudge (dropRest (u wSp) 0) 0 (runOf (u wSp) 0 .sp [k] airA 2000000 true)))) = some (some true) := by decide +kernel

theorem witness_raw : let u := stockAll (wRaw.at 3000500) 2
    (u.airOf 2).play = (wRaw.airOf 2).play ∧ mayExchange u 2 = true ∧ txReady (dropRest u 2) 2 = true ∧
    (listEntries (curImg u) 0).length = 2 ∧ asked u 2 3000000 = 1 ∧
    (let k := txUserOf u 2 (userOf (curImg u) ((listEntries (curImg u) 0).getD 0 0)) (answerOf u 2 3000000 0)
     k.user.sta = 7 ∧ k.want = 1 ∧ goes (txJudge (dropRest u 2) 2 (runOf u 2 .raw [k] airA 3500000 false)) = true) := by decide +kernel

theorem witness_edca : let u := stockAll (wContend.at 1400000) 0
    (u.airOf 0).play = (wContend.airOf 0).play ∧ (u.airOf 0).edcaSet = some 0 ∧ acPeer u 0 0 = some 7 ∧ mayExchange u 0 = true ∧
    edcaOpen u 0 0 0 = true ∧ (∀ b, b < 4 → [1, 0, 2, 3].getD 0 0 < [1, 0, 2, 3].getD b 0 → edcaOpen u 0 b 0 = false ∨ acPeer u 0 b = none) ∧
    txReady (dropRest u 0) 0 = true ∧ goes (txJudge (dropRest u 0) 0 (runOf u 0 .edca [acUser u 0 7] airA 2000000 false)) = true := by
  decide +kernel

theorem witness_respond : (∀ s ∈ [wResp, wRespBusy], let u := stockAll (s.at 1400000) 0
      (u.airOf 0).play = (s.airOf 0).play ∧ respDue u 0 = [⟨some 7, 0, .ack⟩] ∧ dueNow u 0 = true ∧ respSilent u 0 = false) ∧
    txState wRespBusy 0 = 4 ∧ (let u := stockAll (wResp.at 1400000) 0
      let v := dropRest (u.setRadio 0 { u.radio 0 with due := [] }) 0
      (respRun u 0 (respDue u 0) 2000000 airA).kind = .resp ∧ txReady v 0 = true ∧
        goes (txJudge v 0 (respRun u 0 (respDue u 0) 2000000 airA)) = true) := by decide +kernel

/-- Entry 2's window before it opens, and open, with a record in TRACK and two misses. -/
def listenA : Listen := { sta := 3, entry := 2, stop := 3000000, limit := 3000000, opn := 2100000, cls := 2200000, named := true, sUs := 40 }
def listening (l : Listen) (s : State) : State := let s := playing 0 2 3 0 s; s.setAirOf 0 { s.airOf 0 with listen := some l }
def wListen : State := listening listenA airOn
def wLapped : State := let s := airOn; s.setAirOf 0 { s.airOf 0 with lapped := [listenA] }
def wListenUnnamed : State := listening { listenA with named := false } airOn
def wListenOpen : State := listening { listenA with opened := true } (regsOf [(Reg.airAirCtrl 0, 1), (Reg.airAsrStat 0 3, 0x21)] airOn)
def wListenPlain : State := listening { listenA with opened := true } (regsOf [(Reg.airAirCtrl 0, 0)] airOn)
def wAsrDeferred : State := (regsOf [(Reg.airAsrCmdStat 0, 3)] airOn).setAirOf 0 { cmd := some ⟨3, 3, []⟩ }
def wAsrBad : State := rst [(Reg.airAsrStage 0 3, 3)]
def wAsrFar : State := rst [(Reg.airAsrStage 0 0, 0x7FFFFF), (Reg.airDMax 0, 5)]

theorem witness_listen : (wListen.airOf 0).listen = some listenA ∧ (wListen.airOf 0).play.isSome = true ∧
    2100000 ≤ (wListen.at 2100000).dt ∧ radioOff wListen 0 = false ∧ synthNotReady (wListen.at 2100000) 0 0 = false ∧
    (wListenUnnamed.airOf 0).listen = some { listenA with named := false } ∧
    (∀ s ∈ [wListenOpen, wListenPlain], (s.airOf 0).listen = some { listenA with opened := true } ∧
      windowReception s 0 { listenA with opened := true } = false) ∧ 2200000 ≤ (wListenOpen.at 2200000).dt ∧
    driftOn wListenOpen 0 = true ∧ driftOn wListenPlain 0 = false ∧ asrState wListenOpen 0 3 = 1 ∧
    wListenOpen.fld (Reg.airAsrStat 0 3) 4 2 = 2 ∧
    (∀ s ∈ [wListenOpen, wListen, wAsrBad, wAsrFar], accepts s 0 (Reg.airAsrCmd 0) true = true ∧ s.bit (Reg.airAsrCmdStat 0) 0 = false) ∧
    asrHeld (wListenOpen.at 2150000) 0 3 = true ∧ asrHeld (wListen.at 2150000) 0 3 = false ∧ (wAsrDeferred.airOf 0).cmd = some ⟨3, 3, []⟩ ∧
    asrHeld (wAsrDeferred.at 0) 0 3 = false ∧ bitsOf (wAsrBad.reg (Reg.airAsrStage 0 3)) 0 2 = 3 := by decide +kernel

/-- An overlapped LISTEN entry whose window opens. -/
theorem witness_lapped : (wLapped.airOf 0).lapped = [listenA] ∧ (wLapped.airOf 0).listen = none ∧
    listenA.opn ≤ (wLapped.at 2100000).dt ∧ radioOff wLapped 0 = false ∧ driftOn (regsOf [(Reg.airAirCtrl 0, 1)] wLapped) 0 = true ∧
    listenA.sta < 4096 := by decide +kernel
/-! ### Stations and links -/

/-- Staged words of an entry of KIND 0 on Radio H with AID 5 and an address, and the same entry installed at index 9. -/
def stageA : List (Nat × Nat) := [(Reg.staStaStage 0, 1 + 8 + 65536 * 5), (Reg.staStaStage 1, 0x33445566), (Reg.staStaStage 2, 0x1122)]
def entryA : List Word := [BitVec.ofNat 32 (1 + 8 + 64 + 65536 * 5), 0x33445566, 0x1122, 0, 0, 0, 0, 0, 0, 0, 0, 0]
def withSta (l : List (Nat × List Word)) (s : State) : State :=
  { s.setNat Reg.staStaStat l.length with sta := { s.sta with entries := l } }
def wStage : State := rst stageA
def wStageBad : State := rst [(Reg.staStaStage 0, 1)]
def wStageClash : State := withSta [(3, entryA)] (rst stageA)
def wStageSame : State := withSta [(9, entryA)] (rst stageA)
def wStageMove : State := withSta [(9, entryA.set 1 7)] (rst stageA)
def wStageTwice : State := let s := rst stageA
  { s with sta := { s.sta with index := (addrPlaces s 0 0x112233445566).map (fun k => (k, some (7, 4))) |>.eraseDups } }
def wKeyPair : State := withSta [(9, entryA)] (rst [(Reg.staKeyCtrl, 9 + 2 ^ 18), (Reg.staKeyData 0, 77), (Reg.staKeyPnLo, 5)])
def wKeyGroup : State := rst [(Reg.staKeyCtrl, 1 + 2 ^ 12 + 2 ^ 15 + 2 ^ 18)]
def wKeyBad : State := rst [(Reg.staKeyCtrl, 9 + 2 ^ 18)]

theorem witness_sta : (∀ s ∈ [State.reset, wStage, wStageBad, wStageClash, wStageSame, wStageMove, wStageTwice],
      accepts s 0 Reg.staStaCmd true = true ∧ s.bit Reg.staStaCmdStat 0 = false) ∧
    badField (fun k => wStage.regN (Reg.staStaStage k)) = false ∧ badField (fun k => wStageBad.regN (Reg.staStaStage k)) = true ∧
    aidClash wStage 9 (fun k => wStage.regN (Reg.staStaStage k)) = false ∧
    aidClash wStageClash 9 (fun k => wStageClash.regN (Reg.staStaStage k)) = true ∧
    staValid wStageSame 9 = true ∧ sameIdentity wStageSame 9 (fun k => wStageSame.regN (Reg.staStaStage k)) = true ∧
    staValid wStageMove 9 = true ∧ sameIdentity wStageMove 9 (fun k => wStageMove.regN (Reg.staStaStage k)) = false ∧
    (indexAll (fun k => wStageMove.regN (Reg.staStaStage k)) 9 [0] (removeEntry (wStageMove.at 0) 9)).1 = 0 ∧
    (indexAll (fun k => wStage.regN (Reg.staStaStage k)) 9 [0] (removeEntry (wStage.at 0) 9)).1 = 0 ∧
    entryRadios (fun k => wStage.regN (Reg.staStaStage k)) = [0] ∧
    (indexAll (fun k => wStageTwice.regN (Reg.staStaStage k)) 9 [0] (removeEntry (wStageTwice.at 0) 9)).1 = 2 := by decide +kernel

theorem witness_key : (∀ s ∈ [wKeyPair, wKeyGroup, wKeyBad], accepts s 0 Reg.staKeyCmd true = true ∧ s.bit Reg.staKeyStat 0 = false) ∧
    keyResult wKeyPair false false 9 0 1 = 0 ∧ keyResult wKeyGroup true false 1 1 1 = 0 ∧ keyResult wKeyBad false false 9 0 1 = 3 := by
  decide +kernel

/-- A data MPDU held for TID 0 of entry 9, with a hole before it; and MPDUs to entry 9 on the air of Radio H. -/
def mpduA : Mpdu :=
  { fcsOk := true, user := 0, kind := .data, ra := 0, ta := 0x112233445566, a3 := 0, a4 := 0, toDs := true, fromDs := false, qos := true, tid := 0, sn := 12, fragment := false,
    retry := false, pm := false, prot := false, keyId := 0, pn := 0, micOk := false, amsdu := false,
    noAck := false, durationNs := 0, queueSize := none, payload := List.replicate 20 1 }
def heldA : Held := { m := mpduA, x := 0, ts := 0, rssi := 0, since := 0, cells := [] }
def wHold : State := let s := withSta [(9, entryA)] State.reset
  { s with sta := { s.sta with spaces := [(144, { ws := some 10, got := [12], held := [heldA] })] } }
def txA (tries : Nat) : TxMpdu := { sta := 9, space := 0, sn := 1, kid := none, pn := 0, info := {}, data := [], tries := tries }
def wOnAir : State := let s := withSta [(9, entryA)] (rst [(Reg.staRetryLim, 4), (Reg.staLinkFail, 1)])
  { s.setRadio 0 { await := [9] } with sta := { s.sta with sent := [(0, [txA 1, txA 4])] } }
def wOnAirLate : State := wOnAir.setRadio 0 { await := [9], rxDone := 5 }
def wOnAirSoon : State := wOnAir.setRadio 0 { await := [9], awaitTo := 50 }

theorem witness_timeouts : (spaceOf wHold 9 0).held.mergeSort (fun h k => decide (h.since ≤ k.since)) = [heldA] ∧
    heldA.since + 1000000 * staFld wHold 9 8 24 8 ≤ (wHold.at 0).dt ∧ (spaceOf wHold 9 0).ws = some 10 ∧
    snDist 10 12 < 2048 ∧ (spaceOf wHold 9 0).held.all (fun k => decide (k.x < 3)) = true ∧
    (∀ s ∈ [wOnAir, wOnAirLate], (s.radio 0).await.contains 9 = true ∧ (s.radio 0).awaitTo ≤ (s.at 0).dt ∧ receiving s 0 = false) ∧
    ppduSince wOnAir 0 = false ∧ ppduSince wOnAirLate 0 = true ∧ (wOnAirSoon.at 0).dt < (wOnAirSoon.radio 0).awaitTo ∧
    staValid wOnAir 9 = true ∧ staKind wOnAir 9 < 2 ∧ max 1 (wOnAir.fld Reg.staLinkFail 0 8) ≤ min 255 (staFld wOnAir 9 11 0 8 + 1) := by
  decide +kernel

/-- A parent at index 9 on Radio H: not received at its TBTT, missed once, and missed for the third time; and a loss declared. -/
def entryP : List Word := [BitVec.ofNat 32 (1 + 2 * 2 + 8 + 64), 0, 0, 0, 0, 0, 0, 0, 0, 0, 0, 0]
def withParent (miss : Nat) (rx : Option Nat) : State :=
  let s := withSta [(9, entryP)] (rst [(Reg.staMeshCtrl, 1 + 65536 * 9), (Reg.staParentStat 0, miss)])
  let s := { s with sta := { s.sta with parents := [(0, some { offset := 0, interval := 100, tbtt := 1000 })] } }
  s.setRadio 0 { s.radio 0 with rxFrom := rx }
def wSkip : State := withParent 0 none
def wMiss : State := withParent 0 (some 0)
def wMissThird : State := withParent 2 (some 0)
def wLost : State := regsOf [(Reg.staLossState, 0x1F), (Reg.staParentStat 0, 0x10)] (withParent 3 none)
def wUpAgain : State := let s := rst [(Reg.staLossState, 1)]
  { s with sta := { s.sta with ulUp := [(0, some 0)], fbDue := true } }

theorem witness_losses : (∀ s ∈ [wSkip, wMiss, wMissThird], meshParent s = some 9 ∧ (parentLink s 0).isSome = true ∧ staLink s 9 0 = true) ∧
    parentDt { offset := 0, interval := 100, tbtt := 1000 } (1000 + wMiss.fld Reg.staPbcnLate 0 16) < ((wMiss.at 2000000000).dt : Int) ∧
    wasReceiving wSkip 0 1000000 = false ∧ wasReceiving wMiss 0 1000000 = true ∧ wMissThird.fld (parentStat 0) 0 2 = 2 ∧
    accepts wLost 0 Reg.staLossState true = true ∧ wLost.bit Reg.staLossState 2 = true ∧ accepts wLost 0 Reg.staLossSw true = true ∧
    bankGet (fun _ => none) wUpAgain.sta.ulUp 0 = some 0 ∧ wUpAgain.bit Reg.staLossState 0 = true ∧
    1000000 * max 1 (wUpAgain.fld Reg.staRestore 0 16) ≤ (wUpAgain.at 3000000000000).dt ∧ wUpAgain.sta.fbDue = true := by decide +kernel

/-! ### Radio control -/

def wSynOff : State := regsOf [(Reg.rdRdStat 0, 0)] airOn
def wSynWarm : State := regsOf [(Reg.rdRdStat 0, 1)] airOn
def wSynSettle : State := rst [(Reg.rdRdStat 0, 2)]
def running (st : Nat) (p : Option (List PlanPpdu)) (s : State) : State :=
  let s := s.setFld (Reg.rdRdStat 0) 4 3 st
  s.setRadio 0 { s.radio 0 with run := p.map (fun l => { kind := .edca, air := airA, start := 1500000, limit := 2000000, rest := l }) }
def ppduA : List PlanPpdu := [⟨0, 100000⟩]
def wSynHold : State := running 1 (some ppduA) (rst [(Reg.rdRdStat 0, 2)])
def wSynLocked : State := regsOf [(Reg.rdRdStat 0, 0x3003)] airOn
def wSynOn : State := running 4 (some ppduA) (rst [(Reg.rdRdStat 0, 3)])
def wSynFault : State := rst [(Reg.rdRdStat 0, 5)]

theorem witness_syn : (∀ s ∈ [wSynOff, wSynWarm, wSynLocked], tuneDue (s.at 4980000) 0 0 = true) ∧ synState wSynOff 0 = 0 ∧ synState wSynWarm 0 = 1 ∧
    8000 ≤ (wSynWarm.at 1000000).dt ∧ (∀ s ∈ [wSynSettle, wSynHold], synState s 0 = 2) ∧ 100000 ≤ (wSynSettle.at 1000000).dt ∧
    (∀ s ∈ [wSynLocked, wSynOn], synState s 0 = 3) ∧ radioChan wSynLocked 0 ≠ 0 ∧ txState wSynOn 0 = 4 ∧
    (wSynOn.radio 0).run ≠ none ∧ (wSynSettle.airOf 0).play = none ∧ (wSynHold.radio 0).run ≠ none ∧ synState wSynFault 0 = 5 ∧ txState wSynHold 0 = 1 := by decide +kernel

/-- Calibration steps: a chain's last one, a background step, one of a step set, and the last of a mandatory run. -/
def imgCal : List (Nat × Nat × Nat) := imgAir ++ [(0x0A, 2, 4), (0x70, 1, 17), (0x74, 4, 0x380), (0x380, 4, 0x101)]
def calOn : State := withImg imgCal (rst [(Reg.rdRdStat 0, 3), (Reg.rdChainEn 0, 1)])
def stepping (c : CalStep) (s : State) : State := s.setRadio 0 { s.radio 0 with cal := some c }
def wCalLast : State := stepping ⟨0, 0, true, 4000, false, false, 1, 0⟩ (calOn.setFld (Reg.rdRdStat 0) 0 3 4)
def wCalBg : State := stepping ⟨0, 1, true, 4000, true, false, 1, 0⟩ (setRdChain calOn 0 1 { blind := true })
def wCalSet : State := stepping ⟨0, 0, false, 4000, false, false, 0, 0⟩ (playing 0 5 6 0 calOn)
def wCalMand : State := let s := stepping ⟨3, 3, true, 4000, false, true, 15, 0⟩ (playing 0 5 6 1 (calOn.setNat (Reg.rdCalStat 0) 1))
  s.setRadio 0 { s.radio 0 with mand := [(0, 8)], mandPos := [(3, 15)], calCeil := [(0, some (chanCeiling s 0 0))] }
def wCalSetEnd : State := stepping ⟨0, 0, true, 4000, false, false, 1, 0⟩ (playing 0 5 6 0 calOn)
def wCalMandMore : State := stepping ⟨3, 1, false, 4000, false, true, 6, 0⟩ (playing 0 5 6 1 (calOn.setNat (Reg.rdCalStat 0) 1))
def wCalBgGo : State := regsOf [(Reg.rdBgCal 0, 1)] (playing 0 1 4 0 calOn)
def wTemp : State := let s := rst [(Reg.rdCalStat 0, 0x10000)]
  s.setRadio 0 { s.radio 0 with calTemp := [(0, some 0)] }

theorem witness_cal : (∀ s ∈ [wCalLast, wCalBg, wCalSet, wCalMand, wCalMandMore], (s.radio 0).cal.any (fun c =>
      decide (c.stop ≤ (s.at 1000000).dt + if synState s 0 = 4 then 4000 else 0)) = true) ∧
    (wCalLast.airOf 0).play = none ∧ synState wCalLast 0 = 4 ∧ (setSteps wCalSet 0 0).length = 2 ∧ (setSteps wCalSetEnd 0 0).length = 2 ∧
    (kindSteps 0 3).length = 16 ∧ bankGet (fun _ => none) (wCalMand.radio 0).calCeil 0 = some (chanCeiling wCalMand 0 0) ∧
    (let t := wCalBgGo.at 1400000
     (t.airOf 0).play.any (fun p => decide (p.ty = 4) && !p.forfeit && decide (t.dt + 4000 ≤ p.stop)) = true ∧
     (enabledChains t 0)[(t.radio 0).bgPos / 2 % max 1 (enabledChains t 0).length]? = some 0 ∧ t.bit (Reg.rdBgCal 0) 0 = true ∧
     (t.radio 0).cal = none ∧ synState t 0 = 3 ∧ txState t 0 = 0 ∧ radioReady t 0 = false ∧
     (mediumIdleFrom t 0 0).any (fun a => decide (a + 1000 * t.fld (Reg.rdBgCal 0) 16 16 ≤ t.dt)) = true) ∧
    islUp wTemp 8 = true ∧ wTemp.bit (Reg.rdCalStat 0) 16 = true ∧ mandKinds wTemp 0 0 = 0 ∧ 8 < (signed 12 100 - 0).natAbs ∧
    wTemp.bit (Reg.rdCalStat 0) 17 = false := by decide +kernel

/-- A transmit path in each of its states within a CONTEND entry, its PPDU starting at 1.5 ms. -/
def wTxHold : State := running 1 (some ppduA) (playing 0 1 4 0 airOn)
def wTxLead : State := running 3 (some ppduA) (playing 0 1 4 0 airOn)
def wTxOn : State := running 4 (some ppduA) (playing 0 1 4 0 airOn)
def wTxTail : State := running 5 (some []) (playing 0 1 4 0 airOn)
def wTxTailMore : State := running 5 (some ppduA) (playing 0 1 4 0 airOn)

def wTxAnswer : State := wTxOn.setRadio 0 { wTxOn.radio 0 with air := some { frame := .beacon [], format := 0, bw := 0, dup := false, rate := 12, mcs := 0, nss := 0, pri := 0, pri1m := false, punct := 0, win := 0, power := [], dpd := true, start := 0, len := 100000 } }

theorem witness_tx : (∀ s ∈ [wTxHold, wTxLead, wTxOn, wTxTail, wTxTailMore], (s.radio 0).run ≠ none) ∧ txState wTxHold 0 = 1 ∧
    sameCycle (wTxHold.at 1000000) = [] ∧
    wTxHold.fld (Reg.rdHoldNs 0) 0 16 ≤ (wTxHold.at 1000000).dt ∧ txState wTxLead 0 = 3 ∧ 2 ≤ synState wTxLead 0 ∧ rxState wTxLead 0 ≠ 3 ∧
    txT0 wTxLead 0 1500000 ≤ (wTxLead.at 2000000).dt ∧ (let t := wTxLead.at 2000000
      pinBlanks t 0 = false ∧ partnerReceives t 0 = false ∧ sigSoon t 0 = false ∧ pinSoon t 0 = false) ∧
    txState wTxOn 0 = 4 ∧ maxTxUs wTxOn (curImg wTxOn) 0 (radioChan wTxOn 0) = some 4000 ∧
    sameCycle (wTxOn.at 2000000000) = [] ∧
    1000 * 4000 ≤ (wTxOn.at 2000000000).dt ∧ txState wTxTail 0 = 5 ∧ 1600 ≤ (wTxTail.at 1000000).dt := by decide +kernel

/-- A blanking plan of one window that names Radio H, with pin 2 routed to it in ABORT mode; and a chain of Radio L to be written. -/
def imgBlank : List (Nat × Nat × Nat) := imgAir ++ [(0x0A, 2, 4), (0x70, 1, 18), (0x72, 2, 1), (0x74, 4, 0x400), (0x428, 4, 0x11),
  (0x440, 4, 1), (0x444, 4, 1000000), (0x448, 4, 1000000), (0x44C, 4, 1)]
def blankOn : State := withImg imgBlank (rst [(Reg.rdRdStat 0, 3), (Reg.rdRdCtrl 0, 1)])
def wBlankLead : State := running 3 (some ppduA) (playing 0 1 4 0 blankOn)
def wBlankOn : State := running 4 (some ppduA) (playing 0 1 4 0 blankOn)
def wBlankHeld : State := wBlankLead.setBit (Reg.rdBlankStat 0) 2 true
def wTuner : State := setRdChain State.reset 2 1 { pend := true, searching := true }

theorem witness_blank : pinRouted wBlankLead 2 0 = true ∧ pinRouted wBlankLead 1 0 = false ∧ nbits (pinWord wBlankOn 2) 4 1 = 1 ∧
    txState wBlankLead 0 = 3 ∧ (wBlankLead.radio 0).run ≠ none ∧ txState wBlankOn 0 = 4 ∧ (curSlot wBlankLead).isSome = true ∧
    wBlankLead.bit (Reg.rdBlankStat 0) 2 = false ∧ wBlankHeld.bit (Reg.rdBlankStat 0) 2 = true ∧ pinBlanks (wBlankHeld.at 2000000) 0 = true ∧
    txT0 wBlankHeld 0 1500000 ≤ (wBlankHeld.at 2000000).dt ∧ 100 + wBlankHeld.fld (Reg.rdBlankCtrl 0) 0 16 ≤ 2000000 ∧
    (iTbl (curImg wBlankLead) 0x12).count = 1 ∧ blankWindow (curImg wBlankLead) 0 0 0 = true ∧ blankWindow (curImg wBlankLead) 1 0 0 = false ∧
    (rdChain wTuner 2 1).pend = true ∧ islUp wTuner 10 = true ∧ receiving wTuner 2 = false ∧ txState wTuner 2 = 0 ∧ (wTuner.radio 2).tun = none ∧
    accepts wTuner 0 (Reg.rdTuner 2 1) true = true ∧ accepts wTuner 0 (Reg.rdTuner 0 1) true = true := by decide +kernel
/-! ### The modems -/

/-- Radio H in LISTEN with its modem in each state. -/
def sigA : SigInfo := ⟨1, 0, 0, 0, .bcc, false, false, 100000⟩
def rxRunA : RxRun := { since := 0, ts := 5000, stop := 900000, thresh := 0, ctrl := 3, sig := some sigA }
def modem (st : Nat) : State :=
  let s := rst [(Reg.rdRdStat 0, 0x103), (Reg.mdmStat 0, st)]
  s.setRadio 0 { s.radio 0 with rxFrom := some 0, rx := if st = 0 ∨ st = 5 then none else some rxRunA,
                                report := [1, 2, 3, 4, 5] }
def wMdmOff : State := modem 5
def wMdmIdle : State := modem 0
def wMdmDetect : State := modem 1
def wMdmSig : State := modem 2
def wMdmUnconf : State := modem 3
def wMdmPeer : State := let s := modem 4
  let s := { s with sta := { s.sta with index := [((addrPlaces s 0 0x112233445566).headD 0, some (0x112233445566, 9))],
                                        entries := [(9, entryA)] } }
  s.setNat (Reg.rdChainEn 0) 3

def wMdmKept : State := let s := modem 0
  s.setRadio 0 { s.radio 0 with kept := some sigA }
def wMdmFresh : State := let s := modem 3
  s.setRadio 0 { s.radio 0 with rx := some { rxRunA with ctrl := 0 } }

theorem witness_modem : (∀ s ∈ [wMdmOff, wMdmIdle, wMdmDetect, wMdmSig, wMdmUnconf], listens (s.at 20000) 0 = true) ∧
    rxState wMdmOff 0 = 1 ∧ mdmState wMdmOff 0 = 5 ∧ (wMdmOff.radio 0).armAt ≤ (wMdmOff.at 5000).dt ∧
    mdmState wMdmIdle 0 = 0 ∧ detected (wMdmIdle.at 20000) 0 18000 0x40 = true ∧ detected (wMdmIdle.at 20000) 0 19000 0x40 = false ∧
    (∀ s ∈ [wMdmDetect, wMdmSig, wMdmUnconf, wMdmPeer], (s.radio 0).rx = some rxRunA) ∧
    mdmState wMdmDetect 0 = 1 ∧ 16000 ≤ (wMdmDetect.at 20000).dt ∧ mdmState wMdmSig 0 = 2 ∧ supported wMdmSig 0 sigA = true ∧
    supported wMdmSig 0 { sigA with excluded := true } = false ∧ mdmState wMdmUnconf 0 = 3 ∧
    (∀ s ∈ [wMdmUnconf, wMdmFresh], freshFirst (s.at 20000) 0 = s.at 20000) ∧
    freshKind 3 rxRunA 0x40 0 = some (Reg.mdmFalseSig 0) ∧ freshKind 3 { rxRunA with ctrl := 0 } 0x40 0 = none ∧
    mdmState wMdmPeer 0 = 4 ∧ rxFirst (wMdmPeer.at 1000000) 0 = wMdmPeer.at 1000000 ∧ rxRunA.stop ≤ (wMdmPeer.at 1000000).dt ∧
    lookupTa wMdmPeer 0 0x112233445566 = some 9 ∧ rxEnding (rxFirst (wMdmKept.at 1000000) 0) 0 = none ∧
    ((rxFirst (wMdmKept.at 1000000) 0).radio 0).kept = some sigA ∧
    accepts wMdmIdle 0 (Reg.mdmLastQ0 0) false = true ∧ accepts (wMdmIdle.setNat Reg.secDbgStat 1) 10 (Reg.mdmLastQ0 0) false = true ∧
    (wMdmIdle.radio 0).report.length = 5 ∧ islUp wMdmPeer 8 = true ∧ enabledChains wMdmPeer 0 = [0, 1] := by decide +kernel
/-! ### Stall ports -/

/-- Stall port 3 with its link up, negotiating, with a mode in use, measuring, and powered. -/
def wLink : State := rst [(Reg.spPhyStat 3, 3), (Reg.spPhyCtrl 3, 1)]
def wNego : State := rst [(Reg.spPhyCtrl 3, 0x21), (Reg.spAnAdv 3, 3)]
def wModeUsed : State := rst [(Reg.spPhyCtrl 3, 1), (Reg.spPhyStat 3, 2)]
def wTdr : State := rst [(Reg.spTdrStat 3, 1)]
def wTdrHit : State := (rst [(Reg.spTdrStat 3, 1)]).setPhy 3 { trigEnd := 5 }
def wTdrThird : State := (rst [(Reg.spTdrStat 3, 1)]).setPhy 3 { tdrHits := 2, trigEnd := 5 }
def wPowered : State := (rst [(Reg.spPodlStat 3, 4)]).setPhy 3 { en := true, outs := [(0, true, false)] }

theorem witness_phy : (∀ s ∈ [wLink, wPowered, wModeUsed], accepts s 0 (Reg.spPhyCtrl 3) true = true ∧ octetOn s 3 = true ∧
      accepts s 0 (Reg.spTdrCmd 3) true = true ∧ s.bit (Reg.spTdrStat 3) 0 = false) ∧ spLink wLink 3 = true ∧
    octetOn wNego 3 = true ∧ phyMode wNego 3 = 1 ∧ wNego.bit (Reg.spPhyCtrl 3) 5 = true ∧ wNego.bit (Reg.spPhyStat 3) 5 = false ∧
    anAgreed wNego 3 1 true 3 = true ∧ anAgreed wNego 3 2 false 3 = false ∧ spDownNs wLink 3 ≤ 70000000 ∧
    1000000 * max 1 (wLink.fld (Reg.spNfCtrl 3) 0 16) ≤ (wLink.at 100000000000).dt ∧
    spLink wModeUsed 3 = false ∧ wModeUsed.fld (Reg.spPhyStat 3) 1 2 = 1 ∧ wModeUsed.bit (Reg.spPhyCtrl 3) 6 = false ∧
    (∀ s ∈ [wTdr, wTdrHit, wTdrThird], s.bit (Reg.spTdrStat 3) 0 = true) ∧ tdrHit (wTdr.phy 3) = false ∧ tdrHit (wTdrHit.phy 3) = true ∧
    (wTdrHit.phy 3).tdrHits = 0 ∧ tdrHit (wTdrThird.phy 3) = true ∧ (wTdrThird.phy 3).tdrHits = 2 ∧ (wPowered.phy 3).en = true := by decide +kernel

/-- Fence pulses at stall port 3: pin 2 and the slicer selected, a trigger under way, STUCK, and a locked period before and in its window. -/
def wFence : State := rst [(Reg.spFenceCfg 3, 0x34)]
def wTrig : State := (rst [(Reg.spFenceCfg 3, 0x34), (Reg.spPhyStat 3, 0x40)]).setPhy 3 { trig := some 1000, src := [2] }
def wStuck : State := (rst [(Reg.spFenceStat 3, 4)]).setPhy 3 { ign := [2] }
def perA : FencePer := { exp := 0, mean := 1000000, last := 1000000 }
def wPred : State := (rst [(Reg.spFenceCfg 3, 0x20)]).setPhy 3 { per := some perA }
def wPredWin : State := (rst [(Reg.spFenceCfg 3, 0x20)]).setPhy 3 { per := some perA, win := true }
def wPredMiss : State := (rst [(Reg.spFenceCfg 3, 0x20)]).setPhy 3 { per := some { perA with misses := 1 }, win := true }

theorem witness_fence : wFence.bit (Reg.spFenceCfg 3) 2 = true ∧ wFence.bit (Reg.spFenceCfg 3) 4 = true ∧ octetOn wFence 3 = true ∧
    (wFence.phy 3).trig = none ∧ (wTrig.phy 3).trig = some 1000 ∧
    (wTrig.phy 3).srcAt ≤ 1000 ∧ wTrig.bit (Reg.spPhyStat 3) 6 = true ∧
    (wTrig.bit (Reg.spAdaptCtrl 3) 0 || (wTrig.phy 3).win || (wTrig.phy 3).pwr.isSome) = false ∧
    (wFence.fld (Reg.spFenceCfg 3) 8 8 : Rat) < 256 * 1 ∧ 256 * 0 ≤ (wFence.fld (Reg.spFenceCfg 3) 8 8 : Rat) ∧
    (wStuck.phy 3).stuckAt ≤ 5 ∧ 5 + 1000000 ≤ (wStuck.at 2000000).dt ∧
    1000 + 1000 * wTrig.fld (Reg.spFenceTim 3) 0 16 ≤ (wTrig.at 2000000000).dt ∧
    1000 + 1000000 * max 1 (wTrig.fld (Reg.spAdaptCtrl 3) 16 16) ≤ (wTrig.at 3000000000000).dt ∧ wStuck.bit (Reg.spFenceStat 3) 2 = true ∧
    (wPred.phy 3).per = some perA ∧ 2000000 ≤ (wPred.at 2100000).dt + 1000 * wPred.fld (Reg.spFenceTim 3) 16 16 ∧
    (wPred.at 2100000).dt < 2000000 + 1000 * wPred.fld (Reg.spFenceTim 3) 16 16 ∧ (wPredMiss.phy 3).win = true ∧
    2000000 + 1000 * wPredWin.fld (Reg.spFenceTim 3) 16 16 ≤ (wPredWin.at 3000500).dt := by decide +kernel

/-- The PSE of stall port 3 in each state. -/
def pse (st : Nat) : State := (rst [(Reg.spPodlStat 3, st), (Reg.spPodlCtrl 3, 0x200001)]).setPhy 3 { pwr := some 500, disAt := some 0, dis := true }
def wPseOff : State := pse 0
def wPseDetect : State := pse 1
def wPseClass : State := pse 2
def wPseUp : State := pse 3
def wPseOn : State := pse 4
def wPseFault : State := pse 5
def wPseWait : State := (pse 1).setPhy 3 { wait := true }
/-- The expander bus after a frame that captured FLT or PG of port 3. -/
def podlBus (flt pg : BitVec 64) (s : State) : State := { s with podl := { s.podl with ldAt := some 0, flt := flt, pg := pg } }
def wBusUp : State := podlBus 0 8 wPseUp
def wBusFlt : State := podlBus 8 8 wPseOn
def wBusOn : State := podlBus 0 8 wPseOn

theorem witness_pse : (∀ s ∈ [wPseOff, wPseDetect, wPseClass, wPseUp, wPseOn, wPseFault], accepts s 0 (Reg.spPodlCtrl 3) true = true ∧
      octetUp s 3 = true ∧ (s.phy 3).wait = false ∧ (s.phy 3).pwr = some 500 ∧ (s.phy 3).disAt = some 0) ∧
    [wPseOff, wPseDetect, wPseClass, wPseUp, wPseOn, wPseFault].map (fun s => pseState s 3) = [0, 1, 2, 3, 4, 5] ∧
    pseState wPseWait 3 = 1 ∧ (wPseWait.phy 3).wait = true ∧ (∀ s ∈ [wBusUp, wBusFlt, wBusOn], podlMay (s.at 50000) = true ∧
      podlMay (s.at 10) = false ∧ s.podl.ldAt ≠ none ∧ octetUp s 3 = true) ∧
    wPseClass.bit (Reg.spPodlCtrl 3) 21 = true ∧ wPseClass.bit (Reg.spPodlCtrl 3) 20 = false ∧
    1000000000 ≤ (wPseUp.at 3000000000000).dt ∧ wPseFault.bit (Reg.spPodlCtrl 3) 0 = true := by decide +kernel

/-! ### The MACs -/

/-- Stall port 3 and uplink 0 with their links up, sending and receiving. -/
def upList : List (Nat × Nat) :=
  [(Reg.spPhyStat 3, 3), (Reg.spPhyCtrl 3, 1), (Reg.spMacCtrl 3, 3), (Reg.ulUlCtrl 0, 1), (Reg.ulUlStat 0, 1), (Reg.ulMacCtrl 0, 3),
   (Reg.spRxMaxlen 3, 1522), (Reg.ulRxMaxlen 0, 1522)]
def wMacUp : State := rst upList

/-- Words of a packet for stall port 3, and frames in hand at it. -/
def outWord (last abort : Bool) : PWord := ⟨List.replicate 64 7, last, abort, true, { egSub := 3, len := 64 }⟩
def macWith (x : PortState) : State := wMacUp.setMac 3 x
def frameOut : TxFrame := { data := List.replicate 64 7, whole := true }
def timedOut : TxFrame := { info := { tsReq := true, cookie := 77 }, data := List.replicate 64 7, whole := true }
def wTxHead : State := macWith { buf := [outWord false false, outWord true false] }
def wTxBad : State := macWith { buf := [outWord true true] }
def wTxDown : State := (rst [(Reg.spMacCtrl 3, 3)]).setMac 3 { buf := [outWord true false] }
def wTxHeld : State := (rst [(Reg.spMacCtrl 3, 3), (Reg.spPhyCtrl 3, 0x80)]).setMac 3 { buf := [outWord true false] }
def wTxOut : State := macWith { tx := some frameOut }
def wTxTimed : State := macWith { tx := some timedOut }
def wTxFull : State := macWith { tx := some timedOut, tsq := List.replicate 16 (5, 6) }
def wTxAbort : State := macWith { tx := some { timedOut with aborted := true } }
def wTxPart : State := macWith { tx := some { frameOut with whole := false } }
def wUlPart : State := wMacUp.setMac 64 { tx := some { frameOut with whole := false }, tsq := [(9, 2 ^ 33 + 5)] }
def wUlFresh : State := (wMacUp.setMac 64 { tsq := [(9, 5)], pushAt := some 7 }).at 7
def dirA : DirFrame := { segs := [List.replicate 64 7], tsReq := true, cookie := 12, clear := false, count := 1 }
def wUlRing : State := wMacUp.setUplink 0 { dir := some dirA }

theorem witness_mac : (∀ p ∈ [3, 64], islUp wMacUp (portIsland p) = true ∧ portLink wMacUp p = true ∧ maySend wMacUp p = true ∧
      wMacUp.bit (portReg p Reg.spMacCtrl Reg.ulMacCtrl) 0 = true ∧ (wMacUp.mac p).rxq = [] ∧ min 60 (maxLen wMacUp p + 1) ≤ rxBuffer p) ∧
    (∀ s ∈ [wTxHead, wTxBad, wTxDown, wTxHeld, wTxOut, wTxFull, wTxAbort, wTxPart], islUp s 11 = true ∧ replaying s = false) ∧
    (splitPacket (txQueue wTxHead 3)).isSome = true ∧ maySend wTxDown 3 = false ∧ holds wTxDown 3 = false ∧ holds wTxHeld 3 = true ∧
    (splitPacket (txQueue wTxBad 3)).any (fun q => q.1.getLast?.any (·.abort)) = true ∧
    (wUlRing.uplink 0).dir = some dirA ∧ curSlot wUlRing = none ∧ maySend wUlRing 64 = true ∧
    (wTxFull.mac 3).tsq.length = 16 ∧ txQueue wTxPart 3 = [] ∧
    ([wTxOut, wTxTimed, wTxFull, wTxAbort].all fun s => let u := s.at 100000; (s.mac 3).idleAt = 0 && (u.mac 3).tx.any fun f =>
      decide (txEndAt u 3 f (wireBytes u 3 f f.aborted (txStamp u 3 f 0)).1.length ≤ u.dt)) = true ∧ popComes (wTxFull.at 100000) 3 = false ∧
    (wTxPart.mac 3).tx.any (fun f => decide (txEndAt wTxPart 3 f f.data.length ≤ 100000)) = true ∧
    (wUlPart.mac 64).pushAt ≠ some (wUlPart.at 7).dt ∧ (wUlFresh.mac 64).pushAt = some (wUlFresh.at 7).dt ∧ (wUlFresh.mac 64).tsq.length = 1 ∧
    accepts wUlFresh 0 (portReg 64 Reg.spTsqPop Reg.ulTsqPop) false = true ∧
    accepts wUlPart 0 (portReg 64 Reg.spTsqPop Reg.ulTsqPop) false = true ∧ (wUlPart.mac 64).tsq = [(9, 2 ^ 33 + 5)] := by decide +kernel

/-- Uplink 0: its SGMII mode; associations to install and remove; a transmit frame of one descriptor whose checks pass, and one
of length 0. -/
def wSgmii : State := rst [(Reg.ulUlCtrl 0, 4)]
def saOf (ctrl : Nat) : State := rst [(Reg.ulSecSaCtrl 0, ctrl), (Reg.ulSecSaPn 0, 9), (Reg.ulSecKeyData 0 0, 5)]
def wSaTx : State := saOf 1
def wSaRx : State := saOf 0x16
def wSaGone : State := saOf 0x21
def wSaRxGone : State := saOf 0x36
def wSaUsed : State := (saOf 0x20).setUplink 0 { txSa := [(0, some ⟨[], 1⟩)] }
def ulRing (len : Nat) : State := (rst [(Reg.ulDirCtrl 0, 1), (Reg.ulTxRingHi 0, 8), (Reg.ulTxRingSize 0, 8), (Reg.ulTxTail 0, 1),
    (Reg.ulTxBufLen 0, 2048), (Reg.ulRxMaxlen 0, 1522), (Reg.mcMcStat 0, 3), (Reg.mcCapMb 0, 64)]).dramWrite 0
  (leBytes 4 0x1000 ++ leBytes 4 8 ++ leBytes 4 (0x80010000 + len) ++ leBytes 4 0)
def wUlFetch : State := ulRing 100
def wUlEmpty : State := ulRing 0

def wSgmiiDown : State := wSgmii.setUplink 0 { lwDown := some 0 }

theorem witness_uplink : ulLost (wMacUp.at 9) 0 .blockLock 100000 = true ∧ ulMode wMacUp 0 = 1 ∧ (wSgmii.uplink 0).lwDown = none ∧
    ulLost (wSgmiiDown.at 100000) 0 .linkWord 0 = true ∧
    islPowered wMacUp 19 = true ∧ wMacUp.bit (Reg.ulUlStat 0) 0 = true ∧ wSgmii.bit (Reg.ulUlStat 0) 0 = false ∧
    ulMode wSgmii 0 = 4 ∧ (∀ s ∈ [wSaTx, wSaRx, wSaGone, wSaRxGone, wSaUsed], accepts s 0 (Reg.ulSecSaCmd 0) true = true) ∧
    [wSaTx, wSaRx, wSaGone, wSaRxGone, wSaUsed].map (fun s => s.fld (Reg.ulSecSaCtrl 0) 4 2) = [0, 1, 2, 3, 2] ∧
    wSaGone.fld (Reg.ulSecTxSa 0) 0 2 ≠ 1 ∧ (curSa wSaUsed 0).isSome = true ∧ accepts wMacUp 0 (Reg.ulTxTail 0) true = true ∧
    ((txFetch wUlFetch (ulTxRing wUlFetch 0) false (maxLen wUlFetch 64) false).map (·.2.1)) = some 0 ∧
    ((txFetch wUlFetch (ulTxRing wUlFetch 0) false (maxLen wUlFetch 64) true).map (·.2.1)) = some 8 ∧
    ((txFetch wUlEmpty (ulTxRing wUlEmpty 0) false (maxLen wUlEmpty 64) false).map (·.2.1)) = some 2 ∧
    islUp wUlFetch 19 = true ∧ wUlFetch.bit (Reg.ulDirCtrl 0) 0 = true ∧ (wUlFetch.uplink 0).dir = none := by decide +kernel
/-! ### DRAM -/

/-- Channel 0 in RUN with 64 MiB, and a request of a port at its pound's head. -/
def mcUp (l : List (Nat × Nat)) : State := rst ([(Reg.mcMcStat 0, 3), (Reg.mcCapMb 0, 64), (Reg.mcGeom 0, 8), (Reg.mcWqCtrl 0, 0x2030)] ++ l)
def reqHead (write : Bool) (addr : Nat) : PWord :=
  ⟨[BitVec.ofNat 8 (bnat write), 1, 0] ++ leBytes 5 addr ++ List.replicate 7 0xFF ++ [0x0F] ++ List.replicate 24 0, !write, false, true, {}⟩
def reqWrite (addr : Nat) : List PWord := [reqHead true addr, ⟨List.replicate 64 9, true, false, false, {}⟩]
def reqRead (addr : Nat) : List PWord := [reqHead false addr]
def reqIn (q : Nat) (ws : List PWord) (s : State) : State := s.setPound (36 + 2 * q) { s.pound (36 + 2 * q) with ready := ws }
def wReqWrite : State := reqIn 3 (reqWrite 0x800001000) (mcUp [])
def wReqRead : State := reqIn 3 (reqRead 0x800001000) (mcUp [])
def wReqRange : State := reqIn 3 (reqRead 0xA00001000) (mcUp [])
def chanWith (x : McChan) (l : List (Nat × Nat)) : State := (mcUp l).setChan 0 x
def wReqFwd : State := reqIn 3 (reqRead 0x800001000) (chanWith { wq := [{ line := 64, mask := fullMask }] } [])
def wReqPart : State := reqIn 3 (reqRead 0x800001000) (chanWith { wq := [{ line := 64, mask := 15 }] } [])
def lineA : DramLine := { id := 4, port := 3, idx := 0, write := false, rmw := false, report := false, line := 64, off := 0x1000, since := 0 }
def lineR : DramLine := { lineA with id := 5, port := 0, write := true, report := true }
def openA : DramOpen := { id := 4, port := 3, read := true, left := 1 }
def wQueued : State := chanWith { wq := [{ line := 64, mask := 15 }, { line := 65, mask := 15 }] } []
def wRush : State := chanWith { wq := [{ line := 65, mask := 15 }, { line := 64, mask := 15, rush := true }], lines := [lineA] } []
def wPending : State := chanWith { lines := [lineA, lineR] } []
def wReportOnly : State := chanWith { lines := [lineR] } []
def flightOf (bad : List Nat) : State :=
  let s := chanWith { flight := [lineA], bad := bad } []
  { s with mc := { s.mc with opens := [openA] } }
def wInFlight : State := flightOf []
def wBadLine : State := flightOf [64]
def wReportWait : State :=
  let s := chanWith { reportW := [lineR] } []
  { s with mc := { s.mc with opens := [{ openA with id := 5, port := 0, read := false }] } }

theorem witness_dram : (∀ s ∈ [wReqWrite, wReqRead, wReqRange, wReqFwd, wReqPart], rotPick 8 s.mc.rot (portAcceptable s) = some 3 ∧
      (readPacket s 42).isSome = true ∧ mcState s 0 ≠ 5 ∧ mcState s 1 ≠ 5) ∧
    (∀ s ∈ [wReqWrite, wReqRead], 0x1000 + 64 ≤ dramCap s ∧ (portReq s 3).map (fun r => (r.addr, r.lines)) = some (0x800001000, 1)) ∧
    (wReqFwd.chan 0).wq.find? (fun e => decide (e.line = (dramChan wReqFwd 0x1000).2 / 64)) = some { line := 64, mask := fullMask } ∧
    (∀ s ∈ [wQueued, wRush, wPending, wInFlight, wReportWait], mcRun s 0 = true ∧ (s.chan 0).alertAt = none) ∧
    (wRush.chan 0).wq.find? (·.rush) = some { line := 64, mask := 15, rush := true } ∧ issuePick (wPending.at 2000000) 0 = some lineA ∧
    lineAged (wPending.at 2000000) 0 lineA = true ∧ issuePick (wReportOnly.at 0) 0 = some lineR ∧ (wInFlight.chan 0).flight = [lineA] ∧
    lineBad (wBadLine.chan 0) lineA.line = true ∧ lineR.issued + alertWin wReportWait 0 ≤ (wReportWait.at 100).dt := by decide +kernel

/-- Channel 0 refreshed, with ports in panic and refreshes owed; scrubbing; an alert, one that repeats, and its rise; drift; self-refresh. -/
def panicL : List (Nat × Nat) := [(Reg.mcMcCtrl 0, 7), (Reg.mcPortCfg 0 2, 0)]
def wRefresh : State := mcUp []
def wPanic : State := mcUp panicL
def wOwed : State := chanWith { owed := (4, 0) } panicL
def wScrubs : State := mcUp [(Reg.mcMcCtrl 0, 5)]
def wScrubBad : State := chanWith { bad := [0] } [(Reg.mcMcCtrl 0, 5)]
def wAlertOnce : State := chanWith { lines := [lineA] } [(Reg.mcAlertWin 0, 20)]
def wAlertLast : State := chanWith { reissueAt := some 0, consec := 2, lines := [lineA] } [(Reg.mcAlertWin 0, 20), (Reg.mcReplayMax 0, 3)]
def wAlertLow : State :=
  let s := chanWith { alertAt := some 10, retry := [lineA, lineR] } [(Reg.mcAlertWin 0, 20)]
  { s with mc := { s.mc with opens := [{ openA with id := 5, port := 0, read := false }] } }
def wDrift : State := mcUp [(Reg.mcLaneDly 0 1, 0x100000), (Reg.mcDriftStat 0, 4)]
def wSelf : State := mcUp [(Reg.mcMcStat 0, 4), (Reg.mcSrCtrl 0, 1)]
def wSelfOver : State := mcUp [(Reg.mcMcStat 0, 4)]
def wSelfWant : State := chanWith { lines := [lineA] } [(Reg.mcSrCtrl 0, 1)]
def wP3 : State := mcUp [(Reg.aoPmStat, 3)]

theorem witness_channel : (∀ s ∈ [wRefresh, wPanic, wOwed], mcState s 0 = 3 ∧ 0 < s.fld (Reg.mcGeom 0) 3 2 ∧
      byRank (s.chan 0).refAt 0 + refInterval s 0 ≤ (s.at 1000000).dt) ∧ panicNow wRefresh 0 = false ∧ panicNow wPanic 0 = true ∧
    byRank (wOwed.chan 0).owed 0 = 4 ∧ (wRefresh.chan 0).zqAt + max 1 (wRefresh.fld (Reg.mcDriftCtrl 0) 0 16) * 1000000 ≤ (wRefresh.at (10 ^ 12)).dt ∧
    wScrubs.bit (Reg.mcMcCtrl 0) 2 = true ∧ scrubLines wScrubs 0 ≠ 0 ∧ lineBad (wScrubs.chan 0) 0 = false ∧ lineBad (wScrubBad.chan 0) 0 = true ∧
    (wScrubs.chan 0).scrubAt + scrubGap wScrubs 0 ≤ (wScrubs.at (10 ^ 15)).dt ∧ (wDrift.chan 0).driftAt + 1000000 ≤ (wDrift.at 1000000).dt ∧
    (wAlertLast.at 5).dt ≤ alertWin wAlertLast 0 ∧ max 1 (wAlertLast.fld (Reg.mcReplayMax 0) 0 4) ≤ (wAlertLast.chan 0).consec + 1 ∧
    (wAlertOnce.chan 0).alertAt = none ∧ (wAlertLow.chan 0).alertAt = some 10 ∧
    10 ≤ lineR.issued + alertWin wAlertLow 0 ∧ (wAlertLow.mc.opens.any fun o => decide (o.id = lineR.id) && decide (o.status ≠ 2)) = true ∧ mcRun wDrift 0 = true ∧
    accepts wDrift 0 (Reg.mcLaneDly 0 1) true = true ∧ mcState wSelf 0 = 4 ∧ wSelfOver.bit (Reg.mcSrCtrl 0) 0 = false ∧ inP3 wSelfOver = false ∧
    wSelfWant.bit (Reg.mcSrCtrl 0) 0 = true ∧ inP3 wP3 = true ∧ wP3.mc.lastReq + 100000 ≤ (wP3.at 1000000).dt ∧
    requestWaits wP3 = false := by decide +kernel

/-- Channel 0 through its states, and a training operation in progress. -/
def mcAt (st : Nat) : State := rst [(Reg.mcMcStat 0, st), (Reg.mcGeom 0, 8)]
def wMcReset : State := mcAt 0
def wMcBare : State := rst [(Reg.mcGeom 0, 0)]
def wMcInit : State := mcAt 1
def wMcTrain : State := mcAt 2
def wMcFail : State := mcAt 5
def wMcBusy : State := (rst [(Reg.mcMcStat 0, 2), (Reg.mcTrainStat 0, 1)]).setChan 0 { op := some 3 }

theorem witness_train : (∀ s ∈ [wMcReset, wMcBare, wMcInit, wMcTrain, wMcFail, wMcBusy, wRefresh], accepts s 0 (Reg.mcMcCtrl 0) true = true ∧
      accepts s 0 (Reg.mcTrainCmd 0) true = true) ∧ geomCap (wMcReset.reg (Reg.mcGeom 0)) ≠ 0 ∧ geomCap (wMcBare.reg (Reg.mcGeom 0)) = 0 ∧
    [wMcReset, wMcBare, wMcInit, wMcTrain, wMcFail, wMcBusy, wRefresh].map (fun s => mcState s 0) = [0, 0, 1, 2, 5, 2, 3] ∧
    wMcTrain.bit (Reg.mcTrainStat 0) 0 = false ∧ wMcBusy.bit (Reg.mcTrainStat 0) 0 = true ∧ (wMcBusy.chan 0).op = some 3 := by decide +kernel
/-! ### The lock-keeper and the cores -/

/-- Window 2 with a configuration staged for task 5, and task 5 in a state with a configuration and flags. -/
def cfgA : TaskCfg := { mask := 3, cfg := 0x00FF0001, dl := 100, tmr := 100 }
def tsWith (st flags : Nat) (x : Task) (l : List (Nat × Nat)) : State :=
  (rst ([(Reg.tsTaskView 5, st), (Reg.tsTaskFlags 5, flags)] ++ l)).setTask 5 x
def stg (cfg : Nat) : List (Nat × Nat) := [(Reg.tsWStgIdx 2, 5), (Reg.tsWStgMask 2, 3), (Reg.tsWStgCfg 2, cfg), (Reg.tsWStgArg 2, 1)]
def wTaskOff : State := tsWith 0 1 {} (stg 0x00FF0001)
def wTaskWait : State := tsWith 1 0 { c := cfgA } (stg 0x00FF0001)
def wTaskReady : State := tsWith 2 1 { c := cfgA } (stg 0x00FF0001)
def wTaskRun : State := tsWith 3 0 { c := cfgA } (stg 0x00FF0001)
def wTaskEn0 : State := tsWith 1 0 { c := cfgA } (stg 0)
def wTaskBad : State := tsWith 1 0 { c := cfgA } (stg 1)
def wTaskTimer : State := tsWith 1 0 { c := { cfgA with cfg := 0x02FF0001 } } []
def wTaskLate : State := tsWith 2 1 { c := cfgA } [(Reg.tsTaskView 5, 0x202)]

theorem witness_task : (∀ s ∈ [wTaskOff, wTaskWait, wTaskReady, wTaskRun, wTaskEn0, wTaskBad, wTaskTimer, wTaskLate],
      accepts s 2 (Reg.tsWStgCmd 2) true = true ∧ accepts s 2 (Reg.tsWFlagSet 2) true = true ∧ evtMap s = [] ∧ islUp s 3 = true) ∧
    [wTaskOff, wTaskWait, wTaskReady, wTaskRun, wTaskEn0].map (fun s => taskState s 5) = [0, 1, 2, 3, 1] ∧
    wTaskWait.fld (Reg.tsWStgIdx 2) 0 12 = 5 ∧ bitOf (stagedCfg wTaskEn0 2).cfg 0 = false ∧ bitsOf (stagedCfg wTaskBad 2).cfg 16 8 = 0 ∧
    bitOf (wTaskTimer.task 5).c.cfg 25 = true ∧ 0 ≤ dt48diff (wTaskTimer.at 200).now48 100 ∧ 0 < dt48diff (wTaskReady.at 200).now48 100 ∧
    wTaskReady.bit (Reg.tsTaskView 5) 9 = false ∧ wTaskLate.bit (Reg.tsTaskView 5) 9 = true ∧ bitOf cfgA.cfg 24 = false := by decide +kernel

/-- Core 1 free with task 5 a candidate and with none; holding task 5, with a WRITE held too; its watchdog expired; recovery over. -/
def coreOn : List (Nat × Nat) := [(Reg.tsCoreEn, 2), (Reg.ccCoreCtrl 1, 2), (Reg.ccCoreWdog 1, 10), (Reg.tsWFired 1, 2), (Reg.tsWDisp 1, 0x80000005)]
def wCandidate : State := tsWith 2 3 { c := cfgA } coreOn
def wNoTask : State := tsWith 1 0 { c := cfgA } coreOn
def wHolds : State := setCoreWdogAt (setHoldOfCore (tsWith 3 1 { c := cfgA } coreOn) 1 (some 5)) 1 (some 0)
def wHoldsCfg : State := setHoldOfCore (tsWith 3 1 { c := cfgA, held := some { cfgA with mask := 1 } } coreOn) 1 (some 5)
def wHoldsOff : State := setHoldOfCore (tsWith 3 1 { c := cfgA, held := some { cfgA with cfg := 0 } } coreOn) 1 (some 5)
def wWdogOnly : State := setCoreWdogAt (rst [(Reg.ccCoreWdog 1, 10)]) 1 (some 0)
def wTimer : State := rst [(Reg.ccMtimecmpLo 1, 100), (Reg.ccMtimecmpHi 1, 0), (Reg.ccCoreStat 1, 0xE)]
def wRecovery : State := rst [(Reg.tsTsStat, 3)]

theorem witness_core : (∀ s ∈ [wCandidate, wNoTask], islUp s 3 = true ∧ coreTakes s 1 = true ∧ holdOfCore s 1 = none ∧
      s.fld Reg.aoPmStat 0 3 ≠ 3 ∧ evtMap s = [] ∧ coreTurn (s.at 9) 1 = true) ∧ firstTask (wCandidate.at 9) (candidates (wCandidate.at 9) 1) = some 5 ∧
    candidates (wNoTask.at 9) 1 = [] ∧ accepts wHolds 1 (Reg.tsWDisp 1) false = true ∧
    (∀ s ∈ [wHolds, wHoldsCfg, wHoldsOff], accepts s 1 (Reg.tsWDone 1) true = true ∧ evtMap s = [] ∧ holdOfCore s 1 = some 5 ∧
      accepts s 0 (Reg.ccCoreCtrl 1) true = true ∧ doneOf s 1 = []) ∧
    (∀ s ∈ [wHolds, wWdogOnly], coreWdogAt s 1 = some 0 ∧ s.fld (Reg.ccCoreWdog 1) 0 24 = 10) ∧ wHolds.bit (Reg.ccCoreCtrl 1) 1 = true ∧
    wHolds.fld Reg.tsRecovUs 0 16 ≠ 0 ∧ wWdogOnly.bit (Reg.ccCoreCtrl 1) 1 = false ∧ timerIrq (wTimer.at 100) 1 = true ∧
    wRecovery.bit Reg.tsTsStat 1 = true ∧ accepts State.reset 0 Reg.ccL2Cfg true = true ∧ accepts State.reset 0 (Reg.ccCoreWdog 1) true = true := by decide +kernel

/-- The CPU port: a transmit frame timed or not, and one of length 0; a frame whose fate is known; a frame to receive with a
buffer, and without one. -/
def cpuOn : List (Nat × Nat) := [(Reg.ccCpuCtrl, 3), (Reg.ccTxRingHi, 8), (Reg.ccTxRingSize, 8), (Reg.ccTxTail, 1), (Reg.ccTxBufLen, 2048),
  (Reg.ccRxRingHi, 8), (Reg.ccRxRingSize, 8), (Reg.ccRxTail, 1), (Reg.ccRxBufLen, 2048), (Reg.mcMcStat 0, 3), (Reg.mcCapMb 0, 64)]
def cpuRing (flags len : Nat) : State := (rst cpuOn).dramWrite 0
  (leBytes 4 0x1000 ++ leBytes 4 8 ++ leBytes 4 (0x80010000 + flags + len) ++ leBytes 4 77)
def wCpuTx : State := cpuRing 0 100
def wCpuTimed : State := cpuRing 0x20000 100
def wCpuEmpty : State := cpuRing 0 0
def cpuTxA : CpuTx := { count := 1, cookie := 77, timed := true, words := [] }
def wCpuFate : State := { cpuRing 0 100 with cc := { txs := [cpuTxA], posts := [(77, .sent)] } }
def inWord : PWord := ⟨List.replicate 64 7, true, false, true, {}⟩
def rxIn (s : State) : State := s.setPound 27 { s.pound 27 with ready := [inWord] }
def wCpuRx : State := rxIn (cpuRing 0 100)
def wCpuNone : State := rxIn (rst [(Reg.ccCpuCtrl, 3)])
def wCpuWait : State := rxIn (rst [(Reg.ccCpuCtrl, 7)])
def cpuFetchOf (s : State) : Option Nat :=
  (txFetch s { cpuTxRing s with head := (cpuTxRing s).head + (s.cc.txs.map (·.count)).sum } true 16383 false).map (·.2.1)

/-- Counter 4 about to wrap, with samples, and with the ring full; a bandwidth window that has ended. -/
def pmuL : List (Nat × Nat) := [(Reg.pmuPmuCtrl, 1), (Reg.pmuEvt 4, 0x1701), (Reg.pmuInit 4, 0xFFFF), (Reg.pmuCntLo 4, 0xFFFFFFFF), (Reg.pmuCntLo 4 + 4, 0xFFFF)]
def wPmuWrap : State := rst pmuL
def wPmuFull : State := rst (pmuL ++ [(Reg.pmuSmpHead, 63)])
def wBwEnd : State := { rst [(Reg.pmuBwCtrl, 0x10001)] with pmu := { rd := [(2, 640)], wr := [(2, 64)], winStart := 0, wrLast := [(2, 128)] } }

theorem witness_cpu : accepts wCpuTx 0 Reg.ccTxTail true = true ∧ [wCpuTx, wCpuTimed, wCpuEmpty].map cpuFetchOf = [some 0, some 0, some 2] ∧
    (∀ s ∈ [wCpuTx, wCpuTimed, wCpuEmpty, wCpuRx, wCpuNone, wCpuWait], s.ao.held = false ∧ s.bit Reg.ccCpuCtrl 0 = true ∧
      s.bit Reg.ccCpuCtrl 1 = true ∧ replaying s = false ∧ poundRoom s 26 = true ∧ s.cc.txs = []) ∧
    tapsOff wTaskWait = true ∧ (List.range 8).all (fun d => (doneOf wNoTask d).isEmpty) = true ∧ holdOfCore wNoTask 1 = none ∧
    accepts wNoTask 1 (Reg.tsWDone 1) true = true ∧ wCpuFate.cc.txs = [cpuTxA] ∧ postFits wCpuFate 77 .sent = true ∧ (∀ s ∈ [wCpuRx, wCpuNone, wCpuWait], (readPacket s 27).isSome = true) ∧
    ownedRx wCpuRx (cpuRxRing wCpuRx) 1 0 = 1 ∧ (rxFill wCpuRx (cpuRxRing wCpuRx) 0 [List.replicate 60 7]).1 = true ∧
    ownedRx wCpuNone (cpuRxRing wCpuNone) 1 0 = 0 ∧ wCpuWait.bit Reg.ccCpuCtrl 2 = true := by decide +kernel

theorem witness_pmu : (∀ s ∈ [wPmuWrap, wPmuFull], pmuOn s 4 = true ∧ pmuOutside s 4 2 3 = true ∧ s.pair (Reg.pmuCntLo 4) = 2 ^ 48 - 1 ∧ s.bit (Reg.pmuEvt 4) 12 = true) ∧
    (wPmuFull.fld Reg.pmuSmpHead 0 6 + 1) % 64 = wPmuFull.fld Reg.pmuSmpTail 0 6 ∧ wBwEnd.bit Reg.pmuBwCtrl 16 = true ∧
    wBwEnd.pmu.winStart < (wBwEnd.at 5000).dt / bwWinNs wBwEnd * bwWinNs wBwEnd ∧ accepts wBwEnd 0 (Reg.pmuBwRd 2) false = true ∧
    accepts wBwEnd 0 Reg.pmuBwCtrl true = true ∧ pmuOn State.reset 4 = false := by decide +kernel
/-! ### The gauge house -/

/-- The gauge house in a state, with its log of 4,096 entries, and what it holds. -/
def ghAt (st : Nat) (g : GhState) : State := { rst [(Reg.ghGhStat, st), (Reg.ghLogCap, 4096), (Reg.ghLogHead, 3), (Reg.ghOutNext, 2), (Reg.ghcLcCfg 1, 1), (Reg.ghcGhWdog, 5)] with gh := { g with vdd := true } }
def wGhOff : State := ghAt 0 {}
def wGhStart : State := ghAt 1 {}
def wGhRun : State := ghAt 2 {}
def wGhHold : State := ghAt 3 { settle := [(1, 2)] }
def wGhFault : State := ghAt 4 {}
def wGhSealed : State := ghAt 2 { sealed := true }
def wAdjEarly : State := ghAt 2 { adjAt := some 3 }
def senseA : LcPair := { p := 3000000000, n := 0 }
def itemA : GhItem := { ty := 1, body := [1, 2] }
def wGhItem : State := ghAt 2 { items := [itemA] }
def imgA (crc layout : Bool) : GhImage := { image := [1], sig := [2], otpCrcOk := crc, layoutOk := layout, logCap := 4096, keys := none, page := none }

theorem witness_gauge : [wGhOff, wGhStart, wGhRun, wGhHold, wGhFault].map ghSt = [0, 1, 2, 3, 4] ∧
    wGhStart.regN Reg.ghLogHead < 16 * ((wGhStart.regN Reg.ghOutNext + (imgA true true).logCap) / 16 - 2) ∧ (imgA false true).otpCrcOk = false ∧
    wGhRun.gh.items = [] ∧ wGhRun.gh.work = [] ∧ wGhItem.gh.items = [itemA] ∧ itemA.act = .none ∧ logFree wGhItem ≠ 0 ∧
    wGhRun.bit Reg.ghcAppStat 0 = false ∧ wGhHold.fld Reg.ghcGhWdog 0 16 ≠ 0 ∧
    wGhHold.gh.wdogAt + 1000000 * wGhHold.fld Reg.ghcGhWdog 0 16 ≤ (wGhHold.at 5000000).dt ∧
    wGhRun.gh.adjAt = none ∧ wAdjEarly.gh.adjAt.all (fun d => decide (d + 10000000 ≤ (wAdjEarly.at 9).dt)) = false ∧
    1000000000 ≤ senseA.p - senseA.n ∧ senseA.p - senseA.n ≤ 5500000000 ∧
    (∀ s ∈ [wGhRun, wGhHold], s.bit (Reg.ghcLcCfg 1) 0 = true ∧ s.gh.sealed = false) ∧ wGhSealed.gh.sealed = true := by decide +kernel

/-- Frames for the engine: a record's UDP datagram to port 9, control records, and meter records of meter 7. -/
def udpFrame (d : List Byte) : List Byte :=
  List.replicate 12 0 ++ [8, 0, 0x45] ++ List.replicate 8 0 ++ [17] ++ List.replicate 10 0 ++ [0, 1, 0, 9] ++ beBytes 2 (d.length + 8) ++ [0, 0] ++ d
def ctlRec (op : Nat) (b : List Byte) : List Byte := [0x47, 0x43, 1, BitVec.ofNat 8 op] ++ leBytes 2 b.length ++ [0, 0] ++ b
def meterRec (meter seq : Nat) : List Byte :=
  [0x4D, 0x52, 1, 1] ++ leBytes 4 meter ++ leBytes 4 seq ++ List.replicate 12 0 ++ [1] ++ List.replicate 53 0
def paramsA : Bank Byte := [(0, 1), (2, 9)]
def ghWork (d : List Byte) : State := ghAt 2 { work := [.frame (udpFrame d) 5 false], params := paramsA, meters := [(7, some { key := [1] })] }
def wRecNone : State := ghAt 2 { work := [.frame [1, 2] 5 false] }
def wRecForm : State := ghWork (ctlRec 3 [1])
def wRecMeterForm : State := ghWork [0x4D, 0x52, 1]
def wRecNoMeter : State := ghWork (meterRec 8 1)
def wRecMeter : State := ghWork (meterRec 7 2)
def wRecFull : State := regsOf [(Reg.ghLogHead, 4066)] (ghWork (ctlRec 3 [7, 0, 0, 0]))
def wRecCtl : State := ghWork (ctlRec 3 [7, 0, 0, 0])
def wRecDenied : State := ghWork (ctlRec 7 [])
def wRecOrder : State := regsOf [(Reg.ghGhStat, 0x12), (Reg.ghAuditCnt, 16383)] { wRecCtl with gh := { wRecCtl.gh with sealed := true } }
def wInbox : State := wGhRun.setPound 32 { wGhRun.pound 32 with ready := [inWord] }
def wInboxBad : State := wGhRun.setPound 32 { wGhRun.pound 32 with ready := [{ inWord with abort := true }] }
def wInboxFull : State := { wInbox with gh := { wInbox.gh with work := [.frame (List.replicate 32768 0) 0 false] } }

theorem witness_record : (∀ s ∈ [wRecNone, wRecForm, wRecMeterForm, wRecNoMeter, wRecMeter, wRecFull, wRecCtl, wRecDenied, wRecOrder],
      ghSt s = 2 ∧ s.gh.ctl = none ∧ s.gh.items = [] ∧ s.gh.work.length = 1) ∧ recordPayload wRecNone [1, 2] = none ∧
    recordPayload wRecForm (udpFrame (ctlRec 3 [1])) = some (ctlRec 3 [1]) ∧ ctlFormed (ctlRec 3 [1]) = false ∧ meterFormed [0x4D, 0x52, 1] = false ∧
    meterFormed (meterRec 7 2) = true ∧ recordPayload wRecMeter (udpFrame (meterRec 7 2)) = some (meterRec 7 2) ∧
    ctlFormed (ctlRec 3 [7, 0, 0, 0]) = true ∧ logFree wRecFull = 0 ∧ logFree wRecCtl ≠ 0 ∧ ctlAllowed wRecCtl 3 false = true ∧
    ctlInOrder wRecCtl (ctlRec 3 [7, 0, 0, 0]) = true ∧ ctlFormed (ctlRec 7 []) = true ∧ ctlAllowed wRecDenied 7 false = false ∧
    ctlAllowed wRecOrder 3 true = true ∧ ctlInOrder wRecOrder (ctlRec 3 [7, 0, 0, 0]) = false ∧
    splitPacket ((wInbox.pound 32).taken ++ (wInbox.pound 32).ready) = some ([inWord], []) ∧
    32768 < inboxFill wInboxFull + 64 := by decide +kernel

/-- A control record in hand, entries to commit, and entries to export. -/
def ctlIn (op : Nat) (b : List Byte) : State := ghAt 2 { ctl := some (ctlRec op b, true) }
def wCtlRead : State := ctlIn 1 [1, 0, 0, 0, 2, 0]
def wCtlInstall : State := ctlIn 2 (List.replicate 44 7)
def wCtlRemove : State := ctlIn 3 [7, 0, 0, 0]
def wCtlParam : State := ctlIn 4 [2, 0, 1, 0, 9]
def wCtlChunk : State := ctlIn 5 [0, 0, 0, 0, 9]
def wCtlCommit : State := ctlIn 6 (List.replicate 68 0)
def wCtlSeal : State := ctlIn 7 []
def wCtlSealed : State := ghAt 2 { ctl := some (ctlRec 3 [7, 0, 0, 0], true), sealed := true }
def wCommitKey : State := ghAt 2 { items := [{ itemA with act := .install 7 [1] }] }
def wCommitParam : State := ghAt 2 { items := [{ itemA with act := .param 2 [9] }] }
def wCommitFull : State := regsOf [(Reg.ghLogHead, 4066)] wGhItem
def wWeigh : State := ghAt 2 { work := [.weigh [1] 0] }
def wWeighFull : State := regsOf [(Reg.ghLogHead, 4066), (Reg.ghcAppStat, 1)] wWeigh
def wExport : State := ghAt 2 { log := [(2, [1])] }
def wExportShut : State := wExport.setBit (Reg.topPndStat 31) 17 true
def wRepeat : State := regsOf [(Reg.ghOutNext, 3)] (ghAt 2 { log := [(2, [1])], again := some (1, 9) })

def wCommitSoon : State := ghAt 2 { items := [itemA], commitDt := some 4 }

theorem witness_log : ghPaced (wCommitKey.at 9) = true ∧ ghPaced (wWeigh.at 9) = true ∧ ghPaced (wCtlSeal.at 9) = true ∧
    ghPaced (wCommitSoon.at 9) = false ∧ ([wCtlRead, wCtlInstall, wCtlRemove, wCtlParam, wCtlChunk, wCtlCommit, wCtlSeal].map fun s => s.gh.ctl.map fun x => ctlOp x.1) =
      [some 1, some 2, some 3, some 4, some 5, some 6, some 7] ∧ wCtlSealed.gh.sealed = true ∧
    (∀ s ∈ [wCommitKey, wCommitParam, wCommitFull, wWeigh, wWeighFull, wExport, wExportShut, wRepeat], ghSt s = 2 ∧ s.gh.ctl = none) ∧
    wCommitKey.gh.items.length = 1 ∧ logFree wCommitKey ≠ 0 ∧ logFree wCommitFull = 0 ∧ logFree wWeighFull = 0 ∧ logFree wWeigh ≠ 0 ∧
    wExport.regN Reg.ghOutNext < wExport.regN Reg.ghLogHead ∧ repeatNext wRepeat = some (2, 9) ∧
    wRepeat.regN Reg.ghLogHead ≤ wRepeat.regN Reg.ghOutNext ∧
    (exportPush (wExport.at 9) false (bankGet (fun _ => []) wExport.gh.log 2)).isSome = true ∧
    (exportPush (wRepeat.at 9) true (bankGet (fun _ => []) wRepeat.gh.log 2)).isSome = true ∧
    (exportPush (wExportShut.at 9) false (bankGet (fun _ => []) wExportShut.gh.log 2)).isSome = false := by decide +kernel
/-! ### Start, security and power -/

/-- Held in a chip reset; about to boot copies whose headers do not verify; the AO watchdog expired. -/
def wHeldReset : State := { State.reset with ao := { State.reset.ao with held := true } }
def wBoots : State := State.reset
def wAoWdog : State := rst [(Reg.aoAoWdog, 5), (Reg.aoWakeCause, 3)]
def wLowRail : State := rst [(Reg.aoSupplyStat, 4)]
def headA : List Byte := leBytes 4 0x42544D56 ++ [1, 0, 0, 1] ++ leBytes 4 3 ++ leBytes 4 0 ++ leBytes 4 4 ++ leBytes 4 0 ++ List.replicate 232 0

theorem witness_reset : wHeldReset.ao.held = true ∧ wHeldReset.ao.resAt + 1000000 ≤ (wHeldReset.at 1000000).dt ∧ wBoots.ao.booting = true ∧ wBoots.ao.held = false ∧ inP4 wBoots = false ∧
    bootHeader wBoots ⟨true, headA, [1, 2, 3, 4]⟩ = 0 ∧ bootHeader wBoots ⟨false, [], []⟩ = 6 ∧ wAoWdog.fld Reg.aoAoWdog 0 16 ≠ 0 ∧
    wAoWdog.ao.wdogAt + wAoWdog.fld Reg.aoAoWdog 0 16 * 1000000 ≤ (wAoWdog.at 5000000).dt ∧ accepts wBoots 0 Reg.topChipRst true = true ∧
    accepts wBoots 0 Reg.aoAoWdog true = true ∧ wLowRail.bit Reg.aoSupplyStat 2 = true ∧ wBoots.bit Reg.aoSupplyStat 2 = false ∧
    (wBoots.at 2000000000).dt % 1000000000 = 0 := by decide +kernel

/-- OTP words set, and the lifecycle states. -/
def withOtp (l : List (Nat × Nat)) (s : State) : State := l.foldl (fun t e => setOtp t e.1 (BitVec.ofNat 32 e.2)) s
def keyWords : List (Nat × Nat) := (List.range 48).map fun i => (16 + i, i + 1)
def wKeys : State :=
  let s := withOtp keyWords State.reset
  setOtp s 64 (BitVec.ofNat 32 (crc32 (otpBytes s 16 48)))
def lcAt (n : Nat) (s : State) : State := regsOf [(Reg.secLcStat, 5 * n), (Reg.secOtpAddr, 20), (Reg.secOtpData, 0xFF)] s
def wOpen : State := lcAt 0 State.reset
def wProv : State := lcAt 1 wKeys
def wProvSluice : State := withOtp [(399, 1)] wProv
def wSealed : State := lcAt 2 wKeys
def wReturned : State := lcAt 3 State.reset
def wOtpSecret : State := regsOf [(Reg.secOtpAddr, 9)] wOpen
def wSvn : State := withOtp [(5, 3)] (rst [(Reg.secBootSvn, 9)])

theorem witness_otp : (∀ s ∈ [wKeys, wOpen, wProv, wProvSluice, wSealed, wReturned], accepts s 0 Reg.secLcCmd true = true ∧
      accepts s 0 Reg.secOtpCmd true = true ∧ s.bit Reg.secLcResult 0 = false) ∧
    ((pubKey wKeys 16).isSome && (pubKey wKeys 48).isSome && keysOk wKeys) = true ∧ keysOk wOpen = false ∧
    [wOpen, wProv, wSealed, wReturned].map lcState = [0, 1, 2, 3] ∧ otpSluSealed wProvSluice = true ∧ otpSluSealed wProv = false ∧
    (otpWritable wOpen 20 && (otpWord wOpen 20 &&& ~~~(wOpen.reg Reg.secOtpData) == 0)) = true ∧ otpWritable wProv 20 = false ∧
    wOtpSecret.fld Reg.secOtpAddr 0 9 = 9 ∧ svnCode wSvn = true ∧ minSvn wSvn = 2 ∧ accepts wSvn 0 Reg.secSvnCmd true = true := by decide +kernel

/-- The HMAC engine to start and under way; a NONCE withheld, and a debug level granted. -/
def hmacL (n : Nat) : List (Nat × Nat) := [(Reg.secHmacLen, n), (Reg.secHmacAddrHi, 8), (Reg.mcMcStat 0, 3), (Reg.mcCapMb 0, 64)]
def wHmac : State := rst (hmacL 256)
def wHmacLen : State := rst (hmacL 100)
def wHmacBusy : State := { rst (hmacL 256 ++ [(Reg.secHmacStat, 1)]) with sec := { hmac := some (0x800000000, 256, []) } }
def wBackoff : State := { State.reset with sec := { backoff := some 0 } }
def wBackSealed : State := { wSealed with sec := { wSealed.sec with backoff := some 0 } }
def wDebugOn : State := rst [(Reg.secDbgStat, 2)]

theorem witness_sec : (∀ s ∈ [wHmac, wHmacLen, wReturned], accepts s 0 Reg.secHmacCmd true = true ∧ s.bit Reg.secHmacStat 0 = false) ∧
    wHmac.fld Reg.secHmacLen 0 22 = 256 ∧ wHmacBusy.sec.hmac = some (0x800000000, 256, []) ∧
    0x800000000 + 256 + 32 ≤ 0x800000000 + dramCap wHmacBusy ∧ dbgServes wBackoff = true ∧ dbgBackoff (wBackoff.at 9) = true ∧ dbgBackoff (wBackoff.at 1000000000) = false ∧
    dramFault wHmacBusy 0 256 false = none ∧ wBackoff.sec.backoff = some 0 ∧
    0 + 1000000000 ≤ (wBackoff.at 1000000000).dt ∧ dbgResult wOpen 1 [] = 0 ∧ dbgResult wOpen 3 [] = 1 ∧ dbgResult wSealed 1 [] = 3 ∧ dbgResult (wBackSealed.at 9) 1 [] = 4 ∧
    accepts wDebugOn 0 Reg.secDbgRevoke true = true ∧ accepts wOpen 0 Reg.secSecureLock true = true := by decide +kernel

/-- Power: no core enabled, so that deep states are permitted; in P2, P3 and P4 with wake sources; a radio and an octet asleep. -/
def deepL : List (Nat × Nat) := [(Reg.tsCoreEn, 0), (Reg.aoPmCtrl, 30), (Reg.aoLtol, 0xFFFFFFFF)]
def wIdle : State := rst deepL
def wStay : State := rst [(Reg.aoPmCtrl, 0)]
def inState (n : Nat) (l : List (Nat × Nat)) : State := rst ([(Reg.aoPmStat, n), (Reg.aoWakeEn, 3), (Reg.aoRtcAlarmLo, 0), (Reg.aoRtcAlarmLo + 4, 0)] ++ deepL ++ l)
def wP2 : State := inState 2 []
def wP3Wake : State := { inState 3 [(Reg.plicPrio 1, 1), (Reg.plicEn 2 0, 2)] with plic := { pend := [(1, true)] } }
def wP3Debug : State := inState 3 [(Reg.secDbgStat, 2)]
def wP3Task : State := tsWith 2 3 { c := cfgA } (coreOn ++ [(Reg.aoPmStat, 3)])
def wP4 : State := inState 4 []
def wNoAlarm : State := inState 3 [(Reg.aoWakeEn, 0)]
def wAsleep : State := (wP2.setFld (Reg.topIslStat 8) 8 2 2).setFld (Reg.topIslStat 12) 8 2 1
def wSleepOver : State := regsOf [(Reg.aoPmStat, 0)] wAsleep

theorem witness_power : (∀ s ∈ [wIdle, wStay, wP2], s.ao.held = false ∧ inP4 s = false ∧ secBusy s = false ∧ pmRested (s.at 5) = true ∧
      accepts s 0 Reg.aoPmCmd true = true) ∧ wStay.fld Reg.aoPmCtrl 1 3 = 0 ∧
    (∀ c ∈ [WakeCause.rtcAlarm, .wakeN, .irq], wakes (wP3Wake.at 5) c = true) ∧ wakes (wP3Debug.at 5) .debug = true ∧ wakes (wP3Task.at 5) .task = true ∧
    wakes (wP4.at 5) .wakeN = true ∧ inP4 wP4 = true ∧ rtcNow (wP3Wake.at 5) = alarmWritten (wP3Wake.at 5) ∧ wakes (wNoAlarm.at 5) .rtcAlarm = false ∧
    rtcNow (wNoAlarm.at 5) = alarmWritten (wNoAlarm.at 5) ∧
    islUp wP2 8 = true ∧ asleep wP2 8 = false ∧ txState wP2 0 = 0 ∧ (wP2.airOf 0).play = none ∧ (wP2.radio 0).cal = none ∧
    entrySoon (wP2.at 5) 0 100000 = false ∧ asleep wAsleep 8 = true ∧ asleep wSleepOver 8 = true ∧ pmState wSleepOver < 2 ∧ islUp wP2 12 = true ∧ (wP2.pound 9).level = 0 ∧
    (List.range 8).all (fun j => portShut (wP2.at 5) (8 + j) 20000) = true ∧ asleep wAsleep 12 = true ∧
    octetDue (wSleepOver.at 5) 1 = true ∧ asleep wSleepOver 12 = true := by decide +kernel
/-! ### Faults and the towpath -/

/-- Island 11's monitor due: without HANG_ACT, with it, for the third time; MC's; a reset to release, and one that escalated; MC's restart. -/
def hangWith (i ctrl : Nat) (m : HangMon) : State := (rst [(Reg.fltFltCtrl, ctrl), (Reg.fltHangUs, 10)]).setHangMon i m
def wHangSee : State := hangWith 11 0 {}
def wHangAct : State := hangWith 11 1 {}
def wHangThird : State := hangWith 11 1 { decls := [1, 2] }
def wHangMc : State := hangWith 7 1 {}
def wHangMcThird : State := hangWith 7 1 { decls := [1, 2] }
def wHangReset : State := hangWith 11 1 { resetAt := some 0 }
def wHangEsc : State := hangWith 11 1 { resetAt := some 0, esc := true }
def wRestart : State := (chanWith { flight := [lineR], lines := [lineA] } []).setHangMon 7 { resetAt := some 0 }
def wPageOk : State := withImg [(0x10, 4, 12288)] State.reset
def wPageBad : State := { wPageOk with gen := { wPageOk.gen with bad := [(0, 1)] } }
def wPageRead : State := regsOf [(Reg.mcMcStat 0, 3), (Reg.mcCapMb 0, 64)] { wPageOk with gen := { wPageOk.gen with bad := [(0, 1)], loadAt := [(0, 0x800000000)] } }
def tapOn (k : Nat) : List (Nat × Nat) := [(Reg.tpTpCtrl, 1 + 2 ^ (16 + k)), (Reg.tpRingBaseHi, 8), (Reg.tpRingSize, 1), (Reg.mcMcStat 0, 3), (Reg.mcCapMb 0, 64)]
def wGap : State := setGap (rst (tapOn 1)) 1 3
def wGapFull : State := wGap.setPound 34 { wGap.pound 34 with ready := List.replicate 256 inWord }

theorem witness_hang : (∀ s ∈ [wHangSee, wHangAct, wHangThird], hangDue (s.at 1000000) 11 = true) ∧
    (∀ s ∈ [wHangMc, wHangMcThird], hangDue (s.at 1000000) 7 = true) ∧ wHangAct.bit Reg.fltFltCtrl 0 = true ∧ wHangSee.bit Reg.fltFltCtrl 0 = false ∧
    (∀ s ∈ [wHangReset, wHangEsc], (s.hangMon 11).resetAt = some 0 ∧ 1000 ≤ (s.at 5000).dt ∧ s.bit (Reg.topIslCtrl 11) 0 = false ∧
      islPowered s 11 = true) ∧ (wRestart.hangMon 7).resetAt = some 0 ∧ islUp wPageOk 6 = true ∧ 2 ≤ slotState wPageOk 0 ∧ slotState wPageOk 1 < 2 ∧
    1 < (slotPages wPageOk 0).length ∧ (wPageOk.gen.bad ++ wPageOk.gen.lost).contains (0, 1) = false ∧ wPageBad.gen.bad.contains (0, 1) = true ∧
    wPageRead.gen.bad.contains (0, 1) = true ∧ dmaGood wPageRead false 0x800001000 4096 false = true ∧ dmaGood wPageBad false 4096 4096 false = false ∧
    (∀ s ∈ [wGap, wGapFull], recording s 1 = true ∧ gapOf s 1 = 3) ∧ tapRoom wGap 1 1 = true ∧ tapRoom wGapFull 1 1 = false := by decide +kernel

/-- Recording without the CC tap: no mark, marks in each state, one being taken, and HOLD with no room; a replay of records: the end, a break
of RSEQ, a record not due, a LOSS record, an EGRESS record with nothing to drain, a REGWR record; a frame in an egress pound. -/
def markWith (l : List (Nat × Nat)) : State := rst (tapOn 0 ++ l)
def wMarkFree : State := markWith []
def wMarkNoRec : State := rst [(Reg.tpTpCtrl, 0x10000)]
def wMarkValid : State := markWith [(Reg.tpMarkStat 3, 2)]
def wMarkLost : State := markWith [(Reg.tpMarkStat 3, 3)]
def wMarkTaking : State := { markWith [(Reg.tpMarkStat 3, 1), (Reg.tpWrPtr, 1)] with tp := { taking := some 3, ckpt := some (takeCkpt State.reset) } }
def wMarkHeld : State := regsOf [(Reg.tpTpCtrl, 0x10005), (Reg.tpMarkStat 5, 2), (Reg.tpMarkPtr 5, 0)] (markWith [])
def recOf (kind rseq dt arg0 arg1 : Nat) (b : List Byte) : List Byte := recordBytes kind 0 rseq dt arg0 arg1 b
def replayOf (l : List (Nat × Nat)) (bs : List Byte) (left : Nat) : State :=
  let s := rst ([(Reg.tpTpCtrl, 2), (Reg.tpRpStat, 1), (Reg.mcMcStat 0, 3), (Reg.mcCapMb 0, 64)] ++ l)
  { s.dramWrite 0 bs with tp := { play := some { base := 0, units := 65536, pos := 0, left := left, rseq := 7, toEnd := false } } }
def wPlayEnd : State := replayOf [] [] 0
def wPlayBreak : State := replayOf [] (recOf 8 9 100 3 0 []) 10
def wPlayEarly : State := replayOf [] (recOf 8 7 (2 ^ 46) 3 0 []) 10
def wPlayLoss : State := replayOf [] (recOf 8 7 0 3 0 []) 10
def wPlayNone : State := replayOf [] (recOf 1 7 0 3 0 []) 10
def wPlayStop : State := replayOf [(Reg.tpTpCtrl, 10)] (recOf 1 7 0 3 0 []) 10
def wPlayReg : State := replayOf [(Reg.tpTpCtrl, 0x12)] (recOf 4 7 0 0 5 (leBytes 8 0x40100000)) 10
def wPlayFrame : State := wPlayEnd.setPound 27 { wPlayEnd.pound 27 with ready := [inWord] }
def wModeReplay : State := rst [(Reg.tpTpCtrl, 2)]

theorem witness_replay_mark : (∀ s ∈ [wMarkFree, wMarkNoRec, wMarkValid, wMarkLost, wMarkTaking, wMarkHeld], accepts s 0 Reg.tpMarkCmd true = true ∧
      s.bit Reg.tpMarkCmdStat 0 = false ∧ s.bit Reg.tpTpCtrl 18 = false ∧ accepts s 0 Reg.tpTpCtrl true = true ∧ accepts s 0 Reg.tpRpCmd true = true) ∧
    ringUnits wMarkFree ≠ 0 ∧ [wMarkFree, wMarkValid, wMarkLost, wMarkTaking].map (fun s => markState s 3) = [0, 2, 3, 1] ∧
    roomBefore wMarkHeld 5 = 0 ∧ wMarkHeld.bit Reg.tpTpCtrl 2 = true ∧ wMarkTaking.tp.taking = some 3 ∧ wMarkTaking.tp.ckpt.isSome = true ∧
    islUp wMarkTaking 20 = true ∧ rpCheck wMarkFree = .inl 1 ∧ rpCheck wModeReplay = .inl 2 ∧ replaying wMarkFree = false := by decide +kernel

theorem witness_replay : (∀ s ∈ [wPlayEnd, wPlayBreak, wPlayEarly, wPlayLoss, wPlayNone, wPlayStop, wPlayReg, wPlayFrame],
      s.tp.play.isSome = true ∧ islUp s 20 = true ∧ replaying s = true ∧ accepts s 0 Reg.tpRpCmd true = true) ∧
    (∀ s ∈ [wPlayEarly, wPlayLoss, wPlayNone, wPlayReg], (rpAt s 0 65536 0 true).rseq = 7) ∧ (rpAt wPlayBreak 0 65536 0 true).rseq = 9 ∧
    dt48diff (wPlayEarly.at 5).now48 (rpAt wPlayEarly 0 65536 0 true).dt < 0 ∧ (rpAt wPlayReg 0 65536 0 true).kind = 4 ∧
    (rpAt wPlayNone 0 65536 0 true).kind = 1 ∧ (drainPort wPlayNone 3).isNone = true ∧ (drainPort wPlayFrame 69).isSome = true ∧
    wPlayReg.bit Reg.tpTpCtrl 4 = true ∧ recordedRegion 0x40100000 = true ∧ leAt (rpAt wPlayReg 0 65536 0 true).payload 0 8 = 0x40100000 := by decide +kernel
end Sys2Proof.Tests
end

section
/-! Proofs of the scope family (00_scope): the state after reset, 48-bit counters, clear-on-read registers, W1C flags and plain
register writes. The facts about runs, register addresses and accepted accesses that the proofs share stand first. -/

namespace Sys2Proof.Machine

/-! ### Runs of a command -/

/-- A command whose own effect is `t` runs to `finish s t`. -/
theorem runs_of_done {i : Instr} {s t : State} {P : State → Prop} (h : exec i s = done s t) (hp : P (finish s t)) :
    Runs i s P := ⟨_, h, hp⟩

theorem Runs.mono {i : Instr} {s : State} {P Q : State → Prop} (h : Runs i s P) (hpq : ∀ t, P t → Q t) : Runs i s Q := by
  obtain ⟨t, ht, hp⟩ := h
  exact ⟨t, ht, hpq t hp⟩

/-- A command has one next state: two runs of it meet in one. -/
theorem Runs.both {i : Instr} {s : State} {P Q : State → Prop} (hp : Runs i s P) (hq : Runs i s Q) : ∃ t, P t ∧ Q t := by
  obtain ⟨t, ht, p⟩ := hp
  obtain ⟨u, hu, q⟩ := hq
  cases ht.symm.trans hu
  exact ⟨t, p, q⟩

/-! ### What the event map and the towpath's records leave -/

section
variable {s t : State} (h : Aside s t)
include h

theorem Aside.resp : t.resp = s.resp := congrArg (·.resp) h.bare

theorem Aside.dram : t.dram = s.dram := congrArg (·.dram) h.bare

theorem Aside.l2 : t.l2 = s.l2 := congrArg (·.l2) h.bare

theorem Aside.tstore : t.tstore = s.tstore := congrArg (·.tstore) h.bare

end

/-- A calm register of a command whose effect leaves TP_CTRL and the towpath island's state is as the effect left it. -/
theorem finish_reg_of_calm {s t : State} {a : Nat} (h : calm s a = true) (h1 : t.reg Reg.tpTpCtrl = s.reg Reg.tpTpCtrl)
    (h2 : t.reg (Reg.topIslStat 20) = s.reg (Reg.topIslStat 20)) : (finish s t).reg a = t.reg a :=
  finish_reg_calm s t a (by rwa [calm_congr h1 h2])

/-! ### Register addresses and their kinds -/

/-- The kind of the register at an address; none at an unassigned offset. -/
def kindOf (a : Nat) : Option RegKind := (regRow a).map (·.kind)

theorem kindOf_eq {a : Nat} {r : RegRow} (h : regRow a = some r) : kindOf a = some r.kind := by simp [kindOf, h]

/-- Registers of different kinds lie at different addresses. -/
theorem ne_of_kindOf {a b : Nat} {k : RegKind} (ha : kindOf a = some k) (hb : kindOf b ≠ some k) : a ≠ b := by
  rintro rfl; exact hb ha

theorem regBlock_of_regRow {a : Nat} {r : RegRow} (h : regRow a = some r) :
    ∃ b, regBlock a = some b ∧ r ∈ b.rows := by
  unfold regRow at h
  split at h
  · cases h
  · next b hb => exact ⟨b, hb, List.mem_of_find?_eq_some h⟩

/-- A block of registers lies in the register regions or above the 40-bit map (the gauge house core's own). -/
theorem regBlock_range {a : Nat} {b : RegBlock} (h : regBlock a = some b) :
    (0x40000000 ≤ a ∧ a < 0x45010000) ∨ 0x10040000000 ≤ a := by
  by_contra hn
  unfold regBlock at h
  repeat rw [if_neg (by omega)] at h
  cases h

/-- Between the table store and DRAM, and above DRAM, lie registers, the gauge house's window and gaps. -/
theorem regionOf_cases {a : Nat} (h : 0x20600000 ≤ a) (hd : ¬(0x800000000 ≤ a ∧ a < 0xA00000000)) :
    regionOf a = .regs ∨ regionOf a = .ghWindow ∨ regionOf a = .gap := by
  generalize hg : regionOf a = g
  unfold regionOf at hg
  rw [if_neg (by omega), if_neg (by omega), if_neg (by omega)] at hg
  split_ifs at hg <;> simp [← hg]

/-- What the bus accepts at a register's address lies in the register region or in the gauge house's window. -/
theorem regionOf_of_regRow {s : State} {init a size : Nat} {w : Bool} {r : RegRow} (h : regRow a = some r)
    (hc : busCause s init a size w = none) : regionOf a = .regs ∨ regionOf a = .ghWindow := by
  obtain ⟨b, hb, -⟩ := regBlock_of_regRow h
  have hrange := regBlock_range hb
  obtain hr | hr | hg := regionOf_cases (a := a) (by omega) (by omega)
  · exact .inl hr
  · exact .inr hr
  · simp [busCause, hg] at hc

theorem inSluice_eq_false {a : Nat} {r : RegRow} (h : regRow a = some r) : inSluice a = false := by
  obtain ⟨b, hb, -⟩ := regBlock_of_regRow h
  by_contra hs
  simp only [inSluice, Bool.not_eq_false, Bool.and_eq_true, decide_eq_true_eq] at hs
  unfold regBlock at hb
  repeat rw [if_neg (by omega)] at hb
  cases hb

theorem hit_eq_none {n : Nat} {f : Nat → Nat} {a : Nat} (h : ∀ i, i < n → f i ≠ a) : hit n f a = none := by
  simpa [hit] using h

/-! ### The state after reset -/

/-- Settles O3: each clause is a closed fact about the empty stores and the reset values of the register map. -/
theorem resetLeavesTheStatedValues : Obligations.ResetLeavesTheStatedValues := by
  unfold Obligations.ResetLeavesTheStatedValues
  have hregs : State.reset.reg Reg.topChipId = 0x640356A1 ∧ State.reset.reg Reg.topIslPresent = 0x3FFFFF ∧
      State.reset.reg (Reg.topPndGeom 0) = 0x200040 ∧ State.reset.reg (Reg.topPndStat 0) = 0x10000 ∧
      State.reset.reg Reg.aoPmCtrl = 6 := by decide
  have hslots : ∀ k, k < 4 → slotState State.reset k = 0 := by decide
  have hinv : State.reset.inv = true := by decide
  obtain ⟨hid, hisl, hgeom, hstat, hpm⟩ := hregs
  exact ⟨rfl, hid, hisl, hgeom, hstat, hpm, hslots, hinv, rfl⟩

/-! ### 48-bit counters -/

/-- No event moves a pair that shows a time, an index or a place (R94, R224). -/
theorem counterAdd_noCount (s : State) {a : Nat} (h : noCount a = true) (n : Nat) : counterAdd s a n = s := by
  simp [counterAdd, h]

/-- COUNTER_LO_READ of such a pair that the bus carries out writes no register. -/
theorem exec_counterLoRead_noCount {time a n : Nat} {init : Init} {s : State} (hno : noCount a = true)
    (hacc : accepts s init a false = true) :
    ∃ u, exec (.counterLoRead time init a n) s = done s u ∧ u.regs = s.regs := by
  refine ⟨_, congrArg (done s) (ite_eq_right_iff.2 fun _ => counterAdd_noCount _ hno n), ?_⟩
  have hm : a ≠ Reg.ccMtimeLo := by
    rintro rfl
    exact absurd hno (by decide)
  rw [busRead_ok (by rwa [accepts_at])]
  simp only [if_neg hm, answer_regs, apply_ite State.regs, setSnap_regs, at_regs, ite_self]

/-- So it leaves the pair, whatever was counted in its cycle. -/
theorem counterLoRead_noCount {time a n : Nat} {init : Init} {s : State} (hno : noCount a = true)
    (hacc : accepts s init a false = true) (ha : noteReg a = false) (ha4 : noteReg (a + 4) = false) :
    Runs (.counterLoRead time init a n) s fun t => t.pair a = s.pair a := by
  obtain ⟨u, he, hregs⟩ := exec_counterLoRead_noCount (time := time) (n := n) hno hacc
  refine runs_of_done he ?_
  simp only [State.pair, State.regN, finish_reg s u _ ha, finish_reg s u _ ha4, reg_congr s hregs]

/-- Refutes O4: its first clause counts the `n` events of the cycle into every pair with a LO half, AO.RTC among them. RTC shows
a time, which no event moves, so after State.reset a read of RTC_LO with `n = 1` leaves the pair at 0, not at 1. -/
theorem not_counterReadsAndWrites : ¬ Obligations.CounterReadsAndWrites := by
  unfold Obligations.CounterReadsAndWrites
  rintro ⟨hread, -, -⟩
  have hacc : accepts State.reset 0 Reg.aoRtcLo false = true := by decide
  have run := hread 0 0 Reg.aoRtcLo 1 State.reset _ rfl (.inr rfl) hacc (by decide) (by decide)
  have stays := counterLoRead_noCount (time := 0) (init := 0) (n := 1) (by decide) hacc (by decide) (by decide)
  obtain ⟨t, hstays, -, -, hcounted⟩ := stays.both run
  have hzero : State.reset.pair Reg.aoRtcLo = 0 := by decide
  rw [hstays, hzero] at hcounted
  exact absurd hcounted (by decide)

/-! ### W1C flags -/

/-- The recorder records through the CC tap, the notice of tap pound PD35 stands with its interrupt enabled, and PD35 is empty
with MARK = 1. -/
def noticeState : State :=
  (((State.reset.setNat Reg.tpTpCtrl 0x40001).setNat (Reg.topPndIrqEn0 + 4) 8).setNat (Reg.topPndCfg 35) 1).setNat
    (Reg.topPndStat 35) 0x1000000

/-- Clearing the notice of PD35 deasserts its interrupt source; the IRQ record of that change (R498) enters PD35, whose level
crosses MARK, and the crossing sets the notice again (R27). -/
theorem w1cClear_notice_set_again :
    Runs (.w1cClear 0 0 (Reg.topPndIrqStat0 + 4 * 1) 8 0) noticeState fun t =>
      t.bit (Reg.topPndStat (32 * 1 + 3)) 24 = true :=
  ⟨_, rfl, by decide +kernel⟩

/-- Refutes O6: its second clause covers the tap pounds also while the towpath records. In `noticeState` the clear itself brings
an IRQ record into PD35, which crosses MARK, so the notice stands after the clear although `hw` does not set it. -/
theorem not_flagsClearUnlessSetAgain : ¬ Obligations.FlagsClearUnlessSetAgain := by
  unfold Obligations.FlagsClearUnlessSetAgain
  rintro ⟨-, hnotice, -, -⟩
  have run := hnotice 0 0 8 0 noticeState 1 3 (by decide) (by decide) (by decide)
  obtain ⟨t, hset, hclear⟩ := w1cClear_notice_set_again.both run
  rw [hset] at hclear
  exact absurd hclear (by decide)

/-! ### Clear-on-read registers -/

/-- No register of the gauge house's window clears on read. -/
theorem not_ghWindow_of_rc {a : Nat} {r : RegRow} (h : regRow a = some r) (hk : r.kind = .rc) :
    ¬(0x43000000 ≤ a ∧ a < 0x43001000) := by
  intro hr
  obtain ⟨b, hb, hm⟩ := regBlock_of_regRow h
  unfold regBlock at hb
  iterate 17 rw [if_neg (by omega)] at hb
  rw [if_pos hr] at hb
  cases hb
  have hgh : ∀ r ∈ ghRows, r.kind ≠ .rc := by decide
  exact hgh r hm hk

/-- Of the clear-on-read registers only TSQ_POP shows what follows the state. -/
theorem shownView_of_rc (s : State) {a : Nat} {r : RegRow} (h : regRow a = some r) (hk : r.kind = .rc)
    (htsq : ∀ p, p < 66 → a ≠ portReg p Reg.spTsqPop Reg.ulTsqPop) : shownView s a = none := by
  have hrc : kindOf a = some .rc := by rw [kindOf_eq h, hk]
  have hne : ∀ b, kindOf b ≠ some .rc → a ≠ b := fun b => ne_of_kindOf hrc
  have hhit : ∀ (n : Nat) (f : Nat → Nat), (∀ i, i < n → kindOf (f i) ≠ some .rc) → hit n f a = none :=
    fun n f hf => hit_eq_none fun i hi => (hne _ (hf i hi)).symm
  have hpend : ¬(Reg.plicPend 0 ≤ a ∧ a < Reg.plicPend 32 ∧ a % 4 = 0) := by
    rintro ⟨h0, h1, h2⟩
    have hk : ∀ k, k < 32 → kindOf (Reg.plicPend k) ≠ some .rc := by decide
    refine hne _ (hk ((a - Reg.plicPend 0) / 4) ?_) ?_ <;> simp only [Reg.plicPend] at * <;> omega
  have htsq' : hit 66 (fun p => portReg p Reg.spTsqPop Reg.ulTsqPop) a = none :=
    hit_eq_none fun p hp => (htsq p hp).symm
  unfold shownView
  rw [inSluice_eq_false h, if_neg (by decide), if_neg (hne _ (by decide)), if_neg (hne _ (by decide)), if_neg (hne _ (by decide)),
    if_neg (hne _ (by decide)), if_neg (hne _ (by decide)), if_neg (hne _ (by decide)), if_neg hpend,
    hhit 16 Reg.plicClaim (by decide), hhit 72 Reg.tmPortCells (by decide), hhit 16 Reg.dutyBandUsed (by decide),
    hhit 16 Reg.dutyBandRsv (by decide), hhit 2 Reg.mcPortStat (by decide), hhit 3 Reg.rdRdStat (by decide), htsq',
    hhit 64 Reg.spMse (by decide), hhit 2 Reg.ulSerdesRx (by decide)]

/-- An accepted read of a clear-on-read register other than TSQ_POP answers the stored value. -/
theorem readAt_of_rc {s : State} {init a : Nat} {r : RegRow} (h : regRow a = some r) (hk : r.kind = .rc)
    (htsq : ∀ p, p < 66 → a ≠ portReg p Reg.spTsqPop Reg.ulTsqPop) (hacc : accepts s init a false = true) :
    readAt s a = s.reg a := by
  have hread : readReg s a = s.reg a := by
    simp only [readReg, if_neg (not_ghWindow_of_rc h hk), shownView_of_rc s h hk htsq, h, hk]
  obtain ⟨-, -, hc⟩ := (accepts_iff _ _ _ _).1 hacc
  obtain hr | hr := regionOf_of_regRow h hc <;> simp only [readAt, hr, hread]

/-- A clear-on-read register cleared by the read of an initiator; the debug module's read clears nothing (R12, R469). -/
def rcCleared (s : State) (init a : Nat) : State := if init = 10 then s else s.setReg a 0

theorem regN_rcCleared_same (s : State) (init a : Nat) :
    (rcCleared s init a).regN a = if init = 10 then s.regN a else 0 := by
  unfold rcCleared
  split <;> simp [State.regN]

theorem reg_rcCleared_ne (s : State) (init : Nat) {a q : Nat} (h : q ≠ a) : (rcCleared s init a).reg q = s.reg q := by
  unfold rcCleared
  split
  · rfl
  · exact reg_setReg_ne s 0 h

/-- What RC_READ leaves beside the time: the answer, the clearing, and the count of the cycle's events after it. -/
def rcReadEffect (s : State) (init a n : Nat) : State :=
  ((rcCleared (s.answer .ok) init a).answer (.data (s.reg a))).addRc a n

theorem rcReadEffect_resp (s : State) (init a n : Nat) : (rcReadEffect s init a n).resp = .data (s.reg a) := rfl

theorem regN_rcReadEffect_same (s : State) (init a n : Nat) :
    (rcReadEffect s init a n).regN a = min ((if init = 10 then s.regN a else 0) + n) 0xFFFFFFFF := by
  rw [rcReadEffect, State.addRc, regN_setNat_same]
  show min ((rcCleared (s.answer .ok) init a).regN a + n) 0xFFFFFFFF % 2 ^ 32 = _
  rw [regN_rcCleared_same]
  exact Nat.mod_eq_of_lt (by omega)

theorem reg_rcReadEffect_ne (s : State) (init n : Nat) {a q : Nat} (h : q ≠ a) :
    (rcReadEffect s init a n).reg q = s.reg q := by
  rw [rcReadEffect, reg_addRc_ne _ _ _ h]
  exact reg_rcCleared_ne (s.answer .ok) init h

/-- RC_READ of a clear-on-read register that the bus reads, other than TSQ_POP and DISP. -/
theorem exec_rcRead {time n a : Nat} {init : Init} {s : State} {r : RegRow} (h : regRow a = some r) (hk : r.kind = .rc)
    (htsq : ∀ p, p < 66 → a ≠ portReg p Reg.spTsqPop Reg.ulTsqPop) (hdisp : ∀ c, c < 8 → a ≠ Reg.tsWDisp c)
    (hacc : accepts s init a false = true) :
    exec (.rcRead time init a n) s = done s (rcReadEffect (s.at time) init a n) := by
  have hrc : kindOf a = some .rc := by rw [kindOf_eq h, hk]
  have hclaim : ∀ c, c < 16 → kindOf (Reg.plicClaim c) ≠ some .rc := by decide
  have hacc' : accepts (s.at time) init a false = true := by rwa [accepts_at]
  show execRcRead time init a n s = _
  unfold execRcRead
  simp only [hit_eq_none fun p hp => (htsq p hp).symm, hit_eq_none fun c hc => (hdisp c hc).symm,
    hit_eq_none fun c hc => (ne_of_kindOf hrc (hclaim c hc)).symm, h, hk, decide_true, if_true,
    readAt_of_rc h hk htsq hacc', busRead_ok hacc', rcReadEffect, rcCleared]

/-- Settles O5: the answer is the stored value, and the count of the cycle is added to what the clearing left. -/
theorem clearOnReadCountsIntoTheNextInterval : Obligations.ClearOnReadCountsIntoTheNextInterval := by
  unfold Obligations.ClearOnReadCountsIntoTheNextInterval
  intro time init a n s r h hk htsq hdisp hacc hcalm
  have hrc : kindOf a = some .rc := by rw [kindOf_eq h, hk]
  have hother : ∀ q, kindOf q ≠ some .rc → (rcReadEffect (s.at time) init a n).reg q = s.reg q :=
    fun q hq => reg_rcReadEffect_ne _ _ _ (ne_of_kindOf hrc hq).symm
  have hinit : init.val = 10 ↔ init = 10 := (Fin.ext_iff (a := init) (b := 10)).symm
  refine runs_of_done (exec_rcRead h hk htsq hdisp hacc) ⟨(finish_resp _ _).trans (rcReadEffect_resp _ _ _ _), ?_⟩
  calc (finish s (rcReadEffect (s.at time) init a n)).regN a
      = (rcReadEffect (s.at time) init a n).regN a :=
        congrArg BitVec.toNat (finish_reg_of_calm hcalm (hother _ (by decide)) (hother _ (by decide)))
    _ = min ((if init.val = 10 then s.regN a else 0) + n) 0xFFFFFFFF := regN_rcReadEffect_same _ _ _ _
    _ = min ((if init = 10 then s.regN a else 0) + n) 0xFFFFFFFF := by simp only [hinit]

/-! ### Register writes -/

/-- A write that the bus carries out acts on a state that differs from the one before it by the answer and by what the recorder and
the passage of PD52 leave. -/
theorem exec_registerWrite {time size a : Nat} {init : Init} {s : State} (hheld : s.ao.held = false)
    (hdbg : debugMay s init true = true) (hc : busCause s init a size true = none) (d : Word) :
    ∃ u, Aside ((s.at time).answer .ok) u ∧ exec (.registerWrite time init size a d) s =
      done s (if regionOf a = .regs then regWrite u a d else memBusWrite u a size d) := by
  refine ⟨_, taskWire_aside (recordWrite_aside _ init a d) a, congrArg (done s) ?_⟩
  have hdbg' : debugMay (s.at time) init true = true := hdbg
  have hc' : busCause (s.at time) init a size true = none := hc
  simp only [busDo, at_ao, hheld, hdbg', hc', Option.isSome_some, Bool.not_false, Bool.and_true, if_true]
  cases regionOf a <;> rfl

/-- The same for a 32-bit write in the register region. -/
theorem exec_registerWrite_reg {time a : Nat} {init : Init} {s : State} (hreg : regionOf a = .regs)
    (hacc : accepts s init a true = true) (d : Word) :
    ∃ u, Aside ((s.at time).answer .ok) u ∧ exec (.registerWrite time init 4 a d) s = done s (regWrite u a d) := by
  obtain ⟨hheld, hdbg, hc⟩ := (accepts_iff _ _ _ _).1 hacc
  obtain ⟨u, hu, he⟩ := exec_registerWrite (time := time) hheld hdbg hc d
  exact ⟨u, hu, by rw [he, if_pos hreg]⟩

/-- A write to a register of plain effect sets its RW bits and leaves the other registers and the memories. -/
theorem registerWrite_plain {time a : Nat} {init : Init} {d : Word} {s : State} {r : RegRow} (h : regRow a = some r)
    (hreg : regionOf a = .regs) (hrw : r.rw ≠ 0) (hn : noteReg a = false)
    (hw : ∀ u : State, regWrite u a d = u.setReg a (mergeMask (u.reg a) d r.rw)) (hacc : accepts s init a true = true) :
    Runs (.registerWrite time init 4 a d) s fun t => t.resp = .ok ∧
      (∃ r, regRow a = some r ∧ r.rw ≠ 0 ∧ t.reg a = mergeMask (s.reg a) d r.rw) ∧
      (∀ q, q ≠ a → noteReg q = false → t.reg q = s.reg q) ∧ t.l2 = s.l2 ∧ t.tstore = s.tstore ∧
      ∀ o, outRing s o = true → memGet t.dram o = memGet s.dram o := by
  obtain ⟨u, hu, he⟩ := exec_registerWrite_reg (time := time) hreg hacc d
  rw [hw] at he
  refine runs_of_done he ⟨?_, ⟨r, h, hrw, ?_⟩, fun q hq hnq => ?_, ?_, ?_, fun o _ => ?_⟩
  · rw [finish_resp]; exact hu.resp
  · rw [finish_reg _ _ _ hn, reg_setReg_same, hu.reg_ok hn]
  · rw [finish_reg _ _ _ hnq, reg_setReg_ne _ _ hq, hu.reg_ok hnq]
  · rw [finish_l2]; exact hu.l2
  · rw [finish_tstore]; exact hu.tstore
  · rw [finish_dram]; exact congrArg (memGet · o) hu.dram

/-! ### Unassigned offsets -/

/-- Every address of a list is a register's. -/
def assigned (l : List Nat) : Bool := l.all (fun b => (regRow b).isSome)

theorem ne_of_unassigned {a b : Nat} (h : regRow a = none) (hb : (regRow b).isSome = true) : a ≠ b := by
  rintro rfl
  simp [h] at hb

theorem plainWrite_unassigned {a : Nat} (h : regRow a = none) (s : State) (d : Word) : plainWrite s a d = s := by
  simp only [plainWrite, h]

theorem hit_unassigned {a n : Nat} {f : Nat → Nat} (h : regRow a = none)
    (hf : assigned ((List.range n).map f) = true) : hit n f a = none := by
  simp only [assigned, List.all_map, List.all_eq_true, List.mem_range, Function.comp_apply] at hf
  exact hit_eq_none fun i hi => (ne_of_unassigned h (hf i hi)).symm

theorem oneOf_unassigned {a : Nat} {l : List (Nat × (State → State))} (h : regRow a = none) (ks : List Nat)
    (hks : assigned ks = true) (s : State) (d : Word) (hl : l.map (·.1) = ks := by rfl) : oneOf l s a d = s := by
  subst hl
  simp only [assigned, List.all_map, List.all_eq_true, Function.comp_apply] at hks
  have hf : l.find? (fun e => decide (e.1 = a)) = none := by
    rw [List.find?_eq_none]
    exact fun e he => by simpa using (ne_of_unassigned h (hks e he)).symm
  rw [oneOf, hf]
  exact plainWrite_unassigned h s d

theorem not_ring_of_unassigned {a b c e f : Nat} (h : regRow a = none) (hl : assigned [b, c, e, f] = true) :
    ¬(a = b ∨ a = c ∨ a = e ∨ a = f) := by
  rintro (rfl | rfl | rfl | rfl) <;> simp [assigned, h] at hl

/-- A ring's place, SIZE and BUF_LEN are assigned, so no ring's guard names an unassigned offset. -/
theorem ringGuard_unassigned {a : Nat} (h : regRow a = none) : ringGuard a = none := by
  have hul : ∀ u, u < 2 →
      assigned [Reg.ulTxRingLo u, Reg.ulTxRingHi u, Reg.ulTxRingSize u, Reg.ulTxBufLen u] = true ∧
      assigned [Reg.ulRxRingLo u, Reg.ulRxRingHi u, Reg.ulRxRingSize u, Reg.ulRxBufLen u] = true := by decide
  rw [ringGuard, if_neg (not_ring_of_unassigned h (by decide)), if_neg (not_ring_of_unassigned h (by decide)),
    List.findSome?_eq_none_iff]
  intro u hu
  obtain ⟨htx, hrx⟩ := hul u (List.mem_range.1 hu)
  rw [if_neg (not_ring_of_unassigned h htx), if_neg (not_ring_of_unassigned h hrx)]

section
variable {a : Nat} (h : regRow a = none) (s : State) (d : Word)
include h

theorem topWrite_unassigned : topWrite s a d = s := by
  rw [topWrite, if_neg (ne_of_unassigned h (by decide)), hit_unassigned h (by decide), hit_unassigned h (by decide)]
  exact oneOf_unassigned h [Reg.topChipRst] (by decide) s d

theorem aoWrite_unassigned : aoWrite s a d = s :=
  oneOf_unassigned h [Reg.aoPmCmd, Reg.aoAoWdog] (by decide) s d

theorem secWrite_unassigned : secWrite s a d = s :=
  oneOf_unassigned h [Reg.secLcCmd, Reg.secOtpCmd, Reg.secSvnCmd, Reg.secSecureBase,
    Reg.secSecureLimit, Reg.secSecureLock, Reg.secHmacCmd, Reg.secDbgRevoke] (by decide) s d

theorem tpWrite_unassigned : tpWrite s a d = s :=
  oneOf_unassigned h [Reg.tpTpCtrl, Reg.tpMarkCmd, Reg.tpRpCmd, Reg.tpRingBaseLo, Reg.tpRingBaseHi,
    Reg.tpRingSize] (by decide) s d

theorem ppWrite_unassigned : ppWrite s a d = s :=
  oneOf_unassigned h [Reg.ppNatCmd, Reg.ppNatExpTail, Reg.ppNatSeed] (by decide) s d

theorem tmWriteReg_unassigned : tmWriteReg s a d = s :=
  oneOf_unassigned h [Reg.tmSpillBaseLo, Reg.tmSpillBaseHi, Reg.tmSpillSize, Reg.tmTmCtrl, Reg.tmFqSel] (by decide) s d

theorem tsWriteReg_unassigned : tsWriteReg s a d = s := by
  rw [tsWriteReg, hit_unassigned h (by decide), hit_unassigned h (by decide), hit_unassigned h (by decide)]
  exact oneOf_unassigned h [Reg.tsTsCtrl, Reg.tsCoreEn] (by decide) s d

theorem mcWrite_unassigned {c : Nat} (hc : c < 2) : mcWrite s c a d = s := by
  have hl : ∀ c, c < 2 → assigned [Reg.mcMcCtrl c, Reg.mcGeom c, Reg.mcAddrMap c, Reg.mcTrainCmd c] = true ∧
      assigned ((List.range 8).map (Reg.mcPortCfg c)) = true ∧ assigned ((List.range 5).map (Reg.mcLaneDly c)) = true := by
    decide
  obtain ⟨hone, hport, hlane⟩ := hl c hc
  rw [mcWrite, hit_unassigned h hport, hit_unassigned h hlane]
  exact oneOf_unassigned h _ hone s d

theorem genWrite_unassigned : genWrite s a d = s := by
  have hsta : staWriteReg s a d = s := by
    rw [staWriteReg, hit_unassigned h (by decide), hit_unassigned h (by decide), hit_unassigned h (by decide)]
    exact oneOf_unassigned h [Reg.staStaCmd, Reg.staKeyCmd, Reg.staAddrSeed, Reg.staMldAddrLo, Reg.staMldAddrHi,
      Reg.staRoBaseLo, Reg.staRoBaseHi, Reg.staRoSize, Reg.staLossState, Reg.staLossSw,
      Reg.staMeshCtrl] (by decide) s d
  rw [genWrite, hsta, hit_unassigned h (by decide), hit_unassigned h (by decide)]
  exact ite_eq_left_iff.2 fun _ => oneOf_unassigned h [Reg.genLoadCmd, Reg.genArmCmd] (by decide) s d

theorem spWrite_unassigned {n : Nat} (hn : n < 64) : spWrite s n a d = s := by
  have hl : ∀ n, n < 64 → assigned [Reg.spPhyCtrl n, Reg.spAdaptCtrl n, Reg.spFenceCfg n, Reg.spTdrCmd n,
    Reg.spPodlCtrl n] = true := by decide
  exact oneOf_unassigned h _ (hl n hn) s d

theorem ulWrite_unassigned {u : Nat} (hu : u < 2) : ulWrite s u a d = s := by
  have hl : ∀ u, u < 2 → assigned [Reg.ulUlCtrl u, Reg.ulSerdesTx u, Reg.ulSerdesRx u, Reg.ulSecTxSa u, Reg.ulSecSaCmd u] = true ∧
      assigned ((List.range 8).map (Reg.ulSecKeyData u)) = true := by decide
  obtain ⟨hone, hkey⟩ := hl u hu
  rw [ulWrite, hit_unassigned h hkey, ringGuard_unassigned h]
  exact oneOf_unassigned h _ hone s d

/-- Radio by radio: with `x` open, unfolding `rdWrite` makes the kernel compute with its stride. -/
theorem rdWrite_unassigned {x : Nat} (hx : x < 3) : rdWrite s x a d = s := by
  have hl : ∀ x, x < 3 → assigned [Reg.rdRdCtrl x, Reg.rdFemTiming x, Reg.rdPwrLimit x, Reg.rdChainEn x] = true ∧
      assigned ((List.range 2).map (Reg.rdTuner x)) = true ∧ assigned ((List.range 4).map (Reg.rdPdetCal x)) = true := by decide
  obtain ⟨hone, htuner, hpdet⟩ := hl x hx
  interval_cases x
  all_goals
    delta rdWrite
    rw [hit_unassigned h htuner, hit_unassigned h hpdet]
    exact oneOf_unassigned h _ hone s d

theorem ccWrite_unassigned : ccWrite s a d = s := by
  rw [ccWrite, hit_unassigned h (by decide), hit_unassigned h (by decide), ringGuard_unassigned h]
  exact oneOf_unassigned h [Reg.ccL2Cfg] (by decide) s d

theorem plicWrite_unassigned : plicWrite s a d = s := by
  rw [plicWrite, hit_unassigned h (by decide), hit_unassigned h (by decide)]
  exact plainWrite_unassigned h s d

/-- A write to an unassigned offset of the register region changes nothing (R5). -/
theorem regWrite_unassigned : regWrite s a d = s := by
  have hplain := plainWrite_unassigned h s d
  unfold regWrite
  refine ite_eq_iff'.2 ⟨fun _ => topWrite_unassigned h s d, fun _ => ?_⟩
  refine ite_eq_iff'.2 ⟨fun _ => aoWrite_unassigned h s d, fun _ => ?_⟩
  refine ite_eq_iff'.2 ⟨fun _ => hplain, fun _ => ?_⟩
  refine ite_eq_iff'.2 ⟨fun _ => secWrite_unassigned h s d, fun _ => ?_⟩
  refine ite_eq_iff'.2 ⟨fun _ => tsWriteReg_unassigned h s d, fun _ => ?_⟩
  refine ite_eq_iff'.2 ⟨fun _ => oneOf_unassigned h [Reg.pmuBwCtrl] (by decide) s d, fun _ => ?_⟩
  refine ite_eq_iff'.2 ⟨fun _ => tpWrite_unassigned h s d, fun _ => ?_⟩
  refine ite_eq_iff'.2 ⟨fun _ => hplain, fun _ => ?_⟩
  refine ite_eq_iff'.2 ⟨fun _ => mcWrite_unassigned h s d (by omega), fun _ => ?_⟩
  refine ite_eq_iff'.2 ⟨fun _ => ppWrite_unassigned h s d, fun _ => ?_⟩
  refine ite_eq_iff'.2 ⟨fun _ => tmWriteReg_unassigned h s d, fun _ => ?_⟩
  refine ite_eq_iff'.2 ⟨fun _ => genWrite_unassigned h s d, fun _ => ?_⟩
  refine ite_eq_iff'.2 ⟨fun _ => spWrite_unassigned h s d (by omega), fun _ => ?_⟩
  refine ite_eq_iff'.2 ⟨fun _ => ulWrite_unassigned h s d (by omega), fun _ => ?_⟩
  refine ite_eq_iff'.2 ⟨fun _ => rdWrite_unassigned h s d (by omega), fun _ => ?_⟩
  refine ite_eq_iff'.2 ⟨fun _ => hplain, fun _ => ?_⟩
  exact ite_eq_iff'.2 ⟨fun _ => plicWrite_unassigned h s d, fun _ => ccWrite_unassigned h s d⟩

end

/-! ### Writes to memory -/

/-- `t` has the answer, the DRAM and the L2 of `s`. -/
structure KeepsMemory (s t : State) : Prop where
  resp : t.resp = s.resp
  dram : t.dram = s.dram
  l2 : t.l2 = s.l2

namespace KeepsMemory

variable {s t : State}

theorem refl (s : State) : KeepsMemory s s := ⟨rfl, rfl, rfl⟩

/-- A register set, in whatever form: `setNat`, `setFld`, `setBit`, `raise`, `orReg`, `inc` and `setFlds` are each a `setReg`. -/
theorem setReg (h : KeepsMemory s t) (a : Nat) (v : Word) : KeepsMemory s (t.setReg a v) := ⟨h.resp, h.dram, h.l2⟩

theorem setChan (h : KeepsMemory s t) (c : Nat) (x : McChan) : KeepsMemory s (t.setChan c x) := ⟨h.resp, h.dram, h.l2⟩

theorem ite {c : Prop} [Decidable c] {u : State} (h : c → KeepsMemory s t) (k : ¬c → KeepsMemory s u) :
    KeepsMemory s (if c then t else u) := by
  split
  · next hc => exact h hc
  · next hc => exact k hc

theorem each {α : Type} (h : KeepsMemory s t) (l : List α) (f : α → State → State)
    (hf : ∀ x u, KeepsMemory s u → KeepsMemory s (f x u)) : KeepsMemory s (t.each l f) :=
  each_ind t (KeepsMemory s) l f h fun x _ u hu => hf x u hu

theorem bwCount (h : KeepsMemory s t) (q n : Nat) (w : Bool) : KeepsMemory s (bwCount t q n w) :=
  .ite (fun _ => .ite (fun _ => ⟨h.resp, h.dram, h.l2⟩) fun _ => ⟨h.resp, h.dram, h.l2⟩) fun _ => h

theorem transit (h : KeepsMemory s t) (p n k : Nat) : KeepsMemory s (transit t p n k) :=
  .ite (fun _ => h) fun _ => .setReg (.setReg (.ite (fun _ => .setReg (.setReg h _ _) _ _) fun _ => h) _ _) _ _

theorem clearBad (h : KeepsMemory s t) (off n : Nat) : KeepsMemory s (clearBad t off n) :=
  h.each _ _ fun _ _ hu => .ite (fun _ => hu) fun _ => hu.setChan _ _

theorem mcRecord (h : KeepsMemory s t) (c a port kind : Nat) (w : Bool) : KeepsMemory s (mcRecord t c a port kind w) :=
  .ite (fun _ => h.setReg _ _) fun _ => (h.setReg _ _).setReg _ _

theorem logShift (h : KeepsMemory s t) (p : Nat) : KeepsMemory s (logShift t p) :=
  (((h.setReg _ _).setReg _ _).setReg _ _).setReg _ _

theorem logWrite (h : KeepsMemory s t) (p w0 info : Nat) : KeepsMemory s (logWrite t p w0 info) :=
  (((h.setReg _ _).setReg _ _).setReg _ _).setReg _ _

theorem logInsert (h : KeepsMemory s t) (w0 info : Nat) : KeepsMemory s (logInsert t w0 info) := by
  unfold Machine.logInsert
  extract_lets _ _ _ _ moved placed
  have hmoved : KeepsMemory s moved := h.each _ _ fun _ _ hu => hu.logShift _
  have hplaced : KeepsMemory s placed := .ite (fun _ => hmoved) fun _ => hmoved.logWrite _ _ _
  exact .ite (fun _ => (hplaced.setReg _ _).setReg _ _) fun _ => hplaced.setReg _ _

theorem raiseFault (h : KeepsMemory s t) (cls src : Nat) (act : FltAction) (info : Nat) :
    KeepsMemory s (raiseFault t cls src act info) := logInsert (((h.setReg _ _).setReg _ _).setReg _ _) _ _

theorem mcUe (h : KeepsMemory s t) (c line port : Nat) (w : Bool) : KeepsMemory s (mcUe t c line port w) :=
  .mcRecord (.setChan (.raiseFault ((h.setReg _ _).setReg _ _) _ _ _ _) _ _) _ _ _ _ _

/-- The traffic of an access leaves the contents of the memories and the answer. -/
theorem dramUse (h : KeepsMemory s t) (q off n : Nat) (w : Bool) : KeepsMemory s (dramUse t q off n w) := by
  unfold Machine.dramUse
  extract_lets _ _ counted asked answered
  have hcounted : KeepsMemory s counted := h.bwCount _ _ _
  have hwire : KeepsMemory s answered := (hcounted.transit _ _ _).transit _ _ _
  split
  · exact .ite (fun _ => hwire.clearBad _ _) fun _ => hwire
  · exact .ite (fun _ => hwire) fun _ => .ite (fun _ => hwire.mcRecord _ _ _ _ _) fun _ => hwire.mcUe _ _ _ _

end KeepsMemory

/-- A write to DRAM stores its bytes, with the answer OK, and leaves the L2. -/
theorem registerWrite_dram {time size a : Nat} {init : Init} {s : State} (hheld : s.ao.held = false)
    (hdbg : debugMay s init true = true) (hc : busCause s init a size true = none) (hr : regionOf a = .dram) (d : Word) :
    Runs (.registerWrite time init size a d) s fun t => t.resp = .ok ∧ t.l2 = s.l2 ∧
      t.dram = memWrite s.dram (a - 0x800000000) (leBytes size d.toNat) := by
  obtain ⟨u, hu, he⟩ := exec_registerWrite (time := time) hheld hdbg hc d
  have hk := (KeepsMemory.refl (u.dramWrite (a - 0x800000000) (leBytes size d.toNat))).dramUse 0 (a - 0x800000000) size true
  rw [if_neg (by rw [hr]; decide), memBusWrite, hr] at he
  refine runs_of_done he ⟨?_, ?_, ?_⟩
  · rw [finish_resp, hk.resp]; exact hu.resp
  · rw [finish_l2, hk.l2]; exact hu.l2
  · rw [finish_dram, hk.dram]
    exact congrArg (memWrite · (a - 0x800000000) (leBytes size d.toNat)) hu.dram

/-- A write to the L2 window stores its bytes, with the answer OK, and leaves DRAM. -/
theorem registerWrite_l2 {time size a : Nat} {init : Init} {s : State} (hheld : s.ao.held = false)
    (hdbg : debugMay s init true = true) (hc : busCause s init a size true = none) (hr : regionOf a = .l2) (d : Word) :
    Runs (.registerWrite time init size a d) s fun t => t.resp = .ok ∧ t.dram = s.dram ∧
      t.l2 = memWrite s.l2 (a - 0x10000000) (leBytes size d.toNat) := by
  obtain ⟨u, hu, he⟩ := exec_registerWrite (time := time) hheld hdbg hc d
  rw [if_neg (by rw [hr]; decide), memBusWrite, hr] at he
  refine runs_of_done he ⟨?_, ?_, ?_⟩
  · rw [finish_resp]; exact hu.resp
  · rw [finish_dram]; exact hu.dram
  · rw [finish_l2]
    exact congrArg (memWrite · (a - 0x10000000) (leBytes size d.toNat)) hu.l2

theorem memGet_memWrite_leBytes (m : Bank Byte) (b size v o : Nat) :
    memGet (memWrite m b (leBytes size v)) o =
      if b ≤ o ∧ o < b + size then (leBytes size v).getD (o - b) 0 else memGet m o := by
  rw [memGet_memWrite, length_leBytes]

/-- Settles O8: each listed register has the plain effect, an unassigned offset none, and a memory write stores its bytes. -/
theorem registerWritesSetRwFields : Obligations.RegisterWritesSetRwFields := by
  unfold Obligations.RegisterWritesSetRwFields
  refine ⟨fun time init a d s ha hacc => ?_, fun time init a d s hreg h _ hacc => ?_,
    fun time init size a d s _ hheld hdbg hc => ⟨fun hr => ?_, fun hr => ?_⟩⟩
  · fin_cases ha
    all_goals exact registerWrite_plain (r := _) rfl rfl (by decide) (by decide) (fun _ => rfl) hacc
  · obtain ⟨u, hu, he⟩ := exec_registerWrite_reg (time := time) hreg hacc d
    rw [regWrite_unassigned h u d] at he
    refine runs_of_done he ⟨?_, fun q hq => ?_⟩
    · rw [finish_resp]; exact hu.resp
    · rw [finish_reg _ _ _ hq, hu.reg_ok hq]
  · refine (registerWrite_dram hheld hdbg hc hr d).mono fun t ⟨hok, hl2, hdram⟩ => ⟨hok, hl2, fun o _ => ?_⟩
    rw [hdram, memGet_memWrite_leBytes]
  · refine (registerWrite_l2 hheld hdbg hc hr d).mono fun t ⟨hok, hdram, hl2⟩ => ⟨hok, fun o _ => by rw [hdram], fun o => ?_⟩
    rw [hl2, memGet_memWrite_leBytes]

end Sys2Proof.Machine
end


section
/-! Proofs of the islands family (01_islands_and_map). The facts about pounds, and about what the event map and the towpath's
records leave of them, that the proofs share stand first. -/

namespace Sys2Proof.Machine

/-! ### Pounds -/

section
variable (s : State) (p : Nat) (q : Pound)

/-- A pound's update writes PND_STAT, PND_PKTS and PND_XCNT of that pound alone. -/
theorem reg_setPound_ne {a : Nat} (hstat : a ≠ Reg.topPndStat p) (hpkts : a ≠ Reg.topPndPkts p) (hxcnt : a ≠ Reg.topPndXcnt p) :
    (s.setPound p q).reg a = s.reg a := by
  unfold State.setPound
  extract_lets _ _ _ stored flagged counted
  have hc : counted.reg a = s.reg a := by
    rw [reg_setNat_ne _ _ _ hpkts, reg_setFlds_ne _ _ _ hstat]; rfl
  split
  · rw [reg_incWrap_ne _ _ hxcnt, reg_setBit_ne _ _ _ _ hstat, hc]
  · exact hc

/-- LEVEL, WM_LIVE and WM_NOTICE are the bits of PND_STAT that a pound's update writes. -/
theorem bit_setPound_stat {i : Nat} (h10 : 10 ≤ i) (h16 : i ≠ 16) (h24 : i ≠ 24) :
    (s.setPound p q).bit (Reg.topPndStat p) i = s.bit (Reg.topPndStat p) i := by
  have hpkts : Reg.topPndStat p ≠ Reg.topPndPkts p := by simp only [Reg.topPndStat, Reg.topPndPkts]; omega
  have hxcnt : Reg.topPndStat p ≠ Reg.topPndXcnt p := by simp only [Reg.topPndStat, Reg.topPndXcnt]; omega
  unfold State.setPound
  extract_lets _ _ _ stored flagged counted
  have hc : counted.bit (Reg.topPndStat p) i = s.bit (Reg.topPndStat p) i := by
    simp only [counted, flagged, State.bit, reg_setNat_ne _ _ _ hpkts, State.setFlds, reg_setReg_same, List.foldl_cons,
      List.foldl_nil]
    rw [bitOf_putBits_out _ _ _ _ _ (by omega), bitOf_putBits_out _ _ _ _ _ (by omega)]
    rfl
  split
  · rw [State.bit, reg_incWrap_ne _ _ hxcnt, reg_setBit_same, bitOf_putBit_ne _ _ h24]
    exact hc
  · exact hc

/-- No pound closes or opens with the words in one. -/
@[simp] theorem poundClosed_setPound (r : Nat) : poundClosed (s.setPound p q) r = poundClosed s r := by
  by_cases h : r = p
  · rw [h]; exact bit_setPound_stat s p q (by decide) (by decide) (by decide)
  · have hreg : (s.setPound p q).reg (Reg.topPndStat r) = s.reg (Reg.topPndStat r) := by
      apply reg_setPound_ne <;> simp only [Reg.topPndStat, Reg.topPndPkts, Reg.topPndXcnt] <;> omega
    simp only [poundClosed, State.bit, hreg]

end

/-! ### What the event map and the towpath's records leave of the pounds and of the blocks' own records -/

/-- The registers that the event map writes at the end of a command: `mapReg` without those of PD52, which only the passage of a
task command writes. -/
def eventReg (a : Nat) : Bool :=
  decide (a = Reg.tsTsStat) || (decide (Reg.tsTaskView 0 ≤ a) && decide (a < Reg.tsTaskView 4096)) ||
    (decide (Reg.tsTaskFlags 0 ≤ a) && decide (a < Reg.tsTaskFlags 4096))

/-- `t` differs from `s` by what edges of interrupt sources and records of the taps leave: task flags and states, words written into
the tap pounds, and the discards. -/
structure Noted (s t : State) : Prop where
  regs : ∀ a, eventReg a = false → tapReg a = false → t.reg a = s.reg a
  closed : ∀ p, p < 54 → poundClosed t p = poundClosed s p
  ready : ∀ p, (t.pound p).ready = (s.pound p).ready
  taken : ∀ p, (t.pound p).taken = (s.pound p).taken
  ts : { t.ts with tasks := [], fresh := (0, []) } = { s.ts with tasks := [], fresh := (0, []) }
  tp : { t.tp with gap := [], taking := none } = { s.tp with gap := [], taking := none }
  plic : t.plic = s.plic

namespace Noted

variable {s t : State}

theorem refl (s : State) : Noted s s := ⟨fun _ _ _ => rfl, fun _ _ => rfl, fun _ => rfl, fun _ => rfl, rfl, rfl, rfl⟩

/-- A register that the event map or a record writes, outside the pounds' block. -/
theorem setReg (h : Noted s t) {a : Nat} (v : Word) (ha : (eventReg a || tapReg a) = true) (hp : 0x40002000 ≤ a) :
    Noted s (t.setReg a v) where
  regs q he ht := by
    rw [reg_setReg_ne _ _ (by rintro rfl; simp [he, ht] at ha)]
    exact h.regs q he ht
  closed p hlt := by
    have hne : Reg.topPndStat p ≠ a := by simp only [Reg.topPndStat]; omega
    rw [← h.closed p hlt]
    simp only [poundClosed, State.bit, reg_setReg_ne _ _ hne]
  ready := h.ready
  taken := h.taken
  ts := h.ts
  tp := h.tp
  plic := h.plic

/-- The tasks, the fresh flags, the discards and the mark being taken replaced. -/
theorem own (h : Noted s t) (tasks : Bank Task) (fresh : Nat × List (Nat × Nat)) (gap : Bank Nat) (taking : Option (Fin 16)) :
    Noted s { t with ts := { t.ts with tasks := tasks, fresh := fresh }, tp := { t.tp with gap := gap, taking := taking } } :=
  ⟨h.regs, h.closed, h.ready, h.taken, h.ts, h.tp, h.plic⟩

/-- A word written into a tap pound. -/
theorem push (h : Noted s t) {p : Nat} (hp : isTap p = true) (w : PWord) : Noted s (poundPush t p w) where
  regs q he ht := by
    have hpound : q ≠ Reg.topPndStat p ∧ q ≠ Reg.topPndPkts p ∧ q ≠ Reg.topPndXcnt p := by
      simp only [tapReg, Bool.or_eq_false_iff, List.any_eq_false, Bool.or_eq_true, decide_eq_true_eq, not_or] at ht
      simp only [isTap, Bool.and_eq_true, decide_eq_true_eq] at hp
      have hmem : p ∈ [33, 34, 35] := by simp; omega
      obtain ⟨⟨hstat, hxcnt⟩, hpkts⟩ := ht.2 p hmem
      exact ⟨hstat, hpkts, hxcnt⟩
    obtain ⟨hstat, hpkts, hxcnt⟩ := hpound
    rw [poundPush, reg_setPound_ne _ _ _ hstat hpkts hxcnt]
    exact h.regs q he ht
  closed r hr := (poundClosed_setPound _ _ _ r).trans (h.closed r hr)
  ready r := by
    rw [← h.ready r, poundPush, pound_setPound]
    split <;> simp [*]
  taken r := by
    rw [← h.taken r, poundPush, pound_setPound]
    split <;> simp [*]
  ts := by rw [poundPush, setPound_ts]; exact h.ts
  tp := by rw [poundPush, setPound_tp]; exact h.tp
  plic := by rw [poundPush, setPound_plic]; exact h.plic

theorem pushAll {p : Nat} (hp : isTap p = true) (ws : List PWord) : ∀ {t : State}, Noted s t → Noted s (pushAll t p ws) := by
  induction ws with
  | nil => intro t h; exact h
  | cons w r ih => intro t h; exact ih (h.push hp w)

theorem eventReg_view {k : Nat} (hk : k < 4096) : eventReg (Reg.tsTaskView k) = true := by
  simp only [eventReg, Bool.or_eq_true, Bool.and_eq_true, decide_eq_true_eq]
  simp only [Reg.tsTaskView, Reg.tsTaskFlags]
  omega

theorem eventReg_flags {k : Nat} (hk : k < 4096) : eventReg (Reg.tsTaskFlags k) = true := by
  simp only [eventReg, Bool.or_eq_true, Bool.and_eq_true, decide_eq_true_eq]
  simp only [Reg.tsTaskView, Reg.tsTaskFlags]
  omega

theorem setTaskState (h : Noted s t) {k : Nat} (st : Nat) (hk : k < 4096) : Noted s (t.setTaskState k st) := by
  unfold State.setTaskState
  extract_lets _ n _ viewed
  have hv : Noted s viewed := by
    refine (h.setReg _ ?_ ?_).setReg _ (by decide) (by decide)
    · rw [eventReg_view hk]; rfl
    · simp only [Reg.tsTaskView]; omega
  split
  · exact hv.own _ viewed.ts.fresh viewed.tp.gap viewed.tp.taking
  · exact hv

theorem reviewTask (h : Noted s t) {k : Nat} (hk : k < 4096) : Noted s (t.reviewTask k) := by
  unfold State.reviewTask
  split
  · exact h.setTaskState _ hk
  · split
    · exact h.setTaskState _ hk
    · exact h

theorem setFlag (h : Noted s t) {k : Nat} (f : Nat) (hk : k < 4096) : Noted s (t.setFlag k f) := by
  refine Noted.reviewTask ((h.own t.ts.tasks _ t.tp.gap t.tp.taking).setReg _ ?_ ?_) hk
  · rw [eventReg_flags hk]; rfl
  · simp only [Reg.tsTaskFlags]; omega

theorem setGap (h : Noted s t) (k n : Nat) : Noted s (setGap t k n) :=
  (h.own t.ts.tasks t.ts.fresh (bankSet (fun _ => 0) t.tp.gap k n) t.tp.taking).setReg _ (by decide) (by decide)

theorem discardRecord (h : Noted s t) (k : Nat) : Noted s (discardRecord t k) := by
  have hlost : Noted s (Machine.setGap (t.inc Reg.tpLost) k (gapOf t k + 1)) :=
    Noted.setGap (h.setReg (a := Reg.tpLost) _ (by decide) (by decide)) _ _
  unfold Machine.discardRecord
  dsimp only
  split
  · exact hlost
  · next m _ =>
    have hmark : tapReg (Reg.tpMarkStat m) = true := by
      simp only [tapReg, Bool.or_eq_true, Bool.and_eq_true, decide_eq_true_eq]
      simp only [Reg.tpMarkStat]
      omega
    have hfar : 0x40002000 ≤ Reg.tpMarkStat m := by simp only [Reg.tpMarkStat]; omega
    exact (hlost.setReg _ (by rw [hmark, Bool.or_true]) hfar).own _ _ _ none

theorem tapGap (h : Noted s t) {k : Nat} (hp : isTap (33 + k) = true) : Noted s (tapGap t k) := by
  unfold Machine.tapGap
  dsimp only
  split
  · exact h
  · exact ((h.pushAll hp _).setGap _ _).setReg _ (by decide) (by decide)

theorem tapRecord (h : Noted s t) {k : Nat} (hk : k < 3) (kind dt a0 a1 : Nat) (bs : List Byte) :
    Noted s (tapRecord t k kind dt a0 a1 bs) := by
  have hp : isTap (33 + k) = true := by simp only [isTap, Bool.and_eq_true, decide_eq_true_eq]; omega
  unfold Machine.tapRecord
  split
  · dsimp only
    split
    · exact (h.tapGap hp).pushAll hp _
    · exact (h.tapGap hp).discardRecord _
  · exact h

end Noted

/-- The edges of interrupt sources and their records leave no more than that. -/
theorem recordIrqs_noted (s t : State) : Noted t (recordIrqs s (mapEdges s t)) := by
  have hmap : Noted t (mapEdges s t) := by
    unfold mapEdges
    split
    · refine each_ind t (fun u => Noted t u) _ _ (Noted.refl t) (fun e he u hu => ?_)
      split
      · exact hu.setFlag _ (evtMap_task_lt t e he)
      · exact hu
    · exact Noted.refl t
  unfold recordIrqs
  split
  · exact each_ind _ (fun u => Noted t u) _ _ hmap (fun i _ u hu => hu.tapRecord (by decide) _ _ _ _ _)
  · exact hmap

/-- A register that no task edge and no record writes, those of PD52 among them, is as the command's own effect left it. -/
theorem finish_reg_event (s t : State) {a : Nat} (he : eventReg a = false) (ht : tapReg a = false) : (finish s t).reg a = t.reg a := by
  rw [finish, plicLatch_reg]
  exact (recordIrqs_noted s t).regs a he ht

@[simp] theorem plicLatch_pound (s : State) (p : Nat) : (plicLatch s).pound p = s.pound p := by
  obtain ⟨x, hx⟩ := plicLatch_plic s
  rw [hx]; rfl

theorem finish_poundClosed (s t : State) {p : Nat} (hp : p < 54) : poundClosed (finish s t) p = poundClosed t p := by
  rw [← (recordIrqs_noted s t).closed p hp]
  simp only [poundClosed, State.bit, finish, plicLatch_reg]

theorem finish_ready (s t : State) (p : Nat) : ((finish s t).pound p).ready = (t.pound p).ready := by
  rw [finish, plicLatch_pound]
  exact (recordIrqs_noted s t).ready p

theorem finish_taken (s t : State) (p : Nat) : ((finish s t).pound p).taken = (t.pound p).taken := by
  rw [finish, plicLatch_pound]
  exact (recordIrqs_noted s t).taken p

/-- The lock-keeper's record but for its tasks and their fresh flags is as the command's own effect left it. -/
theorem finish_ts (s t : State) :
    { (finish s t).ts with tasks := [], fresh := (0, []) } = { t.ts with tasks := [], fresh := (0, []) } := by
  obtain ⟨x, hx⟩ := plicLatch_plic (recordIrqs s (mapEdges s t))
  rw [finish, hx]
  exact (recordIrqs_noted s t).ts

/-- The towpath's record but for its discards and the mark being taken is as the command's own effect left it. -/
theorem finish_tp (s t : State) :
    { (finish s t).tp with gap := [], taking := none } = { t.tp with gap := [], taking := none } := by
  obtain ⟨x, hx⟩ := plicLatch_plic (recordIrqs s (mapEdges s t))
  rw [finish, hx]
  exact (recordIrqs_noted s t).tp

end Sys2Proof.Machine
end


section
/-! The islands family: commands that move no interrupt source. -/

namespace Sys2Proof.Machine

/-! ### Commands that move no interrupt source -/

/-- `t` has all that the levels of the interrupt sources depend on as `s` has it: of the pounds' block the notices alone count. -/
structure SameSources (s t : State) : Prop where
  regs : ∀ a, a < 0x40001000 ∨ 0x40002000 ≤ a → t.reg a = s.reg a
  notice : ∀ p, p < 54 → t.bit (Reg.topPndStat p) 24 = s.bit (Reg.topPndStat p) 24
  stall : t.tm.ghStall = s.tm.ghStall
  waiting : t.gh.waiting = s.gh.waiting
  play : t.tp.play = s.tp.play

namespace SameSources

/-- The time and the answer of an access. -/
theorem at_answer (s : State) (n : Nat) (r : Resp) : SameSources s ((s.at n).answer r) :=
  ⟨fun _ _ => rfl, fun _ _ => rfl, rfl, rfl, rfl⟩

theorem trans {s t u : State} (h : SameSources s t) (k : SameSources t u) : SameSources s u :=
  ⟨fun a ha => (k.regs a ha).trans (h.regs a ha), fun p hp => (k.notice p hp).trans (h.notice p hp), k.stall.trans h.stall,
   k.waiting.trans h.waiting, k.play.trans h.play⟩

variable {s t : State} (h : SameSources s t)
include h

theorem bit {a : Nat} (i : Nat) (ha : a < 0x40001000 ∨ 0x40002000 ≤ a) : t.bit a i = s.bit a i := by
  simp only [State.bit, h.regs a ha]

theorem statOf {raw : Nat} (hr : raw + 4 < 0x40001000 ∨ 0x40002000 ≤ raw) : statOf t raw = statOf s raw := by
  have hfollow : followBits t raw = followBits s raw := by
    unfold followBits
    rw [h.bit _ (by decide), h.bit _ (by decide), h.bit _ (by decide), h.stall, h.regs Reg.genGateLate0 (by decide),
      h.regs Reg.genGateLate1 (by decide), h.regs Reg.genGateLate2 (by decide), h.regs Reg.ppNatExpHead (by decide),
      h.regs Reg.ppNatExpTail (by decide), h.regs Reg.staEvtHead (by decide), h.regs Reg.staEvtTail (by decide),
      h.regs Reg.pmuSmpHead (by decide), h.regs Reg.pmuSmpTail (by decide), h.regs Reg.fltLogHead (by decide),
      h.regs Reg.fltLogTail (by decide), h.regs (Reg.airEvtHead 0) (by decide), h.regs (Reg.airEvtTail 0) (by decide),
      h.regs (Reg.airEvtHead 1) (by decide), h.regs (Reg.airEvtTail 1) (by decide), h.regs (Reg.airEvtHead 2) (by decide),
      h.regs (Reg.airEvtTail 2) (by decide)]
  rw [Machine.statOf, Machine.statOf, rawOf, rawOf, hfollow, h.regs raw (by omega), h.regs (raw + 4) (by omega)]

theorem notices {p n : Nat} (hp : p + n ≤ 54) : notices t p n = notices s p n := by
  induction n generalizing p with
  | zero => rfl
  | succ n ih => rw [Machine.notices, Machine.notices, h.notice p (by omega), ih (by omega)]

theorem pndStat {w : Nat} (hw : w < 2) : pndStat t w = pndStat s w := by
  have hen : t.reg (Reg.topPndIrqEn0 + 4 * w) = s.reg (Reg.topPndIrqEn0 + 4 * w) :=
    h.regs _ (by simp only [Reg.topPndIrqEn0]; omega)
  rw [Machine.pndStat, Machine.pndStat, pndRaw, pndRaw, h.notices (by decide), h.notices (by decide), hen]

theorem ownLevel (id : Nat) : ownLevel t id = ownLevel s id := by
  have hair : ∀ x, 0x40002000 ≤ Reg.airIrqRaw x := fun x => by simp only [Reg.airIrqRaw]; omega
  have hrd : ∀ x, 0x40002000 ≤ Reg.rdIrqRaw x := fun x => by simp only [Reg.rdIrqRaw]; omega
  have hmac : ∀ x, 0x40002000 ≤ Reg.spMacIrqRaw x := fun x => by simp only [Reg.spMacIrqRaw]; omega
  have hphy : ∀ x, 0x40002000 ≤ Reg.spPhyIrqRaw x := fun x => by simp only [Reg.spPhyIrqRaw]; omega
  have hdisp : ∀ c, 0x40002000 ≤ Reg.tsWDisp c := fun c => by simp only [Reg.tsWDisp]; omega
  have hmode : t.fld Reg.ghGhStat 0 3 = s.fld Reg.ghGhStat 0 3 := by rw [State.fld, State.fld, h.regs _ (by decide)]
  unfold Machine.ownLevel
  rw [h.pndStat (by decide), h.pndStat (by decide), h.statOf (raw := Reg.topIrqRaw) (by decide), h.statOf (raw := Reg.aoIrqRaw) (by decide),
    h.statOf (raw := Reg.secIrqRaw) (by decide), h.bit _ (.inr (hdisp _)), h.statOf (raw := Reg.tsIrqRaw) (by decide),
    h.statOf (raw := Reg.pmuIrqRaw) (by decide), h.statOf (raw := Reg.fltIrqRaw) (by decide), h.statOf (raw := Reg.tpIrqRaw) (by decide),
    h.statOf (raw := Reg.mcIrqRaw 0) (by decide), h.statOf (raw := Reg.mcIrqRaw 1) (by decide), h.statOf (raw := Reg.ppIrqRaw) (by decide),
    h.statOf (raw := Reg.tmIrqRaw) (by decide), h.statOf (raw := Reg.genIrqRaw) (by decide), h.statOf (.inr (hmac _)),
    h.statOf (.inr (hphy _)), h.statOf (raw := Reg.ulIrqRaw 0) (by decide), h.statOf (raw := Reg.ulIrqRaw 1) (by decide),
    h.statOf (.inr (hrd _)), h.statOf (.inr (hair _)), h.statOf (raw := Reg.staIrqRaw) (by decide), h.waiting,
    h.statOf (raw := Reg.ccCcIrqRaw) (by decide), hmode, h.bit (a := Reg.ghGhStat) 16 (by decide),
    h.bit (a := Reg.ghGhStat) 4 (by decide)]

theorem srcLevel (id : Nat) : srcLevel t id = srcLevel s id := by
  unfold Machine.srcLevel
  rw [h.play, h.ownLevel, h.bit (a := Reg.tpTpCtrl) 4 (by decide)]

/-- Such a command sets no flag and writes no record, so that only the interrupt controller acts after it. -/
theorem finish_eq : finish s t = plicLatch t := by
  have hmap : mapEdges s t = t := by
    unfold mapEdges
    split
    · refine each_ind t (fun u => u = t) _ _ rfl fun e _ u hu => ?_
      rw [h.srcLevel, Bool.and_not_self, if_neg (by decide), hu]
    · rfl
  have hrec : recordIrqs s t = t := by
    have hnone : (List.range 768).filter (fun i => Machine.srcLevel s i != Machine.srcLevel t i) = [] :=
      List.filter_eq_nil_iff.2 fun i _ => by simp [h.srcLevel]
    unfold recordIrqs
    rw [hnone]
    exact ite_self t
  rw [finish, hmap, hrec]

end SameSources

end Sys2Proof.Machine
end


section
/-! The islands family: marks of pounds (O11). -/

namespace Sys2Proof.Machine

/-- An accepted write outside the regions that the towpath records acts on the state at once. -/
theorem busDo_write_unrecorded {s : State} {n init a : Nat} (h : accepts s init a true = true) (hrec : recordedRegion a = false)
    (d : Word) (f : State → State) : busDo (s.at n) init a 4 (some d) f = f ((s.at n).answer .ok) := by
  obtain ⟨h1, h2, h3⟩ := (accepts_iff (s.at n) init a true).1 h
  have hwindow : ¬(Reg.tsWStgIdx 0 - 0x10 ≤ a ∧ a < Reg.tsWStgIdx 0 - 0x10 + 0x200) := by
    simp only [recordedRegion, Bool.or_eq_false_iff, Bool.and_eq_false_iff, decide_eq_false_iff_not] at hrec
    simp only [Reg.tsWStgIdx]
    omega
  simp only [busDo, Option.isSome_some, h1, h2, h3, Bool.not_false, Bool.and_true, if_true, recordWrite, hrec,
    Bool.false_eq_true, if_false, taskWire, if_neg hwindow]

/-- TOP's registers lie in no region that the towpath records. -/
theorem recordedRegion_of_lt {a : Nat} (h : a < 0x40040000) : recordedRegion a = false := by
  simp only [recordedRegion, Bool.or_eq_false_iff, Bool.and_eq_false_iff, decide_eq_false_iff_not]
  omega

/-! ### Marks of pounds -/

/-- Where the level does not rise from below MARK to MARK or above, within the depth, a pound's update is no crossing. -/
theorem setPound_no_crossing {s : State} {p : Nat} {q : Pound}
    (h : ¬((s.pound p).level < s.fld (Reg.topPndCfg p) 0 10 ∧ s.fld (Reg.topPndCfg p) 0 10 ≤ q.level ∧
      s.fld (Reg.topPndCfg p) 0 10 ≤ poundDepth s p)) :
    (s.setPound p q).bit (Reg.topPndStat p) 24 = s.bit (Reg.topPndStat p) 24 ∧
      (s.setPound p q).reg (Reg.topPndXcnt p) = s.reg (Reg.topPndXcnt p) := by
  have hxp : Reg.topPndXcnt p ≠ Reg.topPndPkts p := by simp only [Reg.topPndXcnt, Reg.topPndPkts]; omega
  have hxs : Reg.topPndXcnt p ≠ Reg.topPndStat p := by simp only [Reg.topPndXcnt, Reg.topPndStat]; omega
  have hsp : Reg.topPndStat p ≠ Reg.topPndPkts p := by simp only [Reg.topPndStat, Reg.topPndPkts]; omega
  simp only [State.setPound, if_neg h]
  refine ⟨?_, ?_⟩
  · simp only [State.bit, reg_setNat_ne _ _ _ hsp, State.setFlds, reg_setReg_same, List.foldl_cons, List.foldl_nil]
    rw [bitOf_putBits_out _ _ _ _ _ (by decide), bitOf_putBits_out _ _ _ _ _ (by decide)]
    rfl
  · rw [reg_setNat_ne _ _ _ hxp, reg_setFlds_ne _ _ _ hxs]
    rfl

/-- Where it does, the crossing is noted and counted (R27). -/
theorem setPound_crossing {s : State} {p : Nat} {q : Pound}
    (h : (s.pound p).level < s.fld (Reg.topPndCfg p) 0 10 ∧ s.fld (Reg.topPndCfg p) 0 10 ≤ q.level ∧
      s.fld (Reg.topPndCfg p) 0 10 ≤ poundDepth s p) :
    (s.setPound p q).bit (Reg.topPndStat p) 24 = true ∧
      (s.setPound p q).reg (Reg.topPndXcnt p) = s.reg (Reg.topPndXcnt p) + 1 := by
  have hxp : Reg.topPndXcnt p ≠ Reg.topPndPkts p := by simp only [Reg.topPndXcnt, Reg.topPndPkts]; omega
  have hxs : Reg.topPndXcnt p ≠ Reg.topPndStat p := by simp only [Reg.topPndXcnt, Reg.topPndStat]; omega
  simp only [State.setPound, if_pos h]
  refine ⟨?_, ?_⟩
  · rw [State.bit, reg_incWrap_ne _ _ hxs.symm]
    exact bit_setBit_same _ _ _ _ (by decide)
  · simp only [State.incWrap, reg_setNat_same, State.regN, reg_setBit_ne _ _ _ _ hxs, reg_setNat_ne _ _ _ hxp,
      reg_setFlds_ne _ _ _ hxs]
    rw [BitVec.ofNat_add, BitVec.ofNat_toNat, BitVec.setWidth_eq]
    rfl

/-! ### Writes of MARK -/

theorem bitsOf_mergeMask_low (old new : Word) : bitsOf (mergeMask old new 0x3FF) 0 10 = bitsOf new 0 10 := by
  apply Nat.eq_of_testBit_eq
  intro i
  rw [testBit_bitsOf, testBit_bitsOf, getLsbD_mergeMask, show (0x3FF : Nat) = 2 ^ 10 - 1 from rfl, Nat.testBit_two_pow_sub_one]
  by_cases hi : i < 10
  · simp [hi, show i < 32 by omega]
  · simp [hi]

theorem testBit_bnat (b : Bool) : (bnat b).testBit 0 = b := by cases b <;> rfl

section
variable (s : State) (p : Nat) (d : Word)

/-- A write of MARK changes PND_CFG and, in PND_STAT, WM_LIVE. -/
theorem reg_markWrite_ne {a : Nat} (hcfg : a ≠ Reg.topPndCfg p) (hstat : a ≠ Reg.topPndStat p) :
    (markWrite s p d).reg a = s.reg a := by
  rw [markWrite, reg_setFld_ne _ _ _ _ _ hstat, reg_setReg_ne _ _ hcfg]

theorem fld_markWrite_mark : (markWrite s p d).fld (Reg.topPndCfg p) 0 10 = bitsOf d 0 10 := by
  have hne : Reg.topPndCfg p ≠ Reg.topPndStat p := by simp only [Reg.topPndCfg, Reg.topPndStat]; omega
  rw [State.fld, markWrite, reg_setFld_ne _ _ _ _ _ hne, reg_setReg_same, bitsOf_mergeMask_low]

theorem bit_markWrite_live : (markWrite s p d).bit (Reg.topPndStat p) 16 =
    (decide (bitsOf d 0 10 ≤ (s.pound p).level) && decide (bitsOf d 0 10 ≤ poundDepth s p)) := by
  have hgeom : Reg.topPndGeom p ≠ Reg.topPndCfg p := by simp only [Reg.topPndGeom, Reg.topPndCfg]; omega
  simp only [markWrite, State.bit, reg_setFld_same, State.fld, reg_setReg_same, bitsOf_mergeMask_low, poundDepth,
    reg_setReg_ne _ _ hgeom]
  rw [bitOf_putBits_in _ _ _ _ _ (by decide) (by decide)]
  rw [Nat.sub_self, testBit_bnat]
  rfl

theorem bit_markWrite_notice : (markWrite s p d).bit (Reg.topPndStat p) 24 = s.bit (Reg.topPndStat p) 24 := by
  have hne : Reg.topPndStat p ≠ Reg.topPndCfg p := by simp only [Reg.topPndCfg, Reg.topPndStat]; omega
  rw [State.bit, markWrite, reg_setFld_same, bitOf_putBits_out _ _ _ _ _ (by decide), reg_setReg_ne _ _ hne]
  rfl

/-- No interrupt source follows a write of MARK. -/
theorem markWrite_sameSources (hp : p < 54) : SameSources s (markWrite s p d) where
  regs a ha := by apply reg_markWrite_ne <;> simp only [Reg.topPndCfg, Reg.topPndStat] <;> omega
  notice r _ := by
    by_cases hr : r = p
    · rw [hr]; exact bit_markWrite_notice s p d
    · rw [State.bit, reg_markWrite_ne]
      · rfl
      · simp only [Reg.topPndCfg, Reg.topPndStat]; omega
      · simp only [Reg.topPndStat]; omega
  stall := rfl
  waiting := rfl
  play := rfl

end

/-- Settles O11: the write moves no interrupt source, so nothing follows it, and the levels' rule is that of `setPound`. -/
theorem writingTheMarkIsNoCrossing : Obligations.WritingTheMarkIsNoCrossing := by
  unfold Obligations.WritingTheMarkIsNoCrossing
  refine ⟨fun time init p d s hacc => ?_, fun p q s => ⟨fun hmark => ?_, fun hdepth hpos hbelow hlevel => ?_, fun hdepth hlevel => ?_⟩⟩
  · have hrec : recordedRegion (Reg.topPndCfg p) = false := recordedRegion_of_lt (by simp only [Reg.topPndCfg]; omega)
    have hxc : Reg.topPndXcnt p ≠ Reg.topPndCfg p := by simp only [Reg.topPndXcnt, Reg.topPndCfg]; omega
    have hxs : Reg.topPndXcnt p ≠ Reg.topPndStat p := by simp only [Reg.topPndXcnt, Reg.topPndStat]; omega
    let u := (s.at time).answer .ok
    have hexec : exec (.pndMarkWrite time init p d) s = done s (markWrite u p d) :=
      congrArg (done s) (busDo_write_unrecorded hacc hrec d _)
    have hsame : SameSources s (markWrite u p d) := (SameSources.at_answer s time _).trans (markWrite_sameSources u p d p.isLt)
    obtain ⟨x, hx⟩ := plicLatch_plic (markWrite u p d)
    refine runs_of_done hexec ?_
    rw [hsame.finish_eq, hx]
    exact ⟨fld_markWrite_mark u p d, bit_markWrite_live u p d, bit_markWrite_notice u p d, reg_markWrite_ne u p d hxc hxs, rfl⟩
  · exact setPound_no_crossing (by omega)
  · exact setPound_crossing (by omega)
  · exact setPound_no_crossing (by omega)

end Sys2Proof.Machine
end


section
/-! The islands family: error responses (O7). -/

namespace Sys2Proof.Machine

/-! ### Effects on registers alone -/

/-- A state without its registers. -/
def State.unregistered (s : State) : State := { s with regs := [] }

/-- DRAM, the L2, the table store and the counters' holding registers. -/
def State.stores (s : State) : Bank Byte × Bank Byte × Bank Byte × Bank (BitVec 16) := (s.dram, s.l2, s.tstore, s.hold)

theorem stores_congr {s t : State} (h : t.unregistered = s.unregistered) : t.stores = s.stores :=
  show t.unregistered.stores = s.unregistered.stores by rw [h]

/-- `t` differs from `s` in registers of `P` alone. -/
structure RegsOnly (P : Nat → Prop) (s t : State) : Prop where
  regs : ∀ a, ¬P a → t.reg a = s.reg a
  rest : t.unregistered = s.unregistered

namespace RegsOnly

variable {P : Nat → Prop} {s t : State}

theorem refl (s : State) : RegsOnly P s s := ⟨fun _ _ => rfl, rfl⟩

theorem setReg (h : RegsOnly P s t) {a : Nat} (v : Word) (ha : P a) : RegsOnly P s (t.setReg a v) where
  regs q hq := by
    rw [reg_setReg_ne _ _ (by rintro rfl; exact hq ha)]
    exact h.regs q hq
  rest := h.rest

theorem setFld (h : RegsOnly P s t) {a : Nat} (lo len v : Nat) (ha : P a) : RegsOnly P s (t.setFld a lo len v) := h.setReg _ ha

theorem setFlds (h : RegsOnly P s t) {a : Nat} (l : List (Nat × Nat × Nat)) (ha : P a) : RegsOnly P s (t.setFlds a l) :=
  h.setReg _ ha

theorem orReg (h : RegsOnly P s t) {a : Nat} (m : Word) (ha : P a) : RegsOnly P s (t.orReg a m) := h.setReg _ ha

theorem raise (h : RegsOnly P s t) {a : Nat} (i : Nat) (ha : P a) : RegsOnly P s (t.raise a i) := h.setReg _ ha

theorem setPair (h : RegsOnly P s t) {a : Nat} (v : Nat) (ha : P a) (ha4 : P (a + 4)) : RegsOnly P s (t.setPair a v) :=
  (h.setReg _ ha).setReg _ ha4

theorem ite {c : Prop} [Decidable c] {u : State} (h : c → RegsOnly P s t) (k : ¬c → RegsOnly P s u) :
    RegsOnly P s (if c then t else u) := by
  split
  · next hc => exact h hc
  · next hc => exact k hc

theorem each {α : Type} (h : RegsOnly P s t) {l : List α} {f : α → State → State}
    (hf : ∀ x ∈ l, ∀ u, RegsOnly P s u → RegsOnly P s (f x u)) : RegsOnly P s (t.each l f) :=
  each_ind t (fun u => RegsOnly P s u) l f h hf

theorem pound (h : RegsOnly P s t) (q : Nat) : t.pound q = s.pound q :=
  show t.unregistered.pound q = s.unregistered.pound q by rw [h.rest]

theorem trans {u : State} (h : RegsOnly P s t) (k : RegsOnly P t u) : RegsOnly P s u :=
  ⟨fun a ha => (k.regs a ha).trans (h.regs a ha), k.rest.trans h.rest⟩

end RegsOnly

/-! ### The counters of the performance monitor -/

/-- An address of the PMU's block. -/
abbrev inPmu (a : Nat) : Prop := 0x40050000 ≤ a ∧ a < 0x40060000

namespace RegsOnly

variable {s t : State}

theorem pmuSample (h : RegsOnly inPmu s t) (k init priv : Nat) (pc : Option (BitVec 64)) :
    RegsOnly inPmu s (pmuSample t k init priv pc) := by
  have hsmp : ∀ j, j < 8 → inPmu (Reg.pmuSmp (t.fld Reg.pmuSmpHead 0 6) j) := fun j hj => by
    have hlt : t.fld Reg.pmuSmpHead 0 6 < 2 ^ 6 := nbits_lt _ 0 6
    simp only [inPmu, Reg.pmuSmp]
    omega
  unfold Machine.pmuSample
  dsimp only
  refine .ite (fun _ => ?_) fun _ => ?_
  · exact (h.setReg (a := Reg.pmuSmpLost) _ (by decide)).setReg _ (by decide)
  · refine setReg ?_ _ (a := Reg.pmuSmpHead) (by decide)
    exact ((((h.setReg _ (hsmp 0 (by decide))).setReg _ (hsmp 1 (by decide))).setReg _ (hsmp 2 (by decide))).setReg _
      (hsmp 3 (by decide))).setReg _ (hsmp 4 (by decide))

theorem pmuAdd (h : RegsOnly inPmu s t) {k : Nat} (hk : k < 16) (n init priv : Nat) (pc : Option (BitVec 64)) :
    RegsOnly inPmu s (pmuAdd t k n init priv pc) := by
  have hcnt : RegsOnly inPmu s (t.setPair (Reg.pmuCntLo k) (t.pair (Reg.pmuCntLo k) + n)) := by
    apply h.setPair <;> simp only [inPmu, Reg.pmuCntLo] <;> omega
  have hovf := (hcnt.orReg (a := Reg.pmuPmuOvf) (BitVec.ofNat 32 (2 ^ k)) (by decide)).raise (a := Reg.pmuIrqRaw) 0 (by decide)
  exact .ite (fun _ => .ite (fun _ => hovf.pmuSample k init priv pc) fun _ => hovf) fun _ => hcnt

/-- An event that the PMU sees moves registers of the PMU alone. -/
theorem pmuEvent (h : RegsOnly inPmu s t) (code init : Nat) (acc : Option (Nat × Nat)) :
    RegsOnly inPmu s (pmuEvent t code init acc) :=
  h.each fun _ hk _ hu => .ite (fun _ => hu.pmuAdd (List.mem_range.1 hk) _ _ _ _) fun _ => hu

end RegsOnly

/-! ### Error responses -/

/-- Every error response has one of five causes (R45). -/
theorem busCause_le {s : State} {init a size c : Nat} {w : Bool} (h : busCause s init a size w = some c) : c ≤ 4 := by
  unfold busCause at h
  repeat' split at h
  all_goals cases h
  all_goals decide

/-- BUSERR_INFO as an error response of a write latches it (R45). -/
def writeErrorInfo (init c : Nat) : Nat := init + 16 * bnat true + 256 * c + 2 ^ 31

/-- Its fields are the initiator, the direction and the cause, with VALID set and nothing counted in MORE. -/
theorem writeErrorInfo_fields {init c : Nat} (hi : init < 11) (hc : c ≤ 4) {w : Word}
    (hw : w = BitVec.ofNat 32 (writeErrorInfo init c)) :
    bitOf w 31 = true ∧ bitsOf w 0 4 = init ∧ bitOf w 4 = true ∧ bitsOf w 8 3 = c ∧ bitsOf w 16 8 = 0 := by
  have hval : w.toNat = init + 16 + 256 * c + 2147483648 := by
    rw [hw, BitVec.toNat_ofNat, Nat.mod_eq_of_lt] <;> simp only [writeErrorInfo, bnat, if_true] <;> omega
  have hbit : ∀ i, bitOf w i = decide ((init + 16 + 256 * c + 2147483648) / 2 ^ i % 2 = 1) := fun i => by
    rw [bitOf, BitVec.getLsbD, hval, Nat.testBit_eq_decide_div_mod_eq]
  simp only [hbit, bitsOf, nbits, hval, Nat.shiftRight_eq_div_pow, decide_eq_true_eq]
  omega

/-- What an error response leaves of a state: registers of the PMU and the exception of a core beside the latch, made in a state
`v` that differs from it by the violation flag. -/
structure FailedFrom (s v : State) (init a : Nat) (write : Bool) (c : Nat) (t : State) : Prop where
  before : RegsOnly (· = Reg.secIrqRaw) s v
  regs : ∀ q, ¬inPmu q → t.reg q = (busLatch v init a write c).reg q
  resp : t.resp = .error c
  stores : t.stores = s.stores

theorem busLatch_rest (s : State) (init a : Nat) (write : Bool) (c : Nat) :
    (busLatch s init a write c).unregistered = s.unregistered :=
  have hself : RegsOnly (fun _ => True) s s := .refl s
  RegsOnly.rest (.ite (fun _ => hself.setReg _ trivial) fun _ =>
    ((hself.setReg _ trivial).setReg _ trivial).setReg _ trivial)

theorem busFail_failedFrom (s : State) (init a : Nat) (write : Bool) (c : Nat) :
    ∃ v, FailedFrom s v init a write c (busFail s init a write c) := by
  unfold busFail
  extract_lets v latched trapped
  have hv : RegsOnly (· = Reg.secIrqRaw) s v := .ite (fun _ => (RegsOnly.refl s).raise _ rfl) fun _ => .refl s
  have htrap : trapped.regs = latched.regs ∧ trapped.stores = latched.stores := by
    unfold trapped coreTrap
    split <;> exact ⟨rfl, rfl⟩
  have hpmu := (RegsOnly.refl (P := inPmu) trapped).pmuEvent 11 init (some (accClass init write, a))
  refine ⟨v, hv, fun q hq => (hpmu.regs q hq).trans (reg_congr _ htrap.1 q), rfl, ?_⟩
  calc _ = trapped.stores := stores_congr hpmu.rest
    _ = latched.stores := htrap.2
    _ = v.stores := stores_congr (busLatch_rest v init a write c)
    _ = s.stores := stores_congr hv.rest

section
variable {s : State} (init a c : Nat)

/-- While VALID is 0 the latch takes the access (R45). -/
theorem busLatch_fresh (h : s.bit Reg.topBuserrInfo 31 = false) : busLatch s init a true c =
    ((s.setNat Reg.topBuserrAddrLo (a % 2 ^ 32)).setNat Reg.topBuserrAddrHi (a / 2 ^ 32 % 256)).setNat
      Reg.topBuserrInfo (writeErrorInfo init c) := by
  rw [busLatch, h, if_neg (by decide)]
  rfl

/-- While VALID is 1 it only counts in MORE. -/
theorem busLatch_more (h : s.bit Reg.topBuserrInfo 31 = true) : busLatch s init a true c =
    s.setFld Reg.topBuserrInfo 16 8 (min (s.fld Reg.topBuserrInfo 16 8 + 1) 255) := by
  rw [busLatch, h, if_pos rfl]

/-- No register outside the latch follows. -/
theorem reg_busLatch_ne {q : Nat} (hlo : q ≠ Reg.topBuserrAddrLo) (hhi : q ≠ Reg.topBuserrAddrHi) (hinfo : q ≠ Reg.topBuserrInfo) :
    (busLatch s init a true c).reg q = s.reg q := by
  cases h : s.bit Reg.topBuserrInfo 31
  · rw [busLatch_fresh init a c h, reg_setNat_ne _ _ _ hinfo, reg_setNat_ne _ _ _ hhi, reg_setNat_ne _ _ _ hlo]
  · rw [busLatch_more init a c h, reg_setFld_ne _ _ _ _ _ hinfo]

end

/-- Settles O7: the error response's own effect is the latch, made in a state that differs by SEC's violation flag at most. -/
theorem busErrorsAreLatchedOnce : Obligations.BusErrorsAreLatchedOnce := by
  unfold Obligations.BusErrorsAreLatchedOnce
  intro time init size a d c s hheld hdbg hc ha
  have hexec : exec (.registerWrite time init size a d) s = done s (busFail (s.at time) init a true c) :=
    congrArg (done s) (busDo_fail (s := s.at time) (acc := some d) hheld hdbg hc _)
  obtain ⟨v, hv, hregs, hresp, hstores⟩ := busFail_failedFrom (s.at time) init a true c
  have hreg : ∀ q, noteReg q = false → ¬inPmu q →
      (finish s (busFail (s.at time) init a true c)).reg q = (busLatch v init a true c).reg q :=
    fun q hn hp => (finish_reg _ _ _ hn).trans (hregs q hp)
  have hlo := hreg Reg.topBuserrAddrLo (by decide) (by decide)
  have hhi := hreg Reg.topBuserrAddrHi (by decide) (by decide)
  have hinfo := hreg Reg.topBuserrInfo (by decide) (by decide)
  have hvinfo : v.reg Reg.topBuserrInfo = s.reg Reg.topBuserrInfo := hv.regs _ (by decide)
  have hvalid : v.bit Reg.topBuserrInfo 31 = s.bit Reg.topBuserrInfo 31 := by rw [State.bit, State.bit, hvinfo]
  obtain ⟨h31, h4, hdir, hcause, hmore⟩ := writeErrorInfo_fields init.isLt (busCause_le hc) rfl
  obtain ⟨hdram, hl2, hts, hhold⟩ : _ ∧ _ ∧ _ ∧ _ := by simpa only [State.stores, Prod.mk.injEq] using hstores
  refine runs_of_done hexec ⟨(finish_resp _ _).trans hresp, ?_, fun hfree => ?_, fun htaken => ?_, fun q hn h1 h2 h3 h4 h5 => ?_,
    (finish_l2 _ _).trans hl2, (finish_tstore _ _).trans hts, (finish_hold _ _).trans hhold, fun o _ => ?_⟩
  · cases h : s.bit Reg.topBuserrInfo 31
    · rw [State.bit, hinfo, busLatch_fresh _ _ _ (hvalid.trans h), reg_setNat_same]
      exact h31
    · rw [State.bit, hinfo, busLatch_more _ _ _ (hvalid.trans h), reg_setFld_same, bitOf_putBits_out _ _ _ _ _ (by decide), hvinfo]
      exact h
  · rw [busLatch_fresh _ _ _ (hvalid.trans hfree)] at hlo hhi hinfo
    rw [reg_setNat_ne _ _ _ (by decide), reg_setNat_ne _ _ _ (by decide), reg_setNat_same] at hlo
    rw [reg_setNat_ne _ _ _ (by decide), reg_setNat_same] at hhi
    rw [reg_setNat_same] at hinfo
    simp only [State.regN, State.fld, State.bit, hlo, hhi, hinfo, BitVec.toNat_ofNat]
    exact ⟨by omega, by omega, h4, hdir, hcause, hmore⟩
  · rw [busLatch_more _ _ _ (hvalid.trans htaken)] at hlo hhi hinfo
    rw [reg_setFld_ne _ _ _ _ _ (by decide), hv.regs _ (by decide)] at hlo hhi
    rw [reg_setFld_same, State.fld, hvinfo] at hinfo
    simp only [State.fld, hlo, hhi, hinfo]
    rw [bitsOf_putBits_out _ _ _ _ _ _ (by decide), bitsOf_putBits_same _ _ _ _ (by decide)]
    refine ⟨rfl, rfl, rfl, Nat.mod_eq_of_lt (by omega)⟩
  · rw [hreg q hn h5, reg_busLatch_ne _ _ _ h1 h2 h3, hv.regs q h4]
    rfl
  · rw [finish_dram, hdram]
    rfl

end Sys2Proof.Machine
end


section
/-! The islands family: the interrupt controller (O13). -/

namespace Sys2Proof.Machine

/-! ### The controller's latch -/

/-- Requests set one after another. -/
theorem plicPend_each (l : List Nat) : ∀ (s : State) (j : Nat),
    plicPend (s.each l fun id t => setPlicPend t id true) j = (plicPend s j || decide (j ∈ l)) := by
  induction l with
  | nil => intro s j; simp [State.each]
  | cons i r ih =>
    intro s j
    refine (ih (setPlicPend s i true) j).trans ?_
    rw [plicPend_setPlicPend]
    by_cases h : j = i <;> simp [h]

section
variable (s : State) (id : Nat)

/-- The latch ends no claim. -/
@[simp] theorem plicServed_plicLatch : plicServed (plicLatch s) id = plicServed s id := by
  unfold plicLatch
  split
  · exact each_ind s (fun u => plicServed u id = plicServed s id) _ _ rfl fun _ _ _ hu => hu
  · rfl

@[simp] theorem islUp_plicLatch (i : Nat) : islUp (plicLatch s) i = islUp s i := by
  obtain ⟨x, hx⟩ := plicLatch_plic s
  rw [hx]; rfl

@[simp] theorem srcLevel_plicLatch : srcLevel (plicLatch s) id = srcLevel s id := by
  obtain ⟨x, hx⟩ := plicLatch_plic s
  rw [hx]
  exact SameSources.srcLevel (s := s) ⟨fun _ _ => rfl, fun _ _ => rfl, rfl, rfl, rfl⟩ id

/-- What is pending after the latch: what was, and while the control cluster runs every asserted source that is not claimed. -/
theorem plicPend_plicLatch : plicPend (plicLatch s) id =
    (plicPend s id || islUp s 2 && decide (id ∈ irqIds) && !plicServed s id && srcLevel s id) := by
  unfold plicLatch
  split
  · next hup =>
    rw [plicPend_each, hup]
    simp only [List.mem_filter]
    cases plicPend s id <;> simp [Bool.and_assoc]
  · next hdown => simp [hdown]

end

/-! ### What every command leaves -/

/-- Every command ends with the event map, the records and the controller's latch. -/
theorem exec_finishes (c : Instr) (s : State) : ∃ a b, exec c s = done a b := by
  cases c
  case rcRead time init addr inc =>
    show ∃ a b, execRcRead time init addr inc s = done a b
    unfold execRcRead
    dsimp only
    split <;> exact ⟨_, _, rfl⟩
  all_goals exact ⟨_, _, rfl⟩

/-- After every command an asserted source is pending or claimed. -/
theorem runs_asserted_pending (c : Instr) (s : State) : Runs c s fun t => islUp t 2 = true →
    ∀ id, id ∈ irqIds → srcLevel t id = true → plicPend t id = true ∨ plicServed t id = true := by
  obtain ⟨a, b, he⟩ := exec_finishes c s
  refine ⟨finish a b, he, ?_⟩
  rw [finish]
  generalize recordIrqs a (mapEdges a b) = u
  intro hup id hid hlevel
  rw [islUp_plicLatch] at hup
  rw [srcLevel_plicLatch] at hlevel
  rw [plicPend_plicLatch, plicServed_plicLatch, hup, hlevel]
  cases plicServed u id <;> simp [hid]

/-! ### The request that a claim finds -/

/-- The better of two requests of a context: the higher priority, the lower number among equals. -/
def plicBetter (s : State) (m i : Nat) : Nat :=
  if s.fld (Reg.plicPrio m) 0 3 < s.fld (Reg.plicPrio i) 0 3 ∨
    (s.fld (Reg.plicPrio i) 0 3 = s.fld (Reg.plicPrio m) 0 3 ∧ i < m) then i else m

theorem plicTop_cons {s : State} {c a : Nat} {r : List Nat} (h : plicReady s c = a :: r) :
    plicTop s c = r.foldl (plicBetter s) a := by
  simp only [plicTop, h]
  rfl

theorem foldl_plicBetter (s : State) (r : List Nat) : ∀ a : Nat, r.foldl (plicBetter s) a ∈ a :: r ∧
    ∀ i ∈ a :: r, s.fld (Reg.plicPrio i) 0 3 ≤ s.fld (Reg.plicPrio (r.foldl (plicBetter s) a)) 0 3 := by
  induction r with
  | nil => intro a; simp
  | cons b r ih =>
    intro a
    obtain ⟨hmem, hmax⟩ := ih (plicBetter s a b)
    have hchoice : plicBetter s a b = a ∨ plicBetter s a b = b := by
      unfold plicBetter; split <;> simp
    have hbest := hmax _ List.mem_cons_self
    have ha : s.fld (Reg.plicPrio a) 0 3 ≤ s.fld (Reg.plicPrio (plicBetter s a b)) 0 3 := by
      unfold plicBetter; split <;> omega
    have hb : s.fld (Reg.plicPrio b) 0 3 ≤ s.fld (Reg.plicPrio (plicBetter s a b)) 0 3 := by
      unfold plicBetter; split <;> omega
    refine ⟨?_, fun i hi => ?_⟩
    · obtain hm | hm := List.mem_cons.1 hmem
      · obtain hc | hc := hchoice
        · rw [List.foldl_cons, hm, hc]; exact List.mem_cons_self
        · rw [List.foldl_cons, hm, hc]; simp
      · exact List.mem_cons_of_mem _ (List.mem_cons_of_mem _ hm)
    · obtain rfl | rfl | hi : i = a ∨ i = b ∨ i ∈ r := by simpa using hi
      · exact ha.trans hbest
      · exact hb.trans hbest
      · exact hmax i (List.mem_cons_of_mem _ hi)

/-- A key that does not read as the default is listed. -/
theorem mem_keys_of_bankGet_ne {α : Type} {d : Nat → α} {b : Bank α} {k : Nat} (h : bankGet d b k ≠ d k) : k ∈ b.map (·.1) := by
  induction b with
  | nil => exact absurd rfl h
  | cons e r ih =>
    obtain ⟨j, v⟩ := e
    rw [bankGet] at h
    split at h
    · next hk => simp [hk]
    · exact List.mem_cons_of_mem _ (ih h)

theorem mem_plicReady {s : State} {c id : Nat} : id ∈ plicReady s c ↔
    plicPend s id = true ∧ plicEnabled s c id = true ∧ s.fld (Reg.plicPrio id) 0 3 ≠ 0 := by
  simp only [plicReady, List.mem_filter, Bool.and_eq_true, decide_eq_true_eq, and_assoc]
  refine and_iff_right_of_imp fun ⟨hp, _⟩ => mem_keys_of_bankGet_ne (d := fun _ => false) ?_
  exact ne_of_eq_of_ne hp (by decide)

/-- A claim finds a pending and enabled source of the highest priority. -/
theorem plicTop_best {s : State} {c id : Nat} (h : id ∈ plicReady s c) :
    plicTop s c ∈ plicReady s c ∧ s.fld (Reg.plicPrio id) 0 3 ≤ s.fld (Reg.plicPrio (plicTop s c)) 0 3 := by
  cases hr : plicReady s c with
  | nil => rw [hr] at h; cases h
  | cons a r =>
    rw [hr] at h
    obtain ⟨hmem, hmax⟩ := foldl_plicBetter s r a
    rw [plicTop_cons hr]
    exact ⟨hmem, hmax id h⟩

/-! ### Claims and completions -/

section
variable {s : State} {c : Nat}

/-- A claim takes the request of the source it finds and of no other. -/
theorem plicPend_plicClaim (h : plicTop s c ≠ 0) (id : Nat) :
    plicPend (plicClaim s c) id = if id = plicTop s c then false else plicPend s id := by
  rw [plicClaim, if_neg h]
  exact plicPend_setPlicPend s (plicTop s c) id false

theorem plicServed_plicClaim (h : plicTop s c ≠ 0) (id : Nat) :
    plicServed (plicClaim s c) id = if id = plicTop s c then true else plicServed s id := by
  rw [plicClaim, if_neg h]
  exact bankGet_bankSet (fun _ => false) s.plic.served _ _ true

/-- A completion ends the claim of the source it names, where the context has it enabled, and leaves the requests. -/
theorem plicServed_plicComplete {k : Nat} (hk : k < 1024) (hen : plicEnabled s c k = true) :
    plicServed (plicComplete s c k) k = false := by
  rw [plicComplete, if_pos ⟨hk, hen⟩]
  exact bankGet_bankSet_same (fun _ => false) s.plic.served k false

theorem plicPend_plicComplete (k id : Nat) : plicPend (plicComplete s c k) id = plicPend s id := by
  unfold plicComplete
  split <;> rfl

theorem islUp_plicComplete (k i : Nat) : islUp (plicComplete s c k) i = islUp s i := by
  unfold plicComplete
  split <;> rfl

theorem plicComplete_sameSources (k : Nat) : SameSources s (plicComplete s c k) := by
  unfold plicComplete
  split <;> exact ⟨fun _ _ => rfl, fun _ _ => rfl, rfl, rfl, rfl⟩

end

theorem hit_plicClaim : ∀ c, c < 16 → hit 66 (fun p => portReg p Reg.spTsqPop Reg.ulTsqPop) (Reg.plicClaim c) = none ∧
    hit 8 Reg.tsWDisp (Reg.plicClaim c) = none ∧ hit 16 Reg.plicClaim (Reg.plicClaim c) = some c := by decide

/-- A read of a claim register shows the source that a claim finds. -/
theorem readAt_plicClaim (s : State) {c : Nat} (hc : c < 16) : readAt s (Reg.plicClaim c) = BitVec.ofNat 32 (plicTop s c) := by
  obtain ⟨-, -, hclaim⟩ := hit_plicClaim c hc
  have hplace : ∀ c, c < 16 → regionOf (Reg.plicClaim c) = .regs ∧ inSluice (Reg.plicClaim c) = false := by decide
  obtain ⟨hregion, hsluice⟩ := hplace c hc
  have hrange : 0x44200004 ≤ Reg.plicClaim c ∧ Reg.plicClaim c < 0x44210004 := by simp only [Reg.plicClaim]; omega
  have hne : ∀ b, b < 0x44200004 ∨ 0x44210004 ≤ b → Reg.plicClaim c ≠ b := fun b hb => by omega
  have hpend : ¬(Reg.plicPend 0 ≤ Reg.plicClaim c ∧ Reg.plicClaim c < Reg.plicPend 32 ∧ Reg.plicClaim c % 4 = 0) := by
    simp only [Reg.plicPend]; omega
  have hview : shownView s (Reg.plicClaim c) = some (BitVec.ofNat 32 (plicTop s c)) := by
    unfold shownView
    rw [hsluice, if_neg (by decide), if_neg (hne _ (by decide)), if_neg (hne _ (by decide)), if_neg (hne _ (by decide)),
      if_neg (hne _ (by decide)), if_neg (hne _ (by decide)), if_neg (hne _ (by decide)), if_neg hpend, hclaim]
  simp only [readAt, hregion, readReg, if_neg (show ¬(0x43000000 ≤ Reg.plicClaim c ∧ Reg.plicClaim c < 0x43001000) by omega), hview]

/-- RC_READ of a claim register that finds a source. -/
theorem exec_rcRead_claim {time c n : Nat} {init : Init} {s : State} (hc : c < 16) (hinit : init ≠ 10)
    (hacc : accepts s init (Reg.plicClaim c) false = true) : exec (.rcRead time init (Reg.plicClaim c) n) s =
      done s ((plicClaim ((s.at time).answer .ok) c).answer (.data (BitVec.ofNat 32 (plicTop s c)))) := by
  obtain ⟨hpop, hdisp, hclaim⟩ := hit_plicClaim c hc
  have hne : init.val ≠ 10 := fun h => hinit (Fin.ext h)
  show execRcRead time init (Reg.plicClaim c) n s = _
  unfold execRcRead
  simp only [hpop, hdisp, hclaim, readAt_plicClaim _ hc]
  rw [busRead_ok (by rwa [accepts_at]), if_neg hne]
  rfl

/-- A write of a claim register that the bus carries out completes the source it names. -/
theorem exec_registerWrite_claim {time c : Nat} {init : Init} {s : State} (hc : c < 16)
    (hacc : accepts s init (Reg.plicClaim c) true = true) (d : Word) : exec (.registerWrite time init 4 (Reg.plicClaim c) d) s =
      done s (plicComplete ((s.at time).answer .ok) c d.toNat) := by
  have hrange : 0x44200004 ≤ Reg.plicClaim c ∧ Reg.plicClaim c < 0x44210004 := by simp only [Reg.plicClaim]; omega
  have hregion : ∀ c, c < 16 → regionOf (Reg.plicClaim c) = .regs := by decide
  have hrec : recordedRegion (Reg.plicClaim c) = false := by
    simp only [recordedRegion, Bool.or_eq_false_iff, Bool.and_eq_false_iff, decide_eq_false_iff_not]
    omega
  have hwrite : ∀ u : State, regWrite u (Reg.plicClaim c) d = plicComplete u c d.toNat := fun u => by
    unfold regWrite
    repeat rw [if_neg (by omega)]
    rw [if_pos (by omega), plicWrite, (hit_plicClaim c hc).2.2]
  refine congrArg (done s) ((busDo_write_unrecorded hacc hrec d _).trans ?_)
  simp only [hregion c hc, hwrite]

/-! ### The controller after a command -/

/-- Claims are as the command's own effect left them. -/
theorem plicServed_finish (s t : State) (id : Nat) : plicServed (finish s t) id = plicServed t id := by
  rw [finish, plicServed_plicLatch, plicServed, (recordIrqs_noted s t).plic]
  rfl

/-- A request that the command's own effect leaves pending stays so. -/
theorem plicPend_finish_of_pend {s t : State} {id : Nat} (h : plicPend t id = true) : plicPend (finish s t) id = true := by
  have hk : plicPend (recordIrqs s (mapEdges s t)) id = plicPend t id := by
    simp only [plicPend, (recordIrqs_noted s t).plic]
  rw [finish, plicPend_plicLatch, hk, h, Bool.true_or]

/-- No new request comes from a source that is claimed. -/
theorem plicPend_finish_of_served {s t : State} {id : Nat} (h : plicServed t id = true) :
    plicPend (finish s t) id = plicPend t id := by
  have hk : plicPend (recordIrqs s (mapEdges s t)) id = plicPend t id := by
    simp only [plicPend, (recordIrqs_noted s t).plic]
  have hs : plicServed (recordIrqs s (mapEdges s t)) id = true := by
    simp only [plicServed, (recordIrqs_noted s t).plic]
    exact h
  rw [finish, plicPend_plicLatch, hk, hs]
  simp

theorem lt_of_mem_irqIds {id : Nat} (h : id ∈ irqIds) : id < 1024 := by
  have hall : ∀ id ∈ irqIds, id < 1024 := by decide +kernel
  exact hall id h

/-- Settles O13: the latch at the end of every command, and the claims and completions between them. -/
theorem interruptRequestsWaitForTheirClaim : Obligations.InterruptRequestsWaitForTheirClaim := by
  unfold Obligations.InterruptRequestsWaitForTheirClaim
  refine ⟨runs_asserted_pending, fun s c id _ hpend hen hprio => ?_, fun time init c n s hc hinit hacc htop => ?_,
    fun time init c d s hc hacc hup hid hen hserved => ?_⟩
  · obtain ⟨hready, hbest⟩ := plicTop_best (mem_plicReady.2 ⟨hpend, hen, hprio⟩)
    obtain ⟨hp, he, -⟩ := mem_plicReady.1 hready
    exact ⟨hp, he, hbest⟩
  · let w := (s.at time).answer .ok
    have htop' : plicTop w c ≠ 0 := htop
    refine runs_of_done (exec_rcRead_claim hc hinit hacc) ⟨finish_resp _ _, ?_, ?_, fun id hne hp => plicPend_finish_of_pend ?_,
      fun id hne => ?_⟩
    · refine (plicPend_finish_of_served ?_).trans ?_
      · exact (plicServed_plicClaim htop' _).trans (if_pos rfl)
      · exact (plicPend_plicClaim htop' _).trans (if_pos rfl)
    · exact (plicServed_finish _ _ _).trans ((plicServed_plicClaim htop' _).trans (if_pos rfl))
    · exact (plicPend_plicClaim htop' _).trans ((if_neg hne).trans hp)
    · exact (plicServed_finish _ _ _).trans ((plicServed_plicClaim htop' _).trans (if_neg hne))
  · let w := (s.at time).answer .ok
    have hsame : SameSources s (plicComplete w c d.toNat) := (SameSources.at_answer s time _).trans (plicComplete_sameSources _)
    refine runs_of_done (exec_registerWrite_claim hc hacc d) ?_
    have hended : plicServed (plicComplete w c d.toNat) d.toNat = false := plicServed_plicComplete (lt_of_mem_irqIds hid) hen
    have hup' : islUp w 2 = true := hup
    rw [hsame.finish_eq, plicServed_plicLatch, plicPend_plicLatch, hsame.srcLevel, plicPend_plicComplete, islUp_plicComplete,
      hended, hup']
    refine ⟨rfl, ?_⟩
    simp only [hid, decide_true, Bool.true_and, Bool.not_false]
    rfl

end Sys2Proof.Machine
end


section
/-! The islands family: what reading and writing a pound leaves of the state, and the packet that a whole read takes. -/

namespace Sys2Proof.Machine

/-! ### Effects on one pound alone -/

/-- An address of the registers of pound `p`. -/
abbrev inPoundRegs (p a : Nat) : Prop := 0x40001000 + p * 0x40 ≤ a ∧ a < 0x40001040 + p * 0x40

/-- A state without its registers and its pounds. -/
def State.unpounded (s : State) : State := { s with regs := [], pounds := [] }

theorem unpounded_setPound (s : State) (p : Nat) (q : Pound) : (s.setPound p q).unpounded = s.unpounded := by
  simp [State.unpounded]

/-- `t` differs from `s` in pound `p` and in its registers alone. -/
structure PoundOnly (p : Nat) (s t : State) : Prop where
  regs : ∀ a, ¬inPoundRegs p a → t.reg a = s.reg a
  rest : t.unpounded = s.unpounded
  others : ∀ q, q ≠ p → t.pound q = s.pound q

namespace PoundOnly

variable {p : Nat} {s t : State}

theorem refl (s : State) : PoundOnly p s s := ⟨fun _ _ => rfl, rfl, fun _ _ => rfl⟩

theorem trans {u : State} (h : PoundOnly p s t) (k : PoundOnly p t u) : PoundOnly p s u :=
  ⟨fun a ha => (k.regs a ha).trans (h.regs a ha), k.rest.trans h.rest, fun q hq => (k.others q hq).trans (h.others q hq)⟩

theorem setReg (h : PoundOnly p s t) {a : Nat} (v : Word) (ha : inPoundRegs p a) : PoundOnly p s (t.setReg a v) where
  regs q hq := by
    rw [reg_setReg_ne _ _ (by rintro rfl; exact hq ha)]
    exact h.regs q hq
  rest := h.rest
  others := h.others

theorem setPound (h : PoundOnly p s t) (q : Pound) : PoundOnly p s (t.setPound p q) where
  regs a ha := by
    rw [reg_setPound_ne]
    · exact h.regs a ha
    all_goals
      rintro rfl
      apply ha
      simp only [inPoundRegs, Reg.topPndStat, Reg.topPndPkts, Reg.topPndXcnt]
      omega
  rest := (unpounded_setPound t p q).trans h.rest
  others j hj := (pound_setPound_ne t p q hj).trans (h.others j hj)

theorem inc (h : PoundOnly p s t) {a : Nat} (ha : inPoundRegs p a) : PoundOnly p s (t.inc a) := h.setReg _ ha

theorem addPair (h : PoundOnly p s t) {a : Nat} (n : Nat) (ha : inPoundRegs p a) (ha4 : inPoundRegs p (a + 4)) :
    PoundOnly p s (t.addPair a n) := (h.setReg _ ha).setReg _ ha4

theorem poundPush (h : PoundOnly p s t) (w : PWord) : PoundOnly p s (poundPush t p w) := h.setPound _

theorem pushAll (ws : List PWord) : ∀ {t : State}, PoundOnly p s t → PoundOnly p s (pushAll t p ws) := by
  induction ws with
  | nil => intro t h; exact h
  | cons w r ih => intro t h; exact ih (h.poundPush w)

theorem poundTake (h : PoundOnly p s t) : PoundOnly p s (poundTake t p) := by
  have habort : inPoundRegs p (Reg.topPndAbort p) := by simp only [inPoundRegs, Reg.topPndAbort]; omega
  have htot : inPoundRegs p (Reg.topPndTotLo p) ∧ inPoundRegs p (Reg.topPndTotLo p + 4) := by
    simp only [inPoundRegs, Reg.topPndTotLo]; omega
  unfold Machine.poundTake
  dsimp only
  split
  · exact h
  · split
    · exact (h.setPound _).inc habort
    · split
      · exact (h.setPound _).addPair _ htot.1 htot.2
      · exact h.setPound _

theorem takePacketN (n : Nat) : ∀ {t : State}, PoundOnly p s t → PoundOnly p s (takePacketN t p n) := by
  induction n with
  | zero => intro t h; exact h
  | succ n ih =>
    intro t h
    unfold Machine.takePacketN
    split
    · exact h
    · split
      · exact h.poundTake
      · exact ih h.poundTake

theorem ofRegs (h : PoundOnly p s t) {u : State} (k : RegsOnly (inPoundRegs p) t u) : PoundOnly p s u where
  regs a ha := (k.regs a ha).trans (h.regs a ha)
  rest := by
    have hu : u.unregistered.unpounded = t.unregistered.unpounded := by rw [k.rest]
    exact Eq.trans hu h.rest
  others q hq := (k.pound q).trans (h.others q hq)

end PoundOnly

/-! ### The words that a reader takes -/

/-- A pound after its reader took the oldest readable word (R25). -/
def Pound.takeWord (q : Pound) : Pound :=
  match q.ready with
  | [] => q
  | w :: r => { q with ready := r, taken := if w.last && w.abort then dropOpen q.taken else q.taken ++ [w] }

theorem pound_poundTake (s : State) (p : Nat) : (poundTake s p).pound p = (s.pound p).takeWord := by
  unfold poundTake Pound.takeWord
  dsimp only
  cases (s.pound p).ready with
  | nil => rfl
  | cons w r =>
    dsimp only
    cases w.last && w.abort
    · simp only [Bool.false_eq_true, if_false]
      split
      · exact pound_setPound_same _ _ _
      · exact pound_setPound_same _ _ _
    · simp only [if_true]
      exact pound_setPound_same _ _ _

/-- A pound after its reader took readable words up to the first end word, `n` at most. -/
def Pound.takeWords (q : Pound) : Nat → Pound
  | 0 => q
  | n + 1 =>
    match q.ready with
    | [] => q
    | w :: _ => if w.last then q.takeWord else Pound.takeWords q.takeWord n

theorem pound_takePacketN (p n : Nat) : ∀ s : State, (takePacketN s p n).pound p = (s.pound p).takeWords n := by
  induction n with
  | zero => intro s; rfl
  | succ n ih =>
    intro s
    unfold takePacketN Pound.takeWords
    cases (s.pound p).ready with
    | nil => rfl
    | cons w r =>
      dsimp only
      split
      · exact pound_poundTake s p
      · rw [ih, pound_poundTake]

/-- A pound whose reader looks for a whole packet: what it holds of one, or the words taken up to the first end word. -/
def Pound.forPacket (q : Pound) : Pound :=
  match splitPacket q.taken with
  | some _ => q
  | none => q.takeWords q.ready.length

/-- A whole read takes the first packet that the reader then holds, and leaves the pound without it. -/
theorem readPacket_eq (s : State) (p : Nat) : ∃ u, PoundOnly p s u ∧ u.pound p = (s.pound p).forPacket ∧
    readPacket s p = match splitPacket (u.pound p).taken with
      | none => none
      | some (ws, rest) => some (ws, u.setPound p { u.pound p with taken := rest }) := by
  unfold readPacket Pound.forPacket
  cases splitPacket (s.pound p).taken with
  | some q => exact ⟨s, .refl s, rfl, rfl⟩
  | none => exact ⟨_, (PoundOnly.refl s).takePacketN _, pound_takePacketN p _ s, rfl⟩

/-- What a whole read leaves. -/
theorem readPacket_spec {s : State} {p : Nat} {ws rest : List PWord} (h : splitPacket (s.pound p).forPacket.taken = some (ws, rest)) :
    ∃ u, readPacket s p = some (ws, u) ∧ PoundOnly p s u ∧ u.pound p = { (s.pound p).forPacket with taken := rest } := by
  obtain ⟨v, hv, hpound, hread⟩ := readPacket_eq s p
  rw [hpound, h] at hread
  exact ⟨_, hread, hv.setPound _, pound_setPound_same _ _ _⟩

end Sys2Proof.Machine
end


section
/-! The islands family: words written into a pound, made readable and taken (O10). -/

namespace Sys2Proof.Machine

/-! ### Pounds and their registers at the end of a command -/

/-- No tap records where none did, as far as TP_CTRL and the towpath island's state are kept. -/
theorem tapsOff_congr {s t : State} (h : t.reg Reg.tpTpCtrl = s.reg Reg.tpTpCtrl)
    (h' : t.reg (Reg.topIslStat 20) = s.reg (Reg.topIslStat 20)) : tapsOff t = tapsOff s := by
  simp only [tapsOff, recording_congr _ h h']

/-- A pound that no tap writes, or any while none records, is as the command's own effect left it. -/
theorem finish_pound_of {s t : State} {p : Nat} (h : isTap p = false ∨ tapsOff t = true) :
    (finish s t).pound p = t.pound p := by
  obtain h | h := h
  · exact finish_pound s t p h
  · rw [State.pound, finish_pounds s t h]; rfl

/-- So are its registers. -/
theorem finish_reg_pound {s t : State} {p a : Nat} (hp : p < 54) (ha : inPoundRegs p a)
    (h : isTap p = false ∨ tapsOff t = true) : (finish s t).reg a = t.reg a := by
  have hevent : eventReg a = false := by
    simp only [eventReg, Bool.or_eq_false_iff, Bool.and_eq_false_iff, decide_eq_false_iff_not]
    simp only [Reg.tsTsStat, Reg.tsTaskView, Reg.tsTaskFlags]
    omega
  by_cases htap : isTap p = true
  · have hcalm : calm t a = true := by
      have hmap : mapReg a = false := by
        rw [show mapReg a = (eventReg a || _) from rfl, hevent]
        simp only [isTap, Bool.and_eq_true, decide_eq_true_eq] at htap
        simp only [List.contains_eq_mem, List.mem_cons, List.not_mem_nil, or_false, Bool.false_or, decide_eq_false_iff_not]
        simp only [Reg.topPndStat, Reg.topPndXcnt, Reg.topPndTotLo, Reg.topPndTotHi]
        omega
      rw [calm, hmap, h.resolve_left (by simp [htap])]
      simp
    exact finish_reg_calm s t a hcalm
  · refine finish_reg_event s t hevent ?_
    simp only [isTap, Bool.and_eq_true, decide_eq_true_eq] at htap
    simp only [tapReg, Bool.or_eq_false_iff, Bool.and_eq_false_iff, decide_eq_false_iff_not, List.any_cons, List.any_nil,
      Bool.or_false]
    simp only [Reg.tpTpStat, Reg.tpLost, Reg.tpIrqRaw, Reg.tpMarkStat, Reg.topPndStat, Reg.topPndXcnt, Reg.topPndPkts]
    omega

/-! ### What a pound's registers show after an update -/

section
variable (s : State) (p : Nat) (q : Pound)

/-- LEVEL shows the pound's level. -/
theorem fld_setPound_level : (s.setPound p q).fld (Reg.topPndStat p) 0 10 = q.level % 1024 := by
  have hpkts : Reg.topPndStat p ≠ Reg.topPndPkts p := by simp only [Reg.topPndStat, Reg.topPndPkts]; omega
  have hxcnt : Reg.topPndStat p ≠ Reg.topPndXcnt p := by simp only [Reg.topPndStat, Reg.topPndXcnt]; omega
  unfold State.setPound
  extract_lets _ _ _ stored flagged counted
  have hc : counted.fld (Reg.topPndStat p) 0 10 = q.level % 1024 := by
    simp only [counted, flagged, State.fld, reg_setNat_ne _ _ _ hpkts, State.setFlds, reg_setReg_same, List.foldl_cons,
      List.foldl_nil]
    exact (bitsOf_putBits_out _ _ _ _ _ _ (by decide)).trans (bitsOf_putBits_same _ _ _ _ (by decide))
  split
  · rw [State.fld, reg_incWrap_ne _ _ hxcnt, reg_setBit_same, bitsOf_putBit_out _ _ _ _ _ (by decide)]
    exact hc
  · exact hc

/-- PND_PKTS shows its readable end words. -/
theorem regN_setPound_packets : (s.setPound p q).regN (Reg.topPndPkts p) = q.packets % 2 ^ 32 := by
  have hstat : Reg.topPndPkts p ≠ Reg.topPndStat p := by simp only [Reg.topPndStat, Reg.topPndPkts]; omega
  have hxcnt : Reg.topPndPkts p ≠ Reg.topPndXcnt p := by simp only [Reg.topPndPkts, Reg.topPndXcnt]; omega
  unfold State.setPound
  extract_lets _ _ _ stored flagged counted
  split
  · rw [State.regN, reg_incWrap_ne _ _ hxcnt, reg_setBit_ne _ _ _ _ hstat]
    exact regN_setNat_same _ _ _
  · exact regN_setNat_same _ _ _

end

/-- A pair of registers is a number below 2^48. -/
theorem pair_lt (s : State) (a : Nat) : s.pair a < 2 ^ 48 := by
  have hlo : s.regN a < 2 ^ 32 := (s.reg a).isLt
  have hhi : s.regN (a + 4) % 2 ^ 16 < 2 ^ 16 := Nat.mod_lt _ (by decide)
  simp only [State.pair]
  omega

theorem pair_setPair_same (s : State) (a v : Nat) : (s.setPair a v).pair a = v % 2 ^ 48 := by
  have hlo : (s.setPair a v).regN a = v % 2 ^ 32 := by
    rw [State.regN, State.setPair, reg_setNat_ne _ _ _ (by omega), reg_setNat_same, BitVec.toNat_ofNat, Nat.mod_mod]
  have hhi : (s.setPair a v).regN (a + 4) = v / 2 ^ 32 % 2 ^ 16 := by
    rw [State.setPair, regN_setNat_same]
    omega
  rw [State.pair, hlo, hhi]
  omega

theorem pair_addPair_same (s : State) (a n : Nat) : (s.addPair a n).pair a = (s.pair a + n) % 2 ^ 48 := pair_setPair_same _ _ _

theorem pair_congr {s t : State} {a : Nat} (h : t.reg a = s.reg a) (h4 : t.reg (a + 4) = s.reg (a + 4)) : t.pair a = s.pair a := by
  simp only [State.pair, State.regN, h, h4]

/-! ### What taking a word counts (R25, R46) -/

/-- A pound's counters of packets and of aborts do not follow its update. -/
theorem reg_setPound_counts (s : State) (p : Nat) (q : Pound) :
    (s.setPound p q).reg (Reg.topPndAbort p) = s.reg (Reg.topPndAbort p) ∧
    (s.setPound p q).reg (Reg.topPndTotLo p) = s.reg (Reg.topPndTotLo p) ∧
    (s.setPound p q).reg (Reg.topPndTotLo p + 4) = s.reg (Reg.topPndTotLo p + 4) := by
  refine ⟨reg_setPound_ne s p q ?_ ?_ ?_, reg_setPound_ne s p q ?_ ?_ ?_, reg_setPound_ne s p q ?_ ?_ ?_⟩
  all_goals
    simp only [Reg.topPndAbort, Reg.topPndTotLo, Reg.topPndStat, Reg.topPndPkts, Reg.topPndXcnt]
    omega

section
variable {s : State} {p : Nat} {w : PWord} {r : List PWord} (h : (s.pound p).ready = w :: r)
include h

/-- An end word with ABORT = 1 counts in PND_ABORT, and PND_TOT stays. -/
theorem poundTake_abort (hab : (w.last && w.abort) = true) :
    (poundTake s p).regN (Reg.topPndAbort p) = min (s.regN (Reg.topPndAbort p) + 1) 0xFFFFFFFF ∧
      (poundTake s p).pair (Reg.topPndTotLo p) = s.pair (Reg.topPndTotLo p) := by
  have he : poundTake s p = (s.setPound p { s.pound p with ready := r, taken := dropOpen (s.pound p).taken }).inc
      (Reg.topPndAbort p) := by
    simp only [poundTake, h, hab, if_true]
  obtain ⟨habort, hlo, hhi⟩ := reg_setPound_counts s p { s.pound p with ready := r, taken := dropOpen (s.pound p).taken }
  have hlone : Reg.topPndTotLo p ≠ Reg.topPndAbort p := by simp only [Reg.topPndAbort, Reg.topPndTotLo]; omega
  have hhine : Reg.topPndTotLo p + 4 ≠ Reg.topPndAbort p := by simp only [Reg.topPndAbort, Reg.topPndTotLo]; omega
  rw [he]
  refine ⟨?_, pair_congr ((reg_inc_ne _ _ hlone).trans hlo) ((reg_inc_ne _ _ hhine).trans hhi)⟩
  rw [State.inc, State.addRc, regN_setNat_same, State.regN, habort]
  exact Nat.mod_eq_of_lt (by omega)

/-- Any other word leaves PND_ABORT, and an end word counts in PND_TOT. -/
theorem poundTake_whole (hab : (w.last && w.abort) = false) :
    (poundTake s p).reg (Reg.topPndAbort p) = s.reg (Reg.topPndAbort p) ∧
      (poundTake s p).pair (Reg.topPndTotLo p) = (s.pair (Reg.topPndTotLo p) + bnat w.last) % 2 ^ 48 := by
  obtain ⟨habort, hlo, hhi⟩ := reg_setPound_counts s p { s.pound p with ready := r, taken := (s.pound p).taken ++ [w] }
  have hpair := pair_congr hlo hhi
  cases hlast : w.last
  · have he : poundTake s p = s.setPound p { s.pound p with ready := r, taken := (s.pound p).taken ++ [w] } := by
      simp only [poundTake, h, hlast, Bool.false_and, Bool.false_eq_true, if_false]
    rw [he, hpair]
    exact ⟨habort, (Nat.mod_eq_of_lt (pair_lt s _)).symm⟩
  · have he : poundTake s p =
        (s.setPound p { s.pound p with ready := r, taken := (s.pound p).taken ++ [w] }).addPair (Reg.topPndTotLo p) 1 := by
      rw [hlast, Bool.true_and] at hab
      simp only [poundTake, h, hlast, hab, Bool.and_false, Bool.false_eq_true, if_false, if_true]
    have hlone : Reg.topPndAbort p ≠ Reg.topPndTotLo p := by simp only [Reg.topPndAbort, Reg.topPndTotLo]; omega
    have hhine : Reg.topPndAbort p ≠ Reg.topPndTotLo p + 4 := by simp only [Reg.topPndAbort, Reg.topPndTotLo]; omega
    rw [he, pair_addPair_same, hpair]
    exact ⟨(reg_addPair_ne _ _ _ hlone hhine).trans habort, rfl⟩

end

/-! ### The traffic manager goes on writing an egress pound -/

/-- `t` has all of `s` but words written into pound `p`, with what follows in its registers and above TOP's. -/
structure Fed (p : Nat) (s t : State) : Prop where
  top : ∀ a, a < 0x40100000 → a ≠ Reg.topPndStat p → a ≠ Reg.topPndPkts p → a ≠ Reg.topPndXcnt p → t.reg a = s.reg a
  ready : (t.pound p).ready = (s.pound p).ready
  taken : (t.pound p).taken = (s.pound p).taken
  others : ∀ q, q ≠ p → t.pound q = s.pound q

/-- An address of the traffic manager's block. -/
abbrev inTm (a : Nat) : Prop := 0x40180000 ≤ a ∧ a < 0x40200000

/-- The pools' registers lie in the traffic manager's block. -/
theorem reviewTm_regsOnly (s : State) : RegsOnly inTm s (reviewTm s) := by
  unfold reviewTm
  extract_lets _ _ _ _ cells barges spill stat _ queue frames
  have hcells : RegsOnly inTm s cells := (RegsOnly.refl s).setFld _ _ _ (by decide)
  have hbarges : RegsOnly inTm s barges := hcells.setFld _ _ _ (by decide)
  have hspill : RegsOnly inTm s spill := hbarges.setFld _ _ _ (by decide)
  have hstat : RegsOnly inTm s stat := hspill.setFlds _ (by decide)
  have hqueue : RegsOnly inTm s queue := hstat.setFlds _ (by decide)
  have hframes : RegsOnly inTm s frames := hqueue.setFld _ _ _ (by decide)
  exact (hframes.setPair _ (by decide) (by decide)).setPair _ (by decide) (by decide)

namespace Fed

variable {p : Nat} {s t : State}

theorem refl (s : State) : Fed p s s := ⟨fun _ _ _ _ _ => rfl, rfl, rfl, fun _ _ => rfl⟩

theorem poundPush (h : Fed p s t) (w : PWord) : Fed p s (poundPush t p w) where
  top a ha hstat hpkts hxcnt := (reg_setPound_ne t p _ hstat hpkts hxcnt).trans (h.top a ha hstat hpkts hxcnt)
  ready := by rw [Machine.poundPush, pound_setPound_same, ← h.ready]
  taken := by rw [Machine.poundPush, pound_setPound_same, ← h.taken]
  others q hq := (pound_setPound_ne _ _ _ hq).trans (h.others q hq)

theorem putBarge (h : Fed p s t) (f : TmFrame) : Fed p s (putBarge t f) := by
  have hk := reviewTm_regsOnly { t with tm := { t.tm with frames := t.tm.frames.map (fun x => if x.fid = f.fid then f else x) } }
  have hp : ∀ q, (Machine.putBarge t f).pound q = t.pound q := hk.pound
  exact ⟨fun a ha hstat hpkts hxcnt => (hk.regs a (by omega)).trans (h.top a ha hstat hpkts hxcnt), (congrArg _ (hp p)).trans h.ready,
    (congrArg _ (hp p)).trans h.taken, fun q hq => (hp q).trans (h.others q hq)⟩

/-- A port of a radio, the CPU or the gauge house spends no credit and takes no note. -/
theorem egressFeed {k : Nat} (hk : 66 ≤ k) (n : Nat) : ∀ {t : State}, Fed p s t → Fed p s (egressFeed t k p n) := by
  induction n with
  | zero => intro t h; exact h
  | succ n ih =>
    intro t h
    unfold Machine.egressFeed
    split
    · exact h
    · next f _ =>
      dsimp only
      split
      · have hpush : ∀ w, egressPush t k p f w = Machine.poundPush t p w := fun w => by
          simp only [egressPush, if_neg (show ¬k < 64 by omega), if_neg (show ¬(k < 66 ∧ w.first = true) by omega)]
        rw [hpush]
        exact ih ((h.poundPush _).putBarge _)
      · exact h

theorem feedPound (h : Fed p s t) (hports : ∀ k, k < 72 → egressPound k = some p → 66 ≤ k) : Fed p s (feedPound t p) := by
  refine each_ind t (fun u => Fed p s u) _ _ h fun k hk u hu => ?_
  simp only [List.mem_filter, List.mem_range, decide_eq_true_eq] at hk
  obtain ⟨hlt, hpound⟩ := hk
  unfold feedPort
  rw [hpound]
  split
  · next q f hq _ =>
    cases hq
    exact hu.egressFeed (hports k hlt hpound) _
  · exact hu

end Fed

/-- Without a port that sends through it, a pound is not fed. -/
theorem feedPound_of_none {s : State} {p : Nat} (h : ∀ k, k < 72 → egressPound k ≠ some p) : feedPound s p = s := by
  have hnone : (List.range 72).filter (fun k => decide (egressPound k = some p)) = [] :=
    List.filter_eq_nil_iff.2 fun k hk => by simpa using h k (List.mem_range.1 hk)
  rw [feedPound, hnone]
  rfl

/-- Nor do its words move on without pause. -/
theorem egressMove_of_none {s : State} {p : Nat} (h : ∀ k, k < 72 → egressPound k ≠ some p) : egressMove s p = s := by
  have hstall : ¬(8 ≤ p ∧ p < 16) := fun hp => by
    refine h (8 * (p - 8)) (by omega) ?_
    simp only [egressPound, outPound, if_pos (show 8 * (p - 8) < 66 by omega), if_pos (show 8 * (p - 8) < 64 by omega)]
    congr 1
    omega
  have huplink : ¬(p = 18 ∨ p = 19) := by
    rintro (rfl | rfl)
    · exact h 64 (by decide) rfl
    · exact h 65 (by decide) rfl
  rw [egressMove, if_neg hstall, if_neg huplink, ite_self]

/-! ### The three commands -/

/-- What a taken word leaves where its pound's reader takes whole packets: the word taken, and words that the writer adds. -/
theorem readWord_fed {s : State} {p : Nat} (hlt : p < 54) (hp : 29 ≤ p ∨ (23 ≤ p ∧ p < 28 ∧ p ≠ 26 ∧ replaying s = false))
    (hmay : mayStart s p = true) : Fed p (poundTake s p) (readWord s p) ∧
      (29 ≤ p → (readWord s p).pound p = (poundTake s p).pound p) := by
  have hsource : ∀ p, p < 54 → 29 ≤ p ∨ (23 ≤ p ∧ p < 28 ∧ p ≠ 26) → ingressSource p = none := by decide
  have hports : ∀ p, p < 54 → 23 ≤ p → ∀ k, k < 72 → egressPound k = some p → 66 ≤ k := by decide
  unfold readWord
  rw [hsource p hlt (by omega)]
  simp only [if_neg (show ¬p = 28 by omega), if_neg (show ¬((8 ≤ p ∧ p < 16) ∨ p = 18 ∨ p = 19) by omega), hmay,
    Bool.true_eq_false, if_false]
  obtain hhigh | ⟨hlow, hlow', -, hrep⟩ := hp
  · rw [if_neg (by omega)]
    split
    · exact ⟨⟨fun _ _ _ _ _ => rfl, rfl, rfl, fun _ _ => rfl⟩, fun _ => rfl⟩
    · exact ⟨.refl _, fun _ => rfl⟩
  · rw [if_pos ⟨hlow, hlow'⟩, hrep]
    exact ⟨(Fed.refl _).feedPound (hports p hlt hlow), fun h => by omega⟩

theorem PoundOnly.tapsOff {s t : State} {p : Nat} (h : PoundOnly p s t) (hp : p < 54) : tapsOff t = tapsOff s :=
  tapsOff_congr (h.regs _ (by simp only [Reg.tpTpCtrl]; omega)) (h.regs _ (by simp only [Reg.topIslStat]; omega))

/-- The pounds that a command leaves are as they were at its end, where they are no tap pounds or no tap records. -/
theorem finish_pound_others {s u : State} {p q : Nat} (h : ∀ q, q ≠ p → u.pound q = s.pound q) (hoff : tapsOff u = tapsOff s)
    (hq : q ≠ p) (htap : isTap q = false ∨ tapsOff s = true) : (finish s u).pound q = s.pound q :=
  (finish_pound_of (by rwa [hoff])).trans (h q hq)

/-- POUND_WORD_WRITE. -/
theorem runs_poundWordWrite {time : Nat} {p : Fin 54} {w : PWord} {s : State} (hroom : poundRoom s p = true)
    (hfirst : w.first = !(s.pound p).midW) (htap : isTap p = false ∨ tapsOff s = true) :
    Runs (.poundWordWrite time p w) s fun t =>
      t.pound p = { s.pound p with flight := (s.pound p).flight ++ [w], midW := !w.last } ∧
      t.fld (Reg.topPndStat p) 0 10 = ((s.pound p).level + 1) % 1024 ∧
      (∀ q, q ≠ p.val → isTap q = false ∨ tapsOff s = true → t.pound q = s.pound q) ∧ t.l2 = s.l2 ∧ t.tstore = s.tstore := by
  let u := poundPush (s.at time) p w
  have hexec : exec (.poundWordWrite time p w) s = done s u := by
    have hwrite : (poundRoom (s.at time) p && (w.first == !((s.at time).pound p).midW)) = true := by
      rw [show poundRoom (s.at time) p = true from hroom, show ((s.at time).pound p).midW = (s.pound p).midW from rfl, hfirst]
      simp
    exact congrArg (done s) (if_pos hwrite)
  have hu : PoundOnly p (s.at time) u := (PoundOnly.refl _).poundPush w
  have hoff : tapsOff u = tapsOff s := hu.tapsOff p.isLt
  have htap' : isTap p = false ∨ tapsOff u = true := by rwa [hoff]
  have hlevel : Pound.level { s.pound p with flight := (s.pound p).flight ++ [w], midW := !w.last } = (s.pound p).level + 1 := by
    simp only [Pound.level, List.length_append, List.length_singleton]; omega
  have hstat : inPoundRegs p (Reg.topPndStat p) := by simp only [inPoundRegs, Reg.topPndStat]; omega
  refine runs_of_done hexec ⟨?_, ?_, fun q hq => finish_pound_others hu.others hoff hq, ?_, ?_⟩
  · exact (finish_pound_of htap').trans (pound_setPound_same _ _ _)
  · rw [← hlevel, State.fld, finish_reg_pound p.isLt hstat htap']
    exact fld_setPound_level _ _ _
  · exact (finish_l2 _ _).trans (setPound_l2 _ _ _)
  · exact (finish_tstore _ _).trans (setPound_tstore _ _ _)

/-- POUND_WORD_READABLE of a pound that no port reads without pause. -/
theorem runs_poundWordReadable {time : Nat} {p : Fin 54} {w : PWord} {r : List PWord} {s : State}
    (hflight : (s.pound p).flight = w :: r) (hports : ∀ k, k < 72 → egressPound k ≠ some p.val)
    (htap : isTap p = false ∨ tapsOff s = true) :
    Runs (.poundWordReadable time p) s fun t =>
      t.pound p = { s.pound p with flight := r, ready := (s.pound p).ready ++ [w] } ∧
      t.regN (Reg.topPndPkts p) = (((s.pound p).ready ++ [w]).filter (·.last)).length % 2 ^ 32 ∧
      (∀ q, q ≠ p.val → isTap q = false ∨ tapsOff s = true → t.pound q = s.pound q) := by
  let u := (s.at time).setPound p { s.pound p with flight := r, ready := (s.pound p).ready ++ [w] }
  have hshow : poundShow (s.at time) p = u := by
    have hflight' : ((s.at time).pound p).flight = w :: r := hflight
    simp only [poundShow, hflight']
    rfl
  have hexec : ∃ v, exec (.poundWordReadable time p) s = done s v ∧ v.regs = u.regs ∧ v.pounds = u.pounds := by
    refine ⟨_, rfl, ?_⟩
    rw [hshow, egressMove_of_none hports, feedPound_of_none hports]
    split <;> exact ⟨rfl, rfl⟩
  obtain ⟨v, hexec, hregs, hpounds⟩ := hexec
  have hpound : ∀ q, v.pound q = u.pound q := fun q => by rw [State.pound, hpounds]; rfl
  have hu : PoundOnly p (s.at time) u := (PoundOnly.refl _).setPound _
  have hoff : tapsOff v = tapsOff s := (tapsOff_congr (reg_congr _ hregs _) (reg_congr _ hregs _)).trans (hu.tapsOff p.isLt)
  have htap' : isTap p = false ∨ tapsOff v = true := by rwa [hoff]
  have hpkts : inPoundRegs p (Reg.topPndPkts p) := by simp only [inPoundRegs, Reg.topPndPkts]; omega
  refine runs_of_done hexec ⟨?_, ?_, fun q hq => finish_pound_others (fun q hq => (hpound q).trans (hu.others q hq)) hoff hq⟩
  · exact (finish_pound_of htap').trans ((hpound p).trans (pound_setPound_same _ _ _))
  · rw [State.regN, finish_reg_pound p.isLt hpkts htap', reg_congr _ hregs]
    exact regN_setPound_packets _ _ _

/-- POUND_WORD_READ by a reader of whole packets: what taking the word alone leaves of the pound and its counters stays. -/
theorem runs_poundWordRead {time : Nat} {p : Fin 54} {s : State}
    (hp : 29 ≤ p.val ∨ (23 ≤ p.val ∧ p.val < 28 ∧ p.val ≠ 26 ∧ replaying s = false)) (hmay : mayStart s p = true)
    (htap : isTap p = false ∨ tapsOff s = true) (hup : islUp s (poundEnds p).2 = true) :
    let u := poundTake (s.at time) p
    Runs (.poundWordRead time p) s fun t =>
      (t.pound p).ready = (s.pound p).takeWord.ready ∧ (t.pound p).taken = (s.pound p).takeWord.taken ∧
      (29 ≤ p.val → t.pound p = (s.pound p).takeWord) ∧
      (∀ q, q ≠ p.val → isTap q = false ∨ tapsOff s = true → t.pound q = s.pound q) ∧
      t.reg (Reg.topPndAbort p) = u.reg (Reg.topPndAbort p) ∧ t.pair (Reg.topPndTotLo p) = u.pair (Reg.topPndTotLo p) := by
  intro u
  let v := readWord (s.at time) p
  have hexec : exec (.poundWordRead time p) s = done s v := congrArg (done s) (if_pos hup)
  obtain ⟨hfed, hwhole⟩ : Fed p u v ∧ (29 ≤ p.val → v.pound p = u.pound p) := readWord_fed (s := s.at time) p.isLt hp hmay
  have hu : PoundOnly p (s.at time) u := (PoundOnly.refl _).poundTake
  have hupound : u.pound p = (s.pound p).takeWord := pound_poundTake _ _
  have hctrl : ∀ a, a = Reg.tpTpCtrl ∨ a = Reg.topIslStat 20 → v.reg a = u.reg a := fun a ha => by
    apply hfed.top <;>
      simp only [Reg.tpTpCtrl, Reg.topIslStat, Reg.topPndStat, Reg.topPndPkts, Reg.topPndXcnt] at ha ⊢ <;> omega
  have hoff : tapsOff v = tapsOff s := (tapsOff_congr (hctrl _ (.inl rfl)) (hctrl _ (.inr rfl))).trans (hu.tapsOff p.isLt)
  have htap' : isTap p = false ∨ tapsOff v = true := by rwa [hoff]
  have hcount : ∀ a, a ∈ [Reg.topPndAbort p, Reg.topPndTotLo p, Reg.topPndTotLo p + 4] → (finish s v).reg a = u.reg a := fun a ha => by
    have hplace : inPoundRegs p a ∧ a < 0x40100000 ∧ a ≠ Reg.topPndStat p ∧ a ≠ Reg.topPndPkts p ∧ a ≠ Reg.topPndXcnt p := by
      simp only [List.mem_cons, List.not_mem_nil, or_false] at ha
      simp only [inPoundRegs, Reg.topPndAbort, Reg.topPndTotLo, Reg.topPndStat, Reg.topPndPkts, Reg.topPndXcnt] at *
      omega
    obtain ⟨hin, hlow, hstat, hpkts, hxcnt⟩ := hplace
    exact (finish_reg_pound p.isLt hin htap').trans (hfed.top a hlow hstat hpkts hxcnt)
  have hpound : (finish s v).pound p = v.pound p := finish_pound_of htap'
  refine runs_of_done hexec ⟨?_, ?_, fun h => ?_, fun q hq => ?_, hcount _ (by simp), ?_⟩
  · rw [hpound, hfed.ready, hupound]
  · rw [hpound, hfed.taken, hupound]
  · rw [hpound, hwhole h, hupound]
  · exact finish_pound_others (fun q hq => (hfed.others q hq).trans (hu.others q hq)) hoff hq
  · exact pair_congr (hcount _ (by simp)) (hcount _ (by simp))

/-- Settles O10: each command updates one pound; what the end of a command may add is a tap's record in a tap pound. -/
theorem poundsTakeAndGiveWords : Obligations.PoundsTakeAndGiveWords := by
  unfold Obligations.PoundsTakeAndGiveWords
  refine ⟨fun time p w s => runs_poundWordWrite, fun time p s w r => runs_poundWordReadable,
    fun time p s w r hready hp hmay htap hup => ?_⟩
  have hrun := runs_poundWordRead (time := time) hp hmay htap hup
  have hready' : ((s.at time).pound p).ready = w :: r := hready
  have htaken : (s.pound p).takeWord = { s.pound p with
      ready := r, taken := if w.last && w.abort then dropOpen (s.pound p).taken else (s.pound p).taken ++ [w] } := by
    simp only [Pound.takeWord, hready]
  rw [htaken] at hrun
  refine ⟨fun hhigh => hrun.mono ?_, fun hab => hrun.mono ?_, fun hab => hrun.mono ?_⟩
  · rintro t ⟨hr, -, hwhole, hothers, -, -⟩
    exact ⟨⟨hr, hothers⟩, by rw [hwhole hhigh]⟩
  · rintro t ⟨hr, ht, -, hothers, habort, hpair⟩
    obtain ⟨hcount, htot⟩ := poundTake_whole hready' hab
    rw [hab] at ht
    exact ⟨⟨hr, hothers⟩, ht, hpair.trans htot, habort.trans hcount⟩
  · rintro t ⟨hr, ht, -, hothers, habort, hpair⟩
    obtain ⟨hcount, htot⟩ := poundTake_abort hready' hab
    rw [hab] at ht
    exact ⟨⟨hr, hothers⟩, ht, (congrArg BitVec.toNat habort).trans hcount, hpair.trans htot⟩

end Sys2Proof.Machine
end


section
/-! The islands family: what the fault log, the controllers' error records and the traffic of a DRAM access leave of the state. -/

namespace Sys2Proof.Machine

/-! ### The fault log -/

/-- An address of the fault block. -/
abbrev inFlt (a : Nat) : Prop := 0x40070000 ≤ a ∧ a < 0x40080000

theorem logPlace_lt (s : State) (key n : Nat) : ∀ {h : Nat}, h < 64 → logPlace s key n h < 64 := by
  induction n with
  | zero => intro h hh; exact hh
  | succ n ih =>
    intro h hh
    unfold logPlace
    dsimp only
    split
    · exact ih (Nat.mod_lt _ (by decide))
    · exact hh

/-- The four registers of a log entry lie in the fault block. -/
theorem inFlt_logEntry {p : Nat} (hp : p < 64) : inFlt (Reg.fltLogW0 p) ∧ inFlt (Reg.fltLogDtLo p) ∧ inFlt (Reg.fltLogDtHi p) ∧
    inFlt (Reg.fltLogInfo p) := by
  simp only [inFlt, Reg.fltLogW0, Reg.fltLogDtLo, Reg.fltLogDtHi, Reg.fltLogInfo]
  omega

namespace RegsOnly

variable {P Q : Nat → Prop} {s t : State}

theorem mono (h : RegsOnly P s t) (hPQ : ∀ a, P a → Q a) : RegsOnly Q s t :=
  ⟨fun a ha => h.regs a fun hp => ha (hPQ a hp), h.rest⟩

theorem logShift (h : RegsOnly inFlt s t) (p : Nat) : RegsOnly inFlt s (logShift t p) := by
  obtain ⟨h0, h1, h2, h3⟩ := inFlt_logEntry (p := (p + 1) % 64) (Nat.mod_lt _ (by decide))
  exact (((h.setReg _ h0).setReg _ h1).setReg _ h2).setReg _ h3

theorem logWrite (h : RegsOnly inFlt s t) {p : Nat} (hp : p < 64) (w0 info : Nat) : RegsOnly inFlt s (logWrite t p w0 info) := by
  obtain ⟨h0, h1, h2, h3⟩ := inFlt_logEntry hp
  exact (((h.setReg _ h0).setReg _ h1).setReg _ h2).setReg _ h3

theorem logInsert (h : RegsOnly inFlt s t) (w0 info : Nat) : RegsOnly inFlt s (logInsert t w0 info) := by
  unfold Machine.logInsert
  extract_lets head full p n shifted written
  have hp : p < 64 := logPlace_lt _ _ _ (nbits_lt _ 0 6)
  have hshifted : RegsOnly inFlt s shifted := h.each fun _ _ _ hu => hu.logShift _
  have hwritten : RegsOnly inFlt s written := .ite (fun _ => hshifted) fun _ => hshifted.logWrite hp _ _
  clear_value written
  exact .ite (fun _ => (hwritten.setReg (a := Reg.fltLogLost) _ (by decide)).raise _ (by decide)) fun _ => hwritten.setReg _ (by decide)

/-- A fault raised writes registers of the fault block alone. -/
theorem raiseFault (h : RegsOnly inFlt s t) {cls : Nat} (hc : cls < 16) (src : Nat) (act : FltAction) (info : Nat) :
    RegsOnly inFlt s (raiseFault t cls src act info) := by
  have hcnt : inFlt (Reg.fltFltCnt cls) := by simp only [inFlt, Reg.fltFltCnt]; omega
  have hcounted : RegsOnly inFlt s ((t.orReg Reg.fltFltStat (BitVec.ofNat 32 (2 ^ cls))).inc (Reg.fltFltCnt cls)) :=
    (h.orReg _ (by decide)).setReg _ hcnt
  exact (hcounted.raise (a := Reg.fltIrqRaw) 0 (by decide)).logInsert _ _

end RegsOnly

/-! ### Passage of pounds and error records -/

/-- Packets that pass through a pound within one step leave its words as they are. -/
theorem transit_regsOnly (s : State) (p n k : Nat) : RegsOnly (inPoundRegs p) s (transit s p n k) := by
  have hstat : inPoundRegs p (Reg.topPndStat p) := by simp only [inPoundRegs, Reg.topPndStat]; omega
  have hxcnt : inPoundRegs p (Reg.topPndXcnt p) := by simp only [inPoundRegs, Reg.topPndXcnt]; omega
  have htot : inPoundRegs p (Reg.topPndTotLo p) ∧ inPoundRegs p (Reg.topPndTotLo p + 4) := by
    simp only [inPoundRegs, Reg.topPndTotLo]; omega
  unfold transit
  extract_lets level mark crossed
  refine .ite (fun _ => .refl s) fun _ => RegsOnly.setPair ?_ _ htot.1 htot.2
  exact .ite (fun _ => ((RegsOnly.refl s).setReg _ hstat).setReg _ hxcnt) fun _ => .refl s

/-- The registers ERR_ADDR and ERR_INFO of channel `c`. -/
abbrev inErr (c a : Nat) : Prop := a = Reg.mcErrAddr c ∨ a = Reg.mcErrInfo c

theorem mcRecord_regsOnly (s : State) (c a port kind : Nat) (write : Bool) : RegsOnly (inErr c) s (mcRecord s c a port kind write) :=
  .ite (fun _ => (RegsOnly.refl s).setReg _ (.inr rfl)) fun _ => ((RegsOnly.refl s).setReg _ (.inl rfl)).setReg _ (.inr rfl)

/-! ### The traffic of an access to DRAM -/

/-- A DRAM offset lies in one of the two channels (R376). -/
theorem dramChan_lt (s : State) (off : Nat) : (dramChan s off).1 < 2 := by
  have hplace : ∃ c a, dramChan s off = (c, a) ∧ c < 2 := by
    unfold dramChan
    split
    · exact ⟨0, _, rfl, Nat.zero_lt_two⟩
    · extract_lets cap
      split
      · exact ⟨0, _, rfl, Nat.zero_lt_two⟩
      · exact ⟨1, _, rfl, Nat.one_lt_two⟩
    · exact ⟨_, _, rfl, Nat.mod_lt _ Nat.zero_lt_two⟩
  obtain ⟨c, a, he, hc⟩ := hplace
  rw [he]
  exact hc

/-- A register that the traffic of a DRAM access may write: one of the pounds, of the fault block or of a controller. -/
abbrev inTraffic (a : Nat) : Prop := (0x40001000 ≤ a ∧ a < 0x40002000) ∨ (0x40070000 ≤ a ∧ a < 0x40090000)

/-- A state without its registers, the controllers and the bandwidth meter. -/
def State.offDram (s : State) : State := { s with regs := [], mc := {}, pmu := {} }

/-- `t` differs from `s` by what the traffic of accesses to DRAM leaves. -/
structure Traffic (s t : State) : Prop where
  regs : ∀ a, ¬inTraffic a → t.reg a = s.reg a
  rest : t.offDram = s.offDram

namespace Traffic

variable {s t : State}

theorem refl (s : State) : Traffic s s := ⟨fun _ _ => rfl, rfl⟩

theorem ofRegs (h : Traffic s t) {P : Nat → Prop} {u : State} (k : RegsOnly P t u) (hP : ∀ a, P a → inTraffic a) : Traffic s u where
  regs a ha := (k.regs a fun hp => ha (hP a hp)).trans (h.regs a ha)
  rest := Eq.trans (show u.unregistered.offDram = t.unregistered.offDram by rw [k.rest]) h.rest

theorem setReg (h : Traffic s t) {a : Nat} (v : Word) (ha : inTraffic a) : Traffic s (t.setReg a v) :=
  h.ofRegs (P := (· = a)) ((RegsOnly.refl t).setReg v rfl) fun _ hq => hq ▸ ha

theorem setChan (h : Traffic s t) {c : Nat} (hc : c < 2) (x : McChan) : Traffic s (t.setChan c x) := by
  have hmoved : Traffic s { t with mc := { t.mc with ch := bankSet (fun _ => {}) t.mc.ch c x } } := ⟨h.regs, h.rest⟩
  exact hmoved.setReg _ (by simp only [inTraffic, Reg.mcMcStat]; omega)

theorem ite {c : Prop} [Decidable c] {u : State} (h : c → Traffic s t) (k : ¬c → Traffic s u) : Traffic s (if c then t else u) := by
  split
  · next hc => exact h hc
  · next hc => exact k hc

theorem bwCount (h : Traffic s t) (q n : Nat) (write : Bool) : Traffic s (bwCount t q n write) :=
  .ite (fun _ => .ite (fun _ => ⟨h.regs, h.rest⟩) fun _ => ⟨h.regs, h.rest⟩) fun _ => h

theorem transit (h : Traffic s t) {p : Nat} (hp : p < 54) (n k : Nat) : Traffic s (transit t p n k) :=
  h.ofRegs (transit_regsOnly t p n k) fun a ha => by simp only [inPoundRegs] at ha; simp only [inTraffic]; omega

theorem mcRecord (h : Traffic s t) {c : Nat} (hc : c < 2) (a port kind : Nat) (write : Bool) :
    Traffic s (mcRecord t c a port kind write) :=
  h.ofRegs (mcRecord_regsOnly t c a port kind write) fun a ha => by
    simp only [inErr, Reg.mcErrAddr, Reg.mcErrInfo] at ha; simp only [inTraffic]; omega

theorem clearBad (h : Traffic s t) (off n : Nat) : Traffic s (clearBad t off n) :=
  each_ind t (fun u => Traffic s u) _ _ h fun _ hc _ hu => .ite (fun _ => hu) fun _ => hu.setChan (List.mem_range.1 hc) _

theorem mcUe (h : Traffic s t) {c : Nat} (hc : c < 2) (line port : Nat) (write : Bool) : Traffic s (mcUe t c line port write) := by
  have hcnt : inTraffic (Reg.mcUeCnt c) := by simp only [inTraffic, Reg.mcUeCnt]; omega
  have hraw : inTraffic (Reg.mcIrqRaw c) := by simp only [inTraffic, Reg.mcIrqRaw]; omega
  unfold Machine.mcUe
  extract_lets counted raised x
  have hcounted : Traffic s counted := (h.setReg _ hcnt).setReg _ hraw
  have hraised : Traffic s raised := hcounted.ofRegs ((RegsOnly.refl _).raiseFault (by decide) _ _ _) fun a ha => by
    simp only [inFlt] at ha; simp only [inTraffic]; omega
  exact (hraised.setChan hc _).mcRecord hc _ _ _ _

/-- An access of port `q` to DRAM. -/
theorem dramUse (h : Traffic s t) {q : Nat} (hq : q < 8) (off n : Nat) (write : Bool) : Traffic s (dramUse t q off n write) := by
  unfold Machine.dramUse
  extract_lets _ _ counted asked answered
  have hanswered : Traffic s answered := ((h.bwCount _ _ _).transit (by omega) _ _).transit (by omega) _ _
  clear_value answered
  split
  · exact .ite (fun _ => hanswered.clearBad _ _) fun _ => hanswered
  · next o _ =>
    have hc := dramChan_lt answered o
    exact .ite (fun _ => hanswered) fun _ => .ite (fun _ => hanswered.mcRecord hc _ _ _ _) fun _ => hanswered.mcUe hc _ _ _

end Traffic

end Sys2Proof.Machine
end


section
/-! The islands family: the collectors (O12). -/

namespace Sys2Proof.Machine

/-! ### The rotation -/

theorem rotPick_lt {n last k : Nat} {ready : Nat → Bool} (hn : 0 < n) (h : rotPick n last ready = some k) : k < n := by
  rw [rotPick, List.find?_map, Option.map_eq_some_iff] at h
  obtain ⟨i, -, rfl⟩ := h
  exact Nat.mod_lt _ hn

/-- The source taken is ready, and those between it and the one taken last are not (R34). -/
theorem rotPick_some {n last k : Nat} {ready : Nat → Bool} (hlast : last < n) (h : rotPick n last ready = some k) :
    k < n ∧ ready k = true ∧ ∀ j, j < (k + n - last - 1) % n → ready ((last + 1 + j) % n) = false := by
  rw [rotPick, List.find?_map, Option.map_eq_some_iff] at h
  obtain ⟨i, hi, rfl⟩ := h
  rw [List.find?_range_eq_some] at hi
  obtain ⟨hready, hmem, hbefore⟩ := hi
  have hin : i < n := List.mem_range.1 hmem
  have hback : ((last + 1 + i) % n + n - last - 1) % n = i := by
    obtain hlow | hwrap := Nat.lt_or_ge (last + 1 + i) n
    · rw [Nat.mod_eq_of_lt hlow, show last + 1 + i + n - last - 1 = i + n by omega, Nat.add_mod_right, Nat.mod_eq_of_lt hin]
    · rw [Nat.mod_eq_sub_mod hwrap, Nat.mod_eq_of_lt (show last + 1 + i - n < n by omega),
        show last + 1 + i - n + n - last - 1 = i by omega, Nat.mod_eq_of_lt hin]
  refine ⟨Nat.mod_lt _ (by omega), hready, fun j hj => ?_⟩
  rw [hback] at hj
  simpa using hbefore j hj

/-! ### The reorder collector -/

theorem collectReorder_eq {s : State} {e : Nat} {f : PpFrame} (hpick : rotPick 8 s.pp.outRot (fun k => match engFrame s k with
      | none => false
      | some g => resultReady g) = some e) (hf : engFrame s e = some f) :
    collectReorder s = { putFrame (s.setBit Reg.ppPpStat e false) { f with eng := none, collected := true } with
      pp := { (putFrame (s.setBit Reg.ppPpStat e false) { f with eng := none, collected := true }).pp with outRot := e } } := by
  unfold collectReorder
  split
  · next hnone => cases hnone.symm.trans hpick
  · next e' hsome =>
    cases hsome.symm.trans hpick
    simp only [hf]

/-- COLLECTOR_ACCEPT of the reorder collector. -/
theorem runs_collectReorder {time : Nat} {s : State} {e : Nat} {f : PpFrame}
    (hpick : rotPick 8 s.pp.outRot (fun k => match engFrame s k with
      | none => false
      | some g => resultReady g) = some e) (hf : engFrame s e = some f) (hup : islUp s 4 = true) :
    Runs (.collectorAccept time .reorder) s fun t =>
      t.pp.outRot = e ∧ t.bit Reg.ppPpStat e = false ∧ t.pp.frames = s.pp.frames.map (fun g =>
        if g.fid = f.fid then { f with eng := none, collected := true } else g) := by
  have he : e < 8 := rotPick_lt (by decide) hpick
  have hexec : exec (.collectorAccept time .reorder) s = done s (collectReorder (s.at time)) := congrArg (done s) (if_pos hup)
  rw [collectReorder_eq (s := s.at time) hpick hf] at hexec
  refine runs_of_done hexec ⟨?_, ?_, ?_⟩
  · rw [finish_pp]
  · rw [State.bit, finish_reg _ _ _ (by decide)]
    exact bit_setBit_same _ _ _ _ (by omega)
  · rw [finish_pp]
    rfl

/-! ### The completion collector -/

/-- A task's move between states leaves the cores' records. -/
theorem ts_setTaskState (s : State) (k st : Nat) : ∃ x, (s.setTaskState k st).ts = { s.ts with tasks := x } := by
  unfold State.setTaskState
  dsimp only
  split
  · exact ⟨_, rfl⟩
  · exact ⟨s.ts.tasks, rfl⟩

theorem ts_reviewTask (s : State) (k : Nat) : ∃ x, (s.reviewTask k).ts = { s.ts with tasks := x } := by
  unfold State.reviewTask
  split
  · exact ts_setTaskState s k 2
  · split
    · exact ts_setTaskState s k 1
    · exact ⟨s.ts.tasks, rfl⟩

/-- Core `c` holds no task, and the other cores and the completion collector are as in `s`. -/
structure CoreFreed (c : Nat) (s t : State) : Prop where
  rot : t.ts.rot = s.ts.rot
  doneWait : t.ts.doneWait = s.ts.doneWait
  holds : ∀ k, holdOfCore t k = if k = c then none else holdOfCore s k

namespace CoreFreed

variable {c : Nat} {s t : State}

theorem tasks (h : CoreFreed c s t) {u : State} (hu : ∃ x, u.ts = { t.ts with tasks := x }) : CoreFreed c s u := by
  obtain ⟨x, hx⟩ := hu
  refine ⟨?_, ?_, fun k => ?_⟩
  · rw [hx]; exact h.rot
  · rw [hx]; exact h.doneWait
  · rw [holdOfCore, hx]; exact h.holds k

end CoreFreed

/-- A DONE taken frees its core (R414). -/
theorem doneTask_coreFreed (s : State) (c : Nat) (disable : Bool) : CoreFreed c s (doneTask s c disable) := by
  unfold doneTask
  split
  · next hnone =>
    refine ⟨rfl, rfl, fun k => ?_⟩
    split
    · next hk => rw [hk]; exact hnone
    · rfl
  · next k _ =>
    extract_lets freed x moved
    have hfreed : CoreFreed c s freed :=
      ⟨rfl, rfl, fun j => bankGet_bankSet (fun _ => none) s.ts.holds c j none⟩
    have hmoved : CoreFreed c s moved := by
      unfold moved
      split
      · exact hfreed
      · exact hfreed.tasks ⟨_, rfl⟩
    clear_value moved
    split
    · exact hmoved.tasks (ts_setTaskState _ _ _)
    · split
      · exact hmoved.tasks (ts_setTaskState _ _ _)
      · exact (hmoved.tasks (ts_setTaskState _ _ _)).tasks (ts_reviewTask _ _)

theorem doneOf_setDoneOf (s : State) (c k : Nat) (l : List Word) :
    doneOf (setDoneOf s c l) k = if k = c then l else doneOf s k :=
  bankGet_bankSet (fun _ => []) s.ts.doneWait c k l

/-- The cores' records and the collector's rotation are as the command's own effect left them. -/
theorem finish_cores (s t : State) : (finish s t).ts.rot = t.ts.rot ∧ (∀ k, doneOf (finish s t) k = doneOf t k) ∧
    ∀ k, holdOfCore (finish s t) k = holdOfCore t k := by
  have h := finish_ts s t
  simp only [TsState.mk.injEq] at h
  obtain ⟨-, hholds, hdone, hrot, -⟩ := h
  exact ⟨hrot, fun k => by rw [doneOf, hdone]; rfl, fun k => by rw [holdOfCore, hholds]; rfl⟩

/-- COLLECTOR_ACCEPT of the completion collector. -/
theorem runs_completionAccept {time : Nat} {s : State} {c : Nat} {w : Word} {r : List Word}
    (hpick : rotPick 8 s.ts.rot (fun k => !(doneOf s k).isEmpty) = some c) (hdone : doneOf s c = w :: r) (hup : islUp s 3 = true) :
    Runs (.collectorAccept time .completion) s fun t =>
      t.ts.rot = c ∧ doneOf t c = r ∧ holdOfCore t c = none ∧
      ∀ k, k ≠ c → doneOf t k = doneOf s k ∧ holdOfCore t k = holdOfCore s k := by
  let v := setDoneOf (s.at time) c r
  let u := doneTask { v with ts := { v.ts with rot := c } } c (bitOf w 1)
  have heffect : completionAccept (s.at time) = u := by
    have hpick' : rotPick 8 (s.at time).ts.rot (fun k => !(doneOf (s.at time) k).isEmpty) = some c := hpick
    have hdone' : doneOf (s.at time) c = w :: r := hdone
    simp only [completionAccept, hpick', hdone']
    rfl
  have hexec : exec (.collectorAccept time .completion) s = done s (completionAccept (s.at time)) := congrArg (done s) (if_pos hup)
  rw [heffect] at hexec
  have hu : CoreFreed c { v with ts := { v.ts with rot := c } } u := doneTask_coreFreed _ _ _
  have hwait : ∀ k, doneOf u k = if k = c then r else doneOf s k := fun k => by
    rw [doneOf, hu.doneWait]
    exact doneOf_setDoneOf (s.at time) c k r
  obtain ⟨hrot, hdones, hholds⟩ := finish_cores s u
  refine runs_of_done hexec ⟨hrot.trans hu.rot, ?_, ?_, fun k hk => ⟨?_, ?_⟩⟩
  · rw [hdones, hwait, if_pos rfl]
  · rw [hholds, hu.holds, if_pos rfl]
  · rw [hdones, hwait, if_neg hk]
  · rw [hholds, hu.holds, if_neg hk]
    rfl

/-! ### The tap collector -/

theorem splitPacket_cons (w : PWord) (r : List PWord) : splitPacket (w :: r) =
    if w.last then some ([w], r) else (splitPacket r).map fun q => (w :: q.1, q.2) := by
  rw [splitPacket]
  split
  · rfl
  · split <;> simp [*]

/-- A packet split off is a whole packet by itself. -/
theorem splitPacket_self (l : List PWord) : ∀ {a b : List PWord}, splitPacket l = some (a, b) → splitPacket a = some (a, []) := by
  induction l with
  | nil => intro a b h; cases h
  | cons w r ih =>
    intro a b h
    rw [splitPacket_cons] at h
    split at h
    · next hl =>
      cases h
      rw [splitPacket_cons, if_pos hl]
    · next hl =>
      obtain ⟨⟨x, y⟩, hxy, hab⟩ := Option.map_eq_some_iff.1 h
      cases hab
      rw [splitPacket_cons, if_neg hl, ih hxy]
      rfl

/-- The whole packet at the head of the readable words, without ABORT, moves to the words taken. -/
theorem takeWords_packet (n : Nat) : ∀ {q : Pound} {a b : List PWord}, splitPacket q.ready = some (a, b) →
    a.all (fun w => !w.abort) = true → q.ready.length ≤ n → q.takeWords n = { q with ready := b, taken := q.taken ++ a } := by
  induction n with
  | zero =>
    intro q a b h _ hn
    rw [List.length_eq_zero_iff.1 (Nat.le_zero.1 hn)] at h
    cases h
  | succ n ih =>
    intro q a b h hab hn
    cases hr : q.ready with
    | nil => rw [hr] at h; cases h
    | cons w r =>
      rw [hr, splitPacket_cons] at h
      have hword : ∀ hw : (w.last && w.abort) = false, q.takeWord = { q with ready := r, taken := q.taken ++ [w] } := fun hw => by
        simp only [Pound.takeWord, hr, hw, Bool.false_eq_true, if_false]
      simp only [Pound.takeWords, hr]
      split at h
      · next hl =>
        cases h
        have hna : w.abort = false := by simpa using hab
        rw [if_pos hl, hword (by rw [hna, Bool.and_false])]
      · next hl =>
        obtain ⟨⟨x, y⟩, hxy, hpair⟩ := Option.map_eq_some_iff.1 h
        cases hpair
        have hrest : x.all (fun w => !w.abort) = true := by simp only [List.all_cons, Bool.and_eq_true] at hab; exact hab.2
        rw [hr, List.length_cons] at hn
        rw [if_neg hl, hword (by simp [hl]), ih (q := { q with ready := r, taken := q.taken ++ [w] }) hxy hrest (by simpa using hn)]
        simp

/-- A reader that holds no words takes the packet whole. -/
theorem readPacket_fresh {s : State} {p : Nat} {a b : List PWord} (htaken : (s.pound p).taken = [])
    (hready : splitPacket (s.pound p).ready = some (a, b)) (hab : a.all (fun w => !w.abort) = true) :
    ∃ u, readPacket s p = some (a, u) ∧ PoundOnly p s u ∧ (u.pound p).ready = b := by
  have hpacket : (s.pound p).forPacket = { s.pound p with ready := b, taken := a } := by
    rw [Pound.forPacket, htaken]
    have hwords := takeWords_packet _ hready hab le_rfl
    rw [htaken, List.nil_append] at hwords
    exact hwords
  have hwhole : splitPacket (s.pound p).forPacket.taken = some (a, []) := by
    rw [hpacket]
    exact splitPacket_self _ hready
  obtain ⟨u, hread, hu, hpound⟩ := readPacket_spec hwhole
  exact ⟨u, hread, hu, by rw [hpound, hpacket]⟩

theorem tapPick_lt {s : State} {k : Nat} (h : tapPick s = some k) : k < 3 := by
  unfold tapPick at h
  split at h
  · cases h
  · exact List.mem_range.1 (List.mem_of_find?_eq_some h)

/-! ### A record written to the ring -/

/-- `t` has the ring's place, the recorder's sequence and the pounds of `s`. -/
structure RingKept (s t : State) : Prop where
  size : t.reg Reg.tpRingSize = s.reg Reg.tpRingSize
  ptr : t.reg Reg.tpWrPtr = s.reg Reg.tpWrPtr
  rot : t.tp.rot = s.tp.rot
  rseq : t.tp.rseq = s.tp.rseq
  pounds : t.pounds = s.pounds

namespace RingKept

variable {s t : State}

theorem refl (s : State) : RingKept s s := ⟨rfl, rfl, rfl, rfl, rfl⟩

theorem setReg (h : RingKept s t) {a : Nat} (v : Word) (hsize : Reg.tpRingSize ≠ a) (hptr : Reg.tpWrPtr ≠ a) :
    RingKept s (t.setReg a v) :=
  ⟨(reg_setReg_ne _ _ hsize).trans h.size, (reg_setReg_ne _ _ hptr).trans h.ptr, h.rot, h.rseq, h.pounds⟩

theorem taking (h : RingKept s t) (x : Option (Fin 16)) : RingKept s { t with tp := { t.tp with taking := x } } :=
  ⟨h.size, h.ptr, h.rot, h.rseq, h.pounds⟩

theorem ite {c : Prop} [Decidable c] {u : State} (h : RingKept s t) (k : RingKept s u) : RingKept s (if c then t else u) := by
  split
  · exact h
  · exact k

theorem ringBytes (n : Nat) : ∀ {t : State} (u : Nat) (bs : List Byte), RingKept s t → RingKept s (ringBytes t u n bs) := by
  induction n with
  | zero => intro t u bs h; exact h
  | succ n ih =>
    intro t u bs h
    exact ih (u + 1) _ (.ite ⟨h.size, h.ptr, h.rot, h.rseq, h.pounds⟩ h)

theorem traffic (h : RingKept s t) {u : State} (k : Traffic t u) : RingKept s u := by
  have htp : u.tp = t.tp := show u.offDram.tp = t.offDram.tp by rw [k.rest]
  have hpounds : u.pounds = t.pounds := show u.offDram.pounds = t.offDram.pounds by rw [k.rest]
  exact ⟨(k.regs _ (by decide)).trans h.size, (k.regs _ (by decide)).trans h.ptr, (congrArg _ htp).trans h.rot,
    (congrArg _ htp).trans h.rseq, hpounds.trans h.pounds⟩

theorem ringUnits (h : RingKept s t) : ringUnits t = ringUnits s := ringUnits_congr h.size

end RingKept

theorem ringUnits_le (s : State) : ringUnits s ≤ 268435456 := by
  unfold ringUnits
  omega

/-- The write position of the ring replaced, and one record counted. -/
def withWrPtr (s : State) (n : Nat) : State := (s.setNat Reg.tpWrPtr n).addPair Reg.tpRecLo 1

/-- Without HOLD a record goes to the ring: the write position moves by its units, and the next record has the next number (R499). -/
theorem ringRecord_written {s : State} (hring : ringUnits s ≠ 0) (hhold : s.bit Reg.tpTpCtrl 2 = false) (b : List Byte) :
    ∃ v m, RingKept s v ∧ m = withWrPtr v ((s.regN Reg.tpWrPtr + b.length / 16) % ringUnits s) ∧
      ringRecord s b = { m with tp := { m.tp with rseq := (m.tp.rseq + 1) % 65536 } } := by
  unfold ringRecord
  rw [if_neg hring]
  extract_lets bs n late marked _ overtaken u used e wrapped shown moved recorder
  rw [hhold, Bool.false_and, if_neg (by decide)]
  have hmarked : RingKept s marked := by
    refine each_ind s (fun v => RingKept s v) _ _ (.refl s) fun m hm v hv => ?_
    have hlt : m < 16 := by
      simp only [late, liveMarks, List.mem_filter, List.mem_range] at hm
      exact hm.1.1
    refine (hv.setReg (a := Reg.tpMarkStat m) _ ?_ ?_).setReg (a := Reg.tpIrqRaw) _ (by decide) (by decide) <;>
      simp only [Reg.tpRingSize, Reg.tpWrPtr, Reg.tpMarkStat] <;> omega
  have hovertaken : RingKept s overtaken := .ite (hmarked.taking _) hmarked
  have hused : RingKept s used := (hovertaken.ringBytes _ _ _).traffic ((Traffic.refl _).dramUse (by decide) _ _ _)
  have hwrapped : RingKept s wrapped := .ite (hused.setReg _ (by decide) (by decide)) hused
  have hshown : RingKept s shown := hwrapped.setReg (a := Reg.tpTpStat) _ (by decide) (by decide)
  have hu : u = s.regN Reg.tpWrPtr := congrArg BitVec.toNat hovertaken.ptr
  have hn : n = b.length / 16 := by
    simp only [n, bs, List.length_append, List.length_take, List.length_drop, length_leBytes]
    omega
  have hmoved : moved = withWrPtr shown ((s.regN Reg.tpWrPtr + b.length / 16) % ringUnits s) := by
    simp only [moved, withWrPtr, e, hu, hn, hshown.ringUnits]
  have hrecorder : recorder = moved.tp := rfl
  refine ⟨shown, moved, hshown, hmoved, ?_⟩
  rw [hrecorder]

/-- So the recorder's number and the write position move on, and the rotation and the pounds stay. -/
theorem ringRecord_moves {s : State} (hring : ringUnits s ≠ 0) (hhold : s.bit Reg.tpTpCtrl 2 = false) (b : List Byte) :
    (ringRecord s b).tp.rot = s.tp.rot ∧ (ringRecord s b).tp.rseq = (s.tp.rseq + 1) % 65536 ∧
      (ringRecord s b).pounds = s.pounds ∧
      (ringRecord s b).regN Reg.tpWrPtr = (s.regN Reg.tpWrPtr + b.length / 16) % ringUnits s := by
  obtain ⟨v, m, hv, hm, hrecord⟩ := ringRecord_written hring hhold b
  have htp : m.tp = v.tp := by rw [hm, withWrPtr, addPair_tp, setNat_tp]
  have hpounds : m.pounds = v.pounds := by rw [hm, withWrPtr, addPair_pounds, setNat_pounds]
  have hptr : m.reg Reg.tpWrPtr = BitVec.ofNat 32 ((s.regN Reg.tpWrPtr + b.length / 16) % ringUnits s) := by
    rw [hm, withWrPtr, reg_addPair_ne _ _ _ (by decide) (by decide), reg_setNat_same]
  have hlt : (s.regN Reg.tpWrPtr + b.length / 16) % ringUnits s < 2 ^ 32 :=
    (Nat.mod_lt _ (Nat.pos_of_ne_zero hring)).trans_le ((ringUnits_le s).trans (by decide))
  rw [hrecord]
  refine ⟨?_, ?_, hpounds.trans hv.pounds, ?_⟩
  · rw [← hv.rot, ← htp]
  · rw [← hv.rseq, ← htp]
  · rw [← Nat.mod_eq_of_lt hlt, ← BitVec.toNat_ofNat, ← hptr]
    rfl

/-- The recorder's rotation and number are as the command's own effect left them. -/
theorem Noted.recorder {s t : State} (h : Noted s t) : t.tp.rot = s.tp.rot ∧ t.tp.rseq = s.tp.rseq := by
  have htp := h.tp
  simp only [TpState.mk.injEq] at htp
  obtain ⟨-, hrseq, -, -, -, hrot⟩ := htp
  exact ⟨hrot, hrseq⟩

theorem finish_recorder (s t : State) : (finish s t).tp.rot = t.tp.rot ∧ (finish s t).tp.rseq = t.tp.rseq := by
  have htp := finish_tp s t
  simp only [TpState.mk.injEq] at htp
  obtain ⟨-, hrseq, -, -, -, hrot⟩ := htp
  exact ⟨hrot, hrseq⟩

/-- COLLECTOR_ACCEPT of the tap collector without HOLD and without discards of the recorder to tell. -/
theorem runs_tapAccept {time : Nat} {s : State} {k : Nat} {q : List PWord × List PWord} (hpick : tapPick s = some k)
    (htaken : (s.pound (33 + k)).taken = []) (hready : splitPacket (s.pound (33 + k)).ready = some q)
    (hab : q.1.all (fun w => !w.abort) = true) (hup : islUp s 20 = true) (hring : ringUnits s ≠ 0)
    (hhold : s.bit Reg.tpTpCtrl 2 = false) (hgap : gapOf s 3 = 0) :
    Runs (.collectorAccept time .tap) s fun t =>
      t.tp.rot = k ∧ t.tp.rseq = (s.tp.rseq + 1) % 65536 ∧ (t.pound (33 + k)).ready = q.2 ∧
      t.regN Reg.tpWrPtr = (s.regN Reg.tpWrPtr + (wordsData q.1).length / 16) % ringUnits s ∧
      ∀ j, j < 3 → j ≠ k → (t.pound (33 + j)).ready = (s.pound (33 + j)).ready := by
  have hk : k < 3 := tapPick_lt hpick
  have htap : isTap (33 + k) = true := by simp only [isTap, Bool.and_eq_true, decide_eq_true_eq]; omega
  obtain ⟨v, hread, hv, hrest⟩ := readPacket_fresh (s := s.at time) htaken hready hab
  let w : State := { v with tp := { v.tp with rot := k } }
  let u := tapGap (ringRecord w (wordsData q.1)) k
  have hvtp : v.tp = s.tp := show v.unpounded.tp = (s.at time).unpounded.tp by rw [hv.rest]
  have hfar : ∀ a, 0x40002000 ≤ a → w.reg a = s.reg a := fun a ha =>
    hv.regs a (by simp only [inPoundRegs]; omega)
  have hgap' : gapWrite w = w := by
    have hzero : gapOf w 3 = 0 := by
      show bankGet (fun _ => 0) v.tp.gap 3 = 0
      rw [hvtp]
      exact hgap
    simp only [gapWrite, hzero, true_or, if_true]
  have heffect : tapAccept (s.at time) = u := by
    have hpick' : tapPick (s.at time) = some k := hpick
    simp only [tapAccept, hpick', hread]
    exact congrArg (fun x => tapGap (ringRecord x (wordsData q.1)) k) hgap'
  have hexec : exec (.collectorAccept time .tap) s = done s (tapAccept (s.at time)) := congrArg (done s) (if_pos hup)
  rw [heffect] at hexec
  have hunits : ringUnits w = ringUnits s := ringUnits_congr (hfar _ (by decide))
  have hctrl : w.bit Reg.tpTpCtrl 2 = false := by rw [State.bit, hfar _ (by decide)]; exact hhold
  obtain ⟨hrot, hrseq, hpounds, hptr⟩ := ringRecord_moves (by rwa [hunits]) hctrl (wordsData q.1)
  have hu : Noted (ringRecord w (wordsData q.1)) u := (Noted.refl _).tapGap htap
  obtain ⟨hurot, hurseq⟩ := hu.recorder
  obtain ⟨hfrot, hfrseq⟩ := finish_recorder s u
  have hpound : ∀ j, (ringRecord w (wordsData q.1)).pound j = v.pound j := fun j => by rw [State.pound, hpounds]; rfl
  refine runs_of_done hexec ⟨?_, ?_, ?_, ?_, fun j _ hj => ?_⟩
  · rw [hfrot, hurot, hrot]
  · rw [hfrseq, hurseq, hrseq]
    show (v.tp.rseq + 1) % 65536 = _
    rw [hvtp]
  · rw [finish_ready, hu.ready, hpound, hrest]
  · rw [State.regN, finish_reg _ _ _ (by decide), hu.regs _ (by decide) (by decide)]
    refine hptr.trans ?_
    rw [hunits, State.regN, hfar _ (by decide)]
    rfl
  · rw [finish_ready, hu.ready, hpound, hv.others _ (by omega)]
    rfl

/-- Settles O12: each collector takes the source of its rotation, and the rotation is a search from the one behind the last. -/
theorem collectorsAcceptInRotation : Obligations.CollectorsAcceptInRotation := by
  unfold Obligations.CollectorsAcceptInRotation
  refine ⟨fun time s e hpick f hf hup => runs_collectReorder hpick hf hup,
    fun time s c w r hpick hdone hup => runs_completionAccept hpick hdone hup,
    fun time s k hpick htaken q hready hab hup hring hhold hgap =>
      runs_tapAccept hpick htaken hready hab hup hring hhold hgap,
    fun time s => ⟨rfl, fun hup => congrArg (done s) (if_pos hup)⟩,
    fun n last ready _ hlast k hpick => rotPick_some hlast hpick⟩

end Sys2Proof.Machine
end


section
/-! The islands family: the DRAM controllers' answers, and the state in which a request is taken. -/

namespace Sys2Proof.Machine

/-! ### Answers -/

/-- The bytes of a register that a word written into a response pound moves: PND_STAT, PND_XCNT and PND_PKTS of an odd pound. -/
abbrev inResponse (a : Nat) : Prop := a % 0x80 = 0x44 ∨ a % 0x80 = 0x48 ∨ a % 0x80 = 0x4C

theorem reg_pushAll_ne {p a : Nat} (hstat : a ≠ Reg.topPndStat p) (hpkts : a ≠ Reg.topPndPkts p) (hxcnt : a ≠ Reg.topPndXcnt p)
    (ws : List PWord) : ∀ s : State, (pushAll s p ws).reg a = s.reg a := by
  induction ws with
  | nil => intro s; rfl
  | cons w r ih => intro s; exact (ih (poundPush s p w)).trans (reg_setPound_ne s p _ hstat hpkts hxcnt)

/-- `t` differs from `s` by answers that left: open requests that are gone, and words in response pounds. -/
structure Answered (s t : State) : Prop where
  regs : ∀ a, ¬inResponse a → t.reg a = s.reg a
  ch : t.mc.ch = s.mc.ch
  rot : t.mc.rot = s.mc.rot
  nextId : t.mc.nextId = s.mc.nextId
  lastReq : t.mc.lastReq = s.mc.lastReq
  opens : ∀ o ∈ t.mc.opens, o ∈ s.mc.opens
  dram : t.dram = s.dram

namespace Answered

variable {s t : State}

theorem refl (s : State) : Answered s s := ⟨fun _ _ => rfl, rfl, rfl, rfl, rfl, fun _ h => h, rfl⟩

theorem removed (h : Answered s t) (f : DramOpen → Bool) :
    Answered s { t with mc := { t.mc with opens := t.mc.opens.filter f } } :=
  ⟨h.regs, h.ch, h.rot, h.nextId, h.lastReq, fun o ho => h.opens o (List.mem_filter.1 ho).1, h.dram⟩

theorem pushAll (h : Answered s t) {p : Nat} (hp : p % 2 = 1) (ws : List PWord) : Answered s (pushAll t p ws) := by
  have hpound := (PoundOnly.refl (p := p) t).pushAll ws
  have hmc : (Machine.pushAll t p ws).mc = t.mc :=
    show (Machine.pushAll t p ws).unpounded.mc = t.unpounded.mc by rw [hpound.rest]
  have hdram : (Machine.pushAll t p ws).dram = t.dram :=
    show (Machine.pushAll t p ws).unpounded.dram = t.unpounded.dram by rw [hpound.rest]
  refine ⟨fun a ha => ?_, hmc ▸ h.ch, hmc ▸ h.rot, hmc ▸ h.nextId, hmc ▸ h.lastReq, hmc ▸ h.opens, hdram.trans h.dram⟩
  rw [← h.regs a ha]
  apply reg_pushAll_ne <;>
    rintro rfl <;> simp only [inResponse, Reg.topPndStat, Reg.topPndPkts, Reg.topPndXcnt] at ha <;> omega

theorem flushResponses (n : Nat) : ∀ {t : State}, Answered s t → Answered s (flushResponses t n) := by
  induction n with
  | zero => intro t h; exact h
  | succ n ih =>
    intro t h
    unfold Machine.flushResponses
    split
    · exact h
    · next o _ => exact ih ((h.removed _).pushAll (by omega) _)

theorem mcAnswer (s : State) : Answered s (mcAnswer s) := (refl s).flushResponses _

theorem chan (h : Answered s t) (c : Nat) : t.chan c = s.chan c := by rw [State.chan, h.ch]; rfl

end Answered

/-! ### The controllers as a command finds them -/

/-- `t` has the controllers' registers and channels, and the DRAM, of `s`. -/
structure McSame (s t : State) : Prop where
  regs : ∀ a, 0x40080000 ≤ a → t.reg a = s.reg a
  ch : t.mc.ch = s.mc.ch
  dram : t.dram = s.dram

namespace McSame

variable {s t : State} (h : McSame s t)
include h

theorem trans {u : State} (k : McSame t u) : McSame s u :=
  ⟨fun a ha => (k.regs a ha).trans (h.regs a ha), k.ch.trans h.ch, k.dram.trans h.dram⟩

theorem fld {a : Nat} (ha : 0x40080000 ≤ a) (lo len : Nat) : t.fld a lo len = s.fld a lo len := by
  rw [State.fld, State.fld, h.regs a ha]

theorem chan (c : Nat) : t.chan c = s.chan c := by rw [State.chan, h.ch]; rfl

theorem mcState (c : Nat) : mcState t c = mcState s c := h.fld (by simp only [Reg.mcMcStat]; omega) 0 3

theorem mcLive (c : Nat) : mcLive t c = mcLive s c := by
  simp only [Machine.mcLive, Machine.mcRun, h.fld (show 0x40080000 ≤ Reg.mcMcStat c by simp only [Reg.mcMcStat]; omega)]

theorem dramMode : dramMode t = dramMode s := by
  simp only [Machine.dramMode, h.fld (a := Reg.mcAddrMap 0) (by decide)]

theorem dramCap : dramCap t = dramCap s := by
  simp only [Machine.dramCap, h.dramMode, h.mcLive, h.fld (a := Reg.mcCapMb 0) (by decide), h.fld (a := Reg.mcCapMb 1) (by decide)]

theorem dramChan (off : Nat) : dramChan t off = dramChan s off := by
  simp only [Machine.dramChan, h.dramMode, h.fld (a := Reg.mcCapMb 0) (by decide)]

theorem dramRead (off n : Nat) : t.dramRead off n = s.dramRead off n := by rw [State.dramRead, h.dram]; rfl

end McSame

theorem bwCount_mcSame (s : State) (q n : Nat) (write : Bool) : McSame s (bwCount s q n write) := by
  unfold bwCount
  split
  · split <;> exact ⟨fun _ _ => rfl, rfl, rfl⟩
  · exact ⟨fun _ _ => rfl, rfl, rfl⟩

theorem PoundOnly.mcSame {s t : State} {p : Nat} (h : PoundOnly p s t) (hp : p < 54) : McSame s t where
  regs a ha := h.regs a (by simp only [inPoundRegs]; omega)
  ch := by
    have hmc : t.mc = s.mc := show t.unpounded.mc = s.unpounded.mc by rw [h.rest]
    rw [hmc]
  dram := show t.unpounded.dram = s.unpounded.dram by rw [h.rest]

/-! ### Bytes of a line -/

theorem getD_memRead (m : Bank Byte) (n : Nat) : ∀ (a i : Nat), i < n → (memRead m a n).getD i 0 = memGet m (a + i) := by
  induction n with
  | zero => intro a i hi; omega
  | succ n ih =>
    intro a i hi
    cases i with
    | zero => rfl
    | succ i =>
      rw [memRead, List.getD_cons_succ, ih (a + 1) i (by omega)]
      congr 1
      omega

theorem length_maskedLine (old new : List Byte) (mask : Nat) : (maskedLine old new mask).length = 64 := by
  simp [maskedLine]

/-- A masked write takes the bytes of its mask and leaves the others. -/
theorem getD_maskedLine (old new : List Byte) (mask : Nat) {i : Nat} (hi : i < 64) :
    (maskedLine old new mask).getD i 0 = if mask.testBit i then new.getD i 0 else old.getD i 0 := by
  simp [maskedLine, List.getD_eq_getElem?_getD, hi]

theorem getD_sliceB_zero (bs : List Byte) {n i : Nat} (hi : i < n) : (sliceB bs 0 n).getD i 0 = bs.getD i 0 := by
  simp [sliceB, List.getD_eq_getElem?_getD, hi]

end Sys2Proof.Machine
end


section
/-! The islands family: a DRAM request taken by the command collector (O45). -/

namespace Sys2Proof.Machine

/-! ### The order of requests -/

/-- `t` has the collector's rotation, the number of the next request and the time of the last one of `s`. -/
structure OrderKept (s t : State) : Prop where
  rot : t.mc.rot = s.mc.rot
  nextId : t.mc.nextId = s.mc.nextId
  lastReq : t.mc.lastReq = s.mc.lastReq

namespace OrderKept

variable {s t : State}

theorem refl (s : State) : OrderKept s s := ⟨rfl, rfl, rfl⟩

theorem trans {u : State} (h : OrderKept s t) (k : OrderKept t u) : OrderKept s u :=
  ⟨k.rot.trans h.rot, k.nextId.trans h.nextId, k.lastReq.trans h.lastReq⟩

theorem setReg (h : OrderKept s t) (a : Nat) (v : Word) : OrderKept s (t.setReg a v) := ⟨h.rot, h.nextId, h.lastReq⟩

theorem setChan (h : OrderKept s t) (c : Nat) (x : McChan) : OrderKept s (t.setChan c x) := ⟨h.rot, h.nextId, h.lastReq⟩

theorem dramWrite (h : OrderKept s t) (o : Nat) (bs : List Byte) : OrderKept s (t.dramWrite o bs) := ⟨h.rot, h.nextId, h.lastReq⟩

theorem lineDone (h : OrderKept s t) (l : DramLine) (st : Nat) : OrderKept s (lineDone t l st) := ⟨h.rot, h.nextId, h.lastReq⟩

theorem ite {c : Prop} [Decidable c] {u : State} (h : OrderKept s t) (k : OrderKept s u) : OrderKept s (if c then t else u) := by
  split
  · exact h
  · exact k

theorem reviewDrain (h : OrderKept s t) (c : Nat) : OrderKept s (reviewDrain t c) := .ite (h.setChan _ _) (.ite (h.setChan _ _) h)

theorem bwCount (h : OrderKept s t) (q n : Nat) (write : Bool) : OrderKept s (bwCount t q n write) :=
  .ite (.ite ⟨h.rot, h.nextId, h.lastReq⟩ ⟨h.rot, h.nextId, h.lastReq⟩) h

theorem mcRecord (h : OrderKept s t) (c a port kind : Nat) (write : Bool) : OrderKept s (mcRecord t c a port kind write) :=
  .ite (h.setReg _ _) ((h.setReg _ _).setReg _ _)

theorem acceptLine (h : OrderKept s t) (q : Nat) (r : DramReq) (id i : Nat) : OrderKept s (acceptLine t q r id i) := by
  unfold Machine.acceptLine
  extract_lets off ca c line report mask l fresh bs written x y
  refine .ite ?_ (.ite ?_ ?_)
  · exact (OrderKept.ite (h.mcRecord _ _ _ _ _) h).lineDone _ _
  · have hwritten : OrderKept s written := h.dramWrite _ _
    exact .ite (hwritten.setChan _ _) (((hwritten.setChan _ _).reviewDrain _).lineDone _ _)
  · have hinc : ∀ a, OrderKept s (t.inc a) := fun a => h.setReg _ _
    split
    · exact .ite ((hinc _).lineDone _ _) ((hinc _).setChan _ _)
    · split
      · exact h.setChan _ _
      · exact .ite ((hinc _).lineDone _ _) ((hinc _).setChan _ _)

theorem acceptLines (q : Nat) (r : DramReq) (id : Nat) (is : List Nat) : ∀ {t : State}, OrderKept s t →
    OrderKept s (is.foldl (fun t i => Machine.acceptLine t q r id i) t) := by
  induction is with
  | nil => intro t h; exact h
  | cons i r ih => intro t h; exact ih (h.acceptLine _ _ _ _)

end OrderKept

/-! ### A request taken -/

/-- A request that no channel can serve: DRAM_RANGE (R377). -/
def outOfRange (s : State) (r : DramReq) : Bool :=
  decide (dramCap s < r.addr - 0x800000000 + 64 * r.lines) || decide (r.addr < 0x800000000)

/-- The state in which the lines of a request of port `q`, taken at the present time, are handed to their channels. -/
structure RequestTaken (s : State) (q : Nat) (x : State) : Prop where
  same : McSame s x
  rot : x.mc.rot = q
  nextId : x.mc.nextId = s.mc.nextId + 1
  lastReq : x.mc.lastReq = s.dt
  dt : x.dt = s.dt

theorem readPacket_poundOnly {s : State} {k : Nat} {p : List PWord × State} (h : readPacket s k = some p) : PoundOnly k s p.2 := by
  obtain ⟨u, hu, -, hread⟩ := readPacket_eq s k
  rw [hread] at h
  split at h
  · cases h
  · cases h
    exact hu.setPound _

/-- While no channel is in FAIL the command collector hands the lines of a request on, unless it is out of range (R377, R378). -/
theorem commandAccept_of {s : State} {q : Nat} {p : List PWord × State} (hpick : rotPick 8 s.mc.rot (portAcceptable s) = some q)
    (hread : readPacket s (36 + 2 * q) = some p) (h0 : mcState s 0 ≠ 5) (h1 : mcState s 1 ≠ 5) :
    ∃ x, RequestTaken s q x ∧ commandAccept s = mcAnswer (if outOfRange s (decodeReq p.1) = true then x
      else (List.range (decodeReq p.1).lines).foldl (fun t i => acceptLine t q (decodeReq p.1) s.mc.nextId i)
        (bwCount x q (64 * (decodeReq p.1).lines) (decodeReq p.1).write)) := by
  obtain ⟨ws, v⟩ := p
  have hq : q < 8 := rotPick_lt (by decide) hpick
  have hv : PoundOnly (36 + 2 * q) s v := readPacket_poundOnly hread
  have hsame : McSame s v := hv.mcSame (by omega)
  have hmc : v.mc = s.mc := show v.unpounded.mc = s.unpounded.mc by rw [hv.rest]
  have hdt : v.dt = s.dt := show v.unpounded.dt = s.unpounded.dt by rw [hv.rest]
  have hfail : (List.range 2).any (fun c => decide (mcState v c = 5)) = false := by
    rw [← hsame.mcState] at h0 h1
    simp [List.range_succ, h0, h1]
  have hbad : (decide (dramCap v < (decodeReq ws).addr - 0x800000000 + 64 * (decodeReq ws).lines) ||
      decide ((decodeReq ws).addr < 0x800000000)) = outOfRange s (decodeReq ws) := by
    rw [hsame.dramCap, outOfRange]
  unfold commandAccept
  simp only [hpick, hread, hfail, hbad, Bool.not_false, Bool.and_true, hmc]
  refine ⟨_, ?_, rfl⟩
  exact ⟨⟨hsame.regs, rfl, hsame.dram⟩, rfl, rfl, hdt, hdt⟩

/-! ### One line handed to its channel -/

section
variable {x : State} {q id : Nat} {r : DramReq}

/-- The channel of the first line of a request. -/
def lineChan (x : State) (r : DramReq) : Nat := (dramChan x (r.addr - 0x800000000)).1

/-- The channel line of the first line of a request. -/
def lineNo (x : State) (r : DramReq) : Nat := (dramChan x (r.addr - 0x800000000)).2 / 64

/-- The line of a read as its channel holds it. -/
def readLine (x : State) (q id : Nat) (r : DramReq) : DramLine :=
  { id := id, port := q, idx := 0, write := false, rmw := false, report := reportOf q r, line := lineNo x r,
    mask := nbits r.mask 0 64, off := r.addr - 0x800000000, since := x.dt, data := x.dramRead (r.addr - 0x800000000) 64 }

theorem dram_lineDone (s : State) (l : DramLine) (st : Nat) : (lineDone s l st).dram = s.dram := rfl

theorem chan_lineDone (s : State) (l : DramLine) (st c : Nat) : (lineDone s l st).chan c = s.chan c := rfl

theorem add_first_line (n : Nat) : n + 64 * 0 = n := rfl

/-- A write stores the bytes of its mask (R378). -/
theorem dram_acceptLine_write (hfail : mcState x (lineChan x r) ≠ 5) (hw : r.write = true) : (acceptLine x q r id 0).dram =
    memWrite x.dram (r.addr - 0x800000000)
      (maskedLine (x.dramRead (r.addr - 0x800000000) 64) (sliceB r.data 0 64) (nbits r.mask 0 64)) := by
  have hdrain : ∀ (t : State) (c : Nat), (reviewDrain t c).dram = t.dram := fun t c => by
    unfold reviewDrain
    dsimp only
    split
    · rfl
    · split <;> rfl
  unfold acceptLine
  rw [add_first_line, Nat.mul_zero]
  extract_lets off ca c line report mask l fresh bs written y z
  rw [if_neg (show mcState x c ≠ 5 from hfail), if_pos hw]
  split
  · rw [setChan_dram]; rfl
  · rw [dram_lineDone, hdrain, setChan_dram]; rfl

/-- A read of a line that is not queued is held until it is issued (R380). -/
theorem acceptLine_read_pending (hfail : mcState x (lineChan x r) ≠ 5) (hw : r.write = false)
    (hwq : (x.chan (lineChan x r)).wq.find? (fun e => decide (e.line = lineNo x r)) = none)
    (hdrained : (x.chan (lineChan x r)).drained.all (fun d => decide (d.1 ≠ x.dt)) = true) :
    acceptLine x q r id 0 = x.setChan (lineChan x r)
      { x.chan (lineChan x r) with lines := (x.chan (lineChan x r)).lines ++ [readLine x q id r] } := by
  have hnone : (x.chan (lineChan x r)).drained.filter
      (fun d => decide (d.1 = x.dt) && decide (d.2.line = lineNo x r)) = none := by
    cases hd : (x.chan (lineChan x r)).drained with
    | none => rfl
    | some d =>
      rw [hd] at hdrained
      simp only [Option.all_some, decide_eq_true_eq] at hdrained
      simp [Option.filter, hdrained]
  unfold acceptLine
  rw [add_first_line, Nat.mul_zero]
  extract_lets off ca c line report mask l fresh bs written y z
  rw [if_neg (show mcState x c ≠ 5 from hfail), if_neg (by rw [hw]; decide)]
  split
  · next e he => cases he.symm.trans hwq
  · split
    · simp only [l, hw, Bool.false_and]
      rfl
    · next d hd => cases hd.symm.trans hnone

/-- A read of a whole queued line is answered from the queue (R380). -/
theorem acceptLine_read_forwarded (hfail : mcState x (lineChan x r) ≠ 5) (hw : r.write = false) {e : WqEntry}
    (hwq : (x.chan (lineChan x r)).wq.find? (fun e => decide (e.line = lineNo x r)) = some e) (hmask : e.mask = fullMask) :
    acceptLine x q r id 0 = lineDone (x.inc (Reg.mcFwdCnt (lineChan x r))) (readLine x q id r) 0 := by
  unfold acceptLine
  rw [add_first_line, Nat.mul_zero]
  extract_lets off ca c line report mask l fresh bs written y z
  rw [if_neg (show mcState x c ≠ 5 from hfail), if_neg (by rw [hw]; decide)]
  split
  · next f hf =>
    cases hf.symm.trans hwq
    rw [if_pos hmask]
    simp only [l, hw, Bool.false_and]
    rfl
  · next hf => cases hf.symm.trans hwq

/-- A read of a line that is queued in part waits for the entry to drain (R380). -/
theorem acceptLine_read_waiting (hfail : mcState x (lineChan x r) ≠ 5) (hw : r.write = false) {e : WqEntry}
    (hwq : (x.chan (lineChan x r)).wq.find? (fun e => decide (e.line = lineNo x r)) = some e) (hmask : e.mask ≠ fullMask) :
    acceptLine x q r id 0 = (x.inc (Reg.mcRawWaitCnt (lineChan x r))).setChan (lineChan x r)
      { x.chan (lineChan x r) with
        wq := (x.chan (lineChan x r)).wq.map (fun f => if f.line = lineNo x r then { f with rush := true } else f)
        lines := (x.chan (lineChan x r)).lines ++ [readLine x q id r] } := by
  unfold acceptLine
  rw [add_first_line, Nat.mul_zero]
  extract_lets off ca c line report mask l fresh bs written y z
  rw [if_neg (show mcState x c ≠ 5 from hfail), if_neg (by rw [hw]; decide)]
  split
  · next f hf =>
    cases hf.symm.trans hwq
    rw [if_neg hmask]
    simp only [z, l, hw, Bool.false_and]
    rfl
  · next hf => cases hf.symm.trans hwq

end

end Sys2Proof.Machine
end


section
/-! The islands family: the request that DRAM_REQUEST_ACCEPT takes, its order and its range (O45). -/

namespace Sys2Proof.Machine

theorem readPacket_congr {s t : State} {k : Nat} {p : List PWord × State} (hpound : t.pound k = s.pound k)
    (h : readPacket s k = some p) : ∃ v, readPacket t k = some (p.1, v) := by
  obtain ⟨u, -, hu, hread⟩ := readPacket_eq s k
  obtain ⟨v, -, hv, hread'⟩ := readPacket_eq t k
  rw [hpound, ← hu] at hv
  rw [hread] at h
  rw [hread', hv]
  cases hsplit : splitPacket (u.pound k).taken with
  | none => rw [hsplit] at h; cases h
  | some w => rw [hsplit] at h; cases h; exact ⟨_, rfl⟩

theorem inc_regN_same (s : State) (a : Nat) : (s.inc a).regN a = min (s.regN a + 1) 0xFFFFFFFF := by
  rw [State.inc, State.addRc, regN_setNat_same]
  exact Nat.mod_eq_of_lt (by omega)

theorem finish_chan (s t : State) (c : Nat) : (finish s t).chan c = t.chan c := by rw [State.chan, finish_mc]; rfl

/-! ### DRAM_REQUEST_ACCEPT -/

section
variable {s : State} {time q : Nat} {p : List PWord × State} (hpick : rotPick 8 s.mc.rot (portAcceptable s) = some q)
  (hread : readPacket s (36 + 2 * q) = some p) (h0 : mcState s 0 ≠ 5) (h1 : mcState s 1 ≠ 5)
include hpick hread h0 h1

/-- What the command makes of the request, before the answers that it lets go. -/
theorem exec_dramRequestAccept : ∃ x, RequestTaken (s.at time) q x ∧ exec (.dramRequestAccept time) s =
    done s (mcAnswer (if outOfRange s (decodeReq p.1) = true then x
      else (List.range (decodeReq p.1).lines).foldl (fun t i => acceptLine t q (decodeReq p.1) s.mc.nextId i)
        (bwCount x q (64 * (decodeReq p.1).lines) (decodeReq p.1).write))) := by
  obtain ⟨v, hread'⟩ := readPacket_congr (s := s) (t := s.at time) rfl hread
  obtain ⟨x, hx, heffect⟩ := commandAccept_of (s := s.at time) hpick hread' h0 h1
  exact ⟨x, hx, congrArg (done s) heffect⟩

/-- The order of requests moves on (R34, R378). -/
theorem runs_requestAccept_order : Runs (.dramRequestAccept time) s fun t =>
    t.mc.rot = q ∧ t.mc.nextId = s.mc.nextId + 1 ∧ t.mc.lastReq = (s.at time).dt := by
  obtain ⟨x, hx, hexec⟩ := exec_dramRequestAccept (time := time) hpick hread h0 h1
  refine runs_of_done hexec ?_
  rw [finish_mc]
  generalize hw : (if outOfRange s (decodeReq p.1) = true then x
      else (List.range (decodeReq p.1).lines).foldl (fun t i => acceptLine t q (decodeReq p.1) s.mc.nextId i)
        (bwCount x q (64 * (decodeReq p.1).lines) (decodeReq p.1).write)) = w
  have horder : OrderKept x w := hw ▸ .ite (.refl x) (((OrderKept.refl x).bwCount _ _ _).acceptLines _ _ _ _)
  have hanswer := Answered.mcAnswer w
  exact ⟨hanswer.rot.trans (horder.rot.trans hx.rot), hanswer.nextId.trans (horder.nextId.trans hx.nextId),
    hanswer.lastReq.trans (horder.lastReq.trans hx.lastReq)⟩

/-- A request out of range touches no channel and no byte (R377). -/
theorem runs_requestAccept_outOfRange (hout : outOfRange s (decodeReq p.1) = true) :
    Runs (.dramRequestAccept time) s fun t => t.mc.ch = s.mc.ch ∧ t.dram = s.dram := by
  obtain ⟨x, hx, hexec⟩ := exec_dramRequestAccept (time := time) hpick hread h0 h1
  rw [if_pos hout] at hexec
  have hanswer := Answered.mcAnswer x
  refine runs_of_done hexec ⟨?_, ?_⟩
  · rw [finish_mc, hanswer.ch, hx.same.ch]; rfl
  · rw [finish_dram, hanswer.dram, hx.same.dram]; rfl

/-- A request of one line within the capacity goes to its channel. -/
theorem exec_dramRequestAccept_line (hin : outOfRange s (decodeReq p.1) = false) (hone : (decodeReq p.1).lines = 1) :
    ∃ y, McSame s y ∧ y.dt = (s.at time).dt ∧
      exec (.dramRequestAccept time) s = done s (mcAnswer (acceptLine y q (decodeReq p.1) s.mc.nextId 0)) := by
  obtain ⟨x, hx, hexec⟩ := exec_dramRequestAccept (time := time) hpick hread h0 h1
  have hcount := bwCount_mcSame x q (64 * (decodeReq p.1).lines) (decodeReq p.1).write
  have hdt : (bwCount x q (64 * (decodeReq p.1).lines) (decodeReq p.1).write).dt = x.dt := by
    unfold bwCount
    split
    · split <;> rfl
    · rfl
  have hsame : McSame s x := ⟨hx.same.regs, hx.same.ch, hx.same.dram⟩
  refine ⟨_, hsame.trans hcount, hdt.trans hx.dt, ?_⟩
  rw [hexec, if_neg (by rw [hin]; decide), hone]
  rfl

end

end Sys2Proof.Machine
end


section
/-! The islands family: what DRAM_REQUEST_ACCEPT does with a write and with a read of one line (O45). -/

namespace Sys2Proof.Machine

/-! ### A step of a controller whose answers leave -/

theorem finish_mcAnswer_chan (s t : State) (c : Nat) : (finish s (mcAnswer t)).chan c = t.chan c := by
  rw [finish_chan, (Answered.mcAnswer t).chan]

theorem finish_mcAnswer_dram (s t : State) : (finish s (mcAnswer t)).dram = t.dram := by
  rw [finish_dram, (Answered.mcAnswer t).dram]

theorem finish_mcAnswer_reg (s t : State) {a : Nat} (hnote : noteReg a = false) (hresp : ¬inResponse a) :
    (finish s (mcAnswer t)).reg a = t.reg a := by
  rw [finish_reg _ _ _ hnote, (Answered.mcAnswer t).regs a hresp]

/-- The registers of a controller that its requests move are none of a pound, of the event map or of the towpath. -/
theorem quiet_mcReg {c : Nat} (hc : c < 2) : ∀ a ∈ [Reg.mcFwdCnt c, Reg.mcRawWaitCnt c, Reg.mcCeCnt c, Reg.mcUeCnt c,
    Reg.mcCeAddr c, Reg.mcCeInfo c, Reg.mcIrqRaw c], noteReg a = false ∧ ¬inResponse a := by
  have hall : ∀ c < 2, ∀ a ∈ [Reg.mcFwdCnt c, Reg.mcRawWaitCnt c, Reg.mcCeCnt c, Reg.mcUeCnt c,
    Reg.mcCeAddr c, Reg.mcCeInfo c, Reg.mcIrqRaw c], noteReg a = false ∧ ¬inResponse a := by decide
  exact hall c hc

theorem regN_of_reg {s t : State} {a : Nat} (h : t.reg a = s.reg a) : t.regN a = s.regN a := congrArg BitVec.toNat h

theorem reg_setChan_ne (s : State) (c : Nat) (x : McChan) {a : Nat} (h : a ≠ Reg.mcMcStat c) : (s.setChan c x).reg a = s.reg a :=
  reg_setFlds_ne _ _ _ h

/-! ### A request of one line -/

section
variable {s : State} {time q : Nat} {p : List PWord × State} (hpick : rotPick 8 s.mc.rot (portAcceptable s) = some q)
  (hread : readPacket s (36 + 2 * q) = some p) (h0 : mcState s 0 ≠ 5) (h1 : mcState s 1 ≠ 5)
  (hin : outOfRange s (decodeReq p.1) = false) (hone : (decodeReq p.1).lines = 1)
include hpick hread h0 h1 hin hone

/-- A request of one line goes to a channel that is not in FAIL, in a state that has the present time. -/
theorem requestLine_handed : ∃ y, McSame s y ∧ y.dt = (s.at time).dt ∧ mcState y (lineChan y (decodeReq p.1)) ≠ 5 ∧
    lineChan y (decodeReq p.1) = lineChan s (decodeReq p.1) ∧ lineNo y (decodeReq p.1) = lineNo s (decodeReq p.1) ∧
    exec (.dramRequestAccept time) s = done s (mcAnswer (acceptLine y q (decodeReq p.1) s.mc.nextId 0)) := by
  obtain ⟨y, hsame, hdt, hexec⟩ := exec_dramRequestAccept_line (time := time) hpick hread h0 h1 hin hone
  have hchan : lineChan y (decodeReq p.1) = lineChan s (decodeReq p.1) := congrArg Prod.fst (hsame.dramChan _)
  have hline : lineNo y (decodeReq p.1) = lineNo s (decodeReq p.1) := by rw [lineNo, hsame.dramChan]; rfl
  refine ⟨y, hsame, hdt, ?_, hchan, hline, hexec⟩
  rw [hsame.mcState]
  have hlt : lineChan y (decodeReq p.1) < 2 := dramChan_lt _ _
  obtain hc | hc : lineChan y (decodeReq p.1) = 0 ∨ lineChan y (decodeReq p.1) = 1 := by omega
  · rw [hc]; exact h0
  · rw [hc]; exact h1

/-- A write stores the bytes of its mask and no other (R378). -/
theorem runs_requestAccept_write (hw : (decodeReq p.1).write = true) : Runs (.dramRequestAccept time) s fun t =>
    (∀ i, i < 64 → memGet t.dram ((decodeReq p.1).addr - 0x800000000 + i) =
      if (decodeReq p.1).mask.testBit i then (decodeReq p.1).data.getD i 0
      else memGet s.dram ((decodeReq p.1).addr - 0x800000000 + i)) ∧
    ∀ o, o < (decodeReq p.1).addr - 0x800000000 ∨ (decodeReq p.1).addr - 0x800000000 + 64 ≤ o →
      memGet t.dram o = memGet s.dram o := by
  obtain ⟨y, hsame, -, hfail, -, -, hexec⟩ := requestLine_handed (time := time) hpick hread h0 h1 hin hone
  refine runs_of_done hexec ?_
  rw [finish_mcAnswer_dram, dram_acceptLine_write hfail hw, hsame.dram, hsame.dramRead]
  refine ⟨fun i hi => ?_, fun o ho => memGet_memWrite_out _ _ _ _ (by rw [length_maskedLine]; exact ho)⟩
  rw [memGet_memWrite, length_maskedLine, if_pos (by omega), Nat.add_sub_cancel_left, getD_maskedLine _ _ _ hi, testBit_nbits,
    decide_eq_true hi, Bool.true_and, Nat.zero_add, getD_sliceB_zero _ hi, State.dramRead, getD_memRead _ _ _ _ hi]

/-- A read of a line that no write is queued for is held with the bytes stored now (R378). -/
theorem runs_requestAccept_pending (hw : (decodeReq p.1).write = false)
    (hwq : (s.chan (lineChan s (decodeReq p.1))).wq.find? (fun e => decide (e.line = lineNo s (decodeReq p.1))) = none)
    (hdrained : (s.chan (lineChan s (decodeReq p.1))).drained.all (fun d => decide (d.1 ≠ (s.at time).dt)) = true) :
    Runs (.dramRequestAccept time) s fun t =>
      (t.chan (lineChan s (decodeReq p.1))).lines.length = (s.chan (lineChan s (decodeReq p.1))).lines.length + 1 ∧
      (t.chan (lineChan s (decodeReq p.1))).lines.getLast?.map (fun l => (l.port, l.write, l.line, l.data)) =
        some (q, false, lineNo s (decodeReq p.1), s.dramRead ((decodeReq p.1).addr - 0x800000000) 64) := by
  obtain ⟨y, hsame, hdt, hfail, hchan, hline, hexec⟩ := requestLine_handed (time := time) hpick hread h0 h1 hin hone
  have haccept := acceptLine_read_pending (x := y) (q := q) (id := s.mc.nextId) hfail hw
    (by rw [hchan, hline, hsame.chan]; exact hwq) (by rw [hchan, hsame.chan, hdt]; exact hdrained)
  refine runs_of_done hexec ?_
  rw [finish_mcAnswer_chan, haccept, hchan, chan_setChan_same, hsame.chan]
  refine ⟨List.length_append, ?_⟩
  rw [List.getLast?_append, List.getLast?_singleton, Option.some_or, Option.map_some, readLine, hline, hsame.dramRead]

/-- A read of a line that is queued whole is forwarded (R380). -/
theorem runs_requestAccept_forwarded (hw : (decodeReq p.1).write = false) {e : WqEntry}
    (hwq : (s.chan (lineChan s (decodeReq p.1))).wq.find? (fun e => decide (e.line = lineNo s (decodeReq p.1))) = some e)
    (hmask : e.mask = fullMask) : Runs (.dramRequestAccept time) s fun t =>
      t.regN (Reg.mcFwdCnt (lineChan s (decodeReq p.1))) =
        min (s.regN (Reg.mcFwdCnt (lineChan s (decodeReq p.1))) + 1) 0xFFFFFFFF ∧
      (t.chan (lineChan s (decodeReq p.1))).lines = (s.chan (lineChan s (decodeReq p.1))).lines := by
  obtain ⟨y, hsame, -, hfail, hchan, hline, hexec⟩ := requestLine_handed (time := time) hpick hread h0 h1 hin hone
  have haccept := acceptLine_read_forwarded (x := y) (q := q) (id := s.mc.nextId) hfail hw (e := e)
    (by rw [hchan, hline, hsame.chan]; exact hwq) hmask
  rw [hchan] at haccept
  have hc : lineChan s (decodeReq p.1) < 2 := dramChan_lt _ _
  obtain ⟨hnote, hresp⟩ := quiet_mcReg hc (Reg.mcFwdCnt (lineChan s (decodeReq p.1))) (by simp)
  refine runs_of_done hexec ⟨?_, ?_⟩
  · rw [regN_of_reg (finish_mcAnswer_reg _ _ hnote hresp), haccept]
    exact (inc_regN_same y _).trans
      (by rw [regN_of_reg (hsame.regs _ (by simp only [Reg.mcFwdCnt]; omega))])
  · rw [finish_mcAnswer_chan, haccept, chan_lineDone, ← hsame.chan]
    rfl

/-- A read of a line that is queued in part waits for its entry (R380). -/
theorem runs_requestAccept_waiting (hw : (decodeReq p.1).write = false) {e : WqEntry}
    (hwq : (s.chan (lineChan s (decodeReq p.1))).wq.find? (fun e => decide (e.line = lineNo s (decodeReq p.1))) = some e)
    (hmask : e.mask ≠ fullMask) : Runs (.dramRequestAccept time) s fun t =>
      t.regN (Reg.mcRawWaitCnt (lineChan s (decodeReq p.1))) =
        min (s.regN (Reg.mcRawWaitCnt (lineChan s (decodeReq p.1))) + 1) 0xFFFFFFFF ∧
      (t.chan (lineChan s (decodeReq p.1))).lines.length = (s.chan (lineChan s (decodeReq p.1))).lines.length + 1 := by
  obtain ⟨y, hsame, -, hfail, hchan, hline, hexec⟩ := requestLine_handed (time := time) hpick hread h0 h1 hin hone
  have haccept := acceptLine_read_waiting (x := y) (q := q) (id := s.mc.nextId) hfail hw (e := e)
    (by rw [hchan, hline, hsame.chan]; exact hwq) hmask
  rw [hchan] at haccept
  have hc : lineChan s (decodeReq p.1) < 2 := dramChan_lt _ _
  obtain ⟨hnote, hresp⟩ := quiet_mcReg hc (Reg.mcRawWaitCnt (lineChan s (decodeReq p.1))) (by simp)
  refine runs_of_done hexec ⟨?_, ?_⟩
  · rw [regN_of_reg (finish_mcAnswer_reg _ _ hnote hresp), haccept, regN_of_reg (reg_setChan_ne _ _ _
      (by simp only [Reg.mcRawWaitCnt, Reg.mcMcStat]; omega)), inc_regN_same,
      regN_of_reg (hsame.regs _ (by simp only [Reg.mcRawWaitCnt]; omega))]
  · rw [finish_mcAnswer_chan, haccept, chan_setChan_same, ← hsame.chan]
    exact List.length_append

end

end Sys2Proof.Machine
end


section
/-! The islands family: WRITE_QUEUE_DRAIN and DRAM_ISSUE (O45). -/

namespace Sys2Proof.Machine

theorem finish_setChan_same (s t : State) (c : Nat) (x : McChan) : (finish s (t.setChan c x)).chan c = x := by
  rw [finish_chan, chan_setChan_same]

/-! ### WRITE_QUEUE_DRAIN -/

/-- What a drained entry leaves in the queue: the bytes that a write of the drain's own cycle brought (R379). -/
def drainRest (dt : Nat) (e : WqEntry) : List WqEntry :=
  if e.lateAt = some dt ∧ e.early ≠ 0 then [{ e with mask := e.late, early := 0, rush := false }] else []

theorem wq_wqDrain (g : Word) (x : McChan) (dt : Nat) (e : WqEntry) : (wqDrain g x dt e).wq = x.wq.erase e ++ drainRest dt e := by
  have hrest : ∀ r : List WqEntry, (if (decide (e.lateAt = some dt) && decide (e.early ≠ 0)) = true then r else []) =
      if e.lateAt = some dt ∧ e.early ≠ 0 then r else [] := fun r => by
    simp only [Bool.and_eq_true, decide_eq_true_eq]
  exact congrArg (x.wq.erase e ++ ·) (hrest _)

theorem wq_reviewDrain (s : State) (c : Nat) : ((reviewDrain s c).chan c).wq = (s.chan c).wq := by
  unfold reviewDrain
  extract_lets x m
  split
  · rw [chan_setChan_same]
  · split
    · rw [chan_setChan_same]
    · rfl

/-- The entry that a drain takes leaves the queue (R380, R381). -/
theorem runs_writeQueueDrain {s : State} {time : Nat} {c : Fin 2} {e : WqEntry} (hrun : mcRun s c = true)
    (halert : (s.chan c).alertAt = none)
    (hmay : (!(s.chan c).lines.any (fun l => !l.write || l.rmw) || ((s.chan c).wq.find? (·.rush)).isSome) = true)
    (hpick : ((s.chan c).wq.find? (·.rush)).or (s.chan c).wq.head? = some e) :
    Runs (.writeQueueDrain time c) s fun t => (t.chan c).wq = (s.chan c).wq.erase e ++ drainRest (s.at time).dt e := by
  have hmay' : (mcRun (s.at time) c && ((s.at time).chan c).alertAt.isNone && (((s.at time).chan c).drainMode ||
      !((s.at time).chan c).lines.any (fun l => !l.write || l.rmw) || (((s.at time).chan c).wq.find? (·.rush)).isSome)) = true := by
    rw [show mcRun (s.at time) c = mcRun s c from rfl, show (s.at time).chan c = s.chan c from rfl, hrun, halert, Bool.or_assoc,
      hmay, Bool.or_true]
    rfl
  have hexec : ∃ l, exec (.writeQueueDrain time c) s = done s (reviewDrain ((s.at time).setChan c
      (retryPut (wqDrain ((s.at time).reg (Reg.mcGeom c)) (s.chan c) (s.at time).dt e) l)) c) := by
    rw [exec, execWriteQueueDrain]
    rw [if_pos hmay']
    have hpick' : (((s.at time).chan c).wq.find? (·.rush)).or ((s.at time).chan c).wq.head? = some e := hpick
    generalize ((s.at time).chan c).wq.find? (·.rush) = rush at hpick'
    cases rush with
    | none =>
      rw [Option.none_or] at hpick'
      simp only [hpick']
      exact ⟨_, rfl⟩
    | some f => cases hpick'; exact ⟨_, rfl⟩
  obtain ⟨l, hexec⟩ := hexec
  refine runs_of_done hexec ?_
  rw [finish_chan, wq_reviewDrain, chan_setChan_same, ← wq_wqDrain ((s.at time).reg (Reg.mcGeom c))]
  rfl

/-! ### DRAM_ISSUE -/

theorem foldl_min_id (ls : List DramLine) : ∀ a : DramLine,
    ls.foldl (fun m l => if l.id < m.id then l else m) a ∈ a :: ls ∧
    ∀ l ∈ a :: ls, (ls.foldl (fun m l => if l.id < m.id then l else m) a).id ≤ l.id := by
  induction ls with
  | nil => intro a; exact ⟨List.mem_singleton_self a, fun l hl => (List.mem_singleton.1 hl ▸ le_rfl)⟩
  | cons b r ih =>
    intro a
    obtain ⟨hmem, hle⟩ := ih (if b.id < a.id then b else a)
    rw [List.foldl_cons]
    generalize r.foldl (fun m l => if l.id < m.id then l else m) (if b.id < a.id then b else a) = m at hmem hle
    have hfirst : m.id ≤ (if b.id < a.id then b else a).id := hle _ List.mem_cons_self
    refine ⟨?_, fun l hl => ?_⟩
    · rcases List.mem_cons.1 hmem with hm | hm
      · rw [hm]; split <;> simp
      · exact List.mem_cons_of_mem _ (List.mem_cons_of_mem _ hm)
    · rcases List.mem_cons.1 hl with rfl | hl
      · split at hfirst <;> omega
      · rcases List.mem_cons.1 hl with rfl | hl
        · split at hfirst <;> omega
        · exact hle l (List.mem_cons_of_mem _ hl)

/-- Where a line has waited AGE_NS, the oldest such line is issued (R383). -/
theorem issuePick_aged {s : State} {c : Nat} {l : DramLine} (h : issuePick s c = some l) {m : DramLine}
    (hm : m ∈ (List.range 8).filterMap (portHead (s.chan c))) (haged : lineAged s c m = true) :
    lineAged s c l = true ∧ l.id ≤ m.id := by
  have hmem : m ∈ ((List.range 8).filterMap (portHead (s.chan c))).filter (lineAged s c) := List.mem_filter.2 ⟨hm, haged⟩
  unfold issuePick at h
  dsimp only at h
  cases hl : ((List.range 8).filterMap (portHead (s.chan c))).filter (lineAged s c) with
  | nil => rw [hl] at hmem; cases hmem
  | cons a r =>
    rw [hl] at h
    cases h
    obtain ⟨hin, hle⟩ := foldl_min_id r a
    rw [← hl] at hin hle
    exact ⟨(List.mem_filter.1 hin).2, hle m hmem⟩

/-- The channel after line `l` is issued at DT `dt`; `owed` are the refreshes still owed. -/
def issued (g : Word) (x : McChan) (l : DramLine) (dt : Nat) (owed : Nat × Nat) : McChan :=
  let m := { l with issued := dt }
  let x := { x with lines := x.lines.erase l, issueRot := l.port, owed := owed }
  let x := if l.write && !l.rmw then { x with reportW := x.reportW ++ [m] } else { x with flight := x.flight ++ [m] }
  retryPut (rowOpen g x l.line) m

section
variable (g : Word) (x : McChan) (l : DramLine) (dt : Nat) (owed : Nat × Nat)

theorem lines_issued : (issued g x l dt owed).lines = x.lines.erase l := by
  unfold issued
  dsimp only
  split <;> rfl

theorem issueRot_issued : (issued g x l dt owed).issueRot = l.port := by
  unfold issued
  dsimp only
  split <;> rfl

variable {l}

theorem flight_issued (h : l.write = false ∨ l.rmw = true) : (issued g x l dt owed).flight = x.flight ++ [{ l with issued := dt }] := by
  unfold issued
  dsimp only
  rw [if_neg (by rcases h with h | h <;> simp [h])]
  rfl

theorem reportW_issued (hw : l.write = true) (hr : l.rmw = false) :
    (issued g x l dt owed).reportW = x.reportW ++ [{ l with issued := dt }] := by
  unfold issued
  dsimp only
  rw [if_pos (by simp [hw, hr])]
  rfl

end

/-- The line that R383 chooses is issued. -/
theorem exec_dramIssue {s : State} {time : Nat} {c : Fin 2} {l : DramLine} (hrun : mcRun s c = true)
    (halert : (s.chan c).alertAt = none) (hpick : issuePick (s.at time) c = some l) (hdrain : (s.chan c).drainMode = false) :
    ∃ owed, exec (.dramIssue time c) s =
      done s ((s.at time).setChan c (issued ((s.at time).reg (Reg.mcGeom c)) (s.chan c) l (s.at time).dt owed)) := by
  have hgo : (mcRun (s.at time) c && ((s.at time).chan c).alertAt.isNone && !((s.at time).chan c).drainMode) = true := by
    rw [show mcRun (s.at time) c = mcRun s c from rfl, show (s.at time).chan c = s.chan c from rfl, hrun, halert, hdrain]
    rfl
  rw [exec, execDramIssue]
  simp only [hgo, if_true, hpick]
  exact ⟨_, rfl⟩

end Sys2Proof.Machine
end


section
/-! The islands family: DRAM_READ_RETURN and REPORT_WRITE_RESPONSE, and the statement about DRAM requests (O45). -/

namespace Sys2Proof.Machine

theorem RegsOnly.chan {P : Nat → Prop} {s t : State} (h : RegsOnly P s t) (c : Nat) : t.chan c = s.chan c :=
  show t.unregistered.chan c = s.unregistered.chan c by rw [h.rest]

theorem bit_of_reg {s t : State} {a i : Nat} (h : t.reg a = s.reg a) : t.bit a i = s.bit a i := by rw [State.bit, State.bit, h]

/-! ### Errors of a read -/

theorem chan_unwrite (s : State) (c : Nat) (l : DramLine) (j : Nat) : (unwrite s c l).chan j = s.chan j := by
  unfold unwrite
  dsimp only
  split <;> rfl

theorem reg_unwrite (s : State) (c : Nat) (l : DramLine) (a : Nat) : (unwrite s c l).reg a = s.reg a := by
  unfold unwrite
  dsimp only
  split <;> rfl

theorem chan_mcCe (s : State) (c line b : Nat) (scrub : Bool) (j : Nat) : (mcCe s c line b scrub).chan j = s.chan j := rfl

section
variable (s : State) {c : Nat} (hc : c < 2) (line port : Nat) (w : Bool)

/-- A correctable error is counted, with its address and its bit (R387). -/
theorem regs_mcCe {b : Nat} (hb : b < 40) : (mcCe s c line b false).regN (Reg.mcCeCnt c) = min (s.regN (Reg.mcCeCnt c) + 1) 0xFFFFFFFF ∧
    (mcCe s c line b false).bit (Reg.mcIrqRaw c) 0 = true ∧ (mcCe s c line b false).regN (Reg.mcCeAddr c) = line * 64 % 2 ^ 32 ∧
    (mcCe s c line b false).regN (Reg.mcCeInfo c) = b := by
  unfold mcCe
  refine ⟨?_, ?_, ?_, ?_⟩
  · rw [regN_of_reg (reg_setNat_ne _ _ _ (by simp only [Reg.mcCeCnt, Reg.mcCeInfo]; omega)),
      regN_of_reg (reg_setNat_ne _ _ _ (by simp only [Reg.mcCeCnt, Reg.mcCeAddr]; omega)),
      regN_of_reg (reg_raise_ne _ _ _ (by simp only [Reg.mcCeCnt, Reg.mcIrqRaw]; omega)), inc_regN_same]
  · rw [bit_of_reg (reg_setNat_ne _ _ _ (by simp only [Reg.mcIrqRaw, Reg.mcCeInfo]; omega)),
      bit_of_reg (reg_setNat_ne _ _ _ (by simp only [Reg.mcIrqRaw, Reg.mcCeAddr]; omega)), bit_raise_same _ _ _ (by decide)]
  · rw [regN_of_reg (reg_setNat_ne _ _ _ (by simp only [Reg.mcCeAddr, Reg.mcCeInfo]; omega)), regN_setNat_same, Nat.mod_mod]
  · rw [regN_setNat_same]
    exact Nat.mod_eq_of_lt (show b + 256 * 0 < 2 ^ 32 by omega)

/-- The state in which an uncorrectable error has been counted, before its line is marked. -/
theorem mcUe_counted : RegsOnly inFlt ((s.inc (Reg.mcUeCnt c)).raise (Reg.mcIrqRaw c) 1)
    (raiseFault ((s.inc (Reg.mcUeCnt c)).raise (Reg.mcIrqRaw c) 1) 4 c .none 0) :=
  (RegsOnly.refl _).raiseFault (by decide) _ _ _

theorem chan_mcUe : (mcUe s c line port w).chan c =
    { s.chan c with bad := if (s.chan c).bad.contains line then (s.chan c).bad else (s.chan c).bad ++ [line] } := by
  unfold mcUe
  dsimp only
  rw [(mcRecord_regsOnly _ _ _ _ _ _).chan, chan_setChan_same, (mcUe_counted s).chan]
  rfl

theorem contains_bad_mcUe : ((mcUe s c line port w).chan c).bad.contains line = true := by
  rw [chan_mcUe]
  dsimp only
  split
  · assumption
  · simp

/-- A register of a controller that an uncorrectable error neither counts in nor records in. -/
theorem reg_mcUe {a : Nat} (ha : 0x40080000 ≤ a) (hstat : a ≠ Reg.mcMcStat c) (herr : ¬inErr c a) :
    (mcUe s c line port w).reg a = ((s.inc (Reg.mcUeCnt c)).raise (Reg.mcIrqRaw c) 1).reg a := by
  unfold mcUe
  dsimp only
  rw [(mcRecord_regsOnly _ _ _ _ _ _).regs _ herr, reg_setChan_ne _ _ _ hstat, (mcUe_counted s).regs _ (by simp only [inFlt]; omega)]

include hc in
/-- An uncorrectable error is counted and raised (R388). -/
theorem regs_mcUe : (mcUe s c line port w).regN (Reg.mcUeCnt c) = min (s.regN (Reg.mcUeCnt c) + 1) 0xFFFFFFFF ∧
    (mcUe s c line port w).bit (Reg.mcIrqRaw c) 1 = true := by
  constructor
  · rw [regN_of_reg (reg_mcUe _ _ _ _ (by simp only [Reg.mcUeCnt]; omega) (by simp only [Reg.mcUeCnt, Reg.mcMcStat]; omega)
      (by simp only [inErr, Reg.mcUeCnt, Reg.mcErrAddr, Reg.mcErrInfo]; omega)),
      regN_of_reg (reg_raise_ne _ _ _ (by simp only [Reg.mcUeCnt, Reg.mcIrqRaw]; omega)), inc_regN_same]
  · rw [bit_of_reg (reg_mcUe _ _ _ _ (by simp only [Reg.mcIrqRaw]; omega) (by simp only [Reg.mcIrqRaw, Reg.mcMcStat]; omega)
      (by simp only [inErr, Reg.mcIrqRaw, Reg.mcErrAddr, Reg.mcErrInfo]; omega)), bit_raise_same _ _ _ (by decide)]

end

/-! ### DRAM_READ_RETURN -/

/-- A line that a read returned without an uncorrectable error: the read of a report-class write waits for its write, any other line
is done (R386, R392). -/
def lineKept (t : State) (c : Nat) (l : DramLine) : State :=
  if l.report && l.write then t.setChan c { t.chan c with reportW := (t.chan c).reportW ++ [l] } else lineDone t l 0

/-- A line that came back with the error `e` (R386 to R388). -/
def lineBack (t : State) (c : Nat) (l : DramLine) : Ecc → State
  | .ok => lineKept t c l
  | .ce b => lineKept (mcCe t c l.line b false) c l
  | .ue => lineDone (mcUe (if l.write then unwrite t c l else t) c l.line l.port l.write) l 1

theorem exec_dramReadReturn {s : State} {c : Fin 2} {l : DramLine} {r : List DramLine} (time : Nat) (e : Ecc)
    (hflight : (s.chan c).flight = l :: r) : exec (.dramReadReturn time c e) s =
      done s (mcAnswer (lineBack ((s.at time).setChan c { s.chan c with flight := r }) c l
        (if lineBad (s.chan c) l.line then .ue else e))) := by
  have hflight' : ((s.at time).chan c).flight = l :: r := hflight
  rw [exec, execDramReadReturn]
  simp only [hflight']
  rw [show (s.at time).chan c = s.chan c from rfl]
  cases (if lineBad (s.chan c) l.line then Ecc.ue else e) <;> rfl

theorem reg_lineKept (t : State) {c : Nat} (l : DramLine) {a : Nat} (ha : a ≠ Reg.mcMcStat c) : (lineKept t c l).reg a = t.reg a := by
  unfold lineKept
  split
  · exact reg_setChan_ne _ _ _ ha
  · rfl

theorem chan_lineKept (t : State) (c : Nat) (l : DramLine) :
    ((lineKept t c l).chan c).flight = (t.chan c).flight ∧ ((lineKept t c l).chan c).bad = (t.chan c).bad := by
  unfold lineKept
  split
  · rw [chan_setChan_same]; exact ⟨rfl, rfl⟩
  · exact ⟨rfl, rfl⟩

theorem chan_unwritten (t : State) (c : Nat) (l : DramLine) : (if l.write then unwrite t c l else t).chan c = t.chan c := by
  split
  · exact chan_unwrite _ _ _ _
  · rfl

theorem reg_unwritten (t : State) (c : Nat) (l : DramLine) (a : Nat) : (if l.write then unwrite t c l else t).reg a = t.reg a := by
  split
  · exact reg_unwrite _ _ _ _
  · rfl

theorem flight_lineBack (t : State) (c : Nat) (l : DramLine) (e : Ecc) : ((lineBack t c l e).chan c).flight = (t.chan c).flight := by
  cases e with
  | ok => exact (chan_lineKept _ _ _).1
  | ce b => rw [lineBack, (chan_lineKept _ _ _).1, chan_mcCe]
  | ue => rw [lineBack, chan_lineDone, chan_mcUe, chan_unwritten]

section
variable {s : State} {c : Fin 2} {l : DramLine} {r : List DramLine} (time : Nat) (hflight : (s.chan c).flight = l :: r)
include hflight

/-- The oldest line in flight returns (R386). -/
theorem runs_readReturn_flight (e : Ecc) : Runs (.dramReadReturn time c e) s fun t => (t.chan c).flight = r := by
  refine runs_of_done (exec_dramReadReturn time e hflight) ?_
  rw [finish_mcAnswer_chan, flight_lineBack, chan_setChan_same]

/-- A line without an error counts nothing. -/
theorem runs_readReturn_ok (hgood : lineBad (s.chan c) l.line = false) : Runs (.dramReadReturn time c .ok) s fun t =>
    t.reg (Reg.mcCeCnt c) = s.reg (Reg.mcCeCnt c) ∧ t.reg (Reg.mcUeCnt c) = s.reg (Reg.mcUeCnt c) ∧
    (t.chan c).bad = (s.chan c).bad := by
  have hexec := exec_dramReadReturn time .ok hflight
  rw [if_neg (by rw [hgood]; decide)] at hexec
  have hreg : ∀ a ∈ [Reg.mcFwdCnt c, Reg.mcRawWaitCnt c, Reg.mcCeCnt c, Reg.mcUeCnt c, Reg.mcCeAddr c, Reg.mcCeInfo c, Reg.mcIrqRaw c],
      a ≠ Reg.mcMcStat c → (finish s (mcAnswer (lineBack ((s.at time).setChan c { s.chan c with flight := r }) c l .ok))).reg a =
        s.reg a := fun a ha hstat => by
    obtain ⟨hnote, hresp⟩ := quiet_mcReg c.isLt a ha
    rw [finish_mcAnswer_reg _ _ hnote hresp, lineBack, reg_lineKept _ _ hstat, reg_setChan_ne _ _ _ hstat]
    rfl
  refine runs_of_done hexec ⟨hreg _ (by simp) ?_, hreg _ (by simp) ?_, ?_⟩
  · simp only [Reg.mcCeCnt, Reg.mcMcStat]; omega
  · simp only [Reg.mcUeCnt, Reg.mcMcStat]; omega
  · rw [finish_mcAnswer_chan, lineBack, (chan_lineKept _ _ _).2, chan_setChan_same]

/-- A correctable error is counted with its address (R387). -/
theorem runs_readReturn_ce (hgood : lineBad (s.chan c) l.line = false) (b : Fin 40) : Runs (.dramReadReturn time c (.ce b)) s fun t =>
    t.regN (Reg.mcCeCnt c) = min (s.regN (Reg.mcCeCnt c) + 1) 0xFFFFFFFF ∧ t.bit (Reg.mcIrqRaw c) 0 = true ∧
    t.regN (Reg.mcCeAddr c) = l.line * 64 % 2 ^ 32 ∧ t.regN (Reg.mcCeInfo c) = b.val := by
  have hexec := exec_dramReadReturn time (.ce b) hflight
  rw [if_neg (by rw [hgood]; decide)] at hexec
  refine runs_of_done hexec ?_
  generalize ht : (s.at time).setChan c { s.chan c with flight := r } = t
  have hreg : ∀ a ∈ [Reg.mcFwdCnt c, Reg.mcRawWaitCnt c, Reg.mcCeCnt c, Reg.mcUeCnt c, Reg.mcCeAddr c, Reg.mcCeInfo c, Reg.mcIrqRaw c],
      a ≠ Reg.mcMcStat c → (finish s (mcAnswer (lineBack t c l (.ce b)))).reg a = (mcCe t c l.line b false).reg a :=
    fun a ha hstat => by
      obtain ⟨hnote, hresp⟩ := quiet_mcReg c.isLt a ha
      rw [finish_mcAnswer_reg _ _ hnote hresp, lineBack, reg_lineKept _ _ hstat]
  have hcnt : t.regN (Reg.mcCeCnt c) = s.regN (Reg.mcCeCnt c) := by
    rw [← ht, regN_of_reg (reg_setChan_ne _ _ _ (by simp only [Reg.mcCeCnt, Reg.mcMcStat]; omega))]
    rfl
  obtain ⟨hce, hirq, haddr, hinfo⟩ := regs_mcCe t (c := c) l.line b.isLt
  refine ⟨?_, ?_, ?_, ?_⟩
  · rw [regN_of_reg (hreg _ (by simp) (by simp only [Reg.mcCeCnt, Reg.mcMcStat]; omega)), hce, hcnt]
  · rw [bit_of_reg (hreg _ (by simp) (by simp only [Reg.mcIrqRaw, Reg.mcMcStat]; omega)), hirq]
  · rw [regN_of_reg (hreg _ (by simp) (by simp only [Reg.mcCeAddr, Reg.mcMcStat]; omega)), haddr]
  · rw [regN_of_reg (hreg _ (by simp) (by simp only [Reg.mcCeInfo, Reg.mcMcStat]; omega)), hinfo]

/-- An uncorrectable error, or a line known bad, is counted and the line stays bad (R388). -/
theorem runs_readReturn_ue {e : Ecc} (hbad : lineBad (s.chan c) l.line = true ∨ e = .ue) : Runs (.dramReadReturn time c e) s fun t =>
    t.regN (Reg.mcUeCnt c) = min (s.regN (Reg.mcUeCnt c) + 1) 0xFFFFFFFF ∧ t.bit (Reg.mcIrqRaw c) 1 = true ∧
    (t.chan c).bad.contains l.line = true := by
  have hexec := exec_dramReadReturn time e hflight
  have hue : (if lineBad (s.chan c) l.line then Ecc.ue else e) = .ue := by
    rcases hbad with h | h
    · rw [if_pos h]
    · rw [h, ite_self]
  rw [hue] at hexec
  refine runs_of_done hexec ?_
  generalize ht : (s.at time).setChan c { s.chan c with flight := r } = t
  rw [lineBack]
  have hcnt : (if l.write then unwrite t c l else t).regN (Reg.mcUeCnt c) = s.regN (Reg.mcUeCnt c) := by
    rw [regN_of_reg (reg_unwritten _ _ _ _), ← ht,
      regN_of_reg (reg_setChan_ne _ _ _ (by simp only [Reg.mcUeCnt, Reg.mcMcStat]; omega))]
    rfl
  generalize (if l.write then unwrite t c l else t) = u at hcnt
  obtain ⟨hcount, hirq⟩ := regs_mcUe u c.isLt l.line l.port l.write
  obtain ⟨hnote, hresp⟩ := quiet_mcReg c.isLt (Reg.mcUeCnt c) (by simp)
  obtain ⟨hnote', hresp'⟩ := quiet_mcReg c.isLt (Reg.mcIrqRaw c) (by simp)
  refine ⟨?_, ?_, ?_⟩
  · rw [regN_of_reg (finish_mcAnswer_reg _ _ hnote hresp), ← hcnt]
    exact hcount
  · rw [bit_of_reg (finish_mcAnswer_reg _ _ hnote' hresp')]
    exact hirq
  · rw [finish_mcAnswer_chan, chan_lineDone]
    exact contains_bad_mcUe _ _ _ _

end

/-! ### REPORT_WRITE_RESPONSE -/

/-- A report-class write is answered when ALERT_WIN has passed since its last command (R392). -/
theorem runs_reportWriteResponse {s : State} {time : Nat} {c : Fin 2} {l : DramLine} {r : List DramLine}
    (hw : (s.chan c).reportW = l :: r) (halert : (s.chan c).alertAt = none) (hdue : l.issued + alertWin s c ≤ (s.at time).dt) :
    Runs (.reportWriteResponse time c) s fun t => (t.chan c).reportW = r ∧
      ∀ o ∈ t.mc.opens, o.id = l.id → ∃ p ∈ s.mc.opens, o.id = p.id ∧ o.left = p.left - 1 := by
  have hexec : exec (.reportWriteResponse time c) s =
      done s (mcAnswer (lineDone ((s.at time).setChan c { s.chan c with reportW := r }) l 0)) := by
    have hw' : ((s.at time).chan c).reportW = l :: r := hw
    have hgo : ((s.at time).chan c).alertAt.isNone = true ∧ l.issued + alertWin (s.at time) c ≤ (s.at time).dt :=
      ⟨(congrArg Option.isNone halert).trans rfl, hdue⟩
    rw [exec, execReportWriteResponse]
    simp only [hw']
    rw [if_pos hgo]
    rfl
  refine runs_of_done hexec ⟨?_, ?_⟩
  · rw [finish_mcAnswer_chan, chan_lineDone, chan_setChan_same]
  · rw [finish_mc]
    intro o ho hid
    obtain ⟨p, hp, hpo⟩ := List.mem_map.1 ((Answered.mcAnswer _).opens o ho)
    refine ⟨p, hp, ?_⟩
    split at hpo
    · rw [← hpo]; exact ⟨rfl, rfl⟩
    · next hne => exact absurd (hpo ▸ hid) hne

end Sys2Proof.Machine
end


section
/-! The islands family: the statement about DRAM requests (O45). -/

namespace Sys2Proof.Machine

theorem outOfRange_iff (s : State) (r : DramReq) :
    outOfRange s r = true ↔ r.addr < 0x800000000 ∨ dramCap s < r.addr - 0x800000000 + 64 * r.lines := by
  rw [outOfRange, Bool.or_eq_true, decide_eq_true_eq, decide_eq_true_eq, or_comm]

theorem outOfRange_inside {s : State} {r : DramReq}
    (h : 0x800000000 ≤ r.addr ∧ r.addr - 0x800000000 + 64 * r.lines ≤ dramCap s ∧ r.lines = 1) : outOfRange s r = false := by
  rw [Bool.eq_false_iff, ne_eq, outOfRange_iff]
  omega

/-- Settles O45: a request goes through its channel's three ways, a drain and an issue through their picks, and a line returned
through its error. -/
theorem dramRequestsKeepTheirOrder : Obligations.DramRequestsKeepTheirOrder := by
  unfold Obligations.DramRequestsKeepTheirOrder
  refine ⟨fun s time q hpick p hread h0 h1 => ⟨?_, ?_, ?_, ?_, ?_⟩, fun s time c hrun halert => ⟨?_, ?_, ?_⟩,
    fun s time c e l r hflight => ⟨?_, ?_, ?_, ?_⟩, ?_⟩
  · exact runs_requestAccept_order hpick hread h0 h1
  · intro hout
    exact (runs_requestAccept_outOfRange hpick hread h0 h1 ((outOfRange_iff _ _).2 hout)).mono
      fun t ⟨hch, hdram⟩ => ⟨hch, fun o _ => by rw [hdram]⟩
  · intro hin hw
    exact (runs_requestAccept_write hpick hread h0 h1 (outOfRange_inside hin) hin.2.2 hw).mono
      fun t ⟨hline, hother⟩ => ⟨fun i hi _ => hline i hi, fun o _ ho => hother o ho⟩
  · intro hin hw hwq hdrained _
    exact runs_requestAccept_pending hpick hread h0 h1 (outOfRange_inside hin) hin.2.2 hw hwq hdrained
  · intro hin hw e hwq
    exact ⟨runs_requestAccept_forwarded hpick hread h0 h1 (outOfRange_inside hin) hin.2.2 hw hwq,
      runs_requestAccept_waiting hpick hread h0 h1 (outOfRange_inside hin) hin.2.2 hw hwq⟩
  · intro e l hwq hlines hrush
    have hdrain := runs_writeQueueDrain (time := time) hrun halert (e := e) (by rw [hlines]; rfl) (by rw [hrush, hwq]; rfl)
    rw [hwq, List.erase_cons_head] at hdrain
    exact hdrain
  · intro e hrush
    exact runs_writeQueueDrain hrun halert (by rw [hrush]; exact Bool.or_true _) (by rw [hrush]; rfl)
  · intro l hissue hdrain
    obtain ⟨owed, hexec⟩ := exec_dramIssue hrun halert hissue hdrain
    refine ⟨fun haged => ?_, fun m hm haged => (issuePick_aged hissue hm haged).2, runs_of_done hexec ?_,
      fun h => runs_of_done hexec ?_, fun hw hr => runs_of_done hexec ?_⟩
    · obtain ⟨m, hm, hmaged⟩ := List.any_eq_true.1 haged
      exact (issuePick_aged hissue hm hmaged).1
    · rw [finish_setChan_same]
      exact ⟨lines_issued _ _ _ _ _, issueRot_issued _ _ _ _ _⟩
    · rw [finish_setChan_same]
      exact flight_issued _ _ _ _ h
    · rw [finish_setChan_same]
      exact reportW_issued _ _ _ _ hw hr
  · exact runs_readReturn_flight time hflight e
  · exact runs_readReturn_ok time hflight
  · exact runs_readReturn_ce time hflight
  · exact runs_readReturn_ue time hflight
  · intro s time c l r hw halert hdue
    exact runs_reportWriteResponse hw halert hdue

end Sys2Proof.Machine
end


section
/-! The islands family: chip resets (O53). -/

namespace Sys2Proof.Machine

/-- 5 us of airtime stand reserved in band record 0, and no transmit path has a run. -/
def reservedState : State := { State.reset with duty := { rsv := [(0, 5)] } }

/-- A reset by the pin keeps the ledger with its reservations (R223, R226). -/
theorem sysRstN_keeps_reservation :
    Runs (.sysRstN 0) reservedState fun t => t.duty.rsv = [(0, 5)] :=
  ⟨_, rfl, by decide +kernel⟩

/-- Refutes O53: its clause on the duty ledger empties the reservations wherever no radio has a run, but a chip reset other than POR
keeps the whole ledger, reservations included. In `reservedState` SYS_RST_N leaves 5 us reserved in band record 0. -/
theorem not_chipResetsKeepWhatTheyMust : ¬ Obligations.ChipResetsKeepWhatTheyMust := by
  unfold Obligations.ChipResetsKeepWhatTheyMust
  rintro ⟨hresets, -, -⟩
  obtain ⟨-, hpin, -⟩ := hresets reservedState 0
  obtain ⟨t, hkept, -, -, -, -, -, -, -, -, -, -, -, hledger, -⟩ := sysRstN_keeps_reservation.both hpin
  have hcleared := hledger (by decide) (by decide) (by decide) (by decide)
  rw [hcleared] at hkept
  exact absurd hkept (by decide)
end Sys2Proof.Machine
end


section
/-! The islands family: island resets (O9). -/

namespace Sys2Proof.Machine

/-- Radio H's island powered and clocked, in reset and grafted; its modem's record of what the receive table did in the present cycle
names ISL_STAT of the island. -/
def undoneState : State :=
  ((((State.reset.setNat (Reg.topIslStat 8) 0xB).setNat (Reg.topIslCtrl 8) 4).setNat (Reg.rdRdStat 0) 0x100).setNat
    (Reg.mdmStat 0) 0).setRadio 0 { undo := some ⟨0, [(Reg.topIslStat 8, 0)], 0, none, 0⟩ }

/-- The synthesiser's move to WARM ends a reception, which puts back the registers that the record names (R305). -/
theorem islandReady_undoes :
    Runs (.islandReady 0 8) undoneState fun t => t.bit (Reg.topIslStat (8 : Fin 22)) 2 = false :=
  ⟨_, rfl, by decide +kernel⟩

/-- Refutes O9: its clause on ISLAND_READY speaks of every state, and one whose undo record of a modem (R305) names an island's
register, which no run of the device writes, puts that register back when the radio's island becomes ready. In `undoneState`
ISLAND_READY leaves READY of island 8 at 0. -/
theorem not_islandResetsFollowTheTimeline : ¬ Obligations.IslandResetsFollowTheTimeline := by
  unfold Obligations.IslandResetsFollowTheTimeline
  intro h
  obtain ⟨-, -, hready, -⟩ := h 0 0 8 undoneState (by decide) (by decide)
  obtain ⟨t, hnot, hset, -⟩ := islandReady_undoes.both (hready (by decide) (by decide) (by decide))
  rw [hnot] at hset
  exact absurd hset (by decide)

end Sys2Proof.Machine
end

section
/-! Proofs of the generations family (02_generations_and_timetable). The facts about slots, and about what a command leaves of the packet
pipeline and of GEN, that the proofs share stand first. -/

namespace Sys2Proof.Machine

/-! ### Effects outside the packet pipeline and GEN -/

/-- An address of the blocks of the packet pipeline, the traffic manager and GEN. -/
abbrev inPipe (a : Nat) : Prop := 0x40100000 ≤ a ∧ a < 0x40300000

theorem noteReg_of_inPipe {a : Nat} (h : inPipe a) : noteReg a = false := by
  simp only [noteReg, mapReg, tapReg, Bool.or_eq_false_iff, Bool.and_eq_false_iff, decide_eq_false_iff_not, List.contains_cons,
    List.contains_nil, List.any_cons, List.any_nil, beq_eq_false_iff_ne]
  simp only [Reg.tsTsStat, Reg.tsTaskView, Reg.tsTaskFlags, Reg.topPndStat, Reg.topPndXcnt, Reg.topPndTotLo, Reg.topPndTotHi,
    Reg.topPndPkts, Reg.tpTpStat, Reg.tpLost, Reg.tpIrqRaw, Reg.tpMarkStat, and_true]
  obtain ⟨hlo, hhi⟩ := h
  and_intros <;> omega

/-- `t` has the time, the records of the packet pipeline and of GEN, the table store and the registers of those blocks of `s`. -/
structure PipeKept (s t : State) : Prop where
  dt : t.dt = s.dt
  gen : t.gen = s.gen
  pp : t.pp = s.pp
  tstore : t.tstore = s.tstore
  regs : ∀ a, inPipe a → t.reg a = s.reg a

theorem Aside.pipeKept {s t : State} (h : Aside s t) : PipeKept s t :=
  ⟨congrArg (·.dt) h.bare, congrArg (·.gen) h.bare, congrArg (·.pp) h.bare, h.tstore, fun a ha => h.regs a (noteReg_of_inPipe ha)⟩

theorem RegsOnly.pipeKept {P : Nat → Prop} {s t : State} (h : RegsOnly P s t) (hP : ∀ a, P a → ¬inPipe a) : PipeKept s t :=
  ⟨congrArg (·.dt) h.rest, congrArg (·.gen) h.rest, congrArg (·.pp) h.rest, congrArg (·.tstore) h.rest,
   fun a ha => h.regs a fun hp => hP a hp ha⟩

theorem Traffic.pipeKept {s t : State} (h : Traffic s t) : PipeKept s t :=
  ⟨congrArg (·.dt) h.rest, congrArg (·.gen) h.rest, congrArg (·.pp) h.rest, congrArg (·.tstore) h.rest,
   fun a ha => h.regs a (by simp only [inTraffic]; omega)⟩

theorem PoundOnly.pipeKept {p : Nat} {s t : State} (h : PoundOnly p s t) (hp : p < 54) : PipeKept s t :=
  ⟨congrArg (·.dt) h.rest, congrArg (·.gen) h.rest, congrArg (·.pp) h.rest, congrArg (·.tstore) h.rest,
   fun a ha => h.regs a (by simp only [inPoundRegs]; omega)⟩

/-- What every command leaves beside its own effect. -/
theorem finish_pipeKept (s t : State) : PipeKept t (finish s t) := (finish_aside s t).pipeKept

theorem fld_of_reg {s t : State} {a : Nat} (h : t.reg a = s.reg a) (lo len : Nat) : t.fld a lo len = s.fld a lo len := by
  rw [State.fld, State.fld, h]

theorem inPipe_slotStat {k : Nat} (hk : k < 4) : inPipe (Reg.genSlotStat k) := by
  simp only [inPipe, Reg.genSlotStat]; omega

theorem inPipe_slotSeq {k : Nat} (hk : k < 4) : inPipe (Reg.genSlotSeq k) := by
  simp only [inPipe, Reg.genSlotSeq]; omega

theorem inPipe_slotRef {k : Nat} (hk : k < 4) : inPipe (Reg.genSlotRef k) := by
  simp only [inPipe, Reg.genSlotRef]; omega

theorem slotPages_of_gen {s t : State} (h : t.gen = s.gen) (k : Nat) : slotPages t k = slotPages s k := by rw [slotPages, h]; rfl

/-- A search of the four slots depends on what it tests alone. -/
theorem find_slot_congr {p q : Nat → Bool} (h : ∀ k, k < 4 → p k = q k) : (List.range 4).find? p = (List.range 4).find? q :=
  List.find?_congr fun k hk => h k (List.mem_range.1 hk)

namespace PipeKept

theorem refl (s : State) : PipeKept s s := ⟨rfl, rfl, rfl, rfl, fun _ _ => rfl⟩

theorem trans {s t u : State} (h : PipeKept s t) (k : PipeKept t u) : PipeKept s u :=
  ⟨k.dt.trans h.dt, k.gen.trans h.gen, k.pp.trans h.pp, k.tstore.trans h.tstore, fun a ha => (k.regs a ha).trans (h.regs a ha)⟩

theorem ite {s t u : State} {c : Prop} [Decidable c] (h : c → PipeKept s t) (k : ¬c → PipeKept s u) :
    PipeKept s (if c then t else u) := by
  split
  · next hc => exact h hc
  · next hc => exact k hc

variable {s t : State} (h : PipeKept s t)
include h

theorem bit {a : Nat} (ha : inPipe a) (i : Nat) : t.bit a i = s.bit a i := bit_of_reg (h.regs a ha)

theorem fld {a : Nat} (ha : inPipe a) (lo len : Nat) : t.fld a lo len = s.fld a lo len := fld_of_reg (h.regs a ha) lo len

theorem regN {a : Nat} (ha : inPipe a) : t.regN a = s.regN a := regN_of_reg (h.regs a ha)

theorem pair {a : Nat} (ha : inPipe a) (ha4 : inPipe (a + 4)) : t.pair a = s.pair a := pair_congr (h.regs a ha) (h.regs _ ha4)

theorem slotState {k : Nat} (hk : k < 4) : slotState t k = slotState s k := h.fld (inPipe_slotStat hk) 0 3

theorem slotTag {k : Nat} (hk : k < 4) : slotTag t k = slotTag s k := h.fld (inPipe_slotStat hk) 8 4

theorem slotPages (k : Nat) : slotPages t k = slotPages s k := slotPages_of_gen h.gen k

theorem curSlot : curSlot t = curSlot s := by
  rw [Machine.curSlot, h.bit (by decide), h.fld (by decide)]; rfl

theorem roundNs : roundNs t = roundNs s := h.regN (by decide)

theorem armLead : armLead t = armLead s := by rw [Machine.armLead, h.fld (by decide)]; rfl

theorem freeSlotNo : freeSlotNo t = freeSlotNo s := find_slot_congr fun k hk => by rw [h.slotState hk]

theorem freePages : freePages t = freePages s := by rw [Machine.freePages, h.gen]; rfl

theorem loadAddr : loadAddr t = loadAddr s := by
  rw [Machine.loadAddr, h.regN (by decide), h.fld (by decide)]; rfl

end PipeKept

/-! ### Runs, in terms of what a command leaves -/

/-- A command whose own effect is `t` leaves the pipeline and GEN as in `t`. -/
theorem runs_of_kept {i : Instr} {s t : State} {P : State → Prop} (h : exec i s = done s t) (hp : ∀ v, PipeKept t v → P v) : Runs i s P :=
  runs_of_done h (hp _ (finish_pipeKept s t))

/-- An accepted write acts on a state whose pipeline and GEN are those before it. -/
theorem runs_of_write {i : Instr} {s : State} {time init a : Nat} {d : Word} {f : State → State} {P : State → Prop}
    (h : exec i s = done s (busDo (s.at time) init a 4 (some d) f)) (hacc : accepts s init a true = true)
    (hp : ∀ u, PipeKept (s.at time) u → ∀ v, PipeKept (f u) v → P v) : Runs i s P := by
  obtain ⟨u, hu, he⟩ := busDo_write (n := time) hacc d f
  rw [he] at h
  have hans : PipeKept (s.at time) ((s.at time).answer .ok) := ⟨rfl, rfl, rfl, rfl, fun _ _ => rfl⟩
  exact runs_of_kept h (hp u (hans.trans hu.pipeKept))

/-! ### Faults -/

/-- The class bits lie below the registers that a log entry writes. -/
theorem fltStat_ne_log (p : Nat) : Reg.fltFltStat ≠ Reg.fltLogW0 p ∧ Reg.fltFltStat ≠ Reg.fltLogDtLo p ∧
    Reg.fltFltStat ≠ Reg.fltLogDtHi p ∧ Reg.fltFltStat ≠ Reg.fltLogInfo p := by
  simp only [Reg.fltFltStat, Reg.fltLogW0, Reg.fltLogDtLo, Reg.fltLogDtHi, Reg.fltLogInfo]; omega

theorem fltStat_logShift (s : State) (p : Nat) : (logShift s p).reg Reg.fltFltStat = s.reg Reg.fltFltStat := by
  obtain ⟨h0, hlo, hhi, hinfo⟩ := fltStat_ne_log ((p + 1) % 64)
  rw [logShift, reg_setReg_ne _ _ hinfo, reg_setReg_ne _ _ hhi, reg_setReg_ne _ _ hlo, reg_setReg_ne _ _ h0]

theorem fltStat_logWrite (s : State) (p w0 info : Nat) : (logWrite s p w0 info).reg Reg.fltFltStat = s.reg Reg.fltFltStat := by
  obtain ⟨h0, hlo, hhi, hinfo⟩ := fltStat_ne_log p
  rw [logWrite, reg_setNat_ne _ _ _ hinfo, reg_setNat_ne _ _ _ hhi, reg_setNat_ne _ _ _ hlo, reg_setNat_ne _ _ _ h0]

theorem fltStat_logInsert (s : State) (w0 info : Nat) : (logInsert s w0 info).reg Reg.fltFltStat = s.reg Reg.fltFltStat := by
  unfold logInsert
  extract_lets head full p n shifted written
  have hshifted : shifted.reg Reg.fltFltStat = s.reg Reg.fltFltStat :=
    each_ind s (fun t => t.reg Reg.fltFltStat = s.reg Reg.fltFltStat) _ _ rfl fun _ _ t ht => (fltStat_logShift t _).trans ht
  have hwritten : written.reg Reg.fltFltStat = s.reg Reg.fltFltStat := by
    simp only [written]
    split
    · exact hshifted
    · exact (fltStat_logWrite _ _ _ _).trans hshifted
  clear_value written
  split
  · rw [reg_raise_ne _ _ _ (by decide), reg_inc_ne _ _ (by decide), hwritten]
  · rw [reg_setNat_ne _ _ _ (by decide), hwritten]

theorem bitOf_or_twoPow (w : Word) {i : Nat} (h : i < 32) : bitOf (w ||| BitVec.ofNat 32 (2 ^ i)) i = true := by
  rw [bitOf, BitVec.getLsbD_or, BitVec.getLsbD_ofNat, Nat.testBit_two_pow_self, decide_eq_true h, Bool.and_true, Bool.or_true]

/-- A fault raised sets its class's bit. -/
theorem fltStat_raiseFault (s : State) {cls : Nat} (hc : cls < 16) (src : Nat) (act : FltAction) (info : Nat) :
    (raiseFault s cls src act info).bit Reg.fltFltStat cls = true := by
  have hcnt : Reg.fltFltStat ≠ Reg.fltFltCnt cls := by simp only [Reg.fltFltStat, Reg.fltFltCnt]; omega
  rw [raiseFault, bit_of_reg (fltStat_logInsert _ _ _), bit_of_reg (reg_raise_ne _ _ _ (by decide)), bit_of_reg (reg_inc_ne _ _ hcnt),
    State.bit, reg_orReg_same]
  exact bitOf_or_twoPow _ (by omega)

theorem raiseFault_pipeKept (s : State) {cls : Nat} (hc : cls < 16) (src : Nat) (act : FltAction) (info : Nat) :
    PipeKept s (raiseFault s cls src act info) :=
  ((RegsOnly.refl s).raiseFault hc src act info).pipeKept fun a ha hp => by simp only [inFlt, inPipe] at ha hp; omega

/-! ### Slots -/

section
variable (s : State)

theorem reg_setFlds_same (a : Nat) (l : List (Nat × Nat × Nat)) :
    (s.setFlds a l).reg a = l.foldl (fun w f => putBits w f.1 f.2.1 f.2.2) (s.reg a) := reg_setReg_same _ _ _

/-- A slot's state is a field of its SLOT_STAT. -/
theorem slotState_of_reg {s t : State} {j : Nat} (h : t.reg (Reg.genSlotStat j) = s.reg (Reg.genSlotStat j)) :
    slotState t j = slotState s j := fld_of_reg h 0 3

theorem genSlotStat_ne_genStat (j : Nat) : Reg.genSlotStat j ≠ Reg.genGenStat := by
  simp only [Reg.genSlotStat, Reg.genGenStat]; omega

theorem genSlotStat_injective {j k : Nat} (h : j ≠ k) : Reg.genSlotStat j ≠ Reg.genSlotStat k := by
  simp only [Reg.genSlotStat]; omega

theorem reg_setSlotState_ne {k st q : Nat} (hq : q ≠ Reg.genSlotStat k) (hg : q ≠ Reg.genGenStat) :
    (setSlotState s k st).reg q = s.reg q := by
  rw [setSlotState, reg_setBit_ne _ _ _ _ hg, reg_setFld_ne _ _ _ _ _ hq]

@[simp] theorem setSlotState_gen (k st : Nat) : (setSlotState s k st).gen = s.gen := rfl

@[simp] theorem setSlotState_tstore (k st : Nat) : (setSlotState s k st).tstore = s.tstore := rfl

/-- A slot's state after one slot's state was set. -/
theorem slotState_setSlotState (k st j : Nat) :
    slotState (setSlotState s k st) j = if j = k then st % 8 else slotState s j := by
  by_cases h : j = k
  · subst h
    rw [if_pos rfl, slotState, setSlotState, fld_of_reg (reg_setBit_ne _ _ _ _ (genSlotStat_ne_genStat j))]
    exact fld_setFld_same s _ 0 3 st (by decide)
  · rw [if_neg h]
    exact slotState_of_reg (reg_setSlotState_ne s (genSlotStat_injective h) (genSlotStat_ne_genStat j))

/-- The current slot is read from GEN_STAT. -/
theorem curSlot_of_reg {s t : State} (h : t.reg Reg.genGenStat = s.reg Reg.genGenStat) : curSlot t = curSlot s := by
  rw [curSlot, bit_of_reg h, fld_of_reg h]; rfl

/-- RESIDENT alone follows a slot's state in GEN_STAT. -/
theorem curSlot_setSlotState (k st : Nat) : curSlot (setSlotState s k st) = curSlot s := by
  have hstat : (setSlotState s k st).reg Reg.genGenStat = putBit (s.reg Reg.genGenStat) (16 + k) (decide (st ≠ 0)) := by
    rw [setSlotState, reg_setBit_same, reg_setFld_ne _ _ _ _ _ (genSlotStat_ne_genStat k).symm]
  have hvalid : (setSlotState s k st).bit Reg.genGenStat 0 = s.bit Reg.genGenStat 0 := by
    rw [State.bit, hstat, bitOf_putBit_ne _ _ (by omega)]; rfl
  have hcur : (setSlotState s k st).fld Reg.genGenStat 4 2 = s.fld Reg.genGenStat 4 2 := by
    rw [State.fld, hstat, bitsOf_putBit_out _ _ _ _ _ (by omega)]; rfl
  rw [curSlot, hvalid, hcur]; rfl

/-- An address of GEN outside the registers of the slots. -/
abbrev outSlots (a : Nat) : Prop := a < 0x40200100 ∨ 0x40200180 ≤ a

theorem ne_slot_of_outSlots {a k : Nat} (h : outSlots a) (hk : k < 4) : a ≠ Reg.genSlotStat k ∧ a ≠ Reg.genSlotSeq k ∧
    a ≠ Reg.genSlotRef k ∧ a ≠ Reg.genSlotBase k ∧ a ≠ Reg.genSlotSize k := by
  simp only [Reg.genSlotStat, Reg.genSlotSeq, Reg.genSlotRef, Reg.genSlotBase, Reg.genSlotSize]; omega

theorem genSlotStat_ne_others (j k : Nat) : Reg.genSlotStat j ≠ Reg.genSlotSeq k ∧ Reg.genSlotStat j ≠ Reg.genSlotRef k ∧
    Reg.genSlotStat j ≠ Reg.genSlotBase k ∧ Reg.genSlotStat j ≠ Reg.genSlotSize k := by
  simp only [Reg.genSlotStat, Reg.genSlotSeq, Reg.genSlotRef, Reg.genSlotBase, Reg.genSlotSize]; omega

/-- A freed slot is FREE, and every other one stays as it was. -/
theorem slotState_freeSlot (k j : Nat) : slotState (freeSlot s k) j = if j = k then 0 else slotState s j := by
  obtain ⟨hseq, href, hbase, hsize⟩ := genSlotStat_ne_others j k
  simp only [slotState, State.fld, freeSlot, reg_setReg_ne _ _ hseq, reg_setReg_ne _ _ href, reg_setReg_ne _ _ hbase,
    reg_setReg_ne _ _ hsize]
  by_cases h : j = k
  · subst h
    rw [reg_setReg_same, if_pos rfl]; rfl
  · rw [reg_setReg_ne _ _ (genSlotStat_injective h), if_neg h,
      reg_setSlotState_ne _ (genSlotStat_injective h) (genSlotStat_ne_genStat j)]
    rfl

theorem slotPages_freeSlot (k j : Nat) : slotPages (freeSlot s k) j = if j = k then [] else slotPages s j := by
  simp only [slotPages, freeSlot, setReg_gen, setSlotState_gen, bankGet_bankSet]

@[simp] theorem freeSlot_tstore (k : Nat) : (freeSlot s k).tstore = s.tstore := by
  simp only [freeSlot, setReg_tstore, setSlotState_tstore]

end

end Sys2Proof.Machine
end

section
/-! The refutation of the statement on round boundaries, from a modem that takes ROUND_IDX back. -/

namespace Sys2Proof.Machine

/-- A state with a generation current, radio 0 switched on and its LISTEN entry ending with the round, and a modem of radio 0 that holds, to
be taken back at DT 1000000, a value of ROUND_IDX. -/
def undoneRound : State :=
  let gen := ((State.reset.setNat (Reg.genSlotStat 0) 4).setNat Reg.genGenStat 0x10001).setNat Reg.genRoundNs 1000000
  let radio := (gen.setNat (Reg.rdRdStat 0) 0x100).setNat (Reg.mdmStat 0) 0
  (radio.setRadio 0 { undo := some ⟨1000000, [(Reg.genRoundIdxLo, 6)], 0, none, 0⟩ }).setAirOf 0
    { play := some { entry := 0, start := 0, stop := 1000000, ty := 4, flags := 0, arg := 0, chan := 0, part := false } }

/-- The end of the entry in play switches the modem off, which puts back the registers of its record: ROUND_IDX with them. -/
theorem undoneRound_roundIdx : Runs (.roundBoundary 1000000) undoneRound fun t => roundIdx t = 7 := ⟨_, rfl, by decide +kernel⟩

/-- Refutes O16: clause 2 fails in `undoneRound`. Its record names a register outside the modem, which no run of the device writes, and the
statement, which is over every state, does not exclude it. -/
theorem not_roundBoundariesMoveTheRound : ¬ Obligations.RoundBoundariesMoveTheRound := by
  unfold Obligations.RoundBoundariesMoveTheRound
  rintro ⟨-, hround, -⟩
  obtain ⟨honward, -, -⟩ := hround 1000000 undoneRound 0 (by decide +kernel) (by decide +kernel)
  obtain ⟨t, ⟨-, hidx, -, -⟩, hseven⟩ := honward.both undoneRound_roundIdx
  have hzero : roundIdx undoneRound = 0 := by decide +kernel
  rw [hidx, hzero] at hseven
  exact absurd hseven (by decide)

end Sys2Proof.Machine
end

section
/-! Loads of an image (R78, R85, R87, R95). -/

namespace Sys2Proof.Machine

/-! ### The end of a load -/

/-- A load has ended with a result (R78, R95). -/
def LoadEnded (t : State) (err : Nat) : Prop :=
  t.gen.load = none ∧ t.bit Reg.genLoadStat 0 = false ∧ t.fld Reg.genLoadStat 8 8 = err % 256 ∧
    t.bit Reg.genIrqRaw (if err = 0 then 3 else 4) = true

theorem LoadEnded.of_kept {s t : State} {err : Nat} (h : LoadEnded s err) (hk : PipeKept s t) : LoadEnded t err := by
  obtain ⟨hload, hbusy, herr, hirq⟩ := h
  exact ⟨(congrArg _ hk.gen).trans hload, (hk.bit (by decide) _).trans hbusy, (hk.fld (by decide) _ _).trans herr,
    (hk.bit (by decide) _).trans hirq⟩

section
variable (s : State)

theorem loadEnded_loadEnd (err : Nat) : LoadEnded (loadEnd s err) err := by
  have hstat : (loadEnd s err).reg Reg.genLoadStat = putBits (putBits (s.reg Reg.genLoadStat) 0 1 0) 8 8 err := by
    rw [loadEnd, reg_raise_ne _ _ _ (by decide), reg_setFlds_same]; rfl
  refine ⟨rfl, ?_, ?_, ?_⟩
  · rw [State.bit, hstat, bitOf_putBits_out _ _ _ _ _ (by decide), bitOf_putBits_in _ _ _ _ _ (by decide) (by decide)]; rfl
  · rw [State.fld, hstat]
    exact bitsOf_putBits_same _ _ _ _ (by decide)
  · rw [loadEnd, bit_raise_same _ _ _ (by split <;> decide)]

theorem reg_loadEnd_ne (err : Nat) {a : Nat} (hs : a ≠ Reg.genLoadStat) (hi : a ≠ Reg.genIrqRaw) : (loadEnd s err).reg a = s.reg a := by
  rw [loadEnd, reg_raise_ne _ _ _ hi, reg_setFlds_ne _ _ _ hs]; rfl

theorem reg_loadEnd_slotStat (err : Nat) {k : Nat} (hk : k < 4) :
    (loadEnd s err).reg (Reg.genSlotStat k) = s.reg (Reg.genSlotStat k) :=
  reg_loadEnd_ne s err (ne_slot_of_outSlots (by decide) hk).1.symm (ne_slot_of_outSlots (by decide) hk).1.symm

theorem slotState_loadEnd (err : Nat) {k : Nat} (hk : k < 4) : slotState (loadEnd s err) k = slotState s k :=
  slotState_of_reg (reg_loadEnd_slotStat s err hk)

@[simp] theorem slotPages_loadEnd (err j : Nat) : slotPages (loadEnd s err) j = slotPages s j := rfl

@[simp] theorem loadEnd_tstore (err : Nat) : (loadEnd s err).tstore = s.tstore := rfl

/-- What a failed load leaves: its result, and its slot FREE. -/
theorem loadFail_freed {k err : Nat} (hk : k < 4) (herr : err ≠ 0) {v : State} (hv : PipeKept (loadFail s k err) v) :
    v.gen.load = none ∧ v.bit Reg.genLoadStat 0 = false ∧ slotState v k = 0 ∧ v.fld Reg.genLoadStat 8 8 = err % 256 ∧
      v.bit Reg.genIrqRaw 4 = true ∧ slotPages v k = [] ∧ v.tstore = s.tstore := by
  obtain ⟨hload, hbusy, hres, hirq⟩ := (loadEnded_loadEnd (freeSlot s k) err).of_kept hv
  rw [if_neg herr] at hirq
  have hstate : slotState v k = 0 := by
    rw [hv.slotState hk, loadFail, slotState_loadEnd _ _ hk, slotState_freeSlot, if_pos rfl]
  have hpages : slotPages v k = [] := by
    rw [hv.slotPages, loadFail, slotPages_loadEnd, slotPages_freeSlot, if_pos rfl]
  exact ⟨hload, hbusy, hstate, hres, hirq, hpages, hv.tstore.trans (by rw [loadFail, loadEnd_tstore, freeSlot_tstore])⟩

end

/-! ### The error codes -/

/-- Every check that fails has a code other than 0. -/
theorem firstFail_ne_zero (c : Chk) : firstFail c ≠ some 0 := fun h => absurd (List.mem_of_find?_eq_some h) (by decide)

theorem headerError_ne_zero (g : Img) (len : Nat) : headerError g len ≠ some 0 := by
  unfold headerError
  repeat' split
  all_goals simp

theorem imageError_ne_zero (s : State) (g : Img) (len : Nat) : imageError s g len ≠ some 0 := by
  unfold imageError
  extract_lets
  repeat' split
  all_goals simp [firstFail_ne_zero]

theorem cutError_ne_zero (s : State) (g : Img) (addr : Nat) : cutError s g addr ≠ 0 := by
  unfold cutError
  extract_lets
  repeat' split
  all_goals decide

theorem loadError_ne_zero (s : State) (addr len : Nat) : loadError s addr len ≠ some 0 := by
  unfold loadError
  extract_lets g
  split
  · simp
  · split
    · next e he => exact fun h => headerError_ne_zero g len (he.trans h)
    · split
      · simp
      · split
        · exact fun h => cutError_ne_zero s g addr (Option.some.inj h)
        · exact imageError_ne_zero s g len

/-! ### The fetch -/

theorem dmaUse_traffic (s : State) {q : Nat} (hq : q < 8) (h0 : q ≠ 0) (a n : Nat) (write : Bool) : Traffic s (dmaUse s q a n write) := by
  unfold dmaUse
  rw [if_neg h0]
  exact .ite (fun _ => (Traffic.refl s).dramUse hq _ _ _) fun _ => .refl s

theorem dmaFail_pipeKept (s : State) (a n : Nat) : PipeKept s (dmaFail s a n) :=
  .ite (fun _ => ⟨rfl, rfl, rfl, rfl, fun a ha => reg_raise_ne _ _ _ (by rintro rfl; revert ha; decide)⟩) fun _ => .refl s

theorem dramImg_congr {s t : State} (h : t.dram = s.dram) (addr len : Nat) : dramImg t addr len = dramImg s addr len := by
  unfold dramImg; rw [h]

theorem iLe_lt (g : Img) (n : Nat) : ∀ off, iLe g off n < 256 ^ n := by
  induction n with
  | zero => intro off; exact Nat.one_pos
  | succ n ih =>
    intro off
    have hbyte := (g off).isLt
    have hrest := ih (off + 1)
    rw [iLe, pow_succ]
    omega

theorem i32_lt (g : Img) (off : Nat) : i32 g off < 2 ^ 32 := iLe_lt g 4 off

section
variable (s : State) {k : Nat} (hk : k < 4)
include hk

/-- The slot of a load that passed takes its state and its tag in one register. -/
theorem reg_loadPass_slotStat (addr len : Nat) : ∃ w, (loadPass s k addr len).reg (Reg.genSlotStat k) =
    putBits (putBits w 0 3 2) 8 4 (i8 (dramImg s addr len) 8) := by
  unfold loadPass
  extract_lets g stored _ noted ready
  refine ⟨noted.reg (Reg.genSlotStat k), ?_⟩
  rw [reg_loadEnd_slotStat _ _ hk, reg_setNat_ne _ _ _ (genSlotStat_ne_others k k).1, reg_setFld_same, setSlotState,
    reg_setBit_ne _ _ _ _ (genSlotStat_ne_genStat k), reg_setFld_same]

theorem slotState_loadPass (addr len : Nat) : slotState (loadPass s k addr len) k = 2 := by
  obtain ⟨w, hw⟩ := reg_loadPass_slotStat s hk addr len
  rw [slotState, State.fld, hw, bitsOf_putBits_out _ _ _ _ _ _ (by decide)]
  exact bitsOf_putBits_same _ _ _ _ (by decide)

theorem slotTag_loadPass (addr len : Nat) : slotTag (loadPass s k addr len) k = i8 (dramImg s addr len) 8 % 16 := by
  obtain ⟨w, hw⟩ := reg_loadPass_slotStat s hk addr len
  rw [slotTag, State.fld, hw]
  exact bitsOf_putBits_same _ _ _ _ (by decide)

theorem slotSeq_loadPass (addr len : Nat) : (loadPass s k addr len).regN (Reg.genSlotSeq k) = i32 (dramImg s addr len) 0x14 := by
  unfold loadPass
  extract_lets g stored _ noted ready
  have hend := reg_loadEnd_ne (ready.setNat (Reg.genSlotSeq k) (i32 g 0x14)) 0 (ne_slot_of_outSlots (a := Reg.genLoadStat) (by decide) hk).2.1.symm
    (ne_slot_of_outSlots (a := Reg.genIrqRaw) (by decide) hk).2.1.symm
  rw [regN_of_reg hend, regN_setNat_same, Nat.mod_eq_of_lt (i32_lt g _)]

end

/-! ### The start of a load -/

theorem retirePlan_of_room (s : State) (l : List Nat) {slot : Bool} {room need counting : Nat} (hs : slot = true) (hn : need ≤ room) :
    retirePlan s l slot room need counting = some [] := by
  cases l <;> rw [retirePlan, if_pos (by simp [hs, hn])]

/-- With a slot free and room for the image, a load that passes the first checks takes that slot. -/
theorem loadStart_of_room {s : State} (hbusy : s.bit Reg.genLoadStat 0 = false)
    (hslots : ∀ k, k < 4 → slotState s k = 0 ∨ slotState s k = 4 ∨ slotState s k = 5) (haddr : loadAddr s % 64 = 0)
    (hlo : 256 ≤ s.regN Reg.genLoadLen) (hhi : s.regN Reg.genLoadLen ≤ 3145728)
    (hroom : ceilDiv (s.regN Reg.genLoadLen) 4096 ≤ (freePages s).length) {k : Nat} (hk : freeSlotNo s = some k) :
    loadStart s = loadInto s k (loadAddr s) (s.regN Reg.genLoadLen) := by
  have hnone : (List.range 4).any (fun k => decide (1 ≤ slotState s k) && decide (slotState s k ≤ 3)) = false := by
    simp only [List.any_eq_false, List.mem_range, Bool.and_eq_true, decide_eq_true_eq]
    intro j hj
    have := hslots j hj
    omega
  have hplan : retirePlan s (retirable s) (some k).isSome (freePages s).length (ceilDiv (s.regN Reg.genLoadLen) 4096)
      s.gen.retired.length = some [] := retirePlan_of_room s _ rfl hroom
  simp only [loadStart, hbusy, hnone, haddr, hplan, hk, State.each, List.foldl_nil, Bool.false_eq_true, if_false, ne_eq,
    not_true_eq_false, show ¬(s.regN Reg.genLoadLen < 256 ∨ 3145728 < s.regN Reg.genLoadLen) by omega]

theorem loadStart_of_taken {s : State} (hbusy : s.bit Reg.genLoadStat 0 = false) {k : Nat} (hk : k < 4) (hlo : 1 ≤ slotState s k)
    (hhi : slotState s k ≤ 3) : loadStart s = loadEnd s 1 := by
  have hany : (List.range 4).any (fun k => decide (1 ≤ slotState s k) && decide (slotState s k ≤ 3)) = true :=
    List.any_eq_true.2 ⟨k, List.mem_range.2 hk, by simp [hlo, hhi]⟩
  simp only [loadStart, hbusy, hany, Bool.false_eq_true, if_false, if_true]

section
variable (s : State) (k addr len : Nat)

theorem reg_loadInto_slotStat {j : Nat} (hj : j < 4) : (loadInto s k addr len).reg (Reg.genSlotStat j) =
    (setSlotState s k 1).reg (Reg.genSlotStat j) := by
  obtain ⟨-, -, hbase, hsize⟩ := genSlotStat_ne_others j k
  unfold loadInto
  rw [reg_setFlds_ne _ _ _ (ne_slot_of_outSlots (by decide) hj).1.symm, reg_setNat_ne _ _ _ hsize, reg_setNat_ne _ _ _ hbase]
  rfl

theorem slotState_loadInto {j : Nat} (hj : j < 4) : slotState (loadInto s k addr len) j = if j = k then 1 else slotState s j :=
  (slotState_of_reg (reg_loadInto_slotStat s k addr len hj)).trans (slotState_setSlotState s k 1 j)

end

theorem slotPages_loadInto (s : State) (k addr len j : Nat) : slotPages (loadInto s k addr len) j =
    if j = k then (freePages s).take (ceilDiv len 4096) else slotPages s j := bankGet_bankSet _ _ _ _ _

theorem loadInto_tstore (s : State) (k addr len : Nat) : (loadInto s k addr len).tstore = s.tstore := by
  simp only [loadInto, setFlds_tstore, setNat_tstore, setSlotState_tstore]

theorem loadInto_stat (s : State) {k : Nat} (hk : k < 4) (addr len : Nat) :
    (loadInto s k addr len).bit Reg.genLoadStat 0 = true ∧ (loadInto s k addr len).fld Reg.genLoadStat 4 2 = k := by
  unfold loadInto
  extract_lets pages took based
  simp only [State.bit, State.fld, reg_setFlds_same, List.foldl_cons, List.foldl_nil]
  constructor
  · rw [bitOf_putBits_out _ _ _ _ _ (by decide), bitOf_putBits_out _ _ _ _ _ (by decide),
      bitOf_putBits_in _ _ _ _ _ (by decide) (by decide)]
    rfl
  · rw [bitsOf_putBits_out _ _ _ _ _ _ (by decide), bitsOf_putBits_same _ _ _ _ (by decide)]
    exact Nat.mod_eq_of_lt hk

theorem freeSlotNo_lt {s : State} {k : Nat} (h : freeSlotNo s = some k) : k < 4 := List.mem_range.1 (List.mem_of_find?_eq_some h)

/-! ### The obligation -/

/-- A load that nothing refuses takes the lowest free slot and its pages. -/
theorem loadCmdStart_takes (time : Nat) (init : Init) (s : State) (hacc : accepts s init Reg.genLoadCmd true = true)
    (hbusy : s.bit Reg.genLoadStat 0 = false)
    (hslots : ∀ k, k < 4 → slotState s k = 0 ∨ slotState s k = 4 ∨ slotState s k = 5) (haddr : loadAddr s % 64 = 0)
    (hlo : 256 ≤ s.regN Reg.genLoadLen) (hhi : s.regN Reg.genLoadLen ≤ 3145728)
    (hroom : ceilDiv (s.regN Reg.genLoadLen) 4096 ≤ (freePages s).length) (k : Nat) (hk : freeSlotNo s = some k) :
    Runs (.loadCmdStart time init) s fun t =>
      slotState t k = 1 ∧ t.bit Reg.genLoadStat 0 = true ∧ t.fld Reg.genLoadStat 4 2 = k ∧
      t.gen.load = some (k, loadAddr s, s.regN Reg.genLoadLen) ∧
      slotPages t k = (freePages s).take (ceilDiv (s.regN Reg.genLoadLen) 4096) ∧
      (∀ j, j < 4 → j ≠ k → slotState t j = slotState s j ∧ slotPages t j = slotPages s j) ∧ t.tstore = s.tstore := by
  refine runs_of_write rfl hacc fun u hu v hv => ?_
  have hlen : u.regN Reg.genLoadLen = s.regN Reg.genLoadLen := hu.regN (by decide)
  have hpages : freePages u = freePages s := hu.freePages
  have hk4 := freeSlotNo_lt hk
  rw [loadStart_of_room ((hu.bit (by decide) _).trans hbusy) (fun j hj => by rw [hu.slotState hj]; exact hslots j hj)
    (by rw [hu.loadAddr]; exact haddr) (by rw [hlen]; exact hlo) (by rw [hlen]; exact hhi) (by rw [hlen, hpages]; exact hroom)
    (hu.freeSlotNo.trans hk)] at hv
  obtain ⟨hon, hno⟩ := loadInto_stat u hk4 (loadAddr u) (u.regN Reg.genLoadLen)
  refine ⟨?_, (hv.bit (by decide) _).trans hon, (hv.fld (by decide) _ _).trans hno, ?_, ?_, fun j hj hjk => ⟨?_, ?_⟩, ?_⟩
  · rw [hv.slotState hk4, slotState_loadInto u k _ _ hk4, if_pos rfl]
  · rw [hv.gen, ← hlen]
    exact congrArg (fun a => some (k, a, _)) hu.loadAddr
  · rw [hv.slotPages, slotPages_loadInto, if_pos rfl, hpages, hlen]
  · rw [hv.slotState hj, slotState_loadInto u k _ _ hj, if_neg hjk]
    exact hu.slotState hj
  · rw [hv.slotPages, slotPages_loadInto, if_neg hjk]
    exact hu.slotPages j
  · rw [hv.tstore, loadInto_tstore, hu.tstore]
    rfl

/-- A slot LOADING, READY or ARMED refuses the load. -/
theorem loadCmdStart_refused (time : Nat) (init : Init) (s : State) (k : Fin 4) (hacc : accepts s init Reg.genLoadCmd true = true)
    (hbusy : s.bit Reg.genLoadStat 0 = false) (hlo : 1 ≤ slotState s k) (hhi : slotState s k ≤ 3) :
    Runs (.loadCmdStart time init) s fun t =>
      t.fld Reg.genLoadStat 8 8 = 1 ∧ t.bit Reg.genIrqRaw 4 = true ∧ slotState t k = slotState s k := by
  refine runs_of_write rfl hacc fun u hu v hv => ?_
  have hstate : slotState u k = slotState s k := hu.slotState k.isLt
  rw [loadStart_of_taken ((hu.bit (by decide) _).trans hbusy) k.isLt (by rw [hstate]; exact hlo) (by rw [hstate]; exact hhi)] at hv
  obtain ⟨-, -, hres, hirq⟩ := (loadEnded_loadEnd u 1).of_kept hv
  exact ⟨hres, hirq, by rw [hv.slotState k.isLt, slotState_loadEnd _ _ k.isLt, hstate]⟩

section
variable (time : Nat) (s : State) {k addr len : Nat} (hload : s.gen.load = some (k, addr, len))
include hload

theorem exec_loadDone_passes (hok : loadError (s.at time) addr len = none) :
    exec (.loadDone time) s = done s (loadPass (dmaUse (s.at time) 7 addr len false) k addr len) := by
  have hat : (s.at time).gen.load = some (k, addr, len) := hload
  show execLoadDone time s = _
  simp only [execLoadDone, hat, hok]

theorem exec_loadDone_fails {e : Nat} (herr : loadError (s.at time) addr len = some e) :
    exec (.loadDone time) s = done s (loadFail (if e = 22 then dmaFail (dmaUse (s.at time) 7 addr len false) addr len
      else dmaUse (s.at time) 7 addr len false) k e) := by
  have hat : (s.at time).gen.load = some (k, addr, len) := hload
  show execLoadDone time s = _
  simp only [execLoadDone, hat, herr]

theorem loadDone_passes (hk : k < 4) (hok : loadError (s.at time) addr len = none) : Runs (.loadDone time) s fun t =>
    t.gen.load = none ∧ t.bit Reg.genLoadStat 0 = false ∧ slotState t k = 2 ∧ t.fld Reg.genLoadStat 8 8 = 0 ∧
      t.bit Reg.genIrqRaw 3 = true ∧ slotTag t k = i8 (dramImg s addr len) 8 % 16 ∧
      t.regN (Reg.genSlotSeq k) = i32 (dramImg s addr len) 0x14 := by
  refine runs_of_kept (exec_loadDone_passes time s hload hok) fun v hv => ?_
  have himg : dramImg (dmaUse (s.at time) 7 addr len false) addr len = dramImg s addr len :=
    dramImg_congr (congrArg (·.dram) (dmaUse_traffic (s.at time) (by decide) (by decide) addr len false).rest) _ _
  obtain ⟨hend, hbusy, hres, hirq⟩ := (loadEnded_loadEnd _ 0).of_kept hv
  refine ⟨hend, hbusy, ?_, hres, hirq, ?_, ?_⟩
  · rw [hv.slotState hk, slotState_loadPass _ hk]
  · rw [hv.slotTag hk, slotTag_loadPass _ hk, himg]
  · rw [hv.regN (inPipe_slotSeq hk), slotSeq_loadPass _ hk, himg]

theorem loadDone_fails (hk : k < 4) {e : Nat} (herr : loadError (s.at time) addr len = some e) : Runs (.loadDone time) s fun t =>
    t.gen.load = none ∧ t.bit Reg.genLoadStat 0 = false ∧ slotState t k = 0 ∧ t.fld Reg.genLoadStat 8 8 = e % 256 ∧
      t.bit Reg.genIrqRaw 4 = true ∧ slotPages t k = [] ∧ t.tstore = s.tstore := by
  refine runs_of_kept (exec_loadDone_fails time s hload herr) fun v hv => ?_
  have hne : e ≠ 0 := fun h => loadError_ne_zero (s.at time) addr len (h ▸ herr)
  obtain ⟨hend, hbusy, hstate, hres, hirq, hpages, htstore⟩ := loadFail_freed _ hk hne hv
  have hused : PipeKept (s.at time) (dmaUse (s.at time) 7 addr len false) := (dmaUse_traffic _ (by decide) (by decide) _ _ _).pipeKept
  have hfetched := hused.trans (.ite (c := e = 22) (fun _ => dmaFail_pipeKept _ addr len) fun _ => .refl _)
  exact ⟨hend, hbusy, hstate, hres, hirq, hpages, htstore.trans hfetched.tstore⟩

theorem loadDramError_fails (hk : k < 4) : Runs (.loadDramError time) s fun t =>
    t.gen.load = none ∧ t.bit Reg.genLoadStat 0 = false ∧ slotState t k = 0 ∧ t.fld Reg.genLoadStat 8 8 = 22 ∧
      t.bit Reg.genIrqRaw 4 = true ∧ t.tstore = s.tstore := by
  have hexec : exec (.loadDramError time) s = done s (loadFail (s.at time) k 22) := by
    have hat : (s.at time).gen.load = some (k, addr, len) := hload
    show execLoadDramError time s = _
    simp only [execLoadDramError, hat]
  refine runs_of_kept hexec fun v hv => ?_
  obtain ⟨hend, hbusy, hstate, hres, hirq, -, htstore⟩ := loadFail_freed _ hk (by decide) hv
  exact ⟨hend, hbusy, hstate, hres, hirq, htstore⟩

theorem loadAbort_fails (hk : k < 4) {init : Init} (hacc : accepts s init Reg.genLoadCmd true = true) :
    Runs (.loadAbort time init) s fun t =>
      t.gen.load = none ∧ t.bit Reg.genLoadStat 0 = false ∧ slotState t k = 0 ∧ t.fld Reg.genLoadStat 8 8 = 23 ∧
        t.bit Reg.genIrqRaw 4 = true ∧ t.tstore = s.tstore := by
  refine runs_of_write rfl hacc fun u hu v hv => ?_
  have hloadu : u.gen.load = some (k, addr, len) := (congrArg (·.load) hu.gen).trans hload
  have habort : loadAbort u = loadFail u k 23 := by simp only [loadAbort, hloadu]
  rw [habort] at hv
  obtain ⟨hend, hbusy, hstate, hres, hirq, -, htstore⟩ := loadFail_freed _ hk (by decide) hv
  exact ⟨hend, hbusy, hstate, hres, hirq, htstore.trans hu.tstore⟩

end

/-- Settles O14: its clauses are `loadCmdStart_takes`, `loadCmdStart_refused`, and, of the load in progress, `loadDone_passes` and the
three ways to fail, which `loadFail_freed` describes together. -/
theorem loadsTakeASlotAndEndReadyOrFree : Obligations.LoadsTakeASlotAndEndReadyOrFree := by
  unfold Obligations.LoadsTakeASlotAndEndReadyOrFree
  refine ⟨loadCmdStart_takes, loadCmdStart_refused, ?_⟩
  rintro time s ⟨k, addr, len⟩ hload hk
  exact ⟨loadDone_passes time s hload hk, fun _ => loadDone_fails time s hload hk, loadDramError_fails time s hload hk,
    fun _ => loadAbort_fails time s hload hk⟩

end Sys2Proof.Machine
end

section
/-! Arming of a swap (R78 to R80, R89, R90). -/

namespace Sys2Proof.Machine

/-! ### The target of a swap -/

theorem le_ceilDiv_mul (a : Nat) {r : Nat} (hr : 0 < r) : a ≤ ceilDiv a r * r := by
  have := Nat.lt_mul_div_succ (a + r - 1) hr
  rw [Nat.mul_add, Nat.mul_one, Nat.mul_comm] at this
  rw [ceilDiv]
  omega

/-- A boundary as far as the first armable one has its arming time ahead. -/
theorem armable_ahead {s : State} (hr : 0 < roundNs s) {lead d : Nat} (hd : firstArmable s lead ≤ d) :
    s.dt + lead ≤ s.gen.bdy + d * roundNs s := by
  rw [firstArmable, show max 1 (roundNs s) = roundNs s by omega] at hd
  have hrounds : (s.dt + lead - s.gen.bdy) / roundNs s + 1 ≤ d := by omega
  have hlast := Nat.lt_mul_div_succ (s.dt + lead - s.gen.bdy) hr
  have hmore := Nat.mul_le_mul_right (roundNs s) hrounds
  rw [Nat.mul_comm] at hlast
  omega

/-- `t` is `s` with a swap's target fixed whose arming time is not past. -/
structure Aimed (s t : State) (lead : Nat) : Prop where
  lead_eq : t.gen.armLead = lead
  arm_eq : t.gen.armDt = t.gen.tgtDt - lead
  ahead : s.dt + lead ≤ t.gen.tgtDt
  regs : ∀ a, a ≠ Reg.genArmTgtLo → a ≠ Reg.genArmTgtLo + 4 → a ≠ Reg.genIrqRaw → t.reg a = s.reg a
  tstore : t.tstore = s.tstore

theorem aimed_of_target (s : State) {lead tgt : Nat} (h : s.dt + lead ≤ tgt) (idx : Nat) :
    Aimed s ({ s with gen := { s.gen with armLead := lead, tgtDt := tgt, armDt := tgt - lead } }.setPair Reg.genArmTgtLo idx) lead :=
  ⟨rfl, rfl, h, fun _ hlo hhi _ => reg_setPair_ne _ _ _ hlo hhi, rfl⟩

theorem Aimed.raise {s t : State} {lead : Nat} (h : Aimed s t lead) (i : Nat) : Aimed s (t.raise Reg.genIrqRaw i) lead :=
  ⟨h.lead_eq, h.arm_eq, h.ahead, fun a hlo hhi hirq => (reg_raise_ne _ _ _ hirq).trans (h.regs a hlo hhi hirq), h.tstore⟩

/-- ARM fixes a target whose arming time is not past, with and without a generation current. -/
theorem aimSwap_aimed (s : State) (k lead : Nat) (next : Bool) (want : Nat) (hr : (curSlot s).isSome = false ∨ 0 < roundNs s) :
    Aimed s (aimSwap s k lead next want) lead := by
  unfold aimSwap
  split
  · exact aimed_of_target s (le_ceilDiv_mul _ (by omega)) _
  · next c hc =>
    extract_lets d m late d'
    have hround : 0 < roundNs s := hr.resolve_left (by simp [hc])
    have hfar : m ≤ d' := by
      simp only [d', late]
      split
      · exact le_rfl
      · next hd =>
        simp only [Bool.or_eq_true, decide_eq_true_eq, not_or] at hd
        omega
    have haimed := aimed_of_target s (armable_ahead hround hfar) (roundIdx s + d')
    split
    · exact haimed.raise 1
    · exact haimed

theorem Aimed.slotState {s t : State} {lead j : Nat} (h : Aimed s t lead) (hj : j < 4) : slotState t j = slotState s j :=
  slotState_of_reg (h.regs _ (ne_slot_of_outSlots (by decide) hj).1.symm (ne_slot_of_outSlots (by decide) hj).1.symm
    (ne_slot_of_outSlots (by decide) hj).1.symm)

/-! ### ARM_STAT -/

section
variable (s : State)

theorem fld_armResult {r : Nat} (hr : r < 8) : (armResult s r).fld Reg.genArmStat 0 3 = r :=
  (fld_setFld_same s _ 0 3 r (by decide)).trans (Nat.mod_eq_of_lt hr)

theorem slotState_armResult (r : Nat) {j : Nat} (hj : j < 4) : slotState (armResult s r) j = slotState s j :=
  slotState_of_reg (reg_setFld_ne _ _ _ _ _ (ne_slot_of_outSlots (by decide) hj).1.symm)

theorem slotPages_armResult (r j : Nat) : slotPages (armResult s r) j = slotPages s j := rfl

/-- ARM_STAT once a command has succeeded: no result, not locked, and ARMED as the command leaves it. -/
theorem armStat_setFlds (v : Nat) :
    let t := s.setFlds Reg.genArmStat [(0, 3, 0), (4, 1, 0), (8, 1, v)]
    t.fld Reg.genArmStat 0 3 = 0 ∧ t.bit Reg.genArmStat 4 = false ∧ t.bit Reg.genArmStat 8 = v.testBit 0 := by
  simp only [State.fld, State.bit, reg_setFlds_same, List.foldl_cons, List.foldl_nil]
  refine ⟨?_, ?_, ?_⟩
  · rw [bitsOf_putBits_out _ _ _ _ _ _ (by decide), bitsOf_putBits_out _ _ _ _ _ _ (by decide)]
    exact bitsOf_putBits_same _ _ _ _ (by decide)
  · rw [bitOf_putBits_out _ _ _ _ _ (by decide)]
    exact bitOf_putBits_in _ _ _ _ _ (by decide) (by decide)
  · exact bitOf_putBits_in _ _ _ _ _ (by decide) (by decide)

theorem slotState_setFlds_armStat (l : List (Nat × Nat × Nat)) {j : Nat} (hj : j < 4) :
    slotState (s.setFlds Reg.genArmStat l) j = slotState s j :=
  slotState_of_reg (reg_setFlds_ne _ _ _ (ne_slot_of_outSlots (by decide) hj).1.symm)

theorem slotPages_setFlds (a : Nat) (l : List (Nat × Nat × Nat)) (j : Nat) : slotPages (s.setFlds a l) j = slotPages s j := rfl

end

theorem armedSlot_eq_none {s : State} (h : ∀ j, j < 4 → slotState s j ≠ 3) : armedSlot s = none :=
  List.find?_eq_none.2 fun j hj => by simpa using h j (List.mem_range.1 hj)

theorem slotState_of_armedSlot {s : State} {k : Nat} (h : armedSlot s = some k) : slotState s k = 3 := by
  simpa using List.find?_some h

/-! ### The commands of ARM_CMD -/

/-- The state in which ARM fixes the target: the slot ARMED, and ARM_STAT told so. -/
def armSlot (s : State) (k : Nat) : State := (setSlotState s k 3).setFlds Reg.genArmStat [(0, 3, 0), (4, 1, 0), (8, 1, 1)]

section
variable {s : State} {k : Nat}

theorem slotState_armSlot {j : Nat} (hj : j < 4) : slotState (armSlot s k) j = if j = k then 3 else slotState s j :=
  (slotState_setFlds_armStat _ _ hj).trans (slotState_setSlotState s k 3 j)

theorem reg_armSlot_ne {a : Nat} (hk : k < 4) (ha : outSlots a) (hgen : a ≠ Reg.genGenStat) (hstat : a ≠ Reg.genArmStat) :
    (armSlot s k).reg a = s.reg a :=
  (reg_setFlds_ne _ _ _ hstat).trans (reg_setSlotState_ne s (ne_slot_of_outSlots ha hk).1 hgen)

theorem curSlot_armSlot : curSlot (armSlot s k) = curSlot s :=
  (curSlot_of_reg (reg_setFlds_ne _ _ _ (by decide))).trans (curSlot_setSlotState s k 3)

theorem armLead_armSlot (hk : k < 4) : armLead (armSlot s k) = armLead s := by
  rw [armLead, fld_of_reg (reg_armSlot_ne hk (by decide) (by decide) (by decide))]; rfl

theorem roundNs_armSlot (hk : k < 4) : roundNs (armSlot s k) = roundNs s :=
  regN_of_reg (reg_armSlot_ne hk (by decide) (by decide) (by decide))

theorem armCmdArm_of_ready (next : Bool) (hk : slotState s k = 2) (hnone : armedSlot s = none) : armCmdArm s k next =
    aimSwap (armSlot s k) k (armLead (armSlot s k)) next ((armSlot s k).pair Reg.genArmRoundLo) := by
  simp [armCmdArm, hk, hnone, armSlot]

/-- ARM of a READY slot aims the swap at a target whose arming time is not past. -/
theorem armCmdArm_aimed (hk4 : k < 4) (next : Bool) (hk : slotState s k = 2) (hnone : armedSlot s = none)
    (hr : (curSlot s).isSome = false ∨ 0 < roundNs s) : Aimed (armSlot s k) (armCmdArm s k next) (armLead s) := by
  rw [armCmdArm_of_ready next hk hnone, armLead_armSlot hk4]
  exact aimSwap_aimed _ _ _ _ _ (by rw [curSlot_armSlot, roundNs_armSlot hk4]; exact hr)

theorem armCmdDisarm_of_armed (hk : slotState s k = 3) : armCmdDisarm s k =
    if s.gen.armDt ≤ s.dt then armResult s 3 else (setSlotState s k 2).setFlds Reg.genArmStat [(0, 3, 0), (4, 1, 0), (8, 1, 0)] := by
  simp [armCmdDisarm, hk]

theorem armCmdDiscard_of_armed (hk : slotState s k = 3) : armCmdDiscard s k =
    if s.gen.armDt ≤ s.dt then armResult s 3 else (freeSlot s k).setFlds Reg.genArmStat [(0, 3, 0), (4, 1, 0), (8, 1, 0)] := by
  simp [armCmdDiscard, hk]

theorem armCmdDiscard_of_ready (hk : slotState s k = 2) : armCmdDiscard s k = armResult (freeSlot s k) 0 := by
  simp [armCmdDiscard, hk]

end

/-- From the arming time on a command that is refused leaves the slot ARMED with LOCKED. -/
theorem locked_of_kept {time : Nat} {k : Fin 4} {s u v : State} (hk : slotState s k = 3) (hu : PipeKept (s.at time) u)
    (hv : PipeKept (armResult u 3) v) : slotState v k = 3 ∧ v.fld Reg.genArmStat 0 3 = 3 ∧ v.gen = s.gen := by
  refine ⟨?_, (hv.fld (by decide) _ _).trans (fld_armResult u (by decide)), hv.gen.trans hu.gen⟩
  rw [hv.slotState k.isLt, slotState_armResult _ _ k.isLt, hu.slotState k.isLt]
  exact hk

section
variable {time : Nat} {init : Init} {k : Fin 4} {s : State} (hacc : accepts s init Reg.genArmCmd true = true)
include hacc

theorem arm_ready (next : Bool) (hk : slotState s k = 2)
    (hnone : ∀ j, j < 4 → slotState s j ≠ 3) (hr : (curSlot s).isSome = false ∨ 0 < roundNs s) :
    Runs (.arm time init k next) s fun t =>
      slotState t k = 3 ∧ t.fld Reg.genArmStat 0 3 = 0 ∧ t.bit Reg.genArmStat 8 = true ∧ t.bit Reg.genArmStat 4 = false ∧
      t.gen.armLead = armLead s ∧ t.gen.armDt = t.gen.tgtDt - armLead s ∧ (s.at time).dt + armLead s ≤ t.gen.tgtDt ∧
      (∀ j, j < 4 → j ≠ k.val → slotState t j = slotState s j) ∧ t.tstore = s.tstore := by
  refine runs_of_write rfl hacc fun u hu v hv => ?_
  have haimed := armCmdArm_aimed k.isLt next ((hu.slotState k.isLt).trans hk)
    (armedSlot_eq_none fun j hj => by rw [hu.slotState hj]; exact hnone j hj) (by rw [hu.curSlot, hu.roundNs]; exact hr)
  obtain ⟨hres, hlocked, harmed⟩ := armStat_setFlds (setSlotState u k 3) 1
  have hstat : v.reg Reg.genArmStat = (armSlot u k).reg Reg.genArmStat :=
    (hv.regs _ (by decide)).trans (haimed.regs _ (by decide) (by decide) (by decide))
  have hslots : ∀ j, j < 4 → slotState v j = if j = k then 3 else slotState s j := fun j hj => by
    rw [hv.slotState hj, haimed.slotState hj, slotState_armSlot hj, hu.slotState hj]; rfl
  have hlead : armLead u = armLead s := hu.armLead
  rw [hlead] at haimed
  obtain ⟨hleads, hdt, hahead, -, htstore⟩ := haimed
  have hnow : (armSlot u k).dt = (s.at time).dt := hu.dt
  rw [hnow] at hahead
  rw [← hv.gen] at hleads hdt hahead
  exact ⟨(hslots k k.isLt).trans (if_pos rfl), (fld_of_reg hstat _ _).trans hres, (bit_of_reg hstat).trans harmed,
    (bit_of_reg hstat).trans hlocked, hleads, hdt, hahead, fun j hj hjk => (hslots j hj).trans (if_neg hjk),
    hv.tstore.trans (htstore.trans hu.tstore)⟩

theorem disarm_early (hk : slotState s k = 3) (hdt : (s.at time).dt < s.gen.armDt) : Runs (.disarm time init k) s fun t =>
    slotState t k = 2 ∧ t.fld Reg.genArmStat 0 3 = 0 ∧ t.bit Reg.genArmStat 8 = false ∧ t.gen = s.gen := by
  refine runs_of_write rfl hacc fun u hu v hv => ?_
  rw [armCmdDisarm_of_armed ((hu.slotState k.isLt).trans hk), if_neg (by rw [hu.dt, hu.gen]; exact Nat.not_le.2 hdt)] at hv
  obtain ⟨hres, -, harmed⟩ := armStat_setFlds (setSlotState u k 2) 0
  refine ⟨?_, (hv.fld (by decide) _ _).trans hres, (hv.bit (by decide) _).trans harmed, hv.gen.trans hu.gen⟩
  rw [hv.slotState k.isLt, slotState_setFlds_armStat _ _ k.isLt, slotState_setSlotState, if_pos rfl]

theorem discard_early (hk : slotState s k = 3) (hdt : (s.at time).dt < s.gen.armDt) : Runs (.discard time init k) s fun t =>
    slotState t k = 0 ∧ t.fld Reg.genArmStat 0 3 = 0 ∧ t.bit Reg.genArmStat 8 = false ∧ slotPages t k = [] := by
  refine runs_of_write rfl hacc fun u hu v hv => ?_
  rw [armCmdDiscard_of_armed ((hu.slotState k.isLt).trans hk), if_neg (by rw [hu.dt, hu.gen]; exact Nat.not_le.2 hdt)] at hv
  obtain ⟨hres, -, harmed⟩ := armStat_setFlds (freeSlot u k) 0
  refine ⟨?_, (hv.fld (by decide) _ _).trans hres, (hv.bit (by decide) _).trans harmed, ?_⟩
  · rw [hv.slotState k.isLt, slotState_setFlds_armStat _ _ k.isLt, slotState_freeSlot, if_pos rfl]
  · rw [hv.slotPages, slotPages_setFlds, slotPages_freeSlot, if_pos rfl]

theorem disarm_late (hk : slotState s k = 3) (hdt : s.gen.armDt ≤ (s.at time).dt) : Runs (.disarm time init k) s fun t =>
    slotState t k = 3 ∧ t.fld Reg.genArmStat 0 3 = 3 ∧ t.gen = s.gen := by
  refine runs_of_write rfl hacc fun u hu v hv => ?_
  rw [armCmdDisarm_of_armed ((hu.slotState k.isLt).trans hk), if_pos (by rw [hu.dt, hu.gen]; exact hdt)] at hv
  exact locked_of_kept hk hu hv

theorem discard_late (hk : slotState s k = 3) (hdt : s.gen.armDt ≤ (s.at time).dt) : Runs (.discard time init k) s fun t =>
    slotState t k = 3 ∧ t.fld Reg.genArmStat 0 3 = 3 ∧ t.gen = s.gen := by
  refine runs_of_write rfl hacc fun u hu v hv => ?_
  rw [armCmdDiscard_of_armed ((hu.slotState k.isLt).trans hk), if_pos (by rw [hu.dt, hu.gen]; exact hdt)] at hv
  exact locked_of_kept hk hu hv

theorem discard_ready (hk : slotState s k = 2) : Runs (.discard time init k) s fun t =>
    slotState t k = 0 ∧ t.fld Reg.genArmStat 0 3 = 0 ∧ slotPages t k = [] := by
  refine runs_of_write rfl hacc fun u hu v hv => ?_
  rw [armCmdDiscard_of_ready ((hu.slotState k.isLt).trans hk)] at hv
  refine ⟨?_, (hv.fld (by decide) _ _).trans (fld_armResult _ (by decide)), ?_⟩
  · rw [hv.slotState k.isLt, slotState_armResult _ _ k.isLt, slotState_freeSlot, if_pos rfl]
  · rw [hv.slotPages, slotPages_armResult, slotPages_freeSlot, if_pos rfl]

end

/-! ### The arming time -/

/-- The swap cancelled and its slot freed (R80, R486). -/
def cancelArm (s : State) (k : Nat) : State :=
  raiseFault (((freeSlot s k).setFlds Reg.genArmStat [(4, 1, 0), (8, 1, 0)]).raise Reg.genIrqRaw 7) 8 k .none 0

theorem exec_armingTime {time : Nat} {tableError : Bool} {s : State} {k : Nat} (hk : armedSlot s = some k) (hup : islUp s 6 = true)
    (hdt : s.gen.armDt ≤ (s.at time).dt) (hlock : s.bit Reg.genArmStat 4 = false) :
    exec (.armingTime time tableError) s = done s (if tableError || (s.gen.bad ++ s.gen.lost).any (fun b => decide (b.1 = k)) then
      cancelArm (s.at time) k else (s.at time).setBit Reg.genArmStat 4 true) := by
  have hkat : armedSlot (s.at time) = some k := hk
  have hgo : ¬(islUp (s.at time) 6 = false ∨ (s.at time).dt < (s.at time).gen.armDt ∨ (s.at time).bit Reg.genArmStat 4 = true) := by
    rintro (hdown | hearly | hset)
    · exact absurd (hdown.symm.trans hup) (by decide)
    · exact absurd hdt (Nat.not_le.2 hearly)
    · exact absurd (hset.symm.trans hlock) (by decide)
  show execArmingTime time tableError s = _
  simp only [execArmingTime, hkat, if_neg hgo]
  rfl

theorem cancelArm_spec (s : State) {k : Nat} (hk : k < 4) : slotState (cancelArm s k) k = 0 ∧
    (cancelArm s k).bit Reg.genArmStat 8 = false ∧ (cancelArm s k).bit Reg.genIrqRaw 7 = true ∧
    (cancelArm s k).bit Reg.fltFltStat 8 = true := by
  have hkept := raiseFault_pipeKept (((freeSlot s k).setFlds Reg.genArmStat [(4, 1, 0), (8, 1, 0)]).raise Reg.genIrqRaw 7)
    (cls := 8) (by decide) k .none 0
  refine ⟨?_, ?_, (hkept.bit (by decide) _).trans (bit_raise_same _ _ _ (by decide)), fltStat_raiseFault _ (by decide) _ _ _⟩
  · rw [cancelArm, hkept.slotState hk, slotState_of_reg (reg_raise_ne _ _ _ (ne_slot_of_outSlots (by decide) hk).1.symm),
      slotState_setFlds_armStat _ _ hk, slotState_freeSlot, if_pos rfl]
  · rw [cancelArm, hkept.bit (by decide), bit_of_reg (reg_raise_ne _ _ _ (by decide)), State.bit, reg_setFlds_same]
    exact bitOf_putBits_in _ _ _ _ _ (by decide) (by decide)

section
variable {time : Nat} {s : State} {k : Nat} (hk : armedSlot s = some k) (hup : islUp s 6 = true)
  (hdt : s.gen.armDt ≤ (s.at time).dt) (hlock : s.bit Reg.genArmStat 4 = false)
include hk hup hdt hlock

theorem armingTime_locks (hsound : (s.gen.bad ++ s.gen.lost).any (fun b => decide (b.1 = k)) = false) :
    Runs (.armingTime time false) s fun t => slotState t k = 3 ∧ t.bit Reg.genArmStat 4 = true ∧ t.gen = s.gen := by
  have hexec := exec_armingTime (tableError := false) hk hup hdt hlock
  rw [hsound] at hexec
  refine runs_of_kept hexec fun v hv => ⟨?_, (hv.bit (by decide) _).trans (bit_setBit_same _ _ _ _ (by decide)), hv.gen⟩
  have hk4 : k < 4 := List.mem_range.1 (List.mem_of_find?_eq_some hk)
  rw [hv.slotState hk4]
  exact (slotState_of_reg (reg_setBit_ne _ _ _ _ (ne_slot_of_outSlots (by decide) hk4).1.symm)).trans (slotState_of_armedSlot hk)

theorem armingTime_cancels : Runs (.armingTime time true) s fun t =>
    slotState t k = 0 ∧ t.bit Reg.genArmStat 8 = false ∧ t.bit Reg.genIrqRaw 7 = true ∧ t.bit Reg.fltFltStat 8 = true := by
  have hk4 : k < 4 := List.mem_range.1 (List.mem_of_find?_eq_some hk)
  obtain ⟨hfree, harmed, hirq, hflt⟩ := cancelArm_spec (s.at time) hk4
  have hkept := finish_pipeKept s (cancelArm (s.at time) k)
  exact runs_of_done (exec_armingTime (tableError := true) hk hup hdt hlock) ⟨(hkept.slotState hk4).trans hfree,
    (hkept.bit (by decide) _).trans harmed, (hkept.bit (by decide) _).trans hirq,
    (bit_of_reg (finish_reg s _ _ (by decide))).trans hflt⟩

end

/-- Settles O15: a lemma for each command, before and from the arming time, and for ARMING_TIME. -/
theorem armingFixesALaterBoundary : Obligations.ArmingFixesALaterBoundary := by
  unfold Obligations.ArmingFixesALaterBoundary
  intro time init k s hacc
  exact ⟨fun next hk hnone hr => arm_ready hacc next hk hnone hr,
    fun hk hdt => ⟨disarm_early hacc hk hdt, discard_early hacc hk hdt⟩,
    fun hk hdt => ⟨disarm_late hacc hk hdt, discard_late hacc hk hdt⟩,
    fun hk => discard_ready hacc hk,
    fun hk hup hdt hlock => ⟨fun hsound => armingTime_locks hk hup hdt hlock hsound, armingTime_cancels hk hup hdt hlock⟩⟩

end Sys2Proof.Machine
end

section
/-! Lock schedules, freed slots, page queries and the scrub (R49, R50, R78, R84, R91, R92, R486, R535). -/

namespace Sys2Proof.Machine

/-! ### Players -/

/-- The gates that a wired player opens now (R49, R54). -/
def playGates (s : State) (p : Nat) : Nat :=
  match (s.player p).slot with
  | none => 0
  | some k => lockGates (slotImg s k) p (nowEntry s p).1

section
variable (s : State) (p : Nat)

/-- Playing sets a player's gates and its PLAY_STAT. -/
theorem playWired_eq : ∃ l, playWired s p = (s.setPlayer p { s.player p with gates := playGates s p }).setFlds (Reg.genPlayStat p) l := by
  unfold playWired
  dsimp only
  split
  · next hslot =>
    have hgates : playGates s p = 0 := by rw [playGates, hslot]
    exact ⟨_, by rw [hgates]⟩
  · next k hslot =>
    have hgates : playGates s p = lockGates (slotImg s k) p (nowEntry s p).1 := by rw [playGates, hslot]
    exact ⟨_, by rw [hgates]⟩

theorem player_playWired (q : Nat) : (playWired s p).player q =
    if q = p then { s.player p with gates := playGates s p } else s.player q := by
  obtain ⟨l, hl⟩ := playWired_eq s p
  rw [hl]
  exact player_setPlayer s p _ q

theorem playWired_tstore : (playWired s p).tstore = s.tstore := by
  obtain ⟨l, hl⟩ := playWired_eq s p
  rw [hl]
  rfl

theorem reviewHeld_gen : (reviewHeld s).gen = s.gen := each_ind s (fun t => t.gen = s.gen) _ _ rfl fun _ _ _ ht => ht

theorem player_of_gen {s t : State} (h : t.gen = s.gen) (q : Nat) : t.player q = s.player q := by
  rw [State.player, h]; rfl

theorem player_reviewDeficits (q : Nat) : (reviewDeficits s).player q = s.player q := rfl

end

theorem lockHandover_starts (time : Nat) (p : Fin 66) (s : State) (h : Nat) (hand : (s.player p).hand = some h) (k : Nat)
    (hcur : curSlot s = some k) (hdt : h ≤ (s.at time).dt) :
    Runs (.lockHandover time p) s fun t => (t.player p).slot = some k ∧ (t.player p).base = h ∧ (t.player p).hand = none ∧
      ∀ q, q ≠ p.val → t.player q = s.player q := by
  have hhand : ((s.at time).player p).hand = some h := hand
  have hcurat : curSlot (s.at time) = some k := hcur
  have hexec : exec (.lockHandover time p) s = done s (reviewDeficits (reviewHeld (playWired ((s.at time).setPlayer p
      { (s.at time).player p with slot := some k, base := h, hand := none }) p))) := by
    show execLockHandover time p s = _
    simp only [execLockHandover, hhand, hcurat, if_pos hdt]
  refine runs_of_kept hexec fun v hv => ?_
  have hplayer : ∀ q, v.player q = (playWired ((s.at time).setPlayer p
      { (s.at time).player p with slot := some k, base := h, hand := none }) p).player q := fun q => by
    rw [player_of_gen hv.gen, player_reviewDeficits, player_of_gen (reviewHeld_gen _)]
  simp only [hplayer, player_playWired, player_setPlayer, if_true]
  refine ⟨trivial, trivial, trivial, fun q hq => ?_⟩
  rw [if_neg hq, if_neg hq]
  rfl

theorem gateIntervalStart_plays (time : Nat) (p : Fin 66) (s : State) (hport : islUp s (portIsland p) = true) (hup : islUp s 6 = true) :
    Runs (.gateIntervalStart time p) s fun t =>
      (t.player p).slot = (s.player p).slot ∧ (t.player p).gates = playGates (s.at time) p ∧
      (∀ q, q ≠ p.val → t.player q = s.player q) ∧ t.tstore = s.tstore := by
  have hgo : (islUp (s.at time) (portIsland p) && islUp (s.at time) 6) = true := Bool.and_eq_true_iff.2 ⟨hport, hup⟩
  have hexec : exec (.gateIntervalStart time p) s = done s (reviewDeficits (playWired (s.at time) p)) := by
    show execGateIntervalStart time p s = _
    simp only [execGateIntervalStart, hgo, if_true]
  refine runs_of_kept hexec fun v hv => ?_
  have hplayer : ∀ q, v.player q = (playWired (s.at time) p).player q := fun q => player_of_gen hv.gen q
  simp only [hplayer, player_playWired, if_true]
  exact ⟨rfl, trivial, fun q hq => if_neg hq, hv.tstore.trans (playWired_tstore _ _)⟩

/-! ### Freed slots -/

theorem freed_frees (time : Nat) (k : Fin 4) (s : State) (hup : islUp s 6 = true) (hstate : slotState s k = 5)
    (href : s.regN (Reg.genSlotRef k) = 0) (hheld : s.bit (Reg.genSlotStat k) 16 = false) :
    Runs (.freed time k) s fun t => slotState t k = 0 ∧ slotPages t k = [] ∧ t.bit Reg.genIrqRaw 5 = true ∧
      ∀ j, j < 4 → j ≠ k.val → slotState t j = slotState s j ∧ slotPages t j = slotPages s j := by
  have hexec : exec (.freed time k) s = done s ((freeSlot (s.at time) k).raise Reg.genIrqRaw 5) := by
    show execFreed time k s = _
    rw [execFreed, if_pos ⟨hup, hstate, href, hheld⟩]
  refine runs_of_kept hexec fun v hv => ?_
  have hslots : ∀ j, j < 4 → slotState v j = if j = k then 0 else slotState s j := fun j hj => by
    rw [hv.slotState hj, slotState_of_reg (reg_raise_ne _ _ _ (ne_slot_of_outSlots (by decide) hj).1.symm), slotState_freeSlot]
    rfl
  have hpages : ∀ j, slotPages v j = if j = k then [] else slotPages s j := fun j => by
    rw [hv.slotPages, slotPages_of_gen (raise_gen _ _ _), slotPages_freeSlot]
    rfl
  exact ⟨(hslots k k.isLt).trans (if_pos rfl), (hpages k).trans (if_pos rfl), (hv.bit (by decide) _).trans (bit_raise_same _ _ _ (by decide)),
    fun j hj hjk => ⟨(hslots j hj).trans (if_neg hjk), (hpages j).trans (if_neg hjk)⟩⟩

/-! ### Page queries -/

/-- The place of page `i` of slot `k`, as PAGE_LOC gives it (R535). -/
def pageAt (s : State) (k i : Nat) : Word :=
  if slotState s k = 0 then 0
  else match (slotPages s k)[i]? with
    | none => 0
    | some p => BitVec.ofNat 32 (p + 2 ^ 31)

theorem pageLoc_eq (s : State) : pageLoc s = pageAt s (s.fld Reg.genPageQry 0 2) (s.fld Reg.genPageQry 8 12) := rfl

theorem pageAt_congr {s t : State} {k : Nat} (hs : slotState t k = slotState s k) (hp : slotPages t k = slotPages s k) (i : Nat) :
    pageAt t k i = pageAt s k i := by
  rw [pageAt, pageAt, hs, hp]

/-- A field that a merge takes over whole. -/
theorem bitsOf_mergeMask_in (old new : Word) {m lo len : Nat} (h : ∀ i, i < len → lo + i < 32 ∧ m.testBit (lo + i) = true) :
    bitsOf (mergeMask old new m) lo len = bitsOf new lo len := by
  apply Nat.eq_of_testBit_eq
  intro i
  rw [testBit_bitsOf, testBit_bitsOf, getLsbD_mergeMask]
  by_cases hi : i < len
  · obtain ⟨h32, hm⟩ := h i hi
    simp [h32, hm]
  · simp [hi]

/-- PAGE_QRY takes the fields SLOT and PAGE of what is written. -/
theorem plainWrite_pageQry (s : State) (d : Word) :
    plainWrite s Reg.genPageQry d = s.setReg Reg.genPageQry (mergeMask (s.reg Reg.genPageQry) d 0xFFF03) := rfl

theorem pageLoc_plainWrite (s : State) (d : Word) : pageLoc (plainWrite s Reg.genPageQry d) = pageAt s (bitsOf d 0 2) (bitsOf d 8 12) := by
  have hslot : (plainWrite s Reg.genPageQry d).fld Reg.genPageQry 0 2 = bitsOf d 0 2 := by
    rw [plainWrite_pageQry, State.fld, reg_setReg_same, bitsOf_mergeMask_in _ _ (by decide)]
  have hpage : (plainWrite s Reg.genPageQry d).fld Reg.genPageQry 8 12 = bitsOf d 8 12 := by
    rw [plainWrite_pageQry, State.fld, reg_setReg_same, bitsOf_mergeMask_in _ _ (by decide)]
  rw [pageLoc_eq, hslot, hpage]
  rw [plainWrite_pageQry]
  refine pageAt_congr ?_ (by rfl) _
  exact slotState_of_reg (reg_setReg_ne _ _ (ne_slot_of_outSlots (by decide) (nbits_lt _ 0 2)).1.symm)

theorem PipeKept.pageLoc {s t : State} (h : PipeKept s t) : pageLoc t = pageLoc s := by
  rw [pageLoc_eq, pageLoc_eq, h.fld (by decide), h.fld (by decide)]
  exact pageAt_congr (h.slotState (nbits_lt _ 0 2)) (h.slotPages _) _

theorem pageQry_names (time : Nat) (init : Init) (d : Word) (s : State) (hacc : accepts s init Reg.genPageQry true = true) :
    Runs (.pageQry time init d) s fun t => t.gen = s.gen ∧ pageLoc t = pageAt s (bitsOf d 0 2) (bitsOf d 8 12) := by
  refine runs_of_write rfl hacc fun u hu v hv => ⟨hv.gen.trans hu.gen, ?_⟩
  rw [hv.pageLoc, pageLoc_plainWrite]
  exact pageAt_congr (hu.slotState (nbits_lt _ 0 2)) (hu.slotPages _) _

/-! ### The scrub -/

/-- A damaged page is marked, and the fault raised. -/
theorem tableScrubPass_marks (time : Nat) (k : Fin 4) (p : Fin 768) (s : State) (hen : s.bit Reg.genGenCtrl 0 = true)
    (hup : islUp s 6 = true) (hstate : 2 ≤ slotState s k) (hp : p.val < (slotPages s k).length)
    (hnew : (s.gen.bad ++ s.gen.lost).contains (k.val, p.val) = false) :
    Runs (.tableScrubPass time (some (k, p))) s fun t =>
      t.gen = { s.gen with bad := s.gen.bad ++ [(k.val, p.val)] } ∧ t.bit Reg.fltFltStat 8 = true ∧ slotState t k = slotState s k := by
  have hgo : ((s.at time).bit Reg.genGenCtrl 0 && islUp (s.at time) 6) = true := Bool.and_eq_true_iff.2 ⟨hen, hup⟩
  have hexec : exec (.tableScrubPass time (some (k, p))) s = done s (raiseFault
      { s.at time with gen := { s.gen with bad := s.gen.bad ++ [(k.val, p.val)] } } 8 k .refetch p) := by
    show execTableScrubPass time (some (k, p)) s = _
    simp only [execTableScrubPass, hgo, if_true]
    rw [damagePage, if_pos ⟨hstate, hp, hnew⟩]
    rfl
  have hkept := (raiseFault_pipeKept { s.at time with gen := { s.gen with bad := s.gen.bad ++ [(k.val, p.val)] } } (cls := 8) (by decide)
    k .refetch p).trans (finish_pipeKept s _)
  exact runs_of_done hexec ⟨hkept.gen, (bit_of_reg (finish_reg s _ _ (by decide))).trans (fltStat_raiseFault _ (by decide) _ _ _),
    hkept.slotState k.isLt⟩

theorem tableScrubPass_sound (time : Nat) (s : State) : Runs (.tableScrubPass time none) s fun t => t.gen = s.gen ∧
    ∀ q, noteReg q = false → t.reg q = s.reg q :=
  runs_of_done rfl ⟨(finish_pipeKept s (s.at time)).gen, finish_reg s (s.at time)⟩

/-- Settles O17: a lemma for each of its commands. -/
theorem playersFollowTheLockSchedule : Obligations.PlayersFollowTheLockSchedule := by
  unfold Obligations.PlayersFollowTheLockSchedule
  exact ⟨lockHandover_starts, gateIntervalStart_plays, freed_frees, pageQry_names, tableScrubPass_marks, tableScrubPass_sound⟩

end Sys2Proof.Machine
end

section
/-! Acceptance into the packet pipeline and dispatch to the engines (R34, R55, R81, R98 to R100). -/

namespace Sys2Proof.Machine

/-! ### The writers of the ingress pounds leave the pipeline as it is -/

namespace PipeKept

variable {s t : State}

theorem setReg (h : PipeKept s t) {a : Nat} (v : Word) (ha : ¬inPipe a) : PipeKept s (t.setReg a v) :=
  h.trans ⟨rfl, rfl, rfl, rfl, fun _ hq => reg_setReg_ne _ _ (by rintro rfl; exact ha hq)⟩

theorem each {α : Type} (h : PipeKept s t) (l : List α) {f : α → State → State}
    (hf : ∀ x ∈ l, ∀ u, PipeKept s u → PipeKept s (f x u)) : PipeKept s (t.each l f) :=
  each_ind t (fun u => PipeKept s u) l f h hf

theorem setMac (h : PipeKept s t) (p : Nat) (x : PortState) : PipeKept s (t.setMac p x) := h.trans ⟨rfl, rfl, rfl, rfl, fun _ _ => rfl⟩

theorem setRadio (h : PipeKept s t) (x : Nat) (r : RdState) : PipeKept s (t.setRadio x r) :=
  h.trans ⟨rfl, rfl, rfl, rfl, fun _ _ => rfl⟩

theorem setTxs (h : PipeKept s t) (l : List CpuTx) : PipeKept s (setTxs t l) := h.trans ⟨rfl, rfl, rfl, rfl, fun _ _ => rfl⟩

theorem poundPush (h : PipeKept s t) {p : Nat} (hp : p < 54) (w : PWord) : PipeKept s (poundPush t p w) :=
  h.trans (((PoundOnly.refl t).poundPush w).pipeKept hp)

theorem rxDrain {p : Nat} (hp : p < 66) (n : Nat) : ∀ {t : State}, PipeKept s t → PipeKept s (rxDrain t p n) := by
  have hpound : inPound p < 54 := by unfold inPound; split <;> omega
  induction n with
  | zero => intro t h; exact h
  | succ n ih =>
    intro t h
    unfold Machine.rxDrain
    dsimp only
    split
    · exact h
    · next w r _ => exact .ite (fun _ => ih ((h.setMac _ _).poundPush hpound w)) fun _ => h

theorem rxDrainAll (h : PipeKept s t) {q : Nat} : PipeKept s (rxDrainAll t q) := by
  unfold Machine.rxDrainAll
  extract_lets ports
  refine h.each _ fun p hp u hu => hu.rxDrain ?_ _
  simp only [ports] at hp
  split at hp
  · obtain ⟨j, hj, rfl⟩ := List.mem_map.1 hp
    have := List.mem_range.1 hj
    omega
  · split at hp
    · exact List.mem_singleton.1 hp ▸ by decide
    · split at hp
      · exact List.mem_singleton.1 hp ▸ by decide
      · exact absurd hp List.not_mem_nil

theorem radioDrain {x : Nat} (hx : x < 3) (n : Nat) : ∀ {t : State}, PipeKept s t → PipeKept s (radioDrain t x n) := by
  induction n with
  | zero => intro t h; exact h
  | succ n ih =>
    intro t h
    unfold Machine.radioDrain
    split
    · exact h
    · next w r _ => exact .ite (fun _ => ih ((h.setRadio _ _).poundPush (by omega) w)) fun _ => h

theorem dmaUse (h : PipeKept s t) {q : Nat} (hq : q < 8) (a n : Nat) (write : Bool) : PipeKept s (dmaUse t q a n write) := by
  have hlines : RegsOnly inPmu t (pmuLines t 9 4 a n write) := (RegsOnly.refl t).each fun _ _ _ hu => hu.pmuEvent _ _ _
  have hseen : PipeKept s (if q = 0 then pmuLines t 9 4 a n write else t) :=
    .ite (fun _ => h.trans (hlines.pipeKept fun a ha hp => by simp only [inPmu, inPipe] at ha hp; omega)) fun _ => h
  exact .ite (fun _ => hseen.trans ((Traffic.refl _).dramUse hq _ _ _).pipeKept) fun _ => h

theorem dmaWrite (h : PipeKept s t) {q : Nat} (hq : q < 8) (l2 : Bool) (a : Nat) (bs : List Byte) :
    PipeKept s (dmaWrite t q l2 a bs) := by
  have hused := h.dmaUse hq a bs.length true
  unfold Machine.dmaWrite
  exact .ite (fun _ => h.trans (dmaFail_pipeKept t a _)) fun _ => .ite (fun _ => hused) fun _ =>
    .ite (fun _ => hused.trans ⟨rfl, rfl, rfl, rfl, fun _ _ => rfl⟩) fun _ => hused.trans ⟨rfl, rfl, rfl, rfl, fun _ _ => rfl⟩

theorem txBackAll (h : PipeKept s t) (r : Ring) (hr : r.port < 8) (status n : Nat) : PipeKept s (txBackAll t r status n) :=
  h.each _ fun _ _ _ hu => hu.dmaWrite hr _ _ _

theorem cpuBack (h : PipeKept s t) (k status : Nat) : PipeKept s (cpuBack t k status) := by
  unfold Machine.cpuBack
  split
  · exact h
  · next x _ =>
    extract_lets ring moved back
    have hback : PipeKept s back := (h.txBackAll moved (Nat.zero_lt_succ 7) status x.count).setReg (a := Reg.ccCcIrqRaw) _ (by decide)
    exact ((hback.setTxs _).setTxs _).setReg (a := Reg.ccTxHead) _ (by decide)

theorem cpuPush (l : List PWord) : ∀ {t : State}, PipeKept s t → PipeKept s (cpuPush t l).2 := by
  induction l with
  | nil => intro t h; exact h
  | cons w r ih =>
    intro t h
    unfold Machine.cpuPush
    split
    · exact ih (h.poundPush (by decide) w)
    · exact h

theorem cpuFeed (h : PipeKept s t) : PipeKept s (cpuFeed t) := by
  unfold Machine.cpuFeed
  split
  · exact h
  · split
    · exact h
    · next x _ =>
      have hfed := (cpuPush x.words h).setTxs
      exact .ite (fun _ => (hfed _).cpuBack _ _) fun _ => hfed _

theorem refill (h : PipeKept s t) (p : Nat) : PipeKept s (refill t p) :=
  .ite (fun _ => h.cpuFeed) fun _ => .ite (fun hp => radioDrain (by omega) _ h) fun _ => h.rxDrainAll

theorem refillAll (h : PipeKept s t) : PipeKept s (refillAll t) := h.each _ fun p _ _ hu => hu.refill p

end PipeKept

theorem recordFrame_pipeKept (s : State) (port : Nat) (info : Meta) (dt : Nat) (data : List Byte) :
    PipeKept s (recordFrame s port info dt data) :=
  .ite (fun _ => ((Aside.refl s).tapRecord (by decide) _ _ _ _ _).pipeKept) fun _ => .refl s

theorem eatWords_poundOnly (s : State) (p n : Nat) : PoundOnly p s (eatWords s p n) := by
  induction n generalizing s with
  | zero => exact .refl s
  | succ n ih => exact ((PoundOnly.refl s).poundTake.setPound _).trans (ih _)

/-! ### A packet offered by a source -/

theorem ingressPound_lt {i : Nat} (hi : i < 14) : ingressPound i < 54 := by
  unfold ingressPound
  split_ifs <;> omega

/-- The packet at the head of a source's pound read, and counted by PP_RX (R98). -/
def offered (s : State) (i : Nat) : State :=
  (eatWords s (ingressPound i) (headWords s (ingressPound i)).1.length).addPair Reg.ppRxLo 1

section
variable (s : State) {i : Nat} (hi : i < 14)
include hi

theorem eatWords_pipeKept (n : Nat) : PipeKept s (eatWords s (ingressPound i) n) :=
  (eatWords_poundOnly s _ n).pipeKept (ingressPound_lt hi)

theorem reg_offered {a : Nat} (ha : inPipe a) (hlo : a ≠ Reg.ppRxLo) (hhi : a ≠ Reg.ppRxLo + 4) : (offered s i).reg a = s.reg a :=
  (reg_addPair_ne _ _ _ hlo hhi).trans ((eatWords_pipeKept s hi _).regs a ha)

theorem offered_pp : (offered s i).pp = s.pp := by
  rw [offered, addPair_pp, (eatWords_pipeKept s hi _).pp]

theorem offered_now48 : (offered s i).now48 = s.now48 := by
  rw [State.now48, offered, addPair_dt, (eatWords_pipeKept s hi _).dt]; rfl

theorem pair_offered : (offered s i).pair Reg.ppRxLo = (s.pair Reg.ppRxLo + 1) % 2 ^ 48 := by
  rw [offered, pair_addPair_same, (eatWords_pipeKept s hi _).pair (by decide) (by decide)]

theorem curSlot_offered : curSlot (offered s i) = curSlot s := curSlot_of_reg (reg_offered s hi (by decide) (by decide) (by decide))

theorem curTag_offered : curTag (offered s i) = curTag s :=
  fld_of_reg (reg_offered s hi (by decide) (by decide) (by decide)) 8 4

theorem reg_offered_slot {k : Nat} (hk : k < 4) : (offered s i).reg (Reg.genSlotStat k) = s.reg (Reg.genSlotStat k) ∧
    (offered s i).reg (Reg.genSlotRef k) = s.reg (Reg.genSlotRef k) := by
  have hlo := ne_slot_of_outSlots (a := Reg.ppRxLo) (by decide) hk
  have hhi := ne_slot_of_outSlots (a := Reg.ppRxLo + 4) (by decide) hk
  exact ⟨reg_offered s hi (inPipe_slotStat hk) hlo.1.symm hhi.1.symm, reg_offered s hi (inPipe_slotRef hk) hlo.2.2.1.symm hhi.2.2.1.symm⟩

theorem tagSlot_offered (tag : Nat) : tagSlot (offered s i) tag = tagSlot s tag :=
  find_slot_congr fun k hk => by
    rw [slotState_of_reg (reg_offered_slot s hi hk).1, slotTag, fld_of_reg (reg_offered_slot s hi hk).1]; rfl

end

/-- The port of the packet that a source offers (R99). -/
def headPort (s : State) (i : Nat) : Nat := sourcePort i (wordsMeta (headWords s (ingressPound i)).1)

/-- The offered packet in the pipeline (R81, R99). -/
def headAdmitted (s : State) (i : Nat) : State :=
  admitFrame (offered s i) i (headPort s i) (headPort s i) 0 (curTag (offered s i)) false
    (wordsMeta (headWords s (ingressPound i)).1) (wordsData (headWords s (ingressPound i)).1) (headWords s (ingressPound i)).2

/-- The offered packet dropped because no generation is current (R55), as far as its record. -/
def headDropped (s : State) (i : Nat) : State :=
  let t := (nextSeq (offered s i) (headPort s i)).2
  recordFrame (dropNoGen t) (headPort s i) (wordsMeta (headWords s (ingressPound i)).1) t.now48 (wordsData (headWords s (ingressPound i)).1)

/-- The source of a packet in part left open for the rest of it. -/
def leftOpen (s : State) (i : Nat) : State :=
  setOpen { s with pp := { s.pp with nextFid := s.pp.nextFid + 1 } } i (some s.pp.nextFid)

/-- A packet without ABORT is admitted where a generation is current, and dropped where none is. -/
theorem acceptPound_of_sound {s : State} {i : Nat} (hi : i < 14)
    (habort : (headWords s (ingressPound i)).1.getLast?.any (fun w => w.last && w.abort) = false) : acceptPound s i =
      if (curSlot s).isSome then headAdmitted s i
      else if (headWords s (ingressPound i)).2 then headDropped s i else leftOpen (headDropped s i) i := by
  have hcur : curSlot (offered s i) = curSlot s := curSlot_offered s hi
  rw [← hcur, headAdmitted, leftOpen, headDropped, headPort]
  rcases hw : headWords s (ingressPound i) with ⟨ws, whole⟩
  simp only [hw] at habort
  simp only [acceptPound, offered, hw]
  cases hlast : ws.getLast? with
  | none => cases curSlot ((eatWords s (ingressPound i) ws.length).addPair Reg.ppRxLo 1) <;> rfl
  | some w =>
    rw [hlast, Option.any_some] at habort
    simp only [habort, Bool.false_eq_true, if_false]
    cases curSlot ((eatWords s (ingressPound i) ws.length).addPair Reg.ppRxLo 1) <;> rfl

/-! ### What admission and a drop leave -/

section
variable (s : State)

theorem refTag_pp (tag n : Nat) : (refTag s tag n).pp = s.pp := by
  unfold refTag
  split <;> rfl

theorem refTag_dt (tag n : Nat) : (refTag s tag n).dt = s.dt := by
  unfold refTag
  split <;> rfl

theorem reg_refTag_ne (tag n : Nat) {a : Nat} (ha : outSlots a) (hg : a ≠ Reg.genGenStat) : (refTag s tag n).reg a = s.reg a := by
  unfold refTag
  split
  · next k hk => exact reg_setNat_ne _ _ _ (ne_slot_of_outSlots ha (List.mem_range.1 (List.mem_of_find?_eq_some hk))).2.2.1
  · exact reg_setFld_ne _ _ _ _ _ hg

theorem slotRef_refTag {tag k : Nat} (hk : tagSlot s tag = some k) (n : Nat) :
    (refTag s tag n).regN (Reg.genSlotRef k) = (s.regN (Reg.genSlotRef k) + n) % 2 ^ 32 := by
  simp only [refTag, hk, regN_setNat_same]

end

/-- The frame that admission gives the pipeline on its first pass (R99). -/
def firstPass (s : State) (src port inPort tunnel tag : Nat) (info : Meta) (data : List Byte) (whole : Bool) : PpFrame :=
  { fid := s.pp.nextFid, src := src, port := port, seq := bankGet (fun _ => 0) s.pp.seqs port, tag := tag, second := false,
    inPort := inPort, tunnel := tunnel, info := info, dt := s.now48, data := data, wholeAt := whole, whole := whole }

section
variable (s : State) (src port inPort tunnel tag : Nat) (info : Meta) (data : List Byte) (whole : Bool)

/-- The pipeline with a frame admitted on its first pass, before its record. -/
def withFrame : State :=
  let t := refTag (nextSeq s port).2 tag 1
  { t with pp := { t.pp with
      frames := t.pp.frames ++ [{ firstPass s src port inPort tunnel tag info data whole with fid := t.pp.nextFid, dt := t.now48 }],
      nextFid := t.pp.nextFid + 1 } }

theorem admitFrame_eq : admitFrame s src port inPort tunnel tag false info data whole =
    if whole then recordFrame (withFrame s src port inPort tunnel tag info data whole) port info
        (withFrame s src port inPort tunnel tag info data whole).now48 data
      else setOpen (withFrame s src port inPort tunnel tag info data whole) src (some (refTag (nextSeq s port).2 tag 1).pp.nextFid) := rfl

theorem withFrame_pp : (withFrame s src port inPort tunnel tag info data whole).pp = { (nextSeq s port).2.pp with
    frames := s.pp.frames ++ [firstPass s src port inPort tunnel tag info data whole], nextFid := s.pp.nextFid + 1 } := by
  simp only [withFrame, refTag_pp, State.now48, refTag_dt]
  rfl

/-- Admission on the first pass: the frame behind those of the pipeline, and its tag's reference (R81, R99). -/
theorem admitFrame_admits :
    let t := admitFrame s src port inPort tunnel tag false info data whole
    t.pp.frames = s.pp.frames ++ [firstPass s src port inPort tunnel tag info data whole] ∧ t.pp.nextFid = s.pp.nextFid + 1 ∧
      t.pp.inRot = s.pp.inRot ∧ ∀ a, inPipe a → t.reg a = (refTag (nextSeq s port).2 tag 1).reg a := by
  have hpp := withFrame_pp s src port inPort tunnel tag info data whole
  rw [admitFrame_eq]
  cases whole with
  | false => exact ⟨congrArg (·.frames) hpp, congrArg (·.nextFid) hpp, congrArg (·.inRot) hpp, fun _ _ => rfl⟩
  | true =>
    have hkept := recordFrame_pipeKept (withFrame s src port inPort tunnel tag info data true) port info
      (withFrame s src port inPort tunnel tag info data true).now48 data
    exact ⟨congrArg (·.frames) (hkept.pp.trans hpp), congrArg (·.nextFid) (hkept.pp.trans hpp), congrArg (·.inRot) (hkept.pp.trans hpp),
      fun a ha => hkept.regs a ha⟩

end

section
variable (s : State) {i : Nat} (hi : i < 14)
include hi

/-- What the admission of an offered packet leaves. -/
theorem headAdmitted_spec :
    let ws := (headWords s (ingressPound i)).1
    let whole := (headWords s (ingressPound i)).2
    let t := headAdmitted s i
    t.pp.frames = s.pp.frames ++
        [firstPass s i (headPort s i) (headPort s i) 0 (curTag s) (wordsMeta ws) (wordsData ws) whole] ∧
      t.pp.nextFid = s.pp.nextFid + 1 ∧ t.pp.inRot = s.pp.inRot ∧ t.pair Reg.ppRxLo = (s.pair Reg.ppRxLo + 1) % 2 ^ 48 ∧
      ∀ j, tagSlot s (curTag s) = some j → t.regN (Reg.genSlotRef j) = (s.regN (Reg.genSlotRef j) + 1) % 2 ^ 32 := by
  intro ws whole t
  obtain ⟨hframes, hfid, hrot, hregs⟩ := admitFrame_admits (offered s i) i (headPort s i) (headPort s i) 0 (curTag (offered s i))
    (wordsMeta ws) (wordsData ws) whole
  have hcount : ∀ a, inPipe a → outSlots a → a ≠ Reg.genGenStat → t.reg a = (offered s i).reg a := fun a ha hslot hgen =>
    (hregs a ha).trans (reg_refTag_ne _ _ _ hslot hgen)
  refine ⟨?_, ?_, ?_, ?_, fun j hj => ?_⟩
  · rw [show t.pp.frames = _ from hframes, firstPass, offered_pp s hi, offered_now48 s hi, curTag_offered s hi]
    rfl
  · rw [show t.pp.nextFid = _ from hfid, offered_pp s hi]
  · rw [show t.pp.inRot = _ from hrot, offered_pp s hi]
  · rw [pair_congr (hcount _ (by decide) (by decide) (by decide)) (hcount _ (by decide) (by decide) (by decide)), pair_offered s hi]
  · have hj4 : j < 4 := List.mem_range.1 (List.mem_of_find?_eq_some hj)
    have htag : tagSlot (nextSeq (offered s i) (headPort s i)).2 (curTag (offered s i)) = some j := by
      rw [curTag_offered s hi]
      exact (tagSlot_offered s hi _).trans hj
    rw [show t.regN (Reg.genSlotRef j) = _ from regN_of_reg (hregs _ (inPipe_slotRef hj4)), slotRef_refTag _ htag]
    exact congrArg (fun n => (n + 1) % 2 ^ 32) (regN_of_reg (reg_offered_slot s hi hj4).2)

/-- What the drop of an offered packet leaves. -/
theorem headDropped_spec :
    let t := headDropped s i
    t.pp.frames = s.pp.frames ∧ t.pp.nextFid = s.pp.nextFid ∧ t.pp.inRot = s.pp.inRot ∧
      t.pair Reg.ppRxLo = (s.pair Reg.ppRxLo + 1) % 2 ^ 48 ∧ t.bit Reg.genIrqRaw 8 = true ∧
      t.regN Reg.genNogenDrop = min (s.regN Reg.genNogenDrop + 1) 0xFFFFFFFF := by
  intro t
  have hkept : PipeKept (dropNoGen (nextSeq (offered s i) (headPort s i)).2) t := recordFrame_pipeKept _ _ _ _ _
  have hpp : t.pp = (nextSeq (offered s i) (headPort s i)).2.pp := hkept.pp
  have hcount : ∀ a, inPipe a → a ≠ Reg.genNogenDrop → a ≠ Reg.genIrqRaw → t.reg a = (offered s i).reg a := fun a ha hn hirq =>
    (hkept.regs a ha).trans ((reg_raise_ne _ _ _ hirq).trans (reg_inc_ne _ _ hn))
  refine ⟨?_, ?_, ?_, ?_, (hkept.bit (by decide) _).trans (bit_raise_same _ _ _ (by decide)), ?_⟩
  · rw [hpp, ← offered_pp s hi]; rfl
  · rw [hpp, ← offered_pp s hi]; rfl
  · rw [hpp, ← offered_pp s hi]; rfl
  · rw [pair_congr (hcount _ (by decide) (by decide) (by decide)) (hcount _ (by decide) (by decide) (by decide)), pair_offered s hi]
  · rw [hkept.regN (by decide), dropNoGen, regN_of_reg (reg_raise_ne _ _ _ (by decide)), inc_regN_same]
    have hreg : (nextSeq (offered s i) (headPort s i)).2.regN Reg.genNogenDrop = s.regN Reg.genNogenDrop :=
      regN_of_reg (reg_offered s hi (by decide) (by decide) (by decide))
    rw [hreg]

end

/-! ### The obligation -/

/-- Every source but recirculation reads a pound. -/
theorem pickedSource_lt {s : State} {i : Nat} (hpick : rotPick 15 s.pp.inRot (ingressReady s) = some i) (hi : i ≠ 14) : i < 14 := by
  have := rotPick_lt (by decide) hpick
  omega

/-- The state in which a source's packet is taken: the rotation has come to it (R34). -/
def turnOf (s : State) (time i : Nat) : State := { s.at time with pp := { s.pp with inRot := i } }

section
variable {time : Nat} {s : State} {i : Nat} (hpick : rotPick 15 s.pp.inRot (ingressReady s) = some i) (hup : islUp s 4 = true)
  (hi : i ≠ 14) (habort : (headWords s (ingressPound i)).1.getLast?.any (fun w => w.last && w.abort) = false)
include hpick hup hi

theorem exec_ingressAccept : exec (.ingressAccept time) s = done s (refillAll (acceptPound (turnOf s time i) i)) := by
  have hturn : rotPick 15 (s.at time).pp.inRot (ingressReady (s.at time)) = some i := hpick
  have hisl : islUp (s.at time) 4 = true := hup
  show execIngressAccept time s = _
  simp only [execIngressAccept, ingressAccept, hisl, hturn, if_neg hi]
  rfl

include habort

/-- INGRESS_ACCEPT leaves of the pipeline and of GEN what the acceptance itself does. -/
theorem runs_ingressAccept {P : State → Prop}
    (h : ∀ v, PipeKept (if (curSlot s).isSome then headAdmitted (turnOf s time i) i
      else if (headWords s (ingressPound i)).2 then headDropped (turnOf s time i) i
      else leftOpen (headDropped (turnOf s time i) i) i) v → P v) : Runs (.ingressAccept time) s P := by
  have hi14 := pickedSource_lt hpick hi
  have haccept := acceptPound_of_sound (s := turnOf s time i) hi14 habort
  refine runs_of_kept (exec_ingressAccept hpick hup hi) fun v hv => h v ?_
  have hkept := (PipeKept.refl (acceptPound (turnOf s time i) i)).refillAll.trans hv
  rwa [haccept] at hkept

theorem ingressAccept_admits {k : Nat} (hk : curSlot s = some k) : Runs (.ingressAccept time) s fun t =>
    (t.pp.inRot = i ∧ t.pair Reg.ppRxLo = (s.pair Reg.ppRxLo + 1) % 2 ^ 48 ∧
      t.pp.nextFid = s.pp.nextFid + bnat ((curSlot s).isSome || !(headWords s (ingressPound i)).2)) ∧
    t.pp.frames = s.pp.frames ++ [firstPass (turnOf s time i) i (headPort s i) (headPort s i) 0 (curTag s)
      (wordsMeta (headWords s (ingressPound i)).1) (wordsData (headWords s (ingressPound i)).1) (headWords s (ingressPound i)).2] ∧
    ∀ j : Nat, tagSlot s (curTag s) = some j → t.regN (Reg.genSlotRef j) = (s.regN (Reg.genSlotRef j) + 1) % 2 ^ 32 := by
  have hi14 := pickedSource_lt hpick hi
  refine runs_ingressAccept hpick hup hi habort fun v hv => ?_
  rw [hk, Option.isSome_some, if_pos rfl] at hv
  obtain ⟨hframes, hfid, hrot, hrx, href⟩ := headAdmitted_spec (turnOf s time i) hi14
  rw [hk]
  refine ⟨⟨(congrArg (·.inRot) hv.pp).trans hrot, (hv.pair (by decide) (by decide)).trans hrx, (congrArg (·.nextFid) hv.pp).trans hfid⟩,
    (congrArg (·.frames) hv.pp).trans hframes, fun j hj => ?_⟩
  exact (hv.regN (inPipe_slotRef (List.mem_range.1 (List.mem_of_find?_eq_some hj)))).trans (href j hj)

theorem ingressAccept_drops (hk : curSlot s = none) : Runs (.ingressAccept time) s fun t =>
    (t.pp.inRot = i ∧ t.pair Reg.ppRxLo = (s.pair Reg.ppRxLo + 1) % 2 ^ 48 ∧
      t.pp.nextFid = s.pp.nextFid + bnat ((curSlot s).isSome || !(headWords s (ingressPound i)).2)) ∧
    t.pp.frames = s.pp.frames ∧ t.bit Reg.genIrqRaw 8 = true ∧
    t.regN Reg.genNogenDrop = min (s.regN Reg.genNogenDrop + 1) 0xFFFFFFFF := by
  have hi14 := pickedSource_lt hpick hi
  refine runs_ingressAccept hpick hup hi habort fun v hv => ?_
  rw [hk, Option.isSome_none, if_neg (by decide)] at hv
  obtain ⟨hframes, hfid, hrot, hrx, hirq, hdrop⟩ := headDropped_spec (turnOf s time i) hi14
  rw [hk]
  cases hwhole : (headWords s (ingressPound i)).2 with
  | true =>
    rw [hwhole, if_pos rfl] at hv
    exact ⟨⟨(congrArg (·.inRot) hv.pp).trans hrot, (hv.pair (by decide) (by decide)).trans hrx, (congrArg (·.nextFid) hv.pp).trans hfid⟩,
      (congrArg (·.frames) hv.pp).trans hframes, (hv.bit (by decide) _).trans hirq, (hv.regN (by decide)).trans hdrop⟩
  | false =>
    rw [hwhole, if_neg (by decide)] at hv
    exact ⟨⟨(congrArg (·.inRot) hv.pp).trans hrot, (hv.pair (by decide) (by decide)).trans hrx,
        (congrArg (·.nextFid) hv.pp).trans (congrArg (· + 1) hfid)⟩,
      (congrArg (·.frames) hv.pp).trans hframes, (hv.bit (by decide) _).trans hirq, (hv.regN (by decide)).trans hdrop⟩

end

/-- Frame `f` given to engine `e`, which was free. -/
def givenTo (s : State) (f : PpFrame) (e : Nat) : State :=
  let u := putFrame (s.setBit Reg.ppPpStat e true) { f with eng := some e }
  { u with pp := { u.pp with engRot := e } }

theorem givenTo_pp (s : State) (f : PpFrame) (e : Nat) : (givenTo s f e).pp = { s.pp with
    frames := s.pp.frames.map (fun g => if g.fid = f.fid then { f with eng := some e } else g), engRot := e } := rfl

theorem givenTo_stat (s : State) (f : PpFrame) (e : Nat) :
    (givenTo s f e).reg Reg.ppPpStat = putBit (s.reg Reg.ppPpStat) e true := by
  have hregs : (givenTo s f e).regs = (s.setBit Reg.ppPpStat e true).regs := rfl
  rw [reg_congr _ hregs, reg_setBit_same]

section
variable {time : Nat} {s : State} {f : PpFrame} (hf : s.pp.frames.find? (fun f => f.eng.isNone && !f.collected) = some f)
include hf

/-- A frame without an engine goes to the next one of the rotation, once that is free. -/
theorem exec_engineDispatch (hup : islUp s 4 = true) (hfree : s.bit Reg.ppPpStat ((s.pp.engRot + 1) % 8) = false) :
    exec (.engineDispatch time) s = done s (givenTo (s.at time) f ((s.pp.engRot + 1) % 8)) := by
  have hfat : (s.at time).pp.frames.find? (fun f => f.eng.isNone && !f.collected) = some f := hf
  have hgo : ¬(islUp (s.at time) 4 = false ∨ (s.at time).bit Reg.ppPpStat (((s.at time).pp.engRot + 1) % 8) = true) := by
    rintro (hdown | hbusy)
    · exact absurd (hdown.symm.trans hup) (by decide)
    · exact absurd (hbusy.symm.trans hfree) (by decide)
  show execEngineDispatch time s = _
  simp only [execEngineDispatch, hfat, if_neg hgo]
  rfl

theorem engineDispatch_gives (hup : islUp s 4 = true) (hfree : s.bit Reg.ppPpStat ((s.pp.engRot + 1) % 8) = false) :
    Runs (.engineDispatch time) s fun t =>
      t.pp.engRot = (s.pp.engRot + 1) % 8 ∧ t.bit Reg.ppPpStat ((s.pp.engRot + 1) % 8) = true ∧
      (∀ k, k < 32 → k ≠ (s.pp.engRot + 1) % 8 → t.bit Reg.ppPpStat k = s.bit Reg.ppPpStat k) ∧
      t.pp.frames = s.pp.frames.map (fun g => if g.fid = f.fid then { f with eng := some ((s.pp.engRot + 1) % 8) } else g) := by
  refine runs_of_kept (exec_engineDispatch hf hup hfree) fun v hv => ?_
  have hstat : v.reg Reg.ppPpStat = putBit (s.reg Reg.ppPpStat) ((s.pp.engRot + 1) % 8) true :=
    (hv.regs _ (by decide)).trans (givenTo_stat _ _ _)
  have heng : (s.pp.engRot + 1) % 8 < 32 := (Nat.mod_lt _ (by decide)).trans (by decide)
  have hpp := hv.pp.trans (givenTo_pp _ _ _)
  refine ⟨congrArg (·.engRot) hpp, ?_, fun k _ hk => ?_, congrArg (·.frames) hpp⟩
  · rw [State.bit, hstat, bitOf_putBit_same _ _ _ heng]
  · rw [State.bit, hstat, bitOf_putBit_ne _ _ hk]
    rfl

theorem engineDispatch_waits (hbusy : s.bit Reg.ppPpStat ((s.pp.engRot + 1) % 8) = true) :
    Runs (.engineDispatch time) s fun t => t.pp = s.pp ∧ t.reg Reg.ppPpStat = s.reg Reg.ppPpStat := by
  have hexec : exec (.engineDispatch time) s = done s (s.at time) := by
    have hfat : (s.at time).pp.frames.find? (fun f => f.eng.isNone && !f.collected) = some f := hf
    show execEngineDispatch time s = _
    simp only [execEngineDispatch, hfat]
    exact congrArg _ (if_pos (Or.inr hbusy))
  exact runs_of_kept hexec fun v hv => ⟨hv.pp, hv.regs _ (by decide)⟩

end

/-- Settles O18: the admission, the drop without a generation, and the two cases of ENGINE_DISPATCH. -/
theorem framesEnterInRotation : Obligations.FramesEnterInRotation := by
  unfold Obligations.FramesEnterInRotation
  refine ⟨fun time s i hpick hup hi habort => ⟨fun k hk => ?_, fun hk => ?_⟩, fun time s f hf => ⟨fun hup hfree => ?_, fun hbusy => ?_⟩⟩
  · exact ingressAccept_admits hpick hup hi habort hk
  · exact ingressAccept_drops hpick hup hi habort hk
  · exact engineDispatch_gives hf hup hfree
  · exact engineDispatch_waits hf hbusy

end Sys2Proof.Machine
end


section
/-! The packet pipeline family (03_packet_pipeline): plain registers, and what an accepted write leaves in a register. -/

namespace Sys2Proof.Machine

/-! ### Plain registers -/

/-- The writable bits of a register on which a write has the plain effect of access type RW and no more (R6); none elsewhere. -/
def plainMask (a : Nat) : Option Nat :=
  (regRow a).bind fun r => if r.kind = .reg ∧ r.w1c = 0 then some r.rw else none

section
variable {a m : Nat} (h : plainMask a = some m)
include h

theorem regRow_of_plainMask : ∃ r, regRow a = some r ∧ r.kind = .reg ∧ r.w1c = 0 ∧ r.rw = m := by
  obtain ⟨r, hr, hm⟩ := Option.bind_eq_some_iff.1 h
  obtain ⟨⟨hk, hw⟩, hm⟩ := Option.ite_none_right_eq_some.1 hm
  exact ⟨r, hr, hk, hw, Option.some.inj hm⟩

theorem plainWrite_of_plainMask (s : State) (d : Word) : plainWrite s a d = s.setReg a (mergeMask (s.reg a) d m) := by
  obtain ⟨r, hr, hk, hw, rfl⟩ := regRow_of_plainMask h
  simp only [plainWrite, hr, hk, hw, if_true]

theorem reg_plainWrite_same (s : State) (d : Word) : (plainWrite s a d).reg a = mergeMask (s.reg a) d m := by
  rw [plainWrite_of_plainMask h, reg_setReg_same]

theorem reg_plainWrite_ne (s : State) (d : Word) {q : Nat} (hq : q ≠ a) : (plainWrite s a d).reg q = s.reg q := by
  rw [plainWrite_of_plainMask h, reg_setReg_ne _ _ hq]

/-- A merge through the writable bits is one through the RW bits of the register's row. -/
theorem merged_through_row {v old d : Word} (hv : v = mergeMask old d m) : ∃ r, regRow a = some r ∧ v = mergeMask old d r.rw := by
  obtain ⟨r, hr, -, -, rfl⟩ := regRow_of_plainMask h
  exact ⟨r, hr, hv⟩

/-- A field of writable bits reads as it was written. -/
theorem fld_plainWrite_same (s : State) (d : Word) {lo len : Nat} (hm : ∀ i, i < len → lo + i < 32 ∧ m.testBit (lo + i) = true) :
    (plainWrite s a d).fld a lo len = bitsOf d lo len := by
  rw [State.fld, reg_plainWrite_same h, bitsOf_mergeMask_in _ _ hm]

end

/-! ### Registers after an accepted write -/

/-- An accepted write acts on a state that differs from the one before it by what the recorder and the passage of PD52 leave. -/
theorem runs_of_busWrite {i : Instr} {s : State} {time init a : Nat} {d : Word} {f : State → State} {P : State → Prop}
    (h : exec i s = done s (busDo (s.at time) init a 4 (some d) f)) (hacc : accepts s init a true = true)
    (hp : ∀ u, Aside ((s.at time).answer .ok) u → P (finish s (f u))) : Runs i s P := by
  obtain ⟨u, hu, he⟩ := busDo_write (n := time) hacc d f
  rw [he] at h
  exact runs_of_done h (hp u hu)

/-- A register that the recorder does not write is as the effect of the accepted write leaves it. -/
theorem runs_reg_of_busWrite {i : Instr} {s : State} {time init a q : Nat} {d w : Word} {f : State → State}
    (h : exec i s = done s (busDo (s.at time) init a 4 (some d) f)) (hacc : accepts s init a true = true) (hq : noteReg q = false)
    (hf : ∀ u, (∀ b, noteReg b = false → u.reg b = s.reg b) → (f u).reg q = w) : Runs i s fun t => t.reg q = w :=
  runs_of_busWrite h hacc fun u hu => (finish_reg _ _ _ hq).trans (hf u fun _ hb => hu.reg_ok hb)

end Sys2Proof.Machine
end


section
/-! The packet pipeline family: ageing of NAT sessions (O22; R134, R135). -/

namespace Sys2Proof.Machine

/-! ### Sessions -/

theorem session_setSession (s : State) (i : Nat) (x : Option Session) (j : Nat) :
    session (setSession s i x) j = if j = i then x else session s j := bankGet_bankSet _ _ _ _ _

theorem reg_setSession_ne (s : State) (i : Nat) (x : Option Session) {a : Nat} (h : a ≠ Reg.ppNatCount) :
    (setSession s i x).reg a = s.reg a := reg_setFld_ne _ _ _ _ _ h

theorem session_of_pp {s t : State} (h : t.pp = s.pp) (j : Nat) : session t j = session s j := by rw [session, h]; rfl

/-! ### The expiry ring -/

/-- The entries of the ring lie in PP's block, behind the registers that ageing writes. -/
theorem natExpData_place (k : Nat) (h : k < 256) : inPipe (Reg.ppNatExpData k) ∧ Reg.ppNatExpData k ≠ Reg.ppPpStat ∧
    Reg.ppNatExpData k ≠ Reg.ppNatExpHead := by
  simp only [inPipe, Reg.ppNatExpData, Reg.ppPpStat, Reg.ppNatExpHead]
  omega

theorem ringFull_eq (s : State) :
    ringFull s = decide (s.fld Reg.ppNatExpTail 0 8 = (s.fld Reg.ppNatExpHead 0 8 + 1) % 256) :=
  decide_eq_decide.2 eq_comm

theorem reg_reviewStall_ne (s : State) {a : Nat} (h : a ≠ Reg.ppPpStat) : (reviewStall s).reg a = s.reg a :=
  reg_setBit_ne _ _ _ _ h

theorem bit_reviewStall (s : State) : (reviewStall s).bit Reg.ppPpStat 9 = ringFull s := bit_setBit_same _ _ _ _ (by decide)

/-- PP.IRQ_RAW shows AGE_STALL (R7, R135). -/
theorem bitOf_rawOf_ageStall (s : State) : bitOf (rawOf s Reg.ppIrqRaw) 4 = s.bit Reg.ppPpStat 9 := by
  have hstored : bitOf (s.reg Reg.ppIrqRaw &&& ~~~followMask Reg.ppIrqRaw) 4 = false := by
    rw [bitOf, BitVec.getLsbD_and, show (~~~followMask Reg.ppIrqRaw).getLsbD 4 = false by decide, Bool.and_false]
  have hfollow : followBits s Reg.ppIrqRaw =
      bitIf 3 (s.reg Reg.ppNatExpHead != s.reg Reg.ppNatExpTail) ||| bitIf 4 (s.bit Reg.ppPpStat 9) := rfl
  have hor : ∀ v w : Word, bitOf (v ||| w) 4 = (bitOf v 4 || bitOf w 4) := fun _ _ => BitVec.getLsbD_or
  have hentries : ∀ b, bitOf (bitIf 3 b) 4 = false := by decide
  have hstall : ∀ b, bitOf (bitIf 4 b) 4 = b := by decide
  rw [rawOf, hor, hstored, hfollow, hor, hentries, hstall, Bool.false_or, Bool.false_or]

/-! ### NAT_AGE_VISIT -/

/-- A session that leaves into the ring at the head (R134, R135). -/
def aged (s : State) (ses : Nat) : State :=
  reviewStall (((setSession s ses none).setNat (Reg.ppNatExpData (s.fld Reg.ppNatExpHead 0 8)) ses).setNat Reg.ppNatExpHead
    ((s.fld Reg.ppNatExpHead 0 8 + 1) % 256))

theorem session_aged (s : State) (ses j : Nat) : session (aged s ses) j = if j = ses then none else session s j :=
  session_setSession s ses none j

theorem fld_expHead_lt (s : State) : s.fld Reg.ppNatExpHead 0 8 < 256 := nbits_lt _ _ _

theorem reg_aged_expData (s : State) (ses : Nat) :
    (aged s ses).reg (Reg.ppNatExpData (s.fld Reg.ppNatExpHead 0 8)) = BitVec.ofNat 32 ses := by
  obtain ⟨-, hstat, hhead⟩ := natExpData_place _ (fld_expHead_lt s)
  rw [aged, reg_reviewStall_ne _ hstat, reg_setNat_ne _ _ _ hhead, reg_setNat_same]

theorem fld_aged_expHead (s : State) (ses : Nat) :
    (aged s ses).fld Reg.ppNatExpHead 0 8 = (s.fld Reg.ppNatExpHead 0 8 + 1) % 256 := by
  rw [State.fld, aged, reg_reviewStall_ne _ (by decide), reg_setNat_same, bitsOf, nbits, BitVec.toNat_ofNat]
  simp only [Nat.shiftRight_zero]
  omega

section
variable {time : Nat} {ses : Fin 65536} {s : State} (hup : islUp s 4 = true) (hen : s.bit Reg.ppPpCtrl 0 = true)
include hup hen

theorem exec_natAgeVisit_full (hfull : ringFull s = true) : exec (.natAgeVisit time ses) s = done s (reviewStall (s.at time)) := by
  have hvisit : (islUp (s.at time) 4 && (s.at time).bit Reg.ppPpCtrl 0) = true := Bool.and_eq_true_iff.2 ⟨hup, hen⟩
  have hfullAt : ringFull (s.at time) = true := hfull
  show execNatAgeVisit time ses s = _
  simp only [execNatAgeVisit, hvisit, hfullAt, if_true]

theorem exec_natAgeVisit_idle (hroom : ringFull s = false) {x : Session} (hx : session s ses = some x)
    (hidle : x.idle ≤ (s.at time).dt / 10 ^ 9 - x.last) : exec (.natAgeVisit time ses) s = done s (aged (s.at time) ses) := by
  have hvisit : (islUp (s.at time) 4 && (s.at time).bit Reg.ppPpCtrl 0) = true := Bool.and_eq_true_iff.2 ⟨hup, hen⟩
  have hroomAt : ringFull (s.at time) = false := hroom
  have hxAt : session (s.at time) ses = some x := hx
  show execNatAgeVisit time ses s = _
  simp only [execNatAgeVisit, hvisit, hroomAt, hxAt, if_true, Bool.false_eq_true, if_false, if_neg (Nat.not_lt.2 hidle), aged]

/-- With a full ring the visit sets AGE_STALL and leaves the sessions and the ring. -/
theorem natAgeVisit_pauses (hfull : ringFull s = true) : Runs (.natAgeVisit time ses) s fun t =>
    t.pp = s.pp ∧ t.bit Reg.ppPpStat 9 = true ∧ bitOf (rawOf t Reg.ppIrqRaw) 4 = true ∧
    t.reg Reg.ppNatExpHead = s.reg Reg.ppNatExpHead ∧ ∀ k, k < 256 → t.reg (Reg.ppNatExpData k) = s.reg (Reg.ppNatExpData k) := by
  refine runs_of_kept (exec_natAgeVisit_full hup hen hfull) fun v hv => ?_
  have hstall : v.bit Reg.ppPpStat 9 = true := (hv.bit (by decide) 9).trans ((bit_reviewStall _).trans hfull)
  refine ⟨hv.pp, hstall, (bitOf_rawOf_ageStall v).trans hstall, ?_, fun k hk => ?_⟩
  · exact (hv.regs _ (by decide)).trans (reg_reviewStall_ne _ (by decide))
  · obtain ⟨hin, hstat, -⟩ := natExpData_place k hk
    exact (hv.regs _ hin).trans (reg_reviewStall_ne _ hstat)

/-- With room a session idle for IDLE_S leaves into the ring at the head. -/
theorem natAgeVisit_expires (hroom : ringFull s = false) {x : Session} (hx : session s ses = some x)
    (hidle : x.idle ≤ (s.at time).dt / 10 ^ 9 - x.last) : Runs (.natAgeVisit time ses) s fun t =>
    session t ses = none ∧ (∀ j, j ≠ ses.val → session t j = session s j) ∧
    t.regN (Reg.ppNatExpData (s.fld Reg.ppNatExpHead 0 8)) = ses.val ∧
    t.fld Reg.ppNatExpHead 0 8 = (s.fld Reg.ppNatExpHead 0 8 + 1) % 256 := by
  refine runs_of_kept (exec_natAgeVisit_idle hup hen hroom hx hidle) fun v hv => ?_
  have hsession : ∀ j, session v j = if j = ses.val then none else session s j :=
    fun j => (session_of_pp hv.pp j).trans (session_aged _ _ _)
  refine ⟨(hsession _).trans (if_pos rfl), fun j hj => (hsession j).trans (if_neg hj), ?_, ?_⟩
  · have hentry : v.reg (Reg.ppNatExpData (s.fld Reg.ppNatExpHead 0 8)) = BitVec.ofNat 32 ses :=
      (hv.regs _ (natExpData_place _ (fld_expHead_lt s)).1).trans (reg_aged_expData (s.at time) ses)
    rw [State.regN, hentry, BitVec.toNat_ofNat]
    omega
  · exact (hv.fld (by decide) 0 8).trans (fld_aged_expHead (s.at time) ses)

end

/-! ### NAT_EXP_TAIL_WRITE -/

section
variable (s : State) (d : Word)

theorem plainMask_expTail : plainMask Reg.ppNatExpTail = some 0xFF := by decide

theorem fld_natTailWrite_tail : (natTailWrite s d).fld Reg.ppNatExpTail 0 8 = bitsOf d 0 8 := by
  rw [natTailWrite, fld_of_reg (reg_reviewStall_ne _ (by decide)), fld_plainWrite_same plainMask_expTail _ _ (by decide)]

theorem reg_natTailWrite_head : (natTailWrite s d).reg Reg.ppNatExpHead = s.reg Reg.ppNatExpHead := by
  rw [natTailWrite, reg_reviewStall_ne _ (by decide), reg_plainWrite_ne plainMask_expTail _ _ (by decide)]

theorem natTailWrite_pp : (natTailWrite s d).pp = s.pp := by
  rw [natTailWrite, plainWrite_of_plainMask plainMask_expTail]; rfl

theorem bit_natTailWrite_stall : (natTailWrite s d).bit Reg.ppPpStat 9 =
    decide (bitsOf d 0 8 = (s.fld Reg.ppNatExpHead 0 8 + 1) % 256) := by
  have htail := fld_plainWrite_same plainMask_expTail s d (lo := 0) (len := 8) (by decide)
  have hhead := fld_of_reg (reg_plainWrite_ne plainMask_expTail s d (q := Reg.ppNatExpHead) (by decide)) 0 8
  rw [natTailWrite, bit_reviewStall, ringFull_eq, htail, hhead]

end

/-- A write of the tail, after which AGE_STALL stands exactly where the ring is full. -/
theorem natExpTailWrite_reviews {time : Nat} {init : Init} {s : State} (hacc : accepts s init Reg.ppNatExpTail true = true) (d : Word) :
    Runs (.natExpTailWrite time init d) s fun t =>
      t.fld Reg.ppNatExpTail 0 8 = bitsOf d 0 8 ∧ t.reg Reg.ppNatExpHead = s.reg Reg.ppNatExpHead ∧
      t.bit Reg.ppPpStat 9 = decide (bitsOf d 0 8 = (s.fld Reg.ppNatExpHead 0 8 + 1) % 256) ∧
      bitOf (rawOf t Reg.ppIrqRaw) 4 = decide (bitsOf d 0 8 = (s.fld Reg.ppNatExpHead 0 8 + 1) % 256) ∧ t.pp = s.pp := by
  refine runs_of_write rfl hacc fun u hu v hv => ?_
  have hstall : v.bit Reg.ppPpStat 9 = decide (bitsOf d 0 8 = (s.fld Reg.ppNatExpHead 0 8 + 1) % 256) := by
    rw [hv.bit (by decide), bit_natTailWrite_stall, hu.fld (by decide)]; rfl
  refine ⟨?_, ?_, hstall, (bitOf_rawOf_ageStall v).trans hstall, ?_⟩
  · rw [hv.fld (by decide), fld_natTailWrite_tail]
  · rw [hv.regs _ (by decide), reg_natTailWrite_head, hu.regs _ (by decide)]; rfl
  · rw [hv.pp, natTailWrite_pp, hu.pp]; rfl

/-- Settles O22: a visit with a full ring, a visit with room, and the write of the tail. -/
theorem ageingPausesWhileTheRingIsFull : Obligations.AgeingPausesWhileTheRingIsFull := by
  unfold Obligations.AgeingPausesWhileTheRingIsFull
  refine ⟨fun time ses s hup hen => ⟨fun hfull => ?_, fun hroom x hx hidle => ?_⟩, fun time init d s hacc => ?_⟩
  · exact natAgeVisit_pauses hup hen ((ringFull_eq s).trans (decide_eq_true hfull))
  · exact natAgeVisit_expires hup hen ((ringFull_eq s).trans (decide_eq_false hroom)) hx hidle
  · exact natExpTailWrite_reviews hacc d

end Sys2Proof.Machine
end


section
/-! The packet pipeline family: writes that take effect only while nothing is in use, or only in range (O23). -/

namespace Sys2Proof.Machine

/-! ### Seeds and addresses, written while no session or station is in use -/

/-- NAT_SEED takes a write while NAT_COUNT is 0 (R141). -/
theorem reg_natSeedSet (s : State) (d : Word) :
    (natSeedSet s d).reg Reg.ppNatSeed = if s.fld Reg.ppNatCount 0 17 = 0 then d else s.reg Reg.ppNatSeed := by
  unfold natSeedSet
  split
  · exact reg_setReg_same _ _ _
  · rfl

/-- A register of R229 or R262 takes a write while VALID_COUNT is 0. -/
theorem reg_whenNoSta {a m : Nat} (h : plainMask a = some m) (s : State) (d : Word) :
    (whenNoSta s a d).reg a = if s.fld Reg.staStaStat 0 13 = 0 then mergeMask (s.reg a) d m else s.reg a := by
  unfold whenNoSta
  split
  · exact reg_plainWrite_same h s d
  · rfl

theorem plainMask_mldReg (r : MldReg) : ∃ m, plainMask (mldReg r) = some m ∧ ∀ i, i < 16 → 0 + i < 32 ∧ m.testBit (0 + i) = true := by
  cases r with
  | mldLo => exact ⟨0xFFFFFFFF, by decide, by decide⟩
  | mldHi => exact ⟨0xFFFF, by decide, by decide⟩
  | bssidLo x => exact ⟨0xFFFFFFFF, by cases x <;> decide, by decide⟩
  | bssidHi x => exact ⟨0xFFFF, by cases x <;> decide, by decide⟩

theorem noteReg_mldReg (r : MldReg) : noteReg (mldReg r) = false := by
  cases r with
  | mldLo => decide
  | mldHi => decide
  | bssidLo x => cases x <;> decide
  | bssidHi x => cases x <;> decide

/-! ### Regions of DRAM, placed while they are not in use -/

theorem plainMask_roReg (r : RoReg) : ∃ m, plainMask (roReg r) = some m := Option.isSome_iff_exists.1 (by cases r <;> decide)

theorem noteReg_roReg (r : RoReg) : noteReg (roReg r) = false := by cases r <;> decide

/-- RO_BASE and RO_SIZE take a write while RO_USED is 0 (R245). -/
theorem reg_roSet {a m : Nat} (h : plainMask a = some m) (s : State) (d : Word) :
    (roSet s a d).reg a = if s.fld Reg.staRoUsed 0 24 = 0 then mergeMask (s.reg a) d m else s.reg a := by
  unfold roSet
  split
  · exact reg_plainWrite_same h s d
  · rfl

theorem plainMask_spillReg (r : SpillReg) : ∃ m, plainMask (spillReg r) = some m :=
  Option.isSome_iff_exists.1 (by cases r <;> decide)

theorem noteReg_spillReg (r : SpillReg) : noteReg (spillReg r) = false := by cases r <;> decide

/-- The review of the pools and of the selected queue leaves the registers of the spill region. -/
theorem reg_reviewTm_spillReg (s : State) (r : SpillReg) : (reviewTm s).reg (spillReg r) = s.reg (spillReg r) := by
  have hpools : spillReg r ≠ Reg.tmCellsFree ∧ spillReg r ≠ Reg.tmBargesFree ∧ spillReg r ≠ Reg.tmSpillUsed ∧
      spillReg r ≠ Reg.tmTmStat := by cases r <;> decide
  have hqueue : spillReg r ≠ Reg.tmFqStat ∧ spillReg r ≠ Reg.tmFqFrames ∧ spillReg r ≠ Reg.tmFqEnqLo ∧
      spillReg r ≠ Reg.tmFqEnqLo + 4 ∧ spillReg r ≠ Reg.tmFqDropLo ∧ spillReg r ≠ Reg.tmFqDropLo + 4 := by cases r <;> decide
  obtain ⟨hcells, hbarges, hused, hstat⟩ := hpools
  obtain ⟨hfq, hframes, henq, henq4, hdrop, hdrop4⟩ := hqueue
  unfold reviewTm
  extract_lets _ _ _ _ cells barges used stat _ queue frames
  rw [reg_setPair_ne _ _ _ hdrop hdrop4, reg_setPair_ne _ _ _ henq henq4, reg_setFld_ne _ _ _ _ _ hframes,
    reg_setFlds_ne _ _ _ hfq, reg_setFlds_ne _ _ _ hstat, reg_setFld_ne _ _ _ _ _ hused, reg_setFld_ne _ _ _ _ _ hbarges,
    reg_setFld_ne _ _ _ _ _ hcells]

theorem reg_reviewGhStall (s : State) (a : Nat) : (reviewGhStall s).reg a = s.reg a := rfl

/-- What the spill region's registers hold after an accepted write while SPILL_USED is 0. -/
theorem reg_spillSet_unused {s : State} (h : s.fld Reg.tmSpillUsed 0 25 = 0) (r : SpillReg) (d : Word) :
    (spillSet s (spillReg r) d).reg (spillReg r) = (if spillReg r = Reg.tmSpillSize then
      (plainWrite s (spillReg r) d).setFld (spillReg r) 0 13 (min 4096 d.toNat) else plainWrite s (spillReg r) d).reg (spillReg r) := by
  rw [spillSet, if_neg (not_not.2 h), reg_reviewGhStall, reg_reviewTm_spillReg]

theorem reg_spillSet_used {s : State} (h : s.fld Reg.tmSpillUsed 0 25 ≠ 0) (r : SpillReg) (d : Word) :
    (spillSet s (spillReg r) d).reg (spillReg r) = s.reg (spillReg r) := by rw [spillSet, if_pos h]

/-- A size above 4,096 MiB stores 4,096 (R164). -/
theorem fld_spillSet_size {s : State} (h : s.fld Reg.tmSpillUsed 0 25 = 0) (d : Word) :
    (spillSet s Reg.tmSpillSize d).fld Reg.tmSpillSize 0 13 = min 4096 d.toNat := by
  have hreg := reg_spillSet_unused h .size d
  rw [spillReg, if_pos rfl] at hreg
  rw [fld_of_reg hreg, fld_setFld_same _ _ _ _ _ (by decide)]
  exact Nat.mod_eq_of_lt (by omega)

theorem reg_spillSet_base {s : State} (h : s.fld Reg.tmSpillUsed 0 25 = 0) {r : SpillReg} (hr : r ≠ .size) {m : Nat}
    (hm : plainMask (spillReg r) = some m) (d : Word) :
    (spillSet s (spillReg r) d).reg (spillReg r) = mergeMask (s.reg (spillReg r)) d m := by
  have hne : spillReg r ≠ Reg.tmSpillSize := by cases r with
    | size => exact absurd rfl hr
    | baseLo => decide
    | baseHi => decide
  rw [reg_spillSet_unused h, if_neg hne, reg_plainWrite_same hm]

/-! ### Rings, placed while they are disabled -/

/-- The base, SIZE and BUF_LEN registers of each ring, with its enable as a register and a bit (R364, R410). -/
def ringTable : List (List Nat × Nat × Nat) :=
  [([Reg.ccTxRingLo, Reg.ccTxRingHi, Reg.ccTxRingSize, Reg.ccTxBufLen], Reg.ccCpuCtrl, 0),
    ([Reg.ccRxRingLo, Reg.ccRxRingHi, Reg.ccRxRingSize, Reg.ccRxBufLen], Reg.ccCpuCtrl, 1)] ++
  (List.range 2).flatMap fun u =>
    [([Reg.ulTxRingLo u, Reg.ulTxRingHi u, Reg.ulTxRingSize u, Reg.ulTxBufLen u], Reg.ulDirCtrl u, 0),
      ([Reg.ulRxRingLo u, Reg.ulRxRingHi u, Reg.ulRxRingSize u, Reg.ulRxBufLen u], Reg.ulDirCtrl u, 1)]

/-- An address that a ring's enable guards lies in that ring's row of the table. -/
theorem mem_ringTable_of_ringGuard {a : Nat} {g : Nat × Nat} (h : ringGuard a = some g) : ∃ l, (l, g) ∈ ringTable ∧ a ∈ l := by
  have hmem : ∀ b c e f : Nat, (a = b ∨ a = c ∨ a = e ∨ a = f) → a ∈ [b, c, e, f] := fun b c e f h => by simpa using h
  unfold ringGuard at h
  split_ifs at h with htx hrx
  · cases h
    exact ⟨_, List.mem_append_left _ (.head _), hmem _ _ _ _ htx⟩
  · cases h
    exact ⟨_, List.mem_append_left _ (.tail _ (.head _)), hmem _ _ _ _ hrx⟩
  · obtain ⟨u, hu, h⟩ := List.exists_of_findSome?_eq_some h
    have hrow : ∀ x, x ∈ _ → x ∈ ringTable := fun x hx => List.mem_append_right _ (List.mem_flatMap.2 ⟨u, hu, hx⟩)
    split_ifs at h with hdtx hdrx
    · cases h
      exact ⟨_, hrow _ (.head _), hmem _ _ _ _ hdtx⟩
    · cases h
      exact ⟨_, hrow _ (.tail _ (.head _)), hmem _ _ _ _ hdrx⟩

/-- Every register of the table is plain, and neither it nor its enable is written by the recorder. -/
theorem ringTable_plain : ∀ e ∈ ringTable, noteReg e.2.1 = false ∧ ∀ a ∈ e.1, noteReg a = false ∧ (plainMask a).isSome = true := by
  decide

theorem reg_ringConfigSet {a m : Nat} {g : Nat × Nat} (hg : ringGuard a = some g) (hm : plainMask a = some m) (s : State) (d : Word) :
    (ringConfigSet s a d).reg a = if s.bit g.1 g.2 then s.reg a else mergeMask (s.reg a) d m := by
  simp only [ringConfigSet, hg]
  split
  · rfl
  · exact reg_plainWrite_same hm s d

/-! ### Registers that take a value in range alone -/

theorem mcRun_of_reg {s u : State} {c : Nat} (h : u.reg (Reg.mcMcStat c) = s.reg (Reg.mcMcStat c)) : mcRun u c = mcRun s c := by
  rw [mcRun, fld_of_reg h]; rfl

theorem reg_addrMapSet (s : State) (c : Nat) (d : Word) : (addrMapSet s c d).reg (Reg.mcAddrMap 0) =
    if c = 0 ∧ mcRun s 0 = false ∧ mcRun s 1 = false then BitVec.ofNat 32 (bitsOf d 0 2) else s.reg (Reg.mcAddrMap 0) := by
  unfold addrMapSet
  split
  · rw [reg_setNat_ne _ _ _ (by decide), reg_setNat_same]
  · rfl

theorem plainMask_serdesTx : ∀ u : Fin 2, plainMask (Reg.ulSerdesTx u) = some 0x3F1F1F := by decide

theorem reg_serdesSet (s : State) (u : Fin 2) (d : Word) : (serdesSet s u d).reg (Reg.ulSerdesTx u) =
    if bitsOf d 16 6 < bitsOf d 0 5 + bitsOf d 8 5 then s.reg (Reg.ulSerdesTx u)
    else mergeMask (s.reg (Reg.ulSerdesTx u)) d 0x3F1F1F := by
  unfold serdesSet
  split
  · rfl
  · exact reg_plainWrite_same (plainMask_serdesTx u) s d

theorem plainMask_femTiming (x : Radio) : plainMask (Reg.rdFemTiming (rIdx x)) = some 0x3F3F3F := by cases x <;> decide

/-- The leads of a FEM_TIMING word stand in order (R283). -/
abbrev leadsOrdered (d : Word) : Prop := bitsOf d 8 6 ≤ bitsOf d 16 6 ∧ bitsOf d 0 6 + 2 ≤ bitsOf d 8 6 ∧ 2 ≤ bitsOf d 0 6

theorem reg_femTimingSet (s : State) (x : Radio) (d : Word) : (femTimingSet s (rIdx x) d).reg (Reg.rdFemTiming (rIdx x)) =
    if leadsOrdered d then mergeMask (s.reg (Reg.rdFemTiming (rIdx x))) d 0x3F3F3F else s.reg (Reg.rdFemTiming (rIdx x)) := by
  have heffect : femTimingSet s (rIdx x) d = if leadsOrdered d then plainWrite s (Reg.rdFemTiming (rIdx x)) d else s := rfl
  rw [heffect]
  split
  · exact reg_plainWrite_same (plainMask_femTiming x) s d
  · rfl

/-- BAND_LIMIT stores at most BAND_CAP (R226). -/
theorem regN_bandLimitSet (s : State) (b : Nat) (d : Word) :
    (bandLimitSet s b d).regN (Reg.dutyBandLimit b) = min d.toNat (s.regN (Reg.dutyBandCap b)) := by
  rw [bandLimitSet, regN_setNat_same]
  exact Nat.mod_eq_of_lt (lt_of_le_of_lt (min_le_left _ _) d.isLt)

/-! ### The commands -/

section
variable {time : Nat} {init : Init} {s : State} (d : Word)

theorem natSeedWrite_guarded (hacc : accepts s init Reg.ppNatSeed true = true) : Runs (.natSeedWrite time init d) s fun t =>
    t.reg Reg.ppNatSeed = if s.fld Reg.ppNatCount 0 17 = 0 then d else s.reg Reg.ppNatSeed := by
  refine runs_reg_of_busWrite rfl hacc (by decide) fun u hu => ?_
  rw [reg_natSeedSet, fld_of_reg (hu _ (by decide)), hu _ (by decide)]

theorem addrSeedWrite_guarded (hacc : accepts s init Reg.staAddrSeed true = true) : Runs (.addrSeedWrite time init d) s fun t =>
    t.reg Reg.staAddrSeed = if s.fld Reg.staStaStat 0 13 = 0 then d else s.reg Reg.staAddrSeed := by
  refine runs_reg_of_busWrite rfl hacc (by decide) fun u hu => ?_
  rw [reg_whenNoSta (m := 0xFFFFFFFF) (by decide), mergeMask_all, fld_of_reg (hu _ (by decide)), hu _ (by decide)]

theorem mldBssidWrite_guarded {r : MldReg} {m : Nat} (hm : plainMask (mldReg r) = some m) (hacc : accepts s init (mldReg r) true = true) :
    Runs (.mldBssidWrite time init r d) s fun t => t.reg (mldReg r) =
      if s.fld Reg.staStaStat 0 13 = 0 then mergeMask (s.reg (mldReg r)) d m else s.reg (mldReg r) := by
  refine runs_reg_of_busWrite rfl hacc (noteReg_mldReg r) fun u hu => ?_
  rw [reg_whenNoSta hm, fld_of_reg (hu _ (by decide)), hu _ (noteReg_mldReg r)]

theorem roRegionWrite_guarded {r : RoReg} {m : Nat} (hm : plainMask (roReg r) = some m) (hacc : accepts s init (roReg r) true = true) :
    Runs (.roRegionWrite time init r d) s fun t => t.reg (roReg r) =
      if s.fld Reg.staRoUsed 0 24 = 0 then mergeMask (s.reg (roReg r)) d m else s.reg (roReg r) := by
  refine runs_reg_of_busWrite rfl hacc (noteReg_roReg r) fun u hu => ?_
  rw [reg_roSet hm, fld_of_reg (hu _ (by decide)), hu _ (noteReg_roReg r)]

section
variable {r : SpillReg} (hacc : accepts s init (spillReg r) true = true)
include hacc

theorem spillConfigWrite_used (hused : s.fld Reg.tmSpillUsed 0 25 ≠ 0) :
    Runs (.spillConfigWrite time init r d) s fun t => t.reg (spillReg r) = s.reg (spillReg r) := by
  refine runs_reg_of_busWrite rfl hacc (noteReg_spillReg r) fun u hu => ?_
  rw [reg_spillSet_used (by rwa [fld_of_reg (hu _ (by decide))]), hu _ (noteReg_spillReg r)]

theorem spillConfigWrite_size (hfree : s.fld Reg.tmSpillUsed 0 25 = 0) (hr : r = .size) :
    Runs (.spillConfigWrite time init r d) s fun t => t.fld Reg.tmSpillSize 0 13 = min 4096 d.toNat := by
  subst hr
  refine runs_of_busWrite rfl hacc fun u hu => ?_
  rw [fld_of_reg (finish_reg _ _ _ (by decide))]
  exact fld_spillSet_size ((fld_of_reg (hu.reg_ok (by decide)) 0 25).trans hfree) d

theorem spillConfigWrite_base (hfree : s.fld Reg.tmSpillUsed 0 25 = 0) (hr : r ≠ .size) {m : Nat} (hm : plainMask (spillReg r) = some m) :
    Runs (.spillConfigWrite time init r d) s fun t => t.reg (spillReg r) = mergeMask (s.reg (spillReg r)) d m := by
  refine runs_reg_of_busWrite rfl hacc (noteReg_spillReg r) fun u hu => ?_
  rw [reg_spillSet_base ((fld_of_reg (hu _ (by decide)) 0 25).trans hfree) hr hm, hu _ (noteReg_spillReg r)]

end

theorem ringConfigWrite_guarded {a : Nat} {g : Nat × Nat} (hg : ringGuard a = some g) (hacc : accepts s init a true = true) :
    ∃ m, plainMask a = some m ∧ Runs (.ringConfigWrite time init a d) s fun t =>
      t.reg a = if s.bit g.1 g.2 then s.reg a else mergeMask (s.reg a) d m := by
  obtain ⟨l, hl, ha⟩ := mem_ringTable_of_ringGuard hg
  obtain ⟨hen, hrow⟩ := ringTable_plain _ hl
  obtain ⟨hcalm, hplain⟩ := hrow a ha
  obtain ⟨m, hm⟩ := Option.isSome_iff_exists.1 hplain
  have hsome : (ringGuard a).isSome = true := Option.isSome_of_eq_some hg
  refine ⟨m, hm, runs_reg_of_busWrite (congrArg (done s) (if_pos hsome)) hacc hcalm fun u hu => ?_⟩
  rw [reg_ringConfigSet hg hm, bit_of_reg (hu _ hen), hu _ hcalm]

theorem addrMapWrite_guarded {c : Fin 2} (hacc : accepts s init (Reg.mcAddrMap c) true = true) :
    Runs (.addrMapWrite time init c d) s fun t => t.reg (Reg.mcAddrMap 0) =
      if c = 0 ∧ mcRun s 0 = false ∧ mcRun s 1 = false then BitVec.ofNat 32 (bitsOf d 0 2) else s.reg (Reg.mcAddrMap 0) := by
  refine runs_reg_of_busWrite rfl hacc (by decide) fun u hu => ?_
  rw [reg_addrMapSet, mcRun_of_reg (hu _ (by decide)), mcRun_of_reg (hu _ (by decide)), hu _ (by decide)]
  simp only [Fin.val_eq_zero_iff]

theorem noteReg_serdesTx : ∀ u : Fin 2, noteReg (Reg.ulSerdesTx u) = false := by decide

theorem serdesTxWrite_guarded {u : Fin 2} (hacc : accepts s init (Reg.ulSerdesTx u) true = true) :
    Runs (.serdesTxWrite time init u d) s fun t => t.reg (Reg.ulSerdesTx u) =
      if bitsOf d 16 6 < bitsOf d 0 5 + bitsOf d 8 5 then s.reg (Reg.ulSerdesTx u)
      else mergeMask (s.reg (Reg.ulSerdesTx u)) d 0x3F1F1F := by
  refine runs_reg_of_busWrite rfl hacc (noteReg_serdesTx u) fun v hv => ?_
  rw [reg_serdesSet, hv _ (noteReg_serdesTx u)]

theorem noteReg_femTiming (x : Radio) : noteReg (Reg.rdFemTiming (rIdx x)) = false := by cases x <;> decide

theorem femTimingWrite_guarded {x : Radio} (hacc : accepts s init (Reg.rdFemTiming (rIdx x)) true = true) :
    Runs (.femTimingWrite time init x d) s fun t => t.reg (Reg.rdFemTiming (rIdx x)) =
      if leadsOrdered d then mergeMask (s.reg (Reg.rdFemTiming (rIdx x))) d 0x3F3F3F else s.reg (Reg.rdFemTiming (rIdx x)) := by
  refine runs_reg_of_busWrite rfl hacc (noteReg_femTiming x) fun u hu => ?_
  rw [reg_femTimingSet, hu _ (noteReg_femTiming x)]

theorem bandLimitWrite_guarded {b : Fin 16} (hacc : accepts s init (Reg.dutyBandLimit b) true = true) :
    Runs (.bandLimitWrite time init b d) s fun t =>
      t.regN (Reg.dutyBandLimit b) = min d.toNat (s.regN (Reg.dutyBandCap b)) ∧ t.duty = s.duty := by
  have hplace : ∀ b : Fin 16, noteReg (Reg.dutyBandLimit b) = false ∧ noteReg (Reg.dutyBandCap b) = false := by decide
  obtain ⟨hlimit, hcap⟩ := hplace b
  refine runs_of_busWrite rfl hacc fun u hu => ⟨?_, (finish_duty _ _).trans (congrArg (·.duty) hu.bare)⟩
  rw [regN_of_reg (finish_reg _ _ _ hlimit), regN_bandLimitSet, regN_of_reg (hu.reg_ok hcap)]

end

/-- Settles O23: each clause is what one command leaves in its register. -/
theorem guardedWritesAreIgnored : Obligations.GuardedWritesAreIgnored := by
  unfold Obligations.GuardedWritesAreIgnored
  refine ⟨fun time init d s => natSeedWrite_guarded d, fun time init d s => addrSeedWrite_guarded d, fun time init r d s hacc => ?_,
    fun time init r d s hacc => ?_, fun time init r d s hacc => ⟨?_, ?_, fun hfree hr => ?_⟩, fun time init a d s g hg hacc => ?_,
    fun time init c d s => addrMapWrite_guarded d, fun time init u d s hacc => ?_, fun time init x d s hacc => ?_,
    fun time init b d s => bandLimitWrite_guarded d⟩
  · obtain ⟨m, hm, hlow⟩ := plainMask_mldReg r
    have run := mldBssidWrite_guarded (time := time) d hm hacc
    refine ⟨fun hvalid => run.mono fun t ht => ht.trans (if_neg hvalid), fun hnone => run.mono fun t ht => ?_⟩
    rw [State.fld, ht, if_pos hnone, bitsOf_mergeMask_in _ _ hlow]
  · obtain ⟨m, hm⟩ := plainMask_roReg r
    have run := roRegionWrite_guarded (time := time) d hm hacc
    exact ⟨fun hused => run.mono fun t ht => ht.trans (if_neg hused),
      fun hfree => run.mono fun t ht => merged_through_row hm (ht.trans (if_pos hfree))⟩
  · exact spillConfigWrite_used d hacc
  · exact spillConfigWrite_size d hacc
  · obtain ⟨m, hm⟩ := plainMask_spillReg r
    exact (spillConfigWrite_base d hacc hfree hr hm).mono fun t => merged_through_row hm
  · obtain ⟨m, hm, run⟩ := ringConfigWrite_guarded (time := time) d hg hacc
    exact ⟨fun hen => run.mono fun t ht => ht.trans (if_pos hen),
      fun hdis => run.mono fun t ht => merged_through_row hm (ht.trans (if_neg (Bool.eq_false_iff.1 hdis)))⟩
  · have run := serdesTxWrite_guarded (time := time) d hacc
    refine ⟨fun hover => run.mono fun t ht => ht.trans (if_pos hover), fun hfit => run.mono fun t ht => ?_⟩
    rw [if_neg (Nat.not_lt.2 hfit)] at ht
    refine ⟨?_, ?_, ?_⟩ <;> rw [State.fld, ht, bitsOf_mergeMask_in _ _ (by decide)]
  · have run := femTimingWrite_guarded (time := time) d hacc
    have hfields : ∀ k, k < 3 → ∀ i, i < 6 → 8 * k + i < 32 ∧ (0x3F3F3F).testBit (8 * k + i) = true := by decide
    intro ok
    have hok : ok = true ↔ leadsOrdered d := by simp only [ok, Bool.and_eq_true, decide_eq_true_eq, and_assoc]
    refine ⟨fun hbad => run.mono fun t ht => ht.trans (if_neg (mt hok.2 (Bool.eq_false_iff.1 hbad))),
      fun hgood => run.mono fun t ht k hk => ?_⟩
    rw [State.fld, ht, if_pos (hok.1 hgood), bitsOf_mergeMask_in _ _ (hfields k hk)]

end Sys2Proof.Machine
end

section
/-! The traffic manager family (04_traffic_manager): what its shared operations leave of its frames, its registers and the DRAM. -/

namespace Sys2Proof.Machine

/-! ### Frames -/

theorem RegsOnly.tm {P : Nat → Prop} {s t : State} (h : RegsOnly P s t) : t.tm = s.tm :=
  show t.unregistered.tm = s.unregistered.tm by rw [h.rest]

theorem RegsOnly.dram {P : Nat → Prop} {s t : State} (h : RegsOnly P s t) : t.dram = s.dram :=
  show t.unregistered.dram = s.unregistered.dram by rw [h.rest]

theorem Traffic.tm {s t : State} (h : Traffic s t) : t.tm = s.tm := show t.offDram.tm = s.offDram.tm by rw [h.rest]

section
variable (s : State) (f : TmFrame)

@[simp] theorem reviewTm_tm : (reviewTm s).tm = s.tm := (reviewTm_regsOnly s).tm

@[simp] theorem putBarge_frames : (putBarge s f).tm.frames = s.tm.frames.map (fun x => if x.fid = f.fid then f else x) :=
  congrArg (·.frames) (reviewTm_tm _)

@[simp] theorem putBarge_dram : (putBarge s f).dram = s.dram := (reviewTm_regsOnly _).dram

@[simp] theorem freeBarge_frames : (freeBarge s f).tm.frames = s.tm.frames.filter (fun x => decide (x.fid ≠ f.fid)) :=
  congrArg (·.frames) (reviewTm_tm _)

@[simp] theorem releaseTag_tm (tag : Nat) : (releaseTag s tag).tm = s.tm := by
  unfold releaseTag
  repeat' split
  all_goals rfl

@[simp] theorem countDrop_frames (fq : Nat) : (countDrop s fq).tm.frames = s.tm.frames := by
  unfold countDrop
  dsimp only
  split <;> rfl

/-- A dropped frame leaves, and no other. -/
theorem tmDrop_frames : (tmDrop s f).tm.frames = s.tm.frames.filter (fun x => decide (x.fid ≠ f.fid)) := by
  simp only [tmDrop, reviewTm_tm, countDrop_frames, releaseTag_tm, freeBarge_frames]

end

/-! ### Registers -/

/-- The registers that follow the pools and the queue which FQ_SEL names. -/
def poolRegs : List Nat :=
  [Reg.tmCellsFree, Reg.tmBargesFree, Reg.tmSpillUsed, Reg.tmTmStat, Reg.tmFqStat, Reg.tmFqFrames, Reg.tmFqEnqLo, Reg.tmFqEnqLo + 4,
    Reg.tmFqDropLo, Reg.tmFqDropLo + 4]

/-- Any other register is as the frames' change found it. -/
theorem reg_reviewTm_ne (s : State) {a : Nat} (h : a ∉ poolRegs) : (reviewTm s).reg a = s.reg a := by
  simp only [poolRegs, List.mem_cons, List.not_mem_nil, or_false, not_or] at h
  obtain ⟨hcells, hbarges, hused, hstat, hfq, hframes, henq, henq4, hdrop, hdrop4⟩ := h
  unfold reviewTm
  extract_lets _ _ _ _ cells barges used stat _ queue frames
  rw [reg_setPair_ne _ _ _ hdrop hdrop4, reg_setPair_ne _ _ _ henq henq4, reg_setFld_ne _ _ _ _ _ hframes,
    reg_setFlds_ne _ _ _ hfq, reg_setFlds_ne _ _ _ hstat, reg_setFld_ne _ _ _ _ _ hused, reg_setFld_ne _ _ _ _ _ hbarges,
    reg_setFld_ne _ _ _ _ _ hcells]

/-- A reference released leaves the registers below GEN's. -/
theorem reg_releaseTag_low (s : State) (tag : Nat) {a : Nat} (ha : a < Reg.genGenStat) : (releaseTag s tag).reg a = s.reg a := by
  have href : ∀ k, a ≠ Reg.genSlotRef k := fun k => by simp only [Reg.genSlotRef, Reg.genGenStat] at *; omega
  unfold releaseTag
  split
  · exact reg_setFld_ne _ _ _ _ _ (Nat.ne_of_lt ha)
  · split
    · next k _ => exact reg_setNat_ne _ _ _ (href k)
    · rfl

/-- A drop counted in its flow queue and its port leaves the registers below the ports'. -/
theorem reg_countDrop_low (s : State) (fq : Nat) {a : Nat} (ha : a < Reg.tmPortDrop 0) : (countDrop s fq).reg a = s.reg a := by
  unfold countDrop
  dsimp only
  split
  · exact reg_inc_ne _ _ (by simp only [Reg.tmPortDrop] at *; omega)
  · rfl

/-- The counters and flags of the traffic manager below its ports' are as they were when a frame is dropped. -/
theorem reg_tmDrop (s : State) (f : TmFrame) {a : Nat} (ha : a < Reg.tmPortDrop 0) (hpool : a ∉ poolRegs) :
    (tmDrop s f).reg a = s.reg a := by
  have hgen : a < Reg.genGenStat := Nat.lt_trans ha (by decide)
  rw [tmDrop, reg_reviewTm_ne _ hpool, reg_countDrop_low _ _ ha, reg_releaseTag_low _ _ hgen, freeBarge, setBarges,
    reg_reviewTm_ne _ hpool]
  rfl

theorem reviewGhStall_frames (s : State) : (reviewGhStall s).tm.frames = s.tm.frames := rfl

theorem reviewGhStall_dram (s : State) : (reviewGhStall s).dram = s.dram := rfl

theorem dramUse_dram (s : State) (q off n : Nat) (write : Bool) : (dramUse s q off n write).dram = s.dram :=
  ((KeepsMemory.refl s).dramUse q off n write).dram

/-! ### Faults of a write to DRAM -/

/-- `t` has the address map, the capacities and the channels' states of `s`. -/
structure SameMode (s t : State) : Prop where
  map : t.fld (Reg.mcAddrMap 0) 0 2 = s.fld (Reg.mcAddrMap 0) 0 2
  cap : ∀ c, t.fld (Reg.mcCapMb c) 0 13 = s.fld (Reg.mcCapMb c) 0 13
  state : ∀ c, mcState t c = mcState s c

namespace SameMode

variable {s t : State}

theorem trans {u : State} (h : SameMode s t) (k : SameMode t u) : SameMode s u :=
  ⟨k.map.trans h.map, fun c => (k.cap c).trans (h.cap c), fun c => (k.state c).trans (h.state c)⟩

theorem of_mcSame (h : McSame s t) : SameMode s t where
  map := h.fld (by decide) 0 2
  cap c := h.fld (by simp only [Reg.mcCapMb]; omega) 0 13
  state := h.mcState

/-- MC_STAT.STATE does not follow a channel's queues. -/
theorem setChan (h : SameMode s t) (c : Nat) (x : McChan) : SameMode s (t.setChan c x) := by
  refine h.trans ⟨fld_of_reg (reg_setChan_ne t c x ?_) 0 2, fun j => fld_of_reg (reg_setChan_ne t c x ?_) 0 13, fun j => ?_⟩
  · simp only [Reg.mcAddrMap, Reg.mcMcStat]; omega
  · simp only [Reg.mcCapMb, Reg.mcMcStat]; omega
  · by_cases hj : j = c
    · subst hj
      rw [mcState, mcState, State.fld, State.setChan, reg_setFlds_same]
      simp only [List.foldl]
      rw [bitsOf_putBits_out _ _ _ _ _ _ (.inl (by decide)), bitsOf_putBits_out _ _ _ _ _ _ (.inl (by decide))]
      rfl
    · exact fld_of_reg (reg_setChan_ne t c x (by simp only [Reg.mcMcStat]; omega)) 0 3

theorem dramMode (h : SameMode s t) : dramMode t = dramMode s := by simp only [Machine.dramMode, h.map]

theorem mcLive (h : SameMode s t) (c : Nat) : mcLive t c = mcLive s c := by
  have hfld : t.fld (Reg.mcMcStat c) 0 3 = s.fld (Reg.mcMcStat c) 0 3 := h.state c
  simp only [Machine.mcLive, Machine.mcRun, hfld]

theorem dramCap (h : SameMode s t) : dramCap t = dramCap s := by
  simp only [Machine.dramCap, h.dramMode, h.mcLive, h.cap]

theorem dramChan (h : SameMode s t) (off : Nat) : dramChan t off = dramChan s off := by
  simp only [Machine.dramChan, h.dramMode, h.cap]

/-- Whether a write gets an error response follows from the mode (R44, R393). -/
theorem dramFault_write (h : SameMode s t) (off n : Nat) : dramFault t off n true = dramFault s off n true := by
  simp only [dramFault, h.dramCap, h.state, h.dramChan, Bool.true_or, Bool.not_true, Bool.false_and]

end SameMode

theorem transit_mcSame (s : State) {p : Nat} (hp : p < 54) (n k : Nat) : McSame s (transit s p n k) :=
  ((PoundOnly.refl s).ofRegs (transit_regsOnly s p n k)).mcSame hp

/-- A write without an error response leaves the controllers' mode (R388). -/
theorem dramUse_write_sameMode {s : State} {q : Nat} (hq : q < 8) {off n : Nat} (hok : dramFault s off n true = none) :
    SameMode s (dramUse s q off n true) := by
  unfold dramUse
  extract_lets _ _ counted asked answered
  have hanswered : SameMode s answered :=
    .of_mcSame (((bwCount_mcSame _ _ _ _).trans (transit_mcSame _ (by omega) _ _)).trans (transit_mcSame _ (by omega) _ _))
  clear_value answered
  rw [hanswered.dramFault_write, hok]
  exact each_ind answered (SameMode s) _ _ hanswered fun c _ u hu => by
    split
    · exact hu
    · exact hu.setChan _ _

end Sys2Proof.Machine
end

section
/-! The traffic manager family: spilled frames (R160, R162 to R164). -/

namespace Sys2Proof.Machine

/-! ### Spill cells -/

/-- `t` has the frames of `s`, and its registers but for what the traffic of accesses to DRAM writes. -/
structure SpillKept (s t : State) : Prop where
  regs : ∀ a, ¬inTraffic a → t.reg a = s.reg a
  tm : t.tm = s.tm

theorem Traffic.spillKept {s t : State} (h : Traffic s t) : SpillKept s t := ⟨h.regs, h.tm⟩

namespace SpillKept

variable {s t : State}

theorem refl (s : State) : SpillKept s s := ⟨fun _ _ => rfl, rfl⟩

theorem trans {u : State} (h : SpillKept s t) (k : SpillKept t u) : SpillKept s u :=
  ⟨fun a ha => (k.regs a ha).trans (h.regs a ha), k.tm.trans h.tm⟩

/-- The spill region lies where it lay. -/
theorem spillOff (h : SpillKept s t) (c : Nat) : spillOff t c = spillOff s c := by
  simp only [Machine.spillOff, State.regN, State.fld, h.regs Reg.tmSpillBaseLo (by decide), h.regs Reg.tmSpillBaseHi (by decide)]

theorem frames (h : SpillKept s t) : t.tm.frames = s.tm.frames := congrArg (·.frames) h.tm

end SpillKept

/-- Up to 256 bytes written to the spill cell at an offset, unless DRAM answers with an error. -/
def cellWritten (s : State) (off : Nat) (d : List Byte) : State :=
  let t := dramUse s 1 off 256 true
  if (dramFault t off 256 true).isNone then t.dramWrite off d else t

theorem spillStore_cons (s : State) (c : Nat) (r : List Nat) (d : List Byte) :
    spillStore s (c :: r) d = spillStore (cellWritten s (spillOff s c) (d.take 256)) r (d.drop 256) := rfl

section
variable (s : State) (off : Nat)

theorem dramUse_spillKept (n : Nat) (write : Bool) : SpillKept s (dramUse s 1 off n write) :=
  ((Traffic.refl s).dramUse (by decide) off n write).spillKept

theorem cellWritten_kept (d : List Byte) : SpillKept s (cellWritten s off d) := by
  have hused := dramUse_spillKept s off 256 true
  unfold cellWritten
  dsimp only
  split
  · exact ⟨hused.regs, hused.tm⟩
  · exact hused

/-- Bytes outside the cell are as they were. -/
theorem memGet_cellWritten_out {d : List Byte} (hd : d.length ≤ 256) {o : Nat} (ho : ¬(off ≤ o ∧ o < off + 256)) :
    memGet (cellWritten s off d).dram o = memGet s.dram o := by
  unfold cellWritten
  dsimp only
  split
  · rw [State.dramWrite, memGet_memWrite_out _ _ _ _ (by omega), dramUse_dram]
  · rw [dramUse_dram]

/-- Without an error response the cell holds the bytes written. -/
theorem memGet_cellWritten_in (hok : dramFault s off 256 true = none) {d : List Byte} {i : Nat} (hi : i < d.length) :
    memGet (cellWritten s off d).dram (off + i) = d.getD i 0 := by
  have hstill := (dramUse_write_sameMode (q := 1) (by decide) hok).dramFault_write off 256
  simp only [cellWritten, hstill, hok, Option.isNone_none, if_true, State.dramWrite, memGet_memWrite]
  rw [if_pos (by omega), Nat.add_sub_cancel_left]

end

theorem spillStore_kept (cs : List Nat) : ∀ (s : State) (d : List Byte), SpillKept s (spillStore s cs d) := by
  induction cs with
  | nil => exact fun s _ => .refl s
  | cons c r ih => exact fun s d => (cellWritten_kept s _ _).trans (ih _ _)

/-- Bytes outside a frame's spill cells are as they were. -/
theorem memGet_spillStore_out (cs : List Nat) : ∀ (s : State) (d : List Byte) {o : Nat},
    (∀ c ∈ cs, ¬(spillOff s c ≤ o ∧ o < spillOff s c + 256)) → memGet (spillStore s cs d).dram o = memGet s.dram o := by
  induction cs with
  | nil => exact fun _ _ _ _ => rfl
  | cons c r ih =>
    intro s d o ho
    have hkept := cellWritten_kept s (spillOff s c) (d.take 256)
    rw [spillStore_cons, ih _ _ fun k hk => by rw [hkept.spillOff]; exact ho k (List.mem_cons_of_mem c hk)]
    exact memGet_cellWritten_out s _ (List.length_take_le 256 d) (ho c List.mem_cons_self)

/-- The reads of a frame's spill cells. -/
def cellsRead (s : State) (f : TmFrame) : State := s.each f.spillAt (fun c u => dramUse u 1 (spillOff s c) 256 false)

theorem cellsRead_kept (s : State) (f : TmFrame) : SpillKept s (cellsRead s f) :=
  each_ind s (SpillKept s) _ _ (.refl s) fun _ _ u hu => hu.trans (dramUse_spillKept u _ _ _)

/-! ### SPILL_WRITE_DONE -/

section
variable {s : State} {fid : Nat} {f : TmFrame} (time : Nat) (hbarge : barge s fid = some f) (hup : islUp s 5 = true)
include hbarge hup

section
variable (hspilled : f.spilled = true) (hwhole : f.whole = true) (hwritten : f.written = false)
include hspilled hwhole hwritten

theorem exec_spillWriteDone : exec (.spillWriteDone time fid) s = done s (reviewGhStall (putBarge
    (spillStore (s.at time) f.spillAt f.data) { f with written := true, spillAt := f.spillAt.take f.cells })) := by
  have hat : barge (s.at time) fid = some f := hbarge
  have hupAt : islUp (s.at time) 5 = true := hup
  simp only [exec, execSpillWriteDone, hat, hupAt, hspilled, hwhole, hwritten, Bool.and_true, Bool.not_false, if_true]

/-- The frame is written and keeps the cells it needs, and memory outside its cells is as it was (R160). -/
theorem spillWriteDone_writes : Runs (.spillWriteDone time fid) s fun t =>
    t.tm.frames = s.tm.frames.map (fun x => if x.fid = f.fid then { f with written := true, spillAt := f.spillAt.take f.cells } else x) ∧
    ∀ o, (∀ c ∈ f.spillAt, ¬(spillOff s c ≤ o ∧ o < spillOff s c + 256)) → memGet t.dram o = memGet s.dram o := by
  refine runs_of_done (exec_spillWriteDone time hbarge hup hspilled hwhole hwritten) ⟨?_, fun o ho => ?_⟩
  · rw [finish_tm, reviewGhStall_frames, putBarge_frames, (spillStore_kept _ _ _).frames]
    rfl
  · rw [finish_dram, reviewGhStall_dram, putBarge_dram]
    exact memGet_spillStore_out _ (s.at time) _ ho

/-- The bytes of a frame of one cell stand in it (R160). -/
theorem spillWriteDone_stores {c : Nat} (hcell : f.spillAt = [c])
    (hok : (dramFault (s.at time) (spillOff s c) 256 true).isSome = false) : Runs (.spillWriteDone time fid) s fun t =>
    ∀ i, i < f.data.length → i < 256 → memGet t.dram (spillOff s c + i) = f.data.getD i 0 := by
  have hnone : dramFault (s.at time) (spillOff s c) 256 true = none := by simpa using hok
  refine runs_of_done (exec_spillWriteDone time hbarge hup hspilled hwhole hwritten) fun i hi hcellEnd => ?_
  rw [finish_dram, reviewGhStall_dram, putBarge_dram, hcell, spillStore_cons]
  exact (memGet_cellWritten_in (s.at time) _ hnone (by rw [List.length_take]; omega)).trans (getD_sliceB_zero _ hcellEnd)

end

/-! ### SPILL_FETCH_DONE -/

section
variable (hfetch : f.fetch = 1)
include hfetch

theorem exec_spillFetchDone (ok : Bool) : exec (.spillFetchDone time fid ok) s = done s
    (if ok && f.spillAt.all (fun c => (dramFault (s.at time) (spillOff s c) 256 false).isNone) then
      reviewGhStall (putBarge (cellsRead (s.at time) f)
        { f with data := spillLoad s f.spillAt f.data.length, fetch := 2, spillAt := [] })
    else reviewGhStall (tmDrop (((cellsRead (s.at time) f).inc Reg.tmDropDram).raise Reg.tmIrqRaw 3) f)) := by
  have hat : barge (s.at time) fid = some f := hbarge
  have hrun : ¬(islUp (s.at time) 5 = false ∨ f.fetch ≠ 1) := not_or.2 ⟨Bool.not_eq_false _ ▸ hup, not_not.2 hfetch⟩
  simp only [exec, execSpillFetchDone, hat, if_neg hrun]
  rfl

/-- An error response drops the frame (R163). -/
theorem spillFetchDone_drops {ok : Bool}
    (hbad : ok = false ∨ f.spillAt.any (fun c => (dramFault (s.at time) (spillOff s c) 256 false).isSome) = true) :
    Runs (.spillFetchDone time fid ok) s fun t =>
      t.tm.frames = s.tm.frames.filter (fun x => decide (x.fid ≠ f.fid)) ∧
      t.regN Reg.tmDropDram = min (s.regN Reg.tmDropDram + 1) 0xFFFFFFFF ∧ t.bit Reg.tmIrqRaw 3 = true := by
  have hread := cellsRead_kept (s.at time) f
  have hfail : ¬(ok && f.spillAt.all (fun c => (dramFault (s.at time) (spillOff s c) 256 false).isNone)) = true := by
    rcases hbad with rfl | hany
    · simp
    · obtain ⟨c, hc, hsome⟩ := List.any_eq_true.1 hany
      intro hall
      have hnone := List.all_eq_true.1 (Bool.and_eq_true _ _ ▸ hall).2 c hc
      rw [Option.isNone_iff_eq_none.1 hnone] at hsome
      exact absurd hsome (by decide)
  have hexec := exec_spillFetchDone time hbarge hup hfetch ok
  rw [if_neg hfail] at hexec
  refine runs_of_done hexec ⟨?_, ?_, ?_⟩
  · rw [finish_tm, reviewGhStall_frames, tmDrop_frames]
    exact congrArg (List.filter _) hread.frames
  · rw [State.regN, finish_reg _ _ _ (by decide), reg_reviewGhStall, reg_tmDrop _ _ (by decide) (by decide),
      reg_raise_ne _ _ _ (by decide)]
    refine (inc_regN_same _ _).trans ?_
    rw [State.regN, hread.regs _ (by decide)]
    rfl
  · rw [State.bit, finish_reg _ _ _ (by decide), reg_reviewGhStall, reg_tmDrop _ _ (by decide) (by decide)]
    exact bit_raise_same _ _ _ (by decide)

/-- Without one the frame is complete in the fetch pool (R162). -/
theorem spillFetchDone_completes
    (hgood : f.spillAt.any (fun c => (dramFault (s.at time) (spillOff s c) 256 false).isSome) = false) :
    Runs (.spillFetchDone time fid true) s fun t => t.tm.frames = s.tm.frames.map (fun x => if x.fid = f.fid then
      { f with data := spillLoad s f.spillAt f.data.length, fetch := 2, spillAt := [] } else x) := by
  have hall : (true && f.spillAt.all (fun c => (dramFault (s.at time) (spillOff s c) 256 false).isNone)) = true := by
    rw [Bool.true_and, List.all_eq_true]
    intro c hc
    simpa using List.any_eq_false.1 hgood c hc
  have hexec := exec_spillFetchDone time hbarge hup hfetch true
  rw [if_pos hall] at hexec
  refine runs_of_done hexec ?_
  rw [finish_tm, reviewGhStall_frames, putBarge_frames, (cellsRead_kept _ _).frames]
  rfl

end

end

/-! ### SPILL_FETCH -/

/-- The cells of the fetch pool that no fetched frame holds (R162). -/
def fetchFree (s : State) : Nat := 2048 - (s.tm.frames.map (fun f => if f.fetch = 0 then 0 else f.cells)).sum

section
variable {s : State} {fq : Fin 32768} {f : TmFrame} (time : Nat) (hup : islUp s 5 = true)
  (hnext : ((fqFrames s fq).take 4).find? (fun f => f.spilled && f.written && decide (f.fetch = 0)) = some f)
include hup hnext

theorem exec_spillFetch : exec (.spillFetch time fq) s =
    done s (if f.cells ≤ fetchFree s then putBarge (s.at time) { f with fetch := 1 } else s.at time) := by
  have hat : ((fqFrames (s.at time) fq).take 4).find? (fun f => f.spilled && f.written && decide (f.fetch = 0)) = some f := hnext
  have hupAt : islUp (s.at time) 5 = true := hup
  simp only [exec, execSpillFetch, hat, hupAt, Bool.true_and, decide_eq_true_eq]
  rfl

theorem spillFetch_begins (hroom : f.cells ≤ fetchFree s) : Runs (.spillFetch time fq) s fun t =>
    t.tm.frames = s.tm.frames.map (fun x => if x.fid = f.fid then { f with fetch := 1 } else x) := by
  have hexec := exec_spillFetch time hup hnext
  rw [if_pos hroom] at hexec
  refine runs_of_done hexec ?_
  rw [finish_tm, putBarge_frames]
  rfl

theorem spillFetch_waits (hfull : fetchFree s < f.cells) : Runs (.spillFetch time fq) s fun t => t.tm = s.tm := by
  have hexec := exec_spillFetch time hup hnext
  rw [if_neg (Nat.not_le.2 hfull)] at hexec
  exact runs_of_done hexec (finish_tm _ _)

end

/-- Settles O25: one lemma for each outcome of the three commands. -/
theorem spilledFramesComeBack : Obligations.SpilledFramesComeBack := by
  unfold Obligations.SpilledFramesComeBack
  refine ⟨fun time fid s f hbarge hup => ⟨fun hspilled hwhole hwritten => ⟨?_, fun c hcell hok => ?_⟩,
    fun hfetch => ⟨fun ok hbad => ?_, fun hgood => ?_⟩⟩, fun time fq s f hnext hup => ⟨fun hroom => ?_, fun hfull => ?_⟩⟩
  · exact (spillWriteDone_writes time hbarge hup hspilled hwhole hwritten).mono fun t ⟨hframes, hout⟩ => ⟨hframes, fun o _ => hout o⟩
  · exact (spillWriteDone_stores time hbarge hup hspilled hwhole hwritten hcell hok).mono fun t hin i hi hend _ => hin i hi hend
  · exact spillFetchDone_drops time hbarge hup hfetch hbad
  · exact spillFetchDone_completes time hbarge hup hfetch hgood
  · exact spillFetch_begins time hup hnext hroom
  · exact spillFetch_waits time hup hnext hfull

end Sys2Proof.Machine
end

section
/-! The traffic manager family: the refutation of the statement on admission, from a frame that bears the number to be given next. -/

namespace Sys2Proof.Machine

/-- No generation is current, so that every tag is retired; a frame of one word waits in PD28; and a frame without a byte bears number 0,
which is the next one. State.inv excludes that. -/
def takenNumber : State :=
  { State.reset with
    tm := { frames := [{ fid := 0, fq := 0, tag := 0, info := {}, cells := 1 }] }
    pounds := [(28, { ready := [⟨[1], true, false, true, {}⟩] })] }

/-- The word of the dropped frame goes to the frame of the same number. -/
theorem tmAdmit_grows_takenNumber : Runs (.tmAdmit 0) takenNumber fun t => t.tm.frames.map (·.data.length) = [1] :=
  ⟨_, rfl, by decide +kernel⟩

/-- Refutes O24: its clause on a retired tag lacks the premise that no frame bears the next number, which its clause on a failed condition
of admission has. In `takenNumber` the frames do not stay as they were. -/
theorem not_admissionPlacesOrDropsFrames : ¬ Obligations.AdmissionPlacesOrDropsFrames := by
  unfold Obligations.AdmissionPlacesOrDropsFrames
  rintro ⟨hadmit, -, -⟩
  obtain ⟨hretired, -⟩ := hadmit 0 takenNumber _ [] rfl (by decide +kernel) rfl
  obtain ⟨t, hgrown, -, hkept, -⟩ := tmAdmit_grows_takenNumber.both (hretired (by decide +kernel))
  rw [hkept] at hgrown
  exact absurd hgrown (by decide)

end Sys2Proof.Machine
end

section
/-! The traffic manager family: the refutation of the statement on ports, from a SHAPE table of more flow queues than R143 allows. -/

namespace Sys2Proof.Machine

/-- Slot 0 is current with a SHAPE table of 32,769 flow queues, one more than R143 allows, and one subscriber, whose buckets all have rate
and cap 0; port 0 sends a whole frame of one byte of flow queue 32768, which lies below subscriber 0. -/
def wideShape : State :=
  { (State.reset.setNat (Reg.genSlotStat 0) 4).setNat Reg.genGenStat 0x10001 with
    gen := { pages := [(0, [0])] }
    tstore := [(0x0A, 1), (0x40, 7), (0x42, 1), (0x43, 0x80), (0x44, 0x80), (0x80, 1)]
    tm := { frames := [{ fid := 0, fq := 32768, tag := 0, info := {}, data := [1], whole := true, cells := 1, started := true }],
            sel := [(0, some 0)] } }

/-- Flow queue 32768 and subscriber 0 share a bucket, which pays for the byte twice. -/
theorem frameEgressComplete_charges_twice :
    Runs (.frameEgressComplete 0 0) wideShape fun t => bktLevel t 0 32768 0 t.dt = -16000000 :=
  ⟨_, rfl, by decide +kernel⟩

/-- Refutes O26: its clause on FRAME_EGRESS_COMPLETE does not bound the frame's flow queue by R143's 32,768. In `wideShape` the bucket of
flow queue 32768 falls by twice the frame's length. -/
theorem not_portsSelectAndChargeFrames : ¬ Obligations.PortsSelectAndChargeFrames := by
  unfold Obligations.PortsSelectAndChargeFrames
  rintro ⟨hports, -, -, -⟩
  obtain ⟨-, -, hcomplete⟩ := hports 0 0 wideShape (outPound 0) rfl (by decide +kernel)
  obtain ⟨t, htwice, -, -, -, -, -, -, -, hcharged⟩ :=
    frameEgressComplete_charges_twice.both (hcomplete _ rfl rfl rfl (by decide +kernel) (by decide +kernel))
  have honce := hcharged (by decide +kernel) (by decide +kernel) 0 (by decide) (by decide +kernel)
  rw [htwice] at honce
  exact absurd honce (by decide +kernel)

end Sys2Proof.Machine
end

section
/-! The traffic manager family: the refutation of the statement on air entries, from a modem that takes FORFEIT_CNT back. -/

namespace Sys2Proof.Machine

/-- Slot 0 is current with one air entry of Radio H, QUIET, which fires in every round at its boundary; Radio H's island is off with its
receive path in LISTEN, and its modem holds, to be taken back at DT 0, a value of FORFEIT_CNT. -/
def undoneForfeit : State :=
  let gen := (State.reset.setNat (Reg.genSlotStat 0) 4).setNat Reg.genGenStat 0x10001
  let off := ((gen.setNat (Reg.topIslStat 8) 0).setNat (Reg.rdRdStat 0) 0x100).setNat (Reg.mdmStat 0) 0
  { off.setRadio 0 { undo := some ⟨0, [(Reg.airForfeitCnt 0 0, 7)], 0, none, 0⟩ } with
    gen := { pages := [(0, [0])] }
    tstore := [(0x0A, 1), (0x40, 9), (0x42, 1), (0x44, 0x80), (0x80, 5), (0x8A, 1), (0x8C, 1)] }

/-- The forfeit's review of the radios switches the modem off, which puts back the register of its record (R305) before the forfeit
counts. -/
theorem airEntryFire_undoes : Runs (.airEntryFire 0 .h 0) undoneForfeit fun t => t.regN (Reg.airForfeitCnt 0 0) = 8 :=
  ⟨_, rfl, by decide +kernel⟩

/-- Refutes O27: its clause on a failed check speaks of every state, and in `undoneForfeit` the modem's record names FORFEIT_CNT, which no
run of the device puts there: the count goes from 0 to 8. -/
theorem not_airEntriesFireOrAreForfeited : ¬ Obligations.AirEntriesFireOrAreForfeited := by
  unfold Obligations.AirEntriesFireOrAreForfeited
  rintro ⟨hfire, -, -⟩
  obtain ⟨-, -, -, hforfeit⟩ := hfire 0 .h 0 undoneForfeit (by decide +kernel) rfl
  obtain ⟨t, height, -, hone, -⟩ := airEntryFire_undoes.both (hforfeit 0 (by decide +kernel) (by decide +kernel))
  have hzero : (namesFirst (undoneForfeit.at 0) (rIdx .h)).regN (Reg.airForfeitCnt (rIdx .h) 0) = 0 := by decide +kernel
  rw [hzero] at hone
  exact absurd (height.symm.trans hone) (by decide)

end Sys2Proof.Machine
end

section
/-! Proofs of the air scheduling family (05_air_scheduling): refutations from modems that take registers of other blocks back. -/

namespace Sys2Proof.Machine

/-- A radio whose modem keeps, to be taken back where the receive path leaves LISTEN at DT `d` (R305), a value of register `a`. A run of
the device keeps the modem's counters alone (`mdmMark`); the statements are over every state and do not exclude others. -/
def takesBack (d a : Nat) (v : Word) : RdState := { undo := some ⟨d, [(a, v)], 0, none, 0⟩ }

/-- An exchange for which IEEE 802.11 gives no PPDU, so that nothing fits. -/
def noAirtime : Airtime := ⟨[], 0, none, 0, 0, 0, 0, 0, 0⟩

/-! ### Exchanges -/

/-- Radio H is ready in a BCN entry. Radio M's synthesiser is off with its receive path in LISTEN, and its modem takes back a count of
Radio H's forfeits under check 6. -/
def undoneRefusal : State :=
  let ready := (State.reset.setNat (Reg.rdRdStat 0) 3).setNat (Reg.rdRdCtrl 0) 1
  let listens := (ready.setNat (Reg.rdRdStat 1) 0x100).setNat (Reg.mdmStat 1) 0
  (listens.setRadio 1 (takesBack 0 (Reg.airForfeitCnt 0 5) 7)).setAirOf 0
    { play := some { entry := 0, start := 0, stop := 1000000, ty := 0, flags := 0, arg := 0, chan := 0 } }

/-- The beacon fits no length, and the refusal reviews the radios before it counts: the count goes on from what Radio M's modem put
there. -/
theorem txRequest_undoes :
    Runs (.txRequest 0 .h .player noAirtime) undoneRefusal fun t => t.regN (Reg.airForfeitCnt 0 5) = 8 :=
  ⟨_, rfl, by decide +kernel⟩

/-- Refutes O28: in `undoneRefusal` check 6 refuses the player's beacon (R182, R184), and its count goes from 0 to 8 where Judged, over
every state, says 1. -/
theorem not_exchangesPassTheirChecks : ¬ Obligations.ExchangesPassTheirChecks := by
  unfold Obligations.ExchangesPassTheirChecks
  rintro ⟨hplayer, -, -, -, -⟩
  obtain ⟨hbeacon, -, -, -⟩ := hplayer 0 .h noAirtime undoneRefusal (.txRequest 0 .h .player noAirtime, undoneRefusal.at 0)
    (List.mem_cons_of_mem _ (List.mem_singleton_self _)) _ rfl rfl (by decide +kernel) (by decide +kernel) (by decide +kernel)
  obtain ⟨-, hrefused, -⟩ := hbeacon rfl rfl
  obtain ⟨t, height, -, -, hone⟩ := txRequest_undoes.both (hrefused 5 (by decide +kernel))
  have hzero : (dropRest (fillEntry (stockAll (undoneRefusal.at 0) (rIdx .h)) (rIdx .h)) (rIdx .h)).regN
      (Reg.airForfeitCnt (rIdx .h) 5) = 0 := by decide +kernel
  rw [hzero] at hone
  exact absurd (height.symm.trans hone) (by decide)

/-! ### LISTEN windows -/

/-- The window of a LISTEN entry in play is due on Radio H, whose island is off with its receive path in LISTEN, and whose modem takes
back a count of forfeits under check 1. -/
def undoneWindow : State :=
  let listens := ((State.reset.setNat (Reg.topIslStat 8) 0).setNat (Reg.rdRdStat 0) 0x100).setNat (Reg.mdmStat 0) 0
  (listens.setRadio 0 (takesBack 0 (Reg.airForfeitCnt 0 0) 7)).setAirOf 0
    { play := some { entry := 0, start := 0, stop := 1000000, ty := 3, flags := 0, arg := 0, chan := 0 },
      listen := some { sta := 0, entry := 0, stop := 1000000, limit := 1000000, opn := 0, cls := 1000000, named := true, sUs := 0 } }

/-- The forfeit counts before the radios are reviewed, and the modem puts its value back over the count. -/
theorem listenWindowOpen_undoes :
    Runs (.listenWindowOpen 0 .h) undoneWindow fun t => t.regN (Reg.airForfeitCnt 0 0) = 7 :=
  ⟨_, rfl, by decide +kernel⟩

/-- Refutes O29: in `undoneWindow` check 1 fails (R181) and the window is forfeited, but FORFEIT_CNT goes from 0 to 7 and not to 1. -/
theorem not_listenWindowsAndStationRecords : ¬ Obligations.ListenWindowsAndStationRecords := by
  unfold Obligations.ListenWindowsAndStationRecords
  rintro ⟨hopen, -, -, -, -⟩
  obtain ⟨-, hforfeit⟩ := hopen 0 .h undoneWindow _ rfl _ rfl rfl rfl (by decide +kernel)
  obtain ⟨t, hseven, -, -, hone, -⟩ := listenWindowOpen_undoes.both (hforfeit 0 (by decide +kernel))
  have hzero : undoneWindow.regN (Reg.airForfeitCnt (rIdx .h) 0) = 0 := by decide +kernel
  rw [hzero] at hone
  exact absurd (hseven.symm.trans hone) (by decide)

/-! ### Transmit paths -/

/-- Radio H is in TAIL since DT 0 with its last PPDU sent and its synthesiser off; its receive path is in LISTEN, and its modem takes
RD_STAT back. -/
def undoneTail : State :=
  let tail := (State.reset.setNat (Reg.rdRdStat 0) 0x150).setNat (Reg.mdmStat 0) 0
  tail.setRadio 0 { takesBack 1600 (Reg.rdRdStat 0) 0x150 with
    run := some { kind := .sp, air := noAirtime, start := 0, limit := 0 } }

/-- As the path returns to IDLE the receive path leaves LISTEN, and the modem puts TX_STATE back. -/
theorem txTailEnd_undoes : Runs (.txTailEnd 1600 .h) undoneTail fun t => txState t 0 = 5 := ⟨_, rfl, by decide +kernel⟩

/-- Refutes O35: in `undoneTail` the tail ends 1.6 µs after the last sample (R270), and the path shows TAIL and not IDLE. -/
theorem not_transmitPathsFollowTheirStates : ¬ Obligations.TransmitPathsFollowTheirStates := by
  unfold Obligations.TransmitPathsFollowTheirStates
  intro h
  obtain ⟨-, -, -, -, -, hend⟩ := h 1600 .h undoneTail _ rfl
  obtain ⟨t, htail, hidle, -⟩ := txTailEnd_undoes.both (hend (by decide +kernel) (by decide +kernel))
  exact absurd (htail.symm.trans hidle) (by decide)

end Sys2Proof.Machine
end

section
/-! The air scheduling family: REORDER_TIMEOUT moves a receive window past the oldest held frame (O31). -/

namespace Sys2Proof.Machine

/-! ### What releasing a held frame leaves -/

/-- `t` has the sequence spaces and the FLUSH counters of `s`. -/
structure WindowsKept (s t : State) : Prop where
  spaces : t.sta.spaces = s.sta.spaces
  flush : ∀ x, t.reg (Reg.staRxCnt x 7) = s.reg (Reg.staRxCnt x 7)

theorem spaceOf_congr {s t : State} (h : t.sta.spaces = s.sta.spaces) (a sp : Nat) : spaceOf t a sp = spaceOf s a sp := by
  rw [spaceOf, h]; rfl

/-- A cause of R233 before FLUSH has its counter apart from every FLUSH counter. -/
theorem staRxCnt_ne_flush {c : Nat} (hc : c < 7) (x y : Nat) : Reg.staRxCnt x 7 ≠ Reg.staRxCnt y c := by
  simp only [Reg.staRxCnt]; omega

namespace WindowsKept

variable {s t : State}

theorem refl (s : State) : WindowsKept s s := ⟨rfl, fun _ => rfl⟩

theorem trans {u : State} (h : WindowsKept s t) (k : WindowsKept t u) : WindowsKept s u :=
  ⟨k.spaces.trans h.spaces, fun x => (k.flush x).trans (h.flush x)⟩

theorem setReg (h : WindowsKept s t) {a : Nat} (v : Word) (ha : ∀ x, Reg.staRxCnt x 7 ≠ a) : WindowsKept s (t.setReg a v) :=
  h.trans ⟨rfl, fun x => reg_setReg_ne t v (ha x)⟩

theorem setRadio (h : WindowsKept s t) (x : Nat) (r : RdState) : WindowsKept s (t.setRadio x r) := h.trans ⟨rfl, fun _ => rfl⟩

theorem each {α : Type} (h : WindowsKept s t) (l : List α) {f : α → State → State}
    (hf : ∀ x ∈ l, ∀ u, WindowsKept s u → WindowsKept s (f x u)) : WindowsKept s (t.each l f) :=
  each_ind t (fun u => WindowsKept s u) l f h hf

theorem poundPush (h : WindowsKept s t) {p : Nat} (hp : p < 54) (w : PWord) : WindowsKept s (poundPush t p w) := by
  have k := (PoundOnly.refl t).poundPush (p := p) w
  exact h.trans ⟨congrArg (·.sta.spaces) k.rest, fun x => k.regs _ (by simp only [inPoundRegs, Reg.staRxCnt]; omega)⟩

theorem traffic {u : State} (h : WindowsKept s t) (k : Traffic t u) : WindowsKept s u :=
  h.trans ⟨congrArg (·.sta.spaces) k.rest, fun x => k.regs _ (by simp only [inTraffic, Reg.staRxCnt]; omega)⟩

theorem radioDrain {x : Nat} (hx : x < 3) (n : Nat) : ∀ {t : State}, WindowsKept s t → WindowsKept s (radioDrain t x n) := by
  induction n with
  | zero => intro t h; exact h
  | succ n ih =>
    intro t h
    unfold Machine.radioDrain
    split
    · exact h
    · next w r _ =>
      split
      · exact ih ((h.setRadio _ _).poundPush (by omega) w)
      · exact h

theorem deliverFrame (h : WindowsKept s t) {x : Nat} (hx : x < 3) (port ts a tid : Nat) (f : List Byte) :
    WindowsKept s (deliverFrame t x port ts a tid f) := radioDrain hx _ (h.setRadio _ _)

theorem deliverMgmt (h : WindowsKept s t) {x : Nat} (hx : x < 3) (ts rssi a : Nat) (unknown : Bool) (m : Mpdu) :
    WindowsKept s (deliverMgmt t x ts rssi a unknown m) := h.deliverFrame hx _ _ _ _ _

theorem rxDrop (h : WindowsKept s t) (x : Nat) {c : Nat} (hc : c < 7) : WindowsKept s (rxDrop t x c) :=
  h.setReg _ fun y => staRxCnt_ne_flush hc y x

theorem roDrop (h : WindowsKept s t) (n : Nat) : WindowsKept s (roDrop t n) := by
  unfold Machine.roDrop
  split
  · exact h
  · refine (h.setReg (a := Reg.staRoDrop) _ fun x => ?_).setReg (a := Reg.staIrqRaw) _ fun x => ?_
    · simp only [Reg.staRxCnt, Reg.staRoDrop]; omega
    · simp only [Reg.staRxCnt, Reg.staIrqRaw]; omega

theorem setRxPn (h : WindowsKept s t) (a x : Nat) (m : Mpdu) : WindowsKept s (setRxPn t a x m) := by
  unfold Machine.setRxPn
  extract_lets _ k
  split
  · exact h.trans ⟨rfl, fun _ => rfl⟩
  · exact h.trans ⟨rfl, fun _ => rfl⟩

/-- Steps 6 to 8 of R233. -/
theorem releaseMpdu (h : WindowsKept s t) (a : Nat) {k : Held} (hk : k.x < 3) : WindowsKept s (releaseMpdu t a k) := by
  unfold Machine.releaseMpdu
  extract_lets m u
  have hu : WindowsKept s u := by
    simp only [u]
    split
    · exact h.setRxPn _ _ _
    · exact h
  clear_value u
  split
  · exact h.rxDrop _ (by decide)
  · split
    · split
      · exact hu.rxDrop _ (by decide)
      · exact hu.each _ fun _ _ _ hv => hv.deliverFrame hk _ _ _ _ _
    · exact hu.deliverMgmt hk _ _ _ _ _

/-- A held frame read back and released (R243, R245). -/
theorem releaseHeld (h : WindowsKept s t) (a : Nat) {k : Held} (hk : k.x < 3) : WindowsKept s (releaseHeld t a k) := by
  unfold Machine.releaseHeld
  extract_lets u d
  have hu : WindowsKept s u := h.each _ fun _ _ v hv => hv.traffic ((Traffic.refl v).dramUse (by omega) _ _ _)
  clear_value u
  split
  · exact hu.roDrop _
  · exact hu.releaseMpdu _ (by split <;> exact hk)

theorem releaseAll (h : WindowsKept s t) (a : Nat) {l : List Held} (hl : ∀ k ∈ l, k.x < 3) :
    WindowsKept s (t.each l fun k u => Machine.releaseHeld u a k) := h.each _ fun k hk _ hu => hu.releaseHeld a (hl k hk)

end WindowsKept

/-! ### The window start -/

theorem spaceOf_setSpace (s : State) (a sp : Nat) (v : Space) : spaceOf (setSpace s a sp v) a sp = v := by
  simp [spaceOf, setSpace]

theorem flush_setSpace (s : State) (a sp : Nat) (v : Space) (x : Nat) :
    (setSpace s a sp v).reg (Reg.staRxCnt x 7) = s.reg (Reg.staRxCnt x 7) :=
  reg_setFld_ne _ _ _ _ _ (by simp only [Reg.staRxCnt, Reg.staRoUsed]; omega)

/-- A sequence space whose window start moves from `ws`, received, to the next number. -/
def stepped (w : Space) (ws : Nat) : Space :=
  { w with ws := some ((ws + 1) % 4096), got := w.got.filter (fun g => decide (g ≠ ws)),
           back := backOf w [ws] ((ws + 1) % 4096), held := w.held.filter (fun h => decide (h.m.sn.toNat ≠ ws)) }

/-- The state after one frame received at the window start is released. -/
def slide (s : State) (a sp ws : Nat) : State :=
  (setSpace s a sp (stepped (spaceOf s a sp) ws)).each ((spaceOf s a sp).held.filter (fun h => decide (h.m.sn.toNat = ws)))
    (fun h t => releaseHeld t a h)

section
variable {s : State} {a sp ws : Nat} (hws : (spaceOf s a sp).ws = some ws)
include hws

theorem advance_of_got (n : Nat) (hgot : (spaceOf s a sp).got.contains ws = true) :
    advance a sp (n + 1) s = advance a sp n (slide s a sp ws) := by
  rw [advance]
  simp only [hws, hgot, if_true]
  rfl

theorem advance_of_gap (n : Nat) (hgot : (spaceOf s a sp).got.contains ws = false) : advance a sp n s = s := by
  cases n with
  | zero => rfl
  | succ n =>
    rw [advance]
    simp only [hws, hgot, Bool.false_eq_true, if_false]

end

section
variable {s : State} {a sp : Nat} (hx : ∀ k ∈ (spaceOf s a sp).held, k.x < 3)
include hx

theorem slide_kept (ws : Nat) : WindowsKept (setSpace s a sp (stepped (spaceOf s a sp) ws)) (slide s a sp ws) :=
  (WindowsKept.refl _).releaseAll a fun k hk => hx k (List.mem_of_mem_filter hk)

theorem spaceOf_slide (ws : Nat) : spaceOf (slide s a sp ws) a sp = stepped (spaceOf s a sp) ws := by
  rw [spaceOf_congr (slide_kept hx ws).spaces, spaceOf_setSpace]

theorem flush_slide (ws x : Nat) : (slide s a sp ws).reg (Reg.staRxCnt x 7) = s.reg (Reg.staRxCnt x 7) := by
  rw [(slide_kept hx ws).flush, flush_setSpace]

end

/-- The run released at the window start leaves held frames of those before, every FLUSH counter, and a window start at which nothing
received stands, where the numbers received leave no more than `n` in a run from the window start. -/
theorem advance_spec {a sp : Nat} (n : Nat) : ∀ {s : State} {ws : Nat}, (spaceOf s a sp).ws = some ws → ws < 4096 →
    (∀ k ∈ (spaceOf s a sp).held, k.x < 3) →
    (∀ i, n ≤ i → i < 4096 → (ws + i) % 4096 ∉ (spaceOf s a sp).got) →
    (∀ k ∈ (spaceOf (advance a sp n s) a sp).held, k ∈ (spaceOf s a sp).held) ∧
    (∀ x, (advance a sp n s).reg (Reg.staRxCnt x 7) = s.reg (Reg.staRxCnt x 7)) ∧
    ∃ v, (spaceOf (advance a sp n s) a sp).ws = some v ∧ (spaceOf (advance a sp n s) a sp).got.contains v = false := by
  induction n with
  | zero =>
    intro s ws hws hlt _ hrun
    have hgap := hrun 0 (Nat.zero_le _) (by decide)
    rw [Nat.add_zero, Nat.mod_eq_of_lt hlt] at hgap
    exact ⟨fun _ hk => hk, fun _ => rfl, ws, hws, by simpa [advance] using hgap⟩
  | succ n ih =>
    intro s ws hws hlt hx hrun
    by_cases hgot : (spaceOf s a sp).got.contains ws = true
    · have hslid := spaceOf_slide hx ws
      have hheld : ∀ k ∈ (spaceOf (slide s a sp ws) a sp).held, k ∈ (spaceOf s a sp).held := by
        rw [hslid]; exact fun k hk => List.mem_of_mem_filter hk
      have hrun' : ∀ i, n ≤ i → i < 4096 → ((ws + 1) % 4096 + i) % 4096 ∉ (spaceOf (slide s a sp ws) a sp).got := by
        intro i hn hi hmem
        rw [hslid, stepped, List.mem_filter, decide_eq_true_eq] at hmem
        obtain ⟨hin, hne⟩ := hmem
        have hnext : ((ws + 1) % 4096 + i) % 4096 = (ws + (i + 1)) % 4096 := by omega
        rw [hnext] at hin hne
        exact hrun (i + 1) (by omega) (by omega) hin
      obtain ⟨hsub, hflush, hstop⟩ := ih (by rw [hslid]; rfl) (Nat.mod_lt _ (by decide)) (fun k hk => hx k (hheld k hk)) hrun'
      rw [advance_of_got hws n hgot]
      exact ⟨fun k hk => hheld k (hsub k hk), fun x => (hflush x).trans (flush_slide hx ws x), hstop⟩
    · have hgap := Bool.eq_false_iff.2 hgot
      rw [advance_of_gap hws _ hgap]
      exact ⟨fun _ hk => hk, fun _ => rfl, ws, hws, hgap⟩

/-! ### The window start moved ahead -/

/-- A sequence number lies less than `n` ahead of window start `ws`. -/
def below (ws n g : Nat) : Bool := decide (snDist ws g < n)

/-- A sequence space whose window start moves from `ws` ahead to `target`. -/
def moved (w : Space) (ws target : Nat) : Space :=
  { w with ws := some target, got := w.got.filter (fun g => !below ws (snDist ws target) g),
           back := backOf w (w.got.filter (below ws (snDist ws target))) target,
           held := w.held.filter (fun h => !below ws (snDist ws target) h.m.sn.toNat) }

/-- The frames held that the window start passes, in the order of their release. -/
def passed (w : Space) (ws target : Nat) : List Held :=
  (w.held.filter (fun h => below ws (snDist ws target) h.m.sn.toNat)).mergeSort
    (fun h k => decide (snDist ws h.m.sn.toNat ≤ snDist ws k.m.sn.toNat))

/-- The numbers that the window start passes without their frames received. -/
def holes (w : Space) (ws target : Nat) : Nat := snDist ws target - (w.got.filter (below ws (snDist ws target))).length

/-- The state once the frames that the window start passes are released. -/
def released (s : State) (a sp ws target : Nat) : State :=
  (setSpace s a sp (moved (spaceOf s a sp) ws target)).each (passed (spaceOf s a sp) ws target) (fun h t => releaseHeld t a h)

section
variable {s : State} {a sp ws : Nat} (hws : (spaceOf s a sp).ws = some ws)
include hws

theorem moveWs_eq (x target : Nat) :
    moveWs s x a sp target = (released s a sp ws target).addRc (Reg.staRxCnt x 7) (holes (spaceOf s a sp) ws target) := by
  unfold moveWs
  simp only [hws]
  rfl

variable (hx : ∀ k ∈ (spaceOf s a sp).held, k.x < 3)
include hx

omit hws in
theorem released_kept (target : Nat) :
    WindowsKept (setSpace s a sp (moved (spaceOf s a sp) ws target)) (released s a sp ws target) :=
  (WindowsKept.refl _).releaseAll a fun k hk => hx k (List.mem_of_mem_filter ((List.mergeSort_perm _ _).mem_iff.1 hk))

theorem spaceOf_moveWs (x target : Nat) : spaceOf (moveWs s x a sp target) a sp = moved (spaceOf s a sp) ws target := by
  rw [moveWs_eq hws]
  exact (spaceOf_congr (released_kept hx target).spaces a sp).trans (spaceOf_setSpace _ _ _ _)

/-- Each hole skipped counts under FLUSH. -/
theorem flush_moveWs (x target : Nat) : (moveWs s x a sp target).regN (Reg.staRxCnt x 7) =
    min (s.regN (Reg.staRxCnt x 7) + holes (spaceOf s a sp) ws target) 0xFFFFFFFF := by
  have hreg : (released s a sp ws target).regN (Reg.staRxCnt x 7) = s.regN (Reg.staRxCnt x 7) :=
    congrArg BitVec.toNat (((released_kept hx target).flush x).trans (flush_setSpace _ _ _ _ _))
  rw [moveWs_eq hws, State.addRc, regN_setNat_same, hreg]
  exact Nat.mod_eq_of_lt (by omega)

end

/-! ### REORDER_TIMEOUT -/

/-- The number after one that lies less than half of the space ahead of the window start lies one further ahead. -/
theorem snDist_succ {ws sn : Nat} (h : snDist ws sn < 2048) : snDist ws ((sn + 1) % 4096) = snDist ws sn + 1 := by
  simp only [snDist] at *; omega

theorem below_succ (ws n : Nat) : below ws (n + 1) = fun g => decide (snDist ws g ≤ n) :=
  funext fun _ => by simp only [below, Nat.lt_succ_iff]

/-- REORDER_TIMEOUT of a space whose oldest held frame has waited for RO_TO. -/
theorem exec_reorderTimeout {time : Nat} {a : Fin 4096} {tid : Fin 8} {s : State} {h : Held} {r : List Held}
    (hold : (spaceOf s a tid).held.mergeSort (fun h k => decide (h.since ≤ k.since)) = h :: r)
    (hdue : h.since + 1000000 * staFld s a 8 24 8 ≤ (s.at time).dt) :
    exec (.reorderTimeout time a tid) s =
      done s (advance a tid 4096 (moveWs (s.at time) h.x a tid ((h.m.sn.toNat + 1) % 4096))) := by
  have hold' : (spaceOf (s.at time) a tid).held.mergeSort (fun h k => decide (h.since ≤ k.since)) = h :: r := hold
  have hdue' : h.since + 1000000 * staFld (s.at time) a 8 24 8 ≤ (s.at time).dt := hdue
  show execReorderTimeout time a tid s = _
  unfold execReorderTimeout
  simp only [hold', if_pos hdue']

/-- The window start moves past the oldest held frame, and past the run that follows it. -/
theorem reorderTimeout_runs {time : Nat} {a : Fin 4096} {tid : Fin 8} {s : State} {h : Held} {r : List Held} {ws : Nat}
    (hold : (spaceOf s a tid).held.mergeSort (fun h k => decide (h.since ≤ k.since)) = h :: r)
    (hdue : h.since + 1000000 * staFld s a 8 24 8 ≤ (s.at time).dt) (hws : (spaceOf s a tid).ws = some ws)
    (hahead : snDist ws h.m.sn.toNat < 2048) (hx : ∀ k ∈ (spaceOf s a tid).held, k.x < 3) :
    Runs (.reorderTimeout time a tid) s fun t =>
      (∀ k ∈ (spaceOf t a tid).held,
        k ∈ (spaceOf s a tid).held ∧ k.m.sn ≠ h.m.sn ∧ snDist ws h.m.sn.toNat < snDist ws k.m.sn.toNat) ∧
      (∃ v, (spaceOf t a tid).ws = some v ∧ (spaceOf t a tid).got.contains v = false) ∧
      t.regN (Reg.staRxCnt h.x 7) = min (s.regN (Reg.staRxCnt h.x 7) + (snDist ws h.m.sn.toNat + 1 -
        ((spaceOf s a tid).got.filter (fun g => decide (snDist ws g ≤ snDist ws h.m.sn.toNat))).length)) 0xFFFFFFFF := by
  have hnext := snDist_succ hahead
  generalize htarget : (h.m.sn.toNat + 1) % 4096 = target at hnext
  have hexec := exec_reorderTimeout hold hdue
  rw [htarget] at hexec
  have hmoved : spaceOf (moveWs (s.at time) h.x a tid target) a tid = moved (spaceOf s a tid) ws target :=
    spaceOf_moveWs (s := s.at time) hws hx h.x target
  have hcount := flush_moveWs (s := s.at time) hws hx h.x target
  have hlt : target < 4096 := htarget ▸ Nat.mod_lt _ (by decide)
  have hsub : ∀ k ∈ (moved (spaceOf s a tid) ws target).held, k ∈ (spaceOf s a tid).held := fun _ hk => List.mem_of_mem_filter hk
  obtain ⟨hheld, hflush, hstop⟩ := advance_spec (a := a) (sp := tid) 4096 (by rw [hmoved]; rfl) hlt
    (fun k hk => hx k (hsub k (hmoved ▸ hk))) (fun i hi hi' => absurd hi (by omega))
  refine runs_of_done hexec ⟨fun k hk => ?_, ?_, ?_⟩
  · rw [spaceOf_congr (congrArg (·.spaces) (finish_sta _ _))] at hk
    have hin := hheld k hk
    rw [hmoved] at hin
    have hpast : snDist ws h.m.sn.toNat < snDist ws k.m.sn.toNat := by
      have := (List.mem_filter.1 hin).2
      simpa [hnext, below_succ] using this
    exact ⟨hsub k hin, fun he => absurd hpast (by rw [he]; exact Nat.lt_irrefl _), hpast⟩
  · rw [spaceOf_congr (congrArg (·.spaces) (finish_sta _ _))]
    exact hstop
  · have hmem : h ∈ (spaceOf s a tid).held := (List.mergeSort_perm _ _).mem_iff.1 (hold ▸ List.mem_cons_self)
    have hradio := hx h hmem
    have hnote : noteReg (Reg.staRxCnt h.x 7) = false := noteReg_of_inPipe (by simp only [inPipe, Reg.staRxCnt]; omega)
    rw [holes, hnext, below_succ] at hcount
    rw [State.regN, finish_reg _ _ _ hnote, hflush]
    exact hcount

end Sys2Proof.Machine
end

section
/-! The air scheduling family: what a PPDU without an answer leaves of its peer's entry, and of the MPDUs on the air (O31). -/

namespace Sys2Proof.Machine

/-! ### Fields of an entry -/

section
variable {s t : State} (h : t.sta.entries = s.sta.entries)
include h

theorem staEntry_congr (a : Nat) : staEntry t a = staEntry s a := by rw [staEntry, h]; rfl

theorem staWord_congr (a k : Nat) : staWord t a k = staWord s a k := by rw [staWord, staEntry_congr h]; rfl

theorem staFld_congr (a k lo len : Nat) : staFld t a k lo len = staFld s a k lo len := by rw [staFld, staWord_congr h]; rfl

theorem staUp_congr (a x : Nat) : staUp t a x = staUp s a x := by rw [staUp, staFld_congr h]; rfl

end

section
variable (s : State) (a k lo len v : Nat)

@[simp] theorem putStaFld_regs : (putStaFld s a k lo len v).regs = s.regs := by
  unfold putStaFld; dsimp only; split <;> rfl

@[simp] theorem putStaFld_rd : (putStaFld s a k lo len v).rd = s.rd := by
  unfold putStaFld; dsimp only; split <;> rfl

/-- A field of an entry replaced changes the entries alone. -/
theorem putStaFld_sta : ∃ e, (putStaFld s a k lo len v).sta = { s.sta with entries := e } := by
  unfold putStaFld
  dsimp only
  split
  · exact ⟨_, rfl⟩
  · exact ⟨_, rfl⟩

variable {s a k lo len v}

/-- Words beyond an entry's own read as zeros. -/
theorem getD_append_zeros (l : List Word) (n j : Nat) : (l ++ List.replicate n 0).getD j 0 = l.getD j 0 := by
  by_cases h : j < l.length
  · exact List.getD_append _ _ _ _ h
  · rw [List.getD_append_right _ _ _ _ (by omega), List.getD_eq_getElem?_getD,
      List.getElem?_getD_replicate_default_eq, List.getD_eq_default _ _ (by omega)]

theorem getD_set_eq (l : List Word) {k : Nat} (hk : k < l.length) (w : Word) (j : Nat) :
    (l.set k w).getD j 0 = if j = k then w else l.getD j 0 := by
  rw [List.getD_eq_getElem?_getD, List.getElem?_set, List.getD_eq_getElem?_getD]
  by_cases h : j = k
  · simp [h, hk]
  · simp [h, Ne.symm h]

/-- A valid entry with a field of one of its words replaced. -/
theorem staWord_putStaFld (hv : staValid s a = true) (hk : k < 12) (j : Nat) : staWord (putStaFld s a k lo len v) a j =
    if j = k then (putBits ((staEntry s a).getD k 0) lo len v).toNat else staWord s a j := by
  have hlen : k < (staEntry s a ++ List.replicate (12 - (staEntry s a).length) 0).length := by
    rw [List.length_append, List.length_replicate]; omega
  have hput : staEntry (putStaFld s a k lo len v) a = (staEntry s a ++ List.replicate (12 - (staEntry s a).length) 0).set k
      (putBits ((staEntry s a).getD k 0) lo len v) := by
    simp only [putStaFld, hv, if_true, staEntry, putEntry, bankGet_bankSet_same]
  rw [staWord, hput, getD_set_eq _ hlen, getD_append_zeros]
  split <;> rfl

end

/-! ### A link that draws no answer (R251) -/

theorem RegsOnly.sta {P : Nat → Prop} {s t : State} (h : RegsOnly P s t) : t.sta = s.sta :=
  show t.unregistered.sta = s.unregistered.sta by rw [h.rest]

theorem RegsOnly.rd {P : Nat → Prop} {s t : State} (h : RegsOnly P s t) : t.rd = s.rd :=
  show t.unregistered.rd = s.unregistered.rd by rw [h.rest]

/-- A register other than RETRY_LIM. -/
abbrev notRetryLim (a : Nat) : Prop := a ≠ Reg.staRetryLim

theorem staEvent_regsOnly (s : State) (kind x arg : Nat) : RegsOnly notRetryLim s (staEvent s kind x arg) := by
  have hraw : notRetryLim Reg.staIrqRaw := by decide
  have hw0 : ∀ j, notRetryLim (Reg.staEvtW0 j) := fun j => by simp only [notRetryLim, Reg.staEvtW0, Reg.staRetryLim]; omega
  have hw1 : ∀ j, notRetryLim (Reg.staEvtW1 j) := fun j => by simp only [notRetryLim, Reg.staEvtW1, Reg.staRetryLim]; omega
  unfold staEvent
  extract_lets raised h
  have hraised : RegsOnly notRetryLim s raised := (RegsOnly.refl s).raise _ hraw
  clear_value raised
  exact .ite (fun _ => (hraised.setReg (a := Reg.staEvtLost) _ (by decide)).raise _ hraw) fun _ =>
    ((hraised.setReg _ (hw0 h)).setReg _ (hw1 h)).setReg (a := Reg.staEvtHead) _ (by decide)

/-- FAIL of a peer's link one higher, held at 255. -/
def failsNext (s : State) (a x : Nat) : Nat := min 255 (staFld s a 11 (8 * x) 8 + 1)

/-- The entry of a peer with FAIL counted. -/
def failCounted (s : State) (a x : Nat) : State := putStaFld s a 11 (8 * x) 8 (failsNext s a x)

theorem failCounted_regs (s : State) (a x : Nat) : (failCounted s a x).regs = s.regs := putStaFld_regs _ _ _ _ _ _

/-- The entry of a peer with FAIL counted, and at LINK_FAIL.N with LINK_UP cleared. -/
def linkFailed (s : State) (a x : Nat) : State :=
  let t := failCounted s a x
  if max 1 (t.fld Reg.staLinkFail 0 8) ≤ failsNext s a x ∧ staUp t a x = true then putStaFld t a 0 (6 + x) 1 0 else t

section
variable {s : State} {a x : Nat}

theorem linkFail_of_invalid (h : staValid s a = false ∨ 2 ≤ staKind s a) : linkFail s a x = s := if_pos h

variable (hv : staValid s a = true)
include hv

/-- Beside the entry, a link that draws no answer writes events and the fault log. -/
theorem linkFail_regsOnly (hk : staKind s a < 2) : RegsOnly notRetryLim (linkFailed s a x) (linkFail s a x) := by
  have hpeer : ¬(staValid s a = false ∨ 2 ≤ staKind s a) := by rw [hv]; simp only [Bool.true_eq_false, false_or]; omega
  rw [linkFail, if_neg hpeer]
  show RegsOnly notRetryLim (linkFailed s a x) (if max 1 ((failCounted s a x).fld Reg.staLinkFail 0 8) ≤ failsNext s a x ∧
    staUp (failCounted s a x) a x = true then staEvent (linkLost (failCounted s a x) a x) 0 x a else failCounted s a x)
  unfold linkFailed
  dsimp only
  split
  · have hfault := (RegsOnly.refl (putStaFld (failCounted s a x) a 0 (6 + x) 1 0)).raiseFault (cls := 6) (by decide) a .fallback 0
    exact (hfault.mono fun q hq => by simp only [inFlt, notRetryLim, Reg.staRetryLim] at *; omega).trans (staEvent_regsOnly _ _ _ _)
  · exact .refl _

theorem staWord_failCounted (j : Nat) (hj : j ≠ 11) : staWord (failCounted s a x) a j = staWord s a j := by
  rw [failCounted, staWord_putStaFld hv (by decide), if_neg hj]

theorem staFld_failCounted (hx : x < 3) : staFld (failCounted s a x) a 11 (8 * x) 8 = failsNext s a x := by
  rw [staFld, failCounted, staWord_putStaFld hv (by decide), if_pos rfl]
  show bitsOf _ _ _ = _
  rw [bitsOf_putBits_same _ _ _ _ (by omega)]
  exact Nat.mod_eq_of_lt (by simp only [failsNext]; omega)

theorem staValid_failCounted : staValid (failCounted s a x) a = true := by
  rw [staValid, staFld, staWord_failCounted hv 0 (by decide)]; exact hv

theorem staWord_linkFailed (j : Nat) (h0 : j ≠ 0) : staWord (linkFailed s a x) a j = staWord (failCounted s a x) a j := by
  unfold linkFailed
  dsimp only
  split
  · rw [staWord_putStaFld (staValid_failCounted hv) (by decide), if_neg h0]
  · rfl

theorem staUp_linkFailed (hmax : max 1 (s.fld Reg.staLinkFail 0 8) ≤ failsNext s a x) (hx : x < 3) :
    staUp (linkFailed s a x) a x = false := by
  have hmax' : max 1 ((failCounted s a x).fld Reg.staLinkFail 0 8) ≤ failsNext s a x := by
    rwa [fld_of_reg (reg_congr s (failCounted_regs s a x) _)]
  unfold linkFailed
  dsimp only
  split
  · rw [staUp, staFld, staWord_putStaFld (staValid_failCounted hv) (by decide), if_pos rfl, decide_eq_false_iff_not]
    show ¬bitsOf _ _ _ = 1
    rw [bitsOf_putBits_same _ _ _ _ (by omega)]
    decide
  · next h => exact Bool.eq_false_iff.2 fun hup => h ⟨hmax', hup⟩

end

theorem linkFailed_sta (s : State) (a x : Nat) : ∃ e, (linkFailed s a x).sta = { s.sta with entries := e } := by
  obtain ⟨e, he⟩ := putStaFld_sta s a 11 (8 * x) 8 (failsNext s a x)
  unfold linkFailed
  dsimp only
  split
  · obtain ⟨e', he'⟩ := putStaFld_sta (failCounted s a x) a 0 (6 + x) 1 0
    exact ⟨e', by rw [he', failCounted, he]⟩
  · exact ⟨e, he⟩

/-- What a link that draws no answer leaves: the radios, RETRY_LIM, of the stations all but the entries, and of the entry every word but
those of LINK_UP and FAIL. -/
structure FailKept (a : Nat) (s t : State) : Prop where
  rd : t.rd = s.rd
  retryLim : t.reg Reg.staRetryLim = s.reg Reg.staRetryLim
  sta : ∃ e, t.sta = { s.sta with entries := e }
  word : ∀ j, j ≠ 0 → j ≠ 11 → staWord t a j = staWord s a j

theorem FailKept.refl (a : Nat) (s : State) : FailKept a s s := ⟨rfl, rfl, ⟨_, rfl⟩, fun _ _ _ => rfl⟩

theorem linkFail_kept (s : State) (a x : Nat) : FailKept a s (linkFail s a x) := by
  by_cases h : staValid s a = false ∨ 2 ≤ staKind s a
  · rw [linkFail_of_invalid h]; exact .refl a s
  · obtain ⟨hv, hk⟩ : staValid s a = true ∧ staKind s a < 2 := by simpa using h
    have hregs := linkFail_regsOnly (x := x) hv hk
    obtain ⟨e, he⟩ := linkFailed_sta s a x
    have hrd : (linkFailed s a x).rd = s.rd := by unfold linkFailed failCounted; dsimp only; split <;> simp
    have hreg : (linkFailed s a x).reg Reg.staRetryLim = s.reg Reg.staRetryLim :=
      reg_congr s (by unfold linkFailed failCounted; dsimp only; split <;> simp) _
    refine ⟨hregs.rd.trans hrd, (hregs.regs _ (by simp)).trans hreg, ⟨e, hregs.sta.trans he⟩, fun j h0 h11 => ?_⟩
    rw [staWord_congr (congrArg (·.entries) hregs.sta), staWord_linkFailed hv j h0, staWord_failCounted hv j h11]

/-! ### MPDUs unacknowledged (R248) -/

/-- The transmissions of an MPDU that RETRY_LIM allows. -/
def retryLim (s : State) : Nat := max 1 (s.fld Reg.staRetryLim 0 5)

theorem unacked_rd (s : State) (l : List TxMpdu) : (unacked s l).rd = s.rd := rfl

theorem unacked_retry (s : State) (l : List TxMpdu) :
    (unacked s l).sta.retry = s.sta.retry ++ l.filter (fun m => decide (m.tries < retryLim s)) := rfl

/-- An MPDU given up under an agreement asks for a BlockAckReq. -/
theorem mem_bars_unacked {s : State} {l : List TxMpdu} {m : TxMpdu} (hm : m ∈ l) (hlim : retryLim s ≤ m.tries)
    (hagreed : txAgreed s m.sta m.space = true) : (m.sta, m.space) ∈ (unacked s l).sta.bars := by
  have hgone : (m.sta, m.space) ∈ (l.filter (fun m => decide (retryLim s ≤ m.tries))).map (fun m => (m.sta, m.space)) :=
    List.mem_map_of_mem (List.mem_filter.2 ⟨hm, decide_eq_true hlim⟩)
  exact List.mem_eraseDups.2 (List.mem_append_right _ (List.mem_filter.2 ⟨hgone, hagreed⟩))

theorem sentOf_setSent (s : State) (x : Nat) (l : List TxMpdu) : sentOf (setSent s x l) x = l := by
  rw [sentOf, setSent, bankGet_bankSet_same]

/-! ### The rest of an exchange without an answer -/

/-- `t` has the stations and the peers awaited of `s`. -/
structure AwaitKept (s t : State) : Prop where
  sta : t.sta = s.sta
  await : ∀ x, (t.radio x).await = (s.radio x).await

namespace AwaitKept

variable {s t : State}

theorem refl (s : State) : AwaitKept s s := ⟨rfl, fun _ => rfl⟩

theorem trans {u : State} (h : AwaitKept s t) (k : AwaitKept t u) : AwaitKept s u :=
  ⟨k.sta.trans h.sta, fun x => (k.await x).trans (h.await x)⟩

theorem of_eq (hs : t.sta = s.sta) (hr : t.rd = s.rd) : AwaitKept s t := ⟨hs, fun x => by rw [State.radio, hr]; rfl⟩

theorem returnReserved (h : AwaitKept s t) (x : Nat) (p : TmAnswer → Bool) : AwaitKept s (returnReserved t x p) := by
  unfold Machine.returnReserved setBarges
  extract_lets _ _ told
  have htold : Aside t told := (Aside.refl t).each _ _ fun _ _ _ hu => hu.tapRecord (by decide) _ _ _ _ _
  exact h.trans (.of_eq ((reviewTm_regsOnly _).sta.trans (congrArg (·.sta) htold.bare))
    ((reviewTm_regsOnly _).rd.trans (congrArg (·.rd) htold.bare)))

theorem setAirOf (h : AwaitKept s t) (x : Nat) (a : AirRadio) : AwaitKept s (t.setAirOf x a) := h.trans (.of_eq rfl rfl)

theorem fitOr (h : AwaitKept s t) (len : Nat) (fits : Bool) (v : Nat) : AwaitKept s (fitOr t len fits v).2 := by
  unfold Machine.fitOr
  split
  · exact h
  · exact h.trans (.of_eq (drawNat_sta t) (drawNat_rd t))

theorem wakeUnsure (h : AwaitKept s t) (x : Nat) : AwaitKept s (wakeUnsure t x) := by
  unfold Machine.wakeUnsure
  split
  · exact h
  · next w _ =>
    split
    · exact h
    · extract_lets settled u
      have hsettled : AwaitKept s settled := ((h.setAirOf x _).returnReserved x _).trans (.of_eq (inc_sta _ _) (inc_rd _ _))
      clear_value settled
      split
      · exact hsettled
      · split
        next hv =>
          have hfit := hsettled.fitOr 16 (decide (u < 2 ^ 16)) u
          rw [hv] at hfit
          exact hfit.trans (.of_eq rfl rfl)

theorem drawBackoff (h : AwaitKept s t) (x ac : Nat) : AwaitKept s (drawBackoff t x ac) :=
  h.trans (.of_eq (by simp [Machine.drawBackoff]) (by simp [Machine.drawBackoff]))

theorem edcaDouble (h : AwaitKept s t) (x ac : Nat) : AwaitKept s (edcaDouble t x ac) := by
  unfold Machine.edcaDouble
  split
  · exact h
  · exact (h.setAirOf x _).drawBackoff x ac

theorem releaseRun (h : AwaitKept s t) (x : Nat) (r : TxRun) : AwaitKept s (releaseRun t x r) := by
  unfold Machine.releaseRun
  split
  · exact each_ind t (AwaitKept s) _ _ h fun _ _ _ hu => hu.trans (.of_eq rfl rfl)
  · exact h

theorem setRadio (h : AwaitKept s t) (x : Nat) (r : RdState) (hr : r.await = (t.radio x).await) : AwaitKept s (t.setRadio x r) := by
  refine h.trans ⟨setRadio_sta _ _ _, fun y => ?_⟩
  rw [radio_setRadio]
  split
  · next hy => rw [hr, hy]
  · rfl

theorem setTx (h : AwaitKept s t) (x st : Nat) (run : Option TxRun) : AwaitKept s (setTx t x st run) :=
  (h.trans (.of_eq (setFld_sta t _ _ _ _) (setFld_rd t _ _ _ _))).setRadio x _ (by rw [State.radio, State.radio, setFld_rd])

theorem awaitDone (h : AwaitKept s t) (x : Nat) : AwaitKept s (awaitDone t x) := by
  unfold Machine.awaitDone dropRest
  repeat' split
  · exact h
  · exact (h.releaseRun _ _).setTx _ _ _
  · exact h
  · exact h

end AwaitKept

/-- A peer that owes an answer on a radio, with its MPDUs off the air. -/
def answerLost (s : State) (x a : Nat) (fail : Bool) : State :=
  unacked (setSent (if fail then linkFail s a x else s) x ((sentOf s x).filter (fun m => !decide (m.sta = a))))
    ((sentOf s x).filter (fun m => decide (m.sta = a)))

/-- The wake-timing frame of a peer that gave no answer stays unconfirmed (R213). -/
def answerWoken (s : State) (x a : Nat) : State :=
  match (s.airOf x).wake with
  | none => s
  | some w => if w.sta = a then wakeUnsure s x else s

theorem answerWoken_kept (s : State) (x a : Nat) : AwaitKept s (answerWoken s x a) := by
  unfold answerWoken
  split
  · exact .refl s
  · split
    · exact (AwaitKept.refl s).wakeUnsure x
    · exact .refl s

/-- The access category of the exchange backs off again. -/
def answerBackedOff (s : State) (x : Nat) : State :=
  match (s.airOf x).edcaAc with
  | none => s
  | some ac => edcaDouble (s.setAirOf x { s.airOf x with edcaAc := none, txop := none }) x ac

theorem answerBackedOff_kept (s : State) (x : Nat) : AwaitKept s (answerBackedOff s x) := by
  unfold answerBackedOff
  split
  · exact .refl s
  · exact ((AwaitKept.refl s).setAirOf x _).edcaDouble x _

/-- A peer no longer awaited on a radio. -/
def awaitErased (s : State) (x a : Nat) : State := s.setRadio x { s.radio x with await := (s.radio x).await.erase a, exEnd := none }

theorem unanswered_eq (s : State) (x a : Nat) (fail : Bool) : unanswered s x a fail =
    awaitDone (answerBackedOff (awaitErased (answerWoken (answerLost s x a fail) x a) x a) x) x := rfl

theorem unanswered_kept (s : State) (x a : Nat) (fail : Bool) :
    AwaitKept (awaitErased (answerWoken (answerLost s x a fail) x a) x a) (unanswered s x a fail) := by
  rw [unanswered_eq]
  exact (answerBackedOff_kept _ x).awaitDone x

theorem unanswered_sta (s : State) (x a : Nat) (fail : Bool) : (unanswered s x a fail).sta = (answerLost s x a fail).sta := by
  rw [(unanswered_kept s x a fail).sta, awaitErased, setRadio_sta, (answerWoken_kept _ x a).sta]

theorem unanswered_await (s : State) (x a : Nat) (fail : Bool) :
    ((unanswered s x a fail).radio x).await = ((answerLost s x a fail).radio x).await.erase a := by
  rw [(unanswered_kept s x a fail).await, awaitErased, radio_setRadio_same, (answerWoken_kept _ x a).await]

/-! ### The MPDUs of the peer, and its answer (O31) -/

/-- An agreement stands or not with the same entry of the peer. -/
theorem txAgreed_of_failKept {s t : State} {a : Nat} (h : FailKept a s t) (k : Nat) : txAgreed t a k = txAgreed s a k := by
  rw [txAgreed, txAgreed, staFld, h.word 8 (by decide) (by decide), staFld]

/-- What stands where a peer that owed an answer gave none: its MPDUs off the air, those RETRY_LIM allows awaiting retransmission,
an ask for a BlockAckReq for the others of an agreement, and no answer awaited. -/
structure AnswerLost (s : State) (x a : Nat) (t : State) : Prop where
  sent : sentOf t x = (sentOf s x).filter (fun m => !decide (m.sta = a))
  retry : t.sta.retry = s.sta.retry ++ ((sentOf s x).filter (fun m => decide (m.sta = a))).filter (fun m => decide (m.tries < retryLim s))
  bars : ∀ m ∈ (sentOf s x).filter (fun m => decide (m.sta = a)), retryLim s ≤ m.tries → txAgreed s m.sta m.space = true →
    (m.sta, m.space) ∈ t.sta.bars
  await : (t.radio x).await = (s.radio x).await.erase a

theorem unanswered_lost (s : State) (x a : Nat) (fail : Bool) : AnswerLost s x a (unanswered s x a fail) := by
  have hfail : FailKept a s (if fail then linkFail s a x else s) := by
    split
    · exact linkFail_kept s a x
    · exact .refl a s
  have hsta := unanswered_sta s x a fail
  have hawait := unanswered_await s x a fail
  unfold answerLost at hsta hawait
  generalize (if fail then linkFail s a x else s) = u at hfail hsta hawait
  have hlim : ∀ l, retryLim (setSent u x l) = retryLim s := fun l => by
    exact congrArg (max 1) (fld_of_reg (t := setSent u x l) (s := s) hfail.retryLim 0 5)
  obtain ⟨e, he⟩ := hfail.sta
  refine ⟨?_, ?_, fun m hm hm_lim hagreed => ?_, ?_⟩
  · rw [sentOf, hsta]; exact sentOf_setSent u x _
  · rw [hsta, unacked_retry, hlim]
    exact congrArg (fun l => l ++ _) (congrArg (·.retry) he)
  · have hm_sta : m.sta = a := by simpa using (List.mem_filter.1 hm).2
    have hagreed' : txAgreed u m.sta m.space = true := by rw [hm_sta, txAgreed_of_failKept hfail, ← hm_sta, hagreed]
    rw [hsta]
    exact mem_bars_unacked hm (by rwa [hlim]) hagreed'
  · rw [hawait, State.radio, unacked_rd]
    show (bankGet _ u.rd x).await.erase a = _
    rw [hfail.rd]; rfl

theorem rIdx_lt (x : Radio) : rIdx x < 3 := by cases x <;> decide

/-- FAIL of a peer's link counted, and LINK_UP cleared at LINK_FAIL.N. -/
theorem unanswered_failed {s : State} {x a : Nat} (hv : staValid s a = true) (hk : staKind s a < 2) (hx : x < 3) :
    staFld (unanswered s x a true) a 11 (8 * x) 8 = failsNext s a x ∧
      (max 1 (s.fld Reg.staLinkFail 0 8) ≤ failsNext s a x → staUp (unanswered s x a true) a x = false) := by
  have hentries : (unanswered s x a true).sta.entries = (linkFailed s a x).sta.entries := by
    rw [unanswered_sta]
    exact congrArg (·.entries) (linkFail_regsOnly hv hk).sta
  constructor
  · rw [staFld_congr hentries, staFld, staWord_linkFailed hv 11 (by decide), ← staFld, staFld_failCounted hv hx]
  · intro hmax
    rw [staUp_congr hentries, staUp_linkFailed hv hmax hx]

/-- A radio that has started a PPDU since leaves the peer's entry. -/
theorem unanswered_entries (s : State) (x a : Nat) : (unanswered s x a false).sta.entries = s.sta.entries := by
  rw [unanswered_sta]; rfl

/-! ### The command (R248, R251) -/

section
variable {s : State} {x : Radio} {a : Fin 4096} {time : Nat}

theorem exec_responseTimeout (hawait : (s.radio (rIdx x)).await.contains a.val = true)
    (hdue : (s.radio (rIdx x)).awaitTo ≤ (s.at time).dt) (hrx : receiving s (rIdx x) = false) :
    exec (.responseTimeout time x a) s = done s (unanswered (s.at time) (rIdx x) a (!ppduSince s (rIdx x))) := by
  have hgo : (((s.at time).radio (rIdx x)).await.contains a.val && decide (((s.at time).radio (rIdx x)).awaitTo ≤ (s.at time).dt) &&
      !receiving (s.at time) (rIdx x)) = true := by
    show ((s.radio (rIdx x)).await.contains a.val && decide ((s.radio (rIdx x)).awaitTo ≤ (s.at time).dt) && !receiving s (rIdx x)) = true
    rw [hawait, hrx, decide_eq_true hdue]; rfl
  show execResponseTimeout time x a s = _
  rw [execResponseTimeout, if_pos hgo]; rfl

/-- Before the time for the answer has passed, the command has no effect. -/
theorem exec_responseTimeout_early (hearly : (s.at time).dt < (s.radio (rIdx x)).awaitTo) :
    exec (.responseTimeout time x a) s = done s (s.at time) := by
  have hstay : ¬(((s.at time).radio (rIdx x)).await.contains a.val && decide (((s.at time).radio (rIdx x)).awaitTo ≤ (s.at time).dt) &&
      !receiving (s.at time) (rIdx x)) = true := by
    have hto : ((s.at time).radio (rIdx x)).awaitTo = (s.radio (rIdx x)).awaitTo := rfl
    simp [hto, hearly]
  show execResponseTimeout time x a s = _
  rw [execResponseTimeout, if_neg hstay]

theorem AnswerLost.of_eq {s t u : State} {x a : Nat} (h : AnswerLost s x a t) (hsta : u.sta = t.sta) (hrd : u.rd = t.rd) :
    AnswerLost s x a u :=
  ⟨by rw [sentOf, hsta]; exact h.sent, by rw [hsta]; exact h.retry, by rw [hsta]; exact h.bars,
    by rw [State.radio, hrd]; exact h.await⟩

theorem responseTimeout_lost (hawait : (s.radio (rIdx x)).await.contains a.val = true)
    (hdue : (s.radio (rIdx x)).awaitTo ≤ (s.at time).dt) (hrx : receiving s (rIdx x) = false) :
    Runs (.responseTimeout time x a) s (AnswerLost s (rIdx x) a) := by
  refine ⟨_, exec_responseTimeout hawait hdue hrx, ?_⟩
  have h := unanswered_lost (s.at time) (rIdx x) a (!ppduSince s (rIdx x))
  exact AnswerLost.of_eq (s := s) ⟨h.sent, h.retry, h.bars, h.await⟩ (finish_sta _ _) (finish_rd _ _)

theorem responseTimeout_failed (hawait : (s.radio (rIdx x)).await.contains a.val = true)
    (hdue : (s.radio (rIdx x)).awaitTo ≤ (s.at time).dt) (hrx : receiving s (rIdx x) = false)
    (hv : staValid s a = true) (hk : staKind s a < 2) (hsince : ppduSince s (rIdx x) = false) :
    Runs (.responseTimeout time x a) s fun t => staFld t a 11 (8 * rIdx x) 8 = failsNext s a (rIdx x) ∧
      (max 1 (s.fld Reg.staLinkFail 0 8) ≤ failsNext s a (rIdx x) → staUp t a (rIdx x) = false) := by
  refine ⟨_, exec_responseTimeout hawait hdue hrx, ?_⟩
  have hentries := congrArg (·.entries) (finish_sta s (unanswered (s.at time) (rIdx x) a (!ppduSince s (rIdx x))))
  beta_reduce
  rw [staFld_congr hentries, staUp_congr hentries, hsince]
  exact unanswered_failed (s := s.at time) hv hk (rIdx_lt x)

theorem responseTimeout_kept (hawait : (s.radio (rIdx x)).await.contains a.val = true)
    (hdue : (s.radio (rIdx x)).awaitTo ≤ (s.at time).dt) (hrx : receiving s (rIdx x) = false) (hsince : ppduSince s (rIdx x) = true) :
    Runs (.responseTimeout time x a) s fun t => staEntry t a = staEntry s a := by
  refine ⟨_, exec_responseTimeout hawait hdue hrx, staEntry_congr ?_ a⟩
  rw [finish_sta, hsince]
  exact unanswered_entries (s.at time) (rIdx x) a

theorem responseTimeout_early (hearly : (s.at time).dt < (s.radio (rIdx x)).awaitTo) :
    Runs (.responseTimeout time x a) s fun t => t.rd = s.rd ∧ t.sta = s.sta ∧ t.air = s.air :=
  ⟨_, exec_responseTimeout_early hearly, finish_rd _ _, finish_sta _ _, finish_air _ _⟩

end

/-- Settles O31: the window start moves over what is no longer held, in steps that are `WindowsKept`, and a lost answer writes the peer's entry, the
MPDUs on the air and the peers awaited alone. -/
theorem heldAndUnansweredMpdusTimeOut : Obligations.HeldAndUnansweredMpdusTimeOut := by
  unfold Obligations.HeldAndUnansweredMpdusTimeOut
  refine ⟨fun time a tid s h r hold hdue ws hws hahead hx => ?_, fun time x a s hawait hdue hrx => ⟨?_, ?_, ?_⟩, ?_⟩
  · exact reorderTimeout_runs hold hdue hws hahead fun k hk => of_decide_eq_true (List.all_eq_true.1 hx k hk)
  · obtain ⟨t, ht, h⟩ := responseTimeout_lost hawait hdue hrx
    exact ⟨t, ht, h.sent, h.retry, h.bars, h.await⟩
  · exact responseTimeout_failed hawait hdue hrx
  · exact responseTimeout_kept hawait hdue hrx
  · exact fun time x a s => responseTimeout_early

end Sys2Proof.Machine
end

section
/-! The stations family (06_stations_and_links): the refutation of the statement on PPDUs at their end, from a modem that takes FCS_ERR of
another radio back. -/

namespace Sys2Proof.Machine

/-- A valid SIG of a PPDU of 100 µs. -/
def plainSig : SigInfo := ⟨1, 0, 0, 0, .bcc, false, false, 100000⟩

/-- What the receiver measured of a PPDU without a delimiter error. -/
def plainReport : RxReport := ⟨0, 0, [], 0, false, [], []⟩

/-- Radio H's reception stands in UNCONF at the end that its SIG announced. Radio M's synthesiser is off with its receive path in LISTEN,
and its modem takes back FCS_ERR of Radio H. -/
def undoneCount : State :=
  let unconf := State.reset.setNat (Reg.mdmStat 0) 3
  let listens := (unconf.setNat (Reg.rdRdStat 1) 0x100).setNat (Reg.mdmStat 1) 0
  (listens.setRadio 0 { rx := some { since := 0, ts := 0, thresh := 0, ctrl := 0, sig := some plainSig } }).setRadio 1
    (takesBack 0 (Reg.mdmFcsErr 0) 7)

/-- The PPDU's end reviews the radios after it has counted, and Radio M's modem puts its value over the count. -/
theorem ppduRxEnd_undoes :
    Runs (.ppduRxEnd 0 .h plainReport []) undoneCount fun t => t.regN (Reg.mdmFcsErr 0) = 7 :=
  ⟨_, rfl, by decide +kernel⟩

/-- Refutes O38: its first clause speaks of every state, and in `undoneCount` the modem's record of Radio M (R305) names FCS_ERR of Radio H,
which no run of the device puts there: no MPDU had a bad FCS, but the count goes from 0 to 7. -/
theorem not_ppdusAreReportedAtTheirEnd : ¬ Obligations.PpdusAreReportedAtTheirEnd := by
  unfold Obligations.PpdusAreReportedAtTheirEnd
  rintro ⟨hend, -, -, -⟩
  obtain ⟨t, hseven, -, hcount, -⟩ := ppduRxEnd_undoes.both
    (hend 0 .h plainReport [] undoneCount _ rfl (by decide +kernel) (by decide +kernel) plainSig rfl)
  have hzero : (rxFirst (undoneCount.at 0) (rIdx .h)).regN (Reg.mdmFcsErr (rIdx .h)) = 0 := by decide +kernel
  rw [hzero] at hcount
  exact absurd (hseven.symm.trans hcount) (by decide)

end Sys2Proof.Machine
end

section
/-! The stations family (06_stations_and_links): the parent's TBTT, LOSS_STATE and the fallback evaluation (O32; R254 to R259). -/

namespace Sys2Proof.Machine

/-! ### What events and faults leave of the loss conditions -/

/-- An address of LOSS_STATE to PARENT_STAT. -/
abbrev inLoss (a : Nat) : Prop := 0x4021000C ≤ a ∧ a < 0x40210030

theorem noteReg_of_inLoss {a : Nat} (h : inLoss a) : noteReg a = false :=
  noteReg_of_inPipe (by simp only [inLoss, inPipe] at *; omega)

theorem inLoss_parentStat {x : Nat} (hx : x < 2) : inLoss (parentStat x) := by
  simp only [inLoss, parentStat, Reg.staParentStat]; omega

theorem parentStat_ne_lossState (x : Nat) : parentStat x ≠ Reg.staLossState := by
  simp only [parentStat, Reg.staParentStat, Reg.staLossState]; omega

/-- `t` has the stations and the registers of `P` of `s`. -/
structure StaKept (P : Nat → Prop) (s t : State) : Prop where
  sta : t.sta = s.sta
  regs : ∀ a, P a → t.reg a = s.reg a

theorem StaKept.trans {P : Nat → Prop} {s t u : State} (h : StaKept P s t) (k : StaKept P t u) : StaKept P s u :=
  ⟨k.sta.trans h.sta, fun a ha => (k.regs a ha).trans (h.regs a ha)⟩

theorem Aside.staKept {P : Nat → Prop} {s t : State} (h : Aside s t) (hP : ∀ a, P a → noteReg a = false) : StaKept P s t :=
  ⟨congrArg (·.sta) h.bare, fun a ha => h.regs a (hP a ha)⟩

/-- `t` has the stations and the registers of the loss conditions of `s`. -/
abbrev LossKept : State → State → Prop := StaKept inLoss

theorem finish_lossKept (s t : State) : LossKept t (finish s t) := (finish_aside s t).staKept fun _ => noteReg_of_inLoss

theorem RegsOnly.lossKept {P : Nat → Prop} {s t : State} (h : RegsOnly P s t) (hP : ∀ a, inLoss a → ¬P a) : LossKept s t :=
  ⟨h.sta, fun a ha => h.regs a (hP a ha)⟩

/-- A station event writes the interrupt register and the event ring alone. -/
theorem staEvent_lossKept (s : State) (kind x arg : Nat) : LossKept s (staEvent s kind x arg) := by
  have hregs : RegsOnly (fun a => ¬inLoss a) s (staEvent s kind x arg) := by
    unfold staEvent
    extract_lets raised h
    have hraised : RegsOnly (fun a => ¬inLoss a) s raised := (RegsOnly.refl s).raise _ (by decide)
    clear_value raised
    refine .ite (fun _ => (hraised.setReg (a := Reg.staEvtLost) _ (by decide)).raise _ (by decide)) fun _ =>
      ((hraised.setReg _ ?_).setReg _ ?_).setReg (a := Reg.staEvtHead) _ (by decide)
    · simp only [inLoss, Reg.staEvtW0]; omega
    · simp only [inLoss, Reg.staEvtW1]; omega
  exact hregs.lossKept fun _ ha hn => hn ha

theorem raiseFault_lossKept (s : State) {cls : Nat} (hc : cls < 16) (src : Nat) (act : FltAction) (info : Nat) :
    LossKept s (raiseFault s cls src act info) :=
  ((RegsOnly.refl s).raiseFault hc src act info).lossKept fun a ha hf => by simp only [inLoss, inFlt] at *; omega

/-! ### LOSS_STATE set (R257) -/

/-- Bit PARENT of LOSS_STATE, for the parent bits of `v`. -/
def parentDown (s : State) (v : Nat) : Bool :=
  let p := s.fld Reg.staMeshCtrl 16 12
  let on := s.bit Reg.staMeshCtrl 0 && staValid s p
  on && (staLink s p 0 || staLink s p 1) && (!staLink s p 0 || decide (nbits v 2 1 = 1)) &&
    (!staLink s p 1 || decide (nbits v 3 1 = 1))

/-- The vector that LOSS_STATE takes where its low bits are set to those of `v`. -/
def lossNext (s : State) (v : Nat) : Nat := nbits v 0 4 + 16 * bnat (parentDown s v) + 256 * s.fld Reg.staLossSw 8 8

/-- LOSS_STATE replaced by another vector, with the towpath's record. -/
def lossRecorded (s : State) (n : Nat) : State :=
  tapRecord (s.setFld Reg.staLossState 0 16 n) 1 8 (s.setFld Reg.staLossState 0 16 n).now48 n 0 []

theorem setLoss_eq (s : State) (v : Nat) : setLoss s v = if lossNext s v = lossState s then s else
    staEvent { lossRecorded s (lossNext s v) with sta := { (lossRecorded s (lossNext s v)).sta with fbDue := true } } 6 0 (lossNext s v) :=
  rfl

theorem lossRecorded_kept (s : State) (n : Nat) : LossKept (s.setFld Reg.staLossState 0 16 n) (lossRecorded s n) :=
  ((Aside.refl _).tapRecord (by decide) _ _ _ _ _).staKept fun _ => noteReg_of_inLoss

section
variable {s : State} {v : Nat}

theorem setLoss_of_same (h : lossNext s v = lossState s) : setLoss s v = s := by rw [setLoss_eq, if_pos h]

section
variable (h : lossNext s v ≠ lossState s)
include h

theorem setLoss_changed_kept : LossKept { lossRecorded s (lossNext s v) with
    sta := { (lossRecorded s (lossNext s v)).sta with fbDue := true } } (setLoss s v) := by
  rw [setLoss_eq, if_neg h]
  exact staEvent_lossKept _ _ _ _

theorem setLoss_changed_sta : (setLoss s v).sta = { s.sta with fbDue := true } := by
  rw [(setLoss_changed_kept h).sta, (lossRecorded_kept s _).sta, setFld_sta]

theorem reg_setLoss_changed {a : Nat} (ha : inLoss a) :
    (setLoss s v).reg a = (s.setFld Reg.staLossState 0 16 (lossNext s v)).reg a :=
  ((setLoss_changed_kept h).regs a ha).trans ((lossRecorded_kept s _).regs a ha)

end

theorem lossNext_lt (s : State) (v : Nat) : lossNext s v < 2 ^ 16 := by
  have hlow : nbits v 0 4 < 2 ^ 4 := nbits_lt v 0 4
  have hsw : s.fld Reg.staLossSw 8 8 < 2 ^ 8 := nbits_lt _ 8 8
  have hall : bnat (parentDown s v) ≤ 1 := by unfold bnat; split <;> omega
  unfold lossNext
  omega

/-- LOSS_STATE shows the vector it is set to. -/
theorem lossState_setLoss (s : State) (v : Nat) : lossState (setLoss s v) = lossNext s v := by
  by_cases h : lossNext s v = lossState s
  · rw [setLoss_of_same h, h]
  · rw [lossState, fld_of_reg (reg_setLoss_changed h (by decide)), fld_setFld_same _ _ _ _ _ (by decide)]
    exact Nat.mod_eq_of_lt (lossNext_lt s v)

/-- Of the stations, LOSS_STATE asks for a re-evaluation alone. -/
theorem setLoss_sta (s : State) (v : Nat) : ∃ due, (setLoss s v).sta = { s.sta with fbDue := due } := by
  by_cases h : lossNext s v = lossState s
  · exact ⟨s.sta.fbDue, by rw [setLoss_of_same h]⟩
  · exact ⟨true, setLoss_changed_sta h⟩

theorem reg_setLoss_ne (s : State) (v : Nat) {a : Nat} (ha : inLoss a) (hne : a ≠ Reg.staLossState) :
    (setLoss s v).reg a = s.reg a := by
  by_cases h : lossNext s v = lossState s
  · rw [setLoss_of_same h]
  · rw [reg_setLoss_changed h ha, reg_setFld_ne _ _ _ _ _ hne]

end

/-! ### The bits of LOSS_STATE -/

theorem bit_lossState (s : State) {j : Nat} (hj : j < 16) : s.bit Reg.staLossState j = (lossState s).testBit j := by
  rw [lossState, State.fld, testBit_bitsOf, decide_eq_true hj, Bool.true_and, Nat.zero_add]; rfl

theorem testBit_lossNext (s : State) (v : Nat) {j : Nat} (hj : j < 4) : (lossNext s v).testBit j = v.testBit j := by
  have hsplit : lossNext s v = 2 ^ 4 * (bnat (parentDown s v) + 16 * s.fld Reg.staLossSw 8 8) + nbits v 0 4 := by
    unfold lossNext; omega
  rw [hsplit, Nat.testBit_two_pow_mul_add _ (nbits_lt v 0 4), if_pos hj, testBit_nbits, decide_eq_true hj, Bool.true_and, Nat.zero_add]

theorem bit_setLossBit (s : State) {i j : Nat} (b : Bool) (hi : i < 4) (hj : j < 4) :
    (setLossBit s i b).bit Reg.staLossState j = if j = i then b else s.bit Reg.staLossState j := by
  rw [bit_lossState _ (by omega), setLossBit, lossState_setLoss, testBit_lossNext _ _ hj, BitVec.testBit_toNat]
  show bitOf _ _ = _
  by_cases h : j = i
  · subst h
    rw [if_pos rfl, bitOf_putBit_same _ _ _ (by omega)]
  · rw [if_neg h, bitOf_putBit_ne _ _ h]; rfl

/-- The software bits of LOSS_STATE are those of LOSS_SW. -/
theorem fld_setLoss_software (s : State) (v : Nat) : (setLoss s v).fld Reg.staLossState 8 8 = s.fld Reg.staLossSw 8 8 := by
  have hsub : (setLoss s v).fld Reg.staLossState 8 8 = nbits (lossState (setLoss s v)) 8 8 := by
    simp only [lossState, State.fld, bitsOf, nbits, Nat.shiftRight_eq_div_pow]; omega
  have hlow : nbits v 0 4 < 2 ^ 4 := nbits_lt v 0 4
  have hsw : s.fld Reg.staLossSw 8 8 < 2 ^ 8 := nbits_lt _ 8 8
  have hall : bnat (parentDown s v) ≤ 1 := by unfold bnat; split <;> omega
  rw [hsub, lossState_setLoss, lossNext, nbits, Nat.shiftRight_eq_div_pow]
  omega

theorem fld_setLoss_low (s : State) (v : Nat) : (setLoss s v).fld Reg.staLossState 0 4 = nbits v 0 4 := by
  have hsub : (setLoss s v).fld Reg.staLossState 0 4 = nbits (lossState (setLoss s v)) 0 4 := by
    simp only [lossState, State.fld, bitsOf, nbits, Nat.shiftRight_eq_div_pow]; omega
  have hlow : nbits v 0 4 < 2 ^ 4 := nbits_lt v 0 4
  rw [hsub, lossState_setLoss, lossNext, nbits, Nat.shiftRight_zero]
  omega

/-! ### The parent link declared lost or restored (R255, R256) -/

/-- PARENT_STAT.LOST of radio `x` set to `b`, with the event and the bit of LOSS_STATE. -/
def parentTold (s : State) (kind p x : Nat) (b : Bool) : State :=
  setLossBit (staEvent ((s.setBit (parentStat x) 4 b).setFld (parentStat x) 8 4 0) kind x p) (2 + x) b

theorem parentLost_eq (s : State) (p x : Nat) : parentLost s p x = parentTold (linkLost s p x) 2 p x true := rfl

theorem parentBack_eq (s : State) (p x : Nat) : parentBack s p x = parentTold (linkBack s p x) 3 p x false := rfl

section
variable (s : State) (kind p : Nat) {x : Nat} (b : Bool)

theorem parentTold_sta : ∃ due, (parentTold s kind p x b).sta = { s.sta with fbDue := due } := by
  obtain ⟨due, h⟩ := setLoss_sta (staEvent ((s.setBit (parentStat x) 4 b).setFld (parentStat x) 8 4 0) kind x p)
    (putBit ((staEvent ((s.setBit (parentStat x) 4 b).setFld (parentStat x) 8 4 0) kind x p).reg Reg.staLossState) (2 + x) b).toNat
  exact ⟨due, by rw [parentTold, setLossBit, h, (staEvent_lossKept _ _ _ _).sta, setFld_sta, setBit_sta]⟩

variable (hx : x < 2)
include hx

theorem bit_lossState_parentTold {j : Nat} (hj : j < 4) :
    (parentTold s kind p x b).bit Reg.staLossState j = if j = 2 + x then b else s.bit Reg.staLossState j := by
  rw [parentTold, bit_setLossBit _ _ (by omega) hj, bit_of_reg ((staEvent_lossKept _ _ _ _).regs _ (by decide)),
    bit_of_reg (reg_setFld_ne _ _ _ _ _ (parentStat_ne_lossState x).symm),
    bit_of_reg (reg_setBit_ne _ _ _ _ (parentStat_ne_lossState x).symm)]

omit hx in
theorem reg_parentStat_parentTold {y : Nat} (hy : y < 2) : (parentTold s kind p x b).reg (parentStat y) =
    ((s.setBit (parentStat x) 4 b).setFld (parentStat x) 8 4 0).reg (parentStat y) := by
  have hin := inLoss_parentStat hy
  rw [parentTold, setLossBit, reg_setLoss_ne _ _ hin (parentStat_ne_lossState y), (staEvent_lossKept _ _ _ _).regs _ hin]

theorem lost_parentTold {y : Nat} (hy : y < 2) :
    (parentTold s kind p x b).bit (parentStat y) 4 = if y = x then b else s.bit (parentStat y) 4 := by
  rw [bit_of_reg (reg_parentStat_parentTold s kind p b hy)]
  by_cases h : y = x
  · subst h
    rw [if_pos rfl, State.bit, reg_setFld_same, bitOf_putBits_out _ _ _ _ _ (by omega), reg_setBit_same,
      bitOf_putBit_same _ _ _ (by omega)]
  · have hne : parentStat y ≠ parentStat x := by simp only [parentStat, Reg.staParentStat]; omega
    rw [if_neg h, bit_of_reg (reg_setFld_ne _ _ _ _ _ hne), bit_of_reg (reg_setBit_ne _ _ _ _ hne)]

theorem missRun_parentTold : (parentTold s kind p x b).fld (parentStat x) 0 2 = s.fld (parentStat x) 0 2 := by
  rw [fld_of_reg (reg_parentStat_parentTold s kind p b hx), State.fld, reg_setFld_same, bitsOf_putBits_out _ _ _ _ _ _ (by omega),
    reg_setBit_same, bitsOf_putBit_out _ _ _ _ _ (by omega)]
  rfl

end

/-! ### The links of the parent's entry -/

theorem reg_putStaFld (s : State) (a k lo len v q : Nat) : (putStaFld s a k lo len v).reg q = s.reg q :=
  reg_congr s (putStaFld_regs _ _ _ _ _ _) q

/-- Beside the entry, a link that goes down writes the fault log. -/
theorem linkLost_kept (s : State) (p x : Nat) : LossKept (putStaFld s p 0 (6 + x) 1 0) (linkLost s p x) :=
  raiseFault_lossKept _ (by decide) _ _ _

theorem reg_linkLost (s : State) (p x : Nat) {a : Nat} (ha : inLoss a) : (linkLost s p x).reg a = s.reg a :=
  ((linkLost_kept s p x).regs a ha).trans (reg_putStaFld _ _ _ _ _ _ _)

theorem linkLost_parents (s : State) (p x : Nat) : (linkLost s p x).sta.parents = s.sta.parents := by
  obtain ⟨e, he⟩ := putStaFld_sta s p 0 (6 + x) 1 0
  rw [(linkLost_kept s p x).sta, he]

theorem staUp_linkLost {s : State} {p x : Nat} (hv : staValid s p = true) (hx : x < 2) : staUp (linkLost s p x) p x = false := by
  rw [staUp_congr (congrArg (·.entries) (linkLost_kept s p x).sta), staUp, staFld, staWord_putStaFld hv (by decide), if_pos rfl,
    decide_eq_false_iff_not]
  show ¬bitsOf _ _ _ = 1
  rw [bitsOf_putBits_same _ _ _ _ (by omega)]
  decide

theorem reg_linkBack (s : State) (p x a : Nat) : (linkBack s p x).reg a = s.reg a := reg_putStaFld _ _ _ _ _ _ _

/-! ### PARENT_TBTT_DEADLINE (R254, R255) -/

/-- The parent's next TBTT awaited in place of the one that passed. -/
def tbttMoved (s : State) (x : Nat) (l : ParentLink) : State := setParentLink s x (some { l with tbtt := l.tbtt + max 1 l.interval })

/-- MISS_RUN one higher, held at 3. -/
def missNext (s : State) (x : Nat) : Nat := min 3 (s.fld (parentStat x) 0 2 + 1)

/-- A TBTT missed: MISS_RUN counts it, and no beacon counts towards restoration. -/
def missCounted (s : State) (x : Nat) (l : ParentLink) : State :=
  ((tbttMoved s x l).setFld (parentStat x) 0 2 (missNext s x)).setFld (parentStat x) 8 4 0

section
variable {s : State} {p x : Nat} {l : ParentLink}

theorem tbttMissed_skipped (h : wasReceiving s x (parentDt l l.tbtt) = false) : tbttMissed s p x l = tbttMoved s x l := if_pos h

theorem tbttMissed_seen (h : wasReceiving s x (parentDt l l.tbtt) = true) : tbttMissed s p x l =
    if missNext s x = 3 ∧ (missCounted s x l).bit (parentStat x) 4 = false then parentLost (missCounted s x l) p x
    else missCounted s x l := if_neg (by rw [h]; decide)

theorem parentLink_tbttMoved : parentLink (tbttMoved s x l) x = some { l with tbtt := l.tbtt + max 1 l.interval } := by
  rw [parentLink, tbttMoved, setParentLink, bankGet_bankSet_same]

theorem reg_missCounted_ne {a : Nat} (h : a ≠ parentStat x) : (missCounted s x l).reg a = s.reg a := by
  rw [missCounted, reg_setFld_ne _ _ _ _ _ h, reg_setFld_ne _ _ _ _ _ h]; rfl

theorem missRun_missCounted : (missCounted s x l).fld (parentStat x) 0 2 = missNext s x := by
  rw [missCounted, State.fld, reg_setFld_same, bitsOf_putBits_out _ _ _ _ _ _ (by omega)]
  show ((tbttMoved s x l).setFld (parentStat x) 0 2 (missNext s x)).fld (parentStat x) 0 2 = _
  rw [fld_setFld_same _ _ _ _ _ (by decide)]
  exact Nat.mod_eq_of_lt (by simp only [missNext]; omega)

theorem lost_missCounted : (missCounted s x l).bit (parentStat x) 4 = s.bit (parentStat x) 4 := by
  rw [missCounted, State.bit, reg_setFld_same, bitOf_putBits_out _ _ _ _ _ (by omega), reg_setFld_same,
    bitOf_putBits_out _ _ _ _ _ (by omega)]
  rfl

theorem parents_parentLost (s : State) (p x : Nat) : (parentLost s p x).sta.parents = s.sta.parents := by
  obtain ⟨due, h⟩ := parentTold_sta (linkLost s p x) 2 p (x := x) true
  rw [parentLost_eq, h]
  exact linkLost_parents s p x

theorem parents_tbttMissed : (tbttMissed s p x l).sta.parents = (tbttMoved s x l).sta.parents := by
  cases h : wasReceiving s x (parentDt l l.tbtt) with
  | false => rw [tbttMissed_skipped h]
  | true =>
    rw [tbttMissed_seen h]
    split
    · exact parents_parentLost _ _ _
    · rfl

theorem missRun_tbttMissed (hx : x < 2) (h : wasReceiving s x (parentDt l l.tbtt) = true) :
    (tbttMissed s p x l).fld (parentStat x) 0 2 = missNext s x := by
  rw [tbttMissed_seen h]
  split
  · rw [parentLost_eq, missRun_parentTold _ _ _ _ hx, fld_of_reg (reg_linkLost _ _ _ (inLoss_parentStat hx)), missRun_missCounted]
  · exact missRun_missCounted

/-- The third miss in a row declares the link lost. -/
theorem tbttMissed_lost (h : wasReceiving s x (parentDt l l.tbtt) = true) (hn : missNext s x = 3)
    (hlost : s.bit (parentStat x) 4 = false) : tbttMissed s p x l = parentLost (missCounted s x l) p x := by
  rw [tbttMissed_seen h, if_pos ⟨hn, lost_missCounted.trans hlost⟩]

theorem tbttMissed_counted (h : wasReceiving s x (parentDt l l.tbtt) = true) (hn : missNext s x ≠ 3) :
    tbttMissed s p x l = missCounted s x l := by
  rw [tbttMissed_seen h, if_neg fun hc => hn hc.1]

theorem staUp_parentLost (hv : staValid s p = true) (hx : x < 2) : staUp (parentLost s p x) p x = false := by
  obtain ⟨due, h⟩ := parentTold_sta (linkLost s p x) 2 p (x := x) true
  rw [parentLost_eq, staUp_congr (congrArg (·.entries) h)]
  exact staUp_linkLost hv hx

end

theorem lossState_of_reg {s t : State} (h : t.reg Reg.staLossState = s.reg Reg.staLossState) : lossState t = lossState s :=
  fld_of_reg h 0 16

theorem staValid_of_meshParent {s : State} {p : Nat} (h : meshParent s = some p) : staValid s p = true := by
  obtain ⟨hc, hp⟩ := Option.ite_none_right_eq_some.1 h
  cases hp
  simp only [Bool.and_eq_true] at hc
  obtain ⟨⟨-, hv⟩, -⟩ := hc
  exact hv

section
variable {time p : Nat} {x : Radio} {s : State} {l : ParentLink} (hparent : meshParent s = some p)
  (hlink : parentLink s (rIdx x) = some l) (hx : rIdx x < 2) (hon : staLink s p (rIdx x) = true)
  (hpast : parentDt l (l.tbtt + s.fld Reg.staPbcnLate 0 16) < ((s.at time).dt : Int))
include hparent hlink hx hon hpast

theorem exec_parentTbttDeadline : exec (.parentTbttDeadline time x) s = done s (tbttMissed (s.at time) p (rIdx x) l) := by
  have hparent' : meshParent (s.at time) = some p := hparent
  have hlink' : parentLink (s.at time) (rIdx x) = some l := hlink
  show execParentTbttDeadline time x s = _
  unfold execParentTbttDeadline
  simp only [hparent', hlink']
  exact congrArg (done s) (if_pos ⟨hx, hon, hpast⟩)

theorem parentTbttDeadline_moves : Runs (.parentTbttDeadline time x) s fun t =>
    parentLink t (rIdx x) = some { l with tbtt := l.tbtt + max 1 l.interval } := by
  refine runs_of_done (exec_parentTbttDeadline hparent hlink hx hon hpast) ?_
  rw [parentLink, finish_sta, parents_tbttMissed]
  exact parentLink_tbttMoved

theorem parentTbttDeadline_skipped (hseen : wasReceiving s (rIdx x) (parentDt l l.tbtt) = false) :
    Runs (.parentTbttDeadline time x) s fun t =>
      t.reg (parentStat (rIdx x)) = s.reg (parentStat (rIdx x)) ∧ lossState t = lossState s := by
  have hskip : tbttMissed (s.at time) p (rIdx x) l = tbttMoved (s.at time) (rIdx x) l := tbttMissed_skipped hseen
  have hkept := finish_lossKept s (tbttMissed (s.at time) p (rIdx x) l)
  have hreg : ∀ a, (tbttMissed (s.at time) p (rIdx x) l).reg a = s.reg a := fun a => by rw [hskip]; rfl
  exact runs_of_done (exec_parentTbttDeadline hparent hlink hx hon hpast)
    ⟨(hkept.regs _ (inLoss_parentStat hx)).trans (hreg _), lossState_of_reg ((hkept.regs _ (by decide)).trans (hreg _))⟩

variable (hseen : wasReceiving s (rIdx x) (parentDt l l.tbtt) = true)
include hseen

theorem parentTbttDeadline_counts :
    Runs (.parentTbttDeadline time x) s fun t => t.fld (parentStat (rIdx x)) 0 2 = missNext s (rIdx x) := by
  refine runs_of_done (exec_parentTbttDeadline hparent hlink hx hon hpast) ?_
  rw [fld_of_reg ((finish_lossKept _ _).regs _ (inLoss_parentStat hx))]
  exact missRun_tbttMissed (s := s.at time) hx hseen

theorem parentTbttDeadline_loses (hn : missNext s (rIdx x) = 3) (hlost : s.bit (parentStat (rIdx x)) 4 = false) :
    Runs (.parentTbttDeadline time x) s fun t => t.bit (parentStat (rIdx x)) 4 = true ∧
      t.bit Reg.staLossState (2 + rIdx x) = true ∧ staUp t p (rIdx x) = false := by
  have hmissed : tbttMissed (s.at time) p (rIdx x) l = parentLost (missCounted (s.at time) (rIdx x) l) p (rIdx x) :=
    tbttMissed_lost hseen hn hlost
  have hv : staValid s p = true := staValid_of_meshParent hparent
  have hkept := finish_lossKept s (tbttMissed (s.at time) p (rIdx x) l)
  refine runs_of_done (exec_parentTbttDeadline hparent hlink hx hon hpast) ⟨?_, ?_, ?_⟩
  · rw [bit_of_reg (hkept.regs _ (inLoss_parentStat hx)), hmissed, parentLost_eq, lost_parentTold _ _ _ _ hx hx, if_pos rfl]
  · rw [bit_of_reg (hkept.regs _ (by decide)), hmissed, parentLost_eq, bit_lossState_parentTold _ _ _ _ hx (by omega), if_pos rfl]
  · rw [staUp_congr (congrArg (·.entries) (finish_sta _ _)), hmissed]
    exact staUp_parentLost (s := missCounted (s.at time) (rIdx x) l) hv hx

theorem parentTbttDeadline_stays (hn : missNext s (rIdx x) ≠ 3) : Runs (.parentTbttDeadline time x) s fun t =>
    t.bit (parentStat (rIdx x)) 4 = s.bit (parentStat (rIdx x)) 4 ∧ lossState t = lossState s := by
  have hmissed : tbttMissed (s.at time) p (rIdx x) l = missCounted (s.at time) (rIdx x) l := tbttMissed_counted hseen hn
  have hkept := finish_lossKept s (tbttMissed (s.at time) p (rIdx x) l)
  refine runs_of_done (exec_parentTbttDeadline hparent hlink hx hon hpast) ⟨?_, lossState_of_reg ?_⟩
  · rw [bit_of_reg (hkept.regs _ (inLoss_parentStat hx)), hmissed]
    exact lost_missCounted
  · rw [hkept.regs _ (by decide), hmissed]
    exact reg_missCounted_ne (parentStat_ne_lossState _).symm

end

/-! ### PARENT_LOSS_CLEAR (R256) -/

/-- The bit of LOSS_STATE of radio `x`, where it is set and written 1, cleared with the effect of a restoration. -/
def lossCleared (d : Word) (p x : Nat) (s : State) : State :=
  if bitOf d (2 + x) && s.bit Reg.staLossState (2 + x) then parentBack s p x else s

theorem parentLossClear_eq (s : State) (d : Word) : parentLossClear s d =
    lossCleared d (s.fld Reg.staMeshCtrl 16 12) 1 (lossCleared d (s.fld Reg.staMeshCtrl 16 12) 0 s) := rfl

section
variable (d : Word) (p : Nat) {x : Nat} (s : State) (hx : x < 2)
include hx

theorem bit_lossState_lossCleared {j : Nat} (hj : j < 4) : (lossCleared d p x s).bit Reg.staLossState j =
    (s.bit Reg.staLossState j && !(decide (j = 2 + x) && bitOf d j)) := by
  unfold lossCleared
  split
  · next h =>
    rw [Bool.and_eq_true] at h
    rw [parentBack_eq, bit_lossState_parentTold _ _ _ _ hx hj, bit_of_reg (reg_linkBack _ _ _ _)]
    by_cases hjx : j = 2 + x
    · rw [if_pos hjx, hjx, h.1, h.2]; simp
    · simp [hjx]
  · next h =>
    by_cases hjx : j = 2 + x
    · subst hjx
      simp only [Bool.and_eq_true, not_and, Bool.not_eq_true] at h
      cases hd : bitOf d (2 + x) with
      | false => simp
      | true => simp [h hd]
    · simp [hjx]

theorem lost_lossCleared {y : Nat} (hy : y < 2) : (lossCleared d p x s).bit (parentStat y) 4 =
    (s.bit (parentStat y) 4 && !(decide (y = x) && bitOf d (2 + x) && s.bit Reg.staLossState (2 + x))) := by
  unfold lossCleared
  split
  · next h =>
    rw [parentBack_eq, lost_parentTold _ _ _ _ hx hy, bit_of_reg (reg_linkBack _ _ _ _), Bool.and_assoc, h]
    by_cases hyx : y = x <;> simp [hyx]
  · next h => rw [Bool.and_assoc, Bool.eq_false_iff.2 h]; simp

end

theorem bit_lossState_parentLossClear (s : State) (d : Word) {j : Nat} (hj : j < 4) :
    (parentLossClear s d).bit Reg.staLossState j = (s.bit Reg.staLossState j && !(decide (2 ≤ j) && bitOf d j)) := by
  have hcases : decide (2 ≤ j) = (decide (j = 2 + 0) || decide (j = 2 + 1)) := by
    rw [← Bool.decide_or]; exact decide_eq_decide.2 (by omega)
  rw [parentLossClear_eq, bit_lossState_lossCleared _ _ _ (by omega) hj, bit_lossState_lossCleared _ _ _ (by omega) hj, hcases]
  cases s.bit Reg.staLossState j <;> cases bitOf d j <;> simp

/-- A bit cleared takes LOST of its radio with it. -/
theorem lost_parentLossClear {s : State} {d : Word} {x : Nat} (hx : x < 2) (hset : s.bit Reg.staLossState (2 + x) = true)
    (hd : bitOf d (2 + x) = true) : (parentLossClear s d).bit (parentStat x) 4 = false := by
  rw [parentLossClear_eq, lost_lossCleared _ _ _ (by omega) hx, lost_lossCleared _ _ _ (by omega) hx,
    bit_lossState_lossCleared _ _ _ (by omega) (by omega)]
  obtain rfl | rfl : x = 0 ∨ x = 1 := by omega
  · simp [hset, hd]
  · simp [hset, hd]

/-! ### The commands on LOSS_STATE -/

section
variable {time : Nat} {init : Init} {d : Word} {s : State}

theorem parentLossClear_clears (hacc : accepts s init Reg.staLossState true = true) : Runs (.parentLossClear time init d) s fun t =>
    (∀ x, x < 2 → t.bit Reg.staLossState (2 + x) = (s.bit Reg.staLossState (2 + x) && !bitOf d (2 + x))) ∧
    (∀ x, x < 2 → s.bit Reg.staLossState (2 + x) = true → bitOf d (2 + x) = true → t.bit (parentStat x) 4 = false) ∧
    ∀ i, i < 2 → t.bit Reg.staLossState i = s.bit Reg.staLossState i := by
  refine runs_of_busWrite rfl hacc fun u hu => ?_
  have hkept := finish_lossKept s (parentLossClear u d)
  have hbefore : ∀ j, u.bit Reg.staLossState j = s.bit Reg.staLossState j := fun j => bit_of_reg (hu.reg_ok (by decide))
  have hafter : ∀ j, j < 4 → (finish s (parentLossClear u d)).bit Reg.staLossState j =
      (s.bit Reg.staLossState j && !(decide (2 ≤ j) && bitOf d j)) := fun j hj => by
    rw [bit_of_reg (hkept.regs _ (by decide)), bit_lossState_parentLossClear _ _ hj, hbefore]
  refine ⟨fun x hx => ?_, fun x hx hset hd => ?_, fun i hi => ?_⟩
  · rw [hafter _ (by omega), decide_eq_true (by omega), Bool.true_and]
  · rw [bit_of_reg (hkept.regs _ (inLoss_parentStat hx))]
    exact lost_parentLossClear hx ((hbefore _).trans hset) hd
  · rw [hafter _ (by omega), decide_eq_false (by omega), Bool.false_and, Bool.not_false, Bool.and_true]

theorem plainMask_lossSw : ∃ m, plainMask Reg.staLossSw = some m ∧ ∀ i, i < 8 → 8 + i < 32 ∧ m.testBit (8 + i) = true :=
  ⟨_, rfl, by decide⟩

theorem lossSwWrite_sets (hacc : accepts s init Reg.staLossSw true = true) : Runs (.lossSwWrite time init d) s fun t =>
    t.fld Reg.staLossState 8 8 = bitsOf d 8 8 ∧ t.fld Reg.staLossState 0 4 = s.fld Reg.staLossState 0 4 ∧ t.sta.fbDue = true := by
  obtain ⟨m, hm, hlow⟩ := plainMask_lossSw
  refine runs_of_busWrite rfl hacc fun u hu => ?_
  have hreg : (finish s (lossSwSet u d)).reg Reg.staLossState =
      (setLoss (plainWrite u Reg.staLossSw d) (lossState u)).reg Reg.staLossState := (finish_lossKept _ _).regs _ (by decide)
  refine ⟨?_, ?_, congrArg (·.fbDue) (finish_sta _ _)⟩
  · rw [fld_of_reg hreg, fld_setLoss_software, fld_plainWrite_same hm _ _ hlow]
  · have hsub : nbits (lossState u) 0 4 = u.fld Reg.staLossState 0 4 := by
      simp only [lossState, State.fld, bitsOf, nbits, Nat.shiftRight_zero]; omega
    rw [fld_of_reg hreg, fld_setLoss_low, hsub, fld_of_reg (hu.reg_ok (by decide))]

/-- An uplink up for RESTORE.UL_MS clears its bit, which changes LOSS_STATE, so that a re-evaluation falls due. -/
theorem uplinkRestoreTimer_clears {u : Fin 2} {up : Nat} (hup : bankGet (fun _ => none) s.sta.ulUp u = some up)
    (hset : s.bit Reg.staLossState u = true) (hdue : up + 1000000 * max 1 (s.fld Reg.staRestore 0 16) ≤ (s.at time).dt) :
    Runs (.uplinkRestoreTimer time u) s fun t => t.bit Reg.staLossState u = false ∧ t.sta.fbDue = true ∧
      ∀ i, i < 4 → i ≠ u.val → t.bit Reg.staLossState i = s.bit Reg.staLossState i := by
  have hexec : exec (.uplinkRestoreTimer time u) s = done s (setLossBit (s.at time) u false) := by
    have hup' : bankGet (fun _ => none) (s.at time).sta.ulUp u = some up := hup
    show execUplinkRestoreTimer time u s = _
    unfold execUplinkRestoreTimer
    simp only [hup']
    exact congrArg (done s) (if_pos ⟨hset, hdue⟩)
  have hbit : ∀ j, j < 4 → (finish s (setLossBit (s.at time) u false)).bit Reg.staLossState j =
      if j = u.val then false else s.bit Reg.staLossState j := fun j hj =>
    (bit_of_reg ((finish_lossKept _ _).regs _ (by decide))).trans (bit_setLossBit (s.at time) false (by omega) hj)
  refine runs_of_done hexec ⟨?_, ?_, fun i hi hne => ?_⟩
  · rw [hbit u (by omega), if_pos rfl]
  · have hchanged : lossNext (s.at time) (putBit ((s.at time).reg Reg.staLossState) u false).toNat ≠ lossState (s.at time) := fun h => by
      have hsame := bit_setLossBit (s.at time) (i := u) (j := u) false (by omega) (by omega)
      rw [setLossBit, setLoss_of_same h, if_pos rfl] at hsame
      exact absurd (hset.symm.trans hsame) (by decide)
    rw [finish_sta, setLossBit, setLoss_changed_sta hchanged]
  · rw [hbit i hi, if_neg hne]

/-- A re-evaluation that is due takes LOSS_STATE as the vector of the table (R259). -/
theorem fallbackEval_takes (hdue : s.sta.fbDue = true) : Runs (.fallbackEval time) s fun t =>
    t.sta = { s.sta with fbVec := lossState s, fbDue := false } := by
  have hexec : exec (.fallbackEval time) s = done s (fallbackNow (s.at time)) := congrArg (done s) (if_pos hdue)
  refine runs_of_done hexec ?_
  rw [finish_sta, fallbackNow, (reviewTm_regsOnly _).sta]
  rfl

end

/-- Settles O32: a lemma for each outcome of the five commands. -/
theorem lossesFollowTheParentAndTheUplinks : Obligations.LossesFollowTheParentAndTheUplinks := by
  unfold Obligations.LossesFollowTheParentAndTheUplinks
  refine ⟨fun time x s p hparent l hlink hx hon hpast => ⟨?_, ?_, ?_, ?_, ?_⟩, fun time init d s => parentLossClear_clears,
    fun time init d s => lossSwWrite_sets, fun time u s up => uplinkRestoreTimer_clears, fun time s => fallbackEval_takes⟩
  · exact parentTbttDeadline_moves hparent hlink hx hon hpast
  · exact parentTbttDeadline_skipped hparent hlink hx hon hpast
  · exact parentTbttDeadline_counts hparent hlink hx hon hpast
  · exact parentTbttDeadline_loses hparent hlink hx hon hpast
  · exact parentTbttDeadline_stays hparent hlink hx hon hpast

end Sys2Proof.Machine
end

section
/-! The stations family (06_stations_and_links): the association table under its shared operations (O30; R227 to R231, R245, R246). -/

namespace Sys2Proof.Machine

/-! ### Updates for each of a list -/

/-- What one update of a list brings about, and no other undoes, holds after them all. -/
theorem each_reaches {α : Type} {P : State → Prop} {f : α → State → State} {x : α} {l : List α} (hx : x ∈ l)
    (hset : ∀ t, P (f x t)) (hkeep : ∀ y t, P t → P (f y t)) (s : State) : P (s.each l f) := by
  induction l generalizing s with
  | nil => exact absurd hx List.not_mem_nil
  | cons y r ih =>
    rcases List.mem_cons.1 hx with rfl | hr
    · exact each_ind (f x s) P r f (hset s) fun z _ t => hkeep z t
    · exact ih hr (f y s)

/-! ### Stations and registers before and after a command -/

section
variable {s t : State} (h : t.sta.entries = s.sta.entries)
include h

theorem staValid_congr (a : Nat) : staValid t a = staValid s a := by rw [staValid, staFld_congr h]; rfl

theorem staKind_congr (a : Nat) : staKind t a = staKind s a := staFld_congr h a 0 1 2

end

theorem pairKey_congr {s t : State} (h : t.sta = s.sta) (a kid : Nat) : pairKey t a kid = pairKey s a kid := by
  rw [pairKey, h]; rfl

theorem addrPlace_congr {s t : State} (h : t.sta.index = s.sta.index) (k : Nat) : addrPlace t k = addrPlace s k := by
  rw [addrPlace, h]; rfl

/-- `t` has the stations of `s`, and the registers of the packet pipeline, the traffic manager, GEN and the stations. -/
abbrev TableKept : State → State → Prop := StaKept inPipe

theorem finish_tableKept (s t : State) : TableKept t (finish s t) := (finish_aside s t).staKept fun _ => noteReg_of_inPipe

/-- An accepted write to the stations' registers acts on their table as it stands. -/
theorem runs_of_tableWrite {i : Instr} {s : State} {time init a : Nat} {d : Word} {f : State → State} {P : State → Prop}
    (h : exec i s = done s (busDo (s.at time) init a 4 (some d) f)) (hacc : accepts s init a true = true)
    (hp : ∀ u, TableKept s u → P (finish s (f u))) : Runs i s P :=
  runs_of_busWrite h hacc fun u hu =>
    hp u (StaKept.trans (t := (s.at time).answer .ok) ⟨rfl, fun _ _ => rfl⟩ (hu.staKept fun _ => noteReg_of_inPipe))

/-! ### Entries replaced -/

theorem staEntry_putEntry (s : State) (a b : Nat) (ws : List Word) :
    staEntry (putEntry s a ws) b = if b = a then ws else staEntry s b := bankGet_bankSet _ _ _ _ _

/-! ### An entry removed (R231) -/

/-- The sequence spaces of an entry emptied. -/
def spacesEmptied (s : State) (a : Nat) : State := s.each (List.range 10) (fun sp t => setSpace t a sp {})

/-- The index without the addresses of an entry. -/
def indexWithout (l : Bank (Option (Nat × Nat))) (a : Nat) : Bank (Option (Nat × Nat)) :=
  l.filter (fun e => match e.2 with
    | none => false
    | some (_, b) => decide (b ≠ a))

/-- A valid entry emptied, with VALID_COUNT one lower. -/
def entryCleared (s : State) (a : Nat) : State :=
  if staValid s a then (putEntry s a []).setFld Reg.staStaStat 0 13 (s.fld Reg.staStaStat 0 13 - 1) else s

section
variable (s : State) (a : Nat)

theorem roDrop_sta (n : Nat) : (roDrop s n).sta = s.sta := by
  unfold roDrop
  split <;> rfl

theorem spacesEmptied_sta : ∃ b, (spacesEmptied s a).sta = { s.sta with spaces := b } :=
  each_ind s (fun t => ∃ b, t.sta = { s.sta with spaces := b }) _ _ ⟨_, rfl⟩ fun sp _ t ⟨b, hb⟩ =>
    ⟨bankSet (fun _ => {}) t.sta.spaces (a * 16 + sp) {}, by rw [setSpace, setFld_sta, hb]⟩

theorem spaceOf_setSpace_of (sp k : Nat) (v : Space) :
    spaceOf (setSpace s a sp v) a k = if k = sp then v else spaceOf s a k := by
  have hkey : a * 16 + k = a * 16 + sp ↔ k = sp := by omega
  rw [spaceOf, setSpace, setFld_sta, bankGet_bankSet]
  simp only [hkey]
  rfl

theorem spaceOf_spacesEmptied {sp : Nat} (hsp : sp < 10) : spaceOf (spacesEmptied s a) a sp = {} := by
  refine each_reaches (P := fun t => spaceOf t a sp = {}) (List.mem_range.2 hsp) (fun t => ?_) (fun k t ht => ?_) s
  · exact spaceOf_setSpace t a sp {}
  · rw [spaceOf_setSpace_of, ht, ite_self]

theorem entryCleared_sta : ∃ e, (entryCleared s a).sta = { s.sta with entries := e } := by
  unfold entryCleared
  split
  · exact ⟨_, rfl⟩
  · exact ⟨_, rfl⟩

theorem staEntry_entryCleared_ne {b : Nat} (hb : b ≠ a) : staEntry (entryCleared s a) b = staEntry s b := by
  unfold entryCleared
  split
  · exact (staEntry_putEntry s a b []).trans (if_neg hb)
  · rfl

theorem staValid_entryCleared : staValid (entryCleared s a) a = false := by
  unfold entryCleared
  split
  · have hnone : staEntry ((putEntry s a []).setFld Reg.staStaStat 0 13 (s.fld Reg.staStaStat 0 13 - 1)) a = [] :=
      (staEntry_putEntry s a a []).trans (if_pos rfl)
    rw [staValid, staFld, staWord, hnone]
    decide
  · next h => exact Bool.eq_false_iff.2 h

end

/-- `t` stands before entry `a` of `s` is emptied: its key slots, windows and addresses are gone, and RO_USED and RO_DROP with its
interrupt follow. -/
structure PeerDropped (s : State) (a : Nat) (t : State) : Prop where
  entries : t.sta.entries = s.sta.entries
  keys : pairKey t a 0 = {} ∧ pairKey t a 1 = {}
  spaces : ∀ sp, sp < 10 → spaceOf t a sp = {}
  index : t.sta.index = indexWithout s.sta.index a
  regs : ∀ q, q ≠ Reg.staRoDrop → q ≠ Reg.staIrqRaw → q ≠ Reg.staRoUsed → t.reg q = s.reg q

theorem reg_roDrop (s : State) (n : Nat) {q : Nat} (hdrop : q ≠ Reg.staRoDrop) (hraw : q ≠ Reg.staIrqRaw) :
    (roDrop s n).reg q = s.reg q := by
  unfold roDrop
  split
  · rfl
  · rw [reg_raise_ne _ _ _ hraw, reg_addRc_ne _ _ _ hdrop]

theorem reg_spacesEmptied (s : State) (a : Nat) {q : Nat} (hused : q ≠ Reg.staRoUsed) : (spacesEmptied s a).reg q = s.reg q :=
  each_ind s (fun t => t.reg q = s.reg q) _ _ rfl fun _ _ _ ht => (reg_setFld_ne _ _ _ _ _ hused).trans ht

theorem pairKey_setPairKey (s : State) (a kid j : Nat) (k : KeySlot) :
    pairKey (setPairKey s a kid k) a j = if j = kid then k else pairKey s a j := by
  have hkey : a * 2 + j = a * 2 + kid ↔ j = kid := by omega
  rw [pairKey, setPairKey, bankGet_bankSet]
  simp only [hkey]
  rfl

theorem dropTx_sta (s : State) (p : TxMpdu → Bool) : ∃ r l, (dropTx s p).sta = { s.sta with retry := r, sent := l } := ⟨_, _, rfl⟩

theorem setPairKey_sta (s : State) (a kid : Nat) (k : KeySlot) : ∃ l, (setPairKey s a kid k).sta = { s.sta with pair := l } := ⟨_, rfl⟩

/-- The key slots of an entry emptied, and its MPDUs dropped. -/
def peerUnkeyed (s : State) (a : Nat) : State :=
  dropTx (setPairKey (setPairKey s a 0 {}) a 1 {}) (fun m => decide (m.sta = a))

theorem peerUnkeyed_sta (s : State) (a : Nat) : ∃ l r n, (peerUnkeyed s a).sta = { s.sta with pair := l, retry := r, sent := n } := by
  obtain ⟨r, n, h⟩ := dropTx_sta (setPairKey (setPairKey s a 0 {}) a 1 {}) (fun m => decide (m.sta = a))
  obtain ⟨l, h1⟩ := setPairKey_sta (setPairKey s a 0 {}) a 1 {}
  obtain ⟨m, h0⟩ := setPairKey_sta s a 0 {}
  exact ⟨l, r, n, by rw [peerUnkeyed, h, h1, h0]⟩

theorem pairKey_peerUnkeyed (s : State) (a : Nat) : pairKey (peerUnkeyed s a) a 0 = {} ∧ pairKey (peerUnkeyed s a) a 1 = {} := by
  obtain ⟨r, n, h⟩ := dropTx_sta (setPairKey (setPairKey s a 0 {}) a 1 {}) (fun m => decide (m.sta = a))
  have hkept : ∀ kid, pairKey (peerUnkeyed s a) a kid = pairKey (setPairKey (setPairKey s a 0 {}) a 1 {}) a kid := fun kid => by
    rw [pairKey, peerUnkeyed, h]; rfl
  rw [hkept, hkept, pairKey_setPairKey, pairKey_setPairKey, pairKey_setPairKey]
  exact ⟨rfl, rfl⟩

theorem reg_peerUnkeyed (s : State) (a q : Nat) : (peerUnkeyed s a).reg q = s.reg q := rfl

/-- What stands before the addresses of a removed entry leave the index. -/
structure PeerUnkeyed (s : State) (a : Nat) (t : State) : Prop where
  entries : t.sta.entries = s.sta.entries
  index : t.sta.index = s.sta.index
  keys : pairKey t a 0 = {} ∧ pairKey t a 1 = {}
  spaces : ∀ sp, sp < 10 → spaceOf t a sp = {}
  regs : ∀ q, q ≠ Reg.staRoDrop → q ≠ Reg.staIrqRaw → q ≠ Reg.staRoUsed → t.reg q = s.reg q

theorem peerUnkeyed_before (s : State) (n a : Nat) : PeerUnkeyed s a (peerUnkeyed (spacesEmptied (roDrop s n) a) a) := by
  obtain ⟨b, hemptied⟩ := spacesEmptied_sta (roDrop s n) a
  obtain ⟨l, r, m, hsta⟩ := peerUnkeyed_sta (spacesEmptied (roDrop s n) a) a
  refine ⟨by rw [hsta, hemptied, roDrop_sta], by rw [hsta, hemptied, roDrop_sta], pairKey_peerUnkeyed _ a, fun sp hsp => ?_,
    fun q hdrop hraw hused => ?_⟩
  · rw [spaceOf_congr (congrArg (·.spaces) hsta), spaceOf_spacesEmptied _ _ hsp]
  · rw [reg_peerUnkeyed, reg_spacesEmptied _ _ hused, reg_roDrop _ _ hdrop hraw]

/-- A removal drops what the peer has, and then empties the entry. -/
theorem removeEntry_stages (s : State) (a : Nat) : ∃ t, PeerDropped s a t ∧ removeEntry s a = entryCleared t a := by
  unfold removeEntry
  extract_lets n dropped emptied unkeyed _ forgotten
  have hunkeyed : unkeyed = peerUnkeyed (spacesEmptied (roDrop s n) a) a := rfl
  have h := hunkeyed ▸ peerUnkeyed_before s n a
  clear_value unkeyed
  refine ⟨forgotten, ⟨h.entries, h.keys, h.spaces, ?_, h.regs⟩, rfl⟩
  show indexWithout unkeyed.sta.index a = _
  rw [h.index]

section
variable (s : State) (a : Nat)

theorem removeEntry_index : (removeEntry s a).sta.index = indexWithout s.sta.index a := by
  obtain ⟨t, ht, h⟩ := removeEntry_stages s a
  obtain ⟨e, he⟩ := entryCleared_sta t a
  rw [h, he]
  exact ht.index

/-- VALID_COUNT changes where the entry was valid alone. -/
theorem reg_removeEntry {q : Nat} (hdrop : q ≠ Reg.staRoDrop) (hraw : q ≠ Reg.staIrqRaw) (hused : q ≠ Reg.staRoUsed)
    (hstat : q ≠ Reg.staStaStat ∨ staValid s a = false) : (removeEntry s a).reg q = s.reg q := by
  obtain ⟨t, ht, h⟩ := removeEntry_stages s a
  rw [h, ← ht.regs q hdrop hraw hused, entryCleared]
  split
  · next hv =>
    rw [staValid_congr ht.entries] at hv
    exact reg_setFld_ne _ _ _ _ _ (hstat.resolve_right (by rw [hv]; decide))
  · rfl

end

/-- What stands where entry `a` of `s` was removed: no entry, no key slot, no window and no address of it, and every other entry. -/
structure EntryGone (s : State) (a : Nat) (t : State) : Prop where
  valid : staValid t a = false
  keys : pairKey t a 0 = {} ∧ pairKey t a 1 = {}
  spaces : ∀ sp, sp < 10 → spaceOf t a sp = {}
  index : t.sta.index.all (fun e => decide (e.2.map (·.2) ≠ some a)) = true
  others : ∀ b, b ≠ a → staEntry t b = staEntry s b

theorem removeEntry_gone (s : State) (a : Nat) : EntryGone s a (removeEntry s a) := by
  obtain ⟨t, ht, h⟩ := removeEntry_stages s a
  obtain ⟨e, he⟩ := entryCleared_sta t a
  rw [h]
  refine ⟨staValid_entryCleared t a, ?_, fun sp hsp => ?_, ?_, fun b hb => ?_⟩
  · rw [pairKey, pairKey, he]
    exact ht.keys
  · rw [spaceOf, he]
    exact ht.spaces sp hsp
  · have hindex : (entryCleared t a).sta.index = indexWithout s.sta.index a := by rw [he]; exact ht.index
    rw [hindex, List.all_eq_true]
    rintro ⟨k, v⟩ hv
    have hkept := (List.mem_filter.1 hv).2
    cases v with
    | none => exact absurd hkept (by simp)
    | some p => exact decide_eq_true fun hp => of_decide_eq_true hkept (Option.some.inj hp)
  · rw [staEntry_entryCleared_ne t a hb, staEntry_congr ht.entries]

theorem EntryGone.congr {s u t v : State} {a : Nat} (h : EntryGone u a v) (hu : u.sta = s.sta) (ht : t.sta = v.sta) :
    EntryGone s a t := by
  have hentries : t.sta.entries = v.sta.entries := congrArg (·.entries) ht
  refine ⟨(staValid_congr hentries a).trans h.valid, ?_, fun sp hsp => ?_, ?_, fun b hb => ?_⟩
  · rw [pairKey_congr ht, pairKey_congr ht]; exact h.keys
  · rw [spaceOf_congr (congrArg (·.spaces) ht)]; exact h.spaces sp hsp
  · rw [ht]; exact h.index
  · rw [staEntry_congr hentries, h.others b hb, staEntry_congr (congrArg (·.entries) hu)]

/-! ### The index of transmitter addresses (R229) -/

/-- The association index that a place gives for an address. -/
def indexAt (addr : Nat) (p : Option (Nat × Nat)) : Option Nat :=
  match p with
  | none => none
  | some (ad, a) => if ad = addr then some a else none

theorem indexAt_eq_some {addr b : Nat} {p : Option (Nat × Nat)} : indexAt addr p = some b ↔ p = some (addr, b) := by
  cases p with
  | none => simp [indexAt]
  | some q =>
    obtain ⟨ad, a⟩ := q
    simp [indexAt]

theorem lookupTa_eq (s : State) (x addr : Nat) :
    lookupTa s x addr = (addrPlaces s x addr).findSome? (fun k => indexAt addr (addrPlace s k)) := rfl

theorem addrPlaces_congr {s t : State} (h : t.reg Reg.staAddrSeed = s.reg Reg.staAddrSeed) (x addr : Nat) :
    addrPlaces t x addr = addrPlaces s x addr := by
  rw [addrPlaces, addrBuckets, regN_of_reg h]; rfl

theorem lookupTa_congr {s t : State} (hi : t.sta.index = s.sta.index) (h : t.reg Reg.staAddrSeed = s.reg Reg.staAddrSeed)
    (x addr : Nat) : lookupTa t x addr = lookupTa s x addr := by
  rw [lookupTa_eq, addrPlaces_congr h, lookupTa_eq]
  simp only [addrPlace_congr hi]

/-- An address that no other index bears is found. -/
theorem lookupTa_of_sole {s : State} {x addr a k : Nat} (hk : k ∈ addrPlaces s x addr) (hat : addrPlace s k = some (addr, a))
    (hsole : ∀ j ∈ addrPlaces s x addr, ∀ b, addrPlace s j = some (addr, b) → b = a) : lookupTa s x addr = some a := by
  rw [lookupTa_eq]
  cases hfind : (addrPlaces s x addr).findSome? (fun k => indexAt addr (addrPlace s k)) with
  | none =>
    have hnone := List.findSome?_eq_none_iff.1 hfind k hk
    rw [indexAt_eq_some.2 hat] at hnone
    exact absurd hnone (by simp)
  | some b =>
    obtain ⟨j, hj, hb⟩ := List.exists_of_findSome?_eq_some hfind
    rw [hsole j hj b (indexAt_eq_some.1 hb)]

theorem addrPlace_ne_of_lookupTa {s : State} {x addr : Nat} (h : lookupTa s x addr = none) {k : Nat} (hk : k ∈ addrPlaces s x addr)
    (b : Nat) : addrPlace s k ≠ some (addr, b) := fun hat => by
  have hnone := List.findSome?_eq_none_iff.1 ((lookupTa_eq s x addr).symm.trans h) k hk
  rw [indexAt_eq_some.2 hat] at hnone
  exact absurd hnone (by simp)

theorem addrPlace_putPlace (s : State) (k : Nat) (v : Option (Nat × Nat)) (j : Nat) :
    addrPlace (putPlace s k v) j = if j = k then v else addrPlace s j := bankGet_bankSet _ _ _ _ _

/-- The first address of a list is taken, has no free place, or is put into one. -/
theorem indexAll_cons (w : Nat → Nat) (a x : Nat) (r : List Nat) (s : State) :
    (∃ b, lookupTa s x (txAddrOf w x) = some b ∧ indexAll w a (x :: r) s = (1, s)) ∨
    (lookupTa s x (txAddrOf w x) = none ∧
      (addrPlaces s x (txAddrOf w x)).find? (fun k => (addrPlace s k).isNone) = none ∧ indexAll w a (x :: r) s = (2, s)) ∨
    ∃ k, lookupTa s x (txAddrOf w x) = none ∧
      (addrPlaces s x (txAddrOf w x)).find? (fun k => (addrPlace s k).isNone) = some k ∧
      indexAll w a (x :: r) s = indexAll w a r (putPlace s k (some (txAddrOf w x, a))) := by
  cases hlookup : lookupTa s x (txAddrOf w x) with
  | some b => exact .inl ⟨b, rfl, by simp only [indexAll, hlookup]⟩
  | none =>
    cases hfree : (addrPlaces s x (txAddrOf w x)).find? (fun k => (addrPlace s k).isNone) with
    | none => exact .inr (.inl ⟨rfl, rfl, by simp only [indexAll, hlookup, hfree]⟩)
    | some k => exact .inr (.inr ⟨k, rfl, rfl, by simp only [indexAll, hlookup, hfree]⟩)

/-- `t` differs from `s` by free places of the index that now name `a`. -/
structure IndexGrown (a : Nat) (s t : State) : Prop where
  only : ∃ l, t = { s with sta := { s.sta with index := l } }
  kept : ∀ k v, addrPlace s k = some v → addrPlace t k = some v
  new : ∀ k v, addrPlace t k = some v → addrPlace s k = some v ∨ v.2 = a

theorem IndexGrown.refl (a : Nat) (s : State) : IndexGrown a s s := ⟨⟨_, rfl⟩, fun _ _ h => h, fun _ _ h => .inl h⟩

theorem IndexGrown.trans {a : Nat} {s t u : State} (h : IndexGrown a s t) (k : IndexGrown a t u) : IndexGrown a s u := by
  obtain ⟨l, rfl⟩ := h.only
  obtain ⟨m, rfl⟩ := k.only
  exact ⟨⟨m, rfl⟩, fun j v hj => k.kept j v (h.kept j v hj), fun j v hj => (k.new j v hj).elim (h.new j v) .inr⟩

theorem IndexGrown.putPlace {a : Nat} {s : State} {k : Nat} (hfree : addrPlace s k = none) (addr : Nat) :
    IndexGrown a s (putPlace s k (some (addr, a))) := by
  refine ⟨⟨_, rfl⟩, fun j v hj => ?_, fun j v hj => ?_⟩
  · have hne : j ≠ k := fun he => by rw [he, hfree] at hj; cases hj
    rw [addrPlace_putPlace, if_neg hne, hj]
  · rw [addrPlace_putPlace] at hj
    split at hj
    · exact .inr (congrArg (·.2) (Option.some.inj hj)).symm
    · exact .inl hj

section
variable (w : Nat → Nat) (a : Nat)

theorem addrPlace_of_find {s : State} {l : List Nat} {k : Nat} (h : l.find? (fun k => (addrPlace s k).isNone) = some k) :
    k ∈ l ∧ addrPlace s k = none := ⟨List.mem_of_find?_eq_some h, by simpa using List.find?_some h⟩

theorem indexAll_grown (l : List Nat) (s : State) : IndexGrown a s (indexAll w a l s).2 := by
  induction l generalizing s with
  | nil => exact .refl a s
  | cons x r ih =>
    rcases indexAll_cons w a x r s with ⟨b, -, h⟩ | ⟨-, -, h⟩ | ⟨k, -, hfind, h⟩
    · rw [h]; exact .refl a s
    · rw [h]; exact .refl a s
    · rw [h]; exact (IndexGrown.putPlace (addrPlace_of_find hfind).2 _).trans (ih _)

theorem indexAll_result_le (l : List Nat) (s : State) : (indexAll w a l s).1 ≤ 2 := by
  induction l generalizing s with
  | nil => exact Nat.zero_le 2
  | cons x r ih =>
    rcases indexAll_cons w a x r s with ⟨b, -, h⟩ | ⟨-, -, h⟩ | ⟨k, -, -, h⟩
    · rw [h]; exact Nat.le_succ 1
    · rw [h]
    · rw [h]; exact ih _

/-- Where every address found a place, each is found there. -/
theorem indexAll_findable (l : List Nat) (s : State) (hr : (indexAll w a l s).1 = 0) :
    ∀ x ∈ l, lookupTa (indexAll w a l s).2 x (txAddrOf w x) = some a := by
  induction l generalizing s with
  | nil => exact fun x hx => absurd hx List.not_mem_nil
  | cons y r ih =>
    rcases indexAll_cons w a y r s with ⟨b, -, h⟩ | ⟨-, -, h⟩ | ⟨k, hnone, hfind, h⟩
    · rw [h] at hr; cases hr
    · rw [h] at hr; cases hr
    · rw [h] at hr ⊢
      obtain ⟨hk, hfree⟩ := addrPlace_of_find hfind
      have hrest := indexAll_grown w a r (putPlace s k (some (txAddrOf w y, a)))
      have hgrown := (IndexGrown.putPlace hfree (txAddrOf w y)).trans hrest
      have hput : addrPlace (putPlace s k (some (txAddrOf w y, a))) k = some (txAddrOf w y, a) := by
        rw [addrPlace_putPlace, if_pos rfl]
      rintro x (_ | ⟨_, hx⟩)
      · obtain ⟨m, hm⟩ := hgrown.only
        have hplaces : addrPlaces (indexAll w a r (putPlace s k (some (txAddrOf w y, a)))).2 y (txAddrOf w y) =
            addrPlaces s y (txAddrOf w y) := addrPlaces_congr (by rw [hm]; rfl) _ _
        refine lookupTa_of_sole (by rw [hplaces]; exact hk) (hrest.kept k _ hput) fun j hj b hb => ?_
        rw [hplaces] at hj
        exact (hgrown.new j _ hb).resolve_left (addrPlace_ne_of_lookupTa hnone hj b)
      · exact ih _ hr x hx

variable {w a}

/-- The outcome depends on the index and the seed alone. -/
theorem indexAll_result_congr (l : List Nat) {s t : State} (hi : t.sta.index = s.sta.index)
    (h : t.reg Reg.staAddrSeed = s.reg Reg.staAddrSeed) : (indexAll w a l t).1 = (indexAll w a l s).1 := by
  induction l generalizing s t with
  | nil => rfl
  | cons x r ih =>
    have hput : ∀ k, (putPlace t k (some (txAddrOf w x, a))).sta.index = (putPlace s k (some (txAddrOf w x, a))).sta.index :=
      fun k => congrArg (fun b => bankSet (fun _ => none) b k (some (txAddrOf w x, a))) hi
    have hlookup := lookupTa_congr hi h x (txAddrOf w x)
    have hfind : (addrPlaces t x (txAddrOf w x)).find? (fun k => (addrPlace t k).isNone) =
        (addrPlaces s x (txAddrOf w x)).find? (fun k => (addrPlace s k).isNone) := by
      rw [addrPlaces_congr h]
      simp only [addrPlace_congr hi]
    rcases indexAll_cons w a x r s with ⟨b, hb, hs⟩ | ⟨hn, hf, hs⟩ | ⟨k, hn, hf, hs⟩
    · rw [hs]; simp only [indexAll, hlookup, hb]
    · rw [hs]; simp only [indexAll, hlookup, hn, hfind, hf]
    · rw [hs, ← ih (hput k) h]; simp only [indexAll, hlookup, hn, hfind, hf]

end

end Sys2Proof.Machine
end

section
/-! The stations family (06_stations_and_links): STA_CMD and KEY_CMD (O30; R227 to R231, R246, R247). -/

namespace Sys2Proof.Machine

/-! ### The word of a command -/

/-- A field of a number written as a word is a field of the number. -/
theorem bitsOf_ofNat (v : Nat) {lo len : Nat} (h : lo + len ≤ 32) : bitsOf (BitVec.ofNat 32 v) lo len = nbits v lo len := by
  apply Nat.eq_of_testBit_eq
  intro i
  rw [testBit_bitsOf, testBit_nbits, BitVec.getLsbD_ofNat]
  by_cases hi : i < len
  · rw [decide_eq_true (show lo + i < 32 by omega), Bool.true_and]
  · rw [decide_eq_false hi, Bool.false_and, Bool.false_and]

theorem nbits_eq (v lo len : Nat) : nbits v lo len = v / 2 ^ lo % 2 ^ len := by rw [nbits, Nat.shiftRight_eq_div_pow]

section
variable (op : Nat) {a : Nat} (ha : a < 4096)
include ha

theorem staCmdWord_entry : bitsOf (staCmdWord op a) 0 12 = a := by
  rw [staCmdWord, bitsOf_ofNat _ (by decide), nbits_eq]; omega

theorem staCmdWord_op : bitsOf (staCmdWord op a) 16 3 = op % 8 := by
  rw [staCmdWord, bitsOf_ofNat _ (by decide), nbits_eq]; omega

/-- The word of READ_TID as one number. -/
theorem readTidWord_eq (sp : Nat) (kid : Bool) : staCmdWord 4 a ||| BitVec.ofNat 32 (2 ^ 20 * sp + 2 ^ 24 * bnat kid) =
    BitVec.ofNat 32 (2 ^ 20 * (sp + 16 * bnat kid) + (a + 65536 * 4)) := by
  rw [Nat.two_pow_add_eq_or_of_lt (show a + 65536 * 4 < 2 ^ 20 by omega), staCmdWord, BitVec.or_comm, BitVec.ofNat_or,
    show 2 ^ 20 * sp + 2 ^ 24 * bnat kid = 2 ^ 20 * (sp + 16 * bnat kid) by omega]

end

section
variable {s : State} (h : s.bit Reg.staStaCmdStat 0 = false) {a : Nat} (ha : a < 4096)
include h ha

theorem staCmd_write : staCmd s (staCmdWord 1 a) = staCmdWrite s a := by
  simp [staCmd, h, staCmdWord_entry _ ha, staCmdWord_op _ ha]

theorem staCmd_remove : staCmd s (staCmdWord 2 a) = staCmdRemove s a := by
  simp [staCmd, h, staCmdWord_entry _ ha, staCmdWord_op _ ha]

theorem staCmd_read : staCmd s (staCmdWord 3 a) = staCmdRead s a := by
  simp [staCmd, h, staCmdWord_entry _ ha, staCmdWord_op _ ha]

theorem staCmd_readTid {sp : Nat} (hsp : sp < 16) (kid : Bool) :
    staCmd s (staCmdWord 4 a ||| BitVec.ofNat 32 (2 ^ 20 * sp + 2 ^ 24 * bnat kid)) = staCmdReadTid s a sp (bnat kid) := by
  have hk : bnat kid ≤ 1 := by cases kid <;> decide
  have hentry : bitsOf (BitVec.ofNat 32 (2 ^ 20 * (sp + 16 * bnat kid) + (a + 65536 * 4))) 0 12 = a := by
    rw [bitsOf_ofNat _ (by decide), nbits_eq]; omega
  have hop : bitsOf (BitVec.ofNat 32 (2 ^ 20 * (sp + 16 * bnat kid) + (a + 65536 * 4))) 16 3 = 4 := by
    rw [bitsOf_ofNat _ (by decide), nbits_eq]; omega
  have hspace : bitsOf (BitVec.ofNat 32 (2 ^ 20 * (sp + 16 * bnat kid) + (a + 65536 * 4))) 20 4 = sp := by
    rw [bitsOf_ofNat _ (by decide), nbits_eq]; omega
  have hkid : bitsOf (BitVec.ofNat 32 (2 ^ 20 * (sp + 16 * bnat kid) + (a + 65536 * 4))) 24 1 = bnat kid := by
    rw [bitsOf_ofNat _ (by decide), nbits_eq]; omega
  rw [readTidWord_eq ha, staCmd, hentry, hop, hspace, hkid, h]
  rfl

end

/-! ### The result of a command -/

@[simp] theorem staResult_sta (s : State) (r : Nat) : (staResult s r).sta = s.sta := rfl

theorem reg_staResult_ne (s : State) (r : Nat) {q : Nat} (h : q ≠ Reg.staStaCmdStat) : (staResult s r).reg q = s.reg q :=
  reg_setFlds_ne _ _ _ h

/-- RESULT and BUSY set together, as STA_CMD_STAT and KEY_STAT have them. -/
theorem fld_setFlds_result (s : State) (q : Nat) {r : Nat} (hr : r < 8) : (s.setFlds q [(0, 1, 0), (4, 3, r)]).fld q 4 3 = r := by
  rw [State.fld, reg_setFlds_same]
  exact (bitsOf_putBits_same _ 4 3 r (by decide)).trans (Nat.mod_eq_of_lt hr)

theorem fld_staResult (s : State) {r : Nat} (hr : r < 8) : (staResult s r).fld Reg.staStaCmdStat 4 3 = r := fld_setFlds_result s _ hr

/-- A command of STA_CMD while none is in progress acts on the table as it stands. -/
theorem runs_of_staCmd {i : Instr} {s : State} {time init : Nat} {d : Word} {f : State → State} {P : State → Prop}
    (h : exec i s = done s (busDo (s.at time) init Reg.staStaCmd 4 (some d) (fun t => staCmd t d)))
    (hacc : accepts s init Reg.staStaCmd true = true) (hidle : s.bit Reg.staStaCmdStat 0 = false)
    (hf : ∀ u, u.bit Reg.staStaCmdStat 0 = false → staCmd u d = f u)
    (hp : ∀ u t, TableKept s u → TableKept (f u) t → P t) : Runs i s P :=
  runs_of_tableWrite h hacc fun u hu => by
    rw [hf u (by rw [bit_of_reg (hu.regs _ (by decide)), hidle])]
    exact hp u _ hu (finish_tableKept _ _)

section
variable {s u v t : State} {r : Nat}

theorem TableKept.result (ht : TableKept (staResult v r) t) (hr : r < 8) : t.fld Reg.staStaCmdStat 4 3 = r := by
  rw [fld_of_reg (ht.regs _ (by decide)), fld_staResult _ hr]

theorem TableKept.staValid (hu : TableKept s u) (a : Nat) : staValid u a = staValid s a := staValid_congr (congrArg (·.entries) hu.sta) a

/-- NOT_VALID is the result where the entry was not. -/
theorem notValid_lt (b : Bool) : (if b then 0 else 5) < 8 := by split <;> decide

end

/-! ### The words of an entry to be written -/

/-- The twelve words that STA_STAGE has for an entry. -/
def twelve (w : Nat → Nat) (k : Nat) : Nat := if k < 12 then w k else 0

/-- A WRITE that puts a new entry of the words `w` in place of the one before (R230). -/
def staInstall (w : Nat → Nat) (s : State) (a : Nat) : State :=
  match indexAll w a (entryRadios w) (removeEntry s a) with
  | (0, t) => staResult (installEntry t a w) 0
  | (r, _) => staResult (removeEntry s a) r

/-- What a WRITE of the words `w` does. -/
def staWriteOf (w : Nat → Nat) (s : State) (a : Nat) : State :=
  if w 0 % 2 = 0 then staResult (removeEntry s a) (if staValid s a then 0 else 5)
  else if badField w then staResult s 4
  else if aidClash s a w then staResult s 3
  else if staValid s a && sameIdentity s a w then staResult (updateEntry s a w) 0
  else staInstall w s a

theorem indexAll_twelve (w : Nat → Nat) (a : Nat) (l : List Nat) (s : State) : indexAll (twelve w) a l s = indexAll w a l s := by
  induction l generalizing s with
  | nil => rfl
  | cons x r ih =>
    have haddr : txAddrOf (twelve w) x = txAddrOf w x := rfl
    simp only [indexAll, haddr, ih]

/-- A WRITE depends on twelve words alone. -/
theorem staWriteOf_twelve (w : Nat → Nat) (s : State) (a : Nat) : staWriteOf (twelve w) s a = staWriteOf w s a := by
  have hbad : badField (twelve w) = badField w := rfl
  have hclash : aidClash s a (twelve w) = aidClash s a w := rfl
  have hsame : sameIdentity s a (twelve w) = sameIdentity s a w := rfl
  have hradios : entryRadios (twelve w) = entryRadios w := rfl
  have hupdate : updateEntry s a (twelve w) = updateEntry s a w := rfl
  have hinstall : ∀ t, installEntry t a (twelve w) = installEntry t a w := fun _ => rfl
  have hzero : twelve w 0 = w 0 := rfl
  simp only [staWriteOf, staInstall, hbad, hclash, hsame, hradios, hupdate, hinstall, hzero, indexAll_twelve]

/-- The words of STA_STAGE. -/
def staged (s : State) (k : Nat) : Nat := s.regN (Reg.staStaStage k)

theorem staCmdWrite_eq (s : State) (a : Nat) : staCmdWrite s a = staWriteOf (staged s) s a := rfl

theorem twelve_staged {s u : State} (h : TableKept s u) : twelve (staged u) = twelve (staged s) := by
  funext k
  unfold twelve
  split
  · exact regN_of_reg (h.regs _ (by simp only [inPipe, Reg.staStaStage]; omega))
  · rfl

theorem staCmdWrite_kept {s u : State} (h : TableKept s u) (a : Nat) : staCmdWrite u a = staWriteOf (staged s) u a := by
  rw [staCmdWrite_eq, ← staWriteOf_twelve, twelve_staged h, staWriteOf_twelve]

section
variable {s u : State} (h : u.sta = s.sta) (a : Nat) (w : Nat → Nat)
include h

theorem sameIdentity_congr : sameIdentity u a w = sameIdentity s a w := by
  have hword : staWord u a = staWord s a := funext (staWord_congr (congrArg (·.entries) h) a)
  rw [sameIdentity, hword]; rfl

theorem aidClash_congr : aidClash u a w = aidClash s a w := by
  have he : u.sta.entries = s.sta.entries := congrArg (·.entries) h
  rw [aidClash, he]
  simp only [staValid_congr he, staKind_congr he, staFld_congr he]
  rfl

end

/-! ### STA_READ and STA_READ_TID -/

theorem staCmdRead_sta (s : State) (a : Nat) : (staCmdRead s a).sta = s.sta := by
  rw [staCmdRead, staResult_sta]
  exact each_ind s (fun t => t.sta = s.sta) _ _ rfl fun _ _ t ht => (setNat_sta t _ _).trans ht

theorem staWord_lt (s : State) (a k : Nat) : staWord s a k < 2 ^ 32 := BitVec.isLt _

theorem staStage_ne_cmdStat {k : Nat} (hk : k < 16) : Reg.staStaStage k ≠ Reg.staStaCmdStat := by
  simp only [Reg.staStaStage, Reg.staStaCmdStat]; omega

/-- STA_READ shows each word of the entry. -/
theorem regN_staCmdRead (s : State) (a : Nat) {k : Nat} (hk : k < 16) : (staCmdRead s a).regN (Reg.staStaStage k) = staWord s a k := by
  have hval : ∀ t : State, (t.setNat (Reg.staStaStage k) (staWord s a k)).regN (Reg.staStaStage k) = staWord s a k := fun t => by
    rw [regN_setNat_same, Nat.mod_eq_of_lt (staWord_lt s a k)]
  rw [staCmdRead, regN_of_reg (reg_staResult_ne _ _ (staStage_ne_cmdStat hk))]
  refine each_reaches (P := fun t => t.regN (Reg.staStaStage k) = staWord s a k) (List.mem_range.2 hk) hval (fun j t ht => ?_) s
  by_cases hj : k = j
  · rw [← hj]; exact hval t
  · rw [regN_of_reg (reg_setNat_ne _ _ _ (by simp only [Reg.staStaStage]; omega)), ht]

theorem staCmdReadTid_sta (s : State) (a sp kid : Nat) : (staCmdReadTid s a sp kid).sta = s.sta := rfl

/-- STA_READ_TID shows the window start with the transmit number, and how many frames are held. -/
theorem regN_staCmdReadTid (s : State) (a sp kid : Nat) :
    (staCmdReadTid s a sp kid).regN (Reg.staTidStage 0) = ((spaceOf s a sp).ws.getD 0 + 65536 * (spaceOf s a sp).txSn) % 2 ^ 32 ∧
    (staCmdReadTid s a sp kid).regN (Reg.staTidStage 3) = (spaceOf s a sp).held.length % 2 ^ 32 := by
  unfold staCmdReadTid
  extract_lets v pn first shown
  constructor
  · rw [regN_of_reg (reg_staResult_ne _ _ (by decide)), regN_of_reg (reg_setNat_ne _ _ _ (by decide)),
      regN_of_reg (reg_setNat_ne _ _ _ (by decide)), regN_of_reg (reg_setNat_ne _ _ _ (by decide)), regN_setNat_same]
  · rw [regN_of_reg (reg_staResult_ne _ _ (by decide)), regN_setNat_same]

end Sys2Proof.Machine
end

section
/-! The stations family (06_stations_and_links): a WRITE that updates or installs an entry (O30; R228 to R231). -/

namespace Sys2Proof.Machine

/-! ### What the release of held frames leaves of the stations (R230, R243) -/

section
variable (s : State)

theorem bwCount_sta (q n : Nat) (write : Bool) : (bwCount s q n write).sta = s.sta := by
  unfold bwCount
  split
  · split <;> rfl
  · rfl

theorem clearBad_sta (off n : Nat) : (clearBad s off n).sta = s.sta :=
  each_ind s (fun t => t.sta = s.sta) _ _ rfl fun c _ t ht => by
    split
    · exact ht
    · exact (setReg_sta _ _ _).trans ht

theorem mcUe_sta (c line port : Nat) (write : Bool) : (mcUe s c line port write).sta = s.sta := by
  unfold mcUe
  extract_lets counted raised x
  have hraised : raised.sta = counted.sta := (RegsOnly.refl counted |>.raiseFault (by decide) _ _ _).sta
  exact (mcRecord_regsOnly _ _ _ _ _ _).sta.trans hraised

theorem dramUse_sta (q off n : Nat) (write : Bool) : (dramUse s q off n write).sta = s.sta := by
  unfold dramUse
  extract_lets _ _ counted asked answered
  have hanswered : answered.sta = s.sta :=
    (transit_regsOnly _ _ _ _).sta.trans ((transit_regsOnly _ _ _ _).sta.trans (bwCount_sta s q _ write))
  clear_value answered
  rw [← hanswered]
  split
  · split
    · exact clearBad_sta _ _ _
    · rfl
  · extract_lets a
    split
    · rfl
    · split
      · exact (mcRecord_regsOnly _ _ _ _ _ _).sta
      · exact mcUe_sta _ _ _ _ _

theorem poundPush_sta (p : Nat) (w : PWord) : (poundPush s p w).sta = s.sta := setPound_sta s p _

theorem radioDrain_sta (x n : Nat) : (radioDrain s x n).sta = s.sta := by
  induction n generalizing s with
  | zero => rfl
  | succ n ih =>
    unfold radioDrain
    split
    · rfl
    · split
      · rw [ih, poundPush_sta]; rfl
      · rfl

theorem deliverFrame_sta (x port ts a tid : Nat) (f : List Byte) : (deliverFrame s x port ts a tid f).sta = s.sta :=
  radioDrain_sta _ x _

theorem deliverMgmt_sta (x ts rssi a : Nat) (unknown : Bool) (m : Mpdu) : (deliverMgmt s x ts rssi a unknown m).sta = s.sta :=
  deliverFrame_sta s _ _ _ _ _ _

end

/-- `t` has the association entries of `s` and its index. -/
structure EntriesKept (s t : State) : Prop where
  entries : t.sta.entries = s.sta.entries
  index : t.sta.index = s.sta.index

namespace EntriesKept

variable {s t : State}

theorem refl (s : State) : EntriesKept s s := ⟨rfl, rfl⟩

theorem of_sta (h : EntriesKept s t) {u : State} (k : u.sta = t.sta) : EntriesKept s u := ⟨k ▸ h.entries, k ▸ h.index⟩

theorem each {α : Type} (h : EntriesKept s t) (l : List α) {f : α → State → State}
    (hf : ∀ x u, EntriesKept s u → EntriesKept s (f x u)) : EntriesKept s (t.each l f) :=
  each_ind t (EntriesKept s) l f h fun x _ => hf x

theorem setSpace (h : EntriesKept s t) (a sp : Nat) (v : Space) : EntriesKept s (setSpace t a sp v) := ⟨h.entries, h.index⟩

theorem setRxPn (h : EntriesKept s t) (a x : Nat) (m : Mpdu) : EntriesKept s (setRxPn t a x m) := by
  unfold Machine.setRxPn
  extract_lets _ k
  split
  · exact ⟨h.entries, h.index⟩
  · exact ⟨h.entries, h.index⟩

/-- Steps 6 to 8 of R233. -/
theorem releaseMpdu (h : EntriesKept s t) (a : Nat) (k : Held) : EntriesKept s (releaseMpdu t a k) := by
  unfold Machine.releaseMpdu
  extract_lets m u
  have hu : EntriesKept s u := by
    simp only [u]
    split
    · exact h.setRxPn _ _ _
    · exact h
  clear_value u
  split
  · exact h.of_sta rfl
  · split
    · split
      · exact hu.of_sta rfl
      · exact hu.each _ fun _ v hv => hv.of_sta (deliverFrame_sta v _ _ _ _ _ _)
    · exact hu.of_sta (deliverMgmt_sta u _ _ _ _ _ _)

theorem releaseHeld (h : EntriesKept s t) (a : Nat) (k : Held) : EntriesKept s (releaseHeld t a k) := by
  unfold Machine.releaseHeld
  extract_lets u d
  have hu : EntriesKept s u := h.each _ fun _ v hv => hv.of_sta (dramUse_sta v _ _ _ _)
  clear_value u
  split
  · exact hu.of_sta (roDrop_sta u 1)
  · exact hu.releaseMpdu _ _

end EntriesKept

/-- The windows of the TIDs whose code a WRITE changes emptied, with what they held released (R230). -/
def windowsReset (s : State) (a : Nat) (w : Nat → Nat) : State :=
  s.each ((List.range 8).filter (fun t => decide (nbits (staWord s a 7) (3 * t) 3 ≠ nbits (w 7) (3 * t) 3))) (fun tid t =>
    (setSpace t a tid { spaceOf t a tid with ws := none, got := [], back := [], held := [] }).each
      ((spaceOf t a tid).held.mergeSort (fun h k =>
        decide (snDist ((spaceOf t a tid).ws.getD 0) h.m.sn.toNat ≤ snDist ((spaceOf t a tid).ws.getD 0) k.m.sn.toNat)))
      (fun h u => releaseHeld u a h))

section
variable (s : State) (a : Nat) (w : Nat → Nat)

theorem updateEntry_eq : updateEntry s a w = putEntry (windowsReset s a w) a (entryOf w (staWord (windowsReset s a w) a)) := rfl

theorem windowsReset_kept : EntriesKept s (windowsReset s a w) :=
  (EntriesKept.refl s).each _ fun _ _ ht => (ht.setSpace _ _ _).each _ fun k _ hu => hu.releaseHeld a k

/-- An update writes the entry's listed fields, and leaves the index. -/
theorem updateEntry_table : staEntry (updateEntry s a w) a = entryOf w (staWord s a) ∧ (updateEntry s a w).sta.index = s.sta.index := by
  have hkept := windowsReset_kept s a w
  have hold : staWord (windowsReset s a w) a = staWord s a := funext (staWord_congr hkept.entries a)
  rw [updateEntry_eq, hold]
  generalize windowsReset s a w = t at hkept
  exact ⟨(staEntry_putEntry t a a _).trans (if_pos rfl), hkept.index⟩

end

/-! ### An entry installed (R230) -/

/-- A field that a merge leaves. -/
theorem bitsOf_mergeMask_out (old new : Word) {m lo len : Nat} (h : ∀ i, i < len → m.testBit (lo + i) = false) :
    bitsOf (mergeMask old new m) lo len = bitsOf old lo len := by
  apply Nat.eq_of_testBit_eq
  intro i
  rw [testBit_bitsOf, testBit_bitsOf, getLsbD_mergeMask]
  by_cases hi : i < len
  · simp [h i hi]
  · simp [hi]

/-- An entry as an install writes it: the device's own fields clear, but LINK_UP equal to LINKS. -/
def installed (w : Nat → Nat) : List Word := entryOf w (fun k => if k = 0 then nbits (w 0) 3 3 * 64 else 0)

theorem getD_installed (w : Nat → Nat) : (installed w).getD 0 0 =
    mergeMask (BitVec.ofNat 32 (nbits (w 0) 3 3 * 64)) (BitVec.ofNat 32 (w 0)) 0x1FFF1E3F := rfl

section
variable (w : Nat → Nat)

/-- VALID to LINKS of an installed entry are those written. -/
theorem bitsOf_installed {lo len : Nat} (h : lo + len ≤ 6) : bitsOf ((installed w).getD 0 0) lo len = nbits (w 0) lo len := by
  have hmask : ∀ j, j < 6 → (0x1FFF1E3F : Nat).testBit j = true := by decide
  rw [getD_installed, bitsOf_mergeMask_in _ _ (fun i hi => ⟨by omega, hmask _ (by omega)⟩), bitsOf_ofNat _ (by omega)]

/-- LINK_UP of an installed entry is LINKS. -/
theorem linkUp_installed : bitsOf ((installed w).getD 0 0) 6 3 = nbits (w 0) 3 3 := by
  have hlt : nbits (w 0) 3 3 < 2 ^ 3 := nbits_lt _ _ _
  rw [getD_installed, bitsOf_mergeMask_out _ _ (by decide), bitsOf_ofNat _ (by decide), nbits_eq]
  omega

end

section
variable (s : State) (a : Nat) (w : Nat → Nat)

theorem installEntry_sta : (installEntry s a w).sta = (putEntry s a (installed w)).sta := by
  unfold installEntry
  extract_lets put counted
  have hcounted : counted.sta = put.sta := setFld_sta put _ _ _ _
  exact each_ind counted (fun t => t.sta = put.sta) _ _ hcounted fun _ _ t ht => (setBit_sta t _ _ _).trans ht

theorem staFld_installEntry (lo len : Nat) : staFld (installEntry s a w) a 0 lo len = bitsOf ((installed w).getD 0 0) lo len := by
  have hentry : staEntry (installEntry s a w) a = installed w := by
    rw [staEntry_congr (congrArg (·.entries) (installEntry_sta s a w)), staEntry_putEntry, if_pos rfl]
  rw [staFld, staWord, hentry]; rfl

/-- VALID_COUNT counts the entry. -/
theorem reg_installEntry {q : Nat} (hq : q < 0x42000000) :
    (installEntry s a w).reg q = (s.setFld Reg.staStaStat 0 13 (s.fld Reg.staStaStat 0 13 + 1)).reg q := by
  unfold installEntry
  extract_lets put counted
  have hcounted : counted.reg q = (s.setFld Reg.staStaStat 0 13 (s.fld Reg.staStaStat 0 13 + 1)).reg q := rfl
  rw [← hcounted]
  exact each_ind counted (fun t => t.reg q = counted.reg q) _ _ rfl fun x _ t ht =>
    (reg_setBit_ne t _ _ _ (by simp only [Reg.mdmPeerQ]; omega)).trans ht

/-- What stands once the entry of the words `w` is installed at `a`. -/
structure EntryInstalled (s : State) (a : Nat) (w : Nat → Nat) (t : State) : Prop where
  valid : staValid t a = true
  linkUp : staFld t a 0 6 3 = nbits (w 0) 3 3
  links : staFld t a 0 3 3 = nbits (w 0) 3 3
  kind : staKind t a = nbits (w 0) 1 2
  count : staValid s a = false → t.fld Reg.staStaStat 0 13 = (s.fld Reg.staStaStat 0 13 + 1) % 2 ^ 13
  found : ∀ x ∈ entryRadios w, lookupTa t x (txAddrOf w x) = some a

variable {s a w}

theorem IndexGrown.reg {s t : State} (h : IndexGrown a s t) (q : Nat) : t.reg q = s.reg q := by
  obtain ⟨l, rfl⟩ := h.only
  rfl

/-- An install whose every address found a place. -/
theorem installEntry_installed (hw : w 0 % 2 = 1) (hr : (indexAll w a (entryRadios w) (removeEntry s a)).1 = 0) :
    EntryInstalled s a w (installEntry (indexAll w a (entryRadios w) (removeEntry s a)).2 a w) := by
  have hfound := indexAll_findable w a (entryRadios w) (removeEntry s a) hr
  have hregs := (indexAll_grown w a (entryRadios w) (removeEntry s a)).reg
  generalize (indexAll w a (entryRadios w) (removeEntry s a)).2 = t at hfound hregs
  refine ⟨?_, ?_, ?_, ?_, fun hs => ?_, fun x hx => ?_⟩
  · rw [staValid, staFld_installEntry, bitsOf_installed w (by decide), nbits_eq]
    exact decide_eq_true (by omega)
  · rw [staFld_installEntry, linkUp_installed]
  · rw [staFld_installEntry, bitsOf_installed w (by decide)]
  · rw [staKind, staFld_installEntry, bitsOf_installed w (by decide)]
  · have hbefore : t.reg Reg.staStaStat = s.reg Reg.staStaStat :=
      (hregs _).trans (reg_removeEntry s a (by decide) (by decide) (by decide) (.inr hs))
    rw [fld_of_reg (reg_installEntry t a w (by decide)), fld_setFld_same _ _ _ _ _ (by decide), fld_of_reg hbefore]
  · rw [lookupTa_congr (s := t) (congrArg (·.index) (installEntry_sta t a w)), hfound x hx]
    rw [reg_installEntry t a w (by decide), reg_setFld_ne _ _ _ _ _ (by decide)]

theorem EntryInstalled.congr {s u t v : State} (h : EntryInstalled u a w v) (hu : TableKept s u) (hsta : t.sta = v.sta)
    (hstat : t.reg Reg.staStaStat = v.reg Reg.staStaStat) (hseed : t.reg Reg.staAddrSeed = v.reg Reg.staAddrSeed) :
    EntryInstalled s a w t := by
  have he : t.sta.entries = v.sta.entries := congrArg (·.entries) hsta
  refine ⟨(staValid_congr he a).trans h.valid, (staFld_congr he a 0 6 3).trans h.linkUp, (staFld_congr he a 0 3 3).trans h.links,
    (staKind_congr he a).trans h.kind, fun hs => ?_, fun x hx => ?_⟩
  · rw [fld_of_reg hstat, h.count ((hu.staValid a).trans hs), fld_of_reg (hu.regs _ (by decide))]
  · rw [lookupTa_congr (congrArg (·.index) hsta) hseed, h.found x hx]

end

/-- The index gives the same result in states with the same stations. -/
theorem indexAll_removeEntry_congr {s u : State} (hu : TableKept s u) (a : Nat) (w : Nat → Nat) (l : List Nat) :
    (indexAll w a l (removeEntry u a)).1 = (indexAll w a l (removeEntry s a)).1 := by
  have hseed : ∀ t, (removeEntry t a).reg Reg.staAddrSeed = t.reg Reg.staAddrSeed := fun t =>
    reg_removeEntry t a (by decide) (by decide) (by decide) (.inl (by decide))
  refine indexAll_result_congr l ?_ ?_
  · rw [removeEntry_index, removeEntry_index, hu.sta]
  · rw [hseed, hseed, hu.regs _ (by decide)]

end Sys2Proof.Machine
end

section
/-! The stations family (06_stations_and_links): the clauses of STA_CMD and KEY_CMD (O30; R228 to R231, R246, R247). -/

namespace Sys2Proof.Machine

/-! ### A WRITE by its cases (R228 to R231) -/

section
variable {w : Nat → Nat} {s : State} {a : Nat}

theorem staWriteOf_invalid (hw : w 0 % 2 = 0) : staWriteOf w s a = staResult (removeEntry s a) (if staValid s a then 0 else 5) := by
  rw [staWriteOf, if_pos hw]

section
variable (hw : w 0 % 2 = 1)
include hw

theorem staWriteOf_badField (hbad : badField w = true) : staWriteOf w s a = staResult s 4 := by
  rw [staWriteOf, if_neg (by omega), if_pos hbad]

section
variable (hbad : badField w = false)
include hbad

theorem staWriteOf_aidClash (hclash : aidClash s a w = true) : staWriteOf w s a = staResult s 3 := by
  rw [staWriteOf, if_neg (by omega), if_neg (by rw [hbad]; decide), if_pos hclash]

section
variable (hclash : aidClash s a w = false)
include hclash

theorem staWriteOf_update (hv : staValid s a = true) (hsame : sameIdentity s a w = true) :
    staWriteOf w s a = staResult (updateEntry s a w) 0 := by
  rw [staWriteOf, if_neg (by omega), if_neg (by rw [hbad]; decide), if_neg (by rw [hclash]; decide), if_pos (by rw [hv, hsame]; rfl)]

section
variable (hnew : staValid s a = false ∨ sameIdentity s a w = false)
include hnew

theorem staWriteOf_new : staWriteOf w s a = staInstall w s a := by
  have hdiffers : (staValid s a && sameIdentity s a w) = false := by
    rcases hnew with h | h
    · rw [h, Bool.false_and]
    · rw [h, Bool.and_false]
  rw [staWriteOf, if_neg (by omega), if_neg (by rw [hbad]; decide), if_neg (by rw [hclash]; decide), if_neg (by rw [hdiffers]; decide)]

theorem staWriteOf_install (hr : (indexAll w a (entryRadios w) (removeEntry s a)).1 = 0) :
    staWriteOf w s a = staResult (installEntry (indexAll w a (entryRadios w) (removeEntry s a)).2 a w) 0 := by
  rw [staWriteOf_new hw hbad hclash hnew, staInstall]
  generalize indexAll w a (entryRadios w) (removeEntry s a) = p at hr
  obtain ⟨r, t⟩ := p
  cases (show r = 0 from hr)
  rfl

theorem staWriteOf_full (hr : (indexAll w a (entryRadios w) (removeEntry s a)).1 ≠ 0) :
    staWriteOf w s a = staResult (removeEntry s a) (indexAll w a (entryRadios w) (removeEntry s a)).1 := by
  rw [staWriteOf_new hw hbad hclash hnew, staInstall]
  generalize indexAll w a (entryRadios w) (removeEntry s a) = p at hr
  obtain ⟨r, t⟩ := p
  cases r with
  | zero => exact absurd rfl hr
  | succ n => rfl

end
end
end
end
end

/-! ### KEY_CMD (R247) -/

/-- The slot that KEY_CTRL's suite, KEY_DATA and KEY_PN stage, for a parent's group key or another. -/
def slotStaged (s : State) (receive : Bool) : KeySlot :=
  let suite := s.fld Reg.staKeyCtrl 18 2
  let pn := s.regN Reg.staKeyPnLo + 2 ^ 32 * s.fld Reg.staKeyPnHi 0 16
  if suite = 0 then stagedKey s suite
  else if receive then { stagedKey s suite with rx := bankSet (fun _ => 0) [] 0 pn } else { stagedKey s suite with tx := pn }

/-- The result of an install of the key that KEY_CTRL names. -/
def keyOutcome (s : State) : Nat :=
  keyResult s (s.bit Reg.staKeyCtrl 15) (s.bit Reg.staKeyCtrl 16) (s.fld Reg.staKeyCtrl 0 12) (s.fld Reg.staKeyCtrl 12 3)
    (s.fld Reg.staKeyCtrl 18 2)

/-- The staged key put into the slot that KEY_CTRL names. -/
def keyStored (s : State) : State :=
  let ix := s.fld Reg.staKeyCtrl 0 12
  let kid := s.fld Reg.staKeyCtrl 12 3
  let k := slotStaged s (s.bit Reg.staKeyCtrl 15 && s.bit Reg.staKeyCtrl 16)
  if s.bit Reg.staKeyCtrl 15 then
    if s.bit Reg.staKeyCtrl 16 then
      { s with sta := { s.sta with parentKeys := bankSet (fun _ => {}) s.sta.parentKeys (ix % 4 * 8 + kid) k } }
    else { s with sta := { s.sta with group := bankSet (fun _ => {}) s.sta.group (ix % 4 * 8 + kid) k } }
  else if s.fld Reg.staKeyCtrl 18 2 = 0 then dropTx (setPairKey s ix kid k) (fun m => decide (m.sta = ix) && decide (m.kid = some kid))
  else setPairKey s ix kid k

/-- KEY_DATA cleared. -/
def keyDataCleared (s : State) : State := s.each (List.range 8) (fun k u => u.setReg (Reg.staKeyData k) 0)

theorem keyInstall_eq (s : State) : keyInstall s =
    (keyDataCleared (if keyOutcome s ≠ 0 then s else keyStored s)).setFlds Reg.staKeyStat [(0, 1, 0), (4, 3, keyOutcome s)] := rfl

theorem keyCmd_one {s : State} (h : s.bit Reg.staKeyStat 0 = false) : keyCmd s 1 = keyInstall s := by rw [keyCmd, if_pos ⟨rfl, h⟩]

theorem keyDataCleared_sta (s : State) : (keyDataCleared s).sta = s.sta :=
  each_ind s (fun t => t.sta = s.sta) _ _ rfl fun _ _ t ht => (setReg_sta t _ _).trans ht

/-- KEY_DATA reads 0 after a KEY_CMD. -/
theorem reg_keyDataCleared (s : State) {k : Nat} (hk : k < 8) : (keyDataCleared s).reg (Reg.staKeyData k) = 0 := by
  refine each_reaches (P := fun t => t.reg (Reg.staKeyData k) = 0) (List.mem_range.2 hk) (fun t => reg_setReg_same t _ _)
    (fun j t ht => ?_) s
  rw [reg_setReg]
  split
  · rfl
  · exact ht

theorem keyOutcome_lt (s : State) : keyOutcome s < 8 := by
  unfold keyOutcome keyResult
  split
  · split
    · decide
    · split <;> decide
  · split
    · decide
    · split
      · decide
      · split <;> decide

section
variable {s : State}

theorem keyInstall_sta_of_error (h : keyOutcome s ≠ 0) : (keyInstall s).sta = s.sta := by
  rw [keyInstall_eq, setFlds_sta, keyDataCleared_sta, if_pos h]

theorem keyInstall_sta_of_ok (h : keyOutcome s = 0) : (keyInstall s).sta = (keyStored s).sta := by
  rw [keyInstall_eq, setFlds_sta, keyDataCleared_sta, if_neg (not_not.2 h)]

theorem slotStaged_transmit (s : State) : slotStaged s false = if s.fld Reg.staKeyCtrl 18 2 = 0 then {}
    else { stagedKey s (s.fld Reg.staKeyCtrl 18 2) with tx := s.regN Reg.staKeyPnLo + 2 ^ 32 * s.fld Reg.staKeyPnHi 0 16 } := by
  simp only [slotStaged, Bool.false_eq_true, if_false]
  split
  · next h => rw [stagedKey, if_pos h]
  · rfl

/-- A pairwise key goes into its slot, whether it is set or emptied. -/
theorem pairKey_keyStored (h : s.bit Reg.staKeyCtrl 15 = false) :
    pairKey (keyStored s) (s.fld Reg.staKeyCtrl 0 12) (s.fld Reg.staKeyCtrl 12 3) = slotStaged s false := by
  unfold keyStored
  rw [h, Bool.false_and]
  extract_lets ix kid k
  have hput : pairKey (setPairKey s ix kid k) ix kid = k := by rw [pairKey_setPairKey, if_pos rfl]
  rw [if_neg Bool.false_ne_true]
  split
  · obtain ⟨r, n, hdrop⟩ := dropTx_sta (setPairKey s ix kid k) (fun m => decide (m.sta = ix) && decide (m.kid = some kid))
    rw [pairKey, hdrop]
    exact hput
  · exact hput

/-- A group key of the device goes into its slot. -/
theorem group_keyStored (hgroup : s.bit Reg.staKeyCtrl 15 = true) (hparent : s.bit Reg.staKeyCtrl 16 = false) :
    bankGet (fun _ => {}) (keyStored s).sta.group (s.fld Reg.staKeyCtrl 0 12 % 4 * 8 + s.fld Reg.staKeyCtrl 12 3) =
      slotStaged s false := by
  unfold keyStored
  rw [hgroup, hparent]
  exact bankGet_bankSet_same _ _ _ _

end

section
variable {s u : State} (h : TableKept s u)
include h

theorem keyOutcome_kept : keyOutcome u = keyOutcome s := by
  have hctrl := h.regs Reg.staKeyCtrl (by decide)
  simp only [keyOutcome, keyResult, h.staValid, bit_of_reg hctrl, fld_of_reg hctrl]

theorem stagedKey_kept (suite : Nat) : stagedKey u suite = stagedKey s suite := by
  have hdata : ∀ k ∈ List.range 8, leBytes 4 (u.regN (Reg.staKeyData k)) = leBytes 4 (s.regN (Reg.staKeyData k)) := fun k hk => by
    have := List.mem_range.1 hk
    rw [regN_of_reg (h.regs _ (by simp only [inPipe, Reg.staKeyData]; omega))]
  have hkey : (List.range 8).flatMap (fun k => leBytes 4 (u.regN (Reg.staKeyData k))) =
      (List.range 8).flatMap (fun k => leBytes 4 (s.regN (Reg.staKeyData k))) := List.flatMap_congr hdata
  rw [stagedKey, stagedKey, hkey]

theorem slotStaged_kept : slotStaged u false = slotStaged s false := by
  rw [slotStaged_transmit, slotStaged_transmit, stagedKey_kept h, fld_of_reg (h.regs Reg.staKeyCtrl (by decide)),
    regN_of_reg (h.regs Reg.staKeyPnLo (by decide)), fld_of_reg (h.regs Reg.staKeyPnHi (by decide))]

end

/-! ### The clauses of STA_CMD -/

section
variable {s u t : State} (hu : TableKept s u) (a : Nat)
include hu

/-- What a removal leaves, with its result. -/
theorem TableKept.removed {r : Nat} (ht : TableKept (staResult (removeEntry u a) r) t) (hr : r < 8) :
    t.fld Reg.staStaCmdStat 4 3 = r ∧ EntryGone s a t :=
  ⟨ht.result hr, (removeEntry_gone u a).congr hu.sta (ht.sta.trans (staResult_sta _ _))⟩

theorem TableKept.isNew {w : Nat → Nat} (hnew : Machine.staValid s a = false ∨ sameIdentity s a w = false) :
    Machine.staValid u a = false ∨ sameIdentity u a w = false := by
  rw [hu.staValid, sameIdentity_congr hu.sta]
  exact hnew

theorem TableKept.atTime (time : Nat) : TableKept (s.at time) u := ⟨hu.sta, fun q hq => (hu.regs q hq).trans (reg_at s time q).symm⟩

end

section
variable {s : State} {time : Nat} {init : Init} {a : Fin 4096} (hacc : accepts s init Reg.staStaCmd true = true)
  (hidle : s.bit Reg.staStaCmdStat 0 = false)
include hacc hidle

theorem runs_of_staWrite {P : State → Prop} (hp : ∀ u t, TableKept s u → TableKept (staWriteOf (staged s) u a) t → P t) :
    Runs (.staWrite time init a) s P :=
  runs_of_staCmd rfl hacc hidle (fun _ hu => staCmd_write hu a.isLt) fun u t hu ht => hp u t hu (staCmdWrite_kept hu a ▸ ht)

theorem runs_staRemove : Runs (.staRemove time init a) s fun t =>
    t.fld Reg.staStaCmdStat 4 3 = (if staValid s a then 0 else 5) ∧ EntryGone s a t :=
  runs_of_staCmd rfl hacc hidle (fun _ hu => staCmd_remove hu a.isLt) fun u t hu ht => by
    rw [staCmdRemove, hu.staValid] at ht
    exact hu.removed a ht (notValid_lt _)

theorem runs_staWrite_invalid (hw : staged s 0 % 2 = 0) : Runs (.staWrite time init a) s fun t =>
    t.fld Reg.staStaCmdStat 4 3 = (if staValid s a then 0 else 5) ∧ EntryGone s a t :=
  runs_of_staWrite hacc hidle fun u t hu ht => by
    rw [staWriteOf_invalid hw, hu.staValid] at ht
    exact hu.removed a ht (notValid_lt _)

theorem runs_staRead : Runs (.staRead time init a) s fun t => t.fld Reg.staStaCmdStat 4 3 = (if staValid s a then 0 else 5) ∧
    t.sta = s.sta ∧ ∀ k, k < 16 → t.regN (Reg.staStaStage k) = staWord s a k :=
  runs_of_staCmd rfl hacc hidle (fun _ hu => staCmd_read hu a.isLt) fun u t hu ht => by
    refine ⟨?_, ht.sta.trans ((staCmdRead_sta u a).trans hu.sta), fun k hk => ?_⟩
    · rw [← hu.staValid a]
      exact TableKept.result ht (notValid_lt _)
    · rw [regN_of_reg (ht.regs _ (by simp only [inPipe, Reg.staStaStage]; omega)), regN_staCmdRead u a hk,
        staWord_congr (congrArg (·.entries) hu.sta)]

theorem runs_staReadTid (sp : Fin 16) (kid : Bool) : Runs (.staReadTid time init a sp kid) s fun t =>
    t.fld Reg.staStaCmdStat 4 3 = (if staValid s a then 0 else 5) ∧ t.sta = s.sta ∧
    t.regN (Reg.staTidStage 0) = ((spaceOf s a sp).ws.getD 0 + 65536 * (spaceOf s a sp).txSn) % 2 ^ 32 ∧
    t.regN (Reg.staTidStage 3) = (spaceOf s a sp).held.length % 2 ^ 32 :=
  runs_of_staCmd rfl hacc hidle (fun _ hu => staCmd_readTid hu a.isLt sp.isLt kid) fun u t hu ht => by
    obtain ⟨hfirst, hheld⟩ := regN_staCmdReadTid u a sp (bnat kid)
    rw [← spaceOf_congr (congrArg (·.spaces) hu.sta) a sp, regN_of_reg (ht.regs (Reg.staTidStage 0) (by decide)),
      regN_of_reg (ht.regs (Reg.staTidStage 3) (by decide))]
    refine ⟨?_, ht.sta.trans ((staCmdReadTid_sta u a sp _).trans hu.sta), hfirst, hheld⟩
    rw [← hu.staValid a]
    exact TableKept.result ht (notValid_lt _)

section
variable (hw : staged s 0 % 2 = 1)
include hw

theorem runs_staWrite_badField (hbad : badField (staged s) = true) : Runs (.staWrite time init a) s fun t =>
    t.fld Reg.staStaCmdStat 4 3 = 4 ∧ t.sta = s.sta :=
  runs_of_staWrite hacc hidle fun u t hu ht => by
    rw [staWriteOf_badField hw hbad] at ht
    exact ⟨ht.result (by decide), ht.sta.trans hu.sta⟩

section
variable (hbad : badField (staged s) = false)
include hbad

theorem runs_staWrite_aidClash (hclash : aidClash s a (staged s) = true) : Runs (.staWrite time init a) s fun t =>
    t.fld Reg.staStaCmdStat 4 3 = 3 ∧ t.sta = s.sta :=
  runs_of_staWrite hacc hidle fun u t hu ht => by
    rw [staWriteOf_aidClash hw hbad ((aidClash_congr hu.sta a _).trans hclash)] at ht
    exact ⟨ht.result (by decide), ht.sta.trans hu.sta⟩

section
variable (hclash : aidClash s a (staged s) = false)
include hclash

theorem runs_staWrite_update (hv : staValid s a = true) (hsame : sameIdentity s a (staged s) = true) :
    Runs (.staWrite time init a) s fun t => t.fld Reg.staStaCmdStat 4 3 = 0 ∧
      staEntry t a = entryOf (staged s) (staWord s a) ∧ t.sta.index = s.sta.index :=
  runs_of_staWrite hacc hidle fun u t hu ht => by
    rw [staWriteOf_update hw hbad ((aidClash_congr hu.sta a _).trans hclash) ((hu.staValid a).trans hv)
      ((sameIdentity_congr hu.sta a _).trans hsame)] at ht
    have hword : staWord u a = staWord s a := funext (staWord_congr (congrArg (·.entries) hu.sta) a)
    obtain ⟨hentry, hindex⟩ := updateEntry_table u a (staged s)
    rw [hword] at hentry
    refine ⟨ht.result (by decide), (staEntry_congr (congrArg (·.entries) ht.sta) a).trans hentry, ?_⟩
    rw [ht.sta, ← hu.sta, ← hindex, staResult_sta]

section
variable (hnew : staValid s a = false ∨ sameIdentity s a (staged s) = false)
include hnew

theorem runs_staWrite_install (hr : (indexAll (staged s) a (entryRadios (staged s)) (removeEntry (s.at time) a)).1 = 0) :
    Runs (.staWrite time init a) s fun t => t.fld Reg.staStaCmdStat 4 3 = 0 ∧ EntryInstalled s a (staged s) t :=
  runs_of_staWrite hacc hidle fun u t hu ht => by
    have hru := (indexAll_removeEntry_congr (hu.atTime time) a (staged s) _).trans hr
    rw [staWriteOf_install hw hbad ((aidClash_congr hu.sta a _).trans hclash) (hu.isNew a hnew) hru] at ht
    have hinstalled := installEntry_installed hw hru
    refine ⟨ht.result (by decide), hinstalled.congr hu (ht.sta.trans (staResult_sta _ _)) ?_ ?_⟩
    · exact (ht.regs _ (by decide)).trans (reg_staResult_ne _ _ (by decide))
    · exact (ht.regs _ (by decide)).trans (reg_staResult_ne _ _ (by decide))

theorem runs_staWrite_full (hr : (indexAll (staged s) a (entryRadios (staged s)) (removeEntry (s.at time) a)).1 ≠ 0) :
    Runs (.staWrite time init a) s fun t =>
      t.fld Reg.staStaCmdStat 4 3 = (indexAll (staged s) a (entryRadios (staged s)) (removeEntry (s.at time) a)).1 ∧ EntryGone s a t :=
  runs_of_staWrite hacc hidle fun u t hu ht => by
    have hru := indexAll_removeEntry_congr (hu.atTime time) a (staged s) (entryRadios (staged s))
    have hle := indexAll_result_le (staged s) a (entryRadios (staged s)) (removeEntry (s.at time) a)
    rw [staWriteOf_full hw hbad ((aidClash_congr hu.sta a _).trans hclash) (hu.isNew a hnew)
      (by rw [hru]; exact hr), hru] at ht
    exact hu.removed a ht (by omega)

end
end
end
end
end

/-! ### The clauses of KEY_CMD -/

section
variable {s : State} {time : Nat} {init : Init} (hacc : accepts s init Reg.staKeyCmd true = true)
  (hidle : s.bit Reg.staKeyStat 0 = false)
include hacc hidle

theorem runs_of_keyCmd {P : State → Prop} (hp : ∀ u t, TableKept s u → TableKept (keyInstall u) t → P t) :
    Runs (.keyCmd time init 1) s P :=
  runs_of_tableWrite rfl hacc fun u hu => by
    rw [keyCmd_one (by rw [bit_of_reg (hu.regs _ (by decide)), hidle])]
    exact hp u _ hu (finish_tableKept _ _)

/-- A slot is written where the result is OK alone. -/
theorem runs_keyCmd : Runs (.keyCmd time init 1) s fun t => t.fld Reg.staKeyStat 4 3 = keyOutcome s ∧
    (∀ k, k < 8 → t.reg (Reg.staKeyData k) = 0) ∧ (keyOutcome s ≠ 0 → t.sta = s.sta) ∧
    (keyOutcome s = 0 → s.bit Reg.staKeyCtrl 15 = false →
      pairKey t (s.fld Reg.staKeyCtrl 0 12) (s.fld Reg.staKeyCtrl 12 3) = slotStaged s false) ∧
    (keyOutcome s = 0 → s.bit Reg.staKeyCtrl 15 = true → s.bit Reg.staKeyCtrl 16 = false →
      bankGet (fun _ => {}) t.sta.group (s.fld Reg.staKeyCtrl 0 12 % 4 * 8 + s.fld Reg.staKeyCtrl 12 3) = slotStaged s false) :=
  runs_of_keyCmd hacc hidle fun u t hu ht => by
    have hctrl := hu.regs Reg.staKeyCtrl (by decide)
    rw [← keyOutcome_kept hu, ← slotStaged_kept hu, ← bit_of_reg hctrl, ← bit_of_reg hctrl, ← fld_of_reg hctrl, ← fld_of_reg hctrl]
    refine ⟨?_, fun k hk => ?_, fun hr => ?_, fun hr hgroup => ?_, fun hr hgroup hparent => ?_⟩
    · rw [fld_of_reg (ht.regs _ (by decide)), keyInstall_eq, fld_setFlds_result _ _ (keyOutcome_lt u)]
    · have hne : Reg.staKeyData k ≠ Reg.staKeyStat := by simp only [Reg.staKeyData, Reg.staKeyStat]; omega
      rw [ht.regs _ (by simp only [inPipe, Reg.staKeyData]; omega), keyInstall_eq, reg_setFlds_ne _ _ _ hne, reg_keyDataCleared _ hk]
    · rw [ht.sta, keyInstall_sta_of_error hr, hu.sta]
    · rw [pairKey_congr (ht.sta.trans (keyInstall_sta_of_ok hr)), pairKey_keyStored hgroup]
    · rw [ht.sta, keyInstall_sta_of_ok hr, group_keyStored hgroup hparent]

end

/-! ### The statement -/

/-- Settles O30: each command acts on the table as it stands, and each clause is what one branch of it leaves. -/
theorem stationCommandsKeepTheTable : Obligations.StationCommandsKeepTheTable := by
  unfold Obligations.StationCommandsKeepTheTable
  refine ⟨fun time init a s hacc hidle => ?_, fun time init s hacc hidle => ?_⟩
  · intro w emptied gone
    have hstaged : w = staged s := rfl
    clear_value w
    subst hstaged
    have hemptied : ∀ t, EntryGone s a t → emptied t := fun t h =>
      ⟨h.valid, h.keys.1, h.keys.2, h.spaces, h.index, fun b _ => h.others b⟩
    have hremoved : ∀ r t, t.fld Reg.staStaCmdStat 4 3 = r ∧ EntryGone s a t → t.fld Reg.staStaCmdStat 4 3 = r ∧ emptied t :=
      fun r t h => ⟨h.1, hemptied t h.2⟩
    refine ⟨fun hw => (runs_staWrite_invalid hacc hidle hw).mono (hremoved _), (runs_staRemove hacc hidle).mono (hremoved _),
      fun hw hbad => runs_staWrite_badField hacc hidle hw hbad,
      fun hw hbad hclash => runs_staWrite_aidClash hacc hidle hw hbad hclash,
      fun hw hbad hclash => ⟨fun hv hsame => runs_staWrite_update hacc hidle hw hbad hclash hv hsame, fun hnew => ?_, fun hnew => ?_⟩,
      runs_staRead hacc hidle, runs_staReadTid hacc hidle⟩
    · intro r hr
      refine (runs_staWrite_install hacc hidle hw hbad hclash hnew hr).mono fun t ht => ?_
      obtain ⟨hresult, hnow⟩ := ht
      exact ⟨hresult, hnow.valid, hnow.linkUp, hnow.links, hnow.kind, hnow.count, hnow.found⟩
    · intro r hr
      exact (runs_staWrite_full hacc hidle hw hbad hclash hnew hr).mono (hremoved _)
  · intro ix kid suite r
    refine (runs_keyCmd hacc hidle).mono fun t ht => ?_
    obtain ⟨hresult, hdata, herror, hpair, hgroup⟩ := ht
    rw [slotStaged_transmit] at hpair hgroup
    exact ⟨hresult, hdata, herror, hpair, fun hr hg hp hsuite => (hgroup hr hg hp).trans (if_neg hsuite)⟩

end Sys2Proof.Machine
end

section
/-! Proofs of the radio control family (07_radio_control): refutations from modems that take RD_STAT back (`takesBack`).
Each statement speaks of every state and does not exclude such a modem. -/

namespace Sys2Proof.Machine

/-- Radio H shows the value `v` in RD_STAT, with its modem idle and keeping that value to be taken back at DT 0 (R305). -/
def keepsStatus (v : Nat) (r : RdState) : State :=
  ((State.reset.setNat (Reg.rdRdStat 0) v).setNat (Reg.mdmStat 0) 0).setRadio 0
    { r with undo := (takesBack 0 (Reg.rdRdStat 0) (BitVec.ofNat 32 v)).undo }

/-! ### The synthesiser -/

/-- Radio H is LOCKED with its receive path in LISTEN. -/
def undoneUnlock : State := keepsStatus 0x103 {}

/-- The unlock ends LISTEN, and the modem puts LOCKED back. -/
theorem synthUnlock_undoes : Runs (.synthUnlock 0 .h) undoneUnlock fun t => synState t 0 = 3 := ⟨_, rfl, by decide +kernel⟩

/-- Refutes O33: in `undoneUnlock` SYNTH_UNLOCK leads from LOCKED to SETTLE (R269), and the synthesiser shows LOCKED. -/
theorem not_synthesisersFollowTheirStates : ¬ Obligations.SynthesisersFollowTheirStates := by
  unfold Obligations.SynthesisersFollowTheirStates
  rintro ⟨-, -, -, hunlock, -⟩
  obtain ⟨hsettles, -⟩ := hunlock 0 .h undoneUnlock (by decide +kernel)
  obtain ⟨t, hlocked, hsettle, -⟩ := synthUnlock_undoes.both hsettles
  exact absurd (hlocked.symm.trans hsettle) (by decide)

/-! ### The calibration engine -/

/-- Radio H is in CAL at the end of a step of a set, with its receive path in LISTEN. -/
def undoneSettleBack : State := keepsStatus 0x104 { cal := some ⟨0, 0, false, 0, false, false, 0, 0⟩ }

/-- The settle back ends LISTEN, and the modem puts CAL back. -/
theorem calStepEnd_undoes : Runs (.calStepEnd 0 .h) undoneSettleBack fun t => synState t 0 = 4 := ⟨_, rfl, by decide +kernel⟩

/-- Refutes O34: in `undoneSettleBack` CAL_STEP_END leads from CAL to SETTLE (R269), and the synthesiser shows CAL. -/
theorem not_calibrationStepsRunInTheirOrder : ¬ Obligations.CalibrationStepsRunInTheirOrder := by
  unfold Obligations.CalibrationStepsRunInTheirOrder
  rintro ⟨hend, -, -⟩
  obtain ⟨-, -, -, hback, -⟩ := hend 0 .h undoneSettleBack _ rfl (Nat.zero_le _)
  obtain ⟨t, hcal, hsettle⟩ := calStepEnd_undoes.both (hback rfl (by decide +kernel))
  exact absurd (hcal.symm.trans hsettle) (by decide)

/-! ### Blanking -/

/-- Slot 0 is current with a blanking plan that routes pin 0 to Radio H, which is in LEAD with its receive path in LISTEN. -/
def undoneDefer : State :=
  let plan := ((keepsStatus 0x130 { run := some { kind := .sp, air := noAirtime, start := 0, limit := 0 } }).setNat
    (Reg.genSlotStat 0) 4).setNat Reg.genGenStat 0x10001
  { plan with gen := { pages := [(0, [0])] }, tstore := [(0x0A, 1), (0x40, 0x12), (0x44, 0x80), (0xA0, 1)] }

/-- The refused start ends LISTEN, and the modem puts LEAD back. -/
theorem blankInAssert_undoes : Runs (.blankInAssert 0 0) undoneDefer fun t => txState t 0 = 3 := ⟨_, rfl, by decide +kernel⟩

/-- Refutes O36: in `undoneDefer` BLANK_IN_ASSERT refuses a start in LEAD (R270), and the path shows LEAD and not IDLE. -/
theorem not_blankingStopsStartsAndTunersAreWritten : ¬ Obligations.BlankingStopsStartsAndTunersAreWritten := by
  unfold Obligations.BlankingStopsStartsAndTunersAreWritten
  rintro ⟨hassert, -, -, -, -⟩
  obtain ⟨-, -, hdefer, -⟩ := hassert 0 0 undoneDefer 0 (by decide)
  obtain ⟨t, hlead, hidle, -⟩ := blankInAssert_undoes.both
    (hdefer (by decide +kernel) (by decide +kernel) (by decide +kernel))
  exact absurd (hlead.symm.trans hidle) (by decide)

end Sys2Proof.Machine
end

section
/-! The start, security and power family (13_start_security_power): states with the same fuses, and what programming OTP words leaves
of them (R458, R460, R462). -/

namespace Sys2Proof.Machine

/-! ### States with the same fuses -/

/-- Two states hold the same OTP and the same registers outside those that records and task commands write. -/
structure SameFuses (s t : State) : Prop where
  otp : t.sec.otp = s.sec.otp
  regs : ∀ a, noteReg a = false → t.reg a = s.reg a

namespace SameFuses

theorem trans {s t u : State} (h : SameFuses s t) (k : SameFuses t u) : SameFuses s u :=
  ⟨k.otp.trans h.otp, fun a ha => (k.regs a ha).trans (h.regs a ha)⟩

section
variable {s t : State} (h : SameFuses s t)
include h

theorem fld {a : Nat} (ha : noteReg a = false) (lo len : Nat) : t.fld a lo len = s.fld a lo len := fld_of_reg (h.regs a ha) lo len

theorem bit {a : Nat} (ha : noteReg a = false) (i : Nat) : t.bit a i = s.bit a i := bit_of_reg (h.regs a ha)

theorem otpWord (j : Nat) : otpWord t j = otpWord s j := by rw [Machine.otpWord, h.otp, Machine.otpWord]

theorem lcState : lcState t = lcState s := h.fld (by decide) 0 2

theorem otpLc : otpLc t = otpLc s := by simp only [Machine.otpLc, h.otpWord]

theorem otpSluSealed : otpSluSealed t = otpSluSealed s := by simp only [Machine.otpSluSealed, h.otpWord]

theorem otpBytes (i n : Nat) : otpBytes t i n = otpBytes s i n := by simp only [Machine.otpBytes, h.otpWord]

theorem keysOk : keysOk t = keysOk s := by simp only [Machine.keysOk, h.otpBytes, h.otpWord]

theorem pubKey (i : Nat) : pubKey t i = pubKey s i := by simp only [Machine.pubKey, h.otpBytes, h.lcState, h.keysOk]

theorem minSvn : minSvn t = minSvn s := by simp only [Machine.minSvn, h.otpWord]

theorem svnCode : svnCode t = svnCode s := by simp only [Machine.svnCode, h.otpWord, h.minSvn]

theorem otpWritable (i : Nat) : otpWritable t i = otpWritable s i := by
  simp only [Machine.otpWritable, h.lcState, h.fld (a := Reg.secLcStat) (by decide), h.otpSluSealed]

theorem returnSig : returnSig t = returnSig s := by
  refine List.flatMap_congr fun k hk => ?_
  have hout : noteReg (Reg.secReturnSig k) = false :=
    (by decide : ∀ k ∈ List.range 16, noteReg (Reg.secReturnSig k) = false) k hk
  rw [State.regN, h.regs _ hout, State.regN]

end

end SameFuses

/-- What the completion of a command leaves has the fuses of the command's own effect. -/
theorem finish_sameFuses (s t : State) : SameFuses t (finish s t) := ⟨by rw [finish_sec], fun a ha => finish_reg s t a ha⟩

theorem Aside.sameFuses {s t : State} (h : Aside s t) : SameFuses s t := ⟨congrArg (·.sec.otp) h.bare, h.regs⟩

/-- An accepted write acts on a state with the fuses of the one before it. -/
theorem runs_of_fuseWrite {i : Instr} {s : State} {time init a : Nat} {d : Word} {f : State → State} {P : State → Prop}
    (h : exec i s = done s (busDo (s.at time) init a 4 (some d) f)) (hacc : accepts s init a true = true)
    (hp : ∀ u t, SameFuses s u → SameFuses (f u) t → P t) : Runs i s P :=
  have hanswer : SameFuses s ((s.at time).answer .ok) := ⟨rfl, fun _ _ => rfl⟩
  runs_of_busWrite h hacc fun u hu => hp u _ (hanswer.trans hu.sameFuses) (finish_sameFuses s _)

/-! ### Words of the OTP -/

theorem otpWord_setOtp (s : State) (i j : Nat) (w : Word) : otpWord (setOtp s i w) j = if j = i then w else otpWord s j :=
  bankGet_bankSet _ _ _ _ _

/-- No bit of a word is lost where bits are added to it. -/
theorem and_not_or_left (a b : Word) : a &&& ~~~(a ||| b) = 0 := by
  ext i hi
  simp +contextual

/-- Bits of `w` added to a word lie in the word or in `w`. -/
theorem or_and_not_or (a m w : Word) : (a ||| (m &&& w)) &&& ~~~(a ||| w) = 0 := by
  ext i hi
  simp only [BitVec.getElem_and, BitVec.getElem_or, BitVec.getElem_not]
  cases a[i] <;> cases w[i] <;> simp

/-- A word without a bit outside `d` adds none to it. -/
theorem or_eq_right_of_and_not {a d : Word} (h : a &&& ~~~d = 0) : a ||| d = d := by
  apply BitVec.eq_of_getLsbD_eq
  intro i hi
  have hbit : (a &&& ~~~d).getLsbD i = false := by rw [h]; exact BitVec.getLsbD_zero
  rw [BitVec.getLsbD_and, BitVec.getLsbD_not] at hbit
  rw [BitVec.getLsbD_or]
  cases ha : a.getLsbD i <;> simp_all

section
variable {s : State} {l : List (Nat × Word)} {ok : Bool}

theorem otpBurn_cons (e : Nat × Word) : otpBurn s (e :: l) ok =
    otpBurn (setOtp s.drawWord.2 e.1 (otpWord s e.1 ||| (if ok then e.2 else s.drawWord.1 &&& e.2))) l ok := rfl

theorem reg_otpBurn (a : Nat) : (otpBurn s l ok).reg a = s.reg a := by
  induction l generalizing s with
  | nil => rfl
  | cons e l ih => rw [otpBurn_cons, ih]; rfl

/-- A word that is not among those programmed stays. -/
theorem otpWord_otpBurn_out {j : Nat} (hj : j ∉ l.map (·.1)) : otpWord (otpBurn s l ok) j = otpWord s j := by
  induction l generalizing s with
  | nil => rfl
  | cons e l ih =>
    rw [List.map_cons, List.mem_cons, not_or] at hj
    rw [otpBurn_cons, ih hj.2, otpWord_setOtp, if_neg hj.1]; rfl

/-- A word programmed once gains its bits, or some of them where it fails its verify. -/
theorem otpWord_otpBurn_in (hn : (l.map (·.1)).Nodup) {e : Nat × Word} (he : e ∈ l) :
    ∃ m : Word, otpWord (otpBurn s l ok) e.1 = otpWord s e.1 ||| (if ok then e.2 else m &&& e.2) := by
  induction l generalizing s with
  | nil => cases he
  | cons d l ih =>
    rw [List.map_cons, List.nodup_cons] at hn
    rw [otpBurn_cons]
    obtain rfl | he := List.mem_cons.1 he
    · exact ⟨_, by rw [otpWord_otpBurn_out hn.1, otpWord_setOtp, if_pos rfl]⟩
    · have hne : e.1 ≠ d.1 := fun h => hn.1 (h ▸ List.mem_map_of_mem he)
      obtain ⟨m, hm⟩ := ih (s := setOtp s.drawWord.2 d.1 _) hn.2 he
      exact ⟨m, by rw [hm, otpWord_setOtp, if_neg hne]; rfl⟩

end

/-- Words programmed in part: each keeps its bits and gains none but those asked for, and every other word stays. -/
def PartlyBurnt (s t : State) (l : List (Nat × Word)) : Prop :=
  (∀ e ∈ l, otpWord s e.1 &&& ~~~(otpWord t e.1) = 0 ∧ otpWord t e.1 &&& ~~~(otpWord s e.1 ||| e.2) = 0) ∧
  ∀ j, j ∉ l.map (·.1) → otpWord t j = otpWord s j

theorem otpBurn_partlyBurnt (s : State) {l : List (Nat × Word)} (hn : (l.map (·.1)).Nodup) :
    PartlyBurnt s (otpBurn s l false) l := by
  refine ⟨fun e he => ?_, fun j hj => otpWord_otpBurn_out hj⟩
  obtain ⟨m, hm⟩ := otpWord_otpBurn_in (s := s) (ok := false) hn he
  rw [hm]
  exact ⟨and_not_or_left _ _, or_and_not_or _ _ _⟩

theorem otpWord_otpBurn_verified (s : State) {l : List (Nat × Word)} (hn : (l.map (·.1)).Nodup) {e : Nat × Word} (he : e ∈ l) :
    otpWord (otpBurn s l true) e.1 = otpWord s e.1 ||| e.2 := by
  obtain ⟨m, hm⟩ := otpWord_otpBurn_in (s := s) (ok := true) hn he
  exact hm

namespace PartlyBurnt

variable {s t u v : State} {l k : List (Nat × Word)}

theorem congr (h : PartlyBurnt u v l) (hs : SameFuses s u) (ht : ∀ j, otpWord t j = otpWord v j) : PartlyBurnt s t l := by
  simpa only [PartlyBurnt, hs.otpWord, ht] using h

theorem perm (h : PartlyBurnt s t l) (hp : l.Perm k) : PartlyBurnt s t k :=
  ⟨fun e he => h.1 e (hp.mem_iff.2 he), fun j hj => h.2 j fun hk => hj ((hp.map _).mem_iff.1 hk)⟩

end PartlyBurnt

end Sys2Proof.Machine
end

section
/-! The start, security and power family (13_start_security_power): the lifecycle commands and the programs and reads of OTP (O54; R458,
R460, R462). -/

namespace Sys2Proof.Machine

/-! ### How a lifecycle command ends -/

section
variable {s u t : State} {r : Nat}

theorem reg_lcEnd_ne {a : Nat} (ha : a ≠ Reg.secLcResult) : (lcEnd s r).reg a = s.reg a := reg_setFlds_ne _ _ _ ha

theorem bit_lcEnd_busy : (lcEnd s r).bit Reg.secLcResult 0 = false := by
  rw [State.bit, lcEnd, reg_setFlds_same]
  exact (bitOf_putBits_out _ 4 3 r 0 (by decide)).trans (bitOf_putBits_in _ 0 1 0 0 (by decide) (by decide))

/-- A command that ends with a RESULT shows it and is not BUSY. -/
theorem lcEnd_ends (hr : r < 8) (ht : SameFuses (lcEnd u r) t) :
    t.fld Reg.secLcResult 4 3 = r ∧ t.bit Reg.secLcResult 0 = false :=
  ⟨(ht.fld (by decide) 4 3).trans (fld_setFlds_result u _ hr), (ht.bit (by decide) 0).trans bit_lcEnd_busy⟩

/-- A command that only ends with its RESULT programs nothing and leaves the lifecycle state. -/
theorem lcEnd_refuses (hr : r < 8) (hu : SameFuses s u) (ht : SameFuses (lcEnd u r) t) :
    t.fld Reg.secLcResult 4 3 = r ∧ t.bit Reg.secLcResult 0 = false ∧ t.sec.otp = s.sec.otp ∧ lcState t = lcState s := by
  obtain ⟨hresult, hidle⟩ := lcEnd_ends hr ht
  refine ⟨hresult, hidle, ht.otp.trans hu.otp, ?_⟩
  rw [ht.lcState, lcState, State.fld, reg_lcEnd_ne (by decide)]
  exact hu.lcState

theorem otpLc_lt (s : State) : otpLc s < 4 := by
  unfold otpLc
  extract_lets w
  split_ifs <;> decide

/-- A transition that waits for the next chip reset: the words `l` are programmed, PENDING shows what they make, and the command ends. -/
def lcPend (s : State) (l : List (Nat × Word)) (ok : Bool) (r : Nat) : State :=
  lcEnd ((otpBurn s l ok).setFld Reg.secLcStat 2 2 (otpLc (otpBurn s l ok))) r

theorem lcNext_eq (s : State) (code : Nat) (ok : Bool) :
    lcNext s code ok = lcPend s [(0, BitVec.ofNat 32 code)] ok (if ok then 0 else 5) := rfl

/-- It leaves the lifecycle state in force, and PENDING shows the programmed one. -/
theorem lcPend_ends {l : List (Nat × Word)} {ok : Bool} (hr : r < 8) (hu : SameFuses s u) (ht : SameFuses (lcPend u l ok r) t) :
    (t.fld Reg.secLcResult 4 3 = r ∧ t.bit Reg.secLcResult 0 = false) ∧ lcState t = lcState s ∧ t.fld Reg.secLcStat 2 2 = otpLc t ∧
      ∀ j, otpWord t j = otpWord (otpBurn u l ok) j := by
  have hwords : ∀ j, otpWord t j = otpWord (otpBurn u l ok) j := ht.otpWord
  have hstat : t.reg Reg.secLcStat = putBits (u.reg Reg.secLcStat) 2 2 (otpLc (otpBurn u l ok)) := by
    rw [ht.regs _ (by decide), lcPend, reg_lcEnd_ne (by decide), reg_setFld_same, reg_otpBurn]
  refine ⟨lcEnd_ends hr ht, ?_, ?_, hwords⟩
  · rw [lcState, State.fld, hstat, bitsOf_putBits_out _ _ _ _ _ _ (by decide)]
    exact hu.lcState
  · have hlc : otpLc t = otpLc (otpBurn u l ok) := by simp only [otpLc, hwords]
    rw [State.fld, hstat, bitsOf_putBits_same _ _ _ _ (by decide), hlc]
    exact Nat.mod_eq_of_lt (otpLc_lt _)

/-- A word that fails its verify: RESULT is OTP_FAIL, and the words are programmed in part. -/
theorem lcPend_fails {l : List (Nat × Word)} (hn : (l.map (·.1)).Nodup) (hu : SameFuses s u) (ht : SameFuses (lcPend u l false 5) t) :
    t.fld Reg.secLcResult 4 3 = 5 ∧ t.bit Reg.secLcResult 0 = false ∧ lcState t = lcState s ∧ t.fld Reg.secLcStat 2 2 = otpLc t ∧
      PartlyBurnt s t l := by
  obtain ⟨⟨hresult, hidle⟩, hstate, hpending, hwords⟩ := lcPend_ends (by decide) hu ht
  exact ⟨hresult, hidle, hstate, hpending, (otpBurn_partlyBurnt u hn).congr hu hwords⟩

/-- A transition whose word verifies: it is programmed whole. -/
theorem lcNext_verified {code : Nat} (hu : SameFuses s u) (ht : SameFuses (lcNext u code true) t) :
    t.fld Reg.secLcResult 4 3 = 0 ∧ t.bit Reg.secLcResult 0 = false ∧ otpWord t 0 = otpWord s 0 ||| BitVec.ofNat 32 code ∧
      lcState t = lcState s ∧ t.fld Reg.secLcStat 2 2 = otpLc t ∧ ∀ j, j ≠ 0 → otpWord t j = otpWord s j := by
  rw [lcNext_eq] at ht
  obtain ⟨⟨hresult, hidle⟩, hstate, hpending, hwords⟩ := lcPend_ends (by decide) hu ht
  refine ⟨hresult, hidle, ?_, hstate, hpending, fun j hj => ?_⟩
  · rw [hwords, ← hu.otpWord]
    exact otpWord_otpBurn_verified u (l := [(0, _)]) (List.nodup_singleton 0) (List.mem_singleton_self _)
  · rw [hwords, otpWord_otpBurn_out (by simpa using hj), hu.otpWord]

end

/-! ### The commands of LC_CMD by their cases (R458) -/

/-- Both keys are programmed and KEY_CRC is right. -/
def keysReady (s : State) : Bool := (pubKey s 16).isSome && (pubKey s 48).isSome && keysOk s

/-- RETURN needs no signature or has a valid one. -/
def returnFree (s : State) : Bool :=
  lcState s = 0 || sigOk (pubKey s 48) ([0x52, 0x45, 0x54, 0x55, 0x52, 0x4E] ++ otpBytes s 1 2) (returnSig s)

theorem SameFuses.keysReady {s t : State} (h : SameFuses s t) : keysReady t = keysReady s := by
  simp only [Machine.keysReady, h.pubKey, h.keysOk]

theorem SameFuses.returnFree {s t : State} (h : SameFuses s t) : returnFree t = returnFree s := by
  simp only [Machine.returnFree, h.lcState, h.pubKey, h.otpBytes, h.returnSig]

/-- The words that RETURN programs: DEV_SECRET overwritten, and RETURNED. -/
def returnWords : List (Nat × Word) := (List.range 8).map (fun k => (8 + k, 0xFFFFFFFF)) ++ [(0, 7)]

/-- A RETURN whose words verify. -/
def lcReturnDone (s : State) : State :=
  lcEnd (debugNone ((otpBurn s returnWords true).setFlds Reg.secLcStat [(0, 2, 3), (2, 2, 3)])) 0

theorem returnWords_nodup : (returnWords.map (·.1)).Nodup := by decide

section
variable {s : State} {ok : Bool}

theorem lcProvision_ready (h : lcState s = 0) (hr : keysReady s = true) : lcProvision s ok = lcNext s 1 ok := by
  rw [lcProvision, if_pos h]; exact if_pos hr

theorem lcProvision_notReady (h : lcState s = 0) (hr : keysReady s = false) : lcProvision s ok = lcEnd s 2 := by
  rw [lcProvision, if_pos h]; exact if_neg (Bool.eq_false_iff.1 hr)

theorem lcProvision_notOpen (h : lcState s ≠ 0) : lcProvision s ok = lcEnd s 1 := if_neg h

theorem lcSealCmd_sealed (h : lcState s = 1) (hs : otpSluSealed s = true) : lcSealCmd s ok = lcNext s 3 ok := by
  rw [lcSealCmd, if_pos h, if_pos hs]

theorem lcSealCmd_notSealed (h : lcState s = 1) (hs : otpSluSealed s = false) : lcSealCmd s ok = lcEnd s 3 := by
  rw [lcSealCmd, if_pos h, if_neg (Bool.eq_false_iff.1 hs)]

theorem lcSealCmd_notProvisioned (h : lcState s ≠ 1) : lcSealCmd s ok = lcEnd s 1 := if_neg h

theorem lcReturn_returned (h : lcState s = 3) : lcReturn s ok = lcEnd s 1 := if_pos h

theorem lcReturn_unsigned (h : lcState s ≠ 3) (hf : returnFree s = false) : lcReturn s ok = lcEnd s 4 := by
  rw [lcReturn, if_neg h]; exact if_neg (Bool.eq_false_iff.1 hf)

theorem lcReturn_verified (h : lcState s ≠ 3) (hf : returnFree s = true) : lcReturn s true = lcReturnDone s := by
  rw [lcReturn, if_neg h]; exact if_pos hf

theorem lcReturn_failed (h : lcState s ≠ 3) (hf : returnFree s = true) : lcReturn s false = lcPend s returnWords false 5 := by
  rw [lcReturn, if_neg h]; exact if_pos hf

section
variable (hidle : s.bit Reg.secLcResult 0 = false)
include hidle

theorem lcCmd_provision : lcCmd s 0xA5C30001 ok = lcProvision s ok := by rw [lcCmd, hidle]; rfl

theorem lcCmd_seal : lcCmd s 0xA5C30002 ok = lcSealCmd s ok := by rw [lcCmd, hidle]; rfl

theorem lcCmd_return : lcCmd s 0xA5C30003 ok = lcReturn s ok := by rw [lcCmd, hidle]; rfl

end
end

/-- RETURN takes effect at once: DEV_SECRET reads as ones, the state is RETURNED and the debug level NONE. -/
theorem lcReturnDone_takesEffect {s u t : State} (hu : SameFuses s u) (ht : SameFuses (lcReturnDone u) t) :
    t.fld Reg.secLcResult 4 3 = 0 ∧ t.bit Reg.secLcResult 0 = false ∧ lcState t = 3 ∧ t.fld Reg.secDbgStat 0 2 = 0 ∧
      otpWord t 0 = otpWord s 0 ||| 7 ∧ (∀ k, k < 8 → otpWord t (8 + k) = 0xFFFFFFFF) ∧
      ∀ j, j ≠ 0 → (j < 8 ∨ 16 ≤ j) → otpWord t j = otpWord s j := by
  obtain ⟨hresult, hidle⟩ := lcEnd_ends (by decide) ht
  have hword : ∀ e ∈ returnWords, otpWord t e.1 = otpWord s e.1 ||| e.2 := fun e he => by
    rw [← hu.otpWord]
    exact (ht.otpWord e.1).trans (otpWord_otpBurn_verified u returnWords_nodup he)
  have hones : ∀ w : Word, w ||| 0xFFFFFFFF = 0xFFFFFFFF := fun w => BitVec.or_allOnes
  refine ⟨hresult, hidle, ?_, ?_, hword (0, 7) (by decide), fun k hk => ?_, fun j h0 hj => ?_⟩
  · rw [ht.lcState, lcState, State.fld, lcReturnDone, reg_lcEnd_ne (by decide), debugNone, reg_setFld_ne _ _ _ _ _ (by decide),
      reg_setFlds_same]
    exact (bitsOf_putBits_out _ 2 2 3 0 2 (by decide)).trans (bitsOf_putBits_same _ 0 2 3 (by decide))
  · rw [ht.fld (by decide), State.fld, lcReturnDone, reg_lcEnd_ne (by decide)]
    exact fld_setFld_same _ _ 0 2 0 (by decide)
  · exact (hword (8 + k, 0xFFFFFFFF) (List.mem_append_left _ (List.mem_map_of_mem (List.mem_range.2 hk)))).trans (hones _)
  · have hout : j ∉ returnWords.map (·.1) := by
      simp only [returnWords, List.map_append, List.map_map, List.mem_append, List.mem_map, List.mem_range, Function.comp_apply,
        List.map_cons, List.map_nil, List.mem_singleton]
      omega
    rw [← hu.otpWord]
    exact (ht.otpWord j).trans (otpWord_otpBurn_out hout)

section
variable {s : State} {time : Nat} {init : Init} {ok : Bool} {f : State → State} {P : State → Prop}
  (hacc : accepts s init Reg.secLcCmd true = true) (hidle : s.bit Reg.secLcResult 0 = false)
include hacc hidle

/-- A command of LC_CMD while none is in progress. -/
theorem runs_of_lcCmd {i : Instr} {d : Word}
    (h : exec i s = done s (busDo (s.at time) init Reg.secLcCmd 4 (some d) (fun t => lcCmd t d ok)))
    (hf : ∀ u, SameFuses s u → u.bit Reg.secLcResult 0 = false → lcCmd u d ok = f u)
    (hp : ∀ u t, SameFuses s u → SameFuses (f u) t → P t) : Runs i s P :=
  runs_of_fuseWrite h hacc fun u t hu ht => hp u t hu (by rwa [hf u hu ((hu.bit (by decide) 0).trans hidle)] at ht)

theorem runs_provision (hf : ∀ u, SameFuses s u → lcProvision u ok = f u) (hp : ∀ u t, SameFuses s u → SameFuses (f u) t → P t) :
    Runs (.provision time ⟨init, ok⟩) s P := runs_of_lcCmd hacc hidle rfl (fun u hu hb => (lcCmd_provision hb).trans (hf u hu)) hp

theorem runs_lcSeal (hf : ∀ u, SameFuses s u → lcSealCmd u ok = f u) (hp : ∀ u t, SameFuses s u → SameFuses (f u) t → P t) :
    Runs (.lcSeal time ⟨init, ok⟩) s P := runs_of_lcCmd hacc hidle rfl (fun u hu hb => (lcCmd_seal hb).trans (hf u hu)) hp

theorem runs_returnCmd (hf : ∀ u, SameFuses s u → lcReturn u ok = f u) (hp : ∀ u t, SameFuses s u → SameFuses (f u) t → P t) :
    Runs (.returnCmd time ⟨init, ok⟩) s P := runs_of_lcCmd hacc hidle rfl (fun u hu hb => (lcCmd_return hb).trans (hf u hu)) hp

end

/-! ### PROGRAM and READ (R460) -/

section
variable {s u t : State} {r : Nat}

theorem reg_otpEnd_ne {a : Nat} (hs : a ≠ Reg.secOtpStat) (hi : a ≠ Reg.secIrqRaw) : (otpEnd s r).reg a = s.reg a := by
  rw [otpEnd, reg_raise_ne _ _ _ hi, reg_setFlds_ne _ _ _ hs]

/-- An OTP command ends with OTP_DONE and its RESULT. -/
theorem otpEnd_ends (hr : r < 8) (ht : SameFuses (otpEnd u r) t) : t.bit Reg.secIrqRaw 3 = true ∧ t.fld Reg.secOtpStat 4 3 = r := by
  refine ⟨(ht.bit (by decide) 3).trans (bit_raise_same _ _ _ (by decide)), ?_⟩
  rw [ht.fld (by decide), State.fld, otpEnd, reg_raise_ne _ _ _ (by decide)]
  exact fld_setFlds_result u _ hr

end

/-- A PROGRAM of OTP_DATA may take place: the state allows the word that OTP_ADDR names, and no bit of it would be cleared. -/
def otpMay (s : State) : Bool :=
  otpWritable s (s.fld Reg.secOtpAddr 0 9) && (otpWord s (s.fld Reg.secOtpAddr 0 9) &&& ~~~(s.reg Reg.secOtpData) == 0)

theorem SameFuses.otpMay {s t : State} (h : SameFuses s t) : otpMay t = otpMay s := by
  simp only [Machine.otpMay, h.fld (a := Reg.secOtpAddr) (by decide), h.otpWritable, h.otpWord, h.regs Reg.secOtpData (by decide)]

section
variable {s : State}

theorem otpWrite_refused {ok : Bool} (h : otpMay s = false) : otpWrite s ok = otpEnd s 1 := by
  simp only [otpMay, Bool.and_eq_false_iff, beq_eq_false_iff_ne] at h
  exact if_pos h

theorem otpMay_iff : otpMay s = true ↔ ¬(otpWritable s (s.fld Reg.secOtpAddr 0 9) = false ∨
    otpWord s (s.fld Reg.secOtpAddr 0 9) &&& ~~~(s.reg Reg.secOtpData) ≠ 0) := by
  simp [otpMay]

theorem otpWrite_verified (h : otpMay s = true) :
    otpWrite s true = otpEnd (setOtp s (s.fld Reg.secOtpAddr 0 9) (s.reg Reg.secOtpData)) 0 := if_neg (otpMay_iff.1 h)

theorem otpWrite_failed (h : otpMay s = true) :
    otpWrite s false = otpEnd (otpBurn s [(s.fld Reg.secOtpAddr 0 9, s.reg Reg.secOtpData)] false) 3 := if_neg (otpMay_iff.1 h)

/-- A word that may be programmed holds no bit outside OTP_DATA. -/
theorem otpMay_le (h : otpMay s = true) :
    otpWord s (s.fld Reg.secOtpAddr 0 9) ||| s.reg Reg.secOtpData = s.reg Reg.secOtpData := by
  obtain ⟨-, hkeeps⟩ := not_or.1 (otpMay_iff.1 h)
  exact or_eq_right_of_and_not (not_not.1 hkeeps)

theorem otpFetch_secret (h : 8 ≤ s.fld Reg.secOtpAddr 0 9 ∧ s.fld Reg.secOtpAddr 0 9 ≤ 15) :
    otpFetch s = otpEnd (s.setReg Reg.secOtpData 0) 2 := if_pos h

theorem otpFetch_word (h : ¬(8 ≤ s.fld Reg.secOtpAddr 0 9 ∧ s.fld Reg.secOtpAddr 0 9 ≤ 15)) :
    otpFetch s = otpEnd (s.setReg Reg.secOtpData (otpWord s (s.fld Reg.secOtpAddr 0 9))) 0 := if_neg h

end

section
variable {s : State} {time : Nat} {init : Init} (hacc : accepts s init Reg.secOtpCmd true = true)
include hacc

theorem runs_otpProgram {ok : Bool} {P : State → Prop} (hp : ∀ u t, SameFuses s u → SameFuses (otpWrite u ok) t → P t) :
    Runs (.otpProgram time init ok) s P := runs_of_fuseWrite rfl hacc hp

theorem runs_otpRead {P : State → Prop} (hp : ∀ u t, SameFuses s u → SameFuses (otpFetch u) t → P t) :
    Runs (.otpRead time init) s P := runs_of_fuseWrite rfl hacc hp

/-- A PROGRAM that is refused leaves every word and OTP_DATA. -/
theorem runs_otpProgram_refused (ok : Bool) (hmay : otpMay s = false) : Runs (.otpProgram time init ok) s fun t =>
    t.bit Reg.secIrqRaw 3 = true ∧ t.fld Reg.secOtpStat 4 3 = 1 ∧ t.sec.otp = s.sec.otp ∧
      t.reg Reg.secOtpData = s.reg Reg.secOtpData :=
  runs_otpProgram hacc fun u t hu ht => by
    rw [otpWrite_refused (hu.otpMay.trans hmay)] at ht
    obtain ⟨hdone, hresult⟩ := otpEnd_ends (by decide) ht
    refine ⟨hdone, hresult, ht.otp.trans hu.otp, ?_⟩
    rw [ht.regs _ (by decide), reg_otpEnd_ne (by decide) (by decide), hu.regs _ (by decide)]

/-- A PROGRAM that verifies leaves OTP_DATA in the word, and no other word changes. -/
theorem runs_otpProgram_verified (hmay : otpMay s = true) : Runs (.otpProgram time init true) s fun t =>
    t.bit Reg.secIrqRaw 3 = true ∧ otpWord t (s.fld Reg.secOtpAddr 0 9) = s.reg Reg.secOtpData ∧ t.fld Reg.secOtpStat 4 3 = 0 ∧
      ∀ j, j ≠ s.fld Reg.secOtpAddr 0 9 → otpWord t j = otpWord s j :=
  runs_otpProgram hacc fun u t hu ht => by
    rw [otpWrite_verified (hu.otpMay.trans hmay), hu.fld (by decide), hu.regs _ (by decide)] at ht
    obtain ⟨hdone, hresult⟩ := otpEnd_ends (by decide) ht
    refine ⟨hdone, (ht.otpWord _).trans ?_, hresult, fun j hj => (ht.otpWord j).trans ?_⟩
    · exact (otpWord_setOtp _ _ _ _).trans (if_pos rfl)
    · exact ((otpWord_setOtp _ _ _ _).trans (if_neg hj)).trans (hu.otpWord j)

/-- A PROGRAM that fails its verify leaves the old bits and some of those asked for. -/
theorem runs_otpProgram_failed (hmay : otpMay s = true) : Runs (.otpProgram time init false) s fun t =>
    t.bit Reg.secIrqRaw 3 = true ∧ t.fld Reg.secOtpStat 4 3 = 3 ∧
      otpWord s (s.fld Reg.secOtpAddr 0 9) &&& ~~~(otpWord t (s.fld Reg.secOtpAddr 0 9)) = 0 ∧
      otpWord t (s.fld Reg.secOtpAddr 0 9) &&& ~~~(s.reg Reg.secOtpData) = 0 ∧
      ∀ j, j ≠ s.fld Reg.secOtpAddr 0 9 → otpWord t j = otpWord s j :=
  runs_otpProgram hacc fun u t hu ht => by
    rw [otpWrite_failed (hu.otpMay.trans hmay), hu.fld (by decide), hu.regs _ (by decide)] at ht
    obtain ⟨hdone, hresult⟩ := otpEnd_ends (by decide) ht
    obtain ⟨hword, hothers⟩ := (otpBurn_partlyBurnt u (l := [(s.fld Reg.secOtpAddr 0 9, s.reg Reg.secOtpData)])
      (List.nodup_singleton _)).congr hu ht.otpWord
    obtain ⟨hkept, hgained⟩ := hword _ (List.mem_singleton_self _)
    rw [otpMay_le hmay] at hgained
    exact ⟨hdone, hresult, hkept, hgained, fun j hj => hothers j (by simpa using hj)⟩

/-- A READ that ends with RESULT `r` and `w` in OTP_DATA. -/
theorem runs_otpRead_of {r : Nat} {w : Word} (hr : r < 8)
    (hf : ∀ u, SameFuses s u → otpFetch u = otpEnd (u.setReg Reg.secOtpData w) r) : Runs (.otpRead time init) s fun t =>
    t.bit Reg.secIrqRaw 3 = true ∧ t.fld Reg.secOtpStat 4 3 = r ∧ t.sec.otp = s.sec.otp ∧ t.reg Reg.secOtpData = w :=
  runs_otpRead hacc fun u t hu ht => by
    rw [hf u hu] at ht
    obtain ⟨hdone, hresult⟩ := otpEnd_ends hr ht
    refine ⟨hdone, hresult, ht.otp.trans hu.otp, ?_⟩
    rw [ht.regs _ (by decide), reg_otpEnd_ne (by decide) (by decide), reg_setReg_same]

end

/-! ### SVN_CMD (R462) -/

/-- The words that SVN_CMD programs for a value: the thermometer code of R460. -/
def svnWords (v : Nat) : List (Nat × Word) := [(5, BitVec.ofNat 32 (2 ^ v - 1)), (6, BitVec.ofNat 32 ((2 ^ v - 1) / 2 ^ 32))]

theorem svnWords_nodup (v : Nat) : ((svnWords v).map (·.1)).Nodup := by simp [svnWords]

/-- Bit `i` of the thermometer is 1 below the value. -/
theorem svnWords_bit (v : Nat) {i : Nat} (hi : i < 63) :
    ∃ e ∈ svnWords v, e.1 = 5 + i / 32 ∧ bitOf e.2 (i % 32) = decide (i < v) := by
  have hbit : ∀ n k, k < 32 → bitOf (BitVec.ofNat 32 n) k = n.testBit k := fun n k hk => by
    rw [bitOf, BitVec.getLsbD_ofNat, decide_eq_true hk, Bool.true_and]
  by_cases hlow : i < 32
  · refine ⟨_, List.mem_cons_self, by simp only; omega, ?_⟩
    rw [hbit _ _ (Nat.mod_lt _ (by decide)), Nat.mod_eq_of_lt hlow, Nat.testBit_two_pow_sub_one]
  · refine ⟨_, List.mem_cons_of_mem _ (List.mem_singleton_self _), by simp only; omega, ?_⟩
    rw [hbit _ _ (Nat.mod_lt _ (by decide)), Nat.testBit_div_two_pow, Nat.testBit_two_pow_sub_one]
    congr 2; omega

/-- MIN_SVN of a thermometer code is its number of ones. -/
theorem minSvn_of_thermometer {s : State} {v : Nat} (hv : v < 64)
    (h : ∀ i, i < 63 → bitOf (otpWord s (5 + i / 32)) (i % 32) = decide (i < v)) : minSvn s = v := by
  have hones : ∀ v, v < 64 → ((List.range 63).filter (fun i => decide (i < v))).length = v := by decide
  rw [minSvn, List.filter_congr fun i hi => h i (List.mem_range.1 hi), hones v hv]

/-- Programming a higher value raises MIN_SVN to it. -/
theorem minSvn_otpBurn {s : State} {v : Nat} (hcode : svnCode s = true) (hlow : minSvn s < v) (hv : v < 64) :
    minSvn (otpBurn s (svnWords v) true) = v := by
  refine minSvn_of_thermometer hv fun i hi => ?_
  obtain ⟨e, he, hword, hbit⟩ := svnWords_bit v hi
  have hold : bitOf (otpWord s (5 + i / 32)) (i % 32) = decide (i < minSvn s) :=
    beq_iff_eq.1 (List.all_eq_true.1 hcode i (List.mem_range.2 hi))
  rw [← hword, otpWord_otpBurn_verified s (svnWords_nodup v) he, bitOf, BitVec.getLsbD_or, hword]
  rw [bitOf] at hold hbit
  rw [hold, hbit, Bool.eq_iff_iff]
  simp only [Bool.or_eq_true, decide_eq_true_eq]
  omega

section
variable {s : State} {time : Nat} {init : Init} {d : Word} (hacc : accepts s init Reg.secSvnCmd true = true)
include hacc

theorem runs_svnCmd {ok : Bool} {P : State → Prop} (hp : ∀ u t, SameFuses s u → SameFuses (svnRaise u d ok) t → P t) :
    Runs (.svnCmd time ⟨init, ok⟩ d) s P := runs_of_fuseWrite rfl hacc hp

/-- A value that MIN_SVN and BOOT_SVN allow is programmed. -/
theorem runs_svnCmd_allowed {ok : Bool} {P : State → Prop} (hlow : minSvn s < bitsOf d 0 6)
    (hhigh : bitsOf d 0 6 ≤ s.fld Reg.secBootSvn 0 6)
    (hp : ∀ u t, SameFuses s u →
      SameFuses (lcEnd (otpBurn u (svnWords (bitsOf d 0 6)) ok) (if ok then 0 else 5)) t → P t) :
    Runs (.svnCmd time ⟨init, ok⟩ d) s P :=
  runs_svnCmd hacc fun u t hu ht => hp u t hu (by
    rw [svnRaise, hu.minSvn, hu.fld (by decide)] at ht
    rwa [if_pos ⟨hlow, hhigh⟩] at ht)

theorem runs_svnCmd_refused (ok : Bool) (h : bitsOf d 0 6 ≤ minSvn s ∨ s.fld Reg.secBootSvn 0 6 < bitsOf d 0 6) :
    Runs (.svnCmd time ⟨init, ok⟩ d) s fun t =>
      minSvn t = minSvn s ∧ t.sec.otp = s.sec.otp ∧ t.fld Reg.secLcResult 4 3 = 1 :=
  runs_svnCmd hacc fun u t hu ht => by
    rw [svnRaise, hu.minSvn, hu.fld (by decide)] at ht
    rw [if_neg (by omega)] at ht
    obtain ⟨hresult, -, hotp, -⟩ := lcEnd_refuses (by decide) hu ht
    exact ⟨ht.minSvn.trans hu.minSvn, hotp, hresult⟩

end

/-! ### The statement -/

/-- Settles O54: each clause is what one branch of its command leaves. -/
theorem lifecycleCommandsProgramOtp : Obligations.LifecycleCommandsProgramOtp := by
  unfold Obligations.LifecycleCommandsProgramOtp
  refine ⟨fun s time init hacc hidle => ?_, fun s time init hacc => ?_, fun s time init d hacc hcode => ?_⟩
  · intro fails partly next ready signed free
    have hready : ready = keysReady s := rfl
    have hfree : free = returnFree s := rfl
    clear_value ready free
    subst hready hfree
    refine ⟨fun h hr => ?_, fun h hs => ?_, fun h hf => ?_, fun ok => ⟨fun h hr => ?_, fun h => ?_, fun h hs => ?_, fun h => ?_,
      fun h => ?_, fun h hf => ?_⟩⟩
    · have hnext : ∀ ok u, SameFuses s u → lcProvision u ok = lcNext u 1 ok := fun ok u hu =>
        lcProvision_ready (hu.lcState.trans h) (hu.keysReady.trans hr)
      exact ⟨runs_provision hacc hidle (hnext true) fun _ _ => lcNext_verified,
        runs_provision hacc hidle (hnext false) fun _ _ => lcPend_fails (List.nodup_singleton _)⟩
    · have hnext : ∀ ok u, SameFuses s u → lcSealCmd u ok = lcNext u 3 ok := fun ok u hu =>
        lcSealCmd_sealed (hu.lcState.trans h) (hu.otpSluSealed.trans hs)
      exact ⟨runs_lcSeal hacc hidle (hnext true) fun _ _ => lcNext_verified,
        runs_lcSeal hacc hidle (hnext false) fun _ _ => lcPend_fails (List.nodup_singleton _)⟩
    · refine ⟨runs_returnCmd hacc hidle (fun u hu => lcReturn_verified (hu.lcState.trans_ne h) (hu.returnFree.trans hf))
        fun _ _ => lcReturnDone_takesEffect, ?_⟩
      refine runs_returnCmd hacc hidle (fun u hu => lcReturn_failed (hu.lcState.trans_ne h) (hu.returnFree.trans hf)) fun u t hu ht => ?_
      obtain ⟨hresult, hdone, hstate, hpending, hwords⟩ := lcPend_fails returnWords_nodup hu ht
      exact ⟨hresult, hdone, hstate, hpending, hwords.perm List.perm_append_comm⟩
    · exact runs_provision hacc hidle (fun u hu => lcProvision_notReady (hu.lcState.trans h) (hu.keysReady.trans hr))
        fun _ _ => lcEnd_refuses (by decide)
    · exact runs_provision hacc hidle (fun u hu => lcProvision_notOpen (hu.lcState.trans_ne h)) fun _ _ => lcEnd_refuses (by decide)
    · exact runs_lcSeal hacc hidle (fun u hu => lcSealCmd_notSealed (hu.lcState.trans h) (hu.otpSluSealed.trans hs))
        fun _ _ => lcEnd_refuses (by decide)
    · exact runs_lcSeal hacc hidle (fun u hu => lcSealCmd_notProvisioned (hu.lcState.trans_ne h))
        fun _ _ => lcEnd_refuses (by decide)
    · exact runs_returnCmd hacc hidle (fun u hu => lcReturn_returned (hu.lcState.trans h)) fun _ _ => lcEnd_refuses (by decide)
    · exact runs_returnCmd hacc hidle (fun u hu => lcReturn_unsigned (hu.lcState.trans_ne h) (hu.returnFree.trans hf))
        fun _ _ => lcEnd_refuses (by decide)
  · intro i d may ends
    have hmay : may = otpMay s := rfl
    clear_value may
    subst hmay
    refine ⟨runs_otpProgram_verified hacc, runs_otpProgram_failed hacc, runs_otpProgram_refused hacc, fun h8 h15 => ?_, fun h => ?_⟩
    · exact runs_otpRead_of hacc (by decide) fun u hu => otpFetch_secret (by rw [hu.fld (by decide)]; exact ⟨h8, h15⟩)
    · refine runs_otpRead_of hacc (by decide) fun u hu => ?_
      rw [otpFetch_word (by rw [hu.fld (by decide)]; omega), hu.fld (by decide), hu.otpWord]
  · intro v
    refine ⟨fun hlow hhigh => ⟨?_, ?_⟩, runs_svnCmd_refused hacc⟩
    · refine runs_svnCmd_allowed hacc hlow hhigh fun u t hu ht => ⟨ht.minSvn.trans ?_, (lcEnd_ends (by decide) ht).1⟩
      exact minSvn_otpBurn (hu.svnCode.trans hcode) (hu.minSvn.trans_lt hlow) (nbits_lt _ _ _)
    · refine runs_svnCmd_allowed hacc hlow hhigh fun u t hu ht => ⟨(lcEnd_ends (by decide) ht).1, fun k hk => ?_⟩
      obtain ⟨hwords, -⟩ := (otpBurn_partlyBurnt u (svnWords_nodup v)).congr hu ht.otpWord
      obtain rfl | rfl : k = 5 ∨ k = 6 := by simpa using hk
      · exact (hwords _ List.mem_cons_self).1
      · exact (hwords _ (List.mem_cons_of_mem _ (List.mem_singleton_self _))).1

end Sys2Proof.Machine
end

section
/-! Proofs of the air modem family (08_air_modem): the refutation of the statement on the modem's states, from a modem that takes SIG_FAIL of
another radio back (`takesBack`). -/

namespace Sys2Proof.Machine

/-- Radio H checks the SIG of a reception, LOCKED and in LISTEN. Radio M's synthesiser is off with its receive path in LISTEN, and its
modem takes back SIG_FAIL of Radio H. -/
def undoneSigFail : State :=
  let checks := (State.reset.setNat (Reg.rdRdStat 0) 0x103).setNat (Reg.mdmStat 0) 2
  let listens := (checks.setNat (Reg.rdRdStat 1) 0x100).setNat (Reg.mdmStat 1) 0
  (listens.setRadio 0 { rx := some { since := 0, ts := 0, thresh := 0, ctrl := 0 } }).setRadio 1 (takesBack 0 (Reg.mdmSigFail 0) 7)

/-- The failed check counts before it reviews the radios; Radio M's receive path then leaves LISTEN, and its modem puts its value over
the count. -/
theorem sigCheck_undoes : Runs (.sigCheck 0 .h .fail) undoneSigFail fun t => t.regN (Reg.mdmSigFail 0) = 7 :=
  ⟨_, rfl, by decide +kernel⟩

/-- Refutes O37: its clause on a SIG that fails speaks of every state, and in `undoneSigFail` the modem's record of Radio M (R305) names
SIG_FAIL of Radio H, which no run of the device puts there: the count goes from 0 to 7 and not to 1. -/
theorem not_receptionsFollowTheModem : ¬ Obligations.ReceptionsFollowTheModem := by
  unfold Obligations.ReceptionsFollowTheModem
  rintro ⟨-, -, -, hsig, -, -⟩
  obtain ⟨-, -, -, hfail⟩ := hsig 0 .h plainSig undoneSigFail _ rfl (by decide +kernel) (by decide +kernel)
  obtain ⟨t, hseven, -, -, hone⟩ := sigCheck_undoes.both hfail
  have hzero : undoneSigFail.regN (Reg.mdmSigFail (rIdx .h)) = 0 := by decide +kernel
  rw [hzero] at hone
  exact absurd (hseven.symm.trans hone) (by decide)

end Sys2Proof.Machine
end

section
/-! Proofs of the stall ports and uplinks family (09_stall_ports_and_uplinks). The facts about their registers, and about what a command
leaves of their blocks, that the proofs share stand first. -/

namespace Sys2Proof.Machine

/-! ### Register addresses -/

/-- An address of the blocks of the stall ports and the uplinks. -/
abbrev inWired (a : Nat) : Prop := 0x41000000 ≤ a ∧ a < 0x41220000

/-- An address of the block of stall port `n`. -/
abbrev inPort (n a : Nat) : Prop := 0x41000000 + n * 0x4000 ≤ a ∧ a < 0x41004000 + n * 0x4000

theorem noteReg_of_inWired {a : Nat} (h : inWired a) : noteReg a = false := by
  simp only [noteReg, mapReg, tapReg, Bool.or_eq_false_iff, Bool.and_eq_false_iff, decide_eq_false_iff_not, List.contains_cons,
    List.contains_nil, List.any_cons, List.any_nil, beq_eq_false_iff_ne]
  simp only [Reg.tsTsStat, Reg.tsTaskView, Reg.tsTaskFlags, Reg.topPndStat, Reg.topPndXcnt, Reg.topPndTotLo, Reg.topPndTotHi,
    Reg.topPndPkts, Reg.tpTpStat, Reg.tpLost, Reg.tpIrqRaw, Reg.tpMarkStat, and_true]
  obtain ⟨hlo, hhi⟩ := h
  and_intros <;> omega

/-- Two registers of one stall port. -/
theorem spReg_ne {o p n : Nat} (h : o ≠ p) : o + n * 0x4000 ≠ p + n * 0x4000 := fun e => h (Nat.add_right_cancel e)

/-- Two registers of one uplink. -/
theorem ulReg_ne {o p u : Nat} (h : o ≠ p) : o + u * 0x10000 ≠ p + u * 0x10000 := fun e => h (Nat.add_right_cancel e)

theorem inPort_spReg {o n : Nat} (h : 0x41000000 ≤ o ∧ o < 0x41004000) : inPort n (o + n * 0x4000) := by
  simp only [inPort]; omega

theorem inWired_of_inPort {n a : Nat} (hn : n < 64) (h : inPort n a) : inWired a := by
  simp only [inPort, inWired] at *; omega

theorem inWired_spReg {o : Nat} (n : Fin 64) (h : 0x41000000 ≤ o ∧ o < 0x41004000) : inWired (o + n * 0x4000) :=
  inWired_of_inPort n.isLt (inPort_spReg h)

theorem inWired_ulReg {o : Nat} (u : Fin 2) (h : 0x41200000 ≤ o ∧ o < 0x41210000) : inWired (o + u * 0x10000) := by
  have := u.isLt
  simp only [inWired]; omega

/-! ### Fields and counters -/

theorem min_regN (s : State) (a : Nat) : min (s.regN a) 0xFFFFFFFF = s.regN a := by
  have : s.regN a < 2 ^ 32 := (s.reg a).isLt
  omega

/-! ### What a command leaves of the blocks of the stall ports and the uplinks -/

/-- `t` has the time, the MACs, the PHYs, the uplinks, the expander bus and the registers of the wired ports of `s`. -/
structure WiredKept (s t : State) : Prop where
  dt : t.dt = s.dt
  port : t.port = s.port
  sp : t.sp = s.sp
  ul : t.ul = s.ul
  podl : t.podl = s.podl
  podlFlt : t.podlFlt = s.podlFlt
  regs : ∀ a, inWired a → t.reg a = s.reg a

theorem Aside.wiredKept {s t : State} (h : Aside s t) : WiredKept s t :=
  ⟨congrArg (·.dt) h.bare, congrArg (·.port) h.bare, congrArg (·.sp) h.bare, congrArg (·.ul) h.bare, congrArg (·.podl) h.bare,
   congrArg (·.podlFlt) h.bare, fun a ha => h.regs a (noteReg_of_inWired ha)⟩

theorem RegsOnly.wiredKept {P : Nat → Prop} {s t : State} (h : RegsOnly P s t) (hP : ∀ a, P a → ¬inWired a) : WiredKept s t :=
  ⟨congrArg (·.dt) h.rest, congrArg (·.port) h.rest, congrArg (·.sp) h.rest, congrArg (·.ul) h.rest, congrArg (·.podl) h.rest,
   congrArg (·.podlFlt) h.rest, fun a ha => h.regs a fun hp => hP a hp ha⟩

theorem Traffic.wiredKept {s t : State} (h : Traffic s t) : WiredKept s t :=
  ⟨congrArg (·.dt) h.rest, congrArg (·.port) h.rest, congrArg (·.sp) h.rest, congrArg (·.ul) h.rest, congrArg (·.podl) h.rest,
   congrArg (·.podlFlt) h.rest, fun a ha => h.regs a (by simp only [inTraffic]; omega)⟩

/-- What every command leaves beside its own effect. -/
theorem finish_wiredKept (s t : State) : WiredKept t (finish s t) := (finish_aside s t).wiredKept

theorem raiseFault_wiredKept (s : State) {cls : Nat} (hc : cls < 16) (src : Nat) (act : FltAction) (info : Nat) :
    WiredKept s (raiseFault s cls src act info) :=
  ((RegsOnly.refl s).raiseFault hc src act info).wiredKept fun a ha hw => by simp only [inFlt, inWired] at ha hw; omega

namespace WiredKept

theorem refl (s : State) : WiredKept s s := ⟨rfl, rfl, rfl, rfl, rfl, rfl, fun _ _ => rfl⟩

theorem trans {s t u : State} (h : WiredKept s t) (k : WiredKept t u) : WiredKept s u :=
  ⟨k.dt.trans h.dt, k.port.trans h.port, k.sp.trans h.sp, k.ul.trans h.ul, k.podl.trans h.podl, k.podlFlt.trans h.podlFlt,
   fun a ha => (k.regs a ha).trans (h.regs a ha)⟩

variable {s t : State} (h : WiredKept s t)
include h

theorem bit {a : Nat} (ha : inWired a) (i : Nat) : t.bit a i = s.bit a i := bit_of_reg (h.regs a ha)

theorem fld {a : Nat} (ha : inWired a) (lo len : Nat) : t.fld a lo len = s.fld a lo len := fld_of_reg (h.regs a ha) lo len

theorem regN {a : Nat} (ha : inWired a) : t.regN a = s.regN a := regN_of_reg (h.regs a ha)

theorem phy (n : Nat) : t.phy n = s.phy n := by rw [State.phy, h.sp]; rfl

theorem uplink (u : Nat) : t.uplink u = s.uplink u := by rw [State.uplink, h.ul]; rfl

theorem spLink (n : Fin 64) : spLink t n = spLink s n := h.bit (inWired_spReg n (by decide)) 0

end WiredKept

/-- A command whose own effect is `t` leaves the wired ports as in `t`. -/
theorem runs_of_wired {i : Instr} {s t : State} {P : State → Prop} (h : exec i s = done s t) (hp : ∀ v, WiredKept t v → P v) :
    Runs i s P := runs_of_done h (hp _ (finish_wiredKept s t))

/-- An accepted write acts on a state whose wired ports are those before it. -/
theorem runs_of_wiredWrite {i : Instr} {s : State} {time init a : Nat} {d : Word} {f : State → State} {P : State → Prop}
    (h : exec i s = done s (busDo (s.at time) init a 4 (some d) f)) (hacc : accepts s init a true = true)
    (hp : ∀ u, WiredKept (s.at time) u → ∀ v, WiredKept (f u) v → P v) : Runs i s P := by
  refine runs_of_busWrite h hacc fun u hu => ?_
  have hans : WiredKept (s.at time) ((s.at time).answer .ok) := ⟨rfl, rfl, rfl, rfl, rfl, rfl, fun _ _ => rfl⟩
  exact hp u (hans.trans hu.wiredKept) _ (finish_wiredKept s _)

end Sys2Proof.Machine
end

section
/-! The stall ports and uplinks family: negotiation, link up and down, noise floor and cable measurement of a stall port (O39; R327, R328,
R336 to R339). -/

namespace Sys2Proof.Machine

/-! ### The mode in use (R327) -/

section
variable (s : State) (n mode : Nat) (amp leader done : Bool)

/-- PHY_STAT with another mode in use. -/
theorem phyStat_setMode : (setMode s n mode amp leader done).reg (Reg.spPhyStat n) =
    putBit (putBit (putBit (putBits (s.reg (Reg.spPhyStat n)) 1 2 mode) 3 amp) 4 leader) 5 done := by
  unfold setMode
  dsimp only
  split
  · exact reg_setReg_same _ _ _
  · exact (reg_setNat_ne _ _ _ (spReg_ne (by decide))).trans (reg_setReg_same _ _ _)

theorem reg_setMode_ne {a : Nat} (hstat : a ≠ Reg.spPhyStat n) (hlat : a ≠ Reg.spPhyLat n) :
    (setMode s n mode amp leader done).reg a = s.reg a := by
  unfold setMode
  dsimp only
  split
  · exact reg_setFlds_ne _ _ _ hstat
  · rw [reg_setNat_ne _ _ _ hlat, reg_setFlds_ne _ _ _ hstat]

theorem fld_mode_setMode : (setMode s n mode amp leader done).fld (Reg.spPhyStat n) 1 2 = mode % 2 ^ 2 := by
  rw [State.fld, phyStat_setMode, bitsOf_putBit_out _ _ _ _ _ (.inl (by decide)), bitsOf_putBit_out _ _ _ _ _ (.inl (by decide)),
    bitsOf_putBit_out _ _ _ _ _ (.inl (by decide)), bitsOf_putBits_same _ _ _ _ (by decide)]

theorem bit_amplitude_setMode : (setMode s n mode amp leader done).bit (Reg.spPhyStat n) 3 = amp := by
  rw [State.bit, phyStat_setMode, bitOf_putBit_ne _ _ (by decide), bitOf_putBit_ne _ _ (by decide), bitOf_putBit_same _ _ _ (by decide)]

theorem bit_role_setMode : (setMode s n mode amp leader done).bit (Reg.spPhyStat n) 4 = leader := by
  rw [State.bit, phyStat_setMode, bitOf_putBit_ne _ _ (by decide), bitOf_putBit_same _ _ _ (by decide)]

theorem bit_anDone_setMode : (setMode s n mode amp leader done).bit (Reg.spPhyStat n) 5 = done := by
  rw [State.bit, phyStat_setMode, bitOf_putBit_same _ _ _ (by decide)]

theorem spLink_setMode : spLink (setMode s n mode amp leader done) n = spLink s n := by
  rw [spLink, State.bit, phyStat_setMode, bitOf_putBit_ne _ _ (by decide), bitOf_putBit_ne _ _ (by decide), bitOf_putBit_ne _ _ (by decide),
    bitOf_putBits_out _ _ _ _ _ (.inl (by decide))]
  rfl

theorem regN_phyLat_setMode (h : mode ≠ 0) : (setMode s n mode amp leader done).regN (Reg.spPhyLat n) = spLat mode := by
  have hlt : spLat mode < 2 ^ 32 := by unfold spLat; split <;> decide
  rw [setMode, if_neg h, regN_setNat_same, Nat.mod_eq_of_lt hlt]

end

/-! ### Link down (R328) -/

/-- The registers of a stall port as a link-down leaves them. -/
def linkLow (s : State) (n : Nat) : State :=
  (((s.setBit (Reg.spPhyStat n) 0 false).raise (Reg.spPhyIrqRaw n) 0).inc (Reg.spLinkDownCnt n)).setBit (Reg.spMse n) 16 false

theorem spDown_of_down {s : State} {n : Nat} (h : spLink s n = false) : spDown s n = s := by
  rw [spDown, h]; rfl

theorem adaptNow_eq (s : State) (n : Nat) : ∃ c d, adaptNow s n = s ∨ adaptNow s n = s.setPhy n { s.phy n with coef := c, coefAt := d } := by
  unfold adaptNow
  dsimp only
  split
  · exact ⟨{}, 0, .inl rfl⟩
  · exact ⟨_, _, .inr rfl⟩

@[simp] theorem adaptNow_regs (s : State) (n : Nat) : (adaptNow s n).regs = s.regs := by
  obtain ⟨c, d, h | h⟩ := adaptNow_eq s n <;> rw [h]; rfl

section
variable {s : State} {n : Nat} (h : spLink s n = true)
include h

/-- A link-down writes those registers, and adapts and logs beside. -/
theorem reg_spDown {a : Nat} (ha : inWired a) : (spDown s n).reg a = (linkLow s n).reg a := by
  unfold spDown
  rw [h, if_pos rfl]
  extract_lets held low
  have hheld : held.regs = s.regs := by
    simp only [held]
    split
    · rfl
    · exact adaptNow_regs s n
  have hlow : (low.setBit (Reg.spMse n) 16 false).regs = (linkLow s n).regs := by
    simp only [low, linkLow, State.setBit, State.raise, State.inc, State.addRc, State.setNat, State.setReg, State.regN, State.reg, hheld]
  exact ((raiseFault_wiredKept _ (by decide) _ _ _).regs a ha).trans (reg_congr _ hlow a)

variable (hn : n < 64)
include hn

theorem spLink_spDown_of_up : spLink (spDown s n) n = false := by
  have hw : inWired (Reg.spPhyStat n) := inWired_of_inPort hn (inPort_spReg (by decide))
  rw [spLink, bit_of_reg (reg_spDown h hw), linkLow, bit_of_reg (reg_setBit_ne _ _ _ _ ?_), bit_of_reg (reg_inc_ne _ _ ?_),
    bit_of_reg (reg_raise_ne _ _ _ ?_), bit_setBit_same _ _ _ _ (by decide)]
  all_goals exact spReg_ne (by decide)

theorem spDown_raises : (spDown s n).bit (Reg.spPhyIrqRaw n) 0 = true := by
  have hw : inWired (Reg.spPhyIrqRaw n) := inWired_of_inPort hn (inPort_spReg (by decide))
  rw [bit_of_reg (reg_spDown h hw), linkLow, bit_of_reg (reg_setBit_ne _ _ _ _ ?_), bit_of_reg (reg_inc_ne _ _ ?_),
    bit_raise_same _ _ _ (by decide)]
  all_goals exact spReg_ne (by decide)

theorem bit_mse_spDown : (spDown s n).bit (Reg.spMse n) 16 = false :=
  (bit_of_reg (reg_spDown h (inWired_of_inPort hn (inPort_spReg (by decide))))).trans (bit_setBit_same _ _ _ _ (by decide))

theorem regN_linkDownCnt_spDown_of_up :
    (spDown s n).regN (Reg.spLinkDownCnt n) = min (s.regN (Reg.spLinkDownCnt n) + 1) 0xFFFFFFFF := by
  have hw : inWired (Reg.spLinkDownCnt n) := inWired_of_inPort hn (inPort_spReg (by decide))
  rw [regN_of_reg (reg_spDown h hw), linkLow, regN_of_reg (reg_setBit_ne _ _ _ _ ?_), inc_regN_same,
    regN_of_reg (reg_raise_ne _ _ _ ?_), regN_of_reg (reg_setBit_ne _ _ _ _ ?_)]
  all_goals exact spReg_ne (by decide)

end

section
variable (s : State) {n : Nat} (hn : n < 64)
include hn

/-- The link is down after it, up or down before. -/
theorem spLink_spDown : spLink (spDown s n) n = false := by
  cases h : spLink s n
  · rw [spDown_of_down h, h]
  · exact spLink_spDown_of_up h hn

/-- It counts a link that was up. -/
theorem regN_linkDownCnt_spDown :
    (spDown s n).regN (Reg.spLinkDownCnt n) = min (s.regN (Reg.spLinkDownCnt n) + bnat (spLink s n)) 0xFFFFFFFF := by
  cases h : spLink s n
  · rw [spDown_of_down h]
    exact (min_regN s _).symm
  · exact regN_linkDownCnt_spDown_of_up h hn

/-- PHY_STAT above LINK is as it was. -/
theorem phyStat_spDown : ∃ b, (spDown s n).reg (Reg.spPhyStat n) = putBit (s.reg (Reg.spPhyStat n)) 0 b ∨
    (spDown s n).reg (Reg.spPhyStat n) = s.reg (Reg.spPhyStat n) := by
  cases h : spLink s n
  · exact ⟨false, .inr (by rw [spDown_of_down h])⟩
  · have hw : inWired (Reg.spPhyStat n) := inWired_of_inPort hn (inPort_spReg (by decide))
    refine ⟨false, .inl ?_⟩
    rw [reg_spDown h hw, linkLow, reg_setBit_ne _ _ _ _ ?_, reg_inc_ne _ _ ?_, reg_raise_ne _ _ _ ?_,
      reg_setBit_same]
    all_goals exact spReg_ne (by decide)

theorem fld_phyStat_spDown {lo : Nat} (hlo : 1 ≤ lo) (len : Nat) :
    (spDown s n).fld (Reg.spPhyStat n) lo len = s.fld (Reg.spPhyStat n) lo len := by
  obtain ⟨b, h | h⟩ := phyStat_spDown s hn
  · rw [State.fld, h, bitsOf_putBit_out _ _ _ _ _ (.inr (by omega))]; rfl
  · exact fld_of_reg h lo len

theorem bit_phyStat_spDown {i : Nat} (hi : 1 ≤ i) : (spDown s n).bit (Reg.spPhyStat n) i = s.bit (Reg.spPhyStat n) i := by
  obtain ⟨b, h | h⟩ := phyStat_spDown s hn
  · rw [State.bit, h, bitOf_putBit_ne _ _ (by omega)]; rfl
  · exact bit_of_reg h

/-- PHY_CTRL is none of the registers that it writes. -/
theorem phyCtrl_spDown : (spDown s n).reg (Reg.spPhyCtrl n) = s.reg (Reg.spPhyCtrl n) := by
  cases h : spLink s n
  · rw [spDown_of_down h]
  · have hw : inWired (Reg.spPhyCtrl n) := inWired_of_inPort hn (inPort_spReg (by decide))
    rw [reg_spDown h hw, linkLow, reg_setBit_ne _ _ _ _ ?_, reg_inc_ne _ _ ?_, reg_raise_ne _ _ _ ?_,
      reg_setBit_ne _ _ _ _ ?_]
    all_goals exact spReg_ne (by decide)

end

/-! ### AN_RESTART and AN_RESOLVED (R327) -/

theorem plainMask_phyCtrl : ∀ n, n < 64 → plainMask (Reg.spPhyCtrl n) = some 0xFF := by decide

/-- A write to PHY_CTRL that sets AN_EN leaves no mode in use and the link down. -/
theorem phyCtrlSet_of_anEn {s : State} {n : Nat} {d : Word} (h : (plainWrite s (Reg.spPhyCtrl n) d).bit (Reg.spPhyCtrl n) 5 = true) :
    phyCtrlSet s n d = spDown (setMode (plainWrite s (Reg.spPhyCtrl n) d) n 0 false false false) n := by
  unfold phyCtrlSet
  dsimp only
  split
  · rfl
  · exact if_pos h

theorem anRestart_runs {time : Nat} {init : Init} {n : Fin 64} {d : Word} {s : State} (hacc : accepts s init (Reg.spPhyCtrl n) true = true) :
    Runs (.anRestart time init n d) s fun t =>
      t.bit (Reg.spPhyCtrl n) 5 = true ∧ t.fld (Reg.spPhyStat n) 1 2 = 0 ∧ t.bit (Reg.spPhyStat n) 5 = false ∧
      spLink t n = false ∧ t.regN (Reg.spLinkDownCnt n) = min (s.regN (Reg.spLinkDownCnt n) + bnat (spLink s n)) 0xFFFFFFFF := by
  refine runs_of_wiredWrite rfl hacc fun u hu v hv => ?_
  have hmask := plainMask_phyCtrl n n.isLt
  have hctrl : inWired (Reg.spPhyCtrl n) := inWired_spReg n (by decide)
  have hstat : inWired (Reg.spPhyStat n) := inWired_spReg n (by decide)
  have hcnt : inWired (Reg.spLinkDownCnt n) := inWired_spReg n (by decide)
  have han : (plainWrite u (Reg.spPhyCtrl n) (d ||| 0x20)).bit (Reg.spPhyCtrl n) 5 = true := by
    rw [State.bit, reg_plainWrite_same hmask, bitOf, getLsbD_mergeMask, if_pos (by decide), BitVec.getLsbD_or]
    exact Bool.or_true _
  have hother : ∀ {a}, a ≠ Reg.spPhyCtrl n → (plainWrite u (Reg.spPhyCtrl n) (d ||| 0x20)).reg a = u.reg a :=
    fun ha => reg_plainWrite_ne hmask u _ ha
  rw [phyCtrlSet_of_anEn han] at hv
  rw [hv.bit hctrl, hv.fld hstat, hv.bit hstat, hv.spLink, hv.regN hcnt]
  refine ⟨?_, ?_, ?_, spLink_spDown _ n.isLt, ?_⟩
  · rw [bit_of_reg (phyCtrl_spDown _ n.isLt), bit_of_reg (reg_setMode_ne _ _ _ _ _ _ ?_ ?_), han]
    all_goals exact spReg_ne (by decide)
  · exact (fld_phyStat_spDown _ n.isLt (by decide) 2).trans (fld_mode_setMode _ _ _ _ _ _)
  · rw [bit_phyStat_spDown _ n.isLt (by decide), bit_anDone_setMode]
  · rw [regN_linkDownCnt_spDown _ n.isLt, spLink_setMode, spLink, bit_of_reg (hother ?_), hu.bit hstat,
      regN_of_reg (reg_setMode_ne _ _ _ _ _ _ ?_ ?_), regN_of_reg (hother ?_), hu.regN hcnt]
    · rfl
    all_goals exact spReg_ne (by decide)

/-- What both ends agree on is a mode. -/
theorem mode_ne_zero_of_anAgreed {s : State} {n mode : Nat} {amp : Bool} {lp : BitVec 5} (h : anAgreed s n mode amp lp = true) : mode ≠ 0 := by
  simp only [anAgreed, Bool.and_eq_true, decide_eq_true_eq] at h
  exact h.1.1

section
variable {time : Nat} {n : Fin 64} {mode : Fin 3} {amp leader : Bool} {lp : BitVec 5} {s : State} (hon : octetOn s n = true)
  (hmode : phyMode s n ≠ 0) (han : s.bit (Reg.spPhyCtrl n) 5 = true) (hopen : s.bit (Reg.spPhyStat n) 5 = false)

include hon hmode han hopen in
/-- A negotiation that ends in what both ends advertise. -/
theorem anResolved_agreed (h : anAgreed s n mode amp lp = true) : Runs (.anResolved time n mode amp leader lp) s fun t =>
    t.fld (Reg.spPhyStat n) 1 2 = mode.val ∧ t.bit (Reg.spPhyStat n) 3 = amp ∧ t.bit (Reg.spPhyStat n) 4 = leader ∧
    t.bit (Reg.spPhyStat n) 5 = true ∧ t.regN (Reg.spAnLp n) = lp.toNat ∧ t.regN (Reg.spPhyLat n) = spLat mode := by
  have hgo : (octetOn (s.at time) n && decide (phyMode (s.at time) n ≠ 0) && (s.at time).bit (Reg.spPhyCtrl n) 5 &&
      !(s.at time).bit (Reg.spPhyStat n) 5 && anAgreed (s.at time) n mode amp lp) = true := by
    show (octetOn s n && decide (phyMode s n ≠ 0) && s.bit (Reg.spPhyCtrl n) 5 && !s.bit (Reg.spPhyStat n) 5 &&
      anAgreed s n mode amp lp) = true
    rw [hon, decide_eq_true hmode, han, hopen, h]; rfl
  have hstat : inWired (Reg.spPhyStat n) := inWired_spReg n (by decide)
  have hlp : lp.toNat < 2 ^ 32 := Nat.lt_trans lp.isLt (by decide)
  refine runs_of_wired (congrArg (done s) (if_pos hgo)) fun v hv => ?_
  have hkeep : v.reg (Reg.spPhyStat n) = (setMode (s.at time) n mode amp leader true).reg (Reg.spPhyStat n) :=
    (hv.regs _ hstat).trans (reg_setNat_ne _ _ _ (spReg_ne (by decide)))
  rw [fld_of_reg hkeep, bit_of_reg hkeep, bit_of_reg hkeep, bit_of_reg hkeep, fld_mode_setMode, bit_amplitude_setMode, bit_role_setMode,
    bit_anDone_setMode, hv.regN ?_, regN_setNat_same, hv.regN ?_, regN_of_reg (reg_setNat_ne _ _ _ ?_),
    regN_phyLat_setMode _ _ _ _ _ _ (mode_ne_zero_of_anAgreed h)]
  · exact ⟨Nat.mod_eq_of_lt (by omega), rfl, rfl, rfl, Nat.mod_eq_of_lt hlp, rfl⟩
  · exact spReg_ne (by decide)
  all_goals exact inWired_spReg n (by decide)

/-- Any other end of it is no event. -/
theorem anResolved_disagreed (h : anAgreed s n mode amp lp = false) : Runs (.anResolved time n mode amp leader lp) s fun t =>
    t.reg (Reg.spPhyStat n) = s.reg (Reg.spPhyStat n) ∧ t.reg (Reg.spAnLp n) = s.reg (Reg.spAnLp n) := by
  have hno : ¬(octetOn (s.at time) n && decide (phyMode (s.at time) n ≠ 0) && (s.at time).bit (Reg.spPhyCtrl n) 5 &&
      !(s.at time).bit (Reg.spPhyStat n) 5 && anAgreed (s.at time) n mode amp lp) = true := by
    have hat : anAgreed (s.at time) n mode amp lp = false := h
    rw [hat, Bool.and_false]
    decide
  exact runs_of_wired (congrArg (done s) (if_neg hno)) fun v hv =>
    ⟨hv.regs _ (inWired_spReg n (by decide)), hv.regs _ (inWired_spReg n (by decide))⟩

end

/-! ### Link up and down (R328) -/

theorem stallLinkUp_runs {time : Nat} {n : Fin 64} {s : State} (hon : octetOn s n = true) (hlink : spLink s n = false)
    (hmode : s.fld (Reg.spPhyStat n) 1 2 ≠ 0) (htx : s.bit (Reg.spPhyCtrl n) 6 = false) (htdr : s.bit (Reg.spTdrStat n) 0 = false) :
    Runs (.stallLinkUp time n) s fun t =>
      spLink t n = true ∧ t.bit (Reg.spPhyIrqRaw n) 0 = true ∧ t.bit (Reg.spMse n) 16 = true ∧
      t.fld (Reg.spPhyStat n) 1 2 = s.fld (Reg.spPhyStat n) 1 2 := by
  have hgo : (octetOn (s.at time) n && !spLink (s.at time) n && decide ((s.at time).fld (Reg.spPhyStat n) 1 2 ≠ 0) &&
      !(s.at time).bit (Reg.spPhyCtrl n) 6 && !(s.at time).bit (Reg.spTdrStat n) 0) = true := by
    show (octetOn s n && !spLink s n && decide (s.fld (Reg.spPhyStat n) 1 2 ≠ 0) && !s.bit (Reg.spPhyCtrl n) 6 &&
      !s.bit (Reg.spTdrStat n) 0) = true
    rw [hon, hlink, decide_eq_true hmode, htx, htdr]; rfl
  refine runs_of_wired (congrArg (done s) (if_pos hgo)) fun v hv => ?_
  have hstat : v.reg (Reg.spPhyStat n) = putBit (s.reg (Reg.spPhyStat n)) 0 true := by
    rw [hv.regs _ ?_, reg_setBit_ne _ _ _ _ ?_, reg_raise_ne _ _ _ ?_, reg_setBit_same]
    · exact congrArg (putBit · 0 true) (reg_congr _ (adaptNow_regs _ _) _)
    · exact spReg_ne (by decide)
    · exact spReg_ne (by decide)
    · exact inWired_spReg n (by decide)
  refine ⟨?_, ?_, ?_, ?_⟩
  · rw [spLink, State.bit, hstat, bitOf_putBit_same _ _ _ (by decide)]
  · rw [hv.bit ?_, bit_of_reg (reg_setBit_ne _ _ _ _ ?_), bit_raise_same _ _ _ (by decide)]
    · exact spReg_ne (by decide)
    · exact inWired_spReg n (by decide)
  · exact (hv.bit (inWired_spReg n (by decide)) 16).trans (bit_setBit_same _ _ _ _ (by decide))
  · rw [State.fld, hstat, bitsOf_putBit_out _ _ _ _ _ (.inr (by decide))]
    rfl

theorem stallLinkDown_runs {time : Nat} {n : Fin 64} {s : State} {lost : Option Nat} (hon : octetOn s n = true) (hlink : spLink s n = true)
    (hlost : lost.all (fun d => decide (spDownNs s n ≤ d)) = true) : Runs (.stallLinkDown time ⟨n, lost⟩) s fun t =>
      spLink t n = false ∧ t.bit (Reg.spPhyIrqRaw n) 0 = true ∧ t.bit (Reg.spMse n) 16 = false ∧
      t.regN (Reg.spLinkDownCnt n) = min (s.regN (Reg.spLinkDownCnt n) + 1) 0xFFFFFFFF := by
  have hgo : (octetOn (s.at time) n && lost.all (fun d => decide (spDownNs (s.at time) n ≤ d))) = true := by
    show (octetOn s n && lost.all (fun d => decide (spDownNs s n ≤ d))) = true
    rw [hon, hlost]; rfl
  have hup : spLink (s.at time) n = true := hlink
  refine runs_of_wired (congrArg (done s) (if_pos hgo)) fun v hv => ?_
  rw [hv.spLink, hv.bit ?_, hv.bit ?_, hv.regN ?_]
  · exact ⟨spLink_spDown _ n.isLt, spDown_raises hup n.isLt, bit_mse_spDown hup n.isLt, regN_linkDownCnt_spDown_of_up hup n.isLt⟩
  all_goals exact inWired_spReg n (by decide)

/-! ### Noise floor (R336) -/

theorem portNfPeriodEnd_runs {time us : Nat} {n : Fin 64} {l p : BitVec 12} {s : State} (hon : octetOn s n = true)
    (hend : (s.phy n).nfAt + 1000000 * max 1 (s.fld (Reg.spNfCtrl n) 0 16) ≤ (s.at time).dt) :
    let quiet := if spLink s n && decide ((s.phy n).upAt ≤ (s.phy n).nfAt) then 0 else us
    Runs (.portNfPeriodEnd time n us l p) s fun t => (t.phy n).nfAt = (s.at time).dt ∧
      t.reg (Reg.spNf n) = if 10000 ≤ quiet then BitVec.ofNat 32 (l.toNat + 4096 * p.toNat) else putBit (s.reg (Reg.spNf n)) 31 true := by
  intro quiet
  have hgo : ¬(octetOn (s.at time) n = false ∨
      (s.at time).dt < ((s.at time).phy n).nfAt + 1000000 * max 1 ((s.at time).fld (Reg.spNfCtrl n) 0 16)) := by
    rintro (h | h)
    · exact absurd (h.symm.trans hon) (by decide)
    · exact absurd hend (Nat.not_le.2 h)
  refine runs_of_wired (congrArg (done s) (if_neg hgo)) fun v hv => ?_
  have hnf : v.reg (Reg.spNf n) = _ := hv.regs _ (inWired_spReg n (by decide))
  change WiredKept (if 10000 ≤ quiet then _ else _) v at hv
  rw [hv.phy, hnf]
  by_cases hq : 10000 ≤ quiet
  · rw [if_pos hq, if_pos hq]
    exact ⟨congrArg (·.nfAt) (phy_setPhy_same (s.at time) n _), (congrArg (State.reg · _) (if_pos hq)).trans (reg_setNat_same _ _ _)⟩
  · rw [if_neg hq, if_neg hq]
    exact ⟨congrArg (·.nfAt) (phy_setPhy_same (s.at time) n _), (congrArg (State.reg · _) (if_neg hq)).trans (reg_setBit_same _ _ _ _)⟩

/-! ### Cable measurement (R338, R339) -/

section
variable {time : Nat} {init : Init} {n : Fin 64} {s : State} (hacc : accepts s init (Reg.spTdrCmd n) true = true)
  (hidle : s.bit (Reg.spTdrStat n) 0 = false)
include hacc hidle

/-- What TDR_CMD.START does where no measurement runs. -/
theorem tdrStart_runs {P : State → Prop} (hp : ∀ u, WiredKept (s.at time) u → ∀ v, WiredKept
    (if spLink s n && !s.bit (Reg.spPhyCtrl n) 6 then u.setFld (Reg.spTdrStat n) 1 3 1
     else if (s.phy n).en || s.podl.en.getLsbD n then u.setFld (Reg.spTdrStat n) 1 3 2
     else (u.setPhy n { u.phy n with tdrHits := 0, tdrAt := u.dt }).setBit (Reg.spTdrStat n) 0 true) v → P v) :
    Runs (.tdrStart time init n) s P := by
  refine runs_of_wiredWrite rfl hacc fun u hu v hv => hp u hu v ?_
  have hbusy : u.bit (Reg.spTdrStat n) 0 = false := (hu.bit (inWired_spReg n (by decide)) 0).trans hidle
  have htx : u.bit (Reg.spPhyCtrl n) 6 = s.bit (Reg.spPhyCtrl n) 6 := hu.bit (inWired_spReg n (by decide)) 6
  have hen : (u.phy n).en = (s.phy n).en := congrArg (·.en) (hu.phy n)
  have hbus : u.podl.en.getLsbD n = s.podl.en.getLsbD n := congrArg (fun b => b.en.getLsbD n) hu.podl
  rw [tdrBegin, hbusy, if_neg (by decide), hu.spLink, htx, hen, hbus] at hv
  exact hv

theorem tdrStart_linkUp (hup : (spLink s n && !s.bit (Reg.spPhyCtrl n) 6) = true) : Runs (.tdrStart time init n) s fun t =>
    t.bit (Reg.spTdrStat n) 0 = false ∧ t.fld (Reg.spTdrStat n) 1 3 = 1 := by
  refine tdrStart_runs hacc hidle fun u hu v hv => ?_
  have hstat : inWired (Reg.spTdrStat n) := inWired_spReg n (by decide)
  rw [if_pos hup] at hv
  refine ⟨?_, (hv.fld hstat 1 3).trans (fld_setFld_same _ _ _ _ _ (by decide))⟩
  rw [hv.bit hstat, State.bit, reg_setFld_same, bitOf_putBits_out _ _ _ _ _ (.inl (by decide))]
  exact (hu.bit hstat 0).trans hidle

theorem tdrStart_powered (hup : (spLink s n && !s.bit (Reg.spPhyCtrl n) 6) = false) (hon : ((s.phy n).en || s.podl.en.getLsbD n) = true) :
    Runs (.tdrStart time init n) s fun t => t.bit (Reg.spTdrStat n) 0 = false ∧ t.fld (Reg.spTdrStat n) 1 3 = 2 := by
  refine tdrStart_runs hacc hidle fun u hu v hv => ?_
  have hstat : inWired (Reg.spTdrStat n) := inWired_spReg n (by decide)
  rw [hup, if_neg (by decide), if_pos hon] at hv
  refine ⟨?_, (hv.fld hstat 1 3).trans (fld_setFld_same _ _ _ _ _ (by decide))⟩
  rw [hv.bit hstat, State.bit, reg_setFld_same, bitOf_putBits_out _ _ _ _ _ (.inl (by decide))]
  exact (hu.bit hstat 0).trans hidle

theorem tdrStart_begins (hup : (spLink s n && !s.bit (Reg.spPhyCtrl n) 6) = false) (hon : ((s.phy n).en || s.podl.en.getLsbD n) = false) :
    Runs (.tdrStart time init n) s fun t => t.bit (Reg.spTdrStat n) 0 = true := by
  refine tdrStart_runs hacc hidle fun u hu v hv => ?_
  rw [hup, if_neg (by decide), hon, if_neg (by decide)] at hv
  exact (hv.bit (inWired_spReg n (by decide)) 0).trans (bit_setBit_same _ _ _ _ (by decide))

end

/-- TDR_STAT at the end of a measurement: no more BUSY, with a result and a number of reflections. -/
theorem tdrStat_ended (s : State) (a : Nat) {r k : Nat} (hr : r < 2 ^ 3) (hk : k < 2 ^ 3) :
    (s.setFlds a [(0, 1, 0), (1, 3, r), (4, 3, k)]).bit a 0 = false ∧ (s.setFlds a [(0, 1, 0), (1, 3, r), (4, 3, k)]).fld a 1 3 = r ∧
      (s.setFlds a [(0, 1, 0), (1, 3, r), (4, 3, k)]).fld a 4 3 = k := by
  simp only [State.bit, State.fld, reg_setFlds_same, List.foldl]
  refine ⟨?_, ?_, ?_⟩
  · rw [bitOf_putBits_out _ _ _ _ _ (.inl (by decide)), bitOf_putBits_out _ _ _ _ _ (.inl (by decide)),
      bitOf_putBits_in _ _ _ _ _ (by decide) (by decide)]
    exact Nat.zero_testBit _
  · rw [bitsOf_putBits_out _ _ _ _ _ _ (.inl (by decide)), bitsOf_putBits_same _ _ _ _ (by decide), Nat.mod_eq_of_lt hr]
  · rw [bitsOf_putBits_same _ _ _ _ (by decide), Nat.mod_eq_of_lt hk]

/-- The reflections written to TDR_EVT. -/
def tdrShown (s : State) (n : Nat) (l : List Reflection) : State :=
  s.each (List.range 4) (fun e u => u.setNat (Reg.spTdrEvt n e) ((l[e]?.map reflWord).getD 0))

theorem reg_tdrEvt_tdrShown (s : State) (n : Nat) (l : List Reflection) {e : Nat} (he : e < 4) :
    (tdrShown s n l).reg (Reg.spTdrEvt n e) = BitVec.ofNat 32 ((l[e]?.map reflWord).getD 0) := by
  have hne : ∀ {i j : Nat}, i ≠ j → Reg.spTdrEvt n i ≠ Reg.spTdrEvt n j := fun h => by simp only [Reg.spTdrEvt]; omega
  have hunfold : tdrShown s n l = (((s.setNat (Reg.spTdrEvt n 0) ((l[0]?.map reflWord).getD 0)).setNat (Reg.spTdrEvt n 1)
    ((l[1]?.map reflWord).getD 0)).setNat (Reg.spTdrEvt n 2) ((l[2]?.map reflWord).getD 0)).setNat (Reg.spTdrEvt n 3)
    ((l[3]?.map reflWord).getD 0) := rfl
  rw [hunfold]
  obtain rfl | rfl | rfl | rfl : e = 0 ∨ e = 1 ∨ e = 2 ∨ e = 3 := by omega
  · rw [reg_setNat_ne _ _ _ (hne (by decide)), reg_setNat_ne _ _ _ (hne (by decide)), reg_setNat_ne _ _ _ (hne (by decide)), reg_setNat_same]
  · rw [reg_setNat_ne _ _ _ (hne (by decide)), reg_setNat_ne _ _ _ (hne (by decide)), reg_setNat_same]
  · rw [reg_setNat_ne _ _ _ (hne (by decide)), reg_setNat_same]
  · exact reg_setNat_same _ _ _

section
variable {time : Nat} {n : Fin 64} {l : List Reflection} {s : State} (hbusy : s.bit (Reg.spTdrStat n) 0 = true)
include hbusy

/-- The end of a run that a fence trigger hit or spared, as the port's triggers say. -/
theorem exec_tdrDone {noisy : Bool} (h : tdrHit (s.phy n) = noisy) : exec (.tdrDone time n noisy l) s = done s
    (if noisy then
      if (s.phy n).tdrHits + 1 < 3 then
        (s.at time).setPhy n { s.phy n with tdrHits := (s.phy n).tdrHits + 1, tdrAt := (s.at time).dt }
      else ((s.at time).setFlds (Reg.spTdrStat n) [(0, 1, 0), (1, 3, 3), (4, 3, 0)]).raise (Reg.spPhyIrqRaw n) 3
    else
      let shown := (l.mergeSort (fun a b => decide (a.dist.toNat ≤ b.dist.toNat))).take 4
      ((tdrShown (s.at time) n shown).setFlds (Reg.spTdrStat n) [(0, 1, 0), (1, 3, 0), (4, 3, shown.length)]).raise (Reg.spPhyIrqRaw n) 3) := by
  have hgo : ¬((s.at time).bit (Reg.spTdrStat n) 0 = false ∨ noisy ≠ tdrHit ((s.at time).phy n)) := by
    rintro (hno | hno)
    · exact absurd (hno.symm.trans hbusy) (by decide)
    · exact hno h.symm
  exact congrArg (done s) (if_neg hgo)

theorem tdrDone_repeated (h : tdrHit (s.phy n) = true) (hfew : (s.phy n).tdrHits < 2) : Runs (.tdrDone time n true l) s fun t =>
    t.bit (Reg.spTdrStat n) 0 = true ∧ (t.phy n).tdrHits = (s.phy n).tdrHits + 1 := by
  have hex := exec_tdrDone (time := time) (l := l) hbusy h
  rw [if_pos rfl, if_pos (by omega)] at hex
  refine runs_of_wired hex fun v hv => ⟨(hv.bit (inWired_spReg n (by decide)) 0).trans hbusy, ?_⟩
  rw [hv.phy, phy_setPhy_same]

theorem tdrDone_noisy (h : tdrHit (s.phy n) = true) (hmany : 2 ≤ (s.phy n).tdrHits) : Runs (.tdrDone time n true l) s fun t =>
    t.bit (Reg.spTdrStat n) 0 = false ∧ t.fld (Reg.spTdrStat n) 1 3 = 3 ∧ t.fld (Reg.spTdrStat n) 4 3 = 0 := by
  have hex := exec_tdrDone (time := time) (l := l) hbusy h
  rw [if_pos rfl, if_neg (by omega)] at hex
  refine runs_of_wired hex fun v hv => ?_
  have hstat : v.reg (Reg.spTdrStat n) = ((s.at time).setFlds (Reg.spTdrStat n) [(0, 1, 0), (1, 3, 3), (4, 3, 0)]).reg (Reg.spTdrStat n) :=
    (hv.regs _ (inWired_spReg n (by decide))).trans (reg_raise_ne _ _ _ (spReg_ne (by decide)))
  rw [bit_of_reg hstat, fld_of_reg hstat, fld_of_reg hstat]
  exact tdrStat_ended _ _ (by decide) (by decide)

theorem tdrDone_shown (h : tdrHit (s.phy n) = false) : Runs (.tdrDone time n false l) s fun t =>
    let shown := (l.mergeSort (fun a b => decide (a.dist.toNat ≤ b.dist.toNat))).take 4
    t.bit (Reg.spTdrStat n) 0 = false ∧ t.fld (Reg.spTdrStat n) 1 3 = 0 ∧ t.bit (Reg.spPhyIrqRaw n) 3 = true ∧
    t.fld (Reg.spTdrStat n) 4 3 = shown.length ∧
    ∀ e, e < shown.length → t.regN (Reg.spTdrEvt n e) = ((shown[e]?.map reflWord).getD 0) % 2 ^ 32 := by
  have hex := exec_tdrDone (time := time) (l := l) hbusy h
  rw [if_neg (by decide)] at hex
  refine runs_of_wired hex fun v hv => ?_
  intro shown
  have hshort : shown.length ≤ 4 := List.length_take_le _ _
  have hstat : v.reg (Reg.spTdrStat n) = ((tdrShown (s.at time) n shown).setFlds (Reg.spTdrStat n)
      [(0, 1, 0), (1, 3, 0), (4, 3, shown.length)]).reg (Reg.spTdrStat n) :=
    (hv.regs _ (inWired_spReg n (by decide))).trans (reg_raise_ne _ _ _ (spReg_ne (by decide)))
  obtain ⟨hdone, hres, hcount⟩ := tdrStat_ended (tdrShown (s.at time) n shown) (Reg.spTdrStat n) (r := 0) (k := shown.length)
    (by decide) (by omega)
  rw [bit_of_reg hstat, fld_of_reg hstat, fld_of_reg hstat]
  refine ⟨hdone, hres, (hv.bit (inWired_spReg n (by decide)) 3).trans (bit_raise_same _ _ _ (by decide)), hcount, fun e he => ?_⟩
  have hwired : inWired (Reg.spTdrEvt n e) := by
    have := n.isLt
    simp only [inWired, Reg.spTdrEvt]; omega
  have hevt : v.reg (Reg.spTdrEvt n e) = (tdrShown (s.at time) n shown).reg (Reg.spTdrEvt n e) := by
    rw [hv.regs _ hwired, reg_raise_ne _ _ _ (by simp only [Reg.spTdrEvt, Reg.spPhyIrqRaw]; omega),
      reg_setFlds_ne _ _ _ (by simp only [Reg.spTdrEvt, Reg.spTdrStat]; omega)]
  rw [State.regN, hevt, reg_tdrEvt_tdrShown _ _ _ (by omega), BitVec.toNat_ofNat]

end

/-! ### The statement -/

/-- Settles O39: each clause is what one branch of its command leaves. -/
theorem stallLinksFollowTheirPhys : Obligations.StallLinksFollowTheirPhys := by
  unfold Obligations.StallLinksFollowTheirPhys
  refine ⟨fun time init n d s hacc => anRestart_runs hacc, fun time n mode amp leader lp s hon hmode han hopen => ⟨?_, ?_⟩,
    fun time n s hon => ⟨?_, ?_, ?_⟩, fun time init n s hacc hidle => ⟨?_, ?_, ?_⟩, fun time n l s hbusy => ⟨?_, ?_, ?_⟩⟩
  · exact anResolved_agreed hon hmode han hopen
  · exact anResolved_disagreed
  · exact stallLinkUp_runs hon
  · exact fun lost => stallLinkDown_runs hon
  · exact fun us l p => portNfPeriodEnd_runs hon
  · exact tdrStart_linkUp hacc hidle
  · exact tdrStart_powered hacc hidle
  · exact tdrStart_begins hacc hidle
  · intro h
    rw [h]
    exact tdrDone_repeated hbusy h
  · intro h
    rw [h]
    exact tdrDone_noisy hbusy h
  · intro h
    rw [h]
    exact tdrDone_shown hbusy h

end Sys2Proof.Machine
end

section
/-! The stall ports and uplinks family: what an operation on one stall port leaves of the others, and the freezing of a port (R330, R331). -/

namespace Sys2Proof.Machine

/-! ### One stall port of the sixty-four -/

/-- `t` differs from `s` in the PHY and the registers of stall port `n` and in the fault log alone. -/
structure PhyOnly (n : Nat) (s t : State) : Prop where
  regs : ∀ a, ¬inPort n a → ¬inFlt a → t.reg a = s.reg a
  others : ∀ j, j ≠ n → t.phy j = s.phy j
  rest : { t with regs := [], sp := [] } = { s with regs := [], sp := [] }

namespace PhyOnly

variable {n : Nat} {s t : State}

theorem refl (s : State) : PhyOnly n s s := ⟨fun _ _ _ => rfl, fun _ _ => rfl, rfl⟩

theorem trans {u : State} (h : PhyOnly n s t) (k : PhyOnly n t u) : PhyOnly n s u :=
  ⟨fun a ha hf => (k.regs a ha hf).trans (h.regs a ha hf), fun j hj => (k.others j hj).trans (h.others j hj), k.rest.trans h.rest⟩

theorem setReg (h : PhyOnly n s t) {a : Nat} (v : Word) (ha : inPort n a) : PhyOnly n s (t.setReg a v) :=
  h.trans ⟨fun _ hq _ => reg_setReg_ne _ _ (by rintro rfl; exact hq ha), fun _ _ => rfl, rfl⟩

theorem setPhy (h : PhyOnly n s t) (x : SpState) : PhyOnly n s (t.setPhy n x) :=
  h.trans ⟨fun _ _ _ => rfl, fun _ hj => phy_setPhy_ne _ _ _ hj, rfl⟩

theorem ite {c : Prop} [Decidable c] {u : State} (h : c → PhyOnly n s t) (k : ¬c → PhyOnly n s u) : PhyOnly n s (if c then t else u) := by
  split
  · next hc => exact h hc
  · next hc => exact k hc

theorem raiseFault (h : PhyOnly n s t) {cls : Nat} (hc : cls < 16) (src : Nat) (act : FltAction) (info : Nat) :
    PhyOnly n s (raiseFault t cls src act info) := by
  have hf := (RegsOnly.refl t).raiseFault hc src act info
  refine h.trans ⟨fun a _ ha => hf.regs a ha, fun j _ => ?_, ?_⟩
  · exact show (Machine.raiseFault t cls src act info).unregistered.phy j = t.unregistered.phy j by rw [hf.rest]
  · exact show { (Machine.raiseFault t cls src act info).unregistered with sp := [] } = { t.unregistered with sp := [] } by rw [hf.rest]

theorem adaptNow (h : PhyOnly n s t) : PhyOnly n s (adaptNow t n) := by
  obtain ⟨c, d, he | he⟩ := adaptNow_eq t n
  · rwa [he]
  · rw [he]
    exact h.setPhy _

theorem dt (h : PhyOnly n s t) : t.dt = s.dt :=
  show { t with regs := [], sp := [] }.dt = { s with regs := [], sp := [] }.dt by rw [h.rest]

theorem podl (h : PhyOnly n s t) : t.podl = s.podl :=
  show { t with regs := [], sp := [] }.podl = { s with regs := [], sp := [] }.podl by rw [h.rest]

end PhyOnly

/-- What the frames of the expander bus carry, and the output registers of port `n`. -/
def State.busOf (s : State) (n : Nat) : List Bool × List Bool × Bool × Bool :=
  (s.podl.sdo, s.podl.sdi, s.podl.en.getLsbD n, s.podl.dis.getLsbD n)

/-- `t` has of `s` the time and all that is stall port `n`'s: its PHY, its output registers, and the registers of its block and of TOP. -/
structure SamePort (n : Nat) (s t : State) : Prop where
  dt : t.dt = s.dt
  phy : t.phy n = s.phy n
  bus : t.busOf n = s.busOf n
  regs : ∀ a, inPort n a ∨ a < 0x40001000 → t.reg a = s.reg a

namespace SamePort

variable {n : Nat} {s t : State}

theorem refl (s : State) : SamePort n s s := ⟨rfl, rfl, rfl, fun _ _ => rfl⟩

theorem trans {u : State} (h : SamePort n s t) (k : SamePort n t u) : SamePort n s u :=
  ⟨k.dt.trans h.dt, k.phy.trans h.phy, k.bus.trans h.bus, fun a ha => (k.regs a ha).trans (h.regs a ha)⟩

theorem octetOn (h : SamePort n s t) (hn : n < 64) : octetOn t n = octetOn s n :=
  bit_of_reg (h.regs _ (.inr (by simp only [Reg.topIslStat]; omega)))

theorem octetUp (h : SamePort n s t) (hn : n < 64) : octetUp t n = octetUp s n := by
  have hstat : t.reg (Reg.topIslStat (11 + n / 8)) = s.reg (Reg.topIslStat (11 + n / 8)) :=
    h.regs _ (.inr (by simp only [Reg.topIslStat]; omega))
  simp only [Machine.octetUp, islUp, islPowered, islInReset, State.bit, hstat]

/-- An operation for each port of a list without `n`. -/
theorem each {l : List Nat} {f : Nat → State → State} (hl : n ∉ l) (hf : ∀ k u, k ≠ n → SamePort n u (f k u)) (s : State) :
    SamePort n s (s.each l f) :=
  each_ind s (fun u => SamePort n s u) l f (refl s) fun k hk u hu => hu.trans (hf k u fun e => hl (e ▸ hk))

end SamePort

/-- An operation on another port. -/
theorem PhyOnly.samePort {k n : Nat} {s t : State} (h : PhyOnly k s t) (hk : k ≠ n) : SamePort n s t where
  dt := h.dt
  phy := h.others n hk.symm
  bus := by rw [State.busOf, h.podl]; rfl
  regs a ha := h.regs a (by simp only [inPort] at *; omega) (by simp only [inFlt, inPort] at *; omega)

theorem noteReg_of_lt {a : Nat} (h : a < 0x40001000) : noteReg a = false := by
  simp only [noteReg, mapReg, tapReg, Bool.or_eq_false_iff, Bool.and_eq_false_iff, decide_eq_false_iff_not, List.contains_cons,
    List.contains_nil, List.any_cons, List.any_nil, beq_eq_false_iff_ne]
  simp only [Reg.tsTsStat, Reg.tsTaskView, Reg.tsTaskFlags, Reg.topPndStat, Reg.topPndXcnt, Reg.topPndTotLo, Reg.topPndTotHi,
    Reg.topPndPkts, Reg.tpTpStat, Reg.tpLost, Reg.tpIrqRaw, Reg.tpMarkStat, and_true]
  and_intros <;> omega

/-- What every command leaves beside its own effect. -/
theorem finish_samePort {n : Nat} (hn : n < 64) (s t : State) : SamePort n t (finish s t) :=
  have h := finish_wiredKept s t
  ⟨h.dt, h.phy n, by rw [State.busOf, h.podl]; rfl,
   fun a ha => ha.elim (fun hp => h.regs a (inWired_of_inPort hn hp)) fun hlow => finish_reg s t a (noteReg_of_lt hlow)⟩

/-- An operation done for every stall port does for port `n` what it does to a state that agrees with the first in all that is
port `n`'s. -/
theorem each_stallPorts {n : Nat} (hn : n < 64) {f : Nat → State → State} (hf : ∀ k u, k ≠ n → SamePort n u (f k u)) (s : State) :
    ∃ u, SamePort n s u ∧ SamePort n (f n u) (s.each stallPorts f) := by
  obtain ⟨l, r, hlr⟩ := List.append_of_mem (List.mem_range.2 hn)
  have hnd : (l ++ n :: r).Nodup := hlr ▸ List.nodup_range
  have hout : n ∉ l ++ r := (List.nodup_middle.1 hnd).notMem
  refine ⟨s.each l f, .each (fun h => hout (List.mem_append_left _ h)) hf s, ?_⟩
  have hall : s.each stallPorts f = (f n (s.each l f)).each r f := by
    rw [stallPorts, hlr]
    exact List.foldl_append
  rw [hall]
  exact .each (fun h => hout (List.mem_append_right _ h)) hf _

/-! ### Freezing (R330, R331) -/

/-- `t` differs from `s` in what the beginning or the end of a freeze of port `n` moves: FREEZE_CNT, the coefficients and the last
release. -/
structure Refrozen (n : Nat) (s t : State) : Prop where
  regs : ∀ a, a ≠ Reg.spFreezeCnt n → t.reg a = s.reg a
  phy : ∃ c d r, t.phy n = { s.phy n with coef := c, coefAt := d, rel := r }

namespace Refrozen

variable {n : Nat} {s t : State}

theorem refl (s : State) : Refrozen n s s := ⟨fun _ _ => rfl, _, _, _, rfl⟩

theorem trans {u : State} (h : Refrozen n s t) (k : Refrozen n t u) : Refrozen n s u := by
  obtain ⟨c, d, r, hx⟩ := h.phy
  obtain ⟨c', d', r', hy⟩ := k.phy
  exact ⟨fun a ha => (k.regs a ha).trans (h.regs a ha), c', d', r', by rw [hy, hx]⟩

theorem adaptNow (s : State) (n : Nat) : Refrozen n s (adaptNow s n) := by
  refine ⟨fun a _ => reg_congr _ (adaptNow_regs s n) a, ?_⟩
  obtain ⟨c, d, he | he⟩ := adaptNow_eq s n
  · exact ⟨_, _, _, congrArg (State.phy · n) he⟩
  · exact ⟨c, d, (s.phy n).rel, by rw [he, phy_setPhy_same]⟩

theorem freezeBegin (s : State) (n : Nat) : Refrozen n s (freezeBegin s n) := by
  have hback : ∀ w, Refrozen n s (s.setReg (Reg.spFreezeCnt n) w) := fun w => ⟨fun _ ha => reg_setReg_ne _ _ ha, _, _, _, rfl⟩
  unfold Machine.freezeBegin
  extract_lets back
  have hb : Refrozen n s back := by
    simp only [back]
    split
    · exact refl s
    · split
      · exact hback _
      · exact refl s
  split
  · exact hb.trans (adaptNow back n)
  · exact hb

theorem freezeEnd (s : State) (n : Nat) : Refrozen n s (freezeEnd s n) :=
  ⟨fun _ ha => reg_inc_ne _ _ ha, _, _, _, phy_setPhy_same _ _ _⟩

end Refrozen

section
variable (s : State) (n : Nat)

/-- PHY_STAT.FROZEN, FENCE_STAT and FENCE_PERIOD as the sources of port `n` have them. -/
def freezeShown : State :=
  ((s.setFlds (Reg.spFenceStat n) [(0, 1, bnat ((s.phy n).trig.isSome || (s.phy n).win)), (1, 1, bnat (s.phy n).per.isSome)]).setNat
    (Reg.spFencePeriod n) (match (s.phy n).per with
      | none => 0
      | some p => p.mean / (1000 * 2 ^ p.exp))).setBit (Reg.spPhyStat n) 6 (frozen s n)

theorem reviewFreeze_eq : reviewFreeze s n =
    if s.bit (Reg.spPhyStat n) 6 && !frozen s n then freezeEnd (freezeShown s n) n
    else if !s.bit (Reg.spPhyStat n) 6 && frozen s n then freezeBegin (freezeShown s n) n else freezeShown s n := rfl

theorem reviewFreeze_refrozen : Refrozen n (freezeShown s n) (reviewFreeze s n) := by
  rw [reviewFreeze_eq]
  split
  · exact .freezeEnd _ n
  · split
    · exact .freezeBegin _ n
    · exact .refl _

theorem phy_reviewFreeze : ∃ c d r, (reviewFreeze s n).phy n = { s.phy n with coef := c, coefAt := d, rel := r } :=
  (reviewFreeze_refrozen s n).phy

theorem reg_reviewFreeze_ne {a : Nat} (hfence : a ≠ Reg.spFenceStat n) (hperiod : a ≠ Reg.spFencePeriod n) (hstat : a ≠ Reg.spPhyStat n)
    (hcnt : a ≠ Reg.spFreezeCnt n) : (reviewFreeze s n).reg a = s.reg a := by
  rw [(reviewFreeze_refrozen s n).regs a hcnt, freezeShown, reg_setBit_ne _ _ _ _ hstat, reg_setNat_ne _ _ _ hperiod,
    reg_setFlds_ne _ _ _ hfence]

theorem phyStat_reviewFreeze : (reviewFreeze s n).reg (Reg.spPhyStat n) = putBit (s.reg (Reg.spPhyStat n)) 6 (frozen s n) := by
  rw [(reviewFreeze_refrozen s n).regs _ ?_, freezeShown, reg_setBit_same, reg_setNat_ne _ _ _ ?_, reg_setFlds_ne _ _ _ ?_]
  all_goals exact spReg_ne (by decide)

/-- PHY_STAT.FROZEN follows the sources. -/
theorem bit_frozen_reviewFreeze : (reviewFreeze s n).bit (Reg.spPhyStat n) 6 = frozen s n := by
  rw [State.bit, phyStat_reviewFreeze, bitOf_putBit_same _ _ _ (by decide)]

theorem fenceStat_reviewFreeze : (reviewFreeze s n).reg (Reg.spFenceStat n) =
    putBit (putBit (s.reg (Reg.spFenceStat n)) 0 ((s.phy n).trig.isSome || (s.phy n).win)) 1 (s.phy n).per.isSome := by
  rw [(reviewFreeze_refrozen s n).regs _ ?_, freezeShown, reg_setBit_ne _ _ _ _ ?_, reg_setNat_ne _ _ _ ?_, reg_setFlds_same]
  · rfl
  all_goals exact spReg_ne (by decide)

/-- FENCE_STAT.ACTIVE shows a trigger or a predicted window. -/
theorem bit_active_reviewFreeze :
    (reviewFreeze s n).bit (Reg.spFenceStat n) 0 = ((s.phy n).trig.isSome || (s.phy n).win) := by
  rw [State.bit, fenceStat_reviewFreeze, bitOf_putBit_ne _ _ (by decide), bitOf_putBit_same _ _ _ (by decide)]

/-- FENCE_STAT.LOCKED shows a learned period. -/
theorem bit_locked_reviewFreeze : (reviewFreeze s n).bit (Reg.spFenceStat n) 1 = (s.phy n).per.isSome := by
  rw [State.bit, fenceStat_reviewFreeze, bitOf_putBit_same _ _ _ (by decide)]

/-- The end of a frozen interval counts. -/
theorem regN_freezeCnt_reviewFreeze (hwas : s.bit (Reg.spPhyStat n) 6 = true) (hnow : frozen s n = false) :
    (reviewFreeze s n).regN (Reg.spFreezeCnt n) = min (s.regN (Reg.spFreezeCnt n) + 1) 0xFFFFFFFF := by
  have hsame : (freezeShown s n).reg (Reg.spFreezeCnt n) = s.reg (Reg.spFreezeCnt n) := by
    rw [freezeShown, reg_setBit_ne _ _ _ _ ?_, reg_setNat_ne _ _ _ ?_, reg_setFlds_ne _ _ _ ?_]
    all_goals exact spReg_ne (by decide)
  have hend : reviewFreeze s n = freezeEnd (freezeShown s n) n := by
    rw [reviewFreeze_eq, hwas, hnow]; rfl
  rw [hend, freezeEnd, inc_regN_same, ← regN_of_reg hsame]
  rfl

theorem freezeBegin_phyOnly : PhyOnly n s (freezeBegin s n) := by
  have hback : ∀ w, PhyOnly n s (s.setReg (Reg.spFreezeCnt n) w) := fun w => (PhyOnly.refl s).setReg w (inPort_spReg (by decide))
  unfold freezeBegin
  extract_lets back
  have hb : PhyOnly n s back := by
    simp only [back]
    split
    · exact .refl s
    · exact .ite (fun _ => hback _) fun _ => .refl s
  exact .ite (fun _ => hb.adaptNow) fun _ => hb

theorem reviewFreeze_phyOnly : PhyOnly n s (reviewFreeze s n) := by
  have hshown : PhyOnly n s (freezeShown s n) :=
    (((PhyOnly.refl s).setReg _ (inPort_spReg (by decide))).setReg _ (inPort_spReg (by decide))).setReg _ (inPort_spReg (by decide))
  rw [reviewFreeze_eq]
  refine .ite (fun _ => ?_) fun _ => .ite (fun _ => hshown.trans (freezeBegin_phyOnly _ n)) fun _ => hshown
  exact (hshown.setPhy _).setReg _ (inPort_spReg (by decide))

/-- Whether a source freezes port `n` with its PHY at `x`. -/
def frozenBy (x : SpState) : Bool := s.bit (Reg.spAdaptCtrl n) 0 || x.trig.isSome || x.win || x.pwr.isSome

theorem frozen_eq : frozen s n = frozenBy s n (s.phy n) := rfl

variable (x : SpState)

theorem frozen_setPhy : frozen (s.setPhy n x) n = frozenBy s n x := by
  rw [frozen_eq, phy_setPhy_same]; rfl

theorem phy_putPhy : ∃ c d r, (putPhy s n x).phy n = { x with coef := c, coefAt := d, rel := r } := by
  obtain ⟨c, d, r, h⟩ := phy_reviewFreeze (s.setPhy n x) n
  exact ⟨c, d, r, by rw [putPhy, h, phy_setPhy_same]⟩

theorem putPhy_phyOnly : PhyOnly n s (putPhy s n x) := ((PhyOnly.refl s).setPhy x).trans (reviewFreeze_phyOnly _ n)

theorem bit_frozen_putPhy : (putPhy s n x).bit (Reg.spPhyStat n) 6 = frozenBy s n x :=
  (bit_frozen_reviewFreeze _ n).trans (frozen_setPhy s n x)

theorem bit_active_putPhy : (putPhy s n x).bit (Reg.spFenceStat n) 0 = (x.trig.isSome || x.win) := by
  rw [putPhy, bit_active_reviewFreeze, phy_setPhy_same]

theorem bit_locked_putPhy : (putPhy s n x).bit (Reg.spFenceStat n) 1 = x.per.isSome := by
  rw [putPhy, bit_locked_reviewFreeze, phy_setPhy_same]

theorem regN_freezeCnt_putPhy (hwas : s.bit (Reg.spPhyStat n) 6 = true) (hnow : frozenBy s n x = false) :
    (putPhy s n x).regN (Reg.spFreezeCnt n) = min (s.regN (Reg.spFreezeCnt n) + 1) 0xFFFFFFFF :=
  regN_freezeCnt_reviewFreeze (s.setPhy n x) n hwas ((frozen_setPhy s n x).trans hnow)

end

end Sys2Proof.Machine
end

section
/-! The stall ports and uplinks family: fence triggers, their sources that stick, and their learned period (O40; R331 to R334). -/

namespace Sys2Proof.Machine

/-! ### Sources of a trigger (R332, R333) -/

/-- What the start of a trigger teaches moves the starts, the period and the window alone (R334). -/
theorem fenceLearn_eq (s : State) (n d : Nat) (x : SpState) : ∃ l p w, fenceLearn s n d x = { x with starts := l, per := p, win := w } := by
  unfold fenceLearn
  split
  · exact ⟨_, _, _, rfl⟩
  · split
    · exact ⟨_, _, _, rfl⟩
    · dsimp only
      split <;> exact ⟨_, _, _, rfl⟩

theorem fenceSource_phyOnly (s : State) (n k : Nat) : PhyOnly n s (fenceSource s n k) := by
  unfold fenceSource
  exact .ite (fun _ => .refl s) fun _ => .ite (fun _ => putPhy_phyOnly s n _) fun _ => putPhy_phyOnly s n _

section
variable {s : State} {n k : Nat} (hon : octetOn s n = true)
include hon

/-- The source of a port without a trigger starts one. -/
theorem fenceSource_starts (htrig : (s.phy n).trig = none) :
    ((fenceSource s n k).phy n).trig = some s.dt ∧ ((fenceSource s n k).phy n).src = [k] ∧
    (fenceSource s n k).bit (Reg.spFenceStat n) 0 = true ∧ (fenceSource s n k).bit (Reg.spPhyStat n) 6 = true ∧
    k ∉ ((fenceSource s n k).phy n).ign := by
  obtain ⟨l, p, w, hlearn⟩ := fenceLearn_eq s n s.dt { s.phy n with
    src := [k], srcAt := s.dt, ign := (s.phy n).ign.filter (fun j => j != k), trig := some s.dt, trigFrom := s.dt }
  have hstart : fenceSource s n k = putPhy s n { s.phy n with
      src := [k], srcAt := s.dt, ign := (s.phy n).ign.filter (fun j => j != k), trig := some s.dt, trigFrom := s.dt,
      starts := l, per := p, win := w } := by
    rw [fenceSource, hon, if_neg (by decide), htrig]
    exact congrArg (putPhy s n) hlearn
  rw [hstart, bit_active_putPhy, bit_frozen_putPhy]
  obtain ⟨c, d, r, hphy⟩ := phy_putPhy s n { s.phy n with
    src := [k], srcAt := s.dt, ign := (s.phy n).ign.filter (fun j => j != k), trig := some s.dt, trigFrom := s.dt,
    starts := l, per := p, win := w }
  rw [hphy]
  refine ⟨rfl, rfl, rfl, ?_, ?_⟩
  · simp only [frozenBy, Option.isSome_some, Bool.or_true, Bool.true_or]
  · simp

/-- That of a port with a trigger lasts within it. -/
theorem fenceSource_lasts (htrig : (s.phy n).trig ≠ none) :
    ((fenceSource s n k).phy n).trig = (s.phy n).trig ∧ k ∈ ((fenceSource s n k).phy n).src ∧
    ((fenceSource s n k).phy n).srcAt = s.dt := by
  have hlast : fenceSource s n k = putPhy s n { s.phy n with
      src := ((s.phy n).src ++ [k]).eraseDups, srcAt := s.dt, ign := (s.phy n).ign.filter (fun j => j != k) } := by
    rw [fenceSource, hon, if_neg (by decide)]
    exact if_pos (Option.isSome_iff_ne_none.2 htrig)
  obtain ⟨c, d, r, hphy⟩ := phy_putPhy s n { s.phy n with
    src := ((s.phy n).src ++ [k]).eraseDups, srcAt := s.dt, ign := (s.phy n).ign.filter (fun j => j != k) }
  rw [hlast, hphy]
  exact ⟨rfl, List.mem_eraseDups.2 (List.mem_append_right _ (List.mem_singleton_self k)), rfl⟩

end

/-! ### FENCE_SENSE_ASSERT and IMPULSE_DETECT (R332) -/

/-- What a rising pin does at one stall port. -/
def senseAt (pin n : Nat) (s : State) : State := if s.bit (Reg.spFenceCfg n) pin then fenceSource s n pin else s

section
variable {time : Nat} {pin : Fin 4} {s : State} {n : Nat} (hn : n < 64)
include hn

/-- A rising pin does at each stall port what it does there alone. -/
theorem fenceSenseAssert_runs {P : State → Prop}
    (hp : ∀ u, SamePort n (s.at time) u → ∀ v, SamePort n (senseAt pin n u) v → P v) : Runs (.fenceSenseAssert time pin) s P := by
  have hother : ∀ k u, k ≠ n → SamePort n u (senseAt pin k u) := fun k u hk =>
    (PhyOnly.ite (fun _ => fenceSource_phyOnly u k pin) fun _ => .refl u).samePort hk
  obtain ⟨u, hu, hall⟩ := each_stallPorts hn hother (s.at time)
  exact runs_of_done rfl (hp u hu _ (hall.trans (finish_samePort hn _ _)))

theorem fenceSenseAssert_starts (hsel : s.bit (Reg.spFenceCfg n) pin = true) (hon : octetOn s n = true) (htrig : (s.phy n).trig = none) :
    Runs (.fenceSenseAssert time pin) s fun t =>
      (t.phy n).trig = some (s.at time).dt ∧ (t.phy n).src = [pin.val] ∧ t.bit (Reg.spFenceStat n) 0 = true ∧
      t.bit (Reg.spPhyStat n) 6 = true ∧ pin.val ∉ (t.phy n).ign := by
  refine fenceSenseAssert_runs hn fun u hu v hv => ?_
  have hcfg : u.bit (Reg.spFenceCfg n) pin = true := (bit_of_reg (hu.regs _ (.inl (inPort_spReg (by decide))))).trans hsel
  have hu_on : octetOn u n = true := (hu.octetOn hn).trans hon
  rw [senseAt, if_pos hcfg] at hv
  rw [hv.phy, bit_of_reg (hv.regs (Reg.spFenceStat n) (.inl (inPort_spReg (by decide)))),
    bit_of_reg (hv.regs (Reg.spPhyStat n) (.inl (inPort_spReg (by decide)))), ← hu.dt]
  exact fenceSource_starts hu_on ((congrArg (·.trig) hu.phy).trans htrig)

theorem fenceSenseAssert_lasts (hsel : s.bit (Reg.spFenceCfg n) pin = true) (hon : octetOn s n = true) (htrig : (s.phy n).trig ≠ none) :
    Runs (.fenceSenseAssert time pin) s fun t =>
      (t.phy n).trig = (s.phy n).trig ∧ pin.val ∈ (t.phy n).src ∧ (t.phy n).srcAt = (s.at time).dt := by
  refine fenceSenseAssert_runs hn fun u hu v hv => ?_
  have hcfg : u.bit (Reg.spFenceCfg n) pin = true := (bit_of_reg (hu.regs _ (.inl (inPort_spReg (by decide))))).trans hsel
  have hu_on : octetOn u n = true := (hu.octetOn hn).trans hon
  have hu_trig : (u.phy n).trig = (s.phy n).trig := congrArg (·.trig) hu.phy
  rw [senseAt, if_pos hcfg] at hv
  rw [hv.phy, ← hu.dt, ← hu_trig]
  exact fenceSource_lasts hu_on (hu_trig ▸ htrig)

theorem fenceSenseAssert_unselected (hsel : s.bit (Reg.spFenceCfg n) pin = false) :
    Runs (.fenceSenseAssert time pin) s fun t => t.phy n = s.phy n := by
  refine fenceSenseAssert_runs hn fun u hu v hv => ?_
  have hcfg : u.bit (Reg.spFenceCfg n) pin = false := (bit_of_reg (hu.regs _ (.inl (inPort_spReg (by decide))))).trans hsel
  rw [senseAt, hcfg, if_neg (by decide)] at hv
  exact hv.phy.trans hu.phy

end

section
variable {time : Nat} {n : Fin 64} {err : Rat} {s : State}

theorem impulseDetect_starts (hsel : s.bit (Reg.spFenceCfg n) 4 = true) (hon : octetOn s n = true) (htrig : (s.phy n).trig = none)
    (herr : ((s.fld (Reg.spFenceCfg n) 8 8 : Nat) : Rat) < 256 * err) : Runs (.impulseDetect time ⟨n, err⟩) s fun t =>
      (t.phy n).trig = some (s.at time).dt ∧ (t.phy n).src = [4] ∧ t.bit (Reg.spPhyStat n) 6 = true ∧
      ∀ m, m < 64 → m ≠ n.val → t.phy m = s.phy m := by
  have hgo : ((s.at time).bit (Reg.spFenceCfg n) 4 && decide (((s.at time).fld (Reg.spFenceCfg n) 8 8 : Rat) < 256 * err)) = true := by
    show (s.bit (Reg.spFenceCfg n) 4 && decide ((s.fld (Reg.spFenceCfg n) 8 8 : Rat) < 256 * err)) = true
    rw [hsel, decide_eq_true herr]; rfl
  have hon' : octetOn (s.at time) n = true := hon
  have htrig' : ((s.at time).phy n).trig = none := htrig
  obtain ⟨hstart, hsrc, -, hfrozen, -⟩ := fenceSource_starts (k := 4) hon' htrig'
  refine runs_of_wired (congrArg (done s) (if_pos hgo)) fun v hv => ?_
  rw [hv.phy, hv.bit ?_]
  · exact ⟨hstart, hsrc, hfrozen, fun m _ hm => (hv.phy m).trans ((fenceSource_phyOnly _ _ _).others m hm)⟩
  · exact inWired_spReg n (by decide)

/-- An error at or below the threshold is no event. -/
theorem impulseDetect_below (herr : 256 * err ≤ ((s.fld (Reg.spFenceCfg n) 8 8 : Nat) : Rat)) :
    Runs (.impulseDetect time ⟨n, err⟩) s fun t => t.sp = s.sp := by
  have hno : ¬((s.at time).bit (Reg.spFenceCfg n) 4 && decide (((s.at time).fld (Reg.spFenceCfg n) 8 8 : Rat) < 256 * err)) = true := by
    rw [Bool.and_eq_true, decide_eq_true_eq]
    exact fun h => absurd herr (not_le.2 h.2)
  exact runs_of_wired (congrArg (done s) (if_neg hno)) fun v hv => hv.sp

/-! ### The end of a trigger (R332, R333) -/

variable {d : Nat}

section
variable {quiet : Nat} (htrig : (s.phy n).trig = some d) (hsrc : (s.phy n).srcAt ≤ quiet)
  (hpost : quiet + 1000 * s.fld (Reg.spFenceTim n) 0 16 ≤ (s.at time).dt)
include htrig hsrc hpost

theorem exec_fenceTriggerEnd : exec (.fenceTriggerEnd time ⟨n, quiet⟩) s =
    done s (putPhy (s.at time) n { s.phy n with trig := none, src := [], trigEnd := (s.at time).dt }) := by
  have hgo : (((s.at time).phy n).trig.isSome && decide (((s.at time).phy n).srcAt ≤ quiet) &&
      decide (quiet + postNs (s.at time) n ≤ (s.at time).dt)) = true := by
    show ((s.phy n).trig.isSome && decide ((s.phy n).srcAt ≤ quiet) && decide (quiet + postNs s n ≤ (s.at time).dt)) = true
    rw [htrig, decide_eq_true hsrc]
    exact decide_eq_true hpost
  exact congrArg (done s) (if_pos hgo)

theorem fenceTriggerEnd_runs : Runs (.fenceTriggerEnd time ⟨n, quiet⟩) s fun t => (t.phy n).trig = none ∧ (t.phy n).src = [] ∧
    (t.phy n).trigEnd = (s.at time).dt ∧
    t.bit (Reg.spPhyStat n) 6 = (s.bit (Reg.spAdaptCtrl n) 0 || (s.phy n).win || (s.phy n).pwr.isSome) := by
  refine runs_of_wired (exec_fenceTriggerEnd htrig hsrc hpost) fun v hv => ?_
  obtain ⟨c, e, r, hphy⟩ := phy_putPhy (s.at time) n { s.phy n with trig := none, src := [], trigEnd := (s.at time).dt }
  rw [hv.phy, hphy, hv.bit ?_, bit_frozen_putPhy]
  · refine ⟨rfl, rfl, rfl, ?_⟩
    simp only [frozenBy, Option.isSome_none, Bool.or_false]
    rfl
  · exact inWired_spReg n (by decide)

/-- The end of the interval counts where no other source freezes the port. -/
theorem fenceTriggerEnd_counts (hwas : s.bit (Reg.spPhyStat n) 6 = true)
    (hnow : (s.bit (Reg.spAdaptCtrl n) 0 || (s.phy n).win || (s.phy n).pwr.isSome) = false) :
    Runs (.fenceTriggerEnd time ⟨n, quiet⟩) s fun t =>
      t.regN (Reg.spFreezeCnt n) = min (s.regN (Reg.spFreezeCnt n) + 1) 0xFFFFFFFF := by
  refine runs_of_wired (exec_fenceTriggerEnd htrig hsrc hpost) fun v hv => ?_
  rw [hv.regN ?_]
  · refine regN_freezeCnt_putPhy (s.at time) n _ hwas ?_
    rw [← hnow]
    simp only [frozenBy, Option.isSome_none, Bool.or_false]
    rfl
  · exact inWired_spReg n (by decide)

end

theorem fenceStuck_runs (htrig : (s.phy n).trig = some d) (hmax : d + 1000000 * max 1 (s.fld (Reg.spAdaptCtrl n) 16 16) ≤ (s.at time).dt) :
    Runs (.fenceStuck time n) s fun t =>
      (t.phy n).trig = none ∧ t.bit (Reg.spFenceStat n) 2 = true ∧ t.bit (Reg.spPhyIrqRaw n) 1 = true ∧
      ∀ k ∈ (s.phy n).src, k ∈ (t.phy n).ign := by
  have hexec : exec (.fenceStuck time n) s = done s (((putPhy (s.at time) n { s.phy n with
      trig := none, src := [], ign := ((s.phy n).ign ++ (s.phy n).src).eraseDups, stuckAt := (s.at time).dt,
      trigEnd := (s.at time).dt }).setBit (Reg.spFenceStat n) 2 true).raise (Reg.spPhyIrqRaw n) 1) := by
    have htrig' : ((s.at time).phy n).trig = some d := htrig
    show execFenceStuck time n s = _
    rw [execFenceStuck, htrig']
    exact congrArg (done s) (if_pos hmax)
  refine runs_of_wired hexec fun v hv => ?_
  obtain ⟨c, e, r, hphy⟩ := phy_putPhy (s.at time) n { s.phy n with
    trig := none, src := [], ign := ((s.phy n).ign ++ (s.phy n).src).eraseDups, stuckAt := (s.at time).dt, trigEnd := (s.at time).dt }
  have hv_phy : v.phy n = _ := (hv.phy n).trans hphy
  have hfence : v.bit (Reg.spFenceStat n) 2 = true := by
    rw [hv.bit ?_, bit_of_reg (reg_raise_ne _ _ _ ?_), bit_setBit_same _ _ _ _ (by decide)]
    · exact spReg_ne (by decide)
    · exact inWired_spReg n (by decide)
  rw [hv_phy]
  exact ⟨rfl, hfence, (hv.bit (inWired_spReg n (by decide)) 1).trans (bit_raise_same _ _ _ (by decide)),
    fun k hk => List.mem_eraseDups.2 (List.mem_append_right _ hk)⟩

theorem fenceStuckClear_runs {quiet : Nat} (hstuck : s.bit (Reg.spFenceStat n) 2 = true) (hsince : (s.phy n).stuckAt ≤ quiet)
    (hms : quiet + 1000000 ≤ (s.at time).dt) : Runs (.fenceStuckClear time ⟨n, quiet⟩) s fun t =>
      t.bit (Reg.spFenceStat n) 2 = false ∧ (t.phy n).ign = [] := by
  have hgo : ((s.at time).bit (Reg.spFenceStat n) 2 && decide (((s.at time).phy n).stuckAt ≤ quiet) &&
      decide (quiet + 1000000 ≤ (s.at time).dt)) = true := by
    show (s.bit (Reg.spFenceStat n) 2 && decide ((s.phy n).stuckAt ≤ quiet) && decide (quiet + 1000000 ≤ (s.at time).dt)) = true
    rw [hstuck, decide_eq_true hsince, decide_eq_true hms]; rfl
  refine runs_of_wired (congrArg (done s) (if_pos hgo)) fun v hv => ?_
  obtain ⟨c, e, r, hphy⟩ := phy_putPhy (s.at time) n { s.phy n with ign := [] }
  refine ⟨(hv.bit (inWired_spReg n (by decide)) 2).trans (bit_setBit_same _ _ _ _ (by decide)), ?_⟩
  rw [hv.phy]
  exact congrArg (·.ign) hphy

/-! ### The predicted window (R334) -/

section
variable {p : FencePer} (hper : (s.phy n).per = some p)
include hper

theorem fencePredWindowOpen_runs (hwin : (s.phy n).win = false)
    (hfrom : p.last + p.mean ≤ ((s.at time).dt + 1000 * s.fld (Reg.spFenceTim n) 16 16) * 2 ^ p.exp)
    (hto : (s.at time).dt * 2 ^ p.exp < p.last + p.mean + 1000 * s.fld (Reg.spFenceTim n) 16 16 * 2 ^ p.exp) :
    Runs (.fencePredWindowOpen time n) s fun t =>
      (t.phy n).win = true ∧ t.bit (Reg.spPhyStat n) 6 = true ∧ t.bit (Reg.spFenceStat n) 0 = true := by
  have hexec : exec (.fencePredWindowOpen time n) s = done s (putPhy (s.at time) n { s.phy n with win := true }) := by
    have hper' : ((s.at time).phy n).per = some p := hper
    have hgo : (!((s.at time).phy n).win && decide (p.last + p.mean ≤ ((s.at time).dt + preNs (s.at time) n) * 2 ^ p.exp) &&
        decide ((s.at time).dt * 2 ^ p.exp < p.last + p.mean + preNs (s.at time) n * 2 ^ p.exp)) = true := by
      show (!(s.phy n).win && decide (p.last + p.mean ≤ ((s.at time).dt + 1000 * s.fld (Reg.spFenceTim n) 16 16) * 2 ^ p.exp) &&
        decide ((s.at time).dt * 2 ^ p.exp < p.last + p.mean + 1000 * s.fld (Reg.spFenceTim n) 16 16 * 2 ^ p.exp)) = true
      rw [hwin, decide_eq_true hfrom, decide_eq_true hto]; rfl
    show execFencePredWindowOpen time n s = _
    rw [execFencePredWindowOpen, hper']
    refine (congrArg (done s) (if_pos hgo)).trans ?_
    rw [← hper]; rfl
  refine runs_of_wired hexec fun v hv => ?_
  obtain ⟨c, e, r, hphy⟩ := phy_putPhy (s.at time) n { s.phy n with win := true }
  rw [hv.phy, hphy, hv.bit ?_, hv.bit ?_, bit_frozen_putPhy, bit_active_putPhy]
  · exact ⟨rfl, by simp only [frozenBy, Bool.or_true, Bool.true_or], Bool.or_true _⟩
  all_goals exact inWired_spReg n (by decide)

variable (hwin : (s.phy n).win = true) (hend : p.last + p.mean + 1000 * s.fld (Reg.spFenceTim n) 16 16 * 2 ^ p.exp ≤ (s.at time).dt * 2 ^ p.exp)
include hwin hend

theorem exec_fencePredWindowEnd : exec (.fencePredWindowEnd time n) s = done s (putPhy (s.at time) n { s.phy n with
    win := false,
    starts := if 1 ≤ p.misses then [] else (s.phy n).starts,
    per := if 1 ≤ p.misses then none else some { p with last := p.last + p.mean, misses := p.misses + 1 } }) := by
  have hper' : ((s.at time).phy n).per = some p := hper
  have hgo : (((s.at time).phy n).win &&
      decide (p.last + p.mean + preNs (s.at time) n * 2 ^ p.exp ≤ (s.at time).dt * 2 ^ p.exp)) = true := by
    show ((s.phy n).win && decide (p.last + p.mean + 1000 * s.fld (Reg.spFenceTim n) 16 16 * 2 ^ p.exp ≤ (s.at time).dt * 2 ^ p.exp)) = true
    rw [hwin, decide_eq_true hend]; rfl
  show execFencePredWindowEnd time n s = _
  rw [execFencePredWindowEnd, hper']
  exact congrArg (done s) (if_pos hgo)

theorem fencePredWindowEnd_first (hm : p.misses = 0) : Runs (.fencePredWindowEnd time n) s fun t => (t.phy n).win = false ∧
    (t.phy n).per = some { p with last := p.last + p.mean, misses := 1 } := by
  refine runs_of_wired (exec_fencePredWindowEnd hper hwin hend) fun v hv => ?_
  obtain ⟨c, e, r, hphy⟩ := phy_putPhy (s.at time) n { s.phy n with
    win := false,
    starts := if 1 ≤ p.misses then [] else (s.phy n).starts,
    per := if 1 ≤ p.misses then none else some { p with last := p.last + p.mean, misses := p.misses + 1 } }
  rw [hv.phy, hphy]
  refine ⟨rfl, ?_⟩
  simp only [hm, Nat.one_ne_zero, Nat.le_zero_eq, if_false, Nat.zero_add]

theorem fencePredWindowEnd_second (hm : 1 ≤ p.misses) : Runs (.fencePredWindowEnd time n) s fun t => (t.phy n).win = false ∧
    (t.phy n).per = none ∧ t.bit (Reg.spFenceStat n) 1 = false := by
  refine runs_of_wired (exec_fencePredWindowEnd hper hwin hend) fun v hv => ?_
  simp only [if_pos hm] at hv
  obtain ⟨c, e, r, hphy⟩ := phy_putPhy (s.at time) n { s.phy n with win := false, starts := [], per := none }
  rw [hv.phy, hphy, hv.bit ?_, bit_locked_putPhy]
  · exact ⟨rfl, rfl, rfl⟩
  · exact inWired_spReg n (by decide)

end

end

/-! ### The statement -/

/-- Settles O40: a pin acts at each stall port as it would there alone, and each other clause is what one branch of its command
leaves of the port. -/
theorem fenceTriggersFreezeAndLearn : Obligations.FenceTriggersFreezeAndLearn := by
  unfold Obligations.FenceTriggersFreezeAndLearn
  refine ⟨fun time pin s n hn => ⟨?_, ?_, ?_⟩, fun time n err s hsel hon htrig => ⟨?_, ?_⟩, fun time n s d htrig => ⟨?_, ?_⟩,
    fun time n quiet s => ?_, fun time n s p hper => ⟨?_, fun hwin hend => ⟨?_, ?_⟩⟩⟩
  · exact fenceSenseAssert_starts hn
  · exact fenceSenseAssert_lasts hn
  · exact fenceSenseAssert_unselected hn
  · exact impulseDetect_starts hsel hon htrig
  · exact impulseDetect_below
  · exact fun quiet hsrc hpost => ⟨fenceTriggerEnd_runs htrig hsrc hpost, fenceTriggerEnd_counts htrig hsrc hpost⟩
  · exact fenceStuck_runs htrig
  · exact fenceStuckClear_runs
  · exact fencePredWindowOpen_runs hper
  · exact fencePredWindowEnd_first hper hwin hend
  · exact fencePredWindowEnd_second hper hwin hend

end Sys2Proof.Machine
end

section
/-! The stall ports and uplinks family: the PSE of a stall port and the expander bus (O41; R340 to R344). -/

namespace Sys2Proof.Machine

/-! ### The output bits of a port and the states of its PSE (R341) -/

theorem setOuts_eq (dt : Nat) (x : SpState) (en dis : Bool) : ∃ l, setOuts dt x en dis = { x with en := en, dis := dis, outs := l } := by
  unfold setOuts
  split
  · next h =>
    obtain ⟨rfl, rfl⟩ := h
    exact ⟨_, rfl⟩
  · exact ⟨_, rfl⟩

theorem pseState_of_reg {s t : State} {n : Nat} (h : t.reg (Reg.spPodlStat n) = s.reg (Reg.spPodlStat n)) : pseState t n = pseState s n :=
  fld_of_reg h 0 3

theorem pseState_setPhy (s : State) (n : Nat) (x : SpState) : pseState (s.setPhy n x) n = pseState s n := rfl

theorem bit_setPhy (s : State) (n : Nat) (x : SpState) (a i : Nat) : (s.setPhy n x).bit a i = s.bit a i := rfl

theorem inWired_podlStat (n : Fin 64) : inWired (Reg.spPodlStat n) := inWired_spReg n (by decide)

theorem inWired_podlCtrl (n : Fin 64) : inWired (Reg.spPodlCtrl n) := inWired_spReg n (by decide)

theorem inWired_podlFaults (n : Fin 64) : inWired (Reg.spPodlFaults n) := inWired_spReg n (by decide)

theorem inWired_phyIrqRaw (n : Fin 64) : inWired (Reg.spPhyIrqRaw n) := inWired_spReg n (by decide)

section
variable (s : State) (n st : Nat) (en dis : Bool)

theorem phy_pseMove : ∃ l, (pseMove s n st en dis).phy n = { s.phy n with
    en := en, dis := dis, outs := l, pseFrom := pseState s n, pseAt := s.dt, wait := false,
    disAt := if st = 5 then none else (s.phy n).disAt } := by
  obtain ⟨l, hl⟩ := setOuts_eq s.dt (s.phy n) en dis
  exact ⟨l, (phy_setPhy_same _ _ _).trans (by rw [hl])⟩

theorem en_pseMove : ((pseMove s n st en dis).phy n).en = en := by
  obtain ⟨l, h⟩ := phy_pseMove s n st en dis
  rw [h]

theorem dis_pseMove : ((pseMove s n st en dis).phy n).dis = dis := by
  obtain ⟨l, h⟩ := phy_pseMove s n st en dis
  rw [h]

theorem wait_pseMove : ((pseMove s n st en dis).phy n).wait = false := by
  obtain ⟨l, h⟩ := phy_pseMove s n st en dis
  rw [h]

theorem pseState_pseMove (hst : st < 8) : pseState (pseMove s n st en dis) n = st :=
  (fld_setFld_same _ _ _ _ _ (by decide)).trans (Nat.mod_eq_of_lt hst)

theorem reg_pseMove_ne {a : Nat} (ha : a ≠ Reg.spPodlStat n) : (pseMove s n st en dis).reg a = s.reg a := reg_setFld_ne _ _ _ _ _ ha

theorem fld_podlStat_pseMove {lo len : Nat} (h : 3 ≤ lo) :
    (pseMove s n st en dis).fld (Reg.spPodlStat n) lo len = s.fld (Reg.spPodlStat n) lo len := by
  rw [State.fld, pseMove, reg_setFld_same, bitsOf_putBits_out _ _ _ _ _ _ (.inr (by omega))]
  rfl

theorem pseMove_phyOnly : PhyOnly n s (pseMove s n st en dis) := ((PhyOnly.refl s).setPhy _).setReg _ (inPort_spReg (by decide))

end

section
variable (s : State) (n r : Nat)

theorem pseState_pseResult : pseState (pseResult s n r) n = pseState s n := by
  rw [pseState, State.fld, pseResult, reg_setFld_same, bitsOf_putBits_out _ _ _ _ _ _ (.inl (by decide))]
  rfl

theorem fld_result_pseResult (hr : r < 8) : (pseResult s n r).fld (Reg.spPodlStat n) 8 3 = r :=
  (fld_setFld_same _ _ _ _ _ (by decide)).trans (Nat.mod_eq_of_lt hr)

theorem pseResult_phyOnly : PhyOnly n s (pseResult s n r) := (PhyOnly.refl s).setReg _ (inPort_spReg (by decide))

theorem pseFaulted_phyOnly : PhyOnly n s (pseFaulted s n r) :=
  (((pseResult_phyOnly s n r).setReg _ (inPort_spReg (by decide))).setReg _ (inPort_spReg (by decide))).raiseFault (by decide) n .none 1

theorem pseFault_phyOnly : PhyOnly n s (pseFault s n r) := (pseMove_phyOnly s n 5 false true).trans (pseFaulted_phyOnly _ n r)

/-- A PSE that waits is in DETECT with EN off. -/
theorem pseState_pseWait : pseState (pseWait s n r) n = 1 := (pseState_pseResult _ n r).trans (pseState_pseMove s n 1 false _ (by decide))

theorem phy_pseWait : (pseWait s n r).phy n = { (pseMove s n 1 false (s.phy n).dis).phy n with wait := true } := phy_setPhy_same _ _ _

theorem wait_pseWait : ((pseWait s n r).phy n).wait = true := by rw [phy_pseWait]

theorem en_pseWait : ((pseWait s n r).phy n).en = false := by
  rw [phy_pseWait]
  exact en_pseMove s n 1 false _

theorem fld_result_pseWait (hr : r < 8) : (pseWait s n r).fld (Reg.spPodlStat n) 8 3 = r := fld_result_pseResult _ n r hr

theorem fld_class_pseWait : (pseWait s n r).fld (Reg.spPodlStat n) 4 4 = s.fld (Reg.spPodlStat n) 4 4 := by
  refine Eq.trans ?_ (fld_podlStat_pseMove s n 1 false (s.phy n).dis (by decide))
  show (pseResult (pseMove s n 1 false (s.phy n).dis) n r).fld (Reg.spPodlStat n) 4 4 = _
  rw [State.fld, pseResult, reg_setFld_same, bitsOf_putBits_out _ 8 3 r 4 4 (.inl (by decide))]
  rfl

end

section
variable (s : State) (n : Fin 64) (r : Nat)

/-- What is recorded of a fault of a PSE: its result, its count and its interrupt. -/
theorem pseFaulted_wiredKept :
    WiredKept (((pseResult s n r).inc (Reg.spPodlFaults n)).raise (Reg.spPhyIrqRaw n) 2) (pseFaulted s n r) :=
  raiseFault_wiredKept _ (by decide) n .none 1

theorem phy_pseFaulted : (pseFaulted s n r).phy n = s.phy n := (pseFaulted_wiredKept s n r).phy n

theorem podlStat_pseFaulted : (pseFaulted s n r).reg (Reg.spPodlStat n) = (pseResult s n r).reg (Reg.spPodlStat n) := by
  rw [(pseFaulted_wiredKept s n r).regs _ (inWired_podlStat n), reg_raise_ne _ _ _ ?_, reg_inc_ne _ _ ?_]
  all_goals exact spReg_ne (by decide)

theorem en_pseFault : ((pseFault s n r).phy n).en = false := by
  rw [pseFault, phy_pseFaulted, en_pseMove]

theorem dis_pseFault : ((pseFault s n r).phy n).dis = true := by
  rw [pseFault, phy_pseFaulted, dis_pseMove]

theorem pseState_pseFault : pseState (pseFault s n r) n = 5 := by
  rw [pseFault, pseState_of_reg (podlStat_pseFaulted _ n r), pseState_pseResult, pseState_pseMove _ _ _ _ _ (by decide)]

theorem fld_result_pseFault (hr : r < 8) : (pseFault s n r).fld (Reg.spPodlStat n) 8 3 = r := by
  rw [pseFault, fld_of_reg (podlStat_pseFaulted _ n r), fld_result_pseResult _ _ _ hr]

theorem regN_podlFaults_pseFault :
    (pseFault s n r).regN (Reg.spPodlFaults n) = min (s.regN (Reg.spPodlFaults n) + 1) 0xFFFFFFFF := by
  have hold : (pseResult (pseMove s n 5 false true) n r).reg (Reg.spPodlFaults n) = s.reg (Reg.spPodlFaults n) := by
    rw [pseResult, reg_setFld_ne _ _ _ _ _ ?_, reg_pseMove_ne _ _ _ _ _ ?_]
    all_goals exact spReg_ne (by decide)
  rw [pseFault, (pseFaulted_wiredKept _ n r).regN (inWired_podlFaults n), regN_of_reg (reg_raise_ne _ _ _ ?_), inc_regN_same,
    regN_of_reg hold]
  exact spReg_ne (by decide)

theorem bit_phyIrqRaw_pseFault : (pseFault s n r).bit (Reg.spPhyIrqRaw n) 2 = true :=
  ((pseFaulted_wiredKept _ n r).bit (inWired_phyIrqRaw n) 2).trans (bit_raise_same _ _ _ (by decide))

end

theorem WiredKept.pseState {s t : State} (h : WiredKept s t) (n : Fin 64) : pseState t n = pseState s n :=
  h.fld (inWired_podlStat n) 0 3

/-! ### PODL_ENABLE and PODL_DISABLE (R341) -/

theorem plainMask_podlCtrl : ∀ n, n < 64 → plainMask (Reg.spPodlCtrl n) = some 0xFFFF0F01 := by decide

section
variable {time : Nat} {init : Init} {n : Fin 64} {s : State}

/-- PODL_CTRL.EN reads as PODL_ENABLE or PODL_DISABLE wrote it. -/
theorem bit_en_plainWrite (s u : State) (n : Fin 64) (en : Bool) :
    (plainWrite u (Reg.spPodlCtrl n) (podlWord s n en)).bit (Reg.spPodlCtrl n) 0 = en := by
  rw [State.bit, reg_plainWrite_same (plainMask_podlCtrl n n.isLt), bitOf, getLsbD_mergeMask, if_pos (by decide)]
  exact bitOf_putBit_same _ 0 en (by decide)

theorem pseState_podlCtrlWrite (u : State) (n : Fin 64) (d : Word) : pseState (plainWrite u (Reg.spPodlCtrl n) d) n = pseState u n :=
  pseState_of_reg (reg_plainWrite_ne (plainMask_podlCtrl n n.isLt) _ _ (spReg_ne (by decide)))

variable (hacc : accepts s init (Reg.spPodlCtrl n) true = true)
include hacc

theorem podlEnable_runs (hoff : pseState s n = 0) : Runs (.podlEnable time init n) s fun t =>
    pseState t n = 1 ∧ t.bit (Reg.spPodlCtrl n) 0 = true := by
  refine runs_of_wiredWrite rfl hacc fun u hu v hv => ?_
  have hen := bit_en_plainWrite (s.at time) u n true
  have hst : pseState (plainWrite u (Reg.spPodlCtrl n) (podlWord (s.at time) n true)) n = 0 := by
    rw [pseState_podlCtrlWrite, hu.pseState]
    exact hoff
  rw [podlSet, if_pos hen, if_pos hst] at hv
  refine ⟨(hv.pseState n).trans (pseState_pseMove _ _ _ _ _ (by decide)), ?_⟩
  rw [hv.bit (inWired_podlCtrl n)]
  exact (bit_of_reg (reg_pseMove_ne _ _ _ _ _ (spReg_ne (by decide)))).trans hen

theorem podlDisable_runs (hoff : pseState s n ≠ 0) : Runs (.podlDisable time init n) s fun t =>
    pseState t n = 0 ∧ t.bit (Reg.spPodlCtrl n) 0 = false ∧ (t.phy n).en = false ∧ (t.phy n).dis = true ∧
    (t.phy n).disAt = some (s.at time).dt := by
  refine runs_of_wiredWrite rfl hacc fun u hu v hv => ?_
  have hen := bit_en_plainWrite (s.at time) u n false
  have hst : pseState (plainWrite u (Reg.spPodlCtrl n) (podlWord (s.at time) n false)) n ≠ 0 := by
    rw [pseState_podlCtrlWrite, hu.pseState]
    exact hoff
  rw [podlSet, if_neg (Bool.eq_false_iff.1 hen), if_neg hst] at hv
  extract_lets off at hv
  have hdt : off.dt = (s.at time).dt := by
    rw [(pseMove_phyOnly _ _ _ _ _).dt, plainWrite_of_plainMask (plainMask_podlCtrl n n.isLt)]
    exact hu.dt
  have hctrl : off.bit (Reg.spPodlCtrl n) 0 = false := (bit_of_reg (reg_pseMove_ne _ _ _ _ _ (spReg_ne (by decide)))).trans hen
  rw [hv.pseState, pseState_setPhy, hv.bit (inWired_podlCtrl n), bit_setPhy, hv.phy, phy_setPhy_same, hdt]
  exact ⟨pseState_pseMove _ _ _ _ _ (by decide), hctrl, en_pseMove _ _ _ _ _, dis_pseMove _ _ _ _ _, rfl⟩

end

/-! ### Detection, class, power and retry (R340, R341) -/

theorem fld_class_set (t : State) (n : Fin 64) (c : Fin 16) : (t.setFld (Reg.spPodlStat n) 4 4 c.val).fld (Reg.spPodlStat n) 4 4 = c.val :=
  (fld_setFld_same _ _ _ _ _ (by decide)).trans (Nat.mod_eq_of_lt c.isLt)

section
variable {time : Nat} {n : Fin 64} {s : State} (hup : octetUp s n = true)
include hup

section
variable (hst : pseState s n = 1) (hwait : (s.phy n).wait = false)
include hst hwait

theorem exec_podlDetectDone (valid : Bool) : exec (.podlDetectDone time n valid) s =
    done s (if valid then pseMove (s.at time) n 2 false ((s.at time).phy n).dis else pseWait (s.at time) n 1) := by
  have hgo : ¬(octetUp (s.at time) n = false ∨ pseState (s.at time) n ≠ 1 ∨ ((s.at time).phy n).wait = true) := by
    show ¬(octetUp s n = false ∨ pseState s n ≠ 1 ∨ (s.phy n).wait = true)
    simp [hup, hst, hwait]
  exact congrArg (done s) (if_neg hgo)

theorem podlDetectDone_valid : Runs (.podlDetectDone time n true) s fun t => pseState t n = 2 :=
  runs_of_wired (exec_podlDetectDone hup hst hwait true) fun _ hv => (hv.pseState n).trans (pseState_pseMove _ _ _ _ _ (by decide))

theorem podlDetectDone_invalid : Runs (.podlDetectDone time n false) s fun t =>
    pseState t n = 1 ∧ (t.phy n).wait = true ∧ t.fld (Reg.spPodlStat n) 8 3 = 1 := by
  refine runs_of_wired (exec_podlDetectDone hup hst hwait false) fun v hv => ?_
  rw [hv.phy, hv.pseState, hv.fld (inWired_podlStat n)]
  exact ⟨pseState_pseWait _ _ _, wait_pseWait _ _ _, fld_result_pseWait _ _ _ (by decide)⟩

end

section
variable (hst : pseState s n = 2)
include hst

theorem podlClassRead_none : Runs (.podlClassRead time n none) s fun t =>
    pseState t n = 1 ∧ (t.phy n).wait = true ∧ t.fld (Reg.spPodlStat n) 8 3 = 2 := by
  have hgo : ¬(octetUp (s.at time) n = false ∨ pseState (s.at time) n ≠ 2) := by
    show ¬(octetUp s n = false ∨ pseState s n ≠ 2)
    simp [hup, hst]
  refine runs_of_wired (congrArg (done s) (if_neg hgo)) fun v hv => ?_
  rw [hv.phy, hv.pseState, hv.fld (inWired_podlStat n)]
  exact ⟨pseState_pseWait _ _ _, wait_pseWait _ _ _, fld_result_pseWait _ _ _ (by decide)⟩

/-- CLASS shows the class read, and an allowed one leads to POWER_UP. -/
theorem exec_podlClassRead (c : Fin 16) : exec (.podlClassRead time n (some c)) s =
    done s (if s.bit (Reg.spPodlCtrl n) (16 + c) then
      pseMove ((s.at time).setFld (Reg.spPodlStat n) 4 4 c.val) n 3 true false
    else pseWait ((s.at time).setFld (Reg.spPodlStat n) 4 4 c.val) n 3) := by
  have hgo : ¬(octetUp (s.at time) n = false ∨ pseState (s.at time) n ≠ 2) := by
    show ¬(octetUp s n = false ∨ pseState s n ≠ 2)
    simp [hup, hst]
  have hctrl : ((s.at time).setFld (Reg.spPodlStat n) 4 4 c.val).bit (Reg.spPodlCtrl n) (16 + c) = s.bit (Reg.spPodlCtrl n) (16 + c) :=
    bit_of_reg (reg_setFld_ne _ _ _ _ _ (spReg_ne (by decide)))
  refine (congrArg (done s) (if_neg hgo)).trans ?_
  dsimp only
  rw [hctrl]

theorem podlClassRead_allowed (c : Fin 16) (hok : s.bit (Reg.spPodlCtrl n) (16 + c) = true) :
    Runs (.podlClassRead time n (some c)) s fun t =>
      t.fld (Reg.spPodlStat n) 4 4 = c.val ∧ pseState t n = 3 ∧ (t.phy n).en = true ∧ (t.phy n).dis = false := by
  refine runs_of_wired ((exec_podlClassRead hup hst c).trans (congrArg (done s) (if_pos hok))) fun v hv => ?_
  rw [hv.phy, hv.pseState, hv.fld (inWired_podlStat n), fld_podlStat_pseMove _ _ _ _ _ (by decide)]
  exact ⟨fld_class_set _ n c, pseState_pseMove _ _ _ _ _ (by decide), en_pseMove _ _ _ _ _, dis_pseMove _ _ _ _ _⟩

theorem podlClassRead_refused (c : Fin 16) (hno : s.bit (Reg.spPodlCtrl n) (16 + c) = false) :
    Runs (.podlClassRead time n (some c)) s fun t => t.fld (Reg.spPodlStat n) 4 4 = c.val ∧ pseState t n = 1 ∧
      (t.phy n).en = false ∧ t.fld (Reg.spPodlStat n) 8 3 = 3 := by
  refine runs_of_wired ((exec_podlClassRead hup hst c).trans (congrArg (done s) (if_neg (Bool.eq_false_iff.1 hno)))) fun v hv => ?_
  rw [hv.phy, hv.pseState, hv.fld (inWired_podlStat n) 4 4, hv.fld (inWired_podlStat n) 8 3, fld_class_pseWait]
  exact ⟨fld_class_set _ n c, pseState_pseWait _ _ _, en_pseWait _ _ _, fld_result_pseWait _ _ _ (by decide)⟩

end

theorem podlPgTimeout_runs (hst : pseState s n = 3) (hms : (s.phy n).pseAt + 100000000 ≤ (s.at time).dt) :
    Runs (.podlPgTimeout time n) s fun t =>
      pseState t n = 5 ∧ t.fld (Reg.spPodlStat n) 8 3 = 4 ∧ (t.phy n).en = false ∧ (t.phy n).dis = true ∧
      t.regN (Reg.spPodlFaults n) = min (s.regN (Reg.spPodlFaults n) + 1) 0xFFFFFFFF ∧ t.bit (Reg.spPhyIrqRaw n) 2 = true := by
  have hon : ¬octetUp (s.at time) n = false := Bool.eq_false_iff.not_left.2 hup
  have hdue : pseState (s.at time) n = 3 ∧ ((s.at time).phy n).pseAt + 100000000 ≤ (s.at time).dt := ⟨hst, hms⟩
  refine runs_of_wired (congrArg (done s) ((if_neg hon).trans (if_pos hdue))) fun v hv => ?_
  rw [hv.phy, hv.pseState, hv.fld (inWired_podlStat n), hv.regN (inWired_podlFaults n), hv.bit (inWired_phyIrqRaw n)]
  exact ⟨pseState_pseFault _ n 4, fld_result_pseFault _ n 4 (by decide), en_pseFault _ n 4, dis_pseFault _ n 4,
    regN_podlFaults_pseFault _ n 4, bit_phyIrqRaw_pseFault _ n 4⟩

section
variable (hs : (s.phy n).pseAt + 1000000000 ≤ (s.at time).dt)
include hs

theorem podlRetry_fault (hst : pseState s n = 5) (hen : s.bit (Reg.spPodlCtrl n) 0 = true) : Runs (.podlRetry time n) s fun t =>
    pseState t n = 1 ∧ (t.phy n).dis = false ∧ (t.phy n).wait = false := by
  have hgo : ¬(octetUp (s.at time) n = false ∨ (s.at time).dt < ((s.at time).phy n).pseAt + 1000000000) :=
    not_or.2 ⟨Bool.eq_false_iff.not_left.2 hup, not_lt.2 hs⟩
  have hf : pseState (s.at time) n = 5 ∧ (s.at time).bit (Reg.spPodlCtrl n) 0 = true := ⟨hst, hen⟩
  refine runs_of_wired (congrArg (done s) ((if_neg hgo).trans (if_pos hf))) fun v hv => ?_
  rw [hv.phy, hv.pseState]
  exact ⟨pseState_pseMove _ _ _ _ _ (by decide), dis_pseMove _ _ _ _ _, wait_pseMove _ _ _ _ _⟩

theorem podlRetry_wait (hst : pseState s n = 1) (hwait : (s.phy n).wait = true) : Runs (.podlRetry time n) s fun t =>
    pseState t n = 1 ∧ (t.phy n).wait = false := by
  have hgo : ¬(octetUp (s.at time) n = false ∨ (s.at time).dt < ((s.at time).phy n).pseAt + 1000000000) :=
    not_or.2 ⟨Bool.eq_false_iff.not_left.2 hup, not_lt.2 hs⟩
  have hf : ¬(pseState (s.at time) n = 5 ∧ (s.at time).bit (Reg.spPodlCtrl n) 0 = true) := fun h => absurd (hst.symm.trans h.1) (by decide)
  have hw : pseState (s.at time) n = 1 ∧ ((s.at time).phy n).wait = true := ⟨hst, hwait⟩
  refine runs_of_wired (congrArg (done s) ((if_neg hgo).trans ((if_neg hf).trans (if_pos hw)))) fun v hv => ?_
  rw [hv.phy, hv.pseState, phy_setPhy_same]
  exact ⟨hst, rfl⟩

end

end

end Sys2Proof.Machine
end

section
/-! The stall ports and uplinks family: the frames of the expander bus (O41; R342 to R344). -/

namespace Sys2Proof.Machine

/-! ### The bits of a frame (R342) -/

/-- The bits of a word in which each element has two. -/
theorem getElem?_flatMap_pair {α β : Type} (f g : α → β) (l : List α) (i : Nat) :
    (l.flatMap fun a => [f a, g a])[2 * i]? = l[i]?.map f ∧ (l.flatMap fun a => [f a, g a])[2 * i + 1]? = l[i]?.map g := by
  induction l generalizing i with
  | nil => exact ⟨rfl, rfl⟩
  | cons a l ih =>
    cases i with
    | zero => exact ⟨rfl, rfl⟩
    | succ i => exact ih i

theorem getElem?_stallPorts {n : Nat} (hn : n < 64) : stallPorts[n]? = some n := List.getElem?_range hn

theorem getElem?_stallPorts_reverse : ∀ n, n < 64 → stallPorts.reverse[63 - n]? = some n := by decide

section
variable (s : State) {n : Nat} (hn : n < 64)
include hn

theorem podlSdo_en : (podlSdo s).getD (2 * (63 - n)) false = ((shiftedOuts s.dt (s.phy n)).1 && octetUp s n) := by
  rw [List.getD_eq_getElem?_getD, podlSdo, (getElem?_flatMap_pair _ _ _ _).1, getElem?_stallPorts_reverse n hn]
  rfl

theorem podlSdo_dis : (podlSdo s).getD (2 * (63 - n) + 1) false = (shiftedOuts s.dt (s.phy n)).2 := by
  rw [List.getD_eq_getElem?_getD, podlSdo, (getElem?_flatMap_pair _ _ _ _).2, getElem?_stallPorts_reverse n hn]
  rfl

variable {s} (hld : s.podl.ldAt ≠ none)
include hld

theorem podlSdi_flt : (podlSdi s)[2 * n]? = some (s.podl.flt.getLsbD n) := by
  rw [podlSdi, if_pos (Option.isSome_iff_ne_none.2 hld), (getElem?_flatMap_pair _ _ _ _).1, getElem?_stallPorts hn]
  rfl

theorem podlSdi_pg : (podlSdi s)[2 * n + 1]? = some (s.podl.pg.getLsbD n) := by
  rw [podlSdi, if_pos (Option.isSome_iff_ne_none.2 hld), (getElem?_flatMap_pair _ _ _ _).2, getElem?_stallPorts hn]
  rfl

end

/-! ### The inputs of a port (R341) -/

section
variable {s : State} {n : Nat} {flt pg : Bool}

/-- PODL_STAT shows the inputs. -/
def inputsShown (s : State) (n : Nat) (flt pg : Bool) : State := s.setFlds (Reg.spPodlStat n) [(12, 1, bnat flt), (13, 1, bnat pg)]

theorem pseState_inputsShown : pseState (inputsShown s n flt pg) n = pseState s n := by
  rw [pseState, State.fld, inputsShown, reg_setFlds_same]
  exact (bitsOf_putBits_out _ 13 1 _ 0 3 (.inl (by decide))).trans (bitsOf_putBits_out _ 12 1 _ 0 3 (.inl (by decide)))

theorem inputsShown_phyOnly : PhyOnly n s (inputsShown s n flt pg) := (PhyOnly.refl s).setReg _ (inPort_spReg (by decide))

theorem pseInput_phyOnly : PhyOnly n s (pseInput s n flt pg) := by
  have hshown := inputsShown_phyOnly (s := s) (n := n) (flt := flt) (pg := pg)
  unfold pseInput
  refine .ite (fun _ => ?_) fun _ => .ite (fun _ => hshown.trans (pseFault_phyOnly _ n 5)) fun _ =>
    .ite (fun _ => hshown.trans (pseFault_phyOnly _ n 6)) fun _ => .ite (fun _ => hshown.trans (pseFaulted_phyOnly _ n 5)) fun _ =>
    .ite (fun _ => hshown.trans (pseFaulted_phyOnly _ n 6)) fun _ => hshown
  exact ((hshown.trans (pseMove_phyOnly _ n 4 true false)).trans (pseResult_phyOnly _ n 0)).setReg _ (inPort_spReg (by decide))

/-- Power is good: the PSE is ON. -/
theorem pseInput_on (hst : pseState s n = 3) :
    pseState (pseInput s n flt true) n = 4 ∧ (pseInput s n flt true).fld (Reg.spPodlStat n) 8 3 = 0 := by
  have hgo : pseState (inputsShown s n flt true) n = 3 ∧ true = true := ⟨pseState_inputsShown.trans hst, rfl⟩
  have heq : pseInput s n flt true =
      (pseResult (pseMove (inputsShown s n flt true) n 4 true false) n 0).raise (Reg.spPhyIrqRaw n) 2 := if_pos hgo
  have hstat : (pseInput s n flt true).reg (Reg.spPodlStat n) =
      (pseResult (pseMove (inputsShown s n flt true) n 4 true false) n 0).reg (Reg.spPodlStat n) := by
    rw [heq]
    exact reg_raise_ne _ _ _ (spReg_ne (by decide))
  rw [pseState_of_reg hstat, fld_of_reg hstat, pseState_pseResult, fld_result_pseResult _ _ _ (by decide)]
  exact ⟨pseState_pseMove _ _ _ _ _ (by decide), rfl⟩

section
variable (hst : pseState s n = 4)
include hst

/-- A fault, or power no longer good, in ON. -/
theorem pseInput_fault (h : flt = true ∨ pg = false) :
    pseInput s n flt pg = pseFault (inputsShown s n flt pg) n (if flt then 5 else 6) := by
  have hshown : pseState (inputsShown s n flt pg) n = 4 := pseState_inputsShown.trans hst
  have h3 : ¬(pseState (inputsShown s n flt pg) n = 3 ∧ pg = true) := fun h => absurd (hshown.symm.trans h.1) (by decide)
  refine (if_neg h3).trans ?_
  cases flt with
  | true => exact if_pos ⟨hshown, rfl⟩
  | false =>
    have hpg : pg = false := h.resolve_left Bool.false_ne_true
    exact (if_neg fun h => Bool.false_ne_true h.2).trans (if_pos ⟨hshown, hpg⟩)

/-- A PSE in ON stays ON while power is good. -/
theorem pseInput_steady : pseInput s n false true = inputsShown s n false true := by
  have hshown : pseState (inputsShown s n false true) n = 4 := pseState_inputsShown.trans hst
  have h3 : ¬(pseState (inputsShown s n false true) n = 3 ∧ true = true) := fun h => absurd (hshown.symm.trans h.1) (by decide)
  refine (if_neg h3).trans ((if_neg fun h => Bool.false_ne_true h.2).trans ((if_neg fun h => Bool.false_ne_true h.2.symm).trans ?_))
  exact (if_neg fun h => Bool.false_ne_true h.2).trans (if_neg fun h => Bool.false_ne_true h.2.symm)

end

end

/-! ### The edge at one port (R342, R344) -/

/-- A bit of the output registers replaced. -/
def putLane (w : BitVec 64) (n : Nat) (b : Bool) : BitVec 64 := if b then w ||| BitVec.twoPow 64 n else w &&& ~~~(BitVec.twoPow 64 n)

theorem getLsbD_putLane_same (w : BitVec 64) {n : Nat} (hn : n < 64) (b : Bool) : (putLane w n b).getLsbD n = b := by
  cases b <;> simp [putLane, hn]

theorem getLsbD_putLane_ne (w : BitVec 64) {k n : Nat} (hk : k ≠ n) (b : Bool) : (putLane w k b).getLsbD n = w.getLsbD n := by
  have hlt : w.getLsbD n = true → n < 64 := BitVec.lt_of_getLsbD
  cases b with
  | false => simpa [putLane, hk] using hlt
  | true => simp [putLane, hk]

section
variable (s : State) (n : Nat)

/-- The output registers take the bits shifted out, and a change of EN freezes the port for FRZ_MS (R344). -/
def edgeOuts : State :=
  let en := s.podl.sdo.getD (2 * (63 - n)) false
  let ms := s.fld (Reg.spPodlCtrl n) 8 4
  { s.setPhy n { s.phy n with
      pwr := if en = s.podl.en.getLsbD n ∨ ms = 0 then (s.phy n).pwr else some (s.dt + 1000000 * ms) } with
    podl := { s.podl with en := putLane s.podl.en n en, dis := putLane s.podl.dis n (s.podl.sdo.getD (2 * (63 - n) + 1) false) } }

/-- The PSE sees the bits shifted in. -/
def edgeIns : State :=
  match octetUp s n, s.podl.sdi[2 * n]?, s.podl.sdi[2 * n + 1]? with
  | true, some flt, some pg => pseInput s n flt pg
  | _, _, _ => s

theorem podlLatch_eq : podlLatch s n = reviewFreeze (edgeIns (edgeOuts s n) n) n := rfl

theorem edgeIns_phyOnly : PhyOnly n s (edgeIns s n) := by
  unfold edgeIns
  split
  · exact pseInput_phyOnly
  · exact .refl s

/-- After the output registers the edge moves port `n` alone. -/
theorem podlLatch_phyOnly : PhyOnly n (edgeOuts s n) (podlLatch s n) := (edgeIns_phyOnly _ n).trans (reviewFreeze_phyOnly _ n)

theorem edgeOuts_samePort {k : Nat} (hk : k ≠ n) : SamePort n s (edgeOuts s k) where
  dt := rfl
  phy := phy_setPhy_ne _ _ _ hk.symm
  bus := by
    simp only [State.busOf, edgeOuts, getLsbD_putLane_ne _ hk]
  regs _ _ := rfl

theorem podlLatch_samePort {k : Nat} (hk : k ≠ n) : SamePort n s (podlLatch s k) :=
  (edgeOuts_samePort s n hk).trans ((podlLatch_phyOnly s k).samePort hk)

section
variable {n} (hn : n < 64)
include hn

theorem en_podlLatch : (podlLatch s n).podl.en.getLsbD n = s.podl.sdo.getD (2 * (63 - n)) false := by
  rw [(podlLatch_phyOnly s n).podl]
  exact getLsbD_putLane_same _ hn _

theorem dis_podlLatch : (podlLatch s n).podl.dis.getLsbD n = s.podl.sdo.getD (2 * (63 - n) + 1) false := by
  rw [(podlLatch_phyOnly s n).podl]
  exact getLsbD_putLane_same _ hn _

end

theorem podlStat_reviewFreeze : (reviewFreeze s n).reg (Reg.spPodlStat n) = s.reg (Reg.spPodlStat n) := by
  apply reg_reviewFreeze_ne
  all_goals exact spReg_ne (by decide)

/-- A frame that brings bits for a port that is up. -/
theorem podlLatch_of_bits {flt pg : Bool} (hup : octetUp s n = true) (hflt : s.podl.sdi[2 * n]? = some flt)
    (hpg : s.podl.sdi[2 * n + 1]? = some pg) : podlLatch s n = reviewFreeze (pseInput (edgeOuts s n) n flt pg) n := by
  have hup' : octetUp (edgeOuts s n) n = true := hup
  have hflt' : (edgeOuts s n).podl.sdi[2 * n]? = some flt := hflt
  have hpg' : (edgeOuts s n).podl.sdi[2 * n + 1]? = some pg := hpg
  rw [podlLatch_eq, edgeIns, hup', hflt', hpg']

end

/-! ### PODL_BUS_FRAME (R342 to R344) -/

/-- The frame that ends now carries the bits found at its beginning. -/
def busBegun (s : State) : State := { s with podl := { s.podl with sdo := podlSdo s, sdi := podlSdi s } }

/-- The input registers capture the pins for the next frame. -/
def busEnded (flt pg : BitVec 64) (s : State) : State :=
  { s with podlFlt := flt != 0, podl := { s.podl with ldAt := some s.dt, flt := flt, pg := pg } }

/-- The edge at every port. -/
def busLatched (s : State) : State := (busBegun s).each stallPorts fun n u => podlLatch u n

theorem busLatched_port (s : State) {n : Nat} (hn : n < 64) :
    ∃ u, SamePort n (busBegun s) u ∧ SamePort n (podlLatch u n) (busLatched s) :=
  each_stallPorts hn (fun _ u hk => podlLatch_samePort u n hk) (busBegun s)

section
variable {time : Nat} {flt pg : BitVec 64} {s : State}

theorem podlBusFrame_early (hmay : podlMay (s.at time) = false) : Runs (.podlBusFrame time flt pg) s fun t =>
    t.podl = s.podl ∧ t.sp = s.sp :=
  runs_of_wired (congrArg (done s) (if_pos hmay)) fun _ hv => ⟨hv.podl, hv.sp⟩

variable (hmay : podlMay (s.at time) = true)
include hmay

theorem exec_podlBusFrame : exec (.podlBusFrame time flt pg) s = done s (busEnded flt pg (busLatched (s.at time))) :=
  congrArg (done s) (if_neg (Bool.eq_false_iff.not_left.2 hmay))

/-- The output registers take the bits of the frame's beginning, and the input registers the pins. -/
theorem podlBusFrame_latches : Runs (.podlBusFrame time flt pg) s fun t =>
    t.podlFlt = (flt != 0) ∧ t.podl.ldAt = some (s.at time).dt ∧ t.podl.flt = flt ∧ t.podl.pg = pg ∧
    ∀ n, n < 64 → t.podl.en.getLsbD n = ((shiftedOuts (s.at time).dt (s.phy n)).1 && octetUp s n) ∧
      t.podl.dis.getLsbD n = (shiftedOuts (s.at time).dt (s.phy n)).2 := by
  refine runs_of_wired (exec_podlBusFrame hmay) fun v hv => ?_
  rw [hv.podlFlt, hv.podl]
  have hdt : (busLatched (s.at time)).dt = (s.at time).dt := by
    obtain ⟨u, hu, hall⟩ := busLatched_port (s.at time) (n := 0) (by decide)
    exact hall.dt.trans ((podlLatch_phyOnly u 0).dt.trans hu.dt)
  refine ⟨rfl, congrArg some hdt, rfl, rfl, fun n hn => ?_⟩
  obtain ⟨u, hu, hall⟩ := busLatched_port (s.at time) hn
  have hsdo : u.podl.sdo = podlSdo (s.at time) := congrArg (·.1) hu.bus
  have hen : (busLatched (s.at time)).podl.en.getLsbD n = (podlLatch u n).podl.en.getLsbD n := congrArg (·.2.2.1) hall.bus
  have hdis : (busLatched (s.at time)).podl.dis.getLsbD n = (podlLatch u n).podl.dis.getLsbD n := congrArg (·.2.2.2) hall.bus
  constructor
  · exact hen.trans (by rw [en_podlLatch u hn, hsdo, podlSdo_en _ hn]; rfl)
  · exact hdis.trans (by rw [dis_podlLatch u hn, hsdo, podlSdo_dis _ hn]; rfl)

variable (hld : s.podl.ldAt ≠ none) {n : Nat} (hn : n < 64) (hup : octetUp s n = true)
include hld hn hup

/-- A port that is up sees the bits that the frame brought. -/
theorem podlBusFrame_port {P : State → Prop} (hp : ∀ u, pseState u n = pseState s n → ∀ v,
      SamePort n (reviewFreeze (pseInput u n (s.podl.flt.getLsbD n) (s.podl.pg.getLsbD n)) n) v → P v) :
    Runs (.podlBusFrame time flt pg) s P := by
  refine runs_of_done (exec_podlBusFrame hmay) ?_
  obtain ⟨u, hu, hall⟩ := busLatched_port (s.at time) hn
  have hsdi : u.podl.sdi = podlSdi (s.at time) := congrArg (·.2.1) hu.bus
  have huup : octetUp u n = true := (hu.octetUp hn).trans hup
  have hflt : u.podl.sdi[2 * n]? = some (s.podl.flt.getLsbD n) := hsdi ▸ podlSdi_flt hn (s := s.at time) hld
  have hpg : u.podl.sdi[2 * n + 1]? = some (s.podl.pg.getLsbD n) := hsdi ▸ podlSdi_pg hn (s := s.at time) hld
  have hst : pseState (edgeOuts u n) n = pseState s n := pseState_of_reg (hu.regs _ (.inl (inPort_spReg (by decide))))
  have hend : SamePort n (busLatched (s.at time)) (busEnded flt pg (busLatched (s.at time))) := ⟨rfl, rfl, rfl, fun _ _ => rfl⟩
  refine hp (edgeOuts u n) hst _ ?_
  rw [← podlLatch_of_bits u n huup hflt hpg]
  exact hall.trans (hend.trans (finish_samePort hn _ _))

/-- As the port's registers and PHY show it. -/
theorem podlBusFrame_pse {P : State → Prop} (hp : ∀ u, pseState u n = pseState s n → ∀ v,
      v.reg (Reg.spPodlStat n) = (pseInput u n (s.podl.flt.getLsbD n) (s.podl.pg.getLsbD n)).reg (Reg.spPodlStat n) →
      (v.phy n).en = ((pseInput u n (s.podl.flt.getLsbD n) (s.podl.pg.getLsbD n)).phy n).en →
      (v.phy n).dis = ((pseInput u n (s.podl.flt.getLsbD n) (s.podl.pg.getLsbD n)).phy n).dis → P v) :
    Runs (.podlBusFrame time flt pg) s P := by
  refine podlBusFrame_port hmay hld hn hup fun u hu v hv => hp u hu v ?_ ?_ ?_
  · exact (hv.regs _ (.inl (inPort_spReg (by decide)))).trans (podlStat_reviewFreeze _ n)
  · obtain ⟨c, d, r, hphy⟩ := phy_reviewFreeze (pseInput u n (s.podl.flt.getLsbD n) (s.podl.pg.getLsbD n)) n
    rw [hv.phy, hphy]
  · obtain ⟨c, d, r, hphy⟩ := phy_reviewFreeze (pseInput u n (s.podl.flt.getLsbD n) (s.podl.pg.getLsbD n)) n
    rw [hv.phy, hphy]

theorem podlBusFrame_on (hst : pseState s n = 3) (hpg : s.podl.pg.getLsbD n = true) : Runs (.podlBusFrame time flt pg) s fun t =>
    pseState t n = 4 ∧ t.fld (Reg.spPodlStat n) 8 3 = 0 := by
  refine podlBusFrame_pse hmay hld hn hup fun u hu v hstat _ _ => ?_
  rw [hpg] at hstat
  rw [pseState_of_reg hstat, fld_of_reg hstat]
  exact pseInput_on (hu.trans hst)

theorem podlBusFrame_fault (hst : pseState s n = 4) (hbad : s.podl.flt.getLsbD n = true ∨ s.podl.pg.getLsbD n = false) :
    Runs (.podlBusFrame time flt pg) s fun t => pseState t n = 5 ∧ (t.phy n).en = false ∧ (t.phy n).dis = true ∧
      t.fld (Reg.spPodlStat n) 8 3 = if s.podl.flt.getLsbD n then 5 else 6 := by
  refine podlBusFrame_pse hmay hld hn hup fun u hu v hstat hen hdis => ?_
  rw [pseInput_fault (hu.trans hst) hbad] at hstat hen hdis
  rw [pseState_of_reg hstat, fld_of_reg hstat, hen, hdis]
  exact ⟨pseState_pseFault _ ⟨n, hn⟩ _, en_pseFault _ ⟨n, hn⟩ _, dis_pseFault _ ⟨n, hn⟩ _,
    fld_result_pseFault _ ⟨n, hn⟩ _ (by split <;> decide)⟩

theorem podlBusFrame_steady (hst : pseState s n = 4) (hflt : s.podl.flt.getLsbD n = false) (hpg : s.podl.pg.getLsbD n = true) :
    Runs (.podlBusFrame time flt pg) s fun t => pseState t n = 4 := by
  refine podlBusFrame_pse hmay hld hn hup fun u hu v hstat _ _ => ?_
  rw [hflt, hpg, pseInput_steady (hu.trans hst)] at hstat
  exact (pseState_of_reg hstat).trans (pseState_inputsShown.trans (hu.trans hst))

end

/-! ### The ends of a freeze and of a discharge (R341, R344) -/

section
variable {time : Nat} {n : Fin 64} {s : State} {d : Nat}

theorem WiredKept.frozen {s t : State} (h : WiredKept s t) (n : Fin 64) : frozen t n = frozen s n := by
  rw [Machine.frozen, Machine.frozen, h.phy, h.bit]
  exact inWired_spReg n (by decide)

/-- FROZEN shows whether a source freezes the port. -/
theorem frozen_putPhy (s : State) (n : Nat) (x : SpState) : frozen (putPhy s n x) n = (putPhy s n x).bit (Reg.spPhyStat n) 6 := by
  obtain ⟨c, d, r, hphy⟩ := phy_putPhy s n x
  have hadapt : (putPhy s n x).bit (Reg.spAdaptCtrl n) 0 = s.bit (Reg.spAdaptCtrl n) 0 := by
    refine bit_of_reg (reg_reviewFreeze_ne (s.setPhy n x) n ?_ ?_ ?_ ?_)
    all_goals exact spReg_ne (by decide)
  rw [bit_frozen_putPhy, frozen_eq, hphy, frozenBy, hadapt]
  rfl

theorem podlFreezeEnd_runs (hpwr : (s.phy n).pwr = some d) (hdue : d ≤ (s.at time).dt) : Runs (.podlFreezeEnd time n) s fun t =>
    (t.phy n).pwr = none ∧ t.bit (Reg.spPhyStat n) 6 = frozen t n := by
  have hexec : exec (.podlFreezeEnd time n) s = done s (putPhy (s.at time) n { s.phy n with pwr := none }) := by
    have hpwr' : ((s.at time).phy n).pwr = some d := hpwr
    show execPodlFreezeEnd time n s = _
    rw [execPodlFreezeEnd, hpwr']
    exact congrArg (done s) (if_pos hdue)
  refine runs_of_wired hexec fun v hv => ?_
  obtain ⟨c, e, r, hphy⟩ := phy_putPhy (s.at time) n { s.phy n with pwr := none }
  rw [hv.frozen, frozen_putPhy, hv.phy, hphy]
  exact ⟨rfl, hv.bit (inWired_spReg n (by decide)) 6⟩

theorem podlDischargeEnd_runs (hdis : (s.phy n).disAt = some d) (hdue : d + 100000000 ≤ (s.at time).dt) :
    Runs (.podlDischargeEnd time n) s fun t => (t.phy n).dis = false ∧ (t.phy n).disAt = none ∧ (t.phy n).en = (s.phy n).en := by
  have hexec : exec (.podlDischargeEnd time n) s =
      done s ((s.at time).setPhy n { setOuts (s.at time).dt (s.phy n) (s.phy n).en false with disAt := none }) := by
    have hdis' : ((s.at time).phy n).disAt = some d := hdis
    show execPodlDischargeEnd time n s = _
    rw [execPodlDischargeEnd, hdis']
    exact congrArg (done s) (if_pos hdue)
  refine runs_of_wired hexec fun v hv => ?_
  obtain ⟨l, hl⟩ := setOuts_eq (s.at time).dt (s.phy n) (s.phy n).en false
  rw [hv.phy, phy_setPhy_same, hl]
  exact ⟨rfl, rfl, rfl⟩

end

/-! ### The statement -/

/-- Settles O41: each clause but those of a bus frame is what one branch of its command leaves of the PSE; a bus frame does at each
port what its edge does there alone. -/
theorem psesFollowTheirStates : Obligations.PsesFollowTheirStates := by
  unfold Obligations.PsesFollowTheirStates
  refine ⟨fun time init n s hacc => ⟨?_, ?_⟩, fun time n s hup => ⟨fun hst hwait => ⟨?_, ?_⟩, ?_,
    fun c hst => ⟨?_, ?_⟩, ?_, fun hs => ⟨?_, ?_⟩⟩, fun time flt pg s => ⟨?_, fun hmay => ⟨?_, fun hld n hn hup => ⟨?_, ?_, ?_⟩⟩⟩,
    fun time s => ?_, fun time n s d => ?_, fun time n s d => ?_⟩
  · exact podlEnable_runs hacc
  · exact podlDisable_runs hacc
  · exact podlDetectDone_valid hup hst hwait
  · exact podlDetectDone_invalid hup hst hwait
  · exact podlClassRead_none hup
  · exact podlClassRead_allowed hup hst c
  · exact podlClassRead_refused hup hst c
  · exact podlPgTimeout_runs hup
  · exact podlRetry_fault hup hs
  · exact podlRetry_wait hup hs
  · exact podlBusFrame_early
  · exact podlBusFrame_latches hmay
  · exact podlBusFrame_on hmay hld hn hup
  · exact podlBusFrame_fault hmay hld hn hup
  · exact podlBusFrame_steady hmay hld hn hup
  · exact runs_of_wired rfl fun v hv => ⟨hv.podlFlt, hv.sp⟩
  · exact podlFreezeEnd_runs
  · exact podlDischargeEnd_runs

end Sys2Proof.Machine
end

section
/-! The stall ports and uplinks family: an uplink's link, its MACsec associations and its transmit ring (O44; R354, R355, R362 to R366). -/

namespace Sys2Proof.Machine

/-! ### What DMA accesses and losses leave of the wired ports -/

namespace WiredKept

variable {s t : State}

theorem ite {c : Prop} [Decidable c] {u : State} (h : c → WiredKept s t) (k : ¬c → WiredKept s u) : WiredKept s (if c then t else u) := by
  split
  · next hc => exact h hc
  · next hc => exact k hc

theorem setReg (h : WiredKept s t) {a : Nat} (w : Word) (ha : ¬inWired a) : WiredKept s (t.setReg a w) :=
  ⟨h.dt, h.port, h.sp, h.ul, h.podl, h.podlFlt,
   fun b hb => (reg_setReg_ne _ _ (by rintro rfl; exact ha hb)).trans (h.regs b hb)⟩

theorem each {α : Type} (h : WiredKept s t) (l : List α) {f : α → State → State}
    (hf : ∀ x ∈ l, ∀ u, WiredKept s u → WiredKept s (f x u)) : WiredKept s (t.each l f) := each_ind t (WiredKept s) l f h hf

theorem dmaUse (h : WiredKept s t) {q : Nat} (hq : q < 8) (h0 : q ≠ 0) (a n : Nat) (write : Bool) :
    WiredKept s (dmaUse t q a n write) := h.trans (dmaUse_traffic t hq h0 a n write).wiredKept

theorem dmaWrite (h : WiredKept s t) {q : Nat} (hq : q < 8) (h0 : q ≠ 0) (l2 : Bool) (a : Nat) (bs : List Byte) :
    WiredKept s (dmaWrite t q l2 a bs) := by
  have hused := h.dmaUse hq h0 a bs.length true
  unfold Machine.dmaWrite
  refine .ite (fun _ => .ite (fun _ => h.setReg (a := Reg.secIrqRaw) _ (by decide)) fun _ => h) fun _ => .ite (fun _ => hused) fun _ =>
    .ite (fun _ => hused.trans ⟨rfl, rfl, rfl, rfl, rfl, rfl, fun _ _ => rfl⟩) fun _ =>
    hused.trans ⟨rfl, rfl, rfl, rfl, rfl, rfl, fun _ _ => rfl⟩

theorem txBackAll (h : WiredKept s t) {r : Ring} (hr : r.port < 8) (h0 : r.port ≠ 0) (status n : Nat) :
    WiredKept s (txBackAll t r status n) := h.each _ fun _ _ _ hu => hu.dmaWrite hr h0 _ _ _

theorem fetchUse (h : WiredKept s t) {r : Ring} (hr : r.port < 8) (h0 : r.port ≠ 0) (l : List Nat) (bufs : Bool) :
    WiredKept s (fetchUse t r l bufs) :=
  h.each _ fun _ _ _ hu => .ite (fun _ => (hu.dmaUse hr h0 _ _ _).dmaUse hr h0 _ _ _) fun _ => hu.dmaUse hr h0 _ _ _

end WiredKept

theorem staEvent_wiredKept (s : State) (kind x arg : Nat) : WiredKept s (staEvent s kind x arg) := by
  unfold staEvent
  extract_lets raised h
  have hraised : WiredKept s raised := (WiredKept.refl s).setReg (a := Reg.staIrqRaw) _ (by decide)
  have hh : h < 2 ^ 8 := nbits_lt _ 0 8
  clear_value raised h
  refine .ite (fun _ => (hraised.setReg (a := Reg.staEvtLost) _ (by decide)).setReg (a := Reg.staIrqRaw) _ (by decide)) fun _ =>
    ((hraised.setReg _ ?_).setReg _ ?_).setReg (a := Reg.staEvtHead) _ (by decide)
  · simp only [inWired, Reg.staEvtW0]; omega
  · simp only [inWired, Reg.staEvtW1]; omega

theorem setLoss_wiredKept (s : State) (v : Nat) : WiredKept s (setLoss s v) := by
  have hrecorded : WiredKept s (lossRecorded s (lossNext s v)) :=
    ((WiredKept.refl s).setReg (a := Reg.staLossState) _ (by decide)).trans ((Aside.refl _).tapRecord (by decide) _ _ _ _ _).wiredKept
  have hdue : WiredKept s { lossRecorded s (lossNext s v) with sta := { (lossRecorded s (lossNext s v)).sta with fbDue := true } } :=
    hrecorded.trans ⟨rfl, rfl, rfl, rfl, rfl, rfl, fun _ _ => rfl⟩
  rw [setLoss_eq]
  exact .ite (fun _ => .refl s) fun _ => hdue.trans (staEvent_wiredKept _ 6 0 _)

/-! ### The link of an uplink (R355) -/

/-- A lost link of uplink `u` shown and counted. -/
def ulCounted (s : State) (u : Nat) : State :=
  let t := ((s.setBit (Reg.ulUlStat u) 0 false).raise (Reg.ulIrqRaw u) 0).inc (Reg.ulLinkDownCnt u)
  { t with sta := { t.sta with ulUp := bankSet (fun _ => none) t.sta.ulUp u none } }

section
variable (s : State) (u : Fin 2) (c : UlLoss)

theorem ulDown_eq (h : s.bit (Reg.ulUlStat u) 0 = true) :
    ulDown s u c = raiseFault (setLossBit (ulCause (ulCounted s u) u c) u true) 5 u .fallback 0 := if_pos h

theorem bit_link_ulCause : (ulCause s u c).bit (Reg.ulUlStat u) 0 = s.bit (Reg.ulUlStat u) 0 := by
  rw [State.bit, ulCause, reg_setFlds_same]
  exact (bitOf_putBits_out _ 2 1 _ 0 (.inl (by decide))).trans (bitOf_putBits_out _ 1 1 _ 0 (.inl (by decide)))

theorem reg_ulCause_ne {a : Nat} (ha : a ≠ Reg.ulUlStat u) : (ulCause s u c).reg a = s.reg a := reg_setFlds_ne _ _ _ ha

theorem reg_ulCounted (a : Nat) :
    (ulCounted s u).reg a = (((s.setBit (Reg.ulUlStat u) 0 false).raise (Reg.ulIrqRaw u) 0).inc (Reg.ulLinkDownCnt u)).reg a := rfl

theorem bit_link_ulCounted : (ulCounted s u).bit (Reg.ulUlStat u) 0 = false := by
  rw [State.bit, reg_ulCounted, reg_inc_ne _ _ ?_, reg_raise_ne _ _ _ ?_, reg_setBit_same, bitOf_putBit_same _ _ _ (by decide)]
  all_goals exact ulReg_ne (by decide)

theorem bit_irq_ulCounted : (ulCounted s u).bit (Reg.ulIrqRaw u) 0 = true := by
  rw [State.bit, reg_ulCounted, reg_inc_ne _ _ ?_, reg_raise_same, bitOf_putBit_same _ _ _ (by decide)]
  exact ulReg_ne (by decide)

theorem regN_linkDownCnt_ulCounted :
    (ulCounted s u).regN (Reg.ulLinkDownCnt u) = min (s.regN (Reg.ulLinkDownCnt u) + 1) 0xFFFFFFFF := by
  have hold : ((s.setBit (Reg.ulUlStat u) 0 false).raise (Reg.ulIrqRaw u) 0).reg (Reg.ulLinkDownCnt u) = s.reg (Reg.ulLinkDownCnt u) := by
    rw [reg_raise_ne _ _ _ ?_, reg_setBit_ne _ _ _ _ ?_]
    all_goals exact ulReg_ne (by decide)
  rw [regN_of_reg (reg_ulCounted s u _), inc_regN_same, regN_of_reg hold]

theorem ulDown_wiredKept (h : s.bit (Reg.ulUlStat u) 0 = true) : WiredKept (ulCause (ulCounted s u) u c) (ulDown s u c) := by
  rw [ulDown_eq s u c h]
  exact (setLoss_wiredKept _ _).trans (raiseFault_wiredKept _ (by decide) _ _ _)

theorem bit_lossState_ulDown (h : s.bit (Reg.ulUlStat u) 0 = true) : (ulDown s u c).bit Reg.staLossState u = true := by
  have hu : u.val < 4 := by omega
  rw [ulDown_eq s u c h, bit_of_reg ((raiseFault_lossKept _ (by decide) _ _ _).regs _ (by decide)), bit_setLossBit _ _ hu hu, if_pos rfl]

end

/-- LINK set, with what UL_STAT shows of the mode in use. -/
def ulShownUp (s : State) (u : Nat) : State :=
  s.setFlds (Reg.ulUlStat u) [(0, 1, 1), (1, 1, bnat (decide (ulMode s u ≤ 2))), (2, 1, 0),
    (3, 1, bnat (decide (ulMode s u = 4) || (decide (ulMode s u = 3) && s.bit (Reg.ulUlCtrl u) 4)))]

/-- A link of uplink `u` that came up. -/
def ulRisen (s : State) (u : Nat) : State :=
  { (ulShownUp s u).raise (Reg.ulIrqRaw u) 0 with sta := { s.sta with ulUp := bankSet (fun _ => none) s.sta.ulUp u (some s.dt) } }

theorem regs_withSta (s : State) (x : StaState) : ({ s with sta := x } : State).regs = s.regs := rfl

theorem reg_ulRisen (s : State) (u a : Nat) : (ulRisen s u).reg a = ((ulShownUp s u).raise (Reg.ulIrqRaw u) 0).reg a :=
  reg_congr _ (regs_withSta _ _) a

theorem ulStat_ulRisen (s : State) (u : Nat) : (ulRisen s u).reg (Reg.ulUlStat u) =
    putBit (putBit (putBit (putBit (s.reg (Reg.ulUlStat u)) 0 true) 1 (decide (ulMode s u ≤ 2))) 2 false) 3
      (decide (ulMode s u = 4) || (decide (ulMode s u = 3) && s.bit (Reg.ulUlCtrl u) 4)) := by
  rw [reg_ulRisen, reg_raise_ne _ _ _ ?_, ulShownUp, reg_setFlds_same]
  · rfl
  · exact ulReg_ne (by decide)

/-! ### The speed in use (R354) -/

theorem ulLat_lt (s : State) (u : Nat) : ulLat s u < 2 ^ 32 := by
  unfold ulLat
  extract_lets l
  have hl : ∀ rx tx, rx < 65536 → tx < 65536 → l rx tx < 2 ^ 32 := fun rx tx hr ht => by simp only [l]; omega
  repeat' split
  any_goals exact hl _ _ (by decide) (by decide)
  all_goals decide

theorem ulLat_congr {s t : State} {u : Nat} (hctrl : t.reg (Reg.ulUlCtrl u) = s.reg (Reg.ulUlCtrl u))
    (hstat : t.reg (Reg.ulUlStat u) = s.reg (Reg.ulUlStat u)) : ulLat t u = ulLat s u := by
  have hmode : ulMode t u = ulMode s u := by
    rw [ulMode, fld_of_reg hctrl]; rfl
  rw [ulLat, hmode, bit_of_reg hctrl, fld_of_reg hstat]
  rfl

/-- The link and the speed that a link word reports. -/
def linkWordShown (s : State) (u : Nat) (up : Bool) (v : Nat) : State :=
  (s.setUplink u { s.uplink u with lwDown := if up then none else some ((s.uplink u).lwDown.getD s.dt) }).setFlds (Reg.ulUlStat u)
    [(3, 1, bnat up), (4, 2, v)]

theorem ulStat_linkWordShown (s : State) (u : Nat) (up : Bool) (v : Nat) : (linkWordShown s u up v).reg (Reg.ulUlStat u) =
    putBits (putBit (s.reg (Reg.ulUlStat u)) 3 up) 4 2 v := reg_setFlds_same _ _ _

section
variable {s : State} {time : Nat} {u : Fin 2} (hpow : islPowered s 19 = true)
include hpow

theorem uplinkLinkDown_runs {c : UlLoss} {lost : Nat} (hlink : s.bit (Reg.ulUlStat u) 0 = true)
    (hlost : ulLost (s.at time) u c lost = true) : Runs (.uplinkLinkDown time ⟨u, c, lost⟩) s fun t =>
      t.bit (Reg.ulUlStat u) 0 = false ∧ t.bit Reg.staLossState u = true ∧ t.bit (Reg.ulIrqRaw u) 0 = true ∧
      t.regN (Reg.ulLinkDownCnt u) = min (s.regN (Reg.ulLinkDownCnt u) + 1) 0xFFFFFFFF := by
  have hgo : (islPowered (s.at time) 19 && ulLost (s.at time) u c lost) = true := Bool.and_eq_true_iff.2 ⟨hpow, hlost⟩
  have hdown := ulDown_wiredKept (s.at time) u c hlink
  have hloss := bit_lossState_ulDown (s.at time) u c hlink
  refine runs_of_done (congrArg (done s) (if_pos hgo)) ?_
  have hv := hdown.trans (finish_wiredKept s _)
  refine ⟨?_, ?_, ?_, ?_⟩
  · rw [hv.bit (a := Reg.ulUlStat u) (inWired_ulReg u (by decide)), bit_link_ulCause, bit_link_ulCounted]
  · rw [bit_of_reg ((finish_lossKept s _).regs _ (by decide)), hloss]
  · rw [hv.bit (a := Reg.ulIrqRaw u) (inWired_ulReg u (by decide)), bit_of_reg (reg_ulCause_ne _ _ _ ?_), bit_irq_ulCounted]
    exact ulReg_ne (by decide)
  · rw [hv.regN (a := Reg.ulLinkDownCnt u) (inWired_ulReg u (by decide)), regN_of_reg (reg_ulCause_ne _ _ _ ?_), regN_linkDownCnt_ulCounted]
    · rfl
    · exact ulReg_ne (by decide)

theorem uplinkLinkUp_runs (hlink : s.bit (Reg.ulUlStat u) 0 = false) (hmode : ulMode s u ≠ 0)
    (hword : ulMode s u = 4 → (s.uplink u).lwDown = none) : Runs (.uplinkLinkUp time u) s fun t =>
      t.bit (Reg.ulUlStat u) 0 = true ∧ t.bit (Reg.ulIrqRaw u) 0 = true ∧ t.fld (Reg.ulUlStat u) 4 2 = s.fld (Reg.ulUlStat u) 4 2 ∧
      t.bit (Reg.ulUlStat u) 1 = decide (ulMode s u ≤ 2) ∧ t.bit (Reg.ulUlStat u) 2 = false := by
  have hidle : (decide (ulMode s u = 4) && (s.uplink u).lwDown.isSome) = false := by
    by_cases h4 : ulMode s u = 4
    · rw [hword h4]; exact Bool.and_false _
    · rw [decide_eq_false h4]; rfl
  have hgo : (islPowered (s.at time) 19 && decide (ulMode (s.at time) u ≠ 0) && !(s.at time).bit (Reg.ulUlStat u) 0 &&
      !(decide (ulMode (s.at time) u = 4) && ((s.at time).uplink u).lwDown.isSome)) = true := by
    show (islPowered s 19 && decide (ulMode s u ≠ 0) && !s.bit (Reg.ulUlStat u) 0 &&
      !(decide (ulMode s u = 4) && (s.uplink u).lwDown.isSome)) = true
    rw [hpow, decide_eq_true hmode, hlink, hidle]; rfl
  have hexec : exec (.uplinkLinkUp time u) s = done s (ulRisen (s.at time) u) := congrArg (done s) (if_pos hgo)
  refine runs_of_wired hexec fun v hv => ?_
  have hirq : (ulRisen (s.at time) u).bit (Reg.ulIrqRaw u) 0 = true := by
    rw [State.bit, reg_ulRisen, reg_raise_same, bitOf_putBit_same _ _ _ (by decide)]
  rw [hv.bit (a := Reg.ulIrqRaw u) (inWired_ulReg u (by decide)), hirq]
  simp only [State.bit, State.fld, hv.regs (Reg.ulUlStat u) (inWired_ulReg u (by decide)), ulStat_ulRisen]
  refine ⟨?_, trivial, ?_, ?_, ?_⟩
  · rw [bitOf_putBit_ne _ _ (by decide), bitOf_putBit_ne _ _ (by decide), bitOf_putBit_ne _ _ (by decide), bitOf_putBit_same _ _ _ (by decide)]
  · rw [bitsOf_putBit_out _ _ _ _ _ (.inr (by decide)), bitsOf_putBit_out _ _ _ _ _ (.inr (by decide)),
      bitsOf_putBit_out _ _ _ _ _ (.inr (by decide)), bitsOf_putBit_out _ _ _ _ _ (.inr (by decide))]
    rfl
  · rw [bitOf_putBit_ne _ _ (by decide), bitOf_putBit_ne _ _ (by decide), bitOf_putBit_same _ _ _ (by decide)]
    rfl
  · rw [bitOf_putBit_ne _ _ (by decide), bitOf_putBit_same _ _ _ (by decide)]

theorem sgmiiLinkWord_sgmii {up : Bool} {v : Fin 3} (hmode : ulMode s u = 4) : Runs (.sgmiiLinkWord time u up v) s fun t =>
    t.fld (Reg.ulUlStat u) 4 2 = v.val ∧ t.bit (Reg.ulUlStat u) 3 = up ∧ t.regN (Reg.ulPhyLat u) = ulLat t u ∧
    (t.uplink u).lwDown = if up then none else some ((s.uplink u).lwDown.getD (s.at time).dt) := by
  have hgo : (islPowered (s.at time) 19 && decide (ulMode (s.at time) u = 4)) = true :=
    Bool.and_eq_true_iff.2 ⟨hpow, decide_eq_true hmode⟩
  have hexec : exec (.sgmiiLinkWord time u up v) s = done s ((linkWordShown (s.at time) u up v).setNat (Reg.ulPhyLat u)
      (ulLat (linkWordShown (s.at time) u up v) u)) := congrArg (done s) (if_pos hgo)
  refine runs_of_wired hexec fun t ht => ?_
  have hstat : t.reg (Reg.ulUlStat u) = (linkWordShown (s.at time) u up v).reg (Reg.ulUlStat u) :=
    (ht.regs _ (inWired_ulReg u (by decide))).trans (reg_setNat_ne _ _ _ (ulReg_ne (by decide)))
  have hctrl : t.reg (Reg.ulUlCtrl u) = (linkWordShown (s.at time) u up v).reg (Reg.ulUlCtrl u) :=
    (ht.regs _ (inWired_ulReg u (by decide))).trans (reg_setNat_ne _ _ _ (ulReg_ne (by decide)))
  refine ⟨?_, ?_, ?_, ?_⟩
  · rw [fld_of_reg hstat, State.fld, ulStat_linkWordShown, bitsOf_putBits_same _ _ _ _ (by decide)]
    exact Nat.mod_eq_of_lt (by omega)
  · rw [bit_of_reg hstat, State.bit, ulStat_linkWordShown, bitOf_putBits_out _ _ _ _ _ (.inl (by decide)), bitOf_putBit_same _ _ _ (by decide)]
  · rw [ht.regN (a := Reg.ulPhyLat u) (inWired_ulReg u (by decide)), regN_setNat_same, Nat.mod_eq_of_lt (ulLat_lt _ _), ulLat_congr hctrl hstat]
  · rw [ht.uplink]
    exact congrArg (·.lwDown) (uplink_setUplink_same _ _ _)

omit hpow in
theorem sgmiiLinkWord_other {up : Bool} {v : Fin 3} (hmode : ulMode s u ≠ 4) : Runs (.sgmiiLinkWord time u up v) s fun t =>
    t.reg (Reg.ulUlStat u) = s.reg (Reg.ulUlStat u) := by
  have hno : ¬(islPowered (s.at time) 19 && decide (ulMode (s.at time) u = 4)) = true := by
    rw [Bool.and_eq_true, decide_eq_true_eq]
    exact fun h => hmode h.2
  exact runs_of_wired (congrArg (done s) (if_neg hno)) fun t ht => ht.regs _ (inWired_ulReg u (by decide))

end

end Sys2Proof.Machine
end

section
/-! The stall ports and uplinks family: an uplink's MACsec associations and its transmit ring (O44; R362 to R366). -/

namespace Sys2Proof.Machine

/-! ### SEC_SA_CMD (R362) -/

theorem ulSecKeyData_ne {u j o : Nat} (hj : j < 8) (ho : o < 0x41200250 ∨ 0x41200270 ≤ o) : Reg.ulSecKeyData u j ≠ o + u * 0x10000 := by
  simp only [Reg.ulSecKeyData]; omega

theorem inWired_ulSecKeyData (u : Fin 2) {j : Nat} (hj : j < 8) : inWired (Reg.ulSecKeyData u j) := by
  simp only [inWired, Reg.ulSecKeyData]; omega

/-- Registers set to 0 one after the other. -/
theorem reg_clearEach (f : Nat → Nat) (l : List Nat) (a : Nat) (s : State) :
    (s.each l fun k t => t.setReg (f k) 0).reg a = if a ∈ l.map f then 0 else s.reg a := by
  induction l generalizing s with
  | nil => rfl
  | cons k l ih =>
    refine (ih (s.setReg (f k) 0)).trans ?_
    by_cases hl : a ∈ l.map f
    · rw [if_pos hl, if_pos (by rw [List.map_cons]; exact List.mem_cons_of_mem _ hl)]
    · rw [if_neg hl, reg_setReg]
      simp [List.map_cons, hl]

section
variable (s : State) (u : Nat)

/-- The key in SEC_KEY_DATA. -/
def secKey : List Byte := (List.range 8).flatMap fun k => leBytes 4 (s.regN (Reg.ulSecKeyData u k))

/-- SEC_KEY_DATA cleared. -/
def keysCleared : State := s.each (List.range 8) fun k t => t.setReg (Reg.ulSecKeyData u k) 0

/-- SEC_KEY_DATA taken, and the command's result. -/
def keyTaken : State := (keysCleared s u).setNat (Reg.ulSecSaStat u) 0

theorem ul_keysCleared : (keysCleared s u).ul = s.ul := each_ind s (fun t => t.ul = s.ul) _ _ rfl fun _ _ _ ht => ht

theorem ul_keyTaken : (keyTaken s u).ul = s.ul := (setNat_ul _ _ _).trans (ul_keysCleared s u)

theorem reg_keyTaken_key {j : Nat} (hj : j < 8) : (keyTaken s u).reg (Reg.ulSecKeyData u j) = 0 := by
  rw [keyTaken, reg_setNat_ne _ _ _ ?_, keysCleared, reg_clearEach, if_pos]
  · exact List.mem_map.2 ⟨j, List.mem_range.2 hj, rfl⟩
  · exact ulSecKeyData_ne hj (.inr (by decide))

theorem reg_keyTaken_ne {a : Nat} (hkey : ∀ j, j < 8 → Reg.ulSecKeyData u j ≠ a) (hstat : a ≠ Reg.ulSecSaStat u) :
    (keyTaken s u).reg a = s.reg a := by
  rw [keyTaken, reg_setNat_ne _ _ _ hstat, keysCleared, reg_clearEach, if_neg]
  rw [List.mem_map]
  exact fun ⟨j, hj, he⟩ => hkey j (List.mem_range.1 hj) he

theorem regN_saStat_keyTaken : (keyTaken s u).regN (Reg.ulSecSaStat u) = 0 := regN_setNat_same _ _ _

/-- A transmit SA as an uplink has it. -/
def txSaOf (k : Nat) : Option Sa := bankGet (fun _ => none) (s.uplink u).txSa k

/-- A receive SA as an uplink has it. -/
def rxSaOf (k : Nat) : Option Sa := bankGet (fun _ => none) (s.uplink u).rxSa k

theorem reg_setTxSa_ne {a : Nat} (an : Nat) (x : Option Sa) (ha : a ≠ Reg.ulSecTxPn u) : (setTxSa s u an x).reg a = s.reg a :=
  reg_setNat_ne _ _ _ ha

theorem txSaOf_setTxSa (an : Nat) (x : Option Sa) (j : Nat) : txSaOf (setTxSa s u an x) u j = if j = an then x else txSaOf s u j := by
  have hset : (setTxSa s u an x).uplink u = { s.uplink u with txSa := bankSet (fun _ => none) (s.uplink u).txSa an x } :=
    uplink_setUplink_same _ _ _
  rw [txSaOf, hset, bankGet_bankSet]
  rfl

theorem reg_setRxSa (k : Nat) (x : Option Sa) (a : Nat) : (setRxSa s u k x).reg a = s.reg a := rfl

theorem rxSaOf_setRxSa (k : Nat) (x : Option Sa) (j : Nat) : rxSaOf (setRxSa s u k x) u j = if j = k then x else rxSaOf s u j := by
  have hset : (setRxSa s u k x).uplink u = { s.uplink u with rxSa := bankSet (fun _ => none) (s.uplink u).rxSa k x } :=
    uplink_setUplink_same _ _ _
  rw [rxSaOf, hset, bankGet_bankSet]
  rfl

end

/-! ### The command's effects -/

section
variable {s : State} {u : Nat}

section
variable (hinst : s.bit (Reg.ulSecSaCtrl u) 5 = false)
include hinst

theorem secCmd_installTx (hrx : s.bit (Reg.ulSecSaCtrl u) 4 = false) :
    secCmd s u = setTxSa (keyTaken s u) u (s.fld (Reg.ulSecSaCtrl u) 0 2) (some ⟨secKey s u, s.regN (Reg.ulSecSaPn u)⟩) :=
  (if_neg (Bool.eq_false_iff.1 hinst)).trans (if_neg (Bool.eq_false_iff.1 hrx))

theorem secCmd_installRx (hrx : s.bit (Reg.ulSecSaCtrl u) 4 = true) :
    secCmd s u = setRxSa (keyTaken s u) u (4 * s.fld (Reg.ulSecSaCtrl u) 2 2 + s.fld (Reg.ulSecSaCtrl u) 0 2)
      (some ⟨secKey s u, s.regN (Reg.ulSecSaPn u) + s.regN (Reg.ulSecWindow u)⟩) := by
  have hwindow : (keyTaken s u).regN (Reg.ulSecWindow u) = s.regN (Reg.ulSecWindow u) :=
    regN_of_reg (reg_keyTaken_ne s u (fun j hj => ulSecKeyData_ne hj (.inl (by decide))) (ulReg_ne (by decide)))
  rw [← hwindow]
  exact (if_neg (Bool.eq_false_iff.1 hinst)).trans (if_pos hrx)

end

section
variable (hrem : s.bit (Reg.ulSecSaCtrl u) 5 = true)
include hrem

theorem secCmd_removeRx (hrx : s.bit (Reg.ulSecSaCtrl u) 4 = true) : secCmd s u = setRxSa (s.setNat (Reg.ulSecSaStat u) 0) u
    (4 * s.fld (Reg.ulSecSaCtrl u) 2 2 + s.fld (Reg.ulSecSaCtrl u) 0 2) none := (if_pos hrem).trans (if_pos hrx)

variable (hrx : s.bit (Reg.ulSecSaCtrl u) 4 = false)
include hrx

theorem secCmd_removeTx (hfree : s.fld (Reg.ulSecTxSa u) 0 2 ≠ s.fld (Reg.ulSecSaCtrl u) 0 2) :
    secCmd s u = setTxSa (s.setNat (Reg.ulSecSaStat u) 0) u (s.fld (Reg.ulSecSaCtrl u) 0 2) none :=
  (if_pos hrem).trans ((if_neg (Bool.eq_false_iff.1 hrx)).trans (if_neg hfree))

/-- The transmit SA in use cannot be removed. -/
theorem secCmd_inUse (hused : s.fld (Reg.ulSecTxSa u) 0 2 = s.fld (Reg.ulSecSaCtrl u) 0 2) :
    secCmd s u = s.setNat (Reg.ulSecSaStat u) 16 :=
  (if_pos hrem).trans ((if_neg (Bool.eq_false_iff.1 hrx)).trans (if_pos hused))

end

theorem reg_installTx_key {an : Nat} {x : Option Sa} {j : Nat} (hj : j < 8) : (setTxSa (keyTaken s u) u an x).reg (Reg.ulSecKeyData u j) = 0 :=
  (reg_setTxSa_ne _ _ _ _ (ulSecKeyData_ne hj (.inl (by decide)))).trans (reg_keyTaken_key s u hj)

theorem txSaOf_keyTaken (j : Nat) : txSaOf (keyTaken s u) u j = txSaOf s u j := by
  rw [txSaOf, State.uplink, ul_keyTaken]; rfl

theorem rxSaOf_keyTaken (j : Nat) : rxSaOf (keyTaken s u) u j = rxSaOf s u j := by
  rw [rxSaOf, State.uplink, ul_keyTaken]; rfl

theorem regN_saStat_setTxSa (an : Nat) (x : Option Sa) : (setTxSa s u an x).regN (Reg.ulSecSaStat u) = s.regN (Reg.ulSecSaStat u) :=
  regN_of_reg (reg_setTxSa_ne _ _ _ _ (ulReg_ne (by decide)))

end

/-! ### SEC_SA_INSTALL and SEC_SA_REMOVE (R362) -/

section
variable {s : State} {time : Nat} {init : Init} {u : Fin 2}

/-- The operands of SEC_SA_CMD of an uplink: its SA_CTRL, SA_PN and SEC_WINDOW, the SA in use and the key. -/
structure SecSame (u : Nat) (s t : State) : Prop where
  ctrl : t.reg (Reg.ulSecSaCtrl u) = s.reg (Reg.ulSecSaCtrl u)
  pn : t.regN (Reg.ulSecSaPn u) = s.regN (Reg.ulSecSaPn u)
  window : t.regN (Reg.ulSecWindow u) = s.regN (Reg.ulSecWindow u)
  cur : t.reg (Reg.ulSecTxSa u) = s.reg (Reg.ulSecTxSa u)
  key : secKey t u = secKey s u

theorem WiredKept.secSame {s t : State} {time : Nat} (h : WiredKept (s.at time) t) (u : Fin 2) : SecSame u s t where
  ctrl := h.regs _ (inWired_ulReg u (by decide))
  pn := h.regN (inWired_ulReg u (by decide))
  window := h.regN (inWired_ulReg u (by decide))
  cur := h.regs _ (inWired_ulReg u (by decide))
  key := congrArg List.flatten (List.map_congr_left fun j hj => by
    rw [h.regN (inWired_ulSecKeyData u (List.mem_range.1 hj))]; rfl)

theorem WiredKept.txSaOf {s t : State} (h : WiredKept s t) (u j : Nat) : txSaOf t u j = txSaOf s u j := by
  rw [Machine.txSaOf, h.uplink]; rfl

theorem WiredKept.rxSaOf {s t : State} (h : WiredKept s t) (u j : Nat) : rxSaOf t u j = rxSaOf s u j := by
  rw [Machine.rxSaOf, h.uplink]; rfl

theorem inWired_ulSecSaStat (u : Fin 2) : inWired (Reg.ulSecSaStat u) := inWired_ulReg u (by decide)

variable (hacc : accepts s init (Reg.ulSecSaCmd u) true = true)
include hacc

section
variable (hinst : s.bit (Reg.ulSecSaCtrl u) 5 = false)
include hinst

theorem secSaInstall_tx (hrx : s.bit (Reg.ulSecSaCtrl u) 4 = false) : Runs (.secSaInstall time init u) s fun t =>
    (∀ j, j < 8 → t.reg (Reg.ulSecKeyData u j) = 0) ∧ t.regN (Reg.ulSecSaStat u) = 0 ∧
    txSaOf t u (s.fld (Reg.ulSecSaCtrl u) 0 2) = some ⟨secKey s u, s.regN (Reg.ulSecSaPn u)⟩ ∧
    ∀ j, j ≠ s.fld (Reg.ulSecSaCtrl u) 0 2 → txSaOf t u j = txSaOf s u j := by
  refine runs_of_wiredWrite rfl hacc fun w hw v hv => ?_
  have hops : SecSame u s w := hw.secSame u
  rw [secCmd_installTx ((bit_of_reg hops.ctrl).trans hinst) ((bit_of_reg hops.ctrl).trans hrx), hops.key, hops.pn, fld_of_reg hops.ctrl] at hv
  refine ⟨fun j hj => (hv.regs _ (inWired_ulSecKeyData u hj)).trans (reg_installTx_key hj), ?_, ?_, fun j hj => ?_⟩
  · rw [hv.regN (inWired_ulSecSaStat u), regN_saStat_setTxSa, regN_saStat_keyTaken]
  · rw [hv.txSaOf, txSaOf_setTxSa]
    exact if_pos rfl
  · rw [hv.txSaOf, txSaOf_setTxSa, if_neg hj, txSaOf_keyTaken, hw.txSaOf]
    rfl

theorem secSaInstall_rx (hrx : s.bit (Reg.ulSecSaCtrl u) 4 = true) : Runs (.secSaInstall time init u) s fun t =>
    (∀ j, j < 8 → t.reg (Reg.ulSecKeyData u j) = 0) ∧ t.regN (Reg.ulSecSaStat u) = 0 ∧
    rxSaOf t u (4 * s.fld (Reg.ulSecSaCtrl u) 2 2 + s.fld (Reg.ulSecSaCtrl u) 0 2) =
      some ⟨secKey s u, s.regN (Reg.ulSecSaPn u) + s.regN (Reg.ulSecWindow u)⟩ ∧
    ∀ j, j ≠ 4 * s.fld (Reg.ulSecSaCtrl u) 2 2 + s.fld (Reg.ulSecSaCtrl u) 0 2 → rxSaOf t u j = rxSaOf s u j := by
  refine runs_of_wiredWrite rfl hacc fun w hw v hv => ?_
  have hops : SecSame u s w := hw.secSame u
  rw [secCmd_installRx ((bit_of_reg hops.ctrl).trans hinst) ((bit_of_reg hops.ctrl).trans hrx), hops.key, hops.pn, hops.window,
    fld_of_reg hops.ctrl, fld_of_reg hops.ctrl] at hv
  refine ⟨fun j hj => ?_, ?_, ?_, fun j hj => ?_⟩
  · rw [hv.regs _ (inWired_ulSecKeyData u hj), reg_setRxSa, reg_keyTaken_key w u hj]
  · rw [hv.regN (inWired_ulSecSaStat u), regN_of_reg (reg_setRxSa _ _ _ _ _), regN_saStat_keyTaken]
  · rw [hv.rxSaOf, rxSaOf_setRxSa]
    exact if_pos rfl
  · rw [hv.rxSaOf, rxSaOf_setRxSa, if_neg hj, rxSaOf_keyTaken, hw.rxSaOf]
    rfl

end

section
variable (hrem : s.bit (Reg.ulSecSaCtrl u) 5 = true)
include hrem

theorem secSaRemove_rx (hrx : s.bit (Reg.ulSecSaCtrl u) 4 = true) : Runs (.secSaRemove time init u) s fun t =>
    rxSaOf t u (4 * s.fld (Reg.ulSecSaCtrl u) 2 2 + s.fld (Reg.ulSecSaCtrl u) 0 2) = none ∧ t.regN (Reg.ulSecSaStat u) = 0 := by
  refine runs_of_wiredWrite rfl hacc fun w hw v hv => ?_
  have hops : SecSame u s w := hw.secSame u
  rw [secCmd_removeRx ((bit_of_reg hops.ctrl).trans hrem) ((bit_of_reg hops.ctrl).trans hrx), fld_of_reg hops.ctrl, fld_of_reg hops.ctrl] at hv
  rw [hv.rxSaOf, rxSaOf_setRxSa, if_pos rfl, hv.regN (inWired_ulSecSaStat u), regN_of_reg (reg_setRxSa _ _ _ _ _), regN_setNat_same]
  exact ⟨rfl, rfl⟩

variable (hrx : s.bit (Reg.ulSecSaCtrl u) 4 = false)
include hrx

theorem secSaRemove_tx (hfree : s.fld (Reg.ulSecTxSa u) 0 2 ≠ s.fld (Reg.ulSecSaCtrl u) 0 2) : Runs (.secSaRemove time init u) s fun t =>
    txSaOf t u (s.fld (Reg.ulSecSaCtrl u) 0 2) = none ∧ t.regN (Reg.ulSecSaStat u) = 0 := by
  refine runs_of_wiredWrite rfl hacc fun w hw v hv => ?_
  have hops : SecSame u s w := hw.secSame u
  have hfree' : w.fld (Reg.ulSecTxSa u) 0 2 ≠ w.fld (Reg.ulSecSaCtrl u) 0 2 := by
    rw [fld_of_reg hops.cur, fld_of_reg hops.ctrl]
    exact hfree
  rw [secCmd_removeTx ((bit_of_reg hops.ctrl).trans hrem) ((bit_of_reg hops.ctrl).trans hrx) hfree', fld_of_reg hops.ctrl] at hv
  rw [hv.txSaOf, txSaOf_setTxSa, if_pos rfl, hv.regN (inWired_ulSecSaStat u), regN_saStat_setTxSa, regN_setNat_same]
  exact ⟨rfl, rfl⟩

theorem secSaRemove_inUse (hused : s.fld (Reg.ulSecTxSa u) 0 2 = s.fld (Reg.ulSecSaCtrl u) 0 2) : Runs (.secSaRemove time init u) s fun t =>
    t.ul = s.ul ∧ t.bit (Reg.ulSecSaStat u) 4 = true := by
  refine runs_of_wiredWrite rfl hacc fun w hw v hv => ?_
  have hops : SecSame u s w := hw.secSame u
  have hused' : w.fld (Reg.ulSecTxSa u) 0 2 = w.fld (Reg.ulSecSaCtrl u) 0 2 := by
    rw [fld_of_reg hops.cur, fld_of_reg hops.ctrl]
    exact hused
  rw [secCmd_inUse ((bit_of_reg hops.ctrl).trans hrem) ((bit_of_reg hops.ctrl).trans hrx) hused'] at hv
  refine ⟨hv.ul.trans hw.ul, ?_⟩
  rw [hv.bit (inWired_ulSecSaStat u), State.bit, reg_setNat_same]
  rfl

end

end

/-! ### DIR_TX_TAIL_WRITE (R364) -/

theorem plainMask_ulTxTail : ∀ u : Fin 2, plainMask (Reg.ulTxTail u) = some 0xFFF := by decide

theorem dirTxTailWrite_runs {s : State} {time : Nat} {init : Init} {u : Fin 2} {d : Word} (hacc : accepts s init (Reg.ulTxTail u) true = true) :
    Runs (.dirTxTailWrite time init u d) s fun t =>
      t.fld (Reg.ulTxTail u) 0 12 = d.toNat % 4096 ∧ t.ul = s.ul ∧ t.dram = s.dram ∧
      ∀ a, a ≠ Reg.ulTxTail u → noteReg a = false → t.reg a = s.reg a := by
  refine runs_of_busWrite rfl hacc fun w hw => ?_
  have hmask := plainMask_ulTxTail u
  have hbare : (plainWrite w (Reg.ulTxTail u) d).bare = w.bare := by rw [plainWrite_of_plainMask hmask]; rfl
  have hfin := finish_aside s (plainWrite w (Reg.ulTxTail u) d)
  have hall := hfin.bare.trans (hbare.trans hw.bare)
  refine ⟨?_, congrArg (·.ul) hall, congrArg (·.dram) hall, fun a ha hn => ?_⟩
  · rw [fld_of_reg (hfin.regs (Reg.ulTxTail u) (noteReg_of_inWired (inWired_ulReg u (by decide)))), fld_plainWrite_same hmask]
    · rfl
    · decide
  · rw [hfin.regs a hn, reg_plainWrite_ne hmask _ _ ha, hw.regs a hn]
    rfl

/-! ### DIR_TX_FETCH (R365, R366) -/

section
variable (s : State) (time : Nat) (r : Ring)

theorem descWord_at (i k : Nat) : descWord (s.at time) r i k = descWord s r i k := rfl

theorem descOwned_at (i : Nat) : descOwned (s.at time) r i = descOwned s r i := rfl

theorem frameDescs_at (n : Nat) : ∀ i, frameDescs (s.at time) r n i = frameDescs s r n i := by
  induction n with
  | zero => exact fun _ => rfl
  | succ n ih =>
    intro i
    simp only [frameDescs, descWord_at, descOwned_at, ih]

/-- What a fetch finds does not depend on the time. -/
theorem txFetch_at (cpu : Bool) (limit : Nat) (err : Bool) : txFetch (s.at time) r cpu limit err = txFetch s r cpu limit err := by
  rw [txFetch, frameDescs_at]
  rfl

end

section
variable {s : State} {u : Fin 2} {status n : Nat}

theorem txBackAll_wiredKept : WiredKept s (txBackAll s (ulTxRing s u) status n) :=
  (WiredKept.refl s).txBackAll (show 5 < 8 by decide) (show 5 ≠ 0 by decide) _ _

/-- A frame of the ring written back: HEAD moves past its descriptors. -/
theorem txHead_dirBack : (dirBack s u status n).regN (Reg.ulTxHead u) =
    (s.fld (Reg.ulTxHead u) 0 12 + n) % max 1 (s.fld (Reg.ulTxRingSize u) 0 13) := by
  have hsize : s.fld (Reg.ulTxRingSize u) 0 13 < 2 ^ 13 := nbits_lt _ 0 13
  rw [dirBack, regN_of_reg (reg_raise_ne _ _ _ ?_), regN_setNat_same]
  · refine Nat.mod_eq_of_lt (lt_of_lt_of_le (Nat.mod_lt _ (by omega)) ?_)
    show max 1 (s.fld (Reg.ulTxRingSize u) 0 13) ≤ _
    omega
  · exact ulReg_ne (by decide)

theorem bit_done_dirBack : (dirBack s u status n).bit (Reg.ulIrqRaw u) 10 = true := bit_raise_same _ _ _ (by decide)

/-- Beside HEAD and its interrupt a write-back leaves the uplink's registers. -/
theorem reg_dirBack_ne {a : Nat} (ha : inWired a) (hhead : a ≠ Reg.ulTxHead u) (hirq : a ≠ Reg.ulIrqRaw u) :
    (dirBack s u status n).reg a = s.reg a :=
  (reg_raise_ne _ _ _ hirq).trans ((reg_setNat_ne _ _ _ hhead).trans (txBackAll_wiredKept.regs a ha))

theorem bit_irq_dirBack {i : Nat} (hi : i ≠ 10) : (dirBack s u status n).bit (Reg.ulIrqRaw u) i = s.bit (Reg.ulIrqRaw u) i := by
  rw [State.bit, dirBack, reg_raise_same, bitOf_putBit_ne _ _ hi, reg_setNat_ne _ _ _ ?_,
    txBackAll_wiredKept.regs (Reg.ulIrqRaw u) (inWired_ulReg u (by decide))]
  · rfl
  · exact ulReg_ne (by decide)

theorem ul_dirBack : (dirBack s u status n).ul = s.ul := txBackAll_wiredKept.ul

/-- A frame that fails a check: its fetch, its count and interrupt, and the write-back of its descriptors. -/
def dirDropped (s : State) (u : Nat) (l : List Nat) (status cnt irq : Nat) : State :=
  dirBack (((fetchUse s (ulTxRing s u) l (decide (status = 0) || decide (status = 8))).inc cnt).raise (Reg.ulIrqRaw u) irq) u status l.length

end

section
variable {s : State} {time : Nat} {u : Fin 2} {err : Bool} {r : List Nat × Nat × DirFrame}

section
variable {l : List Nat} {cnt irq : Nat}

theorem fetchUse_wiredKept (l : List Nat) (bufs : Bool) : WiredKept s (fetchUse s (ulTxRing s u) l bufs) :=
  (WiredKept.refl s).fetchUse (show 5 < 8 by decide) (show 5 ≠ 0 by decide) _ _

theorem ul_dirDropped (status : Nat) : (dirDropped s u l status cnt irq).ul = s.ul := by
  rw [dirDropped, ul_dirBack]
  exact (fetchUse_wiredKept l _).ul

theorem bit_irq_dirDropped (status : Nat) (hi : irq < 10) : (dirDropped s u l status cnt irq).bit (Reg.ulIrqRaw u) irq = true := by
  rw [dirDropped, bit_irq_dirBack (by omega), bit_raise_same _ _ _ (by omega)]

variable {o : Nat} (hhead : o ≠ 0x41200410)
include hhead

theorem regN_cnt_dirDropped (ho : 0x41200000 ≤ o ∧ o < 0x41210000) (hirq : o ≠ 0x41200060) (status : Nat) :
    (dirDropped s u l status (o + u * 0x10000) irq).regN (o + u * 0x10000) =
    min (s.regN (o + u * 0x10000) + 1) 0xFFFFFFFF := by
  have hw : inWired (o + u * 0x10000) := inWired_ulReg u ho
  rw [dirDropped, regN_of_reg (reg_dirBack_ne hw (ulReg_ne hhead) (ulReg_ne hirq)), regN_of_reg (reg_raise_ne _ _ _ ?_), inc_regN_same,
    (fetchUse_wiredKept l _).regN hw]
  exact ulReg_ne hirq

theorem txHead_dirDropped (hsize : o ≠ 0x41200408) (status : Nat) : (dirDropped s u l status (o + u * 0x10000) irq).regN (Reg.ulTxHead u) =
    (s.fld (Reg.ulTxHead u) 0 12 + l.length) % max 1 (s.fld (Reg.ulTxRingSize u) 0 13) := by
  have hkept : ∀ a, inWired a → a ≠ o + u * 0x10000 → a ≠ Reg.ulIrqRaw u →
      (((fetchUse s (ulTxRing s u) l (decide (status = 0) || decide (status = 8))).inc (o + u * 0x10000)).raise (Reg.ulIrqRaw u) irq).reg a =
        s.reg a := fun a ha hcnt hraw =>
    (reg_raise_ne _ _ _ hraw).trans ((reg_inc_ne _ _ hcnt).trans ((fetchUse_wiredKept l _).regs a ha))
  rw [dirDropped, txHead_dirBack, fld_of_reg (hkept (Reg.ulTxHead u) (inWired_ulReg u (by decide)) (ulReg_ne hhead.symm) (ulReg_ne (by decide))),
    fld_of_reg (hkept (Reg.ulTxRingSize u) (inWired_ulReg u (by decide)) (ulReg_ne hsize.symm) (ulReg_ne (by decide)))]

end

variable (hfetch : txFetch s (ulTxRing s u) false (maxLen s (64 + u)) err = some r) (hup : islUp s 19 = true)
  (hen : s.bit (Reg.ulDirCtrl u) 0 = true) (hidle : (s.uplink u).dir = none)
include hfetch hup hen hidle

theorem exec_dirTxFetch : exec (.dirTxFetch time u err) s = done s
    (if r.2.1 = 0 then (fetchUse (s.at time) (ulTxRing s u) r.1 (decide (r.2.1 = 0) || decide (r.2.1 = 8))).setUplink u
      { (fetchUse (s.at time) (ulTxRing s u) r.1 (decide (r.2.1 = 0) || decide (r.2.1 = 8))).uplink u with dir := some r.2.2 }
    else if r.2.1 = 8 then dirDropped (s.at time) u r.1 r.2.1 (Reg.ulDmaErr u) 7
    else dirDropped (s.at time) u r.1 r.2.1 (Reg.ulDescErr u) 6) := by
  have hgo : ¬(islUp (s.at time) 19 = false ∨ (s.at time).bit (Reg.ulDirCtrl u) 0 = false ∨ ((s.at time).uplink u).dir.isSome = true) := by
    show ¬(islUp s 19 = false ∨ s.bit (Reg.ulDirCtrl u) 0 = false ∨ (s.uplink u).dir.isSome = true)
    simp [hup, hen, hidle]
  have hsame : txFetch (s.at time) (ulTxRing (s.at time) u) false (maxLen (s.at time) (64 + u)) err = some r :=
    (txFetch_at s time _ _ _ _).trans hfetch
  obtain ⟨l, st, d⟩ := r
  refine (congrArg (done s) (if_neg hgo)).trans ?_
  rw [hsame]
  rfl

theorem dirTxFetch_kept (hst : r.2.1 = 0) : Runs (.dirTxFetch time u err) s fun t =>
    (t.uplink u).dir = some r.2.2 ∧ t.reg (Reg.ulTxHead u) = s.reg (Reg.ulTxHead u) := by
  refine runs_of_wired ((exec_dirTxFetch hfetch hup hen hidle).trans (congrArg (done s) (if_pos hst))) fun v hv => ?_
  rw [hv.uplink, uplink_setUplink_same]
  refine ⟨rfl, (hv.regs _ (inWired_ulReg u (by decide))).trans ?_⟩
  exact (fetchUse_wiredKept (s := s.at time) r.1 _).regs _ (inWired_ulReg u (by decide))

theorem dirTxFetch_dmaErr (hst : r.2.1 = 8) : Runs (.dirTxFetch time u err) s fun t =>
    (t.uplink u).dir = none ∧ t.bit (Reg.ulIrqRaw u) 10 = true ∧
    t.regN (Reg.ulTxHead u) = (s.fld (Reg.ulTxHead u) 0 12 + r.1.length) % max 1 (s.fld (Reg.ulTxRingSize u) 0 13) ∧
    t.regN (Reg.ulDmaErr u) = min (s.regN (Reg.ulDmaErr u) + 1) 0xFFFFFFFF ∧ t.bit (Reg.ulIrqRaw u) 7 = true := by
  have h0 : r.2.1 ≠ 0 := fun h => absurd (hst.symm.trans h) (by decide)
  refine runs_of_wired ((exec_dirTxFetch hfetch hup hen hidle).trans (congrArg (done s) ((if_neg h0).trans (if_pos hst)))) fun v hv => ?_
  have hirq : inWired (Reg.ulIrqRaw u) := inWired_ulReg u (by decide)
  have hul : v.uplink u = s.uplink u := by rw [State.uplink, hv.ul, ul_dirDropped]; rfl
  refine ⟨(congrArg (·.dir) hul).trans hidle, (hv.bit hirq 10).trans bit_done_dirBack, ?_, ?_,
    (hv.bit hirq 7).trans (bit_irq_dirDropped _ (by decide))⟩
  · exact (hv.regN (inWired_ulReg u (by decide))).trans (txHead_dirDropped (by decide) (by decide) _)
  · exact (hv.regN (inWired_ulReg u (by decide))).trans (regN_cnt_dirDropped (by decide) (by decide) (by decide) _)

theorem dirTxFetch_descErr (h0 : r.2.1 ≠ 0) (h8 : r.2.1 ≠ 8) : Runs (.dirTxFetch time u err) s fun t =>
    (t.uplink u).dir = none ∧ t.bit (Reg.ulIrqRaw u) 10 = true ∧
    t.regN (Reg.ulTxHead u) = (s.fld (Reg.ulTxHead u) 0 12 + r.1.length) % max 1 (s.fld (Reg.ulTxRingSize u) 0 13) ∧
    t.regN (Reg.ulDescErr u) = min (s.regN (Reg.ulDescErr u) + 1) 0xFFFFFFFF ∧ t.bit (Reg.ulIrqRaw u) 6 = true := by
  refine runs_of_wired ((exec_dirTxFetch hfetch hup hen hidle).trans (congrArg (done s) ((if_neg h0).trans (if_neg h8)))) fun v hv => ?_
  have hirq : inWired (Reg.ulIrqRaw u) := inWired_ulReg u (by decide)
  have hul : v.uplink u = s.uplink u := by rw [State.uplink, hv.ul, ul_dirDropped]; rfl
  refine ⟨(congrArg (·.dir) hul).trans hidle, (hv.bit hirq 10).trans bit_done_dirBack, ?_, ?_,
    (hv.bit hirq 6).trans (bit_irq_dirDropped _ (by decide))⟩
  · exact (hv.regN (inWired_ulReg u (by decide))).trans (txHead_dirDropped (by decide) (by decide) _)
  · exact (hv.regN (inWired_ulReg u (by decide))).trans (regN_cnt_dirDropped (by decide) (by decide) (by decide) _)

end

/-! ### The statement -/

/-- Settles O44: each clause is what one branch of its command leaves of the uplink; the fetch's traffic and write-backs touch no
register of the wired ports. -/
theorem uplinksLinkSecureAndFetch : Obligations.UplinksLinkSecureAndFetch := by
  unfold Obligations.UplinksLinkSecureAndFetch
  refine ⟨fun s time u hpow => ⟨?_, ?_, fun up v => ⟨?_, ?_⟩⟩,
    fun s time init u hacc => ⟨fun hinst => ⟨?_, ?_⟩, fun hrem => ⟨?_, ?_, ?_⟩⟩,
    fun s time init u d => ?_, fun s time u err r hfetch hup hen hidle => ⟨?_, ?_, ?_⟩⟩
  · exact fun c lost => uplinkLinkDown_runs hpow
  · exact uplinkLinkUp_runs hpow
  · exact sgmiiLinkWord_sgmii hpow
  · exact sgmiiLinkWord_other
  · exact secSaInstall_tx hacc hinst
  · exact secSaInstall_rx hacc hinst
  · exact secSaRemove_rx hacc hrem
  · exact secSaRemove_tx hacc hrem
  · exact secSaRemove_inUse hacc hrem
  · exact dirTxTailWrite_runs
  · exact dirTxFetch_kept hfetch hup hen hidle
  · exact dirTxFetch_dmaErr hfetch hup hen hidle
  · exact dirTxFetch_descErr hfetch hup hen hidle

end Sys2Proof.Machine
end

section
/-! The stall ports and uplinks family: a frame's end at a stall port whose octet holds a word for a port it does not have (O42; R347, R537). -/

namespace Sys2Proof.Machine

/-- The frame that stall port 0 sends: its end word has come, and no byte of it is left. -/
def emptyFrame : TxFrame := { whole := true }

/-- Octet 0 is up, and a packet's second word waits in its egress pound PD8. The port of that packet, which is kept from its first word, is
262130 and not below 8 as every first word leaves it, and a frame of that number waits for a word. Its words come out of pound 262084, whose
register PND_TOT lies at the address of TX_FRAMES of stall port 0. -/
def strayWord : State :=
  let up := { State.reset.setReg (Reg.topIslStat 11) 5 with dt := 1000000, spoSub := bankSet (fun _ => 0) [] 0 262130 }
  let word : PWord := { data := [0], last := true, abort := false, first := false, info := {} }
  let fed := (up.setPound 8 { ready := [word] }).setPound 262084 { ready := [word] }
  (fed.setMac 0 { tx := some emptyFrame }).setMac 262130 { tx := some {} }

/-- The one frame that ends at stall port 0 counts there, and so does the word that the octet moves on after it. -/
theorem macTxEnd_strayWord : Runs (.macTxEnd 0 0 0) strayWord fun t =>
    t.pair (Reg.spTxFramesLo 0) = (strayWord.pair (Reg.spTxFramesLo 0) + 2) % 2 ^ 48 :=
  ⟨_, rfl, by decide +kernel⟩

/-- Refutes O42: its clause on MAC_TX_END speaks of every state, and in `strayWord` an octet names a port that it does not have as the
port of the packet in its pound, which no run of the device leaves there: one frame ends, but TX_FRAMES goes on by two. -/
theorem not_portsReceiveAndSendFrames : ¬ Obligations.PortsReceiveAndSendFrames := by
  unfold Obligations.PortsReceiveAndSendFrames
  rintro ⟨-, -, hend⟩
  have hclauses := (hend strayWord 0 0 emptyFrame (by decide +kernel) (by decide +kernel) rfl).1 0 rfl rfl (by decide +kernel)
  obtain ⟨t, htwo, -, -, hone, -⟩ := macTxEnd_strayWord.both (hclauses.1 rfl)
  have hzero : strayWord.pair (Reg.spTxFramesLo 0) = 0 := by decide +kernel
  have hcount : t.pair (Reg.spTxFramesLo 0) = (strayWord.pair (Reg.spTxFramesLo 0) + 1) % 2 ^ 48 := hone
  rw [hzero] at htwo hcount
  exact absurd (htwo.symm.trans hcount) (by decide)

end Sys2Proof.Machine
end
